-- ==== Sys2Proof/Word.lean ====
section
/-! DEFINITION. The words of the KM880 model: bytes, registers and sparse byte memories (R9, R124, R133, R140). -/

namespace Sys2Proof

/-- One byte (R9). -/
abbrev Byte := BitVec 8
/-- A 32-bit register or FP32 code (R433, R97). -/
abbrev Word := BitVec 32
/-- A 64-bit register (R431). -/
abbrev DWord := BitVec 64
/-- A sparse byte memory: (address, byte) pairs, addresses strictly rising, no byte equal to what an
unlisted address reads as (0). -/
abbrev Memory := List Host.Cell

end Sys2Proof
end

