-- ==== Sys2Proof/Syntax.lean ====
section
/-! DEFINITION. The commands of the KM880: one constructor of `Instr` per row of spec/opcode_table.json, with the
operands that come from outside the part. Ring numbers, ports and counts are plain numbers; register and packet
contents are bit vectors. -/

namespace Sys2Proof

/-- Engines that run steps (R42, Table 3.6). -/
inductive Engine where
  | wre | gxe | dpp | qoe
  deriving DecidableEq, Repr

/-- Units of Table 3.6 and Table 13.2. -/
inductive UnitId where
  | mxc (c : Fin 8) | eng (e : Engine) | cfe (i : Fin 2) | lpe | emt
  | ckc | hub | sb | dmc | cpx | mss | sec | tmb
  deriving DecidableEq, Repr

/-- Commit units (R18): the step on a core, the step on an engine, the QM command. -/
inductive Cu where
  | core (c : Fin 8) | engine (e : Engine) | qm
  deriving DecidableEq, Repr

/-- The result streams of Table 9.1. -/
inductive Stream where
  | tile | object | verdict
  deriving DecidableEq, Repr

/-- What a detector reports with a failed check (R329, Table 13.3). -/
structure FailReport where
  detector : Nat
  unit     : UnitId
  subunit  : Nat
  cls      : Nat
  address  : Nat
  detail   : Word
  deriving DecidableEq, Repr

/-- State of a CSI packet header after its ECC (R197). -/
inductive HeaderEcc where
  | good | corrected | bad
  deriving DecidableEq, Repr

/-- One (port, virtual channel) that DISCOVER saw (Table 15.12). -/
structure SeenCamera where
  port : Nat
  vc : Nat
  types : Nat
  lanes : Nat
  laneMbps : Nat
  wordCount : Nat
  lines : Nat
  frames : Nat
  errors : Nat
  periodUs : Nat
  deriving DecidableEq, Repr

/-- What DISCOVER found outside the part (R382-R384). -/
structure Observation where
  i2cAcks   : List Nat
  cameras   : List SeenCamera
  lenStatus : List Nat
  lenRaw    : List Nat
  datagrams : List Nat
  matched   : List Nat
  partner   : List Nat
  deriving DecidableEq, Repr

/-- A repair found by a test: unit code, bank/segment/array, row or column, and whether it is a graft (R390). -/
structure Repair where
  unitCode : Nat
  sub      : Nat
  row      : Nat
  graft    : Bool
  column   : Bool
  deriving DecidableEq, Repr

/-- An unrepairable finding of a start or test (R394, R399) or an undetected injection (R349). -/
structure TestFail where
  detector : Nat
  unit     : UnitId
  subunit  : Nat
  address  : Nat
  detail   : Word
  deriving DecidableEq, Repr

/-- What a patrol scrub finds in a line (R140): `detail` is the fault record's word, of the failing DMC. -/
inductive Scrub where
  | clean | corrected | uncorrectable (dmc : Nat) (detail : Word)
  deriving DecidableEq, Repr

/-- What the endpoint meets on the PCIe link beside packets and BAR accesses: a read of a command ring that fails, or a poisoned
write to a BAR, each with the request header that AER logs (R251), or a write of the function's power state (R250). -/
inductive BusEvent where
  | fetch (ring : Nat) (header : BitVec 128)
  | poisoned (header : BitVec 128)
  | powerState (d3hot : Bool)
  deriving DecidableEq, Repr

/-- What a CKC lane puts on its bus (R299): the data of the transaction, and what it sampled of the input in a request for agreed
input (R302). -/
structure LaneWord where
  value  : Nat
  sample : Nat
  deriving DecidableEq, Repr

/-- A frame at an Ethernet port (R216): its bytes from the destination address to the FCS, and whether the LPE's input buffer has no
room for it (R224). -/
structure EthArrival where
  bytes : List Byte
  full  : Bool
  deriving DecidableEq, Repr

/-- An edge of a timing sentinel's flag (R24, R25): the sentinel's number within its unit, and whether the flag rises. -/
structure SentinelEdge where
  index  : Nat
  raised : Bool
  deriving DecidableEq, Repr

/-- What a memory port does about ECC: it writes a corrected word back (R127, R140), or a link-ECC write to a channel has failed with
its retry (R142). -/
inductive EccWrite where
  | corrected (u : UnitId) | failed (channel : Nat)
  deriving DecidableEq, Repr

/-- The ports whose link the sensor rows report (R203). -/
inductive SensorPort where
  | csi (p : Fin 8) | eth (p : Fin 4)
  deriving DecidableEq, Repr

/-- The commands, in the order of the table. -/
inductive Instr where
  -- host protocol (chapters 3, 8, 10, 11, 14, 16, 17)
  | doorbell (page offset width : Nat) (value : Option DWord)
  | packetFetch (ring : Nat) (pkt : BitVec 512)
  | readError (e : BusEvent)
  | hello (ring : Nat)
  | queryCaps (ring : Nat)
  | openClient (ring : Nat)
  | closeClient (ring : Nat)
  | createRing (ring : Nat)
  | destroyRing (ring : Nat)
  | loadContract (ring : Nat) (sigOk : Bool) (injFail : Option Nat)
  | armContract (ring : Nat)
  | launchAt (ring : Nat)
  | stopFrames (ring : Nat)
  | programAborted
  | submitJob (ring : Nat)
  | jobDispatch
  | runOp (ring : Nat) (streams : List (Nat × List (BitVec 128))) (banks segs : List Nat)
  | endJob (ring : Nat)
  | kill (ring : Nat) (late : Bool)
  | setCapacity (ring : Nat)
  | seqJoin (ring : Nat)
  | seqLeave (ring : Nat)
  | mapBuffer (ring : Nat)
  | unmapBuffer (ring : Nat)
  | camera (ring : Nat)
  | camParams (ring : Nat)
  | lidar (ring : Nat)
  | motion (ring : Nat)
  | cci (ring : Nat)
  | disable (ring : Nat)
  | fsyncSchedule (ring : Nat)
  | timeConfig (ring : Nat)
  | timeAcceptStep (ring : Nat)
  | logRead (ring : Nat)
  | logClear (ring : Nat) (auth : List Byte) (sigOk : Bool)
  | statsRead (ring : Nat)
  | updateBegin (ring : Nat)
  | updateData (ring : Nat) (src : List Byte)
  | updateCommit (ring : Nat) (sigOk : Bool)
  | imageAreaWrite (mismatches : Nat)
  | recoverySelfReset
  | attest (ring : Nat)
  | authChallenge (ring : Nat)
  | challengeExpiry (purpose : Fin 4)
  | prepareOff (ring : Nat)
  | offReady (repairs : List Repair) (unrepaired : Option TestFail)
  | diagRun (ring : Nat) (auth : List Byte) (sigOk : Bool)
  | flagClear (ring : Nat) (auth : List Byte) (sigOk : Bool)
  | checkerSplit (ring : Nat)
  | checkerJoin (ring : Nat)
  | discover (ring : Nat)
  -- sequencer instructions (chapter 4, 6)
  | halt (core : Fin 8) (w : BitVec 128)
  | loadw (core : Fin 8) (w : BitVec 128)
  | mma (core : Fin 8) (w : BitVec 128)
  | conv (core : Fin 8) (w : BitVec 128)
  | drain (core : Fin 8) (w : BitVec 128)
  | vop (core : Fin 8) (w : BitVec 128)
  | scalar (core : Fin 8) (w : BitVec 128)
  | segEnd (core : Fin 8)
  | fcvtBf16S (core : Fin 8) (rd rs : Fin 32)
  | fcvtSBf16 (core : Fin 8) (rd rs : Fin 32)
  | fcvtE4m3S (core : Fin 8) (rd rs : Fin 32)
  | fcvtSE4m3 (core : Fin 8) (rd rs : Fin 32)
  | dmaIn (core : Fin 8) (w : BitVec 128)
  | dmaOut (core : Fin 8) (w : BitVec 128)
  | gather (core : Fin 8) (w : BitVec 128)
  | gatherDescriptor
  | wait (core : Fin 8) (w : BitVec 128)
  | waitSatisfied (core : Fin 8)
  | post (core : Fin 8) (w : BitVec 128)
  | golden (core : Fin 8) (w : BitVec 128)
  | coppice (core : Fin 8) (w : BitVec 128) (digestOk : Bool) (signature : Option DWord) (restoreFail : Bool)
  | commit (u : Cu) (waves frameWaves : List Int)
  | replay (u : Cu) (report : Option FailReport)
  | drainComplete
  -- operator records (chapter 7): the unit that runs the record and its device address
  | conv2d (u : Cu) (rec : Nat)
  | dwconv2d (u : Cu) (rec : Nat)
  | pool (u : Cu) (rec : Nat)
  | pad (u : Cu) (rec : Nat)
  | matmul (u : Cu) (rec : Nat)
  | eltwise (u : Cu) (rec : Nat)
  | activation (u : Cu) (rec : Nat)
  | layerNorm (u : Cu) (rec : Nat)
  | softmax (u : Cu) (rec : Nat)
  | layoutConvert (u : Cu) (rec : Nat)
  | attention (u : Cu) (rec : Nat)
  | ssmScan (u : Cu) (rec : Nat)
  | embedGather (u : Cu) (rec : Nat)
  | resize (u : Cu) (rec : Nat)
  | gridSample (u : Cu) (rec : Nat)
  | undistort (u : Cu) (rec : Nat)
  | bevProject (u : Cu) (rec : Nat)
  | boxDecode (u : Cu) (rec : Nat)
  | topk (u : Cu) (rec : Nat)
  | nms (u : Cu) (rec : Nat)
  | quantise (u : Cu) (rec : Nat)
  | dequantise (u : Cu) (rec : Nat)
  | amax (u : Cu) (rec : Nat)
  | loss (u : Cu) (rec : Nat)
  | ssmScanBwd (u : Cu) (rec : Nat)
  | gradNorm (u : Cu) (rec : Nat)
  | optAdamw (u : Cu) (rec : Nat)
  | optSgd (u : Cu) (rec : Nat)
  -- frames, emission and the checker (chapters 9, 11, 12, 14)
  | launch
  | preemptionKillToken
  | slotOpen
  | recordDelivery (st : Stream)
  | verdictDeadline
  | frameTrailer
  | tileRecordCheck (arrived : Option (List Byte))
  | bandVerdict
  | frameVerdict
  | voterTransaction (lane : Fin 3) (kind addr : Nat) (data : LaneWord) (t : Nat) (eccFail : Bool)
  | oddLaneTimeout (lane : Fin 3)
  | resyncCopyComplete
  | bandBoundary
  | laneSelftest (pass : Bool)
  | ckcAlive
  | nop (clocks : Nat) (frame : BitVec 256)
  | release (clocks : Nat) (frame : BitVec 256)
  | forceSafe (clocks : Nat) (frame : BitVec 256)
  | spiRequestDiscarded (clocks : Nat) (frame : BitVec 256)
  -- sensors (chapter 8)
  | frameStart (port : Fin 8) (vc : Fin 16) (t : Nat)
  | longPacket (port : Fin 8) (vc : Fin 16) (dataType : Nat) (ecc : HeaderEcc) (crcOk : Bool) (payload : List Byte)
  | frameEnd (port : Fin 8) (vc : Fin 16) (t : Nat)
  | testFrameComplete (cam : Fin 24) (ecc : Option Nat) (measured : Option Word)
  | lidarDatagram (port : Fin 4) (frame : EthArrival) (t : Nat)
  | lidarWindowCommit (lid : Fin 8) (ecc : Option Nat)
  | i2cClockStretchTimeout (ctl : Fin 4) (done : Nat) (reads : List Word)
  -- time (chapter 14)
  | sync (sourceNs : Int) (freq : Int) (t : Nat)
  | announce (master : DWord)
  | pdelayReq (t : Nat)
  | pdelayReqInitiate
  | pdelayResp (delayNs : Nat) (ratioPpb : Int) (t : Nat)
  | holdoverTimeout
  | holdover
  | ppsIn (freq : Int) (t : Nat)
  | ppsOutPlacement
  | ppsOut
  | fsyncPlacement (out : Fin 8)
  | fsyncEdge (out : Fin 8)
  -- power (chapters 2, 6, 15)
  | domainOff (domain : Nat)
  | domainOn (domain : Nat)
  | rateTarget (rate : Nat)
  | park
  | powerGateOpen (domain : Nat)
  | domainSwitchComplete (domain : Nat)
  | rateMonitorWindow (rates : List Nat)
  | sentinelFlag (u : UnitId) (raised : SentinelEdge)
  | emtMarginExpiry
  | belowFloor (u : UnitId)
  | supplyLoopEvaluation (readMv : Option Nat) (alert : Bool)
  | avsbusTimeout
  | monitorSample (tj : List Int) (supply : List Nat)
  | thermalCapStep
  | thermalTrip
  | mr4Read (hottest : Nat) (channel : Nat) (hot : Bool)
  | patrolScrub (addr : Nat) (found : Scrub)
  | eccWriteBack (u : EccWrite)
  | coppiceSlice (digestOk : Bool) (signature : Option DWord) (restoreFail : Bool)
  -- resets and pins (chapters 10, 16, 17, 19)
  | rstNAssert
  | rstNRelease (bootMode : BitVec 2) (imageSigOk : Bool)
  | perstNAssert
  | perstNRelease
  | functionLevelReset
  | pwrfailNAssert (step : Nat)
  | ownerProvision (digest : BitVec 256)
  | dbgChallenge
  | dbgResponse (auth : List Byte) (sigOk : Bool)
  -- BAR0 and BAR4 (chapters 10, 18)
  | bar4Access (offset : Nat) (write : Option (List Byte)) (size : Nat)
  | hifEventWrite (v : Word)
  | hifEventMaskWrite (v : Word)
  | hifBar4WindowWrite (v : DWord)
  | adminEnable (v : Word)
  | adminDisable (v : Word)
  | take
  | apply
  | regionApplyComplete
  | mssSafeReserveWrite (v : Word)
  | mssThermalCfgWrite (v : Word)
  | mssEventRateWrite (idx : Fin 2) (v : Word)
  | hifDoorbellErrorsRead
  | emtHostDropsRead
  | ckcCopyDropsRead
  | dbgStatusRead
  | pwrReqStatusRead
  | registerWrite (offset width : Nat) (value : DWord)
  -- recorder (chapter 17)
  | eventFlashWrite
  | sectorErase
  | opMark
  | periodicSnapshot
  | histogramTick
  | tokenRefill (code : Nat)
  -- completions and links
  | endOfStart (dense : Bool) (trainedRate : Nat) (retrained : Bool) (repairs : List Repair) (fail : Option TestFail)
  | discoverComplete (obs : Observation)
  | diagRunComplete (failing : List UnitId) (repairs : List Repair)
  | cciOperationComplete (ctl : Fin 4) (done : Nat) (reads : List Word)
  | lidarWindowOpen (lid : Fin 8)
  | flagRecordWritten
  | snapshotWriteComplete
  | pcieLinkDown
  | pcieLinkUp (speed width : Nat)
  | sensorLinkDown (p : SensorPort)
  | sensorLinkUp (p : SensorPort)
  deriving DecidableEq, Repr

end Sys2Proof
end

