-- ==== Sys2Proof/Decode.lean ====
section
/-! DEFINITION. Reading a command from the bits of the opcode table. No row of the table has bits: the commands come
from outside with their operands, so no word spells one. -/

namespace Sys2Proof

/-- The command that a word of the opcode table spells. -/
def decodeTableWord (_nbits _w : Nat) : Option Instr := none

end Sys2Proof
end

