-- ==== Sys2Proof/Machine/State.lean ====
section
/-! DEFINITION. The state of the KM880 as plain data: every register, ring, buffer, counter, mode and pin the manual
names, grouped by the block that owns it, and the queue of waiting commands. -/

namespace Sys2Proof.Machine

/-- Why a run stops with a fault. The manual gives every command of its table an effect, or none in the present
condition, so no command raises one (safe: nothing rests on it). -/
inductive Fault where
  deriving DecidableEq, Repr

/-- Why a command is refused. -/
inductive Refusal where
  /-- Raised by a dispatch arm whose command has no meaning yet; safe, since the machine stops there. -/
  | notModelled (mnemonic : String)
  deriving DecidableEq, Repr

/-! ### Host interface -/

/-- A status reply (Table 10.6). -/
structure Reply where
  opcode   : Nat
  status   : Nat
  detail   : Nat
  tag      : Word
  position : Nat
  waves    : Nat
  ns       : Nat
  result   : DWord
  deriving DecidableEq, Repr

/-- What the part sends over PCIe, in order (R249). -/
inductive HostPost where
  /-- A reply written to the entry of a completion ring at a host address. -/
  | reply (ring addr : Nat) (r : Reply)
  /-- A stream record written to the entry of a stream ring at a host address. -/
  | record (ring addr : Nat) (bytes : List Byte)
  /-- The index block of a ring (Table 10.4), at its host address. -/
  | indexBlock (ring addr devIndex : Nat) (error : Bool)
  /-- A block written to host memory. -/
  | block (addr : Nat) (bytes : List Byte)
  /-- An MSI-X message. -/
  | msix (vector : Nat)
  /-- Completion data of a host read. -/
  | readData (bytes : List Byte)
  /-- An error reported through AER, with the request header that its header log holds (R248, R251). -/
  | aer (header : BitVec 128)
  deriving DecidableEq, Repr

/-- HIF registers (Table 18.1), the MSI-X structures, the link and the posted traffic. -/
structure Hif where
  event          : Word
  eventMask      : Word
  doorbellErrors : Nat
  bar4Window     : DWord
  adminCmdBase   : DWord
  adminCplBase   : DWord
  adminEntries   : Word
  adminEnable    : Bool
  adminActive    : Bool
  configError    : Bool
  adminIrq       : Bool
  adminVector    : Nat
  adminCoalesce  : Nat
  heldWindow     : Option Word
  heldCmdBase    : Option Word
  heldCplBase    : Option Word
  msixTable      : Vector Word 256
  pba            : DWord
  linkUp         : Bool
  d3hot          : Bool
  linkSpeed      : Nat
  linkWidth      : Nat
  posted         : List HostPost
  deriving DecidableEq, Repr

/-- Ring kinds of Table 10.3. -/
inductive RingKind where
  | command | completion | tileStream | objectStream | verdictStream
  deriving DecidableEq, Repr

/-- A host ring's descriptor (Table 10.3). `head` is the consumer index, `tail` the producer index;
`sinceMsg` counts the entries since the last message (R255), `spans` the positions of its past jobs' packets, as (first, number)
(R272). -/
structure Ring where
  id       : Nat
  kind     : RingKind
  irq      : Bool
  error    : Bool
  client   : Nat
  entries  : Nat
  base     : DWord
  head     : Nat
  tail     : Nat
  link     : Nat
  vector   : Nat
  coalesce : Nat
  sinceMsg : Nat
  spans    : List (Nat × Nat)
  deriving DecidableEq, Repr

/-- Versions chosen by HELLO (R266). -/
structure Versions where
  proto    : Nat
  contract : Nat
  tile     : Nat
  deriving DecidableEq, Repr

/-- An open client with its counts (R295). -/
structure Client where
  id        : Nat
  versions  : Option Versions
  completed : Nat
  killed    : Nat
  deriving DecidableEq, Repr

/-- A fetched packet without a reply (R263). `cmdIdx` is its place within its job (R270), `started` the count at which
its command began. -/
structure Packet where
  ring    : Nat
  pos     : Nat
  bits    : BitVec 512
  cmdIdx  : Option Nat
  client  : Nat
  started : Option Nat
  deriving DecidableEq, Repr

/-- A lent buffer (R271). -/
structure Buffer where
  handle : Nat
  client : Nat
  addr   : Nat
  size   : Nat
  gen    : Option Nat
  deriving DecidableEq, Repr

/-- A batch pool (R290): occupants are (slot, SEQ_ID); `open_` the place of a packet of the boundary under way (R291). -/
structure Pool where
  base       : Nat
  slots      : Nat
  pages      : Nat
  occupants  : List (Nat × Word)
  boundaries : Nat
  open_      : Option Nat
  deriving DecidableEq, Repr

/-- Job states of Table 11.1 that a held job has. -/
inductive JobState where
  | opened | eligible | running
  deriving DecidableEq, Repr

/-- A job (R270, Table 11.1). `cmds` are its packets without replies, in ring order, END_JOB
included; `fetched` counts the packets after SUBMIT_JOB; `visible` are the buffers lent at the dispatch of the command
now running or pre-empted (R271); `breaks` the places of its packets outside batch boundaries (R291); `since` the count at which
it became eligible (R279). -/
structure Job where
  ring     : Nat
  client   : Nat
  state    : JobState
  submit   : Packet
  cache    : Bool
  aperture : Nat
  cmds     : List Packet
  fetched  : Nat
  breaks   : List Nat
  ended    : Bool
  since    : Nat
  visible  : List Nat
  okCount  : Nat
  badCount : Nat
  banks    : List Nat
  segs     : List Nat
  pool     : Option Pool
  joined   : Bool
  preempts : Nat
  killed   : Bool
  deriving DecidableEq, Repr

/-- A kill token on its way to the running command (R272). -/
structure KillToken where
  killer : Packet
  scope1 : Bool
  deriving DecidableEq, Repr

/-! ### Commit units -/

/-- Where a byte lives. -/
inductive Space where
  | dram | sb | spad (c : Fin 8) | ckc
  deriving DecidableEq, Repr

/-- One provisional byte (R18). -/
structure JWrite where
  space : Space
  addr  : Nat
  byte  : Byte
  deriving DecidableEq, Repr

/-- QRPT totals of one OUT_REC within a commit unit (R115), with its Q_NEXT (R110); `used` says that a drain has quantised with it. -/
structure RecTotals where
  space : Space
  addr  : Nat
  qNext : Word
  used  : Bool
  amax  : Word
  sats  : Nat
  unders : Nat
  nonZeros : Nat
  elements : Nat
  retryable : Bool
  deriving DecidableEq, Repr

/-- What a fault record holds of the detection instant (Table 13.3): the vehicle time, the TMB count, and the samples of the unit. -/
structure Seen where
  vtime : Int
  count : Nat
  tj    : Int
  vdd   : Nat
  ldo   : Nat
  rate  : Nat
  deriving DecidableEq, Repr

/-- One run of a commit unit. `waiting` holds the WAITs not yet satisfied, as (core, semaphore, count); `acquired` what
was taken from the semaphores; `credits` are the Pleach credits out; `waves0` what the rate monitors had counted at its start (R35);
`seen` and `firstSeen` belong to `failed` and `firstFail`.
It has its identity, its provisional effects and its checks (R18, R70, R332). -/
structure Run where
  active     : Bool
  kind       : Nat
  ident      : Nat
  started    : Nat
  waves0     : List Nat
  done       : Bool
  journal    : List JWrite
  posts      : List (Nat × Nat)
  acquired   : List (Nat × Nat)
  credits    : List Nat
  waiting    : List (Nat × Nat × Nat)
  hostWrites : List (Nat × List Byte)
  flushes    : List (Nat × Nat × Nat)
  status     : Option Nat
  failed     : Option FailReport
  seen       : Option Seen
  fails      : Nat
  failUnits  : List FailReport
  hwFails    : Nat
  firstFail  : Option FailReport
  firstSeen  : Option Seen
  firstFails : Nat
  retry      : Bool
  qRetry     : List (Space × Nat × Word)
  recs       : List RecTotals
  totSats    : Nat
  totUnders  : Nat
  gens       : List (Nat × DWord)
  genReplay  : Bool
  mmaOrd     : Nat
  vopOrd     : Nat
  qoeOrd     : Nat
  golden     : Option (Nat × Nat)
  deriving DecidableEq, Repr

/-- The idle run. -/
def Run.idle : Run :=
  { active := false, kind := 0, ident := 0, started := 0, waves0 := [], done := false, journal := [], posts := [], acquired := [], credits := [],
    waiting := [], hostWrites := [], flushes := [], status := none, failed := none, seen := none, fails := 0, failUnits := [],
    hwFails := 0, firstFail := none, firstSeen := none, firstFails := 0, retry := false, qRetry := [], recs := [], totSats := 0,
    totUnders := 0, gens := [], genReplay := false, mmaOrd := 0, vopOrd := 0, qoeOrd := 0, golden := none }

/-- The QM command in flight: its packet, the core set it started with, its operator contract's streams by core (none: the
record's operator runs as one), the banks and segments it names, the ranges lent to its
client at its dispatch, and its run. -/
structure QmRun where
  pkt     : Packet
  cores   : BitVec 8
  streams : List (Nat × List (BitVec 128))
  banks   : List Nat
  segs    : List Nat
  lent    : List (Nat × Nat)
  run     : Run
  deriving DecidableEq, Repr

/-- An outstanding STOP_FRAMES (R276, R277). -/
structure StopReq where
  pkt   : Packet
  abort : Bool
  frame : Nat
  stopped : Bool
  deriving DecidableEq, Repr

/-- An outstanding SET_CAPACITY (R288): removals and additions still to come. -/
structure CapReq where
  pkt    : Packet
  target : BitVec 8
  deriving DecidableEq, Repr

/-- An outstanding UNMAP_BUFFER (R271): the commands it waits for. -/
structure UnmapReq where
  pkt    : Packet
  handle : Nat
  waits  : List (Nat × Nat)
  deriving DecidableEq, Repr

/-- A reply that waits for a free entry of its completion ring: one for which no entry was reserved (R260, R264). -/
structure OwedReply where
  pkt   : Packet
  reply : Reply
  deriving DecidableEq, Repr

/-- CPX: clients, the closed clients whose counts stand until their number is assigned again (R295), rings, buffers, fetched
packets, jobs and the QM command. -/
structure Cpx where
  clients    : List Client
  past       : List Client
  rings      : List Ring
  owed       : List OwedReply
  buffers    : List Buffer
  packets    : List Packet
  jobs       : List Job
  eligible   : List Nat
  qm         : Option QmRun
  kills      : List KillToken
  qmCores    : BitVec 8
  cap        : Option CapReq
  stop       : Option StopReq
  unmaps     : List UnmapReq
  windowOpen : Bool
  sliceDue   : Bool
  deriving DecidableEq, Repr

/-! ### Contracts and frame programs -/

/-- Header fields of Table 3.1 that the part uses after the checks. -/
structure CtrHeader where
  format     : Nat
  tileFormat : Nat
  floor      : Nat
  cadence    : Nat
  coreSet    : Nat
  frameCycle : Nat
  emitOffset : Nat
  gridW      : Nat
  gridH      : Nat
  cellSize   : Nat
  engineSet  : Nat
  stepCount  : Nat
  ringCount  : Nat
  semBase    : Nat
  semCount   : Nat
  imageSize  : Nat
  buildId    : DWord
  deriving DecidableEq, Repr

/-- A STEPS entry (Table 3.3). -/
structure StepEntry where
  id           : Nat
  unit         : Nat
  kind         : Nat
  tileCount    : Nat
  firstTile    : Nat
  streamOffset : Nat
  deriving DecidableEq, Repr

/-- A RINGS entry (Table 3.4). -/
structure RingEntry where
  kind         : Nat
  producer     : Nat
  consumer     : Nat
  cls          : Nat
  slotCount    : Nat
  deviceRing   : Nat
  slotSize     : Nat
  buffer       : Nat
  bufferOffset : Nat
  fills        : Nat
  deriving DecidableEq, Repr

/-- A BUFFERS entry (Table 3.5). -/
structure BufEntry where
  kind     : Nat
  location : Nat
  cls      : Nat
  access   : Nat
  owner    : Nat
  offset   : Nat
  size     : Nat
  init     : Nat
  deriving DecidableEq, Repr

/-- A GOLDEN entry (Table 3.10). -/
structure GoldenEntry where
  stepId      : Nat
  unit        : Nat
  inputOffset : Nat
  inputSize   : Nat
  spanFirst   : Nat
  spanCount   : Nat
  expected    : DWord
  deriving DecidableEq, Repr

/-- A record or descriptor of an engine program: its byte offset in the image, its length, and whether it ends a
step or the program (Table 7.1 FLAGS, Table 6.7 OP). -/
structure EngRecord where
  off    : Nat
  size   : Nat
  isStep : Bool
  isEnd  : Bool
  deriving DecidableEq, Repr

/-- The checker model's header fields (Table 12.5) that CKC uses. -/
structure CkcModel where
  off         : Nat
  inputs      : Nat
  resident    : Nat
  inputOff    : Nat
  lidarOff    : Nat
  netOff      : Nat
  projOff     : Nat
  coverOff    : Nat
  lateLimit   : Nat
  bandLimit   : Nat
  netLayers   : Nat
  frameBandLimit : Nat
  occFree     : Nat
  occOcc      : Nat
  obstMin     : Nat
  freeMin     : Nat
  ghostCells  : Nat
  priorMin    : Nat
  tempDelta   : Nat
  hMin        : Int
  hMax        : Int
  zGround     : Word
  zBand       : Word
  lidarSpan   : Nat
  tileEdge    : Word
  originX     : Word
  originY     : Word
  deriving DecidableEq, Repr

/-- What one step does to the contract's rings (R467): (ring position, slots filled), (ring position, slots released). -/
structure StepEdges where
  fills    : List (Nat × Nat)
  releases : List (Nat × Nat)
  deriving DecidableEq, Repr

/-- A contract that passed its load-time checks. `imageAddr` is where its copy lies, `ringBase` its ring-ID base (R65). -/
structure Contract where
  hdr       : CtrHeader
  imageAddr : Nat
  ringBase  : Nat
  steps     : List StepEntry
  rings     : List RingEntry
  buffers   : List BufEntry
  bounds    : List (Nat × Nat)
  golden    : List GoldenEntry
  coppice   : List (Nat × Nat)
  streams   : List (Nat × List (BitVec 128))
  programs  : List (Nat × List EngRecord)
  edges     : List StepEdges
  model     : CkcModel
  modelSize : Nat
  sigOff    : Nat
  digest    : BitVec 256
  modelDigest : BitVec 256
  deriving DecidableEq, Repr

/-- The state of one contract ring: full bits, next fill and next release (R45, R46, R467), and for an INGEST ring
the bound (slot, device address) (R49). -/
structure RingState where
  full     : List Bool
  nextFill : Nat
  nextRel  : Nat
  bound    : Option (Nat × Nat)
  deriving DecidableEq, Repr

/-- The frame program in progress or last run (R15, R35). -/
structure Prog where
  running   : Bool
  frame     : Nat
  launch    : Nat
  waves0    : List Nat
  committed : List Nat
  rings     : List RingState
  totals    : List (Nat × Nat × Nat)
  deriving DecidableEq, Repr

/-- A frame whose launch came while an earlier frame program ran (R17): its program starts at that program's last commit,
with the ingest slots bound at its own launch and what the rate monitors had counted then (R35); `staged` says that they were
bound for the staged contract. -/
structure LateStart where
  frame  : Nat
  launch : Nat
  waves0 : List Nat
  staged : Bool
  rings  : List RingState
  deriving DecidableEq, Repr

/-- A launch placed on TMB with its grid point in vehicle time (R365). -/
structure Placed where
  count : Nat
  vtime : Int
  deriving DecidableEq, Repr

/-- A grid that LAUNCH_AT put in place of the running one (R367): the vehicle time of the next unplaced launch. -/
structure Grid where
  next : Int
  deriving DecidableEq, Repr

/-- What R366 needs of a past launch: its count and the contract that ran it. -/
structure PastLaunch where
  count      : Nat
  emitOffset : Nat
  tiles      : Nat
  cadenceNs  : Nat
  deriving DecidableEq, Repr

/-- Contracts, the frame program and the launch schedule. -/
structure Ctr where
  armed      : Option Contract
  staged     : Option Contract
  armPending : Option Packet
  old        : Option Contract
  oldFrame   : Nat
  prog       : Prog
  lateStart  : List LateStart
  lastTotals : Nat × DWord × List (Nat × Nat × Nat)
  grid       : Option Grid
  placed     : Option Placed
  past       : List PastLaunch
  nextFrame  : Nat
  swapFrame  : Option Nat
  deriving DecidableEq, Repr

/-! ### Emission -/

/-- One launched frame on its way out of EMT (R230-R246). -/
structure EmitFrame where
  frame       : Nat
  launch      : Nat
  launchVt    : Int
  offset      : Nat
  cadNs       : Nat
  gridW       : Nat
  tiles       : Nat
  format      : Nat
  buildId     : DWord
  model       : CkcModel
  modelAddr   : Nat
  swap        : Bool
  hasObj      : Bool
  tileAt      : Space × Nat
  objAt       : Option (Space × Nat)
  nextSlot    : Nat
  owed        : List Nat
  lateTiles   : List Nat
  lateCommits : Nat
  degraded    : List Nat
  firstSeq    : Nat
  bandSeqs    : List Nat
  nextBand    : Nat
  bandInvalid : Nat
  objDone     : Bool
  objLate     : Bool
  objCount    : Nat
  objOwed     : Bool
  sensors     : List Word
  replays     : Nat
  hwBands     : List Nat
  hwFault     : Bool
  unreplayed  : Bool
  progDone    : Option (Nat × Nat)
  safeSeen    : Bool
  reasons     : Nat
  deriving DecidableEq, Repr

/-- One outbound stream of EMT (R228, R238, R239). -/
structure StreamSt where
  seq   : Nat
  crc   : Word
  queue : List (List Byte)
  tailPend : Nat
  deriving DecidableEq, Repr

/-- EMT. `full` holds the committed tiles as (parity, tile); `objFull` the committed object lists by parity; `owedAfter` what frames
whose trailers are out still owe, as (frame, tiles, object list) (R233, R241). -/
structure Emt where
  frames     : List EmitFrame
  full       : List (Nat × Nat)
  objFull    : List Nat
  owedAfter  : List (Nat × List Nat × Bool)
  tile       : StreamSt
  object     : StreamSt
  verdict    : StreamSt
  dropsTrailer : Nat
  dropsReg   : Nat
  tap        : List (Stream × List Byte)
  lastFrame  : Nat
  lastSlot   : Nat
  lastLate   : Nat
  lastLateCommits : Nat
  launchLast : Nat
  deriving DecidableEq, Repr

/-! ### Checker -/

/-- A motion record (R221) with its arrival order. -/
structure Motion where
  tValid : Int
  vx     : Word
  vy     : Word
  vz     : Word
  yaw    : Word
  order  : Nat
  deriving DecidableEq, Repr

/-- CKC modes (Table 12.3). -/
inductive CkcMode where
  | tmr | split | resync | halted
  deriving DecidableEq, Repr

/-- A transaction that a lane presented (R299); `sample` is what the lane sampled of the input, in a request for agreed input
(R302). -/
structure LaneTx where
  lane   : Nat
  kind   : Nat
  addr   : Nat
  data   : Nat
  sample : Nat
  time   : Nat
  deriving DecidableEq, Repr

/-- What a lane holds of its own (R297, R300): integer registers, pc and control and status registers by number, the commands its
array has taken, from which its weights and feeder follow, and the transactions it has presented. -/
structure Lane where
  x     : Vector Word 32
  pc    : Word
  csrs  : List (Nat × Word)
  array : List (Nat × Nat)
  count : Nat
  deriving DecidableEq, Repr

/-- An asynchronous input that waits for the lanes' agreement (Table 12.2, R302): a CSI frame start or end, a MOTION record as its
32-byte block, the launch time of a frame. -/
inductive CkcInput where
  | frameEvent (port vc : Nat) (isEnd : Bool) (count : Nat)
  | motion (block : Nat)
  | launch (frame count : Nat)
  deriving DecidableEq, Repr

/-- An agreement round under way (R302): its request and the samples, as (lane, value). -/
structure Round where
  addr    : Nat
  data    : Nat
  samples : List (Nat × Nat)
  deriving DecidableEq, Repr

/-- CKC's evidence for one frame (R310): per tile ground returns F, obstacle returns O and prior P, the failed sensors,
and the ego shift of C4 in tiles. -/
structure Evidence where
  ground : List Nat
  obst   : List Nat
  prior  : List (Option Nat)
  failed : Word
  patternFail : Bool
  shiftX : Int
  shiftY : Int
  deriving DecidableEq, Repr

/-- CKC's judgement in progress of one frame (R311-R313): `launch` is its launch time and `bound` the sensors with their bound slots'
STATUS; its evidence is formed once the lanes agree on the launch time (R302). -/
structure Judge where
  frame    : Nat
  launch   : Nat
  cycle    : Nat
  slot     : Nat
  bound    : List (Nat × Nat)
  format   : Nat
  tiles    : Nat
  gridW    : Nat
  model    : CkcModel
  modelAddr : Nat
  mask     : List Nat
  reasons  : List (Nat × Nat)
  badCrc   : List Nat
  objBad   : Bool
  chainBad : Bool
  bandsIssued : Nat
  verdict  : Option (Bool × Nat)
  occMeans : List Nat
  hasPrev  : Bool
  evidence : Option Evidence
  deriving DecidableEq, Repr

/-- A lidar datagram in a CKC buffer (R218): its place in the circular buffer and its payload's length. -/
structure LidarCopy where
  slot    : Nat
  lidar   : Nat
  arrival : Nat
  off     : Nat
  len     : Nat
  deriving DecidableEq, Repr

/-- A thumbnail in a CKC buffer (R207): its dimensions. -/
structure Thumb where
  slot   : Nat
  cam    : Nat
  width  : Nat
  height : Nat
  deriving DecidableEq, Repr

/-- The checker cluster. `verdicts` are the voted verdict outputs that have not been issued, `statusUnit` what the lanes wrote to the
status unit, `agreed` the log of agreed inputs as (class, value), `motion` the latest agreed MOTION record (R299, R302). -/
structure Ckc where
  mode        : CkcMode
  lane        : Nat
  split       : Option (Packet × Nat)
  join        : Option Packet
  selfBusy    : Bool
  selfPassed  : Bool
  copyDone    : Bool
  copying     : Bool
  odd         : Vector Nat 3
  rejoined    : Vector (Option Nat) 3
  pres        : List LaneTx
  await       : List (LaneTx × Nat)
  completed   : List LaneTx
  lanes       : Vector Lane 3
  verdicts    : List Nat
  statusUnit  : List (Nat × Nat)
  inputs      : List CkcInput
  rounds      : List Round
  agreed      : List (Nat × Nat)
  motion      : Option Motion
  slotArmed   : Nat
  judges      : List Judge
  prevOcc     : List Nat
  expSeq      : Nat × Nat × Nat
  expCrc      : Word × Word × Word
  nextBad     : Bool
  copies      : List LidarCopy
  thumbs      : List Thumb
  copyDrops   : Nat
  bandAt      : Nat
  deriving DecidableEq, Repr

/-! ### Safe state and safety SPI -/

/-- The safe-state latch, the history and the safety SPI (chapter 12). -/
structure Saf where
  latched     : Bool
  cause       : Nat
  count       : Nat
  time        : Nat
  startup     : Bool
  relPending  : Bool
  relFrame    : Option Nat
  history     : List Nat
  histFrom    : Nat
  lastInvalid : Bool
  lastFrame   : Nat
  lastReasons : Nat
  lateLast    : Nat
  reqError    : Bool
  verError    : Bool
  rxErrors    : Nat
  ctrlAlive   : Nat
  prevAlive   : Option Nat
  alive       : Nat
  faultUnit   : Nat
  flagged     : Bool
  spiOut      : List Byte
  faultRecord : List Byte
  faultSeq    : Nat
  deriving DecidableEq, Repr

/-! ### Power -/

/-- Device states (Table 15.5). -/
inductive DevState where
  | boot | ready | running | draining | flagged | recovery | parked | shutdownTest | offReady
  deriving DecidableEq, Repr

/-- The rate loop of one monitored unit (R25, R26, R28, R31). Set points in microvolts. `flagged` has a bit for each of the unit's
timing sentinels (Table 2.1), `owed` says that a flag rose since the last window, `count` is what its monitor has counted over the
finished windows (R35), `noted` the stage of R31 taken for the windows below the floor counted now. -/
structure RateUnit where
  rate     : Nat
  ldo      : Nat
  flagged  : BitVec 96
  owed     : Bool
  flagClear : Option Nat
  inBand   : Nat
  settled  : Bool
  below    : Nat
  noted    : Nat
  count    : Nat
  deriving DecidableEq, Repr

/-- Power domains, requests, rate and supply loops, monitors. -/
structure Pwr where
  state      : DevState
  longStart  : Bool
  domains    : BitVec 64
  closing    : BitVec 64
  rising     : BitVec 64
  busy       : Option Nat
  done       : Bool
  status     : Nat
  ignored    : Nat
  hostRate   : Nat
  effective  : Nat
  cap        : Nat
  vdd        : Nat
  vddRead    : Nat
  lowSince   : Option Nat
  avsLast    : Nat
  mismatches : Nat
  alert      : Bool
  units      : Vector RateUnit 17
  emtMargin  : Bool
  tj         : Vector Int 32
  supply     : Vector Nat 24
  warnAbove  : Bool
  throttleAbove : Bool
  limitAbove : Bool
  tripSince  : Option Nat
  tripped    : Bool
  mr4Hot     : Option Nat
  mr4        : Nat
  lastSample : Nat
  wake       : Bool
  patrolled  : Nat
  deriving DecidableEq, Repr

/-! ### Management -/

/-- An applied region (R144, R413): `keyCount` is the apply count at which the entry was first applied. -/
structure Region where
  index    : Nat
  base     : Nat
  size     : Nat
  tag      : Nat
  encrypt  : Bool
  keyCount : Nat
  deriving DecidableEq, Repr

/-- A DISCOVER in progress (R382), with the PHY descriptor that it read (R383). -/
structure DiscoverReq where
  pkt      : Packet
  switched : BitVec 64
  desc     : Option (List Byte)
  deriving DecidableEq, Repr

/-- One copy of the flag record (Table 13.5). -/
structure FlagRecord where
  seq       : Nat
  flagged   : Bool
  unit      : Nat
  subunit   : Nat
  detector  : Nat
  powerCycle : Nat
  opSeconds : Nat
  diagPasses : Nat
  fault     : List Byte
  deriving DecidableEq, Repr

/-- MSS registers (Tables 18.12-18.14) and firmware commands in progress. -/
structure Mss where
  shadow     : Vector Word 16
  regions    : List Region
  applyBusy  : Option (Vector Word 16)
  errCode    : Nat
  errEntry   : Nat
  applies    : Nat
  reserve    : Nat
  reserveEff : Nat
  dataRate   : Nat
  usable     : Nat
  warn       : Nat
  throttle   : Nat
  thermalRejected : Bool
  phyAddr    : DWord
  heldPhy    : Option Word
  phySize    : Nat
  limits     : Vector Nat 8
  bootStep   : Nat
  bootLong   : Bool
  bootRecovery : Bool
  imageCheck : Nat
  scratch    : Vector Word 4
  fwVersion  : Nat
  fwDigest   : BitVec 256
  discover   : Option DiscoverReq
  diag       : Option Packet
  diagPassed : Bool
  prepare    : Option Packet
  shutStep   : Nat
  aborted    : Bool
  patternMode : Bool
  flagWrite  : Option FlagRecord
  flagClear  : Option Packet
  selfReset  : Option Nat
  deriving DecidableEq, Repr

/-- Owner-key slot (R405). -/
structure OwnerSlot where
  digest  : BitVec 256
  revoked : Bool
  deriving DecidableEq, Repr

/-- An outstanding challenge (Table 16.10). -/
structure Challenge where
  id        : Nat
  fwVersion : Nat
  issued    : Nat
  nonce     : BitVec 256
  deriving DecidableEq, Repr

/-- SEC, its fuses and the debug port. -/
structure Sec where
  orderQ10    : Bool
  slots       : Vector OwnerSlot 4
  rollback    : Nat
  challenges  : Vector (Option Challenge) 4
  nextId      : Nat
  keyZero     : Bool
  scanEnabled : Bool
  certValid   : Bool
  unlocked    : Bool
  lastRefused : Bool
  attempts    : Nat
  jtagOut     : List Byte
  deriving DecidableEq, Repr

/-- One repair record slot (Table 16.6). -/
structure RepairRecord where
  seq       : Nat
  source    : Nat
  powerCycle : Nat
  dataRate  : Nat
  memId     : BitVec 128
  repairs   : List Repair
  complete  : Bool
  deriving DecidableEq, Repr

/-- An update session (R401, R402): the 64-byte units of the image range that were written. -/
structure UpdateSession where
  size    : Nat
  version : Nat
  written : List Nat
  deriving DecidableEq, Repr

/-- An event record (Table 17.1). -/
structure EventRec where
  code       : Nat
  severity   : Nat
  unit       : Nat
  seq        : Nat
  opSeconds  : Nat
  powerCycle : Nat
  suppressed : Nat
  p0         : Word
  p1         : Word
  p2         : Word
  deriving DecidableEq, Repr

/-- External flash (Table 16.1). Areas are byte memories in which an unlisted byte is 0 of the image, pattern and
certificate contents; erased sectors are held as absent contents. -/
structure Flash where
  image      : Option Memory
  cert       : Option Memory
  flagA      : Option FlagRecord
  flagB      : Option FlagRecord
  repairA    : Option RepairRecord
  repairB    : Option RepairRecord
  memId      : BitVec 128
  powerCycle : Nat
  log        : List EventRec
  logPos     : Nat
  snapSeq    : Nat
  snapshots  : List (List Byte)
  faultRing  : List (List Byte)
  pattern    : Memory
  session    : Option UpdateSession
  commit     : Option Packet
  deriving DecidableEq, Repr

/-- A token bucket of one event code (R419). `since` is the count of its last refill, or of its first missing token. -/
structure Bucket where
  code       : Nat
  tokens     : Nat
  suppressed : Nat
  since      : Nat
  deriving DecidableEq, Repr

/-- An extreme with its times (Table 17.2). -/
structure Extreme where
  lo  : Int
  hi  : Int
  tLo : Nat
  tHi : Nat
  seen : Bool
  deriving DecidableEq, Repr

/-- The event recorder and the statistics (chapter 17), with the coppice rotation (R344). -/
structure Rec where
  nextSeq    : Nat
  queue      : List EventRec
  buckets    : List Bucket
  opSeconds  : Nat
  tjHist     : Vector (Vector Nat 32) 8
  vddHist    : Vector Nat 32
  rateHist   : Vector (Vector Nat 32) 8
  tjExt      : Vector Extreme 32
  supplyExt  : Vector Extreme 24
  rateExt    : Vector Extreme 17
  errors     : Vector (Vector Nat 8) 24
  faults     : List (List Byte)
  snapWrite  : Option (List Byte)
  snapAgain  : Option Nat
  ringQueue  : List (List Byte)
  erasing    : Bool
  lastMark   : Nat
  lastSnap   : Nat
  lastTick   : Nat
  rotation   : Nat
  rotStart   : Nat
  lastSlice  : Nat
  rotNext    : Nat
  sliceDone  : Vector Nat 12
  passed     : Nat
  coppiceStep : Option Nat
  patternNoted : Bool
  deriving DecidableEq, Repr

/-! ### Sensors -/

/-- Camera stage parameters (Table 8.8). -/
structure CamParams where
  bl      : List Nat
  wb      : List Nat
  ccm     : List Int
  ccOff   : List Int
  lut     : List Nat
  shading : List Nat
  tone    : List Nat
  deriving DecidableEq, Repr

/-- A device ring slot: committed header bytes' order of commit (0: never), bound flag, being written. -/
structure Slot where
  commitNo : Nat
  bound    : Nat
  writing  : Bool
  deriving DecidableEq, Repr

/-- A device ring (R199-R203). -/
structure DevRing where
  base     : Nat
  slotSize : Nat
  slots    : List Slot
  seq      : Nat
  drops    : Nat
  last     : Option Nat
  tStart   : Nat
  tEnd     : Nat
  status   : Nat
  absentBound : Nat
  deriving DecidableEq, Repr

/-- A camera frame being received (R197, R201). `lines` are the accepted pixel lines as codes. -/
structure CamFrame where
  slot      : Option Nat
  tStart    : Nat
  tEnd      : Nat
  ended     : Bool
  lines     : List (List Nat)
  repaired  : Nat
  lineNo    : Nat
  embSeen   : Nat
  embOk     : Option Bool
  counterBad : Bool
  syncLate  : Bool
  pattern   : Nat
  params    : CamParams
  deriving DecidableEq, Repr

/-- A configured camera (Table 8.7). -/
structure Camera where
  port        : Nat
  vc          : Nat
  dataType    : Nat
  lanes       : Nat
  laneMbps    : Nat
  i2c         : Nat
  cfa         : Nat
  x0          : Nat
  y0          : Nat
  w           : Nat
  h           : Nat
  lineTime    : Nat
  framePeriod : Nat
  stale       : Nat
  repairLimit : Nat
  levels      : Nat
  outFmt      : Nat
  layout      : Nat
  fsync       : Nat
  emb         : Nat
  embLine     : Nat
  syncWindow  : Nat
  offset      : Nat
  length      : Nat
  crcOffset   : Nat
  fcOffset    : Nat
  reference   : List Byte
  params      : CamParams
  nextParams  : Option CamParams
  ring        : DevRing
  frame       : Option CamFrame
  prevCounter : Option Nat
  deriving DecidableEq, Repr

/-- A field entry of a point record descriptor (R219). -/
structure FieldEntry where
  kind   : Nat
  scope  : Nat
  offset : Nat
  width  : Nat
  shift  : Nat
  bits   : Nat
  flags  : Nat
  scale  : Word
  bias   : Word
  deriving DecidableEq, Repr

/-- A point record descriptor (Table 8.5). -/
structure PointDesc where
  payloadMin  : Nat
  pointOffset : Nat
  pointStride : Nat
  pointCount  : Nat
  coord       : Nat
  timeSource  : Nat
  maxReturn   : Nat
  timeUnit    : Nat
  timeEpoch   : Int
  timeStep    : Nat
  fields      : List FieldEntry
  channels    : List (Word × Word)
  deriving DecidableEq, Repr

/-- A kept lidar point before de-skew (R220). -/
structure Point where
  x : Word
  y : Word
  z : Word
  intensity : Word
  time : Int
  deriving DecidableEq, Repr

/-- A lidar window being filled (R222). -/
structure Window where
  k       : Int
  slot    : Option Nat
  opened  : Bool
  points  : List Point
  lost    : Nat
  seqGap  : Bool
  first   : Option Nat
  lastPkt : Nat
  deriving DecidableEq, Repr

/-- A configured lidar (Table 8.9). -/
structure Lidar where
  port      : Nat
  ipVer     : Nat
  vid       : Nat
  udpPort   : Nat
  srcIp     : BitVec 128
  featFmt   : Nat
  period    : Nat
  lateness  : Nat
  phase     : Int
  stale     : Nat
  pointRate : Nat
  maxAge    : Nat
  minRange  : Word
  maxRange  : Word
  minIntensity : Word
  maxCells  : Nat
  extrinsic : List Word
  grid      : List Word
  nx        : Nat
  ny        : Nat
  nz        : Nat
  p         : Nat
  features  : List Nat
  featScale : List Word
  desc      : PointDesc
  ring      : DevRing
  windows   : List Window
  nextK     : Int
  committedK : Option Int
  lastSeq   : Option Nat
  arrivals  : Nat
  deriving DecidableEq, Repr

/-- One transfer of a CCI operation (Table 8.11): sizes in bytes. -/
structure CciTransfer where
  read     : Bool
  regSize  : Nat
  dataSize : Nat
  reg      : Nat
  data     : Nat
  deriving DecidableEq, Repr

/-- A queued CCI operation (R213): target address, SPEED code, transfers in order, and where its read data goes. -/
structure CciOp where
  pkt       : Packet
  target    : Nat
  speed     : Nat
  transfers : List CciTransfer
  dest      : Nat
  deriving DecidableEq, Repr

/-- Traffic of a CSI port that waits in its input buffer during a test frame (R210): frame starts and ends with their latched counts,
and packets, whose payload is none when it was discarded. -/
inductive CsiItem where
  | start (vc t : Nat)
  | packet (vc dt : Nat) (payload : Option (List Byte))
  | stop (vc t : Nat)
  deriving DecidableEq, Repr

/-- One FSYNC output (R214, R362). `placed` holds (index, count), `lastEdge` the TMB count of the latest edge. -/
structure Fsync where
  mode     : Nat
  t0       : Int
  period   : Nat
  width    : Nat
  offset   : Int
  polarity : Nat
  nextK    : Nat
  placed   : List (Nat × Nat)
  lastEdge : Option Nat
  pulseEnd : Option Nat
  skipped  : Nat
  deriving DecidableEq, Repr

/-- Camera and lidar ingest (chapter 8). `camNext` and `lidNext` hold descriptors that replace a configured sensor's at its
next frame or window, `lidOld` a replaced lidar that has windows to commit; `csiWait` is the traffic that waits in the ports' input
buffers, `eccLost` counts each ingest engine's losses by ECC in succession (CFE0, CFE1, LPE; R208); `i2cSent` are the bytes of the
transfers completed on each controller; `fsyncNext` an FSYNC entry whose first edge has not been driven. -/
structure Sen where
  cameras  : Vector (Option Camera) 24
  lidars   : Vector (Option Lidar) 8
  camNext  : Vector (Option Camera) 24
  lidNext  : Vector (Option Lidar) 8
  lidOld   : Vector (Option Lidar) 8
  csiWait  : Vector (List CsiItem) 8
  eccLost  : Vector Nat 3
  motions  : List Motion
  motionOrder : Nat
  i2c      : Vector (List CciOp) 4
  i2cSent  : Vector (List (List Byte)) 4
  fsync    : Vector Fsync 8
  fsyncNext : Vector (Option Fsync) 8
  csiUp    : BitVec 8
  ethUp    : BitVec 4
  csiCounts : Vector (Vector Nat 6) 8
  ethCounts : Vector (List (Nat × Nat)) 4
  stopped  : List Nat
  deriving DecidableEq, Repr

/-! ### Time -/

/-- Servo states (Table 14.2). -/
inductive Servo where
  | freeRun | locking | locked | holdover | stepPending
  deriving DecidableEq, Repr

/-- Messages sent on the management port (R357). -/
inductive GptpMsg where
  | pdelayReq (t : Nat) | pdelayResp (t : Nat) | pdelayRespFollowUp (t : Nat)
  deriving DecidableEq, Repr

/-- TMB, vehicle time, the servo and PPS (chapter 14). -/
structure Tim where
  count      : DWord
  base       : Nat
  offset     : Int
  rate       : Int
  seq        : Nat
  snapCount  : DWord
  snapVtime  : Int
  snapSeq    : Nat
  servo      : Servo
  jumpNs     : Nat
  jumpNext   : Option Nat
  domain     : Nat
  gptp       : Bool
  ppsInEn    : Bool
  ppsOutEn   : Bool
  error      : Int
  pending    : Int
  ppsCount   : Nat
  ppsPhase   : Int
  ppsSeen    : Bool
  ppsIgnored : Nat
  lastMeas   : Nat
  good       : Nat
  firstDone  : Bool
  launchSeen : Bool
  master     : DWord
  followed   : Option DWord
  run        : Option (DWord × Int × Nat)
  freq       : Int
  holdAt     : Nat
  holdNoted  : Nat
  peerDelay  : Nat
  ratio      : Int
  asCapable  : Bool
  pdelayOpen : Bool
  pdelayAt   : Nat
  sent       : List GptpMsg
  ppsOutLast : Option Int
  ppsPlaced  : Option (Int × Nat)
  ppsSkipped : Nat
  ppsFall    : Nat
  deriving DecidableEq, Repr

/-! ### The fabric -/

/-- The drain settings in force on a core (R79, Table 4.8). -/
structure DrainCfg where
  dst     : Nat
  dstride : Nat
  outFmt  : Nat
  acc     : Bool
  last    : Bool
  round   : Nat
  nonsat  : Bool
  oscale  : Nat
  bias    : Nat
  act     : Nat
  qrpt    : Bool
  seed    : Nat
  ostride : Nat
  deriving DecidableEq, Repr

/-- A weight tile in one buffer of one array (R71, R72): X19 codes by column then row, with the piece loaded. -/
structure WeightTile where
  filled : Bool
  fmt    : Nat
  piece  : Nat
  rows   : Nat
  cols   : List (List Word)
  deriving DecidableEq, Repr

/-- The scalar unit (R86): registers, pc and the segment in progress. -/
structure Su where
  active   : Bool
  pc       : Nat
  x        : Vector Word 32
  f        : Vector Word 32
  fcsr     : Nat
  wbase    : Nat
  wsize    : Nat
  units    : Nat
  unitsMax : Nat
  deriving DecidableEq, Repr

/-- A matrix core: its sequencer's place, weight buffers (array x 2 + BUF), drain settings and scalar unit. -/
structure Core where
  csq     : Nat
  halted  : Bool
  weights : Vector WeightTile 8
  drainCfg : Vector (Option DrainCfg) 4
  su      : Su
  run     : Run
  skipHw  : Nat
  deriving DecidableEq, Repr

/-- An engine that runs steps: the next record of its program and its run. -/
structure EngineSt where
  next   : Nat
  halted : Bool
  run    : Run
  deriving DecidableEq, Repr

/-- A cache line (R129, R130). -/
structure CacheLine where
  addr  : Nat
  way   : Nat
  data  : List Byte
  dirty : Bool
  prov  : Bool
  deriving DecidableEq, Repr

/-- The cache of one core in cache mode, with its tree pseudo-LRU bits per set. -/
structure Cache where
  lines : List CacheLine
  plru  : List (Nat × Nat)
  deriving DecidableEq, Repr

/-- Memories, semaphores, cores, engines and caches. `waiters` holds the WAITs that could not acquire at once, as (semaphore,
core), in the order in which they reached the arbiter (R93). -/
structure Fab where
  dram    : Memory
  sb      : Memory
  spad    : Vector Memory 8
  ckcRam  : Memory
  sems    : List (Nat × Nat)
  waiters : List (Nat × Nat)
  cores   : Vector Core 8
  engines : Vector EngineSt 4
  caches  : Vector (Option Cache) 8
  credits : Vector Nat 32
  deriving DecidableEq, Repr

/-! ### Pins and the whole -/

/-- Pins (R450). `safeN` false is low: the safe state. -/
structure Pins where
  rstN       : Bool
  perstN     : Bool
  pwrfailN   : Bool
  bootMode   : BitVec 2
  safeN      : Bool
  frameAlive : Bool
  offReady   : Bool
  ppsOut     : Bool
  fsync      : BitVec 8
  deriving DecidableEq, Repr

/-- The KM880. -/
structure State where
  tim     : Tim
  hif     : Hif
  cpx     : Cpx
  ctr     : Ctr
  emt     : Emt
  ckc     : Ckc
  saf     : Saf
  pwr     : Pwr
  mss     : Mss
  sec     : Sec
  flash   : Flash
  evr     : Rec
  sen     : Sen
  fab     : Fab
  pins    : Pins
  freeCtr : Nat
  pending : List Instr
  deriving DecidableEq, Repr

/-! ### Reset -/

/-- A stage-parameter record with nothing in it. -/
def CamParams.zero : CamParams :=
  { bl := [], wb := [], ccm := [], ccOff := [], lut := [], shading := [], tone := [] }

/-- An unscheduled FSYNC output (R450: low). -/
def Fsync.off : Fsync :=
  { mode := 0, t0 := 0, period := 0, width := 0, offset := 0, polarity := 0, nextK := 0, placed := [],
    lastEdge := none, pulseEnd := none, skipped := 0 }

/-- An empty weight buffer. -/
def WeightTile.empty : WeightTile := { filled := false, fmt := 0, piece := 0, rows := 0, cols := [] }

/-- The scalar unit between segments. -/
def Su.idle : Su :=
  { active := false, pc := 0, x := Vector.replicate 32 0, f := Vector.replicate 32 0, fcsr := 0, wbase := 0,
    wsize := 0, units := 0, unitsMax := 0 }

/-- A core with nothing to run. -/
def Core.idle : Core :=
  { csq := 0, halted := true, weights := Vector.replicate 8 WeightTile.empty,
    drainCfg := Vector.replicate 4 none, su := Su.idle,
    run := Run.idle, skipHw := 0 }

/-- An engine with nothing to run. -/
def EngineSt.idle : EngineSt := { next := 0, halted := true, run := Run.idle }

/-- No frame program has run. -/
def Prog.idle : Prog :=
  { running := false, frame := 0, launch := 0, waves0 := [], committed := [], rings := [], totals := [] }

/-- A stream before its first record (R238). -/
def StreamSt.empty : StreamSt := { seq := 0, crc := 0, queue := [], tailPend := 0 }

/-- An extreme of which nothing is recorded. -/
def Extreme.none : Extreme := { lo := 0, hi := 0, tLo := 0, tHi := 0, seen := false }

/-- HIF after RST_N (Table 18.1). MSI-X entries are masked, as the PCIe specification resets them. -/
def Hif.reset : Hif :=
  { event := 0, eventMask := 0, doorbellErrors := 0, bar4Window := 0, adminCmdBase := 0, adminCplBase := 0,
    adminEntries := 0, adminEnable := false, adminActive := false, configError := false, adminIrq := false,
    adminVector := 1, adminCoalesce := 0, heldWindow := none, heldCmdBase := none, heldCplBase := none,
    msixTable := Vector.ofFn (fun i => if i.val % 4 = 3 then 1#32 else 0#32), pba := 0, linkUp := false, d3hot := false,
    linkSpeed := 0, linkWidth := 0, posted := [] }

/-- CPX after RST_N: the QM core set is 0xFF (Table 18.5). -/
def Cpx.reset : Cpx :=
  { clients := [], past := [], rings := [], owed := [], buffers := [], packets := [], jobs := [], eligible := [], qm := none, kills := [],
    qmCores := 0xFF#8, cap := none, stop := none, unmaps := [], windowOpen := false, sliceDue := false }

/-- No contract, no launch. -/
def Ctr.reset : Ctr :=
  { armed := none, staged := none, armPending := none, old := none, oldFrame := 0, prog := Prog.idle,
    lateStart := [], lastTotals := (0, 0, []), grid := none, placed := none, past := [], nextFrame := 0,
    swapFrame := none }

/-- EMT after RST_N. -/
def Emt.reset : Emt :=
  { frames := [], full := [], objFull := [], owedAfter := [], tile := StreamSt.empty, object := StreamSt.empty,
    verdict := StreamSt.empty, dropsTrailer := 0, dropsReg := 0, tap := [], lastFrame := 0, lastSlot := 0,
    lastLate := 0, lastLateCommits := 0, launchLast := 0 }

/-- A lane before its first instruction. -/
def Lane.start : Lane := { x := Vector.replicate 32 0, pc := 0, csrs := [], array := [], count := 0 }

/-- CKC after RST_N: halted until the start's last step (Table 18.9). -/
def Ckc.reset : Ckc :=
  { mode := .halted, lane := 0, split := none, join := none, selfBusy := false, selfPassed := false,
    copyDone := false, copying := false, odd := Vector.replicate 3 0, rejoined := Vector.replicate 3 none,
    pres := [], await := [], completed := [], lanes := Vector.replicate 3 Lane.start, verdicts := [], statusUnit := [], inputs := [],
    rounds := [], agreed := [], motion := none, slotArmed := 0, judges := [], prevOcc := [],
    expSeq := (0, 0, 0), expCrc := (0, 0, 0), nextBad := false, copies := [],
    thumbs := [], copyDrops := 0, bandAt := 0 }

/-- The latch after RST_N: latched, cause STARTUP, count 1 (Table 18.8, R318). -/
def Saf.reset : Saf :=
  { latched := true, cause := 1, count := 1, time := 0, startup := true, relPending := false, relFrame := none,
    history := [], histFrom := 0, lastInvalid := false, lastFrame := 0, lastReasons := 0, lateLast := 0,
    reqError := false, verError := false, rxErrors := 0, ctrlAlive := 0, prevAlive := none, alive := 0,
    faultUnit := 0xFF, flagged := false, spiOut := [], faultRecord := List.replicate 64 0, faultSeq := 0 }

/-- Power after RST_N (Table 18.10). -/
def Pwr.reset : Pwr :=
  { state := .boot, longStart := false, domains := 0, closing := 0, rising := 0, busy := none, done := false,
    status := 0, ignored := 0, hostRate := 1000, effective := 1000, cap := 1150, vdd := 750, vddRead := 0,
    lowSince := none, avsLast := 0, mismatches := 0, alert := false,
    units := Vector.replicate 17 { rate := 0, ldo := 0, flagged := 0, owed := false, flagClear := none,
                                   inBand := 0, settled := false, below := 0, noted := 0, count := 0 },
    emtMargin := false, tj := Vector.replicate 32 0, supply := Vector.replicate 24 0, warnAbove := false,
    throttleAbove := false, limitAbove := false, tripSince := none, tripped := false, mr4Hot := none, mr4 := 0,
    lastSample := 0, wake := false, patrolled := 0 }

/-- MSS after RST_N (Tables 18.12-18.14). -/
def Mss.reset : Mss :=
  { shadow := Vector.replicate 16 0, regions := [], applyBusy := none, errCode := 0, errEntry := 0, applies := 0,
    reserve := 60, reserveEff := 60, dataRate := 0, usable := 0, warn := 110, throttle := 118,
    thermalRejected := false, phyAddr := 0, heldPhy := none, phySize := 0, limits := Vector.replicate 8 4,
    bootStep := 0, bootLong := false, bootRecovery := false, imageCheck := 0, scratch := Vector.replicate 4 0,
    fwVersion := 0, fwDigest := 0, discover := none, diag := none, diagPassed := false, prepare := none,
    shutStep := 0, aborted := false, patternMode := false, flagWrite := none, flagClear := none,
    selfReset := none }

/-- SEC as shipped: a KM880-Q10 with empty owner slots and rollback counter 0. -/
def Sec.reset : Sec :=
  { orderQ10 := true, slots := Vector.replicate 4 { digest := 0, revoked := false }, rollback := 0,
    challenges := Vector.replicate 4 none, nextId := 0, keyZero := false, scanEnabled := false,
    certValid := false, unlocked := false, lastRefused := false, attempts := 0, jtagOut := [] }

/-- An erased flash device. -/
def Flash.erased : Flash :=
  { image := none, cert := none, flagA := none, flagB := none, repairA := none, repairB := none, memId := 0,
    powerCycle := 0, log := [], logPos := 0, snapSeq := 0, snapshots := [], faultRing := [], pattern := [], session := none,
    commit := none }

/-- The event recorder after RST_N. -/
def Rec.reset : Rec :=
  { nextSeq := 0, queue := [], buckets := [], opSeconds := 0, tjHist := Vector.replicate 8 (Vector.replicate 32 0),
    vddHist := Vector.replicate 32 0, rateHist := Vector.replicate 8 (Vector.replicate 32 0),
    tjExt := Vector.replicate 32 Extreme.none, supplyExt := Vector.replicate 24 Extreme.none,
    rateExt := Vector.replicate 17 Extreme.none, errors := Vector.replicate 24 (Vector.replicate 8 0), faults := [],
    snapWrite := none, snapAgain := none, ringQueue := [], erasing := false, lastMark := 0, lastSnap := 0, lastTick := 0, rotation := 0, rotStart := 0, lastSlice := 0, rotNext := 0,
    sliceDone := Vector.replicate 12 0, passed := 0, coppiceStep := none, patternNoted := false }

/-- No sensor configured (R203), every link down. -/
def Sen.reset : Sen :=
  { cameras := Vector.replicate 24 none, lidars := Vector.replicate 8 none, camNext := Vector.replicate 24 none,
    lidNext := Vector.replicate 8 none, lidOld := Vector.replicate 8 none, csiWait := Vector.replicate 8 [],
    eccLost := Vector.replicate 3 0, motions := [], motionOrder := 0, i2c := Vector.replicate 4 [], i2cSent := Vector.replicate 4 [], fsync := Vector.replicate 8 Fsync.off, fsyncNext := Vector.replicate 8 none, csiUp := 0, ethUp := 0,
    csiCounts := Vector.replicate 8 (Vector.replicate 6 0), ethCounts := Vector.replicate 4 [], stopped := [] }

/-- Time after RST_N: BASE, OFFSET and RATE zero, JUMP_NS 50,000 (R352, Table 18.1). -/
def Tim.reset : Tim :=
  { count := 0, base := 0, offset := 0, rate := 0, seq := 0, snapCount := 0, snapVtime := 0, snapSeq := 0,
    servo := .freeRun, jumpNs := 50000, jumpNext := none, domain := 0, gptp := false, ppsInEn := false,
    ppsOutEn := false, error := 0, pending := 0, ppsCount := 0, ppsPhase := 0, ppsSeen := false, ppsIgnored := 0,
    lastMeas := 0, good := 0, firstDone := false, launchSeen := false, master := 0, followed := none, run := none,
    freq := 0, holdAt := 0, holdNoted := 0, peerDelay := 0, ratio := 0, asCapable := false, pdelayOpen := false,
    pdelayAt := 0, sent := [], ppsOutLast := none, ppsPlaced := none, ppsSkipped := 0, ppsFall := 0 }

/-- The fabric before any domain is switched on. -/
def Fab.reset : Fab :=
  { dram := [], sb := [], spad := Vector.replicate 8 [], ckcRam := [], sems := [], waiters := [],
    cores := Vector.replicate 8 Core.idle, engines := Vector.replicate 4 EngineSt.idle,
    caches := Vector.replicate 8 none, credits := Vector.replicate 32 16 }

/-- The pins while RST_N is low (R450). -/
def Pins.reset : Pins :=
  { rstN := false, perstN := false, pwrfailN := true, bootMode := 0, safeN := false, frameAlive := false,
    offReady := false, ppsOut := false, fsync := 0 }

/-- The part in reset: RST_N low, every register at the Reset column of Table 18.1, memory empty. -/
def State.reset : State :=
  { tim := Tim.reset, hif := Hif.reset, cpx := Cpx.reset, ctr := Ctr.reset, emt := Emt.reset, ckc := Ckc.reset,
    saf := Saf.reset, pwr := Pwr.reset, mss := Mss.reset, sec := Sec.reset, flash := Flash.erased, evr := Rec.reset,
    sen := Sen.reset, fab := Fab.reset, pins := Pins.reset, freeCtr := 0, pending := [] }

end Sys2Proof.Machine
end

