-- ==== Sys2Proof/Machine/Bits.lean ====
section
/-! DEFINITION. Bytes, little-endian fields, byte memories and checks: R9, R57 (CRC-64), R238 (CRC-32C). -/

namespace Sys2Proof.Machine

/-- Bits `[hi:lo]` of a number. -/
def bitsOf (v hi lo : Nat) : Nat := (v >>> lo) % 2 ^ (hi - lo + 1)

/-- The `n` little-endian bytes of `v` (R9). -/
def leBytes : Nat → Nat → List Byte
  | 0, _ => []
  | n + 1, v => BitVec.ofNat 8 v :: leBytes n (v / 256)

/-- The number whose little-endian bytes are given (R9). -/
def leNat : List Byte → Nat
  | [] => 0
  | b :: r => b.toNat + 256 * leNat r

/-- A little-endian field of a record. -/
def recLe (b : List Byte) (off n : Nat) : Nat := leNat ((b.drop off).take n)

/-- A number of `w` bits read as two's complement. -/
def sext (w v : Nat) : Int := if v % 2 ^ w < 2 ^ (w - 1) then (v % 2 ^ w : Nat) else (v % 2 ^ w : Nat) - (2 : Int) ^ w

/-- The two's-complement code of an integer in `w` bits. -/
def codeOf (w : Nat) (i : Int) : Nat := (i % (2 : Int) ^ w).toNat

/-- `v` limited to what a saturating field of `w` bits holds. -/
def satU (w v : Nat) : Nat := min v (2 ^ w - 1)

/-- Quotient rounded up. -/
def cdiv (a b : Nat) : Nat := (a + b - 1) / b

/-- The integer quotient rounded up, for a positive divisor. -/
def icdiv (a b : Int) : Int := -((-a) / b)

/-- Bit `i` of a list of flags packed lowest first. -/
def packBits : List Bool → Nat
  | [] => 0
  | b :: r => (if b then 1 else 0) + 2 * packBits r

/-- The set bits of a mask below `n`, lowest first. -/
def maskBits (n m : Nat) : List Nat := (List.range n).filter fun i => m.testBit i

/-- The number of set bits of a mask below `n`. -/
def popcount (n m : Nat) : Nat := (maskBits n m).length

/-- Replace position `i` of a list. -/
def setAt {α : Type} (i : Nat) (x : α) (l : List α) : List α := l.set i x

/-- Set entry `i` of a vector when it exists. -/
def vset {α : Type} {n : Nat} (v : Vector α n) (i : Nat) (x : α) : Vector α n := v.setIfInBounds i x

/-- Entry `i` of a vector, or `d` past its end. -/
def vget {α : Type} {n : Nat} (v : Vector α n) (i : Nat) (d : α) : α := v.toArray.getD i d

/-! ### Byte memories -/

/-- The byte at an address; an unlisted address reads 0 (R128 for the on-chip memories). -/
def memGet : Memory → Nat → Byte
  | [], _ => 0
  | c :: r, x => if c.1 = x then c.2 else memGet r x

/-- Write one byte, keeping addresses rising and zero bytes unlisted. -/
def memSet : Memory → Nat → Byte → Memory
  | [], x, v => if v = 0 then [] else [(x, v)]
  | c :: r, x, v =>
    if x < c.1 then (if v = 0 then c :: r else (x, v) :: c :: r)
    else if x = c.1 then (if v = 0 then r else (x, v) :: r)
    else c :: memSet r x v

/-- Every listed address is at least `n`, addresses rise strictly and no zero byte is listed. -/
def Memory.wfFrom : Nat → Memory → Bool
  | _, [] => true
  | n, c :: r => decide (n ≤ c.1) && decide (c.2 ≠ 0) && Memory.wfFrom (c.1 + 1) r

/-- The canonical form of a memory. -/
def Memory.wf (m : Memory) : Bool := Memory.wfFrom 0 m

/-- The `n` bytes from address `a`. -/
def memBytes (m : Memory) (a : Nat) : Nat → List Byte
  | 0 => []
  | n + 1 => memGet m a :: memBytes m (a + 1) n

/-- The little-endian number in `n` bytes from address `a` (R9). -/
def memLe (m : Memory) (a n : Nat) : Nat := leNat (memBytes m a n)

/-- Write bytes from address `a` up. -/
def memPut (m : Memory) (a : Nat) : List Byte → Memory
  | [] => m
  | b :: r => memPut (memSet m a b) (a + 1) r

/-- Clear the listed bytes of `[lo, hi)` (zero-fill, R128). -/
def memZero (m : Memory) (lo hi : Nat) : Memory :=
  m.filter fun c => !(decide (lo ≤ c.1) && decide (c.1 < hi))

/-! ### Checks -/

/-- One reflected CRC-32C shift (polynomial 0x1EDC6F41, reflected 0x82F63B78). -/
def crc32cBit (c : Nat) : Nat := if c % 2 = 1 then (c / 2) ^^^ 0x82F63B78 else c / 2

/-- One byte of CRC-32C. -/
def crc32cByte (c : Nat) (b : Byte) : Nat :=
  crc32cBit (crc32cBit (crc32cBit (crc32cBit (crc32cBit (crc32cBit (crc32cBit (crc32cBit (c ^^^ b.toNat))))))))

/-- CRC-32C with the parameters of R238: initial value and final inversion all ones, reflected. -/
def crc32c (bytes : List Byte) : Nat := bytes.foldl crc32cByte 0xFFFFFFFF ^^^ 0xFFFFFFFF

/-- One reflected CRC-32 shift (polynomial 0x04C11DB7). -/
def crc32Bit (c : Nat) : Nat := if c % 2 = 1 then (c / 2) ^^^ 0xEDB88320 else c / 2

/-- One byte of CRC-32. -/
def crc32Byte (c : Nat) (b : Byte) : Nat :=
  crc32Bit (crc32Bit (crc32Bit (crc32Bit (crc32Bit (crc32Bit (crc32Bit (crc32Bit (c ^^^ b.toNat))))))))

/-- The CRC-32 of an Ethernet FCS (R216): initial value and final inversion all ones, reflected. -/
def crc32 (bytes : List Byte) : Nat := bytes.foldl crc32Byte 0xFFFFFFFF ^^^ 0xFFFFFFFF

/-- One shift of CRC-64 (ECMA-182, not reflected, R57). -/
def crc64Bit (c : Nat) : Nat :=
  if c / 2 ^ 63 % 2 = 1 then ((c * 2) % 2 ^ 64) ^^^ 0x42F0E1EBA9EA3693 else (c * 2) % 2 ^ 64

/-- One byte of CRC-64. -/
def crc64Byte (c : Nat) (b : Byte) : Nat :=
  crc64Bit (crc64Bit (crc64Bit (crc64Bit (crc64Bit (crc64Bit (crc64Bit (crc64Bit (c ^^^ (b.toNat * 2 ^ 56)))))))))

/-- CRC-64 of R57: initial value zero, no reflection. -/
def crc64 (bytes : List Byte) : Nat := bytes.foldl crc64Byte 0

/-- mix64 of R112. -/
def mix64 (v : Nat) : Nat :=
  let z := v % 2 ^ 64
  let z := ((z ^^^ (z >>> 30)) * 0xBF58476D1CE4E5B9) % 2 ^ 64
  let z := ((z ^^^ (z >>> 27)) * 0x94D049BB133111EB) % 2 ^ 64
  z ^^^ (z >>> 31)

end Sys2Proof.Machine
end

