-- ==== Sys2Proof/Machine/Keccak.lean ====
section
/-! DEFINITION. SHAKE256 (FIPS 202), the digest of R387, R408 and R412: the Keccak-f[1600] permutation on 25 lanes in the
order x + 5y, with rate 136 bytes and domain suffix 0x1F. -/

namespace Sys2Proof.Machine

/-- Lane `i`. -/
def lane (a : List DWord) (i : Nat) : DWord := a.getD i 0

/-- Rotation offsets of step rho, by lane. -/
def keccakRot : List Nat :=
  [0, 1, 62, 28, 27, 36, 44, 6, 55, 20, 3, 10, 43, 25, 39, 41, 45, 15, 21, 8, 18, 2, 61, 56, 14]

/-- Round constants of step iota. -/
def keccakRc : List DWord :=
  [0x0000000000000001#64, 0x0000000000008082#64, 0x800000000000808A#64, 0x8000000080008000#64,
   0x000000000000808B#64, 0x0000000080000001#64, 0x8000000080008081#64, 0x8000000000008009#64,
   0x000000000000008A#64, 0x0000000000000088#64, 0x0000000080008009#64, 0x000000008000000A#64,
   0x000000008000808B#64, 0x800000000000008B#64, 0x8000000000008089#64, 0x8000000000008003#64,
   0x8000000000008002#64, 0x8000000000000080#64, 0x000000000000800A#64, 0x800000008000000A#64,
   0x8000000080008081#64, 0x8000000000008080#64, 0x0000000080000001#64, 0x8000000080008008#64]

/-- Step theta. -/
def keccakTheta (a : List DWord) : List DWord :=
  let c := (List.range 5).map fun x => lane a x ^^^ lane a (x + 5) ^^^ lane a (x + 10) ^^^ lane a (x + 15) ^^^ lane a (x + 20)
  let d := (List.range 5).map fun x => lane c ((x + 4) % 5) ^^^ (lane c ((x + 1) % 5)).rotateLeft 1
  (List.range 25).map fun i => lane a i ^^^ lane d (i % 5)

/-- Steps rho and pi: lane (x, y) goes, rotated, to (y, 2x + 3y). -/
def keccakRhoPi (a : List DWord) : List DWord :=
  (List.range 25).map fun i =>
    let x := (i % 5 + 3 * (i / 5)) % 5
    let y := i % 5
    (lane a (x + 5 * y)).rotateLeft (keccakRot.getD (x + 5 * y) 0)

/-- Step chi. -/
def keccakChi (a : List DWord) : List DWord :=
  (List.range 25).map fun i =>
    let r := 5 * (i / 5)
    lane a i ^^^ (~~~lane a (r + (i + 1) % 5) &&& lane a (r + (i + 2) % 5))

/-- One round. -/
def keccakRound (a : List DWord) (rc : DWord) : List DWord :=
  let b := keccakChi (keccakRhoPi (keccakTheta a))
  b.set 0 (lane b 0 ^^^ rc)

/-- Keccak-f[1600]. -/
def keccakF (a : List DWord) : List DWord := keccakRc.foldl keccakRound a

/-- XOR a block of 136 bytes into the state. -/
def keccakXor (a : List DWord) (b : List Byte) : List DWord :=
  (List.range 25).map fun i => if i < 17 then lane a i ^^^ BitVec.ofNat 64 (leNat ((b.drop (8 * i)).take 8)) else lane a i

/-- Absorb whole blocks. -/
def keccakAbsorb (a : List DWord) (m : List Byte) : Nat → List DWord
  | 0 => a
  | n + 1 => keccakAbsorb (keccakF (keccakXor a (m.take 136))) (m.drop 136) n

/-- The message with the SHAKE suffix and the padding to whole blocks. -/
def shakePad (m : List Byte) : List Byte :=
  let q := 136 - m.length % 136
  if q = 1 then m ++ [0x9F#8] else m ++ [0x1F#8] ++ List.replicate (q - 2) 0#8 ++ [0x80#8]

/-- The first `n` bytes of SHAKE256, for `n` up to 136. -/
def shake256 (m : List Byte) (n : Nat) : List Byte :=
  let p := shakePad m
  let a := keccakAbsorb (List.replicate 25 0#64) p (p.length / 136)
  (a.flatMap fun w => leBytes 8 w.toNat).take n

/-- The 256-bit SHAKE256 digest, its first byte lowest. -/
def digest256 (m : List Byte) : BitVec 256 := BitVec.ofNat 256 (leNat (shake256 m 32))

end Sys2Proof.Machine
end

