-- ==== Sys2Proof/Config.lean ====
section
/-! DEFINITION. What one KM880 part fixes and what the manual leaves open, as constants without a body. -/

namespace Sys2Proof

/-- A value the manual leaves open where work goes on, indexed by the counter `State.freeCtr`. -/
opaque Config.freeValue : Nat → DWord

/-- The fused device secret (R405, R410): never readable. -/
opaque Config.deviceSecret : BitVec 256

/-- The fused unique identifier DEVICE_ID (Table 10.8). -/
opaque Config.deviceId : DWord

/-- The table-and-polynomial functions of the VU (R85, Table 4.5): the accuracy is stated, the values are not. This chooses among the
results within it, and is the result where none is stated. The first argument names the function (OP code 0x40-0x4B of
Table 4.11), the second is the FP32 operand. -/
opaque Config.vuFunction : BitVec 8 → Word → Word

/-- atan2 of DPP (R184): accurate to 2 ulp, its values are not stated; this chooses among them. -/
opaque Config.dppAtan2 : Word → Word → Word

/-- The demosaic coefficients in eighths, which R204 does not list. Arguments: whether the CFA is RCCC; the site in the colour
pattern (0 red, 1 green of a red row, 2 green of a blue row, 3 blue); the channel made (0 R, 1 G or C, 2 B); the place in the 5 x 5
neighbourhood in raster order. -/
opaque Config.cfeCoef : Bool → Nat → Nat → Nat → Int

/-- Position in the lens-shading grid, in 1/65536 of a grid step, of a pixel coordinate within the active width or height
(R204: the grid spans the active area; its sampling points are not stated). Arguments: extent, coordinate. -/
opaque Config.cfeGridPos : Nat → Nat → Nat

/-- The byte that a lidar field reads beyond its datagram's payload (R219 states none): the payload and the offset. -/
opaque Config.payloadTail : List Byte → Nat → Byte

/-- Elevation and azimuth offset of a CHANNEL value beyond the channel table (R219 states none), in FP32. -/
opaque Config.channelEntry : Nat → BitVec 32 × BitVec 32

/-- Register values of the scalar unit at segment start (R86 gives none): index 0-31 integer, 32-63 float. -/
opaque Config.suStartReg : Nat → Word

/-- Does a word that is no instruction end its segment (R86 states no effect for it)? -/
opaque Config.suIllegalEnds : Nat → Bool

/-- The element index of R112 that the library's tiling gives to an element of a command's operator (R165, R170: the tiling
is not stated): the operator with its shapes and parameters, and the element's index in its output. -/
opaque Config.elementIndex : List Nat → Nat → Nat

/-- The seed of a VOP with stochastic rounding (R112 names a SEED field; Table 4.8 gives VOP none). -/
opaque Config.vopSeed : Nat

/-- Which of the two FP32 neighbours the bicubic weight of a pixel is where FP32 does not hold the kernel's exact value (R180 does
not say how it is rounded): the fraction as FP32 and the offset 0-3 from i0 - 1. -/
opaque Config.bicubicWeight : Word → Nat → Word

/-- A value that an operator's rules leave unstated: the operator with its shapes and parameters, and the data it depends on. -/
opaque Config.unstated : List Nat → Word

/-- The agreed value of three samples that all differ (R302 states a majority only). -/
opaque Config.noMajority : List Nat → Nat

/-- Registers of a checker lane when it presents its n-th transaction (R297: its firmware is not given): the number n, and 0-31 for
the integer registers, 32 for the pc. -/
opaque Config.laneReg : Nat → Nat → Word

/-- Control and status registers of a checker lane, as (number, value), when it presents its n-th transaction. -/
opaque Config.laneCsrs : Nat → List (Nat × Word)

/-- SLH-DSA-SHAKE-128f identity signature over a byte string (R410, R412): 17,088 bytes under the derived key. -/
opaque Config.identitySign : List Byte → List Byte

/-- SLH-DSA-SHAKE-128f public key derived from the device secret (R410). -/
opaque Config.identityPublicKey : BitVec 256

/-- FUSE_DIGEST of a quote (Table 16.11): the layout of the fused values and the lifecycle fuses are not stated. The
argument lists slot digests, revocation bits, the rollback counter and the ordering code. -/
opaque Config.fuseDigest : List Nat → BitVec 256

/-- Bytes that a changed encrypted region reads as (R413: unpredictable): first argument the region table's
apply count, second the device address. -/
opaque Config.staleCipher : Nat → Nat → Byte

end Sys2Proof
end

