-- ==== Sys2Proof/Machine/Ops.lean ====
section
/-! DEFINITION. The named operations that every command uses: updating one block of the state, time (R351, R352),
traffic to the host (R249, R255), HIF_EVENT (R435), the event recorder (R416-R419), the device state (Table 15.5) and
free values. -/

namespace Sys2Proof.Machine

/-! ### One block at a time -/

/-- Update the time block. -/
def State.onTim (f : Tim → Tim) (s : State) : State := { s with tim := f s.tim }
/-- Update the host interface. -/
def State.onHif (f : Hif → Hif) (s : State) : State := { s with hif := f s.hif }
/-- Update CPX. -/
def State.onCpx (f : Cpx → Cpx) (s : State) : State := { s with cpx := f s.cpx }
/-- Update the contracts. -/
def State.onCtr (f : Ctr → Ctr) (s : State) : State := { s with ctr := f s.ctr }
/-- Update EMT. -/
def State.onEmt (f : Emt → Emt) (s : State) : State := { s with emt := f s.emt }
/-- Update CKC. -/
def State.onCkc (f : Ckc → Ckc) (s : State) : State := { s with ckc := f s.ckc }
/-- Update the safety block. -/
def State.onSaf (f : Saf → Saf) (s : State) : State := { s with saf := f s.saf }
/-- Update the power block. -/
def State.onPwr (f : Pwr → Pwr) (s : State) : State := { s with pwr := f s.pwr }
/-- Update the MSS. -/
def State.onMss (f : Mss → Mss) (s : State) : State := { s with mss := f s.mss }
/-- Update SEC. -/
def State.onSec (f : Sec → Sec) (s : State) : State := { s with sec := f s.sec }
/-- Update the flash. -/
def State.onFlash (f : Flash → Flash) (s : State) : State := { s with flash := f s.flash }
/-- Update the recorder. -/
def State.onEvr (f : Rec → Rec) (s : State) : State := { s with evr := f s.evr }
/-- Update the sensors. -/
def State.onSen (f : Sen → Sen) (s : State) : State := { s with sen := f s.sen }
/-- Update the fabric. -/
def State.onFab (f : Fab → Fab) (s : State) : State := { s with fab := f s.fab }
/-- Update the pins. -/
def State.onPins (f : Pins → Pins) (s : State) : State := { s with pins := f s.pins }

/-! ### Time -/

/-- The TMB count as a number (R351). -/
def State.now (s : State) : Nat := s.tim.count.toNat

/-- Pulses whose end has come fall back to their idle level (R214, R364). -/
def State.settlePulses (s : State) : State :=
  let n := s.tim.count.toNat
  let ended := (List.range 8).filter fun i => match (vget s.sen.fsync i Fsync.off).pulseEnd with | some e => decide (e ≤ n) | none => false
  let s := if s.pins.ppsOut && decide (s.tim.ppsFall ≤ n) then s.onPins fun p => { p with ppsOut := false } else s
  if ended.isEmpty then s
  else
    let idle := ended.foldl (fun (p : BitVec 8) i =>
      let f := vget s.sen.fsync i Fsync.off
      if f.polarity = 0 then p &&& ~~~(1#8 <<< i) else p ||| (1#8 <<< i)) s.pins.fsync
    let s := s.onPins fun p => { p with fsync := idle }
    s.onSen fun x => { x with fsync := ended.foldl (fun v i => vset v i { vget v i Fsync.off with pulseEnd := none }) x.fsync }

/-- TMB reaches count `t`; the count never falls (R351). -/
def State.advance (t : Nat) (s : State) : State :=
  (s.onTim fun m => { m with count := BitVec.ofNat 64 (max m.count.toNat t) }).settlePulses

/-- Vehicle time at a count under a parameter set (R352). `d` is a signed 64-bit value. -/
def vehicleTime (m : Tim) (n : Nat) : Int :=
  let d := sext 64 (codeOf 64 ((n : Int) - (m.base : Int)))
  m.offset + d + (d * m.rate) / 4000000000

/-- Vehicle time now. -/
def State.vnow (s : State) : Int := vehicleTime s.tim s.now

/-- The first count whose vehicle time is at least `v` (R362: placing an event on TMB; DEDUCED, log 24). -/
def countAt (m : Tim) (v : Int) : Nat :=
  ((m.base : Int) + icdiv ((v - m.offset) * 4000000000) (4000000000 + m.rate)).toNat

/-- Operating time in seconds (R417): `opSeconds` is what the start resumed from. -/
def State.opSecs (s : State) : Nat := s.evr.opSeconds + s.now / 1000000000

/-! ### Free values -/

/-- The value the manual leaves open at this point of the run. -/
def State.freeWord (s : State) : DWord := Config.freeValue s.freeCtr
/-- One more open value has been used. -/
def State.bumpFree (s : State) : State := { s with freeCtr := s.freeCtr + 1 }

/-! ### Traffic to the host -/

/-- A posted write leaves in order (R249); while the link is down none is delivered (R262). -/
def State.post (p : HostPost) (s : State) : State :=
  s.onHif fun h => if h.linkUp then { h with posted := h.posted ++ [p] } else h

/-- The mask bit of an MSI-X vector. -/
def Hif.masked (h : Hif) (v : Nat) : Bool := (vget h.msixTable (4 * v + 3) 0).getLsbD 0

/-- Send the message of a vector; a masked vector sets its pending bit (R255). -/
def State.message (v : Nat) (s : State) : State :=
  if s.hif.masked v then s.onHif fun h => { h with pba := h.pba ||| (1#64 <<< v) } else s.post (.msix v)

/-- Cause bits of HIF_EVENT (Table 18.3). -/
abbrev causeState : Nat := 0
/-- Safe state latched. -/
abbrev causeLatch : Nat := 1
/-- SAFE_N released. -/
abbrev causeRelease : Nat := 2
/-- FLAGGED entered. -/
abbrev causeFlagged : Nat := 3
/-- A host-protocol event. -/
abbrev causeHost : Nat := 4
/-- Servo state changed. -/
abbrev causeTime : Nat := 5
/-- DONE set or a thermal threshold crossed. -/
abbrev causePower : Nat := 6
/-- CKC_MODE.MODE changed. -/
abbrev causeChecker : Nat := 7

/-- An event sets a cause bit; vector 0 sends when the bit was clear and is unmasked (R435). -/
def State.raise (i : Nat) (s : State) : State :=
  let was := s.hif.event.getLsbD i
  let s := s.onHif fun h => { h with event := h.event ||| (1#32 <<< i) }
  if !was && !s.hif.eventMask.getLsbD i then s.message 0 else s

/-! ### The event recorder -/

/-- Severities of Table 17.1. -/
abbrev sevInfo : Nat := 0
/-- NOTICE. -/
abbrev sevNotice : Nat := 1
/-- WARNING. -/
abbrev sevWarning : Nat := 2
/-- ERROR. -/
abbrev sevError : Nat := 3
/-- CRITICAL. -/
abbrev sevCritical : Nat := 4

/-- The LIMIT in force for an event code's class (R419). -/
def State.limitOf (s : State) (code : Nat) : Nat := vget s.mss.limits (code / 4096) 0

/-- The token bucket of a code; it holds LIMIT tokens at each start (R419). -/
def State.bucket (s : State) (code : Nat) : Bucket :=
  (s.evr.buckets.find? fun b => b.code = code).getD { code := code, tokens := s.limitOf code, suppressed := 0, since := s.now }

/-- Replace a code's bucket. -/
def Rec.putBucket (r : Rec) (b : Bucket) : Rec :=
  { r with buckets := b :: r.buckets.filter fun x => x.code ≠ b.code }

/-- Record an event (R416-R419): CRITICAL takes no token; an event without a token, or with 1,024 records queued,
counts as suppressed. An event of class 0x7 also sets HOST_ERROR, written or not (Table 18.3). -/
def State.note (code sev : Nat) (unit p0 p1 p2 : Nat) (s : State) : State :=
  let s := if code / 4096 = 7 then s.raise causeHost else s
  let b := s.bucket code
  let free := decide (sev = sevCritical)
  if (!free && decide (b.tokens = 0)) || decide (1024 ≤ s.evr.queue.length) then
    s.onEvr fun r => r.putBucket { b with suppressed := b.suppressed + 1 }
  else
    let e : EventRec :=
      { code := code, severity := sev, unit := unit, seq := s.evr.nextSeq, opSeconds := s.opSecs,
        powerCycle := s.flash.powerCycle, suppressed := min 255 b.suppressed, p0 := BitVec.ofNat 32 p0,
        p1 := BitVec.ofNat 32 p1, p2 := BitVec.ofNat 32 p2 }
    s.onEvr fun r =>
      { r.putBucket { b with tokens := if free then b.tokens else b.tokens - 1, suppressed := 0,
                             since := if !free && decide (b.tokens = s.limitOf code) then s.now else b.since } with
        nextSeq := (r.nextSeq + 1) % 2 ^ 32, queue := r.queue ++ [e] }

/-- The unit code 0xFF of an event that names no unit. -/
abbrev noUnit : Nat := 0xFF

/-- An event with a signed 64-bit parameter in PARAM0 and PARAM1 (R429). -/
def State.noteInt (code sev : Nat) (v : Int) (s : State) : State :=
  let c := codeOf 64 v
  s.note code sev noUnit (c % 2 ^ 32) (c / 2 ^ 32) 0

/-- The bytes of an event record (Table 17.1) with its CRC. -/
def EventRec.bytes (e : EventRec) : List Byte :=
  let b := leBytes 2 e.code ++ leBytes 1 e.severity ++ leBytes 1 e.unit ++ leBytes 4 e.seq ++ leBytes 4 e.opSeconds ++
    leBytes 3 e.powerCycle ++ leBytes 1 e.suppressed ++ leBytes 4 e.p0.toNat ++ leBytes 4 e.p1.toNat ++
    leBytes 4 e.p2.toNat
  b ++ leBytes 4 (crc32c b)

/-- Columns of the error counters (Table 17.3). -/
abbrev colEcc : Nat := 0
/-- SENTINEL. -/
abbrev colSentinel : Nat := 1
/-- TRANSIENT. -/
abbrev colTransient : Nat := 2
/-- SUSPECT. -/
abbrev colSuspect : Nat := 3
/-- SKIPPED_COMPARE. -/
abbrev colSkipped : Nat := 4
/-- INT_OVERFLOW. -/
abbrev colIntOver : Nat := 5
/-- GATHER_OOR. -/
abbrev colGatherOor : Nat := 6
/-- EMPTY_WINDOW. -/
abbrev colEmptyWin : Nat := 7

/-- Add to an error counter, saturating at 32 bits (Table 17.3). -/
def State.countErr (row col n : Nat) (s : State) : State :=
  s.onEvr fun r =>
    let v := vget r.errors row (Vector.replicate 8 0)
    { r with errors := vset r.errors row (vset v col (satU 32 (vget v col 0 + n))) }

/-! ### Device state -/

/-- State codes of Table 15.5. -/
def DevState.code : DevState → Nat
  | .boot => 0 | .ready => 1 | .running => 2 | .draining => 3 | .flagged => 4 | .recovery => 5 | .parked => 6
  | .shutdownTest => 7 | .offReady => 8

/-- Enter a device state; a change sets the STATE cause (Table 18.3). -/
def State.enter (d : DevState) (s : State) : State :=
  if s.pwr.state = d then s else (s.onPwr fun p => { p with state := d }).raise causeState

/-! ### CKC inputs -/

/-- An asynchronous input reaches CKC and waits for the lanes' agreement (R302). -/
def State.ckcInput (i : CkcInput) (s : State) : State :=
  s.onCkc fun c => if c.mode = .halted then c else { c with inputs := c.inputs ++ [i] }

/-! ### Units -/

/-- Unit codes (Table 3.6, Table 13.2). -/
def unitCode : UnitId → Nat
  | .mxc c => c.val | .eng .wre => 0x10 | .eng .gxe => 0x11 | .eng .dpp => 0x12 | .eng .qoe => 0x13
  | .cfe i => 0x18 + i.val | .lpe => 0x1A | .emt => 0x1F | .ckc => 0x20 | .hub => 0x21 | .sb => 0x22 | .dmc => 0x23
  | .cpx => 0x24 | .mss => 0x25 | .sec => 0x26 | .tmb => 0x27

/-! ### Memories -/

/-- The byte at an address of a memory space. -/
def Fab.peek (f : Fab) : Space → Nat → Byte
  | .dram, a => memGet f.dram a
  | .sb, a => memGet f.sb a
  | .spad c, a => memGet (f.spad.get c) a
  | .ckc, a => memGet f.ckcRam a

/-- Write one byte of a memory space. -/
def Fab.poke (f : Fab) : Space → Nat → Byte → Fab
  | .dram, a, b => { f with dram := memSet f.dram a b }
  | .sb, a, b => { f with sb := memSet f.sb a b }
  | .spad c, a, b => { f with spad := f.spad.set c (memSet (f.spad.get c) a b) }
  | .ckc, a, b => { f with ckcRam := memSet f.ckcRam a b }

/-- The `n` bytes from an address of a memory space. -/
def Fab.peeks (f : Fab) (sp : Space) (a : Nat) : Nat → List Byte
  | 0 => []
  | n + 1 => f.peek sp a :: Fab.peeks f sp (a + 1) n

/-- Write bytes from an address of a memory space up. -/
def Fab.pokes (f : Fab) (sp : Space) (a : Nat) : List Byte → Fab
  | [] => f
  | b :: r => Fab.pokes (f.poke sp a b) sp (a + 1) r

/-- The little-endian number in `n` bytes of LPDDR5X. -/
def State.dramLe (s : State) (a n : Nat) : Nat := memLe s.fab.dram a n

/-- Write bytes into LPDDR5X. -/
def State.putDram (a : Nat) (b : List Byte) (s : State) : State := s.onFab fun f => f.pokes .dram a b

/-- The host's memory requests reach the BARs: the link is up and the function is in D0 (R250). -/
def State.barOpen (s : State) : Bool := s.pins.rstN && s.hif.linkUp && !s.hif.d3hot

end Sys2Proof.Machine
end

