-- ==== Sys2Proof/Machine/Records.lean ====
section
/-! DEFINITION. The statistics snapshot (R424, R425, Table 17.2) and the fault record (R337, R338, Table 13.3). -/

namespace Sys2Proof.Machine

/-! ### Statistics -/

/-- The bytes of one extreme with two times (TJ_EXT, SUPPLY_EXT). -/
def Extreme.bytes2 (e : Extreme) : List Byte :=
  leBytes 2 (codeOf 16 e.lo) ++ leBytes 2 (codeOf 16 e.hi) ++ leBytes 4 e.tLo ++ leBytes 4 e.tHi

/-- The bytes of one extreme with the time of its minimum (RATE_EXT). -/
def Extreme.bytes1 (e : Extreme) : List Byte :=
  leBytes 2 (codeOf 16 e.lo) ++ leBytes 2 (codeOf 16 e.hi) ++ leBytes 4 e.tLo

/-- A vector of u32 counters as bytes. -/
def u32s {n : Nat} (v : Vector Nat n) : List Byte := v.toList.flatMap fun x => leBytes 4 x

/-- The statistics snapshot image (Table 17.2). -/
def State.snapshotImage (s : State) (seq cause : Nat) : List Byte :=
  let r := s.evr
  let b := leBytes 4 0x54534B4D ++ leBytes 4 seq ++ leBytes 4 s.opSecs ++ leBytes 3 s.flash.powerCycle ++
    leBytes 1 cause ++ leBytes 8 s.now ++ List.replicate 40 0#8 ++ r.tjHist.toList.flatMap u32s ++ u32s r.vddHist ++
    r.rateHist.toList.flatMap u32s ++ r.tjExt.toList.flatMap Extreme.bytes2 ++
    r.supplyExt.toList.flatMap Extreme.bytes2 ++ r.rateExt.toList.flatMap Extreme.bytes1 ++
    r.errors.toList.flatMap u32s ++ List.replicate 276 0#8
  b ++ leBytes 4 (crc32c b)

/-- Begin writing a snapshot; during a write, one further snapshot follows (R425). -/
def State.snapshot (cause : Nat) (s : State) : State :=
  match s.evr.snapWrite with
  | some _ => s.onEvr fun r => { r with snapAgain := some cause }
  | none =>
    let img := s.snapshotImage (s.flash.snapSeq + 1) cause
    s.onEvr fun r => { r with snapWrite := some img }

/-! ### Fault records -/

/-- A record's OUTCOME and context (Table 13.3); `seen` is the detection, where it lies before the record. -/
structure FaultCtx where
  opKind  : Nat
  opcode  : Nat
  outcome : Nat
  ident   : Nat
  context : Nat
  fails   : Nat
  replays : Nat
  second  : Nat
  seen    : Option Seen
  deriving DecidableEq, Repr

/-- OUTCOME values of R471. -/
abbrev outTransient : Nat := 0
/-- SUSPECT. -/
abbrev outSuspect : Nat := 1
/-- DIRECT. -/
abbrev outDirect : Nat := 2
/-- NO_UNIT. -/
abbrev outNoUnit : Nat := 3
/-- KILLED. -/
abbrev outKilled : Nat := 4
/-- ABANDONED. -/
abbrev outAbandoned : Nat := 5

/-- A failure with no commit unit. -/
def FaultCtx.none (outcome : Nat) : FaultCtx :=
  { opKind := 2, opcode := 0, outcome := outcome, ident := 0, context := 0, fails := 1, replays := 0, second := 0, seen := Option.none }

/-- The monitor of PWR_TJ for a unit: the highest of a core's three sensors, else its own, else the base domain. -/
def Pwr.tjOf (p : Pwr) : UnitId → Int
  | .mxc c => max (vget p.tj (3 * c.val) 0) (max (vget p.tj (3 * c.val + 1) 0) (vget p.tj (3 * c.val + 2) 0))
  | .cfe i => vget p.tj (24 + i.val) 0
  | .lpe => vget p.tj 26 0
  | .eng .wre => vget p.tj 27 0
  | .eng .gxe => vget p.tj 28 0
  | .eng .dpp => vget p.tj 29 0
  | .eng .qoe => vget p.tj 30 0
  | _ => vget p.tj 31 0

/-- The rate-locked index of a unit (Table 18.11); none without a rate monitor. -/
def unitRateIdx : UnitId → Option Nat
  | .mxc c => some c.val
  | .cfe i => some (8 + i.val)
  | .lpe => some 10
  | .eng .wre => some 11
  | .eng .gxe => some 12
  | .eng .dpp => some 13
  | .eng .qoe => some 14
  | .hub => some 15
  | .sb => some 15
  | .emt => some 16
  | _ => none

/-- The die quadrant of a unit (below Table 13.3). -/
def unitQuadrant : UnitId → Option Nat
  | .mxc c => some (c.val / 2)
  | .cfe i => some i.val
  | .eng .wre => some 0
  | .eng .gxe => some 1
  | .eng .dpp => some 2
  | .eng .qoe => some 3
  | .lpe => some 2
  | .hub => some 3
  | .sb => some 3
  | _ => none

/-- VDD_CORE at a unit: its quadrant's monitor, or the lowest of the four. -/
def Pwr.vddOf (p : Pwr) (u : UnitId) : Nat :=
  match unitQuadrant u with
  | some q => vget p.supply (16 + q) 0
  | none => min (min (vget p.supply 16 0) (vget p.supply 17 0)) (min (vget p.supply 18 0) (vget p.supply 19 0))

/-- The LDO output of a unit; 0 for a unit without an LDO. -/
def Pwr.ldoOf (p : Pwr) (u : UnitId) : Nat :=
  match unitRateIdx u with
  | some i => if i < 16 then vget p.supply i 0 else 0
  | none => 0

/-- The rate state a unit without a monitor is given. -/
def RateUnit.zero : RateUnit :=
  { rate := 0, ldo := 0, flagged := 0, owed := false, flagClear := none, inBand := 0, settled := false, below := 0, noted := 0, count := 0 }

/-- The latest window count of a unit; 0 for a unit without a rate monitor. -/
def Pwr.rateOf (p : Pwr) (u : UnitId) : Nat :=
  match unitRateIdx u with
  | some i => (vget p.units i RateUnit.zero).rate
  | none => 0

/-- The samples of a unit at an instant (R337). -/
def Pwr.see (p : Pwr) (vtime : Int) (count : Nat) (u : UnitId) : Seen :=
  { vtime := vtime, count := count, tj := p.tjOf u, vdd := p.vddOf u, ldo := p.ldoOf u, rate := p.rateOf u }

/-- A detection at the present instant. -/
def State.seen (u : UnitId) (s : State) : Seen := s.pwr.see s.vnow s.now u

/-- The 64 bytes of a fault record (Table 13.3). -/
def State.faultBytes (s : State) (f : FailReport) (c : FaultCtx) : List Byte :=
  let d := c.seen.getD (s.seen f.unit)
  let b := leBytes 1 1 ++ leBytes 1 (unitCode f.unit) ++ leBytes 1 f.subunit ++ leBytes 1 f.detector ++ leBytes 1 c.opKind ++
    leBytes 1 f.cls ++ leBytes 1 c.opcode ++ leBytes 1 c.outcome ++ leBytes 4 c.ident ++ leBytes 4 c.context ++
    leBytes 8 (codeOf 64 d.vtime) ++ leBytes 8 d.count ++ leBytes 2 (codeOf 16 d.tj) ++
    leBytes 2 d.vdd ++ leBytes 2 d.ldo ++ leBytes 2 d.rate ++
    leBytes 8 f.address ++ leBytes 4 f.detail.toNat ++ leBytes 1 (min 255 c.fails) ++ leBytes 1 c.replays ++
    leBytes 2 c.second ++ leBytes 4 0
  b ++ leBytes 4 (crc32c b)

/-- Write a fault record: the SAF_ copy with its sequence word (R437), the 64 most recent, the event and the snapshot
that also carries it to the fault-record ring (R338, R425). -/
def State.recordFault (f : FailReport) (c : FaultCtx) (s : State) : State :=
  let b := s.faultBytes f c
  let s := s.onSaf fun x => { x with faultRecord := b, faultSeq := (x.faultSeq + 2) % 2 ^ 32 }
  let s := s.onEvr fun r => { r with faults := (b :: r.faults).take 64, ringQueue := r.ringQueue ++ [b] }
  let sev := if c.outcome = outSuspect ∨ c.outcome = outDirect then sevCritical else sevError
  let s := s.note 0x2001 sev (unitCode f.unit) ((unitCode f.unit) + 0x100 * f.detector + 0x10000 * c.outcome) c.ident f.detail.toNat
  s.snapshot 1

/-- An uncorrectable error on a read for no commit unit (R127, R471): its fault record, and its event with the unit and the
address, low half first (log 160). -/
def State.faultNoUnit (f : FailReport) (s : State) : State :=
  (s.recordFault f (FaultCtx.none outNoUnit)).note 0x2003 sevError (unitCode f.unit) (f.address % 2 ^ 32) (f.address / 2 ^ 32) 0

/-- The row of Table 17.3 for a unit. -/
def unitErrRow : UnitId → Nat
  | .mxc c => c.val
  | .eng .wre => 8
  | .eng .gxe => 9
  | .eng .dpp => 10
  | .eng .qoe => 11
  | .cfe i => 12 + i.val
  | .lpe => 14
  | .emt => 15
  | .hub => 16
  | .sb => 17
  | .dmc => 18
  | .ckc => 19
  | .cpx => 20
  | .mss => 21
  | .sec => 22
  | .tmb => 23

end Sys2Proof.Machine
end

