-- ==== Sys2Proof/Machine/Flags.lean ====
section
/-! DEFINITION. The safe-state latch (R316, R317, R321, R322), the mode of CKC (Table 12.3) and the status word that the
vehicle controller reads (Table 12.11). -/

namespace Sys2Proof.Machine

/-- Codes of Table 12.8. -/
abbrev latchStartup : Nat := 1
/-- TWO_IN_EIGHT. -/
abbrev latchTwoInEight : Nat := 2
/-- LATE_LIMIT. -/
abbrev latchLateLimit : Nat := 3
/-- DEVICE_FLAGGED. -/
abbrev latchFlagged : Nat := 4
/-- CHECKER_FAULT. -/
abbrev latchChecker : Nat := 5
/-- VEHICLE_REQUEST. -/
abbrev latchVehicle : Nat := 6
/-- POWER_STATE. -/
abbrev latchPower : Nat := 7

/-- Does a cause arriving now start a new latch (R317): the latch is clear, its release is pending, or the STARTUP
latch awaits its own release. -/
def Saf.fresh (x : Saf) : Bool := !x.latched || x.relPending || x.startup

/-- A latch cause arrives (R317, R321). A new latch takes the cause and the time and increments LATCH_COUNT; any
further cause only adds a safety event. -/
def State.latch (cause : Nat) (s : State) : State :=
  if s.saf.fresh then
    let s := s.onSaf fun x =>
      { x with latched := true, cause := cause, count := (x.count + 1) % 2 ^ 16, time := (s.now / 1000) % 2 ^ 32,
               startup := false, relPending := false, relFrame := none }
    let s := s.onPins fun p => { p with safeN := false }
    let s := s.onEmt fun e => { e with frames := e.frames.map fun f => { f with safeSeen := true } }
    (s.raise causeLatch).note 0x1001 sevCritical noUnit cause s.saf.count 0
  else s.note 0x1001 sevCritical noUnit cause s.saf.count 0

/-- The latch and SAFE_N are released (R319, R320). -/
def State.unlatch (s : State) : State :=
  let n := s.saf.count
  let s := s.onSaf fun x => { x with latched := false, cause := 0, startup := false, relPending := false, relFrame := none }
  let s := s.onPins fun p => { p with safeN := true }
  (s.raise causeRelease).note 0x1002 sevNotice noUnit n 0 0

/-- Mode codes (Table 18.9). -/
def CkcMode.code : CkcMode → Nat
  | .tmr => 0 | .split => 1 | .resync => 2 | .halted => 3

/-- CKC changes mode; a change sets the CHECKER cause (Table 18.3). -/
def State.setCkcMode (m : CkcMode) (lane : Nat) (s : State) : State :=
  let was := s.ckc.mode
  let s := s.onCkc fun c => { c with mode := m, lane := lane }
  if was = m then s else s.raise causeChecker

/-- HISTORY of Table 12.11: bit i set when frame FRAME - i is in the history. -/
def Saf.historyByte (x : Saf) : Nat :=
  packBits ((List.range 8).map fun i => decide (i ≤ x.lastFrame) && x.history.contains (x.lastFrame - i))

/-- FLAGS of Table 12.11. -/
def State.statusFlags (s : State) : Nat :=
  packBits [s.saf.latched, s.saf.flagged, decide (s.ckc.mode ≠ .tmr), s.ctr.placed.isSome || s.ctr.prog.running || !s.emt.frames.isEmpty,
    s.saf.lastInvalid, s.saf.reqError, s.saf.verError, s.saf.relPending]

/-- Highest junction temperature in whole degrees, rounded down, limited to a signed byte. -/
def Pwr.tjMax (p : Pwr) : Int :=
  let t := p.tj.toList.foldl max (vget p.tj 0 0)
  max (-128) (min 127 (t / 8))

/-- The 32 bytes of a status frame snapshot (Table 12.11). -/
def State.statusFrame (s : State) : List Byte :=
  let x := s.saf
  let b := leBytes 1 1 ++ leBytes 1 s.pwr.state.code ++ leBytes 2 x.alive ++ leBytes 2 s.statusFlags ++
    leBytes 1 s.ckc.mode.code ++ leBytes 1 (if x.latched then x.cause else 0) ++ leBytes 4 x.lastFrame ++
    leBytes 1 x.historyByte ++ leBytes 1 x.rxErrors ++ leBytes 2 x.count ++ leBytes 2 x.lastReasons ++
    leBytes 2 x.lateLast ++ leBytes 4 x.time ++ leBytes 2 x.ctrlAlive ++ leBytes 1 x.faultUnit ++
    leBytes 1 (codeOf 8 s.pwr.tjMax)
  b ++ leBytes 4 (crc32c b)

end Sys2Proof.Machine
end

