-- ==== Sys2Proof/Machine/Protocol.lean ====
section
/-! DEFINITION. The command protocol: packets (Table 10.5), host rings (R257-R260), replies (Table 10.6, R262, R264),
regions (R144) and the conditions that every packet meets before its command starts (R264-R267, R269, R270). -/

namespace Sys2Proof.Machine

/-! ### Packets -/

/-- An unsigned field of `n` bytes at a packet offset. -/
def Packet.u (p : Packet) (off n : Nat) : Nat := (p.bits.toNat >>> (8 * off)) % 2 ^ (8 * n)
/-- OPCODE. -/
def Packet.opcode (p : Packet) : Nat := p.u 0 1
/-- TAG. -/
def Packet.tag (p : Packet) : Word := BitVec.ofNat 32 (p.u 4 4)
/-- CMD_INDEX. -/
def Packet.cmdIndex (p : Packet) : Nat := p.u 8 4
/-- The same packet of the same ring. -/
def Packet.same (p q : Packet) : Bool := decide (p.ring = q.ring) && decide (p.pos = q.pos)

/-- A ring number that no ring has: the packets of a destroyed ring keep it, and no reply is written (R262). -/
abbrev noRing : Nat := 0x100000
/-- The admin command ring (R256). -/
abbrev adminCmd : Nat := 0xFFE
/-- The admin completion ring (R256). -/
abbrev adminCpl : Nat := 0xFFF

/-- Status codes of Table 10.10. -/
abbrev stDone : Nat := 0x00
/-- DONE_KILL_TOO_LATE. -/
abbrev stTooLate : Nat := 0x01
/-- KILLED. -/
abbrev stKilled : Nat := 0x02
/-- DEFERRED. -/
abbrev stDeferred : Nat := 0x03
/-- SCALE_RETRY_DONE. -/
abbrev stScaleRetry : Nat := 0x04
/-- REPLAYED_DONE. -/
abbrev stReplayed : Nat := 0x05
/-- BAD_PARAM. -/
abbrev stBadParam : Nat := 0x10
/-- UNKNOWN_OPCODE. -/
abbrev stUnknown : Nat := 0x11
/-- VERSION_MISMATCH. -/
abbrev stVersion : Nat := 0x12
/-- NO_RESOURCE. -/
abbrev stNoResource : Nat := 0x13
/-- CONTRACT_REJECTED. -/
abbrev stRejected : Nat := 0x14
/-- AUTH_FAILED. -/
abbrev stAuth : Nat := 0x15
/-- BANK_OFF. -/
abbrev stBankOff : Nat := 0x16
/-- NONFINITE. -/
abbrev stNonfinite : Nat := 0x17
/-- GENERATION_CHANGED. -/
abbrev stGeneration : Nat := 0x18
/-- PARTITION_VIOLATION. -/
abbrev stPartition : Nat := 0x19
/-- DEVICE_FLAGGED. -/
abbrev stFlagged : Nat := 0x1A
/-- NOT_READY. -/
abbrev stNotReady : Nat := 0x1B
/-- HW_FAULT. -/
abbrev stHwFault : Nat := 0x20

/-- The opcodes of Table 10.9: (opcode, admin only, first protocol version that has it). -/
def opTable : List (Nat × Bool × Nat) :=
  [(0x01, false, 0x100), (0x02, false, 0x100), (0x10, true, 0x100), (0x11, true, 0x100), (0x12, false, 0x100),
   (0x13, false, 0x100), (0x20, true, 0x100), (0x21, true, 0x100), (0x22, true, 0x100), (0x23, true, 0x100),
   (0x30, false, 0x100), (0x31, false, 0x100), (0x32, false, 0x100), (0x33, false, 0x100), (0x34, true, 0x100),
   (0x35, false, 0x200), (0x36, false, 0x200), (0x40, false, 0x100), (0x41, false, 0x100), (0x50, true, 0x100),
   (0x51, true, 0x100), (0x52, true, 0x100), (0x53, true, 0x100), (0x60, false, 0x100), (0x61, true, 0x100),
   (0x62, false, 0x100), (0x70, true, 0x100), (0x71, true, 0x100), (0x72, true, 0x100), (0x73, false, 0x100),
   (0x74, false, 0x100), (0x80, true, 0x100), (0x81, true, 0x100), (0x82, true, 0x100), (0x90, true, 0x201),
   (0x91, true, 0x201), (0xA0, true, 0x202)]

/-- A row of Table 10.9. -/
def opRow (op : Nat) : Option (Nat × Bool × Nat) := opTable.find? fun r => r.1 = op
/-- The opcode is one of Table 10.9. -/
def opKnown (op : Nat) : Bool := (opRow op).isSome
/-- Marked A in Table 10.9. -/
def opAdmin (op : Nat) : Bool := match opRow op with | some r => r.2.1 | none => false
/-- The version has the opcode (Table 10.7). -/
def opIn (ver op : Nat) : Bool := match opRow op with | some r => decide (r.2.2 ≤ ver) | none => false
/-- Commands that run on MSS firmware, one at a time (R263). -/
def opFirmware (op : Nat) : Bool := decide (0x50 ≤ op ∧ op ≤ 0x82) || decide (op = 0xA0)
/-- Allowed inside a job (R270). -/
def opInJob (op : Nat) : Bool := op = 0x31 || op = 0x32 || op = 0x35 || op = 0x36

/-! ### Clients and rings -/

/-- An open client. -/
def Cpx.client? (c : Cpx) (id : Nat) : Option Client := c.clients.find? fun x => x.id = id
/-- Replace an open client's record. -/
def Cpx.putClient (c : Cpx) (x : Client) : Cpx :=
  { c with clients := c.clients.map fun y => if y.id = x.id then x else y }
/-- A host or admin ring. -/
def Cpx.ring? (c : Cpx) (id : Nat) : Option Ring := c.rings.find? fun r => r.id = id
/-- Replace a ring's descriptor. -/
def Cpx.putRing (c : Cpx) (r : Ring) : Cpx := { c with rings := c.rings.map fun x => if x.id = r.id then r else x }
/-- The job of a command ring. -/
def Cpx.job? (c : Cpx) (ring : Nat) : Option Job := c.jobs.find? fun j => j.ring = ring
/-- Replace a job. -/
def Cpx.putJob (c : Cpx) (j : Job) : Cpx := { c with jobs := c.jobs.map fun x => if x.ring = j.ring then j else x }
/-- The RUNNING job (R279). -/
def Cpx.running? (c : Cpx) : Option Job := c.jobs.find? fun j => j.state = .running
/-- The protocol version that a client negotiated; 0 before its first HELLO. -/
def Cpx.proto (c : Cpx) (id : Nat) : Nat :=
  match c.client? id with
  | some x => match x.versions with | some v => v.proto | none => 0
  | none => 0

/-- Distance of free-running 32-bit indices (R259). -/
def idxDist (a b : Nat) : Nat := (a + 2 ^ 32 - b % 2 ^ 32) % 2 ^ 32
/-- Bytes of an entry of a host ring (R258, Table 9.1). -/
def RingKind.entrySize : RingKind → Nat
  | .command => 64 | .completion => 32 | .tileStream => 256 | .objectStream => 16448 | .verdictStream => 256
/-- The host address of the entry that an index names (R258). -/
def Ring.entryAddr (r : Ring) (i : Nat) : Nat := r.base.toNat + i % r.entries * r.kind.entrySize
/-- The host address of a ring's index block, after its entries (R258). -/
def Ring.blockAddr (r : Ring) : Nat := r.base.toNat + r.entries * r.kind.entrySize
/-- The index block of a ring at an index (R258, Table 10.4). -/
def Ring.block (r : Ring) (i : Nat) : HostPost := .indexBlock r.id r.blockAddr i r.error
/-- The next free-running index. -/
def idxNext (a : Nat) : Nat := (a + 1) % 2 ^ 32
/-- Entries of a ring that are full. -/
def Ring.used (r : Ring) : Nat := idxDist r.tail r.head

/-- After an index block, the message of R255: when COALESCE + 1 entries were added, or none is ready to follow. -/
def State.ringMessage (id : Nat) (more : Bool) (s : State) : State :=
  match s.cpx.ring? id with
  | none => s
  | some r =>
    if r.irq && (!more || decide (r.coalesce + 1 ≤ r.sinceMsg)) then
      (s.onCpx fun c => c.putRing { r with sinceMsg := 0 }).message r.vector
    else s

/-- Write an entry of a ring that the KM880 produces, then the index block that covers it (R260, R258). With the link down
nothing is written (R262). -/
def State.pushEntry (id : Nat) (more : Bool) (entry : Nat → HostPost) (s : State) : State :=
  match s.cpx.ring? id with
  | none => s
  | some r =>
    if !s.hif.linkUp then s else
    let s := s.post (entry (r.entryAddr r.tail))
    let r' := { r with tail := idxNext r.tail, sinceMsg := r.sinceMsg + 1 }
    let s := s.onCpx fun c => c.putRing r'
    (s.post (r'.block r'.tail)).ringMessage id more

/-- What a write of the part puts into host memory: an address and its bytes (Tables 9.1, 10.4, 10.6). -/
def Reply.bytes (r : Reply) : List Byte :=
  leBytes 1 r.opcode ++ leBytes 1 r.status ++ leBytes 2 r.detail ++ leBytes 4 r.tag.toNat ++ leBytes 4 r.position ++
    leBytes 6 r.waves ++ leBytes 6 r.ns ++ leBytes 8 r.result.toNat
/-- The bytes that a post writes to host memory, and where; none for messages, read data and errors. -/
def HostPost.hostWrite : HostPost → Option (Nat × List Byte)
  | .reply _ a r => some (a, r.bytes)
  | .record _ a b => some (a, b)
  | .indexBlock _ a i e => some (a, leBytes 4 i ++ leBytes 4 (if e then 1 else 0) ++ List.replicate 56 0#8)
  | .block a b => some (a, b)
  | _ => none

/-! ### Replies -/

/-- Packets that have started and are without a reply. -/
def Cpx.startedPackets (c : Cpx) : List Packet :=
  c.packets.filter (fun p => p.started.isSome) ++ (match c.qm with | some q => [q.pkt] | none => [])

/-- The completion ring of a command ring. -/
def Cpx.cplOf (c : Cpx) (ring : Nat) : Option Ring :=
  match c.ring? ring with
  | some r => c.ring? r.link
  | none => none

/-- The packet's completion ring is `q`. -/
def Cpx.repliesTo (c : Cpx) (q : Ring) (p : Packet) : Bool := match c.ring? p.ring with | some r => decide (r.link = q.id) | none => false
/-- Entries of a completion ring that are full or reserved (R264). -/
def Cpx.cplHeld (c : Cpx) (q : Ring) : Nat := q.used + (c.startedPackets.filter (c.repliesTo q)).length
/-- Replies that wait for an entry of a completion ring. -/
def Cpx.owedTo (c : Cpx) (q : Ring) : Nat := (c.owed.filter fun o => c.repliesTo q o.pkt).length

/-- A completion entry can still be reserved for a command of this ring (R264). -/
def Cpx.cplRoom (c : Cpx) (ring : Nat) : Bool :=
  match c.cplOf ring with
  | none => false
  | some q => decide (c.cplHeld q + c.owedTo q < q.entries)

/-- The reply's fields; WAVES and NS read zero under version 1.0 (Table 10.7). -/
def replyOf (pk : Packet) (proto st dt waves ns : Nat) (res : Nat) : Reply :=
  { opcode := pk.opcode, status := st, detail := dt, tag := pk.tag, position := pk.pos,
    waves := if proto = 0x100 then 0 else satU 48 waves, ns := if proto = 0x100 then 0 else satU 48 ns,
    result := BitVec.ofNat 64 res }

/-- IRQ_ON_REPLY (Table 10.5): the message of R255 follows this reply at once. -/
def Packet.irqOnReply (p : Packet) : Bool := p.bits.getLsbD 8

/-- Write a reply into the completion ring; with the ring gone, none is written (R262). A command that had started has its
entry; any other reply waits while no entry is released and unreserved (R260, R264). -/
def State.writeReply (pk : Packet) (more : Bool) (r : Reply) (s : State) : State :=
  match s.cpx.cplOf pk.ring with
  | none => s
  | some q =>
    if pk.started.isSome || s.cpx.cplRoom pk.ring then s.pushEntry q.id (more && !pk.irqOnReply) fun a => .reply q.id a r
    else s.onCpx fun c => { c with owed := c.owed ++ [{ pkt := pk, reply := r }] }

/-- Replies that waited go out in order, as far as entries are free (R260, R264); those whose ring is gone are lost (R262). -/
def State.drainOwed (s : State) : State :=
  s.cpx.owed.foldl (fun s o => s.writeReply o.pkt false o.reply) (s.onCpx fun c => { c with owed := [] })

/-- Statuses that END_JOB counts as done (Table 10.9). -/
def countsDone (st : Nat) : Bool := st = stDone || st = stScaleRetry || st = stReplayed

/-- A command of a job has its reply (R270): its outcome counts, and where it was the command at the front, its pre-emptions end
(R283). -/
def Job.retire (j : Job) (pk : Packet) (st : Nat) : Job :=
  let front := match j.cmds.head? with | some p => p.same pk | none => false
  { j with cmds := j.cmds.filter (fun p => !p.same pk), preempts := if front then 0 else j.preempts,
           visible := if front then [] else j.visible,
           okCount := if countsDone st && pk.opcode ≠ 0x32 then j.okCount + 1 else j.okCount,
           badCount := if !countsDone st && pk.opcode ≠ 0x32 then j.badCount + 1 else j.badCount }

/-- The packet of a command has its reply: it leaves CPX, and a job counts its outcome (R270). -/
def Cpx.retire (c : Cpx) (pk : Packet) (st : Nat) : Cpx :=
  match pk.cmdIdx with
  | none => { c with packets := c.packets.filter fun p => !p.same pk }
  | some _ =>
    { c with
      jobs := c.jobs.map fun j => if j.ring = pk.ring then j.retire pk st else j
      unmaps := c.unmaps.map fun u => { u with waits := u.waits.filter fun w => !(w.1 = pk.ring && w.2 = pk.pos) } }

/-- One reply: the packet retires and the completion entry is written. -/
def State.replyBase (pk : Packet) (more : Bool) (st dt res waves ns : Nat) (s : State) : State :=
  (s.onCpx fun c => c.retire pk st).writeReply pk more (replyOf pk (s.cpx.proto pk.client) st dt waves ns res)

/-- Every UNMAP_BUFFER whose commands have all replied replies DONE (R271). -/
def State.settleUnmaps (s : State) : State :=
  let ready := s.cpx.unmaps.filter fun u => u.waits.isEmpty
  let s := s.onCpx fun c => { c with unmaps := c.unmaps.filter fun u => !u.waits.isEmpty }
  ready.foldl (fun s u => s.replyBase u.pkt false stDone 0 0 0 (s.now - u.pkt.started.getD s.now)) s

/-- The host-memory block of a command, written before its reply (R264). -/
def State.hostWrite (addr : Nat) (b : List Byte) (s : State) : State := s.post (.block addr b)

/-! ### Regions -/

/-- Tags of R144. -/
abbrev tagSafe : Nat := 1
/-- QM. -/
abbrev tagQm : Nat := 2
/-- HOST_SHARED. -/
abbrev tagShared : Nat := 3

/-- The region that holds an address. -/
def Mss.regionOf (m : Mss) (a : Nat) : Option Region := m.regions.find? fun r => decide (r.base ≤ a) && decide (a < r.base + r.size)
/-- The tag of an address; 0 outside every region. -/
def Mss.tagAt (m : Mss) (a : Nat) : Nat := match m.regionOf a with | some r => r.tag | none => 0
/-- A range lies wholly within one region of a tag (R269). -/
def Mss.inOne (m : Mss) (tag a n : Nat) : Bool :=
  match m.regionOf a with
  | some r => decide (r.tag = tag) && decide (a + n ≤ r.base + r.size)
  | none => false

/-! ### Before a command starts -/

/-- What the device state refuses (R265): status and detail. -/
def stateGate (st : DevState) (op : Nat) : Option (Nat × Nat) :=
  match st with
  | .boot => if op = 0x01 || op = 0x02 then none else some (stNotReady, 0)
  | .draining => if op = 0x01 || op = 0x02 || op = 0x60 || op = 0x62 then none else some (stNotReady, 3)
  | .shutdownTest => if op = 0x01 || op = 0x02 then none else some (stNotReady, 7)
  | .recovery =>
    if [0x01, 0x02, 0x60, 0x62, 0x73, 0x74, 0x70, 0x71, 0x72].contains op then none else some (stNotReady, 5)
  | .flagged =>
    if [0x20, 0x21, 0x22, 0x30, 0x34, 0x90, 0x91].contains op then some (stFlagged, 0) else none
  | _ => none

/-- The parameter fields of an opcode: (offset, bytes) (Table 10.9). -/
def opFields (op : Nat) : List (Nat × Nat) :=
  match op with
  | 0x01 => [(0x10, 8)]
  | 0x02 => [(0x18, 8)]
  | 0x11 => [(0x10, 2)]
  | 0x12 => [(0x10, 4), (0x14, 4), (0x18, 8), (0x20, 4), (0x24, 2)]
  | 0x13 => [(0x10, 4)]
  | 0x20 => [(0x10, 8), (0x18, 4)]
  | 0x22 => [(0x10, 8)]
  | 0x23 => [(0x10, 1)]
  | 0x30 => [(0x10, 1), (0x18, 8)]
  | 0x31 => [(0x10, 8), (0x18, 8)]
  | 0x33 => [(0x10, 4), (0x14, 4), (0x18, 1)]
  | 0x34 => [(0x10, 1)]
  | 0x35 => [(0x10, 4), (0x14, 4), (0x18, 8)]
  | 0x36 => [(0x10, 4)]
  | 0x40 => [(0x10, 8), (0x18, 8), (0x20, 8), (0x28, 2)]
  | 0x41 => [(0x10, 4)]
  | 0x50 => [(0x10, 2), (0x14, 4), (0x18, 8), (0x20, 8)]
  | 0x51 => [(0x10, 3), (0x18, 8), (0x20, 4), (0x24, 4), (0x28, 4)]
  | 0x52 => [(0x10, 4), (0x14, 2)]
  | 0x60 => [(0x10, 4), (0x14, 4), (0x18, 8)]
  | 0x61 => [(0x10, 8), (0x18, 4)]
  | 0x62 => [(0x10, 1), (0x14, 4), (0x18, 8)]
  | 0x70 => [(0x10, 4), (0x14, 4)]
  | 0x71 => [(0x10, 8), (0x18, 4), (0x1C, 4)]
  | 0x73 => [(0x10, 32), (0x30, 8)]
  | 0x74 => [(0x10, 1), (0x18, 8)]
  | 0x81 => [(0x10, 8), (0x18, 4)]
  | 0x82 => [(0x10, 8), (0x18, 4)]
  | 0x90 => [(0x10, 1)]
  | 0xA0 => [(0x14, 4), (0x18, 8)]
  | _ => []

/-- The first byte of a packet that must be zero and is not: FLAGS beyond [0] (Table 10.5), or a parameter byte that the opcode
does not use (R261). -/
def Packet.strayByte (pk : Packet) : Option Nat :=
  if 1 < pk.u 1 1 then some 1
  else ((List.range 48).map fun i => 0x10 + i).find? fun o =>
    pk.u o 1 ≠ 0 && !(opFields pk.opcode).any fun f => decide (f.1 ≤ o) && decide (o < f.1 + f.2)

/-- The refusals that come before a command's own rules (R261, R265-R267, R269, R270): (status, detail). Their order, and that
a byte which must be zero refuses the packet, are log 17. -/
def State.gate (s : State) (pk : Packet) : Option (Nat × Nat) :=
  let op := pk.opcode
  let ver := s.cpx.proto pk.client
  if op ≠ 0x01 ∧ ver = 0 then some (stVersion, 0xFF)
  else if pk.cmdIdx.isSome ∧ !opInJob op then some (stBadParam, 0)
  else if op ≠ 0x01 ∧ !opIn ver op then some (stUnknown, 0)
  else if opAdmin op ∧ pk.ring ≠ adminCmd then some (stBadParam, 0xFFFE)
  else match stateGate s.pwr.state op with
    | some r => some r
    | none =>
      if pk.cmdIdx.isNone ∧ opInJob op then some (stBadParam, 0)
      else if pk.cmdIndex ≠ pk.cmdIdx.getD 0 then some (stBadParam, 8)
      else pk.strayByte.map fun o => (stBadParam, o)

/-- Firmware is busy with a command that holds the MSS until its reply (R263). PREPARE_OFF holds nothing: LOG_READ and STATS_READ
run while it drains (R265). -/
def State.mssBusy (s : State) : Bool :=
  s.mss.discover.isSome || s.mss.diag.isSome || s.mss.flagClear.isSome || s.flash.commit.isSome || s.sen.i2c.any fun q => !q.isEmpty

/-- A SUBMIT_JOB waits ahead of the packet on its ring with no END_JOB between them: the packet lies in its job (R270). -/
def Cpx.inWaitingJob (c : Cpx) (pk : Packet) : Bool :=
  ((c.packets.takeWhile fun p => !p.same pk).filter fun p => p.ring = pk.ring).foldl
    (fun b p => if p.opcode = 0x30 && p.started.isNone then true else if p.opcode = 0x32 then false else b) false

/-- KILL runs as soon as it is fetched (R263), but not inside a job, where it is not allowed (R270). -/
def Cpx.killNow (c : Cpx) (p : Packet) : Bool := p.opcode = 0x33 && !c.inWaitingJob p

/-- A command whose reply waits for a swap, a frame boundary or a band boundary lets the admin ring go on: R64 and R66 answer
packets that follow a pending ARM_CONTRACT, and only LAUNCH_AT brings the boundary (DEDUCED, log 167). -/
def Packet.letsOn (p : Packet) : Bool := p.started.isSome && (p.opcode = 0x21 || p.opcode = 0x90 || p.opcode = 0x91)

/-- The packet of a ring that comes next: no earlier packet of the ring is without a reply (R263); inside a RUNNING
job it is the job's next command, and an OPEN or ELIGIBLE job holds the ring back (R270). -/
def Cpx.front (c : Cpx) (ring : Nat) : Option Packet :=
  match c.job? ring with
  | some j => if j.state = .running && c.qm.isNone then j.cmds.head? else none
  | none =>
    match c.packets.find? (fun p => p.ring = ring && !c.killNow p && !p.letsOn) with
    | some p => if p.started.isSome then none else some p
    | none => none

/-- A packet with an opcode that Table 10.9 does not list, whose turn has come and whose reply has room. -/
def Cpx.undefinedFront (c : Cpx) : Option Packet :=
  c.rings.findSome? fun r => match c.front r.id with
    | some p => if !opKnown p.opcode && c.cplRoom r.id then some p else none
    | none => none

/-- Packets with undefined opcodes are refused at their turn (R263, R269); no row of the table stands for them. -/
def State.answerUndefined : Nat → State → State
  | 0, s => s
  | n + 1, s => match s.cpx.undefinedFront with
    | none => s
    | some p =>
      let g := (s.gate p).getD (stUnknown, 0)
      State.answerUndefined n (s.replyBase { p with started := some s.now } false g.1 g.2 0 0 0)

/-- What follows replies: buffers whose users are gone are unmapped (R271), and undefined packets whose turn has come are refused. -/
def State.settle (s : State) : State :=
  let s := s.settleUnmaps
  if s.cpx.undefinedFront.isNone then s else (s.answerUndefined (s.cpx.packets.length + (s.cpx.jobs.map fun j => j.cmds.length).sum)).settleUnmaps

/-- End a command with its reply. -/
def State.replyAll (pk : Packet) (st dt res waves ns : Nat) (s : State) : State :=
  (s.replyBase pk false st dt res waves ns).settle

/-- The ordinary reply: NS runs from the command's start, WAVES is zero (Table 10.6). -/
def State.reply (pk : Packet) (st dt res : Nat) (s : State) : State :=
  s.replyAll pk st dt res 0 (s.now - pk.started.getD s.now)

/-- DONE with a RESULT. -/
def State.done (pk : Packet) (res : Nat) (s : State) : State := s.reply pk stDone 0 res
/-- BAD_PARAM naming a packet offset. -/
def State.bad (pk : Packet) (off : Nat) (s : State) : State := s.reply pk stBadParam off 0
/-- NO_RESOURCE with a RESULT. -/
def State.noRes (pk : Packet) (res : Nat) (s : State) : State := s.reply pk stNoResource 0 res

/-- The packet's command begins now. -/
def State.markStarted (pk : Packet) (s : State) : State :=
  s.onCpx fun c => { c with packets := c.packets.map fun p => if p.same pk then { p with started := some s.now } else p }

/-- Run the front packet of a ring when it is of the given opcode and may start; `body` gets the started packet. -/
def State.runPacket (ring op : Nat) (body : Packet → State → State) (s : State) : State :=
  if !s.pins.rstN then s else
  match s.cpx.front ring with
  | none => s
  | some pk =>
    if pk.opcode ≠ op || !s.cpx.cplRoom ring then s
    else
      let pk' := { pk with started := some s.now }
      match s.gate pk with
      | some (st, dt) => (s.markStarted pk).reply pk' st dt 0
      | none => if opFirmware op && s.mssBusy then s else body pk' (s.markStarted pk)

/-- The host-memory writes that one command may hold before its commit, in bytes (R264). -/
abbrev hostWriteMax : Nat := 0x100000
/-- A 64-byte aligned host address (R269). -/
def aligned64 (a : Nat) : Bool := decide (a % 64 = 0)

end Sys2Proof.Machine
end

