-- ==== Sys2Proof/Machine/Fabric.lean ====
section
/-! DEFINITION. What a commit unit may touch and how: the provisional journal (R18, Table 1.3), the rights of R146,
banks that are off (R137), the write-back cache of B6 and B7 (R129-R132), and commit and discard. -/

namespace Sys2Proof.Machine

/-- Bytes of one scratchpad (R124). -/
abbrev spadSize : Nat := 0x1000000
/-- Bytes of one scratchpad bank. -/
abbrev bankSize : Nat := 0x200000
/-- Bytes of one SB segment. -/
abbrev segSize : Nat := 0x800000

/-- The domain of a bank of core `c` (R124, Table 4.1): B0-B3 in PD(4c+2), B4-B7 in PD(4c+3). -/
def bankDomain (c b : Nat) : Nat := if b < 4 then 4 * c + 2 else 4 * c + 3
/-- The domain of an SB segment. -/
def segDomain (g : Nat) : Nat := 32 + g
/-- An SB address is in the form of R133. -/
def sbValid (a : Nat) : Bool := decide (a / 0x1000000 < 6) && decide (a % 0x1000000 < segSize)
/-- An SB range lies in one segment. -/
def sbRange (a n : Nat) : Bool := sbValid a && decide (a % 0x1000000 + n ≤ segSize)

/-- What a commit unit works on: the fabric, its own run, and what it may reach. `qm` says whether it is a command;
`usable` has a bit for each domain that is on and not closing, `rising` for each that is switching on and not closing, and `wait` says that the
unit met one of those (R128, R137); `barBanks` and
`barSegs` are the contracts' banks and segments, closed to commands (R285); `lent` are the ranges lent to a command's client;
`pwr`, `vtime` and `clock` tell
what a detector sees (R337), `cls` is the class of the instruction; `used` are the
banks (core x 8 + bank) and segments (64 + segment) that it has touched (R285); `stats` collects (row, column, count) for the error counters. -/
structure Cx where
  fab      : Fab
  run      : Run
  mss      : Mss
  usable   : BitVec 64
  rising   : BitVec 64
  wait     : Bool
  qm       : Bool
  barBanks : List Nat
  barSegs  : List Nat
  lent     : List (Nat × Nat)
  cores    : Nat
  aperture : Option Nat
  used     : List Nat
  free     : Nat
  stats    : List (Nat × Nat × Nat)
  pwr      : Pwr
  vtime    : Int
  clock    : Nat
  cls      : Nat
  deriving DecidableEq, Repr

/-- The command ends with a status; the first one stands. -/
def Cx.stop (st : Nat) (x : Cx) : Cx := if x.run.status.isSome then x else { x with run := { x.run with status := some st } }

/-- A failed check joins a run (R332: the first is the one recorded), with its detection. -/
def Run.fail (r : Run) (f : FailReport) (d : Seen) : Run :=
  { r with failed := some (r.failed.getD f), seen := some (r.seen.getD d), fails := r.fails + 1,
           failUnits := if (r.failUnits.any fun g => decide (g.unit = f.unit)) then r.failUnits else r.failUnits ++ [f] }

/-- A hardware check of the instruction or record failed. -/
def Cx.failCheck (r : FailReport) (x : Cx) : Cx :=
  { x with run := x.run.fail { r with cls := x.cls } (x.pwr.see x.vtime x.clock r.unit) }

/-- Count in the error statistics. -/
def Cx.count (row col n : Nat) (x : Cx) : Cx := if n = 0 then x else { x with stats := (row, col, n) :: x.stats }

/-- The next free value of the run (an index into `Config.freeValue`). -/
def Cx.fresh (x : Cx) : DWord × Cx := (Config.freeValue x.free, { x with free := x.free + 1 })

/-- Nothing has ended the run early. -/
def Cx.live (x : Cx) : Bool := x.run.status.isNone

/-! ### Provisional bytes -/

/-- The byte a run sees: its own latest write, else memory (R18). -/
def Cx.get (x : Cx) (sp : Space) (a : Nat) : Byte :=
  match x.run.journal.find? (fun w => w.addr = a && w.space = sp) with
  | some w => w.byte
  | none => x.fab.peek sp a

/-- The bytes a run sees. -/
def Cx.bytes (x : Cx) (sp : Space) (a n : Nat) : List Byte := (List.range n).map fun i => x.get sp (a + i)

/-- The little-endian number a run sees. -/
def Cx.le (x : Cx) (sp : Space) (a n : Nat) : Nat := leNat (x.bytes sp a n)

/-- Write one byte provisionally. -/
def Cx.set (sp : Space) (a : Nat) (b : Byte) (x : Cx) : Cx :=
  { x with run := { x.run with journal := { space := sp, addr := a, byte := b } :: x.run.journal } }

/-- Write bytes provisionally. -/
def Cx.put (sp : Space) (a : Nat) (bs : List Byte) (x : Cx) : Cx :=
  (bs.foldl (fun (p : Nat × Cx) b => (p.1 + 1, p.2.set sp p.1 b)) (a, x)).2

/-- The provisional bytes of a run, applied to memory oldest first. -/
def Fab.applyJournal (f : Fab) : List JWrite → Fab
  | [] => f
  | w :: r => (Fab.applyJournal f r).poke w.space w.addr w.byte

/-! ### Rights -/

/-- The 64-byte lines of a range. -/
def linesOf (a n : Nat) : List Nat := if n = 0 then [] else (List.range ((a + n - 1) / 64 - a / 64 + 1)).map fun i => 64 * (a / 64 + i)

/-- The unit may access the line at a device address (Table 6.3, R271). -/
def Cx.lineOk (x : Cx) (line : Nat) : Bool :=
  let t := x.mss.tagAt line
  if x.qm then
    t = tagQm || (t = tagShared && x.lent.any fun b => decide (b.1 ≤ line) && decide (line < b.1 + b.2))
  else t = tagSafe

/-- The report of a step's forbidden access (detector 0x06). -/
def regionReport (u : UnitId) (a tag : Nat) : FailReport :=
  { detector := 0x06, unit := u, subunit := 0xFF, cls := 0xFF, address := a, detail := BitVec.ofNat 32 tag }

/-- An access to a domain: it waits while the domain is switching on, and ends the command where it is off or closing (R137). -/
def Cx.needDomain (d : Nat) (x : Cx) : Cx :=
  if x.usable.getLsbD d then x else if x.rising.getLsbD d then { x with wait := true } else x.stop stBankOff

/-- The banks that `n` bytes from address `a` of a scratchpad lie in. -/
def banksOf (a n : Nat) : List Nat := (List.range ((a + n - 1) / bankSize - a / bankSize + 1)).map fun i => a / bankSize + i

/-- The unit uses a bank or a segment. -/
def Cx.use (l : List Nat) (x : Cx) : Cx := { x with used := x.used ++ l.filter fun b => !x.used.contains b }

/-- The unit touches `n` bytes of a space (R137, R146): a command ends with PARTITION_VIOLATION or BANK_OFF, a step
fails its region check. -/
def Cx.touch (u : UnitId) (sp : Space) (a n : Nat) (x : Cx) : Cx :=
  match sp with
  | .dram =>
    match (linesOf a n).find? fun l => !x.lineOk l with
    | none => x
    | some l => if x.qm then x.stop stPartition else x.failCheck (regionReport u l (x.mss.tagAt l))
  | .sb =>
    if n = 0 then x else if !sbRange a n then x.stop stBadParam
    else if x.qm && x.barSegs.contains (a / 0x1000000) then x.stop stNoResource
    else (x.use [64 + a / 0x1000000]).needDomain (segDomain (a / 0x1000000))
  | .spad c =>
    if n = 0 then x else if spadSize < a + n then x.stop stBadParam
    else if x.qm && (!x.cores.testBit c.val || (banksOf a n).any fun b => x.barBanks.contains (8 * c.val + b)) then x.stop stNoResource
    else (banksOf a n).foldl (fun x b => x.needDomain (bankDomain c.val b)) (x.use ((banksOf a n).map fun b => 8 * c.val + b))
  | .ckc => x

/-- Checked read. -/
def Cx.read (u : UnitId) (sp : Space) (a n : Nat) (x : Cx) : List Byte × Cx := (x.bytes sp a n, x.touch u sp a n)
/-- Checked provisional write. -/
def Cx.write (u : UnitId) (sp : Space) (a : Nat) (bs : List Byte) (x : Cx) : Cx := (x.touch u sp a bs.length).put sp a bs

/-! ### The cache of B6 and B7 -/

/-- The set of a line address (R129). -/
def cacheSet (line : Nat) : Nat := (line / 64) % 8192

/-- The pseudo-LRU bits of a set. -/
def Cache.bitsOf (c : Cache) (set : Nat) : Nat := match c.plru.find? (fun p => p.1 = set) with | some p => p.2 | none => 0
/-- Bit `i` of a number set or cleared. -/
def putBit (v i : Nat) (b : Bool) : Nat := if v.testBit i = b then v else if b then v + 2 ^ i else v - 2 ^ i
/-- After an access to a way, each node on its path points away from it. -/
def plruTouch (bits way : Nat) : Nat :=
  let b2 := way / 4 % 2
  let b1 := way / 2 % 2
  let b0 := way % 2
  putBit (putBit (putBit bits 0 (b2 = 0)) (1 + b2) (b1 = 0)) (3 + 2 * b2 + b1) (b0 = 0)
/-- The way that the tree points to. -/
def plruVictim (bits : Nat) : Nat :=
  let b2 := if bits.testBit 0 then 1 else 0
  let b1 := if bits.testBit (1 + b2) then 1 else 0
  let b0 := if bits.testBit (3 + 2 * b2 + b1) then 1 else 0
  4 * b2 + 2 * b1 + b0
/-- Record an access to a way. -/
def Cache.use (c : Cache) (set way : Nat) : Cache :=
  { c with plru := (set, plruTouch (c.bitsOf set) way) :: c.plru.filter fun p => p.1 ≠ set }
/-- The lines of a set. -/
def Cache.inSet (c : Cache) (set : Nat) : List CacheLine := c.lines.filter fun l => cacheSet l.addr = set

/-- Write a dirty line back to LPDDR5X. -/
def Fab.writeBack (f : Fab) (l : CacheLine) : Fab := if l.dirty then f.pokes .dram l.addr l.data else f

/-- Bring a line into the cache of core `c`: a free way, else the victim, whose dirty data is written back. A line with
provisional data is never evicted (R130). -/
def Fab.cacheFill (f : Fab) (c : Fin 8) (line : Nat) : Fab :=
  match f.caches.get c with
  | none => f
  | some k =>
    if k.lines.any (fun l => l.addr = line) then f else
    let set := cacheSet line
    let here := k.inSet set
    let way :=
      match (List.range 8).find? fun w => !here.any fun l => l.way = w with
      | some w => w
      | none =>
        let v := plruVictim (k.bitsOf set)
        if here.any (fun l => l.way = v && !l.prov) then v
        else ((List.range 8).find? fun w => here.any fun l => l.way = w && !l.prov).getD v
    let old := here.find? fun l => l.way = way
    let f' := match old with | some l => f.writeBack l | none => f
    let l : CacheLine := { addr := line, way := way, data := f'.peeks .dram line 64, dirty := false, prov := false }
    { f' with caches := f'.caches.set c (some ({ k with lines := l :: k.lines.filter fun l => !(cacheSet l.addr = set && l.way = way) }.use set way)) }

/-- The bytes of a line as the cache of a core holds it after a fill. -/
def Fab.cacheLine (f : Fab) (c : Fin 8) (line : Nat) : List Byte :=
  match f.caches.get c with
  | none => f.peeks .dram line 64
  | some k => match k.lines.find? (fun l => l.addr = line) with | some l => l.data | none => f.peeks .dram line 64

/-- A cached load of `n` bytes by core `c` (write-allocate; reads allocate, R129). -/
def Cx.cacheRead (c : Fin 8) (a n : Nat) (x : Cx) : List Byte × Cx :=
  let x := x.touch (.mxc c) .dram a n
  let f := (linesOf a n).foldl (fun f l => f.cacheFill c l) x.fab
  ((List.range n).map fun i => (f.cacheLine c (64 * ((a + i) / 64))).getD ((a + i) % 64) 0, { x with fab := f })

/-- One cached store by core `c` (R130): the line becomes provisional dirty; a fifth such way of the set ends the
command with NO_RESOURCE; committed dirty data is written back first, so that a kill cannot lose it. -/
def Cx.cacheWriteByte (c : Fin 8) (a : Nat) (b : Byte) (x : Cx) : Cx :=
  let line := 64 * (a / 64)
  let f := x.fab.cacheFill c line
  match f.caches.get c with
  | none => x
  | some k =>
    match k.lines.find? (fun l => l.addr = line) with
    | none => x
    | some l =>
      if !l.prov && decide (4 ≤ ((k.inSet (cacheSet line)).filter (fun q => q.prov)).length) then ({ x with fab := f }).stop stNoResource
      else
        let f := if l.prov then f else f.writeBack l
        let l' := { l with data := l.data.set (a % 64) b, dirty := false, prov := true }
        { x with fab := { f with caches := f.caches.set c (some ({ k with lines := l' :: k.lines.filter fun q => q.addr ≠ line }.use (cacheSet line) l.way)) } }

/-- A cached store of bytes. -/
def Cx.cacheWrite (c : Fin 8) (a : Nat) (bs : List Byte) (x : Cx) : Cx :=
  let x := x.touch (.mxc c) .dram a bs.length
  (bs.foldl (fun (p : Nat × Cx) b => (p.1 + 1, if p.2.live then p.2.cacheWriteByte c p.1 b else p.2)) (a, x)).2

/-- Write back and drop the committed lines of a core that a range holds. -/
def Fab.cacheFlush (f : Fab) (c : Fin 8) (sel : CacheLine → Bool) : Fab :=
  match f.caches.get c with
  | none => f
  | some k =>
    let f := (k.lines.filter sel).foldl (fun f l => f.writeBack l) f
    { f with caches := f.caches.set c (some { k with lines := k.lines.filter fun l => !sel l }) }

/-- The cache flush of R131: committed lines leave at once, provisional ones at the commit. `size` 0 takes all. -/
def Cx.flush (c : Fin 8) (a size : Nat) (x : Cx) : Cx :=
  let inR := fun (l : CacheLine) => size = 0 || (decide (a ≤ l.addr) && decide (l.addr < a + size))
  let marked := match x.fab.caches.get c with
    | none => []
    | some k => (k.lines.filter fun l => l.prov && inR l).map fun l => (c.val, l.addr, 64)
  { x with fab := x.fab.cacheFlush c fun l => inR l && !l.prov, run := { x.run with flushes := marked ++ x.run.flushes } }

/-- At a commit, provisional lines become dirty and the marked ones are written back (R130, R131). -/
def Fab.commitCaches (f : Fab) (flushes : List (Nat × Nat × Nat)) : Fab :=
  (List.finRange 8).foldl (fun f c =>
    match f.caches.get c with
    | none => f
    | some k =>
      let k := { k with lines := k.lines.map fun l => if l.prov then { l with prov := false, dirty := true } else l }
      ({ f with caches := f.caches.set c (some k) }).cacheFlush c fun l => flushes.any fun m => m.1 = c.val && m.2.1 = l.addr) f

/-- At a kill, replay or teardown, provisional lines are invalidated (R130). -/
def Fab.dropProvisional (f : Fab) : Fab :=
  { f with caches := f.caches.map fun o => match o with
      | some k => some { k with lines := k.lines.filter fun l => !l.prov }
      | none => none }

/-- Zero-fill banks B6 and B7 of a core. -/
def Fab.zeroB67 (f : Fab) (c : Fin 8) : Fab :=
  { f with spad := f.spad.set c (memZero (f.spad.get c) (6 * bankSize) (8 * bankSize)) }

/-- Switch a core's B6 and B7 to cache mode: zero-fill, then an empty cache (R132). -/
def Fab.cacheOn (f : Fab) (c : Fin 8) : Fab :=
  let f := f.zeroB67 c
  { f with caches := f.caches.set c (some { lines := [], plru := [] }) }

/-- Leave cache mode: every dirty line is written back, then the banks are zero-filled scratchpad (R132). -/
def Fab.cacheOff (f : Fab) (c : Fin 8) : Fab :=
  match f.caches.get c with
  | none => f
  | some _ =>
    let f := (f.cacheFlush c fun _ => true).zeroB67 c
    { f with caches := f.caches.set c none }

/-- Leave cache mode on every core. -/
def Fab.cachesOff (f : Fab) : Fab := (List.finRange 8).foldl (fun f c => f.cacheOff c) f

/-! ### Semaphores -/

/-- The value of a counting semaphore (R93). -/
def Fab.sem (f : Fab) (n : Nat) : Nat := match f.sems.find? (fun p => p.1 = n) with | some p => p.2 | none => 0

/-- Set a semaphore; zero values are not listed. -/
def Fab.putSem (n v : Nat) (f : Fab) : Fab :=
  let r := f.sems.filter fun p => p.1 ≠ n
  { f with sems := if v = 0 then r else (n, v) :: r }

/-- A run is killed or replayed: what it acquired returns (R93). -/
def Fab.returnSems (acq : List (Nat × Nat)) (f : Fab) : Fab :=
  acq.foldl (fun f p => f.putSem p.1 (satU 32 (f.sem p.1 + p.2))) f

/-- A Pleach credit comes back to its sending end (R87). -/
def Fab.giveCredit (f : Fab) (i : Nat) : Fab := { f with credits := vset f.credits i (vget f.credits i 0 + 1) }

/-- A run is killed or replayed: what it acquired and the Pleach credits it has out return, and its WAITs leave the arbiters
(Table 1.3, R88, R93). -/
def Fab.returnHeld (r : Run) (f : Fab) : Fab :=
  r.credits.foldl Fab.giveCredit
    { f.returnSems r.acquired with waiters := f.waiters.filter fun p => !r.waiting.any fun q => q.2.1 = p.1 && q.1 = p.2 }

/-! ### Domains -/

/-- Domains that are on and not closing. -/
def Pwr.usable (p : Pwr) : BitVec 64 := p.domains &&& ~~~p.closing

/-- Domains that are switching on and not closing: an access waits for them, while a closing bank refuses it (R137). -/
def Pwr.opening (p : Pwr) : BitVec 64 := p.rising &&& ~~~p.closing

/-- The memory that a domain powers loses its contents; it reads zero after the fill (R128, R136). -/
def Fab.clearDomain (f : Fab) (d : Nat) : Fab :=
  if d < 32 then
    let c : Fin 8 := ⟨d / 4 % 8, by omega⟩
    if d % 4 = 2 then { f with spad := f.spad.set c (memZero (f.spad.get c) 0 (4 * bankSize)) }
    else if d % 4 = 3 then { f with spad := f.spad.set c (memZero (f.spad.get c) (4 * bankSize) (8 * bankSize)) }
    else f
  else if d < 38 then { f with sb := memZero f.sb ((d - 32) * 0x1000000) ((d - 31) * 0x1000000) }
  else f

/-- The rate-locked unit of a domain (Table 18.11): a core's unit goes with PD(4c+2). -/
def domainUnit (d : Nat) : Option Nat :=
  if d < 32 then (if d % 4 = 2 then some (d / 4) else none) else if 38 ≤ d ∧ d ≤ 44 then some (8 + (d - 38)) else none

/-- A core number. -/
def coreOf (u : Nat) : Fin 8 := ⟨u % 8, by omega⟩

/-- A unit may start a step or a command: it has settled (R30). -/
def State.unitReady (u : UnitId) (s : State) : Bool :=
  match unitRateIdx u with | some i => (vget s.pwr.units i RateUnit.zero).settled | none => true

/-- Completions that a rate monitor has counted in its finished windows (R26, R35). -/
def State.waveAt (i : Nat) (s : State) : Nat := (vget s.pwr.units i RateUnit.zero).count
/-- What every monitor has counted in its finished windows. -/
def State.waveNow (s : State) : List Nat := (List.range 17).map fun i => s.waveAt i
/-- Elapsed waves since `w0` of the units of a list: the highest count among them (Table 2.4). A unit's count is that of the windows
finished since, with what the windows cut by the interval's ends add to it or take away, which is measured (`ends`; log 155). -/
def State.wavesSince (w0 units : List Nat) (ends : List Int) (s : State) : Nat :=
  units.foldl (fun m i => max m ((s.waveAt i : Int) - w0.getD i 0 + ends.getD i 0).toNat) 0

/-- The domain that powers a provisional byte; none for LPDDR5X and CKC SRAM. -/
def JWrite.domain (w : JWrite) : Option Nat :=
  match w.space with
  | .spad c => some (bankDomain c.val (w.addr / bankSize))
  | .sb => some (segDomain (w.addr / 0x1000000))
  | _ => none

/-- What a run had written to domains that go off is gone (R136). -/
def Run.lose (ds : List Nat) (r : Run) : Run :=
  { r with journal := r.journal.filter fun w => match w.domain with | some d => !ds.contains d | none => true }

/-- Domains go off under every run. -/
def State.loseWrites (ds : List Nat) (s : State) : State :=
  let s := s.onFab fun f => { f with cores := f.cores.map fun c => { c with run := c.run.lose ds },
                                     engines := f.engines.map fun e => { e with run := e.run.lose ds } }
  s.onCpx fun c => { c with qm := c.qm.map fun q => { q with run := q.run.lose ds } }

/-- The gates of the domains of a mask open: contents lost, the units no longer settled. -/
def State.gateOff (mask : BitVec 64) (s : State) : State :=
  let ds := (List.range 50).filter fun d => mask.getLsbD d
  let s := s.loseWrites ds
  let s := s.onPwr fun p =>
    { p with domains := p.domains &&& ~~~mask, rising := p.rising &&& ~~~mask, closing := p.closing &&& ~~~mask,
             units := ds.foldl (fun u d => match domainUnit d with
               | some i => vset u i { vget u i RateUnit.zero with rate := 0, settled := false, inBand := 0, below := 0, noted := 0 }
               | none => u) p.units }
  s.onFab fun f => ds.foldl Fab.clearDomain f

/-- A PWR_REQUEST is switching a domain of the mask on or off (R371). -/
def State.pwrWorks (mask : BitVec 64) (s : State) : Bool :=
  match s.pwr.busy with
  | some d => mask.getLsbD d && (s.pwr.closing ||| s.pwr.rising).getLsbD d
  | none => false

/-- A request ends (R371): DONE with its status, and the power cause. -/
def State.pwrEnd (st : Nat) (s : State) : State :=
  (s.onPwr fun p => { p with busy := none, done := true, status := st }).raise causePower

/-- The gates open, and a PWR_REQUEST under way for one of the domains ends with them (log 177). -/
def State.gateOffEnd (mask : BitVec 64) (s : State) : State :=
  if s.pwrWorks mask then (s.gateOff mask).pwrEnd stDone else s.gateOff mask

end Sys2Proof.Machine
end

