-- ==== Sys2Proof/Machine/ContractInfo.lean ====
section
/-! DEFINITION. What a loaded contract names: its banks, segments, buffers, tiles and cadence (Tables 3.1-3.5). -/

namespace Sys2Proof.Machine

/-- Tiles of the grid. -/
def CtrHeader.tiles (h : CtrHeader) : Nat := h.gridW * h.gridH
/-- The cadence in ns (Table 3.1). -/
def CtrHeader.cadenceNs (h : CtrHeader) : Nat := h.cadence * 125
/-- The slot position after the trailer, from the launch (R366). -/
def CtrHeader.emitEnd (h : CtrHeader) : Nat := h.emitOffset + (h.tiles + 3) * h.cadenceNs

/-- Scratchpad banks named by BUFFERS entries, as core x 8 + bank (R52). -/
def Contract.banks (c : Contract) : List Nat := (c.buffers.filter fun b => b.kind = 0).map fun b => b.location
/-- SB segments named by BUFFERS entries (R52). -/
def Contract.segs (c : Contract) : List Nat := (c.buffers.filter fun b => b.kind = 1).map fun b => b.location
/-- Device ranges of the DRAM buffers (R468). -/
def Contract.dramRanges (c : Contract) : List (Nat × Nat) :=
  (c.buffers.filter fun b => b.kind = 2).map fun b => (b.offset, b.size)
/-- The image copy (R63). -/
def Contract.imageRange (c : Contract) : Nat × Nat := (c.imageAddr, c.hdr.imageSize)

/-- Bytes of a contract's output storage as banks (kind 0) and segments (kind 1) (R67). -/
def Contract.outStorage (c : Contract) : List (Nat × Nat) :=
  (c.rings.filter fun r => r.kind = 3 || r.kind = 4).filterMap fun r => match c.buffers[r.buffer]? with
    | some b => some (b.kind, b.location)
    | none => none

/-- The armed and staged contracts. -/
def Ctr.held (c : Ctr) : List Contract := c.armed.toList ++ c.staged.toList
/-- Every contract whose storage or ring range is held (R65, R67). -/
def Ctr.allHeld (c : Ctr) : List Contract := c.armed.toList ++ c.staged.toList ++ c.old.toList
/-- Banks that hold a contract's output storage (R67). -/
def Contract.outBanks (c : Contract) : List Nat := (c.outStorage.filter fun x => x.1 = 0).map fun x => x.2
/-- Segments that hold a contract's output storage. -/
def Contract.outSegs (c : Contract) : List Nat := (c.outStorage.filter fun x => x.1 = 1).map fun x => x.2
/-- Banks that a contract names (R284), with those of the old contract's output storage (R67). -/
def Ctr.banks (c : Ctr) : List Nat := c.held.flatMap Contract.banks ++ c.old.toList.flatMap Contract.outBanks
/-- Segments that a contract names (R284), with those of the old contract's output storage. -/
def Ctr.segs (c : Ctr) : List Nat := c.held.flatMap Contract.segs ++ c.old.toList.flatMap Contract.outSegs
/-- Cores that a contract keeps powered (R289). -/
def Ctr.coreSet (c : Ctr) : Nat := (c.held.map fun k => k.hdr.coreSet).foldl (fun a b => a ||| b) 0

/-- Where a BUFFERS entry's byte lies. -/
def BufEntry.place (b : BufEntry) (off : Nat) : Space × Nat :=
  if b.kind = 0 then (.spad ⟨b.location / 8 % 8, by omega⟩, (b.location % 8) * bankSize + b.offset + off)
  else if b.kind = 1 then (.sb, b.location * 0x1000000 + b.offset + off)
  else (.dram, b.offset + off)

/-- Where byte `off` of slot `i` of a contract ring lies (R44); none for an INGEST ring, whose slots are the device
ring's. -/
def Contract.slotPlace (c : Contract) (r : RingEntry) (i off : Nat) : Option (Space × Nat) :=
  if r.kind = 2 then none
  else match c.buffers[r.buffer]? with
    | some b => some (b.place (r.bufferOffset + i * r.slotSize + off))
    | none => none

/-- The contract has an OBJECT_OUT ring (R241). -/
def Contract.hasObjects (c : Contract) : Bool := c.rings.any fun r => r.kind = 4
/-- Ring numbers in use by contracts (R65). -/
def Ctr.ringRanges (c : Ctr) : List (Nat × Nat) := c.allHeld.map fun k => (k.ringBase, k.hdr.ringCount)

/-- The tile storage of a contract (R50): the place of tile `t` for a frame parity. -/
def Contract.tilePlace (c : Contract) (parity t : Nat) : Option (Space × Nat) :=
  match c.rings.find? (fun r => r.kind = 3) with
  | none => none
  | some r => match c.buffers[r.buffer]? with
    | some b => some (b.place (r.bufferOffset + parity * (c.hdr.tiles * 256) + 256 * t))
    | none => none

/-- The OBJECT_OUT slot of a frame parity (R50). -/
def Contract.objPlace (c : Contract) (parity : Nat) : Option (Space × Nat) :=
  match c.rings.find? (fun r => r.kind = 4) with
  | none => none
  | some r => c.slotPlace r parity 0

end Sys2Proof.Machine
end

