-- ==== Sys2Proof/Machine/Jobs.lean ====
section
/-! DEFINITION. Jobs: fetching packets, dispatch, pre-emption, teardown and KILL (R263, R270, R272, R273, R279-R283,
Tables 11.1 and 11.2). -/

namespace Sys2Proof.Machine

/-! ### Fetching packets -/

/-- Every packet without a reply (R263). -/
def Cpx.unrepliedAll (c : Cpx) : List Packet := c.packets ++ (c.jobs.flatMap fun j => j.cmds) ++ c.owed.map fun o => o.pkt
/-- Packets of a ring without replies (R263). -/
def Cpx.unreplied (c : Cpx) (ring : Nat) : List Packet := c.unrepliedAll.filter fun p => p.ring = ring

/-- A packet of a batch boundary: SEQ_JOIN or SEQ_LEAVE other than the pool declaration (R291). -/
def Packet.inBatch (p : Packet) : Bool := p.opcode = 0x36 || (p.opcode = 0x35 && p.u 0x10 4 ≠ 0xFFFFFFFF)

/-- Put an eligible job's ring into the order of dispatch (R279): by the time it became eligible, then by ring number. -/
def Cpx.addEligible (c : Cpx) (ring now : Nat) : List Nat :=
  let after := fun r => decide (ring < r) && (match c.job? r with | some j => j.since = now | none => false)
  (c.eligible.filter fun r => !after r) ++ ring :: c.eligible.filter after

/-- A job leaves CPX: its ring keeps the positions of its packets (R272), and no UNMAP_BUFFER waits for it any more (R271). -/
def Cpx.dropJob (c : Cpx) (ring : Nat) : Cpx :=
  let c := match c.job? ring, c.ring? ring with
    | some j, some r => c.putRing { r with spans := (idxNext j.submit.pos, j.fetched) :: r.spans }
    | _, _ => c
  { c with jobs := c.jobs.filter (fun j => j.ring ≠ ring), eligible := c.eligible.filter (fun r => r ≠ ring),
           unmaps := c.unmaps.map fun u => { u with waits := u.waits.filter fun w => w.1 ≠ ring } }

/-- END_JOB has been fetched: an OPEN job becomes ELIGIBLE (R270, Table 11.1). -/
def State.endFetched (j : Job) (s : State) : State :=
  if j.state = .opened then
    s.onCpx fun c => { c.putJob { j with ended := true, state := .eligible, since := s.now } with eligible := c.addEligible j.ring s.now }
  else s.onCpx fun c => c.putJob { j with ended := true }

/-- A packet reaches CPX's working store: it joins the ring's open job, up to its END_JOB and 1,023 commands (R270),
or waits as a packet of its ring. A packet of a job that was killed replies KILLED. -/
def State.enqueue (pk : Packet) (s : State) : State :=
  match s.cpx.job? pk.ring with
  | some j =>
    if j.ended then s.onCpx fun c => { c with packets := c.packets ++ [pk] }
    else
      let pk := { pk with cmdIdx := some j.fetched }
      let isEnd := decide (pk.opcode = 0x32)
      let j' := { j with fetched := j.fetched + 1, breaks := if pk.inBatch then j.breaks else j.breaks ++ [j.fetched] }
      if j.killed then
        let s := s.onCpx fun c => if isEnd then (c.putJob j').dropJob j.ring else c.putJob j'
        s.writeReply pk false (replyOf pk (s.cpx.proto pk.client) stKilled 0 0 0 0)
      else if 1023 ≤ j.fetched ∧ !isEnd then
        (s.onCpx fun c => c.putJob { j' with badCount := j.badCount + 1 }).writeReply pk false
          (replyOf pk (s.cpx.proto pk.client) stBadParam 0 0 0 0)
      else
        let j' := { j' with cmds := j.cmds ++ [pk] }
        if isEnd then s.endFetched j' else s.onCpx fun c => c.putJob j'
  | none => s.onCpx fun c => { c with packets := c.packets ++ [pk] }

/-- CPX fetches one packet (R263): DEV_INDEX advances, the index block is written, and the ring's message follows it (R255). -/
def State.fetchPacket (r : Ring) (bits : BitVec 512) (s : State) : State :=
  let pk : Packet := { ring := r.id, pos := r.head, bits := bits, cmdIdx := none, client := r.client, started := none }
  let r' := { r with head := idxNext r.head, sinceMsg := r.sinceMsg + 1 }
  let s := ((s.onCpx fun c => c.putRing r').post (r'.block r'.head)).ringMessage r.id (decide (r'.head ≠ r.tail))
  (s.enqueue pk).settle

/-- PACKET_FETCH (R263): the ring has a doorbelled packet, is not in ERROR, and the fetch limits leave room. -/
def doPacketFetch (ring : Nat) (bits : BitVec 512) (s : State) : State :=
  match s.cpx.ring? ring with
  | none => s
  | some r =>
    if s.pins.rstN && s.hif.linkUp && r.kind = .command && !r.error && decide (r.head ≠ r.tail) &&
        decide ((s.cpx.unreplied ring).length < 1025) && decide (s.cpx.unrepliedAll.length < 65536)
    then s.fetchPacket r bits else s

/-! ### Ending commands and jobs -/

/-- A job is OPEN, ELIGIBLE or RUNNING (Table 11.1); one that was torn down stays only to answer its packets. -/
def Cpx.jobOpen (c : Cpx) : Bool := c.jobs.any fun j => !j.killed

/-- The fault-record context of a command (Table 13.3). -/
def Packet.faultCtx (pk : Packet) (seen : Option Seen) (outcome fails replays second : Nat) : FaultCtx :=
  { opKind := 1, opcode := pk.opcode, outcome := outcome, ident := pk.cmdIdx.getD 0,
    context := pk.ring % 2 ^ 20 + (pk.client % 2 ^ 12) * 2 ^ 20, fails := fails, replays := replays, second := second,
    seen := seen }

/-- The failure of a run that no commit has resolved, with its detection, its failed checks and the replays made. -/
def Run.unresolved (r : Run) : Option (FailReport × Option Seen × Nat × Nat) :=
  match r.firstFail with
  | some f => some (f, r.firstSeen, r.firstFails, 1)
  | none => match r.failed with | some f => some (f, r.seen, r.fails, 0) | none => none

/-- The running QM command is killed: its provisional effects are discarded (R273, R282), and an unresolved failure
leaves a fault record with OUTCOME KILLED (R332). -/
def State.discardQm (s : State) : State :=
  match s.cpx.qm with
  | none => s
  | some q =>
    let s := (s.onCpx fun c => { c with qm := none }).onFab fun f => f.dropProvisional.returnHeld q.run
    match q.run.unresolved with
    | some (f, d, n, k) => s.recordFault f (q.pkt.faultCtx d outKilled n k 0)
    | none => s

/-- One more job in a client's counts (R295). -/
def Client.count (ended : Bool) (x : Client) : Client :=
  if ended then { x with completed := satU 32 (x.completed + 1) } else { x with killed := satU 32 (x.killed + 1) }

/-- Count a job for its client, open or closed (R295). -/
def State.countJob (client : Nat) (ended : Bool) (s : State) : State :=
  s.onCpx fun c => match c.client? client with
    | some x => c.putClient (x.count ended)
    | none => { c with past := c.past.map fun x => if x.id = client then x.count ended else x }

/-- Reply KILLED to packets in order, holding the ring's message until the last (R255). -/
def State.killAll : List Packet → State → State
  | [], s => s
  | p :: r, s => State.killAll r (s.replyBase p (!r.isEmpty) stKilled 0 0 0 0)

/-- The job leaves: what it held is free (R281). -/
def State.dropJob (ring : Nat) (s : State) : State := s.onCpx fun c => c.dropJob ring

/-- Kill tokens whose target is gone answer with a RESULT (R272). -/
def State.answerKills (result : Nat) (s : State) : State :=
  let ks := s.cpx.kills
  ks.foldl (fun s k => s.reply k.killer stDone 0 result) (s.onCpx fun c => { c with kills := [] })

/-- Tear a job down (R281, Table 11.2). `replies` is false when the ring or its client goes. A job whose END_JOB has
not been fetched stays to answer the packets that follow with KILLED (R272). `counts` says that it leaves RUNNING or is refused at
its dispatch (R295). Without replies, kill tokens and unmaps are left to the caller, which takes the rings away. -/
def State.teardownAs (counts : Bool) (ring : Nat) (replies : Bool) (s : State) : State :=
  match s.cpx.job? ring with
  | none => s
  | some j =>
    let mine := match s.cpx.qm with | some q => decide (q.pkt.ring = ring) | none => false
    let s := if mine then s.discardQm else s
    let s := if j.state = .running then s.onFab Fab.cachesOff else s
    let waiting := (s.cpx.packets.filter fun p => p.same j.submit) ++ j.cmds
    let s := if replies then State.killAll waiting s else s
    let s := if mine && replies then s.answerKills 0 else s
    let s := if counts then s.countJob j.client false else s
    let s := if replies && !j.ended then
        s.onCpx fun c => { c.putJob { j with killed := true, cmds := [], state := .opened } with
                           packets := c.packets.filter fun p => !p.same j.submit }
      else (s.dropJob ring).onCpx fun c => { c with packets := c.packets.filter fun p => !p.same j.submit }
    if replies then s.settle else s

/-- Tear a job down: it counts where it was RUNNING (R295). -/
def State.teardown (ring : Nat) (replies : Bool) (s : State) : State :=
  s.teardownAs (match s.cpx.job? ring with | some j => j.state = .running | none => false) ring replies

/-- A launch or a drain takes the fabric from the running command (R282, R283): it is discarded and waits for its
re-run; a kill token under way has killed it. The 4th pre-emption and every 64th after it is an event. -/
def State.preempt (s : State) : State :=
  match s.cpx.qm with
  | none => s
  | some q =>
    if s.cpx.kills.isEmpty then
      let s := s.discardQm
      match s.cpx.job? q.pkt.ring with
      | none => s
      | some j =>
        let n := j.preempts + 1
        let s := s.onCpx fun c => c.putJob { j with preempts := n }
        if 4 ≤ n ∧ (n - 4) % 64 = 0 then s.note 0x7007 sevNotice noUnit q.pkt.client q.pkt.ring q.pkt.pos else s
    else
      let whole := s.cpx.kills.any fun k => k.scope1
      let s := s.discardQm
      (if whole then s.teardown q.pkt.ring true else (s.replyAll q.pkt stKilled 0 0 0 0)).answerKills 0

/-! ### The QM core set -/

/-- B6 and B7 of a core lie outside the contracts, which keep them as scratchpad (R52, R132). -/
def State.cacheFree (s : State) (c : Nat) : Bool := !s.ctr.banks.contains (8 * c + 6) && !s.ctr.banks.contains (8 * c + 7)

/-- SET_CAPACITY's removals and additions that a command boundary allows (R288): removed cores leave, added cores that
have settled join. -/
def State.capacityBoundary (s : State) : State :=
  match s.cpx.cap with
  | none => s
  | some r =>
    let cur := s.cpx.qmCores
    let settled := (List.range 8).all fun c =>
      !(r.target.getLsbD c) || cur.getLsbD c ||
        ((List.range 4).all (fun k => s.pwr.domains.getLsbD (4 * c + k)) && (vget s.pwr.units c RateUnit.zero).settled)
    let joined := (List.range 8).filter fun c => r.target.getLsbD c && (cur.getLsbD c ||
        ((List.range 4).all (fun k => s.pwr.domains.getLsbD (4 * c + k)) && (vget s.pwr.units c RateUnit.zero).settled))
    let new := BitVec.ofNat 8 (joined.foldl (fun a c => a + 2 ^ c) 0)
    let removed := (List.finRange 8).filter fun c => cur.getLsbD c.val && !new.getLsbD c.val
    let added := (List.finRange 8).filter fun c => new.getLsbD c.val && !cur.getLsbD c.val
    let cacheJob := match s.cpx.running? with | some j => j.cache | none => false
    let s := s.onFab fun f => removed.foldl (fun f c => f.cacheOff c) f
    let s := if cacheJob then s.onFab fun f => (added.filter fun c => s.cacheFree c.val).foldl (fun f c => f.cacheOn c) f else s
    let off := removed.filter fun c => !s.ctr.coreSet.testBit c.val
    let mask := BitVec.ofNat 64 (off.foldl (fun a c => a + 15 * 2 ^ (4 * c.val)) 0)
    let s := s.gateOffEnd mask
    let s := s.onCpx fun c => { c with qmCores := new }
    if settled then (s.onCpx fun c => { c with cap := none }).done r.pkt 0 else s

/-- A command boundary (R280): the core set changes only here. -/
def State.boundary (s : State) : State := if s.cpx.qm.isNone then s.capacityBoundary else s

/-! ### Job commands -/

/-- SUBMIT_JOB (R270, Table 11.1): the job opens and takes the ring's later packets. -/
def doSubmitJob (ring : Nat) (s : State) : State :=
  s.runPacket ring 0x30 fun pk s =>
    let flags := pk.u 0x10 1
    let ap := pk.u 0x18 8
    let old := decide (s.cpx.proto pk.client < 0x203)
    if 1 < flags ∨ (old ∧ flags ≠ 0) then s.bad pk 0x10
    else if (flags = 1 ∧ ap % 0x4000000 ≠ 0) ∨ (old ∧ ap ≠ 0) then s.bad pk 0x18
    else
      let j : Job := { ring := ring, client := pk.client, state := .opened, submit := pk, cache := decide (flags = 1),
                       aperture := ap, cmds := [], fetched := 0, breaks := [], ended := false, since := 0, visible := [], okCount := 0,
                       badCount := 0, banks := [], segs := [], pool := none, joined := false, preempts := 0, killed := false }
      let later := s.cpx.packets.filter fun p => p.ring = ring && !p.same pk
      let s := s.onCpx fun c => { c with jobs := c.jobs ++ [j], packets := c.packets.filter fun p => p.ring ≠ ring || p.same pk }
      later.foldl (fun s p => s.enqueue p) s

/-- A job in cache mode needs B6 and B7 of every core of the set outside the contracts (R132). -/
def State.cacheAllowed (s : State) : Bool := (List.range 8).all fun c => !s.cpx.qmCores.getLsbD c || s.cacheFree c

/-- Work of the QM class may be dispatched: the window is open, its coppice slice is done and the state allows it
(R275, R278, R341). -/
def State.qmOpen (s : State) : Bool :=
  s.cpx.windowOpen && !s.cpx.sliceDue && s.mss.diag.isNone && (s.pwr.state = .ready || s.pwr.state = .running)

/-- JOB_DISPATCH (R279, R286, R132): the earliest eligible job starts when no job is RUNNING. -/
def doJobDispatch (s : State) : State :=
  if !(s.pins.rstN && s.qmOpen && s.cpx.running?.isNone) then s else
  let s := s.boundary
  if s.cpx.qmCores = 0 then s else
  match s.cpx.eligible with
  | [] => s
  | ring :: _ =>
    match s.cpx.job? ring with
    | none => s
    | some j =>
      if j.cache && !s.cacheAllowed then
        (s.reply j.submit stNoResource 0 0).teardownAs true ring true
      else
        let s := s.onCpx fun c => { c.putJob { j with state := .running } with eligible := c.eligible.drop 1 }
        let s := s.onFab fun f => { f with sems := f.sems.filter fun p => decide (p.1 < 0x1000) }
        let s := if j.cache then
            s.onFab fun f => (List.finRange 8).foldl (fun f c => if s.cpx.qmCores.getLsbD c.val then f.cacheOn c else f) f
          else s
        s.done j.submit 0

/-- The next command of a RUNNING job, when the fabric is free for it. -/
def State.nextCmd (s : State) (ring : Nat) : Option (Job × Packet) :=
  if !s.qmOpen || s.cpx.qm.isSome || s.cpx.qmCores = 0 then none else
  match s.cpx.job? ring with
  | none => none
  | some j => if j.state = .running then j.cmds.head?.map fun p => (j, p) else none

/-- A command of a job may start: its completion entry can be reserved (R264). A packet whose CMD_INDEX is not its
position is refused (R270). -/
def State.startCmd (pk : Packet) (body : Packet → State → State) (s : State) : State :=
  if !s.cpx.cplRoom pk.ring then s else
  let pk := { pk with started := some s.now }
  match s.gate pk with
  | some (st, dt) => s.replyAll pk st dt 0 0 0
  | none => body pk s

/-- A packet of an opcode that only a job allows, outside a job: BAD_PARAM (R270). -/
def State.strayCmd (ring op : Nat) (s : State) : State :=
  if (s.cpx.job? ring).isSome then s else s.runPacket ring op fun pk s => s.bad pk 0

/-- END_JOB (R280): it commits after every earlier packet of the job has replied; cache mode ends with its
write-back. -/
def doEndJob (ring : Nat) (s : State) : State :=
  if !s.pins.rstN then s else
  let s := s.boundary
  match s.nextCmd ring with
  | none => s.strayCmd ring 0x32
  | some (j, pk) =>
    if pk.opcode ≠ 0x32 then s else
    s.startCmd pk fun pk s =>
      let s := if j.cache then s.onFab Fab.cachesOff else s
      let s := s.replyAll pk stDone 0 (satU 32 j.okCount + 2 ^ 32 * satU 32 j.badCount) 0 0
      ((s.countJob j.client true).dropJob ring).boundary

/-! ### KILL -/

/-- The buffers lent to a client, but for those whose UNMAP_BUFFER has been fetched (R271). -/
def Cpx.lentTo (c : Cpx) (client : Nat) : List Buffer :=
  let leaving := c.packets.filter fun p => p.opcode = 0x41 && p.client = client && !c.inWaitingJob p
  c.buffers.filter fun b => b.client = client && !leaving.any fun p => p.u 0x10 4 = b.handle

/-- Two packets of a job lie in one run of SEQ_JOIN and SEQ_LEAVE packets: no other packet of the job is between them (R291). -/
def Job.sameRun (j : Job) (a b : Nat) : Bool := !j.breaks.any fun k => decide (min a b < k) && decide (k < max a b)
/-- The batch boundary at the front of a job. -/
def Job.batch (j : Job) : List Packet :=
  match j.cmds.head? with
  | some h => j.cmds.takeWhile fun p => p.inBatch && j.sameRun (h.cmdIdx.getD 0) (p.cmdIdx.getD 0)
  | none => []

/-- After the last packet of a boundary, ACTIVE and BOUNDARIES take their new values (R291). -/
def State.closeBatch (ring : Nat) (s : State) : State :=
  match s.cpx.job? ring with
  | none => s
  | some j => match j.pool with
    | none => s
    | some p => match p.open_ with
      | none => s
      | some k =>
        if j.cmds.any fun q => q.inBatch && j.sameRun k (q.cmdIdx.getD 0) then s
        else
          let p := { p with boundaries := (p.boundaries + 1) % 2 ^ 32, open_ := none }
          let s := s.onCpx fun c => c.putJob { j with pool := some p }
          (s.putDram (p.base + 4) (leBytes 2 p.occupants.length)).putDram (p.base + 8) (leBytes 4 p.boundaries)

/-- A kill has removed END_JOB: Table 11.2 lists no teardown for it, so the job takes the ring's later packets up to another
END_JOB (DEDUCED, log 20). -/
def State.reopenJob (ring : Nat) (s : State) : State :=
  match s.cpx.job? ring with
  | none => s
  | some j =>
    let later := s.cpx.packets.filter fun p => p.ring = ring && p.started.isNone
    let s := s.onCpx fun c => { c.putJob { j with ended := false } with packets := c.packets.filter fun p => !(p.ring = ring && p.started.isNone) }
    later.foldl (fun s p => s.enqueue p) s

/-- A command of a job is removed before its start (R272). -/
def State.removeCmd (t : Packet) (s : State) : State :=
  let s := s.replyAll t stKilled 0 0 0 0
  if t.opcode = 0x32 then s.reopenJob t.ring else s.closeBatch t.ring

/-- The position is that of a job's command on the ring, replied or not (R272). -/
def Cpx.wasJobCmd (c : Cpx) (r : Ring) (pos : Nat) : Bool :=
  r.spans.any (fun p => decide (idxDist pos p.1 < p.2)) ||
    (match c.job? r.id with | some j => decide (idxDist pos (idxNext j.submit.pos) < j.fetched) | none => false)

/-- KILL of a command that has not replied, `t` (R272). A running command takes the kill token: with `late`, the commit token reached
the arbiter before it (R273, R19), and the token stays under way. SCOPE 1 ends the job with its running command. -/
def State.killTarget (pk t : Packet) (late whole : Bool) (s : State) : State :=
  match s.cpx.qm with
  | some q =>
    if q.pkt.ring = t.ring ∧ (q.pkt.pos = t.pos ∨ whole) then
      if late then s.onCpx fun c => { c with kills := c.kills ++ [{ killer := pk, scope1 := whole }] }
      else
        let s := s.discardQm
        let s := if whole then s.teardown t.ring true else (s.replyAll q.pkt stKilled 0 0 0 0).closeBatch t.ring
        ((s.answerKills 0).boundary).done pk 0
    else (if whole then s.teardown t.ring true else s.removeCmd t).done pk 3
  | none => (if whole then s.teardown t.ring true else s.removeCmd t).done pk 3

/-- KILL resolves its target by the target's state (R272): a command of a job without a reply, one that has replied, or none. -/
def State.kill (pk : Packet) (late : Bool) (s : State) : State :=
  let ring := pk.u 0x10 4
  let pos := pk.u 0x14 4
  let scope := pk.u 0x18 1
  if 1 < scope ∨ (scope = 1 ∧ s.cpx.proto pk.client < 0x203) then s.bad pk 0x18 else
  match s.cpx.ring? ring with
  | none => s.bad pk 0x10
  | some r =>
    if r.kind ≠ .command ∨ (r.client ≠ pk.client ∧ pk.client ≠ 0) then s.bad pk 0x10 else
    match (match s.cpx.job? ring with | some j => j.cmds.find? fun p => p.pos = pos | none => none) with
    | some t => s.killTarget pk t late (decide (scope = 1))
    | none => if s.cpx.wasJobCmd r pos then s.done pk 2 else s.bad pk 0x14

/-- KILL runs as soon as it is fetched (R263); inside a job it is not allowed (R270). -/
def doKill (ring : Nat) (late : Bool) (s : State) : State :=
  if !s.pins.rstN then s else
  match s.cpx.packets.find? fun p => p.ring = ring && s.cpx.killNow p && p.started.isNone with
  | some pk =>
    if !s.cpx.cplRoom ring then s else
    let pk' := { pk with started := some s.now }
    let s := s.markStarted pk
    match s.gate pk with
    | some (st, dt) => s.reply pk' st dt 0
    | none => s.kill pk' late
  | none => s.runPacket ring 0x33 fun pk s => s.bad pk 0

/-! ### Batches -/

/-- Byte offset of the SEQ table in a map page (Table 11.4). -/
def Pool.seqOff (p : Pool) : Nat := 0x40 + 64 * ((4 * p.slots + 63) / 64)

/-- The map page at the declaration (R290): every slot free. -/
def Pool.mapBytes (p : Pool) : List Byte :=
  leBytes 2 p.slots ++ leBytes 2 p.pages ++ List.replicate 60 0#8 ++
    List.replicate (p.seqOff - 0x40) 0#8 ++ List.replicate (4 * p.slots) 0xFF#8

/-- Set LEN and SEQ of a slot (Table 11.4). -/
def State.setSlot (p : Pool) (slot len seq : Nat) (s : State) : State :=
  (s.putDram (p.base + 0x40 + 4 * slot) (leBytes 4 len)).putDram (p.base + p.seqOff + 4 * slot) (leBytes 4 seq)

/-- Replace a job's pool. -/
def State.setPool (ring : Nat) (p : Pool) (s : State) : State :=
  s.onCpx fun c => match c.job? ring with | some j => c.putJob { j with pool := some p } | none => c

/-- The lowest free slot of a pool (R291). -/
def Pool.freeSlot (p : Pool) : Option Nat := (List.range p.slots).find? fun i => !p.occupants.any fun o => o.1 = i

/-- The pool declaration (R290). -/
def State.declarePool (pk : Packet) (j : Job) (s : State) : State :=
  let pages := pk.u 0x14 4
  let base := pk.u 0x18 8
  let slots := pages % 65536
  let per := pages / 65536
  if j.pool.isSome || j.joined then s.replyAll pk stBadParam 0 0 0 0
  else if slots < 1 ∨ 4096 < slots ∨ per < 1 ∨ 16 < per then s.replyAll pk stBadParam 0x14 0 0 0
  else if base % 65536 ≠ 0 ∨ !s.mss.inOne tagQm base (65536 * (1 + per * slots)) then s.replyAll pk stBadParam 0x18 0 0 0
  else
    let p : Pool := { base := base, slots := slots, pages := per, occupants := [], boundaries := 0, open_ := none }
    ((s.putDram base p.mapBytes).setPool pk.ring p).replyAll pk stDone 0 0 0 0

/-- Copy a joining sequence's pages (R291). -/
def State.copyPages (p : Pool) (slot src : Nat) (s : State) : State :=
  (List.range p.pages).foldl (fun s k =>
    s.putDram (p.base + 65536 * (1 + k * p.slots + slot)) (memBytes s.fab.dram (src + 65536 * k) 65536)) s

/-- The job has had a SEQ_JOIN other than a declaration (R290). -/
def State.markJoined (ring : Nat) (s : State) : State :=
  s.onCpx fun c => match c.job? ring with | some j => c.putJob { j with joined := true } | none => c

/-- A packet of a boundary has replied: the boundary is under way, and may be complete (R291). -/
def State.afterSeq (ring : Nat) (p : Packet) (s : State) : State :=
  match s.cpx.job? ring with
  | none => s
  | some j =>
    if j.cmds.any fun q => q.same p then s
    else match j.pool with
      | none => s
      | some q => (s.setPool ring { q with open_ := p.cmdIdx }).closeBatch ring

/-- One SEQ_JOIN of a boundary (R291, R292). -/
def State.seqJoin (pk : Packet) (j : Job) (s : State) : State :=
  let s := s.markJoined pk.ring
  let seq := pk.u 0x10 4
  let pages := pk.u 0x14 4
  let src := pk.u 0x18 8
  match j.pool with
  | none => s.replyAll pk stBadParam 0 0 0 0
  | some p =>
    if p.occupants.any (fun o => o.2 = BitVec.ofNat 32 seq) then s.replyAll pk stBadParam 0x10 0 0 0
    else if pages ≠ p.pages then s.replyAll pk stBadParam 0x14 0 0 0
    else if !s.mss.inOne tagQm src (65536 * p.pages) then s.replyAll pk stBadParam 0x18 0 0 0
    else match p.freeSlot with
      | none => s.replyAll pk stDeferred 0 0 0 0
      | some i =>
        let s := ((s.copyPages p i src).setSlot p i 0x7FFFFFFF seq).setPool pk.ring
          { p with occupants := p.occupants ++ [(i, BitVec.ofNat 32 seq)] }
        s.replyAll pk stDone 0 0 0 0

/-- One SEQ_LEAVE of a boundary (R291, R292). -/
def State.seqLeave (pk : Packet) (j : Job) (s : State) : State :=
  match j.pool with
  | none => s.replyAll pk stBadParam 0x10 0 0 0
  | some q =>
    match q.occupants.find? fun o => o.2 = BitVec.ofNat 32 (pk.u 0x10 4) with
    | none => s.replyAll pk stBadParam 0x10 0 0 0
    | some o =>
      let s := (s.setSlot q o.1 0 0xFFFFFFFF).setPool pk.ring { q with occupants := q.occupants.filter fun x => x.1 ≠ o.1 }
      s.replyAll pk stDone 0 0 0 0

/-- SEQ_JOIN (R290-R292): the declaration, or the first join of the boundary once no leave is left in it. -/
def doSeqJoin (ring : Nat) (s : State) : State :=
  if !s.pins.rstN then s else
  let s := s.boundary
  match s.nextCmd ring with
  | none => s.strayCmd ring 0x35
  | some (j, hd) =>
    if hd.opcode = 0x35 ∧ !hd.inBatch then s.startCmd hd fun pk s => s.declarePool pk j
    else if j.batch.any fun p => p.opcode = 0x36 then s
    else match j.batch.head? with
      | some p => (s.startCmd p fun pk s => s.seqJoin pk j).afterSeq ring p
      | none => s

/-- SEQ_LEAVE (R291, R292): the first leave of the boundary frees its slot. -/
def doSeqLeave (ring : Nat) (s : State) : State :=
  if !s.pins.rstN then s else
  let s := s.boundary
  match s.nextCmd ring with
  | none => s.strayCmd ring 0x36
  | some (j, _) =>
    match j.batch.find? fun p => p.opcode = 0x36 with
    | none => s
    | some p => (s.startCmd p fun pk s => s.seqLeave pk j).afterSeq ring p

/-- SET_CAPACITY (R288): added cores are powered in, a closing domain of theirs going off first; the set changes at the next command boundary. -/
def doSetCapacity (ring : Nat) (s : State) : State :=
  s.runPacket ring 0x34 fun pk s =>
    let target := BitVec.ofNat 8 (pk.u 0x10 1)
    let s := match s.cpx.cap with
      | some r => (s.onCpx fun c => { c with cap := none }).done r.pkt 0
      | none => s
    let add := (List.range 8).filter fun c => target.getLsbD c
    let mask := BitVec.ofNat 64 (add.foldl (fun a c => a + 15 * 2 ^ (4 * c)) 0)
    let s := s.gateOffEnd (mask &&& s.pwr.closing)
    let s := s.onPwr fun p => { p with rising := p.rising ||| (mask &&& ~~~p.domains) }
    (s.onCpx fun c => { c with cap := some { pkt := pk, target := target } }).boundary

end Sys2Proof.Machine
end

