-- ==== Sys2Proof/Machine/HostCmds.lean ====
section
/-! DEFINITION. The host attachment: doorbells, clients, rings, buffers, versions, the admin rings, BAR4, the link and
its resets (R248-R272, R435, R436). -/

namespace Sys2Proof.Machine

/-- The outcome of a command that runs to its end. -/
abbrev Out := Host.Outcome State Fault Refusal

/-! ### Doorbells and fetch errors -/

/-- A discarded doorbell is counted and recorded (R253). -/
def State.badDoorbell (page ring : Nat) (s : State) : State :=
  (s.onHif fun h => { h with doorbellErrors := satU 32 (h.doorbellErrors + 1) }).note 0x7002 sevWarning noUnit page ring 0

/-- The new index passes R259. -/
def Ring.accepts (r : Ring) (v : Nat) : Bool :=
  if r.kind = .command then decide (idxDist v r.head ≤ r.entries) && decide (idxDist r.tail r.head ≤ idxDist v r.head)
  else decide (idxDist v r.head ≤ idxDist r.tail r.head)

/-- A doorbell write (R253, R259). An index that releases entries lets replies that waited go out. -/
def State.ringDoorbell (page offset width : Nat) (value : DWord) (s : State) : State :=
  let id := value.toNat % 2 ^ 20
  let idx := value.toNat / 2 ^ 32
  if width ≠ 64 ∨ offset ≠ 0 ∨ value.toNat / 2 ^ 20 % 2 ^ 12 ≠ 0 ∨ (s.cpx.client? page).isNone then s.badDoorbell page id
  else match s.cpx.ring? id with
    | none => s.badDoorbell page id
    | some r =>
      if r.client ≠ page ∨ !r.accepts idx then s.badDoorbell page id
      else if r.kind = .command then s.onCpx fun c => c.putRing { r with tail := idx }
      else ((s.onCpx fun c => c.putRing { r with head := idx }).drainOwed).settle

/-- An access to a doorbell page (R253): a write is a doorbell, a read returns zeros. -/
def doDoorbell (page offset width : Nat) (value : Option DWord) (s : State) : State :=
  if !s.barOpen then s else
  match value with
  | some v => s.ringDoorbell page offset width v
  | none => s.post (.readData (List.replicate (width / 8) 0#8))

/-- DOORBELL (R253). -/
def execDoorbell (page offset width : Nat) (value : Option DWord) (s : State) : Out := .next (doDoorbell page offset width value s)

/-- PACKET_FETCH (R263). -/
def execPacketFetch (ring : Nat) (pkt : BitVec 512) (s : State) : Out := .next (doPacketFetch ring pkt s)

/-- A read that the part issues for a command ring fails: the ring enters ERROR, and AER reports it (R251). -/
def State.readFailed (ring : Nat) (header : BitVec 128) (s : State) : State :=
  match s.cpx.ring? ring with
  | none => s
  | some r =>
    if r.kind = .command && !r.error then
      let r' := { r with error := true }
      let s := (s.onCpx fun c => c.putRing r').post (r'.block r.head)
      ((s.ringMessage ring (decide (r.head ≠ r.tail))).note 0x7004 sevError noUnit ring 0 0).post (.aer header)
    else s

/-- What the link brings beside packets and BAR accesses: a failed read, or a poisoned write, which is discarded and reported through
AER (R251); or a write of the function's power state, whose D3hot only stops BAR accesses (R250; DESIGN CHOICE, log 169: the table has
no row of its own for it). -/
def doReadError (e : BusEvent) (s : State) : State :=
  if !(s.pins.rstN && s.hif.linkUp) then s else
  match e with
  | .fetch ring header => s.readFailed ring header
  | .poisoned header => s.post (.aer header)
  | .powerState d3hot => s.onHif fun h => { h with d3hot := d3hot }

/-- READ_ERROR (R251). -/
def execReadError (e : BusEvent) (s : State) : Out := .next (doReadError e s)

/-! ### HELLO and QUERY_CAPS -/

/-- Host-protocol versions, highest first (Table 10.7). -/
def protoVersions : List Nat := [0x203, 0x202, 0x201, 0x200, 0x100]

/-- The versions chosen, or the interface without a common one (R266). -/
def chooseVersions (pk : Packet) : Except Nat Versions :=
  match protoVersions.find? (fun v => decide (pk.u 0x10 2 ≤ v) && decide (v ≤ pk.u 0x12 2)) with
  | none => .error 0
  | some p =>
    match [4, 3].find? (fun v => decide (pk.u 0x14 1 ≤ v) && decide (v ≤ pk.u 0x15 1)) with
    | none => .error 1
    | some c =>
      match [2, 1].find? (fun v => decide (pk.u 0x16 1 ≤ v) && decide (v ≤ pk.u 0x17 1)) with
      | none => .error 2
      | some t => .ok { proto := p, contract := c, tile := t }

/-- The HELLO reply layout (Table 10.9). -/
def Versions.result (v : Versions) : Nat := v.proto + 2 ^ 16 * v.contract + 2 ^ 24 * v.tile

/-- The KM880's ranges in the HELLO reply layout: lowest in the low half, highest in the high half (DESIGN CHOICE,
log 12). -/
def rangesResult : Nat := (0x100 + 2 ^ 16 * 3 + 2 ^ 24 * 1) + 2 ^ 32 * (0x203 + 2 ^ 16 * 4 + 2 ^ 24 * 2)

/-- The client has an open job, or a command without a reply other than those that stand behind this one on its ring (R266;
DEDUCED, log 166). -/
def Cpx.clientBusy (c : Cpx) (pk : Packet) : Bool :=
  c.jobs.any (fun j => j.client = pk.client) ||
  (c.unrepliedAll.filter fun p => p.client = pk.client && decide (p.ring ≠ pk.ring)).length ≠ 0 ||
  (c.packets.takeWhile fun p => !p.same pk).any fun p => p.client = pk.client

/-- HELLO (R266). -/
def doHello (ring : Nat) (s : State) : State :=
  s.runPacket ring 0x01 fun pk s =>
    if s.cpx.clientBusy pk then s.bad pk 0
    else match chooseVersions pk with
      | .error i => s.reply pk stVersion i rangesResult
      | .ok v =>
        (s.onCpx fun c => match c.client? pk.client with
          | some x => c.putClient { x with versions := some v }
          | none => c).done pk v.result

/-- HELLO (R266). -/
def execHello (ring : Nat) (s : State) : Out := .next (doHello ring s)

/-- The part's speed floor (Table 0.2). -/
def Sec.floor (x : Sec) : Nat := if x.orderQ10 then 760 else 680
/-- ORDER of HIF_ID (Table 18.2). -/
def Sec.order (x : Sec) : Nat := if x.orderQ10 then 0x10 else 0x08

/-- Free ring IDs at or above 0x1000. -/
def State.freeRings (s : State) : Nat :=
  (0x100000 - 0x1000) - (s.cpx.rings.filter fun r => decide (0x1000 ≤ r.id)).length - (s.ctr.ringRanges.map fun p => p.2).sum

/-- The capability block (Table 10.8). -/
def State.capsBlock (s : State) : List Byte :=
  leBytes 2 0x0880 ++ leBytes 1 0xA1 ++ leBytes 1 s.sec.order ++ leBytes 2 s.sec.floor ++ leBytes 2 s.pwr.hostRate ++
  leBytes 1 1 ++ leBytes 1 2 ++ leBytes 1 s.pwr.state.code ++ leBytes 1 s.cpx.qmCores.toNat ++ leBytes 4 0x02010403 ++
  leBytes 8 s.mss.usable ++ leBytes 2 s.mss.dataRate ++ leBytes 1 s.hif.linkSpeed ++ leBytes 1 s.hif.linkWidth ++
  leBytes 2 (4095 - (s.cpx.clients.filter fun c => c.id ≠ 0).length) ++ leBytes 2 0 ++ leBytes 4 s.freeRings ++
  leBytes 4 s.mss.fwVersion ++ leBytes 4 s.sec.rollback ++ leBytes 4 0 ++ leBytes 8 Config.deviceId.toNat ++
  List.replicate 200 0#8

/-- QUERY_CAPS (R268). -/
def doQueryCaps (ring : Nat) (s : State) : State :=
  s.runPacket ring 0x02 fun pk s =>
    let dest := pk.u 0x18 8
    if !aligned64 dest then s.bad pk 0x18 else (s.hostWrite dest s.capsBlock).done pk 0

/-- QUERY_CAPS (R268). -/
def execQueryCaps (ring : Nat) (s : State) : Out := .next (doQueryCaps ring s)

/-! ### Clients -/

/-- OPEN_CLIENT takes the lowest free client from 1 (Table 10.9); its counts start at zero (R295). -/
def doOpenClient (ring : Nat) (s : State) : State :=
  s.runPacket ring 0x10 fun pk s =>
    match (List.range 4095).find? fun i => (s.cpx.client? (i + 1)).isNone with
    | none => s.noRes pk 0
    | some i =>
      (s.onCpx fun c => { c with clients := c.clients ++ [{ id := i + 1, versions := none, completed := 0, killed := 0 }],
                                 past := c.past.filter fun x => x.id ≠ i + 1 }).done pk (i + 1)

/-- OPEN_CLIENT (R269). -/
def execOpenClient (ring : Nat) (s : State) : Out := .next (doOpenClient ring s)

/-- A packet whose ring is gone keeps no ring (R262). -/
def Packet.orphan (gone : Nat → Bool) (p : Packet) : Packet := if gone p.ring then { p with ring := noRing } else p

/-- Rings go: their waiting packets go with them, and commands already started end without a reply (R262). -/
def State.loseRings (gone : Nat → Bool) (s : State) : State :=
  let o := Packet.orphan gone
  let s := s.onCpx fun c =>
    { c with rings := c.rings.filter (fun r => !gone r.id), owed := c.owed.filter (fun w => !gone w.pkt.ring),
             packets := (c.packets.filter fun p => !gone p.ring || p.started.isSome).map o,
             kills := c.kills.map (fun k => { k with killer := o k.killer }),
             cap := c.cap.map (fun r => { r with pkt := o r.pkt }),
             stop := c.stop.map (fun r => { r with pkt := o r.pkt }),
             unmaps := c.unmaps.map fun r => { r with pkt := o r.pkt, waits := r.waits.filter fun w => !gone w.1 } }
  let s := s.onCtr fun c => { c with armPending := c.armPending.map o }
  let s := s.onMss fun m => { m with discover := m.discover.map (fun r => { r with pkt := o r.pkt }),
                                     diag := m.diag.map o, flagClear := m.flagClear.map o, prepare := m.prepare.map o }
  let s := s.onFlash fun f => { f with commit := f.commit.map o }
  let s := s.onCkc fun c => { c with split := c.split.map (fun p => (o p.1, p.2)), join := c.join.map o }
  s.onSen fun x => { x with i2c := x.i2c.map fun q => q.map fun op => { op with pkt := o op.pkt } }

/-- The open jobs of the chosen rings are torn down without replies (Table 11.2). -/
def State.teardownJobs (gone : Nat → Bool) (s : State) : State :=
  (s.cpx.jobs.filter fun j => gone j.ring).foldl (fun s j => s.teardown j.ring false) s

/-- The chosen rings are destroyed with their jobs (R250, R271): nothing more is written to them; a KILL of another ring that had
sent its token to the running command is answered, and so is an UNMAP_BUFFER that waited for it. -/
def State.dropRings (gone : Nat → Bool) (s : State) : State :=
  let s := (s.teardownJobs gone).loseRings gone
  (if s.cpx.qm.isNone then s.answerKills 0 else s).settle

/-- The chosen clients close (R250): their rings, jobs and buffers go, their counts stand (R295). -/
def State.closeClients (gone : Nat → Bool) (s : State) : State :=
  let ids := (s.cpx.rings.filter fun r => gone r.client).map fun r => r.id
  let s := s.dropRings fun r => ids.contains r
  s.onCpx fun c => { c with past := c.past ++ c.clients.filter (fun x => gone x.id), clients := c.clients.filter (fun x => !gone x.id),
                            buffers := c.buffers.filter fun b => !gone b.client }

/-- Close one client: its jobs, its rings and its buffers (R250). -/
def State.closeClient (id : Nat) (s : State) : State := s.closeClients fun x => decide (x = id)

/-- CLOSE_CLIENT (R250). -/
def doCloseClient (ring : Nat) (s : State) : State :=
  s.runPacket ring 0x11 fun pk s =>
    let id := pk.u 0x10 2
    if id < 1 ∨ 4095 < id ∨ (s.cpx.client? id).isNone then s.bad pk 0x10
    else ((s.closeClient id).boundary).done pk 0

/-- CLOSE_CLIENT (R250). -/
def execCloseClient (ring : Nat) (s : State) : Out := .next (doCloseClient ring s)

/-- The teardown of R250: every client but the admin client closes, every host ring goes, every job is torn down,
every buffer is unmapped, and the BAR4 window returns to address 0. -/
def State.hostTeardown (s : State) : State :=
  let s := (s.dropRings fun _ => true).closeClients fun x => decide (x ≠ 0)
  let s := s.onCpx fun c => { c with buffers := [] }
  (s.onHif fun h => { h with bar4Window := 0, heldWindow := none }).boundary

/-! ### Rings -/

/-- Ring kinds by code (Table 10.3). -/
def ringKindOf : Nat → Option RingKind
  | 1 => some .command | 2 => some .completion | 3 => some .tileStream | 4 => some .objectStream
  | 5 => some .verdictStream | _ => none

/-- Stream kinds (R227: one ring of each on the KM880). -/
def RingKind.isStream : RingKind → Bool
  | .tileStream => true | .objectStream => true | .verdictStream => true | _ => false

/-- The ring number is used by a host ring or a contract range (R256). -/
def State.ringUsed (s : State) (id : Nat) : Bool :=
  s.cpx.rings.any (fun r => r.id = id) || s.ctr.ringRanges.any fun p => decide (p.1 ≤ id) && decide (id < p.1 + p.2)

/-- The lowest free ring number at or above 0x1000 (R256). -/
def State.freeRing (s : State) : Option Nat :=
  let cands := 0x1000 :: (s.cpx.rings.map (fun r => r.id + 1) ++ s.ctr.ringRanges.map fun p => p.1 + p.2)
  let ok := cands.filter fun i => decide (0x1000 ≤ i) && decide (i < 0x100000) && !s.ringUsed i
  match ok with
  | [] => none
  | i :: r => some (r.foldl min i)

/-- A power of two from 8 to 65,536 (R257, R436). -/
def goodEntries (n : Nat) : Bool := (List.range 14).any fun i => n = 2 ^ (i + 3)

/-- CREATE_RING (R271, R257). -/
def doCreateRing (ring : Nat) (s : State) : State :=
  s.runPacket ring 0x12 fun pk s =>
    let client := if pk.ring = adminCmd then pk.u 0x12 2 else pk.client
    let entries := pk.u 0x14 4
    let base := pk.u 0x18 8
    let link := pk.u 0x20 4
    let vector := pk.u 0x24 1
    match ringKindOf (pk.u 0x10 1) with
    | none => s.bad pk 0x10
    | some k =>
      if 1 < pk.u 0x11 1 then s.bad pk 0x11
      else if (s.cpx.client? client).isNone then s.bad pk 0x12
      else if !goodEntries entries then s.bad pk 0x14
      else if base % 4096 ≠ 0 then s.bad pk 0x18
      else if k = .command ∧ !(match s.cpx.ring? link with | some q => q.kind = .completion && q.client = client | none => false) then s.bad pk 0x20
      else if vector < 1 ∨ 63 < vector then s.bad pk 0x24
      else if k.isStream && s.cpx.rings.any (fun r => r.kind = k) then s.noRes pk 0
      else match s.freeRing with
        | none => s.noRes pk 0
        | some id =>
          let r : Ring := { id := id, kind := k, irq := decide (pk.u 0x11 1 = 1), error := false, client := client,
                            entries := entries, base := BitVec.ofNat 64 base, head := 0, tail := 0,
                            link := if k = .command then link else 0, vector := vector, coalesce := pk.u 0x25 1, sinceMsg := 0, spans := [] }
          let s := s.onEmt fun e => match k with
            | .tileStream => { e with tile := { e.tile with tailPend := 0 } }
            | .objectStream => { e with object := { e.object with tailPend := 0 } }
            | .verdictStream => { e with verdict := { e.verdict with tailPend := 0 } }
            | _ => e
          (s.onCpx fun c => { c with rings := c.rings ++ [r] }).done pk id

/-- CREATE_RING (R271). -/
def execCreateRing (ring : Nat) (s : State) : Out := .next (doCreateRing ring s)

/-- DESTROY_RING (R271). The KM880's own rings, admin rings included, are not host rings (R256). -/
def doDestroyRing (ring : Nat) (s : State) : State :=
  s.runPacket ring 0x13 fun pk s =>
    let id := pk.u 0x10 4
    match s.cpx.ring? id with
    | none => s.bad pk 0x10
    | some r =>
      if id < 0x1000 ∨ r.client ≠ pk.client ∨ (r.kind = .completion ∧ s.cpx.rings.any fun q => q.kind = .command && q.link = id)
      then s.bad pk 0x10
      else
        let gone := fun x => decide (x = id)
        ((s.dropRings gone).boundary).done (pk.orphan gone) 0

/-- DESTROY_RING (R271). -/
def execDestroyRing (ring : Nat) (s : State) : Out := .next (doDestroyRing ring s)

/-! ### Buffers -/

/-- A handle that no buffer has: the open value, or the lowest free number when it is taken. -/
def State.newHandle (s : State) : Nat :=
  let h := s.freeWord.toNat % 2 ^ 32
  if s.cpx.buffers.any fun b => b.handle = h then
    ((List.range (s.cpx.buffers.length + 1)).find? fun i => !s.cpx.buffers.any fun b => b.handle = i).getD 0
  else h

/-- MAP_BUFFER (R271); version 1.0 has no generation word (Table 10.7). -/
def doMapBuffer (ring : Nat) (s : State) : State :=
  s.runPacket ring 0x40 fun pk s =>
    let addr := pk.u 0x10 8
    let size := pk.u 0x18 8
    let gen := pk.u 0x20 8
    let client := if pk.ring = adminCmd then pk.u 0x28 2 else pk.client
    let old := decide (s.cpx.proto pk.client = 0x100)
    let noGen := old || decide (gen = 2 ^ 64 - 1)
    if !s.mss.inOne tagShared addr size then s.bad pk 0x10
    else if size = 0 ∨ size % 64 ≠ 0 then s.bad pk 0x18
    else if (old ∧ gen ≠ 0) ∨ (!noGen ∧ (gen % 8 ≠ 0 ∨ !s.mss.inOne tagShared gen 8 ∨ (addr < gen + 8 ∧ gen < addr + size))) then s.bad pk 0x20
    else if (s.cpx.client? client).isNone then s.bad pk 0x28
    else if 256 ≤ (s.cpx.buffers.filter fun b => b.client = client).length ∨ 16384 ≤ s.cpx.buffers.length then s.noRes pk 0
    else
      let h := s.newHandle
      let b : Buffer := { handle := h, client := client, addr := addr, size := size, gen := if noGen then none else some gen }
      (s.bumpFree.onCpx fun c => { c with buffers := c.buffers ++ [b] }).done pk h

/-- MAP_BUFFER (R271). -/
def execMapBuffer (ring : Nat) (s : State) : Out := .next (doMapBuffer ring s)

/-! ### The ring table -/

/-- A descriptor of Table 10.3. -/
def ringDesc (kind flags client entries base head tail link vector coalesce : Nat) : List Byte :=
  leBytes 1 kind ++ leBytes 1 flags ++ leBytes 2 client ++ leBytes 4 entries ++ leBytes 8 base ++ leBytes 4 head ++ leBytes 4 tail ++
    leBytes 4 link ++ leBytes 1 vector ++ leBytes 1 coalesce ++ leBytes 2 0

/-- KIND of a host ring (Table 10.3). -/
def RingKind.code : RingKind → Nat
  | .command => 1 | .completion => 2 | .tileStream => 3 | .objectStream => 4 | .verdictStream => 5

/-- The device ring of a number (R199). -/
def Sen.ringOf (x : Sen) (id : Nat) : Option DevRing :=
  if 0x200 ≤ id then (if id < 0x208 then (vget x.lidars (id - 0x200) none).map fun l => l.ring else none)
  else if 0x100 ≤ id ∧ id < 0x118 then (vget x.cameras (id - 0x100) none).map fun c => c.ring else none

/-- The 32 bytes of a ring's descriptor in the ring table (R257, Table 10.3): HUB's view of what the state holds of each ring. A
contract ring's BASE and indices, and a device ring's indices, count its slots (DESIGN CHOICE, log 168). -/
def State.ringEntry (s : State) (id : Nat) : List Byte :=
  match s.cpx.ring? id with
  | some r => ringDesc r.kind.code ((if r.irq then 1 else 0) + (if r.error then 2 else 0) + 4) r.client r.entries r.base.toNat r.head r.tail
      r.link r.vector r.coalesce
  | none => match s.sen.ringOf id with
    | some r => ringDesc 9 0 0xFFFF r.slots.length r.base r.seq r.seq 0 0 0
    | none => match (s.ctr.held.find? fun k => decide (k.ringBase ≤ id) && decide (id < k.ringBase + k.rings.length)) with
      | some k => match k.rings[id - k.ringBase]? with
        | some e =>
          let st := if s.ctr.armed = some k then s.ctr.prog.rings[id - k.ringBase]? else none
          let idx := match st with | some t => (t.nextRel % 2 ^ 32, t.nextFill % 2 ^ 32) | none => (0, 0)
          ringDesc 8 0 0xFFFF e.slotCount (match k.slotPlace e 0 0 with | some p => p.2 | none => 0) idx.1 idx.2 0 0 0
        | none => List.replicate 32 0#8
      | none => List.replicate 32 0#8

/-- Commands that had the buffer lent at their dispatch and are without a reply (R271). -/
def Cpx.holders (c : Cpx) (handle : Nat) : List (Nat × Nat) :=
  (c.jobs.filter fun j => j.visible.contains handle).flatMap fun j => match j.cmds.head? with | some p => [(p.ring, p.pos)] | none => []

/-- UNMAP_BUFFER (R271). -/
def doUnmapBuffer (ring : Nat) (s : State) : State :=
  s.runPacket ring 0x41 fun pk s =>
    let h := pk.u 0x10 4
    if !s.cpx.buffers.any (fun b => b.handle = h && b.client = pk.client) then s.bad pk 0x10
    else
      let w := s.cpx.holders h
      let s := s.onCpx fun c => { c with buffers := c.buffers.filter fun b => b.handle ≠ h }
      if w.isEmpty then s.done pk 0
      else s.onCpx fun c => { c with unmaps := c.unmaps ++ [{ pkt := pk, handle := h, waits := w }] }

/-- UNMAP_BUFFER (R271). -/
def execUnmapBuffer (ring : Nat) (s : State) : Out := .next (doUnmapBuffer ring s)

/-! ### Job rows of Table 10.9 -/

/-- SUBMIT_JOB (R270). -/
def execSubmitJob (ring : Nat) (s : State) : Out := .next (doSubmitJob ring s)
/-- JOB_DISPATCH (R279). -/
def execJobDispatch (s : State) : Out := .next (doJobDispatch s)
/-- END_JOB (R280). -/
def execEndJob (ring : Nat) (s : State) : Out := .next (doEndJob ring s)
/-- KILL (R272). -/
def execKill (ring : Nat) (late : Bool) (s : State) : Out := .next (doKill ring late s)
/-- SET_CAPACITY (R288). -/
def execSetCapacity (ring : Nat) (s : State) : Out := .next (doSetCapacity ring s)
/-- SEQ_JOIN (R291). -/
def execSeqJoin (ring : Nat) (s : State) : Out := .next (doSeqJoin ring s)
/-- SEQ_LEAVE (R291). -/
def execSeqLeave (ring : Nat) (s : State) : Out := .next (doSeqLeave ring s)

/-! ### HIF registers -/

/-- A BAR0 write reaches the registers: the link is up and the state is not BOOT or PARKED (R432). -/
def State.bar0Open (s : State) : Bool :=
  s.barOpen && s.pwr.state ≠ .boot && s.pwr.state ≠ .parked

/-- After a write, a bit both set and unmasked sends vector 0 (R435). -/
def State.resend (s : State) : State := if s.hif.event &&& ~~~s.hif.eventMask ≠ 0 then s.message 0 else s

/-- HIF_EVENT is W1C (R435). -/
def doHifEventWrite (v : Word) (s : State) : State :=
  if s.bar0Open then (s.onHif fun h => { h with event := h.event &&& ~~~v }).resend else s
/-- HIF_EVENT_WRITE (R435). -/
def execHifEventWrite (v : Word) (s : State) : Out := .next (doHifEventWrite v s)

/-- HIF_EVENT_MASK holds its eight cause bits (Table 18.3). -/
def doHifEventMaskWrite (v : Word) (s : State) : State :=
  if s.bar0Open then (s.onHif fun h => { h with eventMask := v &&& 0xFF#32 }).resend else s
/-- HIF_EVENT_MASK_WRITE (R435). -/
def execHifEventMaskWrite (v : Word) (s : State) : Out := .next (doHifEventMaskWrite v s)

/-- HIF_BAR4_WINDOW ignores bits [25:0] (R254). -/
def doHifBar4WindowWrite (v : DWord) (s : State) : State :=
  if s.bar0Open then s.onHif fun h => { h with bar4Window := v &&& ~~~0x3FFFFFF#64 } else s
/-- HIF_BAR4_WINDOW_WRITE (R254). -/
def execHifBar4WindowWrite (v : DWord) (s : State) : Out := .next (doHifBar4WindowWrite v s)

/-- The admin client is open; it keeps its versions and counts over R250. -/
def Cpx.openAdmin (c : Cpx) : Cpx :=
  if (c.client? 0).isSome then c
  else { c with clients := { id := 0, versions := none, completed := 0, killed := 0 } :: c.clients }

/-- The fields of HIF_ADMIN_CTRL that software writes while ENABLE is 0 (Table 18.4). -/
def Hif.adminFields (h : Hif) (v : Word) : Hif :=
  { h with adminIrq := v.getLsbD 3, adminVector := v.toNat / 256 % 64, adminCoalesce := v.toNat / 65536 % 256 }

/-- The states in which ENABLE may be set (R256). -/
def DevState.adminOk : DevState → Bool
  | .ready => true | .running => true | .draining => true | .flagged => true | .recovery => true | _ => false

/-- The conditions of R436. -/
def State.adminAccepts (s : State) (v : Word) : Bool :=
  let vec := v.toNat / 256 % 64
  s.pwr.state.adminOk && decide (s.hif.adminCmdBase.toNat % 4096 = 0) && decide (s.hif.adminCplBase.toNat % 4096 = 0) &&
    goodEntries s.hif.adminEntries.toNat && decide (1 ≤ vec)

/-- An empty admin ring. -/
def adminRing (h : Hif) (id : Nat) (k : RingKind) (base : DWord) (link : Nat) : Ring :=
  { id := id, kind := k, irq := h.adminIrq && decide (k = .completion), error := false, client := 0,
    entries := h.adminEntries.toNat, base := base, head := 0, tail := 0, link := link, vector := h.adminVector,
    coalesce := h.adminCoalesce, sinceMsg := 0, spans := [] }

/-- HIF_ADMIN_CTRL (R436): setting ENABLE puts the admin rings in service or sets CONFIG_ERROR; clearing it has the
effect of R250; while it is 1 the other fields are kept. -/
def doAdminCtrl (v : Word) (s : State) : State :=
  if !s.bar0Open then s
  else if s.hif.adminEnable then
    if v.getLsbD 0 then s
    else
      let s := s.hostTeardown.note 0x7003 sevNotice noUnit 2 0 0
      s.onHif fun h => { h with adminEnable := false, adminActive := false }
  else
    let s := s.onHif fun h => h.adminFields v
    if !v.getLsbD 0 then s
    else if s.adminAccepts v then
      let s := s.onHif fun h => { h with adminEnable := true, adminActive := true, configError := false }
      let cmd := adminRing s.hif adminCmd .command s.hif.adminCmdBase adminCpl
      let cpl := adminRing s.hif adminCpl .completion s.hif.adminCplBase 0
      let s := s.onCpx fun c => { c.openAdmin with rings := c.openAdmin.rings ++ [cmd, cpl] }
      (s.post (cmd.block 0)).post (cpl.block 0)
    else s.onHif fun h => { h with configError := true }

/-- ADMIN_ENABLE (R436): a write with ENABLE set. -/
def execAdminEnable (v : Word) (s : State) : Out := .next (doAdminCtrl (v ||| 1#32) s)
/-- ADMIN_DISABLE (R436): a write with ENABLE clear. -/
def execAdminDisable (v : Word) (s : State) : Out := .next (doAdminCtrl (v &&& ~~~1#32) s)

/-- A read of HIF_DOORBELL_ERRORS returns and clears the count (R12). -/
def doHifDoorbellErrorsRead (s : State) : State :=
  if s.barOpen && s.pwr.state ≠ .parked then
    if s.pwr.state = .boot then s.post (.readData (leBytes 4 0))
    else (s.post (.readData (leBytes 4 s.hif.doorbellErrors))).onHif fun h => { h with doorbellErrors := 0 }
  else s
/-- HIF_DOORBELL_ERRORS_READ (R12). -/
def execHifDoorbellErrorsRead (s : State) : Out := .next (doHifDoorbellErrorsRead s)

/-! ### BAR4 -/

/-- The lines of a range that the host may reach through BAR4 (Table 6.3). -/
def State.bar4Ok (s : State) (a : Nat) : Bool := s.mss.tagAt (64 * (a / 64)) = tagShared

/-- A BAR4 access (R146, R254): only HOST_SHARED lines are read or written; anything else reads zero or is discarded,
and below the end of usable memory it is a host-protocol event. -/
def doBar4Access (offset : Nat) (write : Option (List Byte)) (size : Nat) (s : State) : State :=
  let n := match write with | some b => b.length | none => size
  if !s.barOpen || decide (0x40000000 < offset + n) then s else
  let a := s.hif.bar4Window.toNat + offset
  let bad := (linesOf a n).find? fun l => decide (l < s.mss.usable) && s.mss.tagAt l ≠ tagShared
  let s := match bad with
    | some l => s.note 0x7006 sevWarning noUnit (max l a % 2 ^ 32) (max l a / 2 ^ 32) 0
    | none => s
  match write with
  | some b => s.onFab fun f =>
      (b.foldl (fun (p : Nat × Fab) x => (p.1 + 1, if s.bar4Ok p.1 then p.2.poke .dram p.1 x else p.2)) (a, f)).2
  | none => s.post (.readData ((List.range n).map fun i => if s.bar4Ok (a + i) then s.fab.peek .dram (a + i) else 0))

/-- BAR4_ACCESS (R146). -/
def execBar4Access (offset : Nat) (write : Option (List Byte)) (size : Nat) (s : State) : Out :=
  .next (doBar4Access offset write size s)

/-! ### The link and its resets -/

/-- The registers that PERST_N and a Function Level Reset restore (R432). -/
def Hif.attachReset (h : Hif) : Hif :=
  { Hif.reset with linkUp := h.linkUp, linkSpeed := h.linkSpeed, linkWidth := h.linkWidth, posted := h.posted }

/-- The reset of the host attachment (R250, R432); `kind` is the parameter of PCIE_RESET. -/
def State.attachReset (kind : Nat) (s : State) : State :=
  (s.hostTeardown.note 0x7003 sevNotice noUnit kind 0 0).onHif Hif.attachReset

/-- FUNCTION_LEVEL_RESET (R250): the host attachment is torn down and its registers reset. -/
def doFunctionLevelReset (s : State) : State :=
  if s.pins.rstN && s.hif.linkUp then s.attachReset 1 else s
/-- FUNCTION_LEVEL_RESET (R250). -/
def execFunctionLevelReset (s : State) : Out := .next (doFunctionLevelReset s)

/-- PCIE_LINK_DOWN (R262): nothing is delivered until the link returns. -/
def doPcieLinkDown (s : State) : State := s.onHif fun h => { h with linkUp := false }
/-- PCIE_LINK_DOWN (R262). -/
def execPcieLinkDown (s : State) : Out := .next (doPcieLinkDown s)

/-- Rates and widths that the endpoint supports (Table 10.1). -/
def linkSupported (speed width : Nat) : Bool := decide (1 ≤ speed ∧ speed ≤ 4) && (width = 1 || width = 2 || width = 4)

/-- PCIE_LINK_UP (R396): with PERST_N released and PD45 on, the link carries requests, at a rate and width of Table 10.1. -/
def doPcieLinkUp (speed width : Nat) (s : State) : State :=
  if linkSupported speed width && s.pins.rstN && s.pins.perstN && s.pwr.domains.getLsbD 45 then
    s.onHif fun h => { h with linkUp := true, linkSpeed := speed, linkWidth := width }
  else s
/-- PCIE_LINK_UP (R396). -/
def execPcieLinkUp (speed width : Nat) (s : State) : Out := .next (doPcieLinkUp speed width s)

end Sys2Proof.Machine
end

