-- ==== Sys2Proof/Machine/Faults.lean ====
section
/-! DEFINITION. Suspect units and the drain (R334, R339, R340, Table 13.4), and stopping or unloading frame programs
(R277, R339, R375). -/

namespace Sys2Proof.Machine

/-! ### Device rings -/

/-- The sensor index of a device ring (R199, R244). -/
def ringSensor (r : Nat) : Option Nat :=
  if 0x100 ≤ r ∧ r < 0x118 then some (r - 0x100) else if 0x200 ≤ r ∧ r < 0x208 then some (24 + (r - 0x200)) else none

/-- The device ring of a configured sensor. -/
def Sen.ring? (x : Sen) (i : Nat) : Option DevRing :=
  if i < 24 then (vget x.cameras i none).map fun c => c.ring else (vget x.lidars (i - 24) none).map fun l => l.ring

/-- Replace the device ring of a configured sensor. -/
def Sen.putRing (x : Sen) (i : Nat) (r : DevRing) : Sen :=
  if i < 24 then { x with cameras := vset x.cameras i ((vget x.cameras i none).map fun c => { c with ring := r }) }
  else { x with lidars := vset x.lidars (i - 24) ((vget x.lidars (i - 24) none).map fun l => { l with ring := r }) }

/-- One binding of a slot ends; the index after the last slot is the absent slot. -/
def DevRing.unbind (r : DevRing) (k : Nat) : DevRing :=
  if k < r.slots.length then
    { r with slots := r.slots.mapIdx fun i x => if i = k then { x with bound := x.bound - 1 } else x }
  else { r with absentBound := r.absentBound - 1 }

/-- The ingest slots that a program's rings hold are released (R49, R277). -/
def State.releaseIngest (c : Contract) (rs : List RingState) (s : State) : State :=
  (c.rings.zip rs).foldl (fun s p =>
    match ringSensor p.1.deviceRing, p.2.bound with
    | some i, some (k, _) => s.onSen fun x => match x.ring? i with | some r => x.putRing i (r.unbind k) | none => x
    | _, _ => s) s

/-- The slots bound for a frame whose program has not started are released. -/
def State.releaseLate (c : Contract) (s : State) (l : LateStart) : State :=
  match (if l.staged then s.ctr.staged else some c) with
  | some k => s.releaseIngest k l.rings
  | none => s

/-! ### Stopping the frame program -/

/-- The fault-record context of a step (Table 13.3). -/
def Run.stepCtx (r : Run) (seen : Option Seen) (frame outcome fails replays second : Nat) : FaultCtx :=
  { opKind := 0, opcode := 0, outcome := outcome, ident := r.ident, context := frame, fails := fails,
    replays := replays, second := second, seen := seen }

/-- A step stopped with an unresolved failure leaves a record with OUTCOME KILLED (R332). -/
def State.dropStep (r : Run) (s : State) : State :=
  match r.unresolved with
  | some (f, d, n, k) => s.recordFault f (r.stepCtx d s.ctr.prog.frame outKilled n k 0)
  | none => s

/-! ### The effective rate target -/

/-- The effective rate target reaches the LDOs (R30, R378, R380); after a change, every rate-locked unit settles anew (R28). -/
def State.applyRate (s : State) : State :=
  let t := max s.sec.floor (min s.pwr.hostRate s.pwr.cap)
  if t = s.pwr.effective then s
  else s.onPwr fun p => { p with effective := t, units := p.units.map fun u => { u with settled := false, inBand := 0 } }

/-- A changed target acts at once, but not while a frame program runs (R30, R380). -/
def State.rateChanged (s : State) : State := if s.ctr.prog.running then s else s.applyRate

/-! ### Opening the QM window -/

/-- Slices of a visited unit in a rotation (Table 13.7); the visit order is MXC0-MXC7, WRE, GXE, DPP, QOE. -/
def sliceCount (k : Nat) : Nat := if k < 8 then 392 else [288, 320, 224, 232].getD (k - 8) 0
/-- The unit code of a place in the visit order. -/
def visitUnit (k : Nat) : Nat := if k < 8 then k else 0x10 + (k - 8)
/-- The domains that a visited unit needs. -/
def visitMask (k : Nat) : BitVec 64 := if k < 8 then BitVec.ofNat 64 (15 * 2 ^ (4 * k)) else 1#64 <<< (41 + (k - 8))
/-- The unit is powered. -/
def State.visitOn (s : State) (k : Nat) : Bool := s.pwr.domains &&& visitMask k = visitMask k
/-- The next unit that the rotation visits (R344): powered, with slices left, and not passed over for
pattern data that failed its check (R347). -/
def State.nextVisit (s : State) : Option Nat :=
  if s.mss.patternMode then none else
  ((List.range 12).map fun i => (s.evr.rotNext + i) % 12).find? fun k =>
    s.visitOn k && !s.evr.passed.testBit k && decide (vget s.evr.sliceDone k 0 < sliceCount k)
/-- The armed contract has a coppice step for a visited unit (R60). -/
def Ctr.hasCoppice (c : Ctr) (k : Nat) : Bool :=
  match c.armed with | some a => a.coppice.any fun e => e.2 = visitUnit k | none => false

/-- A slice has run since the latest launch: a frame cycle takes at most one (R344). -/
def State.sliceTaken (s : State) : Bool :=
  match s.ctr.past.head? with | some p => decide (p.count ≤ s.evr.lastSlice) | none => false

/-- The QM window opens (R15, R275); with a contract armed, the slice of a unit that has no coppice step comes before the
first QM dispatch (R41, R345), unless this frame cycle has had its slice (R344). -/
def State.openWindow (s : State) : State :=
  let due := s.ctr.armed.isSome && !s.sliceTaken && match s.nextVisit with | some k => !s.ctr.hasCoppice k | none => false
  s.onCpx fun c => { c with windowOpen := true, sliceDue := c.sliceDue || due }

/-- The visited unit is done with its slice (R344): the next visit follows it; a rotation ends when every powered unit's
slices are done, with its event. -/
def State.afterSlice (k : Nat) (s : State) : State :=
  let s := s.onEvr fun r => { r with rotNext := (k + 1) % 12, coppiceStep := none }
  let left := (List.range 12).any fun i => s.visitOn i && !s.evr.passed.testBit i && decide (vget s.evr.sliceDone i 0 < sliceCount i)
  if left then s
  else
    let mask := (List.range 12).foldl (fun a i => if s.evr.passed.testBit i || decide (vget s.evr.sliceDone i 0 < sliceCount i) then a + 2 ^ i else a) 0
    let n := s.evr.rotation + 1
    let s := s.note 0x0007 sevInfo noUnit n ((s.now - s.evr.rotStart) / 1000000000) mask
    s.onEvr fun r => { r with rotation := n, rotStart := s.now, passed := 0, sliceDone := Vector.replicate 12 0 }

/-- The number of a slice among those of the rotation, in visit order (Table 13.7). -/
def sliceNumber (k done : Nat) : Nat := ((List.range k).map sliceCount).sum + done

/-- The unit at a place of the visit order. -/
def visitId (k : Nat) : UnitId :=
  if k < 8 then .mxc ⟨k % 8, by omega⟩ else .eng ([Engine.wre, .gxe, .dpp, .qoe].getD (k - 8) .qoe)

/-- Every unit of the frame program stops at its present instruction and its uncommitted effects are discarded
(R277, Table 1.3). -/
def State.stopProgram (s : State) : State :=
  let runs := (s.fab.cores.toList.map fun c => c.run) ++ (s.fab.engines.toList.map fun e => e.run)
  let s := runs.foldl (fun s r => s.dropStep r) s
  let s := match s.ctr.armed with
    | some c =>
      let s := if s.ctr.prog.running then s.releaseIngest c s.ctr.prog.rings else s
      s.ctr.lateStart.foldl (State.releaseLate c) s
    | none => s
  let s := s.onFab fun f => { runs.foldl (fun f r => f.returnHeld r) f with
                                     cores := f.cores.map fun c => { c with run := Run.idle, halted := true, su := Su.idle },
                                     engines := f.engines.map fun e => { e with run := Run.idle, halted := true } }
  let s := s.onCtr fun c => { c with prog := { c.prog with running := false, rings := [] }, lateStart := [] }
  s.openWindow

/-- Every launch time that has not arrived is cancelled (R276, R339). -/
def State.cancelLaunches (s : State) : State := s.onCtr fun c => { c with placed := none, grid := none }

/-! ### Unloading contracts -/

/-- The armed and staged contracts are unloaded: ring ranges, banks, segments and buffers are free (Table 13.4 step 5);
a pending ARM_CONTRACT is refused with ARM_OVERLAP, whose reply names no entry (R469). -/
def State.unloadContracts (s : State) : State :=
  let pend := s.ctr.armPending
  let s := s.onCtr fun c => { c with armed := none, staged := none, old := none, armPending := none, swapFrame := none }
  match pend with
  | some pk => s.reply pk stRejected 0x10 (0xFFFFFFFF * 2 ^ 32)
  | none => s

/-! ### Suspect units -/

/-- The unit that a unit code of the sensors' engines stops (R339): CFE0, CFE1, LPE. -/
def sensorEngine (u : UnitId) : Bool := match u with | .cfe _ => true | .lpe => true | _ => false

/-- The flag record that the drain writes (Table 13.5). -/
def State.flagRecordOf (f : FailReport) (s : State) : FlagRecord :=
  let seq := max ((s.flash.flagA.map fun r => r.seq).getD 0) ((s.flash.flagB.map fun r => r.seq).getD 0)
  { seq := seq + 1, flagged := true, unit := unitCode f.unit, subunit := f.subunit, detector := f.detector,
    powerCycle := s.flash.powerCycle, opSeconds := s.opSecs, diagPasses := 0, fault := s.saf.faultRecord }

/-- The drain starts (Table 13.4 steps 1-3): the latch with cause 0x04, the status frame's fields, DRAINING, no launch,
no step, no command, and the flag record on its way to flash. A command stopped here is pre-empted. -/
def State.startDrain (f : FailReport) (s : State) : State :=
  let s := s.latch latchFlagged
  let s := s.onSaf fun x => { x with faultUnit := unitCode f.unit, flagged := true }
  let s := (s.enter .draining).cancelLaunches.preempt.stopProgram
  let rec_ := s.flagRecordOf f
  let s := s.onMss fun m => { m with flagWrite := some rec_ }
  if sensorEngine f.unit then s.onSen fun x => { x with stopped := unitCode f.unit :: x.stopped } else s

/-- Units become suspect (R334). The fault record of `f` is written, each unit's SUSPECT counter rises, and the part drains
from READY or RUNNING for the first of them; a decision during or after a drain only adds its record and events. -/
def State.suspectAs (f : FailReport) (c : FaultCtx) (units : List FailReport) (s : State) : State :=
  let s := units.foldl (fun s u => s.countErr (unitErrRow u.unit) colSuspect 1) (s.recordFault f c)
  let s := s.onMss fun m => { m with diagPassed := false }
  let u := units.headD f
  match s.pwr.state with
  | .ready => s.startDrain u
  | .running => s.startDrain u
  | _ => s.latch latchFlagged

/-- The unit of a failure becomes suspect (R334). -/
def State.suspect (f : FailReport) (c : FaultCtx) (s : State) : State := s.suspectAs f c [f]

/-- A unit made suspect at once, with no commit unit (OUTCOME DIRECT), or by a coppice slice (Table 13.3, OP_KIND 3). -/
def State.suspectAtOnce (f : FailReport) (s : State) : State :=
  s.suspect f { FaultCtx.none outDirect with opKind := if f.detector = 0x0B then 3 else 2 }

/-- One coppice slice of a visited unit (R344, R346, R347): pattern data that fails its check leaves the slice undone; a wrong
signature or an unrecoverable restore makes the unit suspect at once. -/
def State.runSlice (k : Nat) (digestOk : Bool) (signature : Option DWord) (restoreFail : Bool) (s : State) : State :=
  let done := vget s.evr.sliceDone k 0
  let num := sliceNumber k done
  if !digestOk then
    let s := s.note 0x5005 sevError (visitUnit k) num 0 0
    (s.onEvr fun r => { r with passed := r.passed ||| 2 ^ k }).afterSlice k
  else
    let s := (s.onEvr fun r => { r with sliceDone := vset r.sliceDone k (done + 1), lastSlice := s.now }).afterSlice k
    let ctx : FaultCtx := { FaultCtx.none outDirect with opKind := 3 }
    match signature with
    | some sg => s.suspect { detector := 0x0B, unit := visitId k, subunit := 0xFF, cls := 0xFF, address := num, detail := BitVec.ofNat 32 sg.toNat } ctx
    | none =>
      if restoreFail then
        s.suspect { detector := 0x03, unit := visitId k, subunit := 0xFF, cls := 0xFF, address := s.freeWord.toNat, detail := BitVec.ofNat 32 s.bumpFree.freeWord.toNat } ctx |>.bumpFree |>.bumpFree
      else s

/-- FLAG_RECORD_WRITTEN (R340, R343): the write ends in the older copy. The write that clears the flag lets FLAG_CLEAR
reply, and the state becomes READY. -/
def doFlagRecordWritten (s : State) : State :=
  match s.mss.flagWrite with
  | none => s
  | some r =>
    if !s.pins.rstN then s else
    let a := (s.flash.flagA.map fun x => x.seq).getD 0
    let b := (s.flash.flagB.map fun x => x.seq).getD 0
    let s := s.onFlash fun f => if a ≤ b then { f with flagA := some r } else { f with flagB := some r }
    let pend := s.mss.flagClear
    let s := s.onMss fun m => { m with flagWrite := none, flagClear := none }
    match pend with
    | some pk =>
      let s := s.onSaf fun x => { x with flagged := false }
      (s.enter .ready).done pk 0
    | none => s
/-- FLAG_RECORD_WRITTEN (R340). -/
def execFlagRecordWritten (s : State) : Out := .next (doFlagRecordWritten s)

end Sys2Proof.Machine
end

