-- ==== Sys2Proof/Machine/Num.lean ====
section
/-! DEFINITION. Number formats (chapter 5): exact values, rounding (R111, R112), the encodings of Table 5.1, overflow
(Table 5.3), FP32 arithmetic with flushed subnormals (R99, R100) and the X19 operand (R101). -/

namespace Sys2Proof.Machine

/-! ### Exact values -/

/-- A value: NaN, an infinity, or (-1)^neg x m x 2^e. `m = 0` is a signed zero. -/
inductive Fp where
  | nan
  | inf (neg : Bool)
  | fin (neg : Bool) (m : Nat) (e : Int)
  deriving DecidableEq, Repr

/-- The zero of a sign. -/
def Fp.zero (neg : Bool) : Fp := .fin neg 0 0
/-- An integer. -/
def Fp.ofInt (i : Int) : Fp := .fin (decide (i < 0)) i.natAbs 0
/-- A natural number. -/
def Fp.ofNat (n : Nat) : Fp := .fin false n 0
/-- 2^e. -/
def Fp.pow2 (e : Int) : Fp := .fin false 1 e
/-- The sign. -/
def Fp.neg? : Fp → Bool
  | .nan => false | .inf n => n | .fin n _ _ => n
/-- NaN. -/
def Fp.isNan : Fp → Bool
  | .nan => true | _ => false
/-- Neither NaN nor infinite. -/
def Fp.isFin : Fp → Bool
  | .fin .. => true | _ => false
/-- A zero of either sign. -/
def Fp.isZero : Fp → Bool
  | .fin _ m _ => m = 0 | _ => false
/-- The value negated. -/
def Fp.negate : Fp → Fp
  | .nan => .nan | .inf n => .inf !n | .fin n m e => .fin (!n) m e
/-- The magnitude. -/
def Fp.abs : Fp → Fp
  | .nan => .nan | .inf _ => .inf false | .fin _ m e => .fin false m e
/-- The signed significand at exponent `q`, for `q` at or below the value's exponent. -/
def Fp.at (neg : Bool) (m : Nat) (e q : Int) : Int := (if neg then -1 else 1) * ((m * 2 ^ (e - q).toNat : Nat) : Int)

/-- Exact sum; x + (-x) is +0 and (-0) + (-0) is -0. -/
def Fp.add : Fp → Fp → Fp
  | .nan, _ => .nan
  | _, .nan => .nan
  | .inf a, .inf b => if a = b then .inf a else .nan
  | .inf a, _ => .inf a
  | _, .inf b => .inf b
  | .fin a m e, .fin b n f =>
    if m = 0 then (if n = 0 then Fp.zero (a && b) else .fin b n f)
    else if n = 0 then .fin a m e
    else
      let q := min e f
      let v := Fp.at a m e q + Fp.at b n f q
      if v = 0 then Fp.zero false else .fin (decide (v < 0)) v.natAbs q

/-- Exact difference. -/
def Fp.sub (x y : Fp) : Fp := x.add y.negate

/-- Exact product; zero times infinity is NaN (R100). -/
def Fp.mul : Fp → Fp → Fp
  | .nan, _ => .nan
  | _, .nan => .nan
  | .inf a, .inf b => .inf (a != b)
  | .inf a, .fin b n _ => if n = 0 then .nan else .inf (a != b)
  | .fin a m _, .inf b => if m = 0 then .nan else .inf (a != b)
  | .fin a m e, .fin b n f => .fin (a != b) (m * n) (e + f)

/-- The quotient to 66 or more bits with a sticky last bit, which rounds to any format as the exact one does. -/
def Fp.div : Fp → Fp → Fp
  | .nan, _ => .nan
  | _, .nan => .nan
  | .inf _, .inf _ => .nan
  | .inf a, .fin b _ _ => .inf (a != b)
  | .fin a _ _, .inf b => Fp.zero (a != b)
  | .fin a m e, .fin b n f =>
    if n = 0 then (if m = 0 then .nan else .inf (a != b))
    else if m = 0 then Fp.zero (a != b)
    else
      let k := 66 + n.log2
      let num := m * 2 ^ k
      let q := num / n
      .fin (a != b) (2 * q + if num % n = 0 then 0 else 1) (e - f - k - 1)

/-- The square root to 60 or more bits with a sticky last bit. -/
def Fp.sqrt : Fp → Fp
  | .nan => .nan
  | .inf n => if n then .nan else .inf false
  | .fin n m e =>
    if m = 0 then Fp.zero n
    else if n then .nan
    else
      let k : Nat := if e % 2 = 0 then 128 else 129
      let v := m * 2 ^ k
      let r := v.sqrt
      .fin false (2 * r + if r * r = v then 0 else 1) ((e - k) / 2 - 1)

/-- Order of two values that are not NaN. -/
def Fp.lt : Fp → Fp → Bool
  | .nan, _ => false
  | _, .nan => false
  | .inf a, .inf b => a && !b
  | .inf a, .fin .. => a
  | .fin .., .inf b => !b
  | .fin a m e, .fin b n f => decide (Fp.at a m e (min e f) < Fp.at b n f (min e f))
/-- Equal values; NaN equals nothing, the two zeros are equal. -/
def Fp.eq (x y : Fp) : Bool := !x.isNan && !y.isNan && !x.lt y && !y.lt x
/-- At most. -/
def Fp.le (x y : Fp) : Bool := x.lt y || x.eq y

/-- The integer at or below a finite value. -/
def Fp.floor : Fp → Int
  | .fin a m e => if 0 ≤ e then Fp.at a m e 0 else (Fp.at a m e e) / ((2 ^ (-e).toNat : Nat) : Int)
  | _ => 0

/-- ⌊log₂⌋ of a non-zero magnitude. -/
def Fp.log2 : Fp → Int
  | .fin _ m e => (m.log2 : Int) + e
  | _ => 0

/-! ### Rounding -/

/-- Rounding modes (R111); a stochastic mode carries its random word. -/
inductive Rnd where
  | rne | rtz | stoch (r : Nat)
  deriving DecidableEq, Repr

/-- The random word of R112 for a unit identity, a seed and an element index. -/
def stochWord (u seed e : Nat) : Nat := mix64 (mix64 ((u <<< 16) ||| seed) ^^^ e) / 2 ^ 32

/-- m x 2^e in units of 2^q, rounded. -/
def roundMag (md : Rnd) (m : Nat) (e q : Int) : Nat :=
  if q ≤ e then m * 2 ^ (e - q).toNat
  else
    let sh := (q - e).toNat
    let lo := m / 2 ^ sh
    let rem := m % 2 ^ sh
    match md with
    | .rne => if 2 ^ sh < 2 * rem ∨ (2 * rem = 2 ^ sh ∧ lo % 2 = 1) then lo + 1 else lo
    | .rtz => lo
    | .stoch r => if 2 ^ 32 ≤ rem * 2 ^ 32 / 2 ^ sh + r then lo + 1 else lo

/-- A finite value rounded to an integer. -/
def Fp.toInt (md : Rnd) : Fp → Int
  | .fin a m e => (if a then -1 else 1) * ((roundMag md m e 0 : Nat) : Int)
  | _ => 0

/-! ### Formats -/

/-- Bits of a format code (Table 5.1). -/
def fmtBits (c : Nat) : Nat := [32, 16, 16, 8, 8, 6, 6, 4, 16, 8, 8, 4, 4, 32, 8].getD c 0
/-- Exponent bits of a float format. -/
def fmtExp (c : Nat) : Nat := [8, 5, 8, 4, 5, 3, 2, 2].getD c 0
/-- Mantissa bits of a float format. -/
def fmtMan (c : Nat) : Nat := [23, 10, 7, 3, 2, 2, 3, 1].getD c 0
/-- Exponent bias of a float format. -/
def fmtBias (c : Nat) : Int := ([127, 15, 127, 7, 15, 3, 1, 1].getD c 0 : Nat)
/-- A float format. -/
def fmtIsFloat (c : Nat) : Bool := decide (c ≤ 7)
/-- An integer format. -/
def fmtIsInt (c : Nat) : Bool := decide (8 ≤ c ∧ c ≤ 13)
/-- A signed integer format. -/
def fmtSigned (c : Nat) : Bool := c = 8 || c = 9 || c = 11 || c = 13
/-- Formats that flush subnormals (R99). -/
def fmtFlush (c : Nat) : Bool := c = 0 || c = 2
/-- Least and largest code value of an integer format. -/
def fmtRange (c : Nat) : Int × Int :=
  let b := fmtBits c
  if fmtSigned c then (-(2 ^ (b - 1) : Int), 2 ^ (b - 1) - 1) else (0, 2 ^ b - 1)
/-- The largest finite value of a format (Table 5.1). -/
def fmtMax (c : Nat) : Fp :=
  match c with
  | 0 => .fin false (2 ^ 24 - 1) 104
  | 1 => .fin false 65504 0
  | 2 => .fin false 255 120
  | 3 => .fin false 448 0
  | 4 => .fin false 57344 0
  | 5 => .fin false 28 0
  | 6 => .fin false 15 (-1)
  | 7 => .fin false 6 0
  | 14 => .fin false 1 127
  | _ => Fp.ofInt (fmtRange c).2

/-- The value of a code (Table 5.1, R99). -/
def fmtValue (c code : Nat) : Fp :=
  if fmtIsFloat c then
    let man := fmtMan c
    let eb := fmtExp c
    let fr := code % 2 ^ man
    let ef := code / 2 ^ man % 2 ^ eb
    let neg := (code / 2 ^ (man + eb)) % 2 = 1
    if ef = 2 ^ eb - 1 ∧ (c ≤ 2 ∨ c = 4) then (if fr = 0 then .inf neg else .nan)
    else if c = 3 ∧ ef = 15 ∧ fr = 7 then .nan
    else if ef = 0 then (if fmtFlush c then Fp.zero neg else .fin neg fr (1 - fmtBias c - man))
    else .fin neg (2 ^ man + fr) (ef - fmtBias c - man)
  else if c = 14 then (if code % 256 = 255 then .nan else .fin false 1 ((code % 256 : Nat) - 127))
  else Fp.ofInt (if fmtSigned c then sext (fmtBits c) code else ((code % 2 ^ fmtBits c : Nat) : Int))

/-- The canonical NaN's code; +0 where the format has none (Table 5.3). -/
def fmtNan (c : Nat) : Nat := [0x7FC00000, 0x7E00, 0x7FC0, 0x7F, 0x7E].getD c 0
/-- The code of an infinity of a format that has one. -/
def fmtInf (c : Nat) (neg : Bool) : Nat :=
  let b := (2 ^ fmtExp c - 1) * 2 ^ fmtMan c
  if neg then b + 2 ^ (fmtBits c - 1) else b
/-- The code of a representable finite value. -/
def fmtFin (c : Nat) (neg : Bool) (m : Nat) (e : Int) : Nat :=
  let man := fmtMan c
  let s := if neg then 2 ^ (fmtBits c - 1) else 0
  if m = 0 then s
  else
    let lg := (m.log2 : Int) + e
    if lg < 1 - fmtBias c then s + m * 2 ^ (e - (1 - fmtBias c - man)).toNat / 2 ^ ((1 - fmtBias c - man) - e).toNat
    else
      let frac := m * 2 ^ (e - (lg - man)).toNat / 2 ^ ((lg - man) - e).toNat
      s + (lg + fmtBias c).toNat * 2 ^ man + (frac - 2 ^ man)
/-- The code that an overflow takes (Table 5.3). -/
def fmtOver (c : Nat) (neg nonsat : Bool) : Nat :=
  if c ≤ 2 then fmtInf c neg
  else if (c = 3 ∨ c = 4) ∧ nonsat then fmtNan c
  else match fmtMax c with | .fin _ m e => fmtFin c neg m e | _ => 0

/-- Round a finite value to a float format's precision as if the exponent were unbounded (R111), at the subnormal step
where the format keeps subnormals; flushed below 2^-126 for FP32 and BF16 (R99). -/
def roundFin (c : Nat) (md : Rnd) (neg : Bool) (m : Nat) (e : Int) : Fp :=
  if m = 0 then Fp.zero neg
  else
    let lg := (m.log2 : Int) + e
    let q := if fmtFlush c then lg - fmtMan c else max (lg - fmtMan c) (1 - fmtBias c - fmtMan c)
    let n := roundMag md m e q
    if n = 0 then Fp.zero neg
    else if fmtFlush c && decide ((n.log2 : Int) + q < -126) then Fp.zero neg
    else .fin neg n q

/-- Conversion to a code of a format under ROUND, NONSAT and, for an integer format, a zero point (R111-R113). -/
def fmtCode (c : Nat) (md : Rnd) (nonsat : Bool) (zp : Int) (x : Fp) : Nat :=
  if fmtIsFloat c then
    match x with
    | .nan => fmtNan c
    | .inf n =>
      if c ≤ 2 then fmtInf c n
      else if c = 4 ∧ nonsat then fmtInf c n
      else if c = 3 ∧ nonsat then fmtNan c
      else fmtOver c n false
    | .fin n m e =>
      match roundFin c md n m e with
      | .fin n m e => if (fmtMax c).lt (.fin false m e) then fmtOver c n nonsat else fmtFin c n m e
      | _ => 0
  else if c = 14 then
    match x with
    | .nan => 0xFF
    | .inf _ => 0xFF
    | .fin _ m e => if m = 0 then 0 else (max 0 (min 254 ((m.log2 : Int) + e + 127))).toNat
  else
    let (lo, hi) := fmtRange c
    let v := match x with
      | .nan => 0
      | .inf n => if n then lo else hi
      | .fin .. => max lo (min hi (x.toInt (match md with | .rtz => .rtz | _ => .rne) + zp))
    codeOf (fmtBits c) v

/-! ### FP32 -/

/-- One FP32 rounding, RNE (R111, R113). -/
def Fp.r32 (x : Fp) : Fp :=
  match x with
  | .fin n m e =>
    match roundFin 0 .rne n m e with
    | .fin n m e => if (fmtMax 0).lt (.fin false m e) then .inf n else .fin n m e
    | y => y
  | y => y

/-- The FP32 value of a word. -/
def f32 (w : Nat) : Fp := fmtValue 0 w
/-- The FP32 code of a value. -/
def Fp.code32 (x : Fp) : Nat := fmtCode 0 .rne false 0 x
/-- FP32 addition. -/
def fadd (x y : Fp) : Fp := (x.add y).r32
/-- FP32 subtraction. -/
def fsub (x y : Fp) : Fp := (x.sub y).r32
/-- FP32 multiplication. -/
def fmul (x y : Fp) : Fp := (x.mul y).r32
/-- FP32 division. -/
def fdiv (x y : Fp) : Fp := (x.div y).r32
/-- FP32 fused multiply-add. -/
def ffma (x y z : Fp) : Fp := ((x.mul y).add z).r32
/-- The larger; NaN if either is NaN. -/
def fmax (x y : Fp) : Fp := if x.isNan || y.isNan then .nan else if x.lt y then y else x
/-- The smaller; NaN if either is NaN. -/
def fmin (x y : Fp) : Fp := if x.isNan || y.isNan then .nan else if y.lt x then y else x
/-- A constant written m x 10^-k, rounded to FP32. -/
def fdec (m k : Nat) : Fp := fdiv (Fp.ofNat m) (Fp.ofNat (10 ^ k))

/-! ### X19 -/

/-- A block scale of an operand (R103). -/
inductive BlkScale where
  | none | e8m0 (code : Nat) | val (v : Fp)
  deriving DecidableEq, Repr

/-- The largest X19 value (R101). -/
def x19Max : Fp := .fin false 2047 117

/-- Expansion to an X19 operand (R101). -/
def x19 (fmt code : Nat) (zp : Int) (blk : BlkScale) : Fp :=
  let v := if fmtIsInt fmt then (fmtValue fmt code).add (Fp.ofInt (-zp)) else fmtValue fmt code
  let v := match blk with
    | .none => v
    | .e8m0 c => if c = 255 then .nan else v.mul (Fp.pow2 ((c : Int) - 127))
    | .val s => match v.mul s with
      | .fin n m e => if m = 0 then Fp.zero n else .fin n (roundMag .rne m e ((m.log2 : Int) + e - 10)) ((m.log2 : Int) + e - 10)
      | y => y
  match v with
  | .fin n m e => if m = 0 then Fp.zero n else if (m.log2 : Int) + e < -126 then Fp.zero n else if x19Max.lt (.fin false m e) then .inf n else .fin n m e
  | y => y

/-- An FP32 sum in a cell: flushed when the exact magnitude is below 2^-126 (R108). -/
def cellRound (x : Fp) : Fp :=
  match x with
  | .fin n m e => if m = 0 then .fin n m e else if (m.log2 : Int) + e < -126 then Fp.zero n else (Fp.fin n m e).r32
  | y => y

/-- One cell's accumulation (R108): the product is rounded to infinity when it overflows FP32. -/
def cellMac (sum a w : Fp) : Fp :=
  let p := a.mul w
  let p := match p with | .fin n m e => if (fmtMax 0).lt (.fin false m e) && decide (128 ≤ (m.log2 : Int) + e) then .inf n else p | _ => p
  cellRound (sum.add p)

/-! ### Packed elements -/

/-- Bytes of `n` elements of a format, packed (R98). -/
def fmtBytes (c n : Nat) : Nat := (n * fmtBits c + 7) / 8

/-- Element `i`'s code, from the little-endian number of the bytes that hold the tensor's elements. -/
def packedAt (c v i : Nat) : Nat := v / 2 ^ (i * fmtBits c) % 2 ^ fmtBits c

/-- The codes of `n` packed elements from their bytes (R98). -/
def unpackCodes (c n : Nat) (b : List Byte) : List Nat :=
  if fmtBits c = 6 then
    (List.range n).map fun i => leNat ((b.drop (3 * (i / 4))).take 3) / 2 ^ (6 * (i % 4)) % 64
  else if fmtBits c = 4 then (List.range n).map fun i => (b.getD (i / 2) 0).toNat / 2 ^ (4 * (i % 2)) % 16
  else (List.range n).map fun i => leNat ((b.drop (i * (fmtBits c / 8))).take (fmtBits c / 8))

/-- The bytes of packed codes (R98): those that hold an element, the last one's spare bits zero (DESIGN CHOICE, log 151). -/
def packCodes (c : Nat) (l : List Nat) : List Byte :=
  if fmtBits c = 6 then
    ((List.range ((l.length + 3) / 4)).flatMap fun g =>
      leBytes 3 (((List.range 4).map fun i => l.getD (4 * g + i) 0 * 2 ^ (6 * i)).sum)).take (fmtBytes c l.length)
  else if fmtBits c = 4 then
    (List.range ((l.length + 1) / 2)).map fun g => BitVec.ofNat 8 (l.getD (2 * g) 0 + 16 * l.getD (2 * g + 1) 0)
  else l.flatMap fun v => leBytes (fmtBits c / 8) v

end Sys2Proof.Machine
end

