-- ==== Sys2Proof/Machine/Timebase.lean ====
section
/-! DEFINITION. TMB, vehicle time, the time servo, gPTP and PPS (chapter 14). -/

namespace Sys2Proof.Machine

/-! ### Parameter sets -/

/-- A new parameter set at this count (R353): vehicle time is continuous except for the step. -/
def Tim.newSet (m : Tim) (step : Int) (rate : Int) : Tim :=
  { m with base := m.count.toNat, offset := vehicleTime m m.count.toNat + step, rate := rate, seq := (m.seq + 2) % 2 ^ 32 }

/-- Servo states in the order of Table 14.2. -/
def Servo.code : Servo → Nat
  | .freeRun => 0 | .locking => 1 | .locked => 2 | .holdover => 3 | .stepPending => 4

/-- The servo changes state: a time event and the TIME cause (R355). -/
def State.enterServo (v : Servo) (s : State) : State :=
  if s.tim.servo = v then s
  else
    let s := s.onTim fun m => { m with servo := v, holdAt := if v = .holdover then m.count.toNat else m.holdAt,
                                       holdNoted := if v = .holdover then 0 else m.holdNoted }
    (s.raise causeTime).note 0x4001 sevNotice noUnit v.code 0 0

/-- The limit of ± n. -/
def clampInt (n v : Int) : Int := max (-n) (min n v)

/-- A step is added to OFFSET, recorded, and the servo locks again (R361, R356). -/
def State.applyStep (e : Int) (s : State) : State :=
  let s := s.onTim fun m => { m.newSet e m.rate with pending := 0, run := none, good := 0 }
  (s.noteInt 0x4003 sevWarning e).enterServo .locking

/-- Three consistent measurements of one master that is not the followed master apply the third (R361). -/
def State.runOfMaster (e : Int) (master : Option DWord) (s : State) : State :=
  match master with
  | none => s.onTim fun m => { m with run := none }
  | some x =>
    if s.tim.followed = some x then s.onTim fun m => { m with run := none }
    else
      let n := match s.tim.run with
        | some (y, first, k) => if y = x ∧ (e - first).natAbs ≤ 8000 then some (first, k + 1) else none
        | none => none
      match n with
      | some (first, k) =>
        if 3 ≤ k then (s.applyStep e).onTim fun m => { m with followed := some x }
        else s.onTim fun m => { m with run := some (x, first, k) }
      | none => s.onTim fun m => { m with run := some (x, e, 1) }

/-- A refused measurement (R360). -/
def State.refuseStep (e : Int) (master : Option DWord) (s : State) : State :=
  let s := s.onTim fun m => { m with pending := e, run := none }
  ((s.noteInt 0x4002 sevWarning e).enterServo .stepPending).runOfMaster e master

/-- An accepted measurement: slew, and the lock count of Table 14.2 (R356). -/
def State.slew (e : Int) (freq : Int) (master : Option DWord) (s : State) : State :=
  let rate := clampInt 2000000 (freq + clampInt 1600000 (32 * e))
  let near := decide (e.natAbs ≤ 4000)
  let s := s.onTim fun m => { m.newSet 0 rate with followed := master, freq := freq }
  let s := if s.tim.servo = .holdover ∨ s.tim.servo = .freeRun then (s.onTim fun m => { m with good := 0 }).enterServo .locking else s
  let s := s.onTim fun m => { m with good := if near then m.good + 1 else 0 }
  let s := if s.tim.servo = .locked ∧ !near then s.enterServo .locking else s
  if s.tim.servo = .locking ∧ 8 ≤ s.tim.good then s.enterServo .locked else s

/-- One measured offset error of the time source (R355, R356, R360). -/
def State.measure (e : Int) (freq : Int) (master : Option DWord) (s : State) : State :=
  let s := s.onTim fun m =>
    { m with jumpNs := m.jumpNext.getD m.jumpNs, jumpNext := none, error := clampInt 2147483647 e, lastMeas := m.count.toNat }
  if !s.tim.firstDone ∧ !s.tim.launchSeen then
    (s.onTim fun m => { m with firstDone := true, followed := master }).applyStep e
  else if s.tim.servo = .stepPending then (s.onTim fun m => { m with firstDone := true, pending := e }).runOfMaster e master
  else
    let s := s.onTim fun m => { m with firstDone := true }
    if s.tim.jumpNs < e.natAbs then s.refuseStep e master else s.slew e freq master

/-- The servo runs from the end of the start on; PARKED cuts only the management port off (Table 14.2, R375). -/
def State.servoOn (s : State) : Bool := s.pins.rstN && s.pwr.state ≠ .boot && s.pwr.state ≠ .offReady

/-- The management port can receive: gPTP is enabled and PD46 is on. -/
def State.gptpOn (s : State) : Bool := s.servoOn && s.tim.gptp && s.pwr.domains.getLsbD 46

/-- SYNC (R356, R357): the grandmaster's time at the instant `t` of the measurement, and the MSS's frequency estimate in
units of 0.25 ppb. -/
def doSync (sourceNs : Int) (freq : Int) (t : Nat) (s : State) : State :=
  if !s.gptpOn then s else
  let s := s.advance t
  s.measure (sourceNs - s.vnow) freq (if s.tim.master = 0 then none else some s.tim.master)
/-- SYNC (R356). -/
def execSync (sourceNs : Int) (freq : Int) (t : Nat) (s : State) : Out := .next (doSync sourceNs freq t s)

/-- ANNOUNCE sets the master in force (Table 14.3). -/
def doAnnounce (master : DWord) (s : State) : State := if s.gptpOn then s.onTim fun m => { m with master := master } else s
/-- ANNOUNCE (R357). -/
def execAnnounce (master : DWord) (s : State) : Out := .next (doAnnounce master s)

/-- A received Pdelay_Req is answered (Table 14.3). -/
def doPdelayReq (t : Nat) (s : State) : State :=
  if s.gptpOn then
    let s := s.advance t
    s.onTim fun m => { m with sent := m.sent ++ [.pdelayResp m.count.toNat, .pdelayRespFollowUp m.count.toNat] }
  else s
/-- PDELAY_REQ (R357). -/
def execPdelayReq (t : Nat) (s : State) : Out := .next (doPdelayReq t s)

/-- Every 1 s a Pdelay_Req goes out (Table 14.3). -/
def doPdelayReqInitiate (s : State) : State :=
  if s.gptpOn then
    let s := s.advance (s.tim.pdelayAt + 1000000000)
    s.onTim fun m => { m with sent := m.sent ++ [.pdelayReq m.count.toNat], pdelayOpen := true, pdelayAt := m.count.toNat }
  else s
/-- PDELAY_REQ_INITIATE (R357). -/
def execPdelayReqInitiate (s : State) : Out := .next (doPdelayReqInitiate s)

/-- The answer updates the peer delay and the neighbour rate ratio (Table 14.3). -/
def doPdelayResp (delayNs : Nat) (ratioPpb : Int) (t : Nat) (s : State) : State :=
  if s.gptpOn && s.tim.pdelayOpen then
    (s.advance t).onTim fun m => { m with peerDelay := delayNs, ratio := ratioPpb, asCapable := true, pdelayOpen := false }
  else s
/-- PDELAY_RESP (R357). -/
def execPdelayResp (delayNs : Nat) (ratioPpb : Int) (t : Nat) (s : State) : Out := .next (doPdelayResp delayNs ratioPpb t s)

/-- The holdover timeout of the source in use (Table 14.2). -/
def Tim.timeout (m : Tim) : Nat := if m.gptp then 375000000 else 2000000000

/-- HOLDOVER_TIMEOUT: without a measurement the servo holds over on its frequency estimate (R355, R359). -/
def doHoldoverTimeout (s : State) : State :=
  if s.servoOn && (s.tim.gptp || s.tim.ppsInEn) && (s.tim.servo = .locking || s.tim.servo = .locked) then
    let s := s.advance (s.tim.lastMeas + s.tim.timeout)
    (s.onTim fun m => m.newSet 0 (clampInt 2000000 m.freq)).enterServo .holdover
  else s
/-- HOLDOVER_TIMEOUT (R355). -/
def execHoldoverTimeout (s : State) : Out := .next (doHoldoverTimeout s)

/-- HOLDOVER: at 10 s, and every 60 s after, a time event (R359). -/
def doHoldover (s : State) : State :=
  if s.servoOn && s.tim.servo = .holdover then
    let secs := 10 + 60 * s.tim.holdNoted
    let s := s.advance (s.tim.holdAt + secs * 1000000000)
    (s.onTim fun m => { m with holdNoted := m.holdNoted + 1 }).note 0x4004 sevWarning noUnit secs 0 0
  else s
/-- HOLDOVER (R359). -/
def execHoldover (s : State) : Out := .next (doHoldover s)

/-- The nearest whole second of a vehicle time. -/
def nearestSecond (v : Int) : Int := (v + 500000000) / 1000000000 * 1000000000

/-- PPS_IN (R363): an edge is latched and measured; with gPTP off it is the time source. -/
def doPpsIn (freq : Int) (t : Nat) (s : State) : State :=
  if !(s.servoOn && s.tim.ppsInEn) then s else
  let s := s.advance t
  if s.tim.ppsSeen && decide (s.now < s.tim.ppsCount + 500000000) then s.onTim fun m => { m with ppsIgnored := m.ppsIgnored + 1 }
  else
    let e := nearestSecond s.vnow - s.vnow
    let s := s.onTim fun m => { m with ppsCount := m.count.toNat, ppsPhase := e, ppsSeen := true }
    if s.tim.gptp then s else s.measure e freq none
/-- PPS_IN (R363). -/
def execPpsIn (freq : Int) (t : Nat) (s : State) : Out := .next (doPpsIn freq t s)

/-- The second of the next PPS_OUT edge: after the last one driven, and not before the present vehicle time (R362). -/
def State.nextPps (s : State) : Int :=
  let k := icdiv s.vnow 1000000000
  match s.tim.ppsOutLast with | some l => max (l + 1) k | none => k

/-- PPS_OUT_PLACEMENT: 1 ms before the second in vehicle time, the edge is placed on TMB (R362). -/
def doPpsOutPlacement (s : State) : State :=
  if s.servoOn && s.tim.ppsOutEn && s.tim.ppsPlaced.isNone then
    let k := s.nextPps
    let s := s.advance (countAt s.tim (k * 1000000000 - 1000000))
    let skip := match s.tim.ppsOutLast with | some l => (k - l - 1).toNat | none => 0
    s.onTim fun m => { m with ppsPlaced := some (k, countAt m (k * 1000000000)), ppsSkipped := m.ppsSkipped + skip }
  else s
/-- PPS_OUT_PLACEMENT (R362). -/
def execPpsOutPlacement (s : State) : Out := .next (doPpsOutPlacement s)

/-- PPS_OUT: the placed edge is driven, high for 10 ms (R364). -/
def doPpsOut (s : State) : State :=
  if !(s.servoOn && s.tim.ppsOutEn) then s else
  match s.tim.ppsPlaced with
  | none => s
  | some (k, n) =>
    let s := s.advance n
    let s := s.onTim fun m => { m with ppsOutLast := some k, ppsPlaced := none, ppsFall := m.count.toNat + 10000000 }
    s.onPins fun p => { p with ppsOut := true }
/-- PPS_OUT (R364). -/
def execPpsOut (s : State) : Out := .next (doPpsOut s)

/-! ### Commands -/

/-- The enables of TIME_CONFIG: changing the source restarts the servo on it (R356, R361, Table 14.2). -/
def State.setTimeSource (gptp pps : Bool) (s : State) : State :=
  let old := if s.tim.gptp then 1 else if s.tim.ppsInEn then 2 else 0
  let new := if gptp then 1 else if pps then 2 else 0
  let s := s.onTim fun m =>
    { m with gptp := gptp, ppsInEn := pps, master := if gptp then m.master else 0,
             pdelayAt := if gptp ∧ !m.gptp then m.count.toNat else m.pdelayAt, pdelayOpen := gptp && m.pdelayOpen,
             asCapable := gptp && m.asCapable }
  if old = new then s
  else
    let s := s.onTim fun m => { m with followed := none, run := none, lastMeas := m.count.toNat, firstDone := false, good := 0 }
    if new = 0 then (s.onTim fun m => { m with pending := 0 }).enterServo .freeRun
    else if s.tim.servo = .freeRun then s.enterServo .locking else s

/-- TIME_CONFIG (R357, R360, R363, R364). -/
def doTimeConfig (ring : Nat) (s : State) : State :=
  s.runPacket ring 0x52 fun pk s =>
    let jump := pk.u 0x10 4
    let dom := pk.u 0x14 1
    let flags := pk.u 0x15 1
    if jump ≠ 0 ∧ (jump < 1000 ∨ 10000000 < jump) then s.bad pk 0x10
    else if 127 < dom then s.bad pk 0x14
    else if 7 < flags then s.bad pk 0x15
    else
      let s := s.onTim fun m => { m with jumpNext := some (if jump = 0 then 50000 else jump), domain := dom }
      let s := s.setTimeSource (flags.testBit 0) (flags.testBit 1)
      let on := flags.testBit 2
      let s := s.onTim fun m => { m with ppsOutEn := on, ppsPlaced := if on then m.ppsPlaced else none }
      let s := if on then s else s.onPins fun p => { p with ppsOut := false }
      s.done pk 0
/-- TIME_CONFIG (R357). -/
def execTimeConfig (ring : Nat) (s : State) : Out := .next (doTimeConfig ring s)

/-- TIME_ACCEPT_STEP applies the pending step (R361). -/
def doTimeAcceptStep (ring : Nat) (s : State) : State :=
  s.runPacket ring 0x53 fun pk s =>
    if s.tim.servo = .stepPending then
      let e := s.tim.pending
      (s.applyStep e).done pk (codeOf 64 e)
    else s.bad pk 0
/-- TIME_ACCEPT_STEP (R361). -/
def execTimeAcceptStep (ring : Nat) (s : State) : Out := .next (doTimeAcceptStep ring s)

/-- TAKE (R354): one count and its vehicle time under one set. -/
def doTake (s : State) : State :=
  if s.bar0Open then s.onTim fun m => { m with snapCount := m.count, snapVtime := vehicleTime m m.count.toNat, snapSeq := m.seq } else s
/-- TAKE (R354). -/
def execTake (s : State) : Out := .next (doTake s)

end Sys2Proof.Machine
end

