-- ==== Sys2Proof/Machine/SensorCfg.lean ====
section
/-! DEFINITION. SENSOR_CONFIG and FSYNC_SCHEDULE (R198, R199, R206, R213, R214, R219, R221, R224-R226): configuration blocks
and their checks, device rings, motion records, camera control and FSYNC outputs. -/

namespace Sys2Proof.Machine

/-! ### Power for sensors -/

/-- Switch domains on and wait until their memory is filled (R128, R225, R289, R373): a closing domain goes off first, and a
PWR_REQUEST under way for one of them ends. Their units have not settled (R28, R30). -/
def State.powerOn (mask : BitVec 64) (s : State) : State :=
  let ends := s.pwrWorks mask
  let s := s.gateOff (mask &&& s.pwr.closing)
  let new := mask &&& ~~~s.pwr.domains
  let ds := (List.range 50).filter fun d => new.getLsbD d
  let s := s.onPwr fun p => { p with domains := p.domains ||| new, rising := p.rising &&& ~~~new, closing := p.closing &&& ~~~new }
  let s := s.onFab fun f => ds.foldl Fab.clearDomain f
  if ends then s.pwrEnd stDone else s

/-- The CFE that serves a CSI port (R196). -/
def cfeOf (port : Nat) : Nat := port / 4
/-- Domains that a camera needs: its CFE and its PHY group (Table 15.1). -/
def cameraMask (port : Nat) : BitVec 64 := (1#64 <<< (38 + cfeOf port)) ||| (1#64 <<< (47 + cfeOf port))

/-! ### Configured sensors -/

/-- The camera configured at an index, counting a descriptor that waits for its next frame. -/
def Sen.cam (x : Sen) (i : Nat) : Option Camera := match vget x.camNext i none with | some c => some c | none => vget x.cameras i none
/-- The lidar configured at an index. -/
def Sen.lid (x : Sen) (i : Nat) : Option Lidar := match vget x.lidNext i none with | some c => some c | none => vget x.lidars i none
/-- Every configured camera with its index. -/
def Sen.cams (x : Sen) : List (Nat × Camera) := (List.range 24).filterMap fun i => (x.cam i).map fun c => (i, c)
/-- Every configured lidar with its index. -/
def Sen.lids (x : Sen) : List (Nat × Lidar) := (List.range 8).filterMap fun i => (x.lid i).map fun c => (i, c)

/-- Every device ring that holds memory (R199): the configured sensors' those of descriptors that wait for a next frame, and of lidars
with windows still to commit. -/
def Sen.deviceRings (x : Sen) : List DevRing :=
  (x.cameras.toList ++ x.camNext.toList).filterMap (fun c => c.map fun c => c.ring) ++
  (x.lidars.toList ++ x.lidNext.toList ++ x.lidOld.toList).filterMap fun l => l.map fun l => l.ring
/-- The memory of a device ring: its slots and the absent slot (R199). -/
def DevRing.range (r : DevRing) : Nat × Nat := (r.base, r.slotSize * (r.slots.length + 1))

/-- The armed or staged contract names a device ring. -/
def Ctr.names (c : Ctr) (ring : Nat) : Bool := c.held.any fun k => k.rings.any fun r => r.kind = 2 && decide (r.deviceRing = ring)

/-- Bits per pixel of a RAW data type (Table 8.1). -/
def rawBits (dt : Nat) : Nat := [8, 10, 12, 14, 16, 20].getD (dt - 0x2A) 8
/-- Bytes of an element of a CFE output format. -/
def cfeElem (fmt : Nat) : Nat := if fmt = 0xA then 1 else 2
/-- Up to the next multiple of 64. -/
def up64 (n : Nat) : Nat := (n + 63) / 64 * 64
/-- Width and height of a pyramid level (Table 8.4, stage 7). -/
def levelDims (w h l : Nat) : Nat × Nat := (w / 2 ^ l, h / 2 ^ l)
/-- Payload bytes of one level (R205). -/
def levelBytes (w h layout fmt l : Nat) : Nat :=
  let (a, b) := levelDims w h l
  a * b * (if layout = 0 then 3 else 4) * cfeElem fmt
/-- Bytes that a camera's slot needs (R205). -/
def camSlotNeed (w h levels layout fmt : Nat) : Nat :=
  64 + ((maskBits 3 levels).map fun l => up64 (levelBytes w h layout fmt l)).sum

/-- The default stage parameters (R226). -/
def CamParams.default : CamParams :=
  { bl := List.replicate 4 0, wb := List.replicate 3 4096, ccm := [4096, 0, 0, 0, 4096, 0, 0, 0, 4096],
    ccOff := [0, 0, 0], lut := (List.range 4097).map fun i => 4096 * i, shading := List.replicate (4 * 33 * 33) 4096,
    tone := (List.range 1024).map fun i => i / 4 }

/-- A field of a configuration block. -/
def blk (b : List Byte) (off n : Nat) : Nat := recLe b off n
/-- A list of little-endian fields of a block. -/
def blkList (b : List Byte) (off n count : Nat) : List Nat := (List.range count).map fun i => blk b (off + n * i) n
/-- Bytes of a block that must be zero. -/
def blkZero (b : List Byte) (off n : Nat) : Bool := ((b.drop off).take n).all fun x => x = 0

/-- A CAM_PARAMS block (Table 8.8); none when a reserved byte is not zero or a colour offset is no S24. -/
def CamParams.parse (b : List Byte) : Option CamParams :=
  if blkZero b 0x16 2 && blkZero b 0x2A 2 && blkZero b 0x38 8 && blkZero b 0x4044 60 && blkZero b 0x6288 56 then
    if !(blkList b 0x2C 4 3).all fun v => decide (sext 32 v = sext 24 v) then none else
    some { bl := (blkList b 0 4 4).map fun v => v % 2 ^ 24, wb := blkList b 0x10 2 3,
           ccm := (blkList b 0x18 2 9).map fun v => sext 16 v, ccOff := (blkList b 0x2C 4 3).map fun v => sext 24 v,
           lut := (blkList b 0x40 4 4097).map fun v => v % 2 ^ 24, shading := blkList b 0x4080 2 (4 * 33 * 33),
           tone := blkList b 0x62C0 1 1024 }
  else none

/-- A device ring that has never committed (R199). -/
def DevRing.fresh (base size count : Nat) : DevRing :=
  { base := base, slotSize := size, slots := List.replicate count { commitNo := 0, bound := 0, writing := false }, seq := 0,
    drops := 0, last := none, tStart := 0, tEnd := 0, status := 0, absentBound := 0 }

/-- The CAMERA block (Table 8.7) as a descriptor with the given parameters. -/
def Camera.parse (b : List Byte) (p : CamParams) : Camera :=
  let stale := blk b 0x18 4
  let count := if blk b 0x1D 1 = 0 then 3 else blk b 0x1D 1
  { port := blk b 0 1, vc := blk b 1 1, dataType := blk b 2 1, lanes := blk b 3 1, laneMbps := blk b 4 2, i2c := blk b 6 1,
    cfa := blk b 7 1, x0 := blk b 8 2, y0 := blk b 0xA 2, w := blk b 0xC 2, h := blk b 0xE 2, lineTime := blk b 0x10 4,
    framePeriod := blk b 0x14 4, stale := if stale = 0 then 2 * blk b 0x14 4 else stale, repairLimit := blk b 0x1C 1,
    levels := blk b 0x1E 1, outFmt := blk b 0x1F 1, layout := blk b 0x20 1, fsync := blk b 0x21 1, emb := blk b 0x22 1,
    embLine := blk b 0x23 1, syncWindow := blk b 0x24 4, offset := blk b 0x34 2, length := blk b 0x36 2,
    crcOffset := blk b 0x38 2, fcOffset := blk b 0x3A 2, reference := (b.drop 0x40).take 64, params := p, nextParams := none,
    ring := DevRing.fresh (blk b 0x28 8) (blk b 0x30 4) count, frame := none, prevCounter := none }

/-- Every field of a CAMERA block lies in its range (Table 8.7, R205). -/
def Camera.ok (m : Mss) (b : List Byte) (c : Camera) : Bool :=
  decide (c.port ≤ 7) && decide (c.vc ≤ 15) && decide (0x2A ≤ c.dataType ∧ c.dataType ≤ 0x2F) && [1, 2, 4].contains c.lanes &&
  decide (80 ≤ c.laneMbps ∧ c.laneMbps ≤ 4500) && decide (c.i2c ≤ 3) && decide (c.cfa ≤ 8) &&
  decide (16 ≤ c.w ∧ c.w ≤ 8192) && decide (16 ≤ c.h ∧ c.h ≤ 8192) && (!c.levels.testBit 2 || decide (c.w % 4 = 0)) &&
  decide (500 ≤ c.lineTime ∧ c.lineTime ≤ 10000000) && decide (1000000 ≤ c.framePeriod ∧ c.framePeriod ≤ 1000000000) &&
  decide (c.h * c.lineTime ≤ c.framePeriod) && decide (c.repairLimit ≤ 64) &&
  decide (2 ≤ c.ring.slots.length ∧ c.ring.slots.length ≤ 8) && decide (c.levels ≤ 7) && [1, 2, 0xA].contains c.outFmt &&
  decide (c.layout ≤ 1) && decide (c.fsync ≤ 7 ∨ c.fsync = 0xFF) && decide (c.emb < 32) && decide (c.embLine ≤ 7) &&
  (decide (c.fsync = 0xFF) || decide (1000 ≤ c.syncWindow ∧ c.syncWindow ≤ 10000000)) &&
  decide (1 ≤ c.length ∧ c.length ≤ if c.emb.testBit 1 then 4096 else 64) && blkZero b 0x3C 4 &&
  decide (c.ring.base % 64 = 0) && decide (c.ring.slotSize % 64 = 0) &&
  m.inOne tagSafe c.ring.base (c.ring.slotSize * (c.ring.slots.length + 1)) &&
  decide (camSlotNeed c.w c.h c.levels c.layout c.outFmt ≤ c.ring.slotSize)

/-- The limits of R198 with a camera in place of what its index has. -/
def Sen.camFits (x : Sen) (i : Nat) (c : Camera) : Bool :=
  let all := c :: (x.cams.filter fun p => p.1 ≠ i).map fun p => p.2
  let port := all.filter fun k => k.port = c.port
  let cfe := all.filter fun k => cfeOf k.port = cfeOf c.port
  decide (port.length ≤ 16) && decide (cfe.length ≤ 12) && decide (all.length ≤ 24) &&
  decide ((port.map fun k => ((k.w * rawBits k.dataType + 96 : Nat) : ℚ) / k.lineTime).sum ≤ 9 * (c.lanes * c.laneMbps : Nat) / 10000) &&
  decide ((cfe.map fun k => ((k.w : Nat) : ℚ) / k.lineTime).sum ≤ 24 / 10) &&
  decide ((cfe.map fun k => ((k.ring.slotSize : Nat) : ℚ) / k.framePeriod).sum ≤ 6)

/-- Geometry, format, layout, slots and port are the same (R206). -/
def Camera.sameShape (a b : Camera) : Bool :=
  decide (a.port = b.port) && decide (a.dataType = b.dataType) &&
  decide (a.x0 = b.x0) && decide (a.y0 = b.y0) && decide (a.w = b.w) && decide (a.h = b.h) && decide (a.levels = b.levels) &&
  decide (a.outFmt = b.outFmt) && decide (a.layout = b.layout) && decide (a.ring.base = b.ring.base) &&
  decide (a.ring.slotSize = b.ring.slotSize) && decide (a.ring.slots.length = b.ring.slots.length)

/-! ### Operations -/

/-- Run the front SENSOR_CONFIG of a ring when `sel` takes its OP. -/
def State.runSensor (ring : Nat) (sel : Nat → Bool) (body : Packet → State → State) (s : State) : State :=
  match s.cpx.front ring with
  | some pk => if sel (pk.u 0x10 1) then s.runPacket ring 0x50 body else s
  | none => s

/-- The block of a SENSOR_CONFIG, when BLOCK names a HOST_SHARED source (R269). -/
def State.sensorBlock (s : State) (pk : Packet) : Option (List Byte) :=
  let a := pk.u 0x18 8
  let n := pk.u 0x14 4
  if s.mss.inOne tagShared a n then some (memBytes s.fab.dram a n) else none

/-- The absent slot of a device ring is zero-filled (R199). -/
def State.zeroAbsent (r : DevRing) (s : State) : State :=
  s.onFab fun f => { f with dram := memZero f.dram (r.base + r.slots.length * r.slotSize) (r.base + (r.slots.length + 1) * r.slotSize) }

/-- CAMERA puts a descriptor in place: at once at a free index, else at the camera's next frame start; a device ring of
the same shape runs on. -/
def State.putCamera (i : Nat) (c : Camera) (s : State) : State :=
  let s := s.powerOn (cameraMask c.port)
  match s.sen.cam i with
  | none => (s.onSen fun x => { x with cameras := vset x.cameras i (some c) }).zeroAbsent c.ring
  | some old =>
    if old.sameShape c then
      let c := { c with ring := old.ring, prevCounter := old.prevCounter }
      s.onSen fun x => { x with camNext := vset x.camNext i (some c) }
    else (s.onSen fun x => { x with camNext := vset x.camNext i (some c) }).zeroAbsent c.ring

/-- SENSOR_CONFIG CAMERA (R226); an OP above 5 is refused here. -/
def doCamera (ring : Nat) (s : State) : State :=
  s.runSensor ring (fun op => op = 0 || decide (5 < op)) fun pk s =>
    let i := pk.u 0x11 1
    let n := pk.u 0x14 4
    if 5 < pk.u 0x10 1 then s.bad pk 0x10
    else if 23 < i then s.bad pk 0x11
    else if n ≠ 128 ∧ n ≠ 26432 then s.bad pk 0x14
    else match s.sensorBlock pk with
      | none => s.bad pk 0x18
      | some b =>
        let old := s.sen.cam i
        let given := if n = 26432 then CamParams.parse (b.drop 128) else some ((old.map fun c => c.nextParams.getD c.params).getD CamParams.default)
        match given with
        | none => s.bad pk 0xFFFF
        | some p =>
          let c := Camera.parse b p
          if !c.ok s.mss b then s.bad pk 0xFFFF
          else if s.sen.cams.any fun k => k.1 ≠ i && decide (k.2.port = c.port) && decide (k.2.vc = c.vc) then s.bad pk 0xFFFF
          else if s.ctr.names (0x100 + i) && !(match old with | some o => o.sameShape c | none => true) then s.noRes pk 0
          else if !s.sen.camFits i c then s.noRes pk 0
          else (s.putCamera i c).done pk 0
/-- CAMERA (R226). -/
def execCamera (ring : Nat) (s : State) : Out := .next (doCamera ring s)

/-- SENSOR_CONFIG CAM_PARAMS (R206). -/
def doCamParams (ring : Nat) (s : State) : State :=
  s.runSensor ring (fun op => op = 1) fun pk s =>
    let i := pk.u 0x11 1
    if 23 < i ∨ (s.sen.cam i).isNone then s.bad pk 0x11
    else if pk.u 0x14 4 ≠ 26304 then s.bad pk 0x14
    else match s.sensorBlock pk with
      | none => s.bad pk 0x18
      | some b => match CamParams.parse b with
        | none => s.bad pk 0xFFFF
        | some p =>
          let set := fun (o : Option Camera) => o.map fun c => { c with nextParams := some p }
          (s.onSen fun x => { x with cameras := vset x.cameras i (set (vget x.cameras i none)),
                                     camNext := vset x.camNext i ((vget x.camNext i none).map fun c => { c with params := p }) }).done pk 0
/-- CAM_PARAMS (R206). -/
def execCamParams (ring : Nat) (s : State) : Out := .next (doCamParams ring s)

/-- The point record descriptor at an offset of a block (Table 8.5, R219). -/
def PointDesc.parse (b : List Byte) (o : Nat) : PointDesc :=
  let nf := blk b (o + 9) 1
  let f := fun i => o + 32 + 16 * i
  { payloadMin := blk b o 2, pointOffset := blk b (o + 2) 2, pointStride := blk b (o + 4) 2, pointCount := blk b (o + 6) 2,
    coord := blk b (o + 8) 1, timeSource := blk b (o + 0xA) 1, maxReturn := blk b (o + 0xB) 1, timeUnit := blk b (o + 0xC) 4,
    timeEpoch := sext 64 (blk b (o + 0x10) 8), timeStep := blk b (o + 0x18) 4,
    fields := (List.range nf).map fun i =>
      { kind := blk b (f i) 1, scope := blk b (f i + 1) 1, offset := blk b (f i + 2) 2, width := blk b (f i + 4) 1,
        shift := blk b (f i + 5) 1, bits := blk b (f i + 6) 1, flags := blk b (f i + 7) 1,
        scale := BitVec.ofNat 32 (blk b (f i + 8) 4), bias := BitVec.ofNat 32 (blk b (f i + 12) 4) },
    channels := (List.range (blk b (o + 0x1C) 2)).map fun i =>
      (BitVec.ofNat 32 (blk b (f nf + 8 * i) 4), BitVec.ofNat 32 (blk b (f nf + 8 * i + 4) 4)) }

/-- The descriptor has a field of a kind. -/
def PointDesc.has (d : PointDesc) (k : Nat) : Bool := d.fields.any fun f => f.kind = k

/-- The descriptor keeps the ranges and needs of R219. -/
def PointDesc.ok (d : PointDesc) : Bool :=
  decide (1 ≤ d.pointStride ∧ d.pointStride ≤ 1024) && decide (1 ≤ d.pointCount ∧ d.pointCount ≤ 4096) && decide (d.coord ≤ 1) &&
  decide (1 ≤ d.fields.length ∧ d.fields.length ≤ 16) && decide (d.timeSource ≤ 1) && decide (d.channels.length ≤ 256) &&
  (d.fields.all fun f => decide (f.kind ≤ 12) && decide (f.scope ≤ 1) && [1, 2, 3, 4, 8].contains f.width &&
    decide (1 ≤ f.bits ∧ f.bits ≤ 64) && decide (f.flags ≤ 3)) &&
  (if d.coord = 0 then d.has 0 && d.has 1 && d.has 2 else d.has 3 && (d.has 4 || d.has 6))

/-- Bytes of an element of a lidar feature format (R223). -/
def featElem (f : Nat) : Nat := if f = 0 then 4 else if f = 1 ∨ f = 8 then 2 else 1

/-- Bytes that a lidar's slot needs (R223). -/
def lidSlotNeed (maxCells p nfeat fmt : Nat) : Nat :=
  64 + up64 (4 * maxCells) + up64 maxCells + up64 (maxCells * p * nfeat * featElem fmt)

/-- The LIDAR block (Table 8.9) as a descriptor; `now` is the vehicle time, which chooses the first window. -/
def Lidar.parse (b : List Byte) (now : Int) : Lidar :=
  let count := if blk b 6 1 = 0 then 3 else blk b 6 1
  let period := blk b 0x18 4
  let late := blk b 0x1C 4
  let phase := sext 64 (blk b 0x20 8)
  let stale := blk b 0x28 4
  let age := blk b 0x3C 4
  let nf := blk b 0x9A 1
  { port := blk b 0 1, ipVer := blk b 1 1, vid := blk b 2 2, udpPort := blk b 4 2, srcIp := BitVec.ofNat 128 (blk b 8 16),
    featFmt := blk b 7 1, period := period, lateness := if late = 0 then 2000000 else late, phase := phase,
    stale := if stale = 0 then 2 * period else stale, pointRate := blk b 0x2C 4, maxAge := if age = 0 then 50000000 else age,
    minRange := BitVec.ofNat 32 (blk b 0x40 4), maxRange := BitVec.ofNat 32 (blk b 0x44 4),
    minIntensity := BitVec.ofNat 32 (blk b 0x48 4), maxCells := blk b 0x4C 4,
    extrinsic := (blkList b 0x50 4 12).map fun v => BitVec.ofNat 32 v, grid := (blkList b 0x80 4 5).map fun v => BitVec.ofNat 32 v,
    nx := blk b 0x94 2, ny := blk b 0x96 2, nz := blk b 0x98 1, p := blk b 0x99 1, features := blkList b 0x9C 1 nf,
    featScale := (blkList b 0xA4 4 8).map fun v => BitVec.ofNat 32 v, desc := PointDesc.parse b 0x100,
    ring := DevRing.fresh (blk b 0x30 8) (blk b 0x38 4) count, windows := [], nextK := icdiv (now - phase) period,
    committedK := none, lastSeq := none, arrivals := 0 }

/-- Every field of a LIDAR block lies in its range (Table 8.9, R223). -/
def Lidar.ok (m : Mss) (b : List Byte) (l : Lidar) : Bool :=
  decide (l.port ≤ 3) && decide (l.ipVer = 4 ∨ l.ipVer = 6) && decide (l.vid ≤ 4094 ∨ l.vid = 0xFFFF) &&
  (decide (l.ipVer = 6) || blkZero b 0xC 12) && decide (2 ≤ l.ring.slots.length ∧ l.ring.slots.length ≤ 8) &&
  [0, 1, 8, 9, 0xA].contains l.featFmt && decide (20000000 ≤ l.period ∧ l.period ≤ 200000000) &&
  decide (100000 ≤ l.lateness ∧ l.lateness ≤ 20000000) && decide (1 ≤ l.maxCells ∧ l.maxCells ≤ 65536) &&
  decide (1 ≤ l.nx ∧ l.nx ≤ 2048) && decide (1 ≤ l.ny ∧ l.ny ≤ 2048) && decide (1 ≤ l.nz ∧ l.nz ≤ 64) && decide (1 ≤ l.p ∧ l.p ≤ 64) &&
  decide (1 ≤ l.features.length ∧ l.features.length ≤ 8) && (l.features.all fun f => decide (f ≤ 7)) && blkZero b 0x9B 1 &&
  blkZero b 0xC4 60 && l.desc.ok && decide (l.ring.base % 64 = 0) && decide (l.ring.slotSize % 64 = 0) &&
  m.inOne tagSafe l.ring.base (l.ring.slotSize * (l.ring.slots.length + 1)) &&
  decide (lidSlotNeed l.maxCells l.p l.features.length l.featFmt ≤ l.ring.slotSize)

/-- The limits of R224 with a lidar in place of what its index has. -/
def Sen.lidFits (x : Sen) (i : Nat) (l : Lidar) : Bool :=
  let all := l :: (x.lids.filter fun p => p.1 ≠ i).map fun p => p.2
  decide ((all.map fun k => k.pointRate).sum ≤ 24000000) &&
  decide ((all.map fun k => ((k.ring.slotSize : Nat) : ℚ) / k.period).sum ≤ 4)

/-- SENSOR_CONFIG LIDAR (R226). -/
def doLidar (ring : Nat) (s : State) : State :=
  s.runSensor ring (fun op => op = 2) fun pk s =>
    let i := pk.u 0x11 1
    let n := pk.u 0x14 4
    if i < 0x80 ∨ 0x87 < i then s.bad pk 0x11
    else match s.sensorBlock pk with
      | none => s.bad pk 0x18
      | some b =>
        if n < 288 ∨ n ≠ 288 + 16 * blk b 0x109 1 + 8 * blk b 0x11C 2 then s.bad pk 0x14
        else
          let l := Lidar.parse b s.vnow
          let k := i - 0x80
          if !l.ok s.mss b then s.bad pk 0xFFFF
          else if s.ctr.names (0x200 + k) ∨ !s.sen.lidFits k l then s.noRes pk 0
          else
            let s := s.powerOn (1#64 <<< 40)
            let s := s.onSen fun x => match vget x.lidars k none with
              | none => { x with lidars := vset x.lidars k (some l) }
              | some _ => { x with lidNext := vset x.lidNext k (some l) }
            (s.zeroAbsent l.ring).done pk 0
/-- LIDAR (R226). -/
def execLidar (ring : Nat) (s : State) : Out := .next (doLidar ring s)

/-- A motion record arrives among those held (R221): four at most, the latest T_VALID kept. -/
def keepMotion (ms : List Motion) (m : Motion) : List Motion :=
  if ms.length < 4 then ms ++ [m]
  else if ms.all fun x => decide (m.tValid < x.tValid) then ms
  else
    let lo := ms.foldl (fun a x => min a x.tValid) m.tValid
    match (ms.filter fun x => x.tValid = lo).foldl (fun a (x : Motion) => match a with
        | none => some x
        | some (y : Motion) => if x.order < y.order then some x else some y) (none : Option Motion) with
    | some v => ms.filter (fun x => x ≠ v) ++ [m]
    | none => ms

/-- SENSOR_CONFIG MOTION (R221): the record goes to the LPE, and to CKC through agreement (R302). -/
def doMotion (ring : Nat) (s : State) : State :=
  s.runSensor ring (fun op => op = 3) fun pk s =>
    if pk.u 0x14 4 ≠ 32 then s.bad pk 0x14
    else match s.sensorBlock pk with
      | none => s.bad pk 0x18
      | some b =>
        if !blkZero b 0x18 8 then s.bad pk 0xFFFF
        else
          let m : Motion := { tValid := sext 64 (blk b 0 8), vx := BitVec.ofNat 32 (blk b 8 4), vy := BitVec.ofNat 32 (blk b 0xC 4),
                              vz := BitVec.ofNat 32 (blk b 0x10 4), yaw := BitVec.ofNat 32 (blk b 0x14 4), order := s.sen.motionOrder }
          ((s.onSen fun x => { x with motions := keepMotion x.motions m, motionOrder := x.motionOrder + 1 }).ckcInput (.motion (leNat b))).done pk 0
/-- MOTION (R221). -/
def execMotion (ring : Nat) (s : State) : Out := .next (doMotion ring s)

/-- Transfer `i` of a CCI block (Table 8.11). -/
def CciTransfer.parse (b : List Byte) (i : Nat) : CciTransfer :=
  let o := 0x10 + 8 * i
  let v := blk b o 1
  { read := v.testBit 0, regSize := v / 2 % 4 + 1, dataSize := 2 ^ (v / 8 % 4), reg := blk b (o + 2) 2, data := blk b (o + 4) 4 }

/-- The `n` bytes of a number, most significant first (R226). -/
def beBytes (n v : Nat) : List Byte := (leBytes n v).reverse

/-- The bytes that a transfer puts on the wire: target with its direction, register address, and the data of a write, or the target
again behind a repeated start for a read (R213, R226; the target byte as I2C has it, PRESUMED, log 181). -/
def CciTransfer.wire (t : CciTransfer) (target : Nat) : List Byte :=
  leBytes 1 (2 * target) ++ beBytes t.regSize t.reg ++ if t.read then leBytes 1 (2 * target + 1) else beBytes t.dataSize t.data

/-- A transfer of a CCI block is well formed (Table 8.11). -/
def cciTransferOk (b : List Byte) (i : Nat) : Bool :=
  let v := blk b (0x10 + 8 * i) 1
  decide (v < 32) && decide (v / 2 % 4 ≤ 1) && decide (v / 8 % 4 ≤ 2) && blkZero b (0x11 + 8 * i) 1

/-- SENSOR_CONFIG CCI (R213): the operation queues on its controller, and replies when it ends. -/
def doCci (ring : Nat) (s : State) : State :=
  s.runSensor ring (fun op => op = 4) fun pk s =>
    let dest := pk.u 0x20 8
    match s.sensorBlock pk with
    | none => s.bad pk 0x18
    | some b =>
      let n := blk b 3 1
      if pk.u 0x14 4 ≠ 16 + 8 * n then s.bad pk 0x14
      else if 3 < blk b 0 1 ∨ 127 < blk b 1 1 ∨ 2 < blk b 2 1 ∨ n < 1 ∨ 64 < n ∨ !blkZero b 4 12 ∨ !(List.range n).all (cciTransferOk b)
      then s.bad pk 0xFFFF
      else if !aligned64 dest then s.bad pk 0x20
      else s.onSen fun x =>
        let k := blk b 0 1
        let op : CciOp :=
          { pkt := pk, target := blk b 1 1, speed := blk b 2 1, transfers := (List.range n).map (CciTransfer.parse b), dest := dest }
        { x with i2c := vset x.i2c k (vget x.i2c k [] ++ [op]) }
/-- CCI (R213). -/
def execCci (ring : Nat) (s : State) : Out := .next (doCci ring s)

/-- The words that the completed reads give (R226): one for each, right-aligned, of the transfer's size. -/
def cciReads (ts : List CciTransfer) (reads : List Word) : List Word :=
  ((ts.filter fun t => t.read).zip reads).map fun p => BitVec.ofNat 32 (p.2.toNat % 2 ^ (8 * p.1.dataSize))

/-- A CCI operation ends (R213): its completed transfers have gone over the wire; DONE with their number, the read data written first. -/
def State.endCci (ctl : Fin 4) (done : Nat) (reads : List Word) (s : State) : State :=
  match vget s.sen.i2c ctl.val [] with
  | [] => s
  | op :: rest =>
    if !s.pins.rstN then s else
    let ts := op.transfers.take done
    let s := s.onSen fun x =>
      { x with i2c := vset x.i2c ctl.val rest,
               i2cSent := vset x.i2cSent ctl.val (vget x.i2cSent ctl.val [] ++ ts.map fun t => t.wire op.target) }
    let ws := cciReads ts reads
    let s := if ws.isEmpty then s else s.hostWrite op.dest (ws.flatMap fun w => leBytes 4 w.toNat)
    s.done op.pkt ts.length
/-- CCI_OPERATION_COMPLETE (R213). -/
def execCciOperationComplete (ctl : Fin 4) (done : Nat) (reads : List Word) (s : State) : Out := .next (s.endCci ctl done reads)
/-- I2C_CLOCK_STRETCH_TIMEOUT (R213): the transfer is abandoned and the operation ends. -/
def execI2cClockStretchTimeout (ctl : Fin 4) (done : Nat) (reads : List Word) (s : State) : Out := .next (s.endCci ctl done reads)

/-- SENSOR_CONFIG DISABLE (R226). -/
def doDisable (ring : Nat) (s : State) : State :=
  s.runSensor ring (fun op => op = 5) fun pk s =>
    let i := pk.u 0x11 1
    if !(decide (i ≤ 23) || decide (0x80 ≤ i ∧ i ≤ 0x87)) then s.bad pk 0x11
    else if pk.u 0x14 4 ≠ 0 then s.bad pk 0x14
    else
      let ringId := if i ≤ 23 then 0x100 + i else 0x200 + (i - 0x80)
      if s.ctr.names ringId then s.noRes pk 0
      else
        let s := s.onSen fun x =>
          if i ≤ 23 then { x with cameras := vset x.cameras i none, camNext := vset x.camNext i none }
          else { x with lidars := vset x.lidars (i - 0x80) none, lidNext := vset x.lidNext (i - 0x80) none,
                        lidOld := vset x.lidOld (i - 0x80) none }
        s.done pk 0
/-- DISABLE (R226). -/
def execDisable (ring : Nat) (s : State) : Out := .next (doDisable ring s)

/-! ### FSYNC outputs -/

/-- FSYNC_SCHEDULE (R214): only the fields that the MODE uses are checked; the entry replaces the old one from its first
edge, and MODE 0 at once. -/
def doFsyncSchedule (ring : Nat) (s : State) : State :=
  s.runPacket ring 0x51 fun pk s =>
    let out := pk.u 0x10 1
    let mode := pk.u 0x11 1
    let pol := pk.u 0x12 1
    let t0 := sext 64 (pk.u 0x18 8)
    let period := pk.u 0x20 4
    let width := pk.u 0x24 4
    let off := sext 32 (pk.u 0x28 4)
    if 7 < out then s.bad pk 0x10
    else if 2 < mode then s.bad pk 0x11
    else if 1 < pol then s.bad pk 0x12
    else if mode = 1 ∧ (period < 1000000 ∨ 1000000000 < period) then s.bad pk 0x20
    else if mode ≠ 0 ∧ (width < 100 ∨ 10000000 < width ∨ (mode = 1 ∧ period ≤ width)) then s.bad pk 0x24
    else if mode = 2 ∧ 49999999 < off.natAbs then s.bad pk 0x28
    else
      let first := if mode = 1 then (max 0 (icdiv (s.vnow - t0) period)).toNat else 0
      let f : Fsync := { mode := mode, t0 := t0, period := period, width := width, offset := off, polarity := pol,
                         nextK := first, placed := [], lastEdge := none, pulseEnd := none, skipped := 0 }
      let s := if mode = 0 then
          let old := vget s.sen.fsync out Fsync.off
          let s := s.onSen fun x =>
            { x with fsync := vset x.fsync out { f with lastEdge := old.lastEdge, pulseEnd := old.pulseEnd, skipped := old.skipped },
                     fsyncNext := vset x.fsyncNext out none }
          if old.pulseEnd.isSome then s
          else s.onPins fun p => { p with fsync := if pol = 0 then p.fsync &&& ~~~(1#8 <<< out) else p.fsync ||| (1#8 <<< out) }
        else s.onSen fun x => { x with fsyncNext := vset x.fsyncNext out (some f) }
      s.done pk 0
/-- FSYNC_SCHEDULE (R214). -/
def execFsyncSchedule (ring : Nat) (s : State) : Out := .next (doFsyncSchedule ring s)

/-- The vehicle time of a MODE 1 entry's edge. -/
def Fsync.edgeAt (f : Fsync) (k : Nat) : Int := f.t0 + k * f.period

/-- The next MODE 1 edge of an entry is placed 1 ms before its vehicle time; edges whose times have passed are skipped and
counted (R214, R362). -/
def State.placeEdge (f : Fsync) (s : State) : Fsync × State :=
  let passed := (max f.nextK (icdiv (s.vnow - f.t0) f.period).toNat)
  let f := { f with nextK := passed, skipped := f.skipped + (passed - f.nextK) }
  let s := s.advance (countAt s.tim (f.edgeAt f.nextK - 1000000))
  ({ f with nextK := f.nextK + 1, placed := f.placed ++ [(f.nextK, countAt s.tim (f.edgeAt f.nextK))] }, s)

/-- FSYNC_PLACEMENT (R214): of the entry in force or, if its first edge comes earlier, of the one that replaces it. -/
def doFsyncPlacement (out : Fin 8) (s : State) : State :=
  if !s.servoOn then s else
  let cur := vget s.sen.fsync out.val Fsync.off
  let next := vget s.sen.fsyncNext out.val none
  let useNext := match next with
    | some n => n.mode = 1 && n.placed.isEmpty && (cur.mode ≠ 1 || decide (n.edgeAt n.nextK ≤ cur.edgeAt cur.nextK))
    | none => false
  match next with
  | some n =>
    if useNext then
      let r := s.placeEdge n
      r.2.onSen fun x => { x with fsyncNext := vset x.fsyncNext out.val (some r.1) }
    else if cur.mode = 1 then
      let r := s.placeEdge cur
      r.2.onSen fun x => { x with fsync := vset x.fsync out.val r.1 }
    else s
  | none =>
    if cur.mode = 1 then
      let r := s.placeEdge cur
      r.2.onSen fun x => { x with fsync := vset x.fsync out.val r.1 }
    else s
/-- FSYNC_PLACEMENT (R214). -/
def execFsyncPlacement (out : Fin 8) (s : State) : Out := .next (doFsyncPlacement out s)

/-- A MODE 2 edge is placed with its launch (R214): skipped when its OFFSET is not below the frame cycle or its count lies
less than 1 ms ahead. -/
def Fsync.placeLaunch (f : Fsync) (now launch cycle : Nat) : Fsync :=
  if f.mode ≠ 2 then f
  else
    let n := (launch : Int) + f.offset
    if (cycle : Int) ≤ f.offset.natAbs ∨ n < now + 1000000 then { f with nextK := f.nextK + 1, skipped := f.skipped + 1 }
    else { f with nextK := f.nextK + 1, placed := f.placed ++ [(f.nextK, n.toNat)] }

/-- Every MODE 2 output places the edge of a launch that has just been placed (R214, R365). -/
def State.placeLaunchEdges (launch cycle : Nat) (s : State) : State :=
  s.onSen fun x =>
    { x with fsync := x.fsync.map fun f => f.placeLaunch s.now launch cycle,
             fsyncNext := x.fsyncNext.map fun o => o.map fun f => f.placeLaunch s.now launch cycle }

/-- The edge at the front of an entry's placed list is driven: the pin turns active for WIDTH. -/
def State.driveEdge (out : Nat) (f : Fsync) (s : State) : State :=
  match f.placed with
  | [] => s
  | (_, n) :: rest =>
    let s := s.advance n
    let f := { f with placed := rest, lastEdge := some s.now, pulseEnd := some (s.now + f.width) }
    let s := s.onSen fun x => { x with fsync := vset x.fsync out f }
    s.onPins fun p => { p with fsync := if f.polarity = 0 then p.fsync ||| (1#8 <<< out) else p.fsync &&& ~~~(1#8 <<< out) }

/-- FSYNC_EDGE (R214): the placed edge with the lowest count; the first edge of a new entry puts that entry in force. -/
def doFsyncEdge (out : Fin 8) (s : State) : State :=
  if !s.servoOn then s else
  let cur := vget s.sen.fsync out.val Fsync.off
  match vget s.sen.fsyncNext out.val none with
  | none => s.driveEdge out.val cur
  | some n =>
    match cur.placed.head?, n.placed.head? with
    | _, none => s.driveEdge out.val cur
    | some a, some b =>
      if a.2 < b.2 then s.driveEdge out.val cur
      else (s.onSen fun x => { x with fsyncNext := vset x.fsyncNext out.val none }).driveEdge out.val { n with skipped := cur.skipped + n.skipped }
    | none, some _ => (s.onSen fun x => { x with fsyncNext := vset x.fsyncNext out.val none }).driveEdge out.val { n with skipped := cur.skipped + n.skipped }
/-- FSYNC_EDGE (R214). -/
def execFsyncEdge (out : Fin 8) (s : State) : Out := .next (doFsyncEdge out s)

end Sys2Proof.Machine
end

