-- ==== Sys2Proof/Machine/Series.lean ====
section
/-! DEFINITION. The functions of Table 4.5 and atan2 (R85, R184): their values to far more than FP32's precision, and the choice
of an FP32 result within the stated 2 ulp. The choice itself is open (`Config.vuFunction`, `Config.dppAtan2`). -/

namespace Sys2Proof.Machine

/-! ### Fixed point -/

/-- Fraction bits of the fixed-point values below. -/
abbrev fxBits : Nat := 320
/-- One. -/
abbrev fxOne : Int := 2 ^ fxBits
/-- A finite value in fixed point. -/
def fxOf : Fp → Int
  | .fin n m e => Fp.at n m e (-(fxBits : Int)) / ((2 ^ (-(fxBits : Int) - e).toNat : Nat) : Int)
  | _ => 0
/-- A fixed-point value. -/
def fxVal (i : Int) : Fp := .fin (decide (i < 0)) i.natAbs (-(fxBits : Int))
/-- A product. -/
def fxMul (a b : Int) : Int := a * b / fxOne
/-- A quotient. -/
def fxDiv (a b : Int) : Int := a * fxOne / b

/-- t - t^3/3 + t^5/5 - …, or with every sign plus: from term `k`, whose power is `p`; `t2` is t^2. -/
def oddSeries (alt : Bool) (t2 : Int) : Nat → Nat → Int → Int
  | 0, _, _ => 0
  | n + 1, k, p => (if alt && k % 2 = 1 then -1 else 1) * (p / ((2 * k + 1 : Nat) : Int)) + oddSeries alt t2 n (k + 1) (fxMul p t2)
/-- atan of a value of at most 1/2. -/
def fxAtanSmall (t : Int) : Int := oddSeries true (fxMul t t) 180 0 t
/-- ln((1 + t) / (1 - t)). -/
def fxLnRatio (t : Int) : Int := 2 * oddSeries false (fxMul t t) 120 0 t
/-- ln 2. -/
def fxLn2 : Int := fxLnRatio (fxOne / 3)
/-- pi, by Machin's formula. -/
def fxPi : Int := 16 * fxAtanSmall (fxOne / 5) - 4 * fxAtanSmall (fxOne / 239)

/-- The exponential series from term `k`, whose value is `p`. -/
def expSeries (t : Int) : Nat → Nat → Int → Int
  | 0, _, _ => 0
  | n + 1, k, p => p + expSeries t n (k + 1) (fxMul p t / ((k + 1 : Nat) : Int))
/-- The series of sin (k = 1) and cos (k = 0) from the term of power `k`; `t2` is the angle's square. -/
def trigSeries (t2 : Int) : Nat → Nat → Int → Int
  | 0, _, _ => 0
  | n + 1, k, p => p - trigSeries t2 n (k + 2) (fxMul p t2 / (((k + 1) * (k + 2) : Nat) : Int))
/-- The series of the error function from term `k`; `p` is x^(2k+1) / k!. -/
def erfSeries (x2 : Int) : Nat → Nat → Int → Int
  | 0, _, _ => 0
  | n + 1, k, p => p / ((2 * k + 1 : Nat) : Int) - erfSeries x2 n (k + 1) (fxMul p x2 / ((k + 1 : Nat) : Int))

/-! ### Functions of a finite value -/

/-- 2^y for a fixed-point y. -/
def fxExp2 (y : Int) : Fp :=
  let i := y / fxOne
  (Fp.pow2 i).mul (fxVal (expSeries (fxMul (y - i * fxOne) fxLn2) 90 0 fxOne))
/-- A value far above or below every FP32 value, for an exponent out of range. -/
def farExp (neg : Bool) : Fp := Fp.pow2 (if neg then -2000 else 2000)
/-- 2^x. -/
def exp2Of (x : Fp) : Fp := if (Fp.ofNat 512).lt x.abs then farExp x.neg? else fxExp2 (fxOf x)
/-- e^x. -/
def expOf (x : Fp) : Fp := if (Fp.ofNat 512).lt x.abs then farExp x.neg? else fxExp2 (fxDiv (fxOf x) fxLn2)
/-- ln of a positive value. -/
def fxLn : Fp → Int
  | .fin _ m e =>
    let f := fxOf (.fin false m (-(m.log2 : Int)))
    fxLnRatio (fxDiv (f - fxOne) (f + fxOne)) + ((m.log2 : Int) + e) * fxLn2
  | _ => 0
/-- tanh x. -/
def tanhOf (x : Fp) : Fp :=
  if (Fp.ofNat 64).lt x.abs then Fp.ofInt (if x.neg? then -1 else 1)
  else let e := fxOf (expOf (x.mul (Fp.ofNat 2))); fxVal (fxDiv (e - fxOne) (e + fxOne))
/-- 1 / (1 + e^-x). -/
def sigmoidOf (x : Fp) : Fp := (Fp.ofNat 1).div ((Fp.ofNat 1).add (expOf x.negate))
/-- erf x; beyond 5 it is 1 to 39 bits. -/
def erfOf (x : Fp) : Fp :=
  if (Fp.ofNat 5).lt x.abs then Fp.ofInt (if x.neg? then -1 else 1)
  else
    let t := fxOf x
    let c : Int := ((4 * 2 ^ (3 * fxBits) / fxPi.toNat).sqrt : Nat)
    fxVal (fxMul c (erfSeries (fxMul t t) 200 0 t))
/-- sin of an angle plus `q` right angles. -/
def sinOf (q : Int) (x : Fp) : Fp :=
  let t := fxOf x
  let h := fxPi / 2
  let k := (2 * t + h) / (2 * h)
  let r := t - k * h
  let r2 := fxMul r r
  let s := trigSeries r2 50 1 r
  let c := trigSeries r2 50 0 fxOne
  fxVal (match (k + q) % 4 with | 0 => s | 1 => c | 2 => -s | _ => -c)

/-- The value of function `op` (codes of Table 4.11) where Table 4.5 states its accuracy: a finite operand in the function's
domain, for sin and cos at most 2^20 in magnitude. -/
def vuExact (op : Nat) : Fp → Option Fp
  | .fin n m e =>
    let x := Fp.fin n m e
    match op with
    | 0x40 => some (exp2Of x)
    | 0x41 => if n || m = 0 then none else some (fxVal (fxDiv (fxLn x) fxLn2))
    | 0x42 => some (expOf x)
    | 0x43 => if n || m = 0 then none else some (fxVal (fxLn x))
    | 0x44 => if m = 0 then none else some ((Fp.ofNat 1).div x)
    | 0x45 => if n || m = 0 then none else some ((Fp.ofNat 1).div x.sqrt)
    | 0x46 => if m = 0 then some x else if n then none else some x.sqrt
    | 0x47 => some (tanhOf x)
    | 0x48 => some (sigmoidOf x)
    | 0x49 => some (erfOf x)
    | 0x4A => if x.abs.le (Fp.pow2 20) then some (sinOf 0 x) else none
    | 0x4B => if x.abs.le (Fp.pow2 20) then some (sinOf 1 x) else none
    | _ => none
  | _ => none

/-! ### Accuracy -/

/-- A magnitude code of FP32 as a value, subnormal codes unflushed and the first beyond the range as 2^128. -/
def magOf (c : Nat) : Fp := if c < 2 ^ 23 then .fin false c (-149) else .fin false (2 ^ 23 + c % 2 ^ 23) ((c / 2 ^ 23 : Nat) - 150)
/-- The FP32 magnitude code at or below a value. -/
def codeBelow (m : Nat) (e : Int) : Nat :=
  let lg := (m.log2 : Int) + e
  if 128 ≤ lg then 0x7F800000
  else
    let q := max (lg - 23) (-149)
    let v := if q ≤ e then m * 2 ^ (e - q).toNat else m / 2 ^ (q - e).toNat
    if lg < -126 then v else (lg + 127).toNat * 2 ^ 23 + (v - 2 ^ 23)

/-- The FP32 result for an exact value (Table 4.5): one of those within 2 ulp for which `ok` holds, subnormal results flushed
(R99); `pick` chooses, and gives a zero its sign. -/
def within2Ulp (ok : Fp → Bool) (pick : Nat) : Fp → Fp
  | .fin n m e =>
    if m = 0 then Fp.zero (pick.testBit 0)
    else
      let c := codeBelow m e
      if c = 0x7F800000 then .inf n
      else
        let lim := Fp.pow2 (max ((m.log2 : Int) + e - 22) (-148))
        let near := fun (k : Nat) => ((magOf k).sub (.fin false m e)).abs.le lim && ok (if n then (magOf k).negate else magOf k)
        let ks := ((List.range 6).map fun j => c + j - 2).filter near
        let k := ks.getD (pick % max 1 ks.length) c
        if k = 0x7F800000 then .inf n else fmtValue 0 ((if n then 2 ^ 31 else 0) + k)
  | x => x

/-- A function of the VU on an FP32 value (R85, Table 4.5): within 2 ulp where the table states its accuracy, else open. -/
def vuFn (op : Nat) (x : Fp) : Fp :=
  let w := (Config.vuFunction (BitVec.ofNat 8 op) (BitVec.ofNat 32 x.code32)).toNat
  match vuExact op x with
  | some v => within2Ulp (fun _ => true) w v
  | none => f32 w

/-- atan2 of finite values that are not both zero. -/
def atan2Of (y x : Fp) : Fp :=
  let steep := x.abs.lt y.abs
  let t := fxOf (if steep then x.abs.div y.abs else y.abs.div x.abs)
  let base := if 2 * t ≤ fxOne then fxAtanSmall t else fxPi / 4 + fxAtanSmall (fxDiv (t - fxOne) (t + fxOne))
  let a := if steep then fxPi / 2 - base else base
  let a := if x.neg? && !x.isZero then fxPi - a else a
  fxVal (if y.neg? && !y.isZero then -a else a)

/-- A value lies in (-pi, pi]. -/
def inTurn (v : Fp) : Bool := v.isFin && v.abs.lt (fxVal fxPi)

/-- atan2 of DPP (R184): within 2 ulp and in (-pi, pi], atan2(0, 0) = 0; a NaN gives NaN (R100). Beside an infinity only the
range is stated. -/
def fatan2 (y x : Fp) : Fp :=
  let w := (Config.dppAtan2 (BitVec.ofNat 32 y.code32) (BitVec.ofNat 32 x.code32)).toNat
  if y.isNan || x.isNan then .nan
  else if y.isFin && x.isFin then
    if y.isZero && x.isZero then Fp.zero false else within2Ulp inTurn w (atan2Of y x)
  else if inTurn (f32 w) then f32 w else Fp.zero (w.testBit 31)

end Sys2Proof.Machine
end

