-- ==== Sys2Proof/Machine/Points.lean ====
section
/-! DEFINITION. Lidar points from a datagram's payload (R219, R220 steps 1 to 5), as the LPE and CKC (R310) read them. -/

namespace Sys2Proof.Machine

/-- A byte of a payload; beyond its end the manual states none. -/
def payloadByte (p : List Byte) (i : Nat) : Byte := match p[i]? with | some b => b | none => Config.payloadTail p i

/-- The raw value of a field of the point at offset `pt` (R219). -/
def FieldEntry.raw (f : FieldEntry) (p : List Byte) (pt : Nat) : Int :=
  let base := f.offset + if f.scope = 0 then pt else 0
  let bs := (List.range f.width).map fun i => payloadByte p (base + i)
  let w := leNat (if f.flags.testBit 1 then bs.reverse else bs)
  let v := (w >>> f.shift) % 2 ^ f.bits
  if f.flags.testBit 0 then sext f.bits v else (v : Int)

/-- The field of a kind. -/
def PointDesc.field? (d : PointDesc) (k : Nat) : Option FieldEntry := d.fields.find? fun f => f.kind = k
/-- The integer of a field kind. -/
def PointDesc.int? (d : PointDesc) (k : Nat) (p : List Byte) (pt : Nat) : Option Int := (d.field? k).map fun f => f.raw p pt
/-- The FP32 value of a field kind: raw x SCALE + BIAS, each operation RNE (R219). -/
def PointDesc.real? (d : PointDesc) (k : Nat) (p : List Byte) (pt : Nat) : Option Fp :=
  (d.field? k).map fun f => fadd (fmul (Fp.ofInt (f.raw p pt)).r32 (f32 f.scale.toNat)) (f32 f.bias.toNat)

/-- cos. -/
def fcos (x : Fp) : Fp := vuFn 0x4B x
/-- sin. -/
def fsin (x : Fp) : Fp := vuFn 0x4A x

/-- A decoded point. -/
structure RawPoint where
  x : Fp
  y : Fp
  z : Fp
  range : Fp
  inten : Fp
  deriving DecidableEq, Repr

/-- Elevation and azimuth offset of a channel. -/
def PointDesc.channel (d : PointDesc) (c : Nat) : Fp × Fp :=
  let e := d.channels.getD c (Config.channelEntry c)
  (f32 e.1.toNat, f32 e.2.toNat)

/-- Decode the point at offset `pt` (R220 steps 1 to 3); none when VALID or RETURN drops it. -/
def PointDesc.point (d : PointDesc) (p : List Byte) (pt : Nat) : Option RawPoint :=
  let invalid := match d.int? 9 p pt with | some v => decide (v = 0) | none => false
  let late := match d.int? 8 p pt with | some v => decide (d.maxReturn < 255) && decide ((d.maxReturn : Int) < v) | none => false
  if invalid || late then none
  else
    let z0 := Fp.zero false
    let inten := (d.real? 7 p pt).getD z0
    if d.coord = 0 then
      let x := (d.real? 0 p pt).getD z0
      let y := (d.real? 1 p pt).getD z0
      let z := (d.real? 2 p pt).getD z0
      let n := (fadd (fadd (fmul x x) (fmul y y)) (fmul z z)).sqrt.r32
      some { x := x, y := y, z := z, range := n, inten := inten }
    else
      let r := (d.real? 3 p pt).getD z0
      let ch := (d.int? 6 p pt).map fun c => d.channel c.toNat
      let el := (d.real? 5 p pt).getD ((ch.map fun c => c.1).getD z0)
      let az0 := (d.real? 4 p pt).getD z0
      let az := match ch with | some c => fadd az0 c.2 | none => az0
      let rc := fmul r (fcos el)
      some { x := fmul rc (fcos az), y := fmul rc (fsin az), z := fmul r (fsin el), range := r, inten := inten }

/-- Offsets of the points that a payload holds (R219: points beyond the payload end are not read). -/
def PointDesc.offsets (d : PointDesc) (p : List Byte) : List Nat :=
  ((List.range d.pointCount).map fun i => d.pointOffset + i * d.pointStride).filter fun o => decide (o + d.pointStride ≤ p.length)

/-- One output of the 3 x 4 extrinsic matrix: an fma chain in column order (R220 step 5). -/
def extrinsicRow (m : List Word) (r : Nat) (x y z : Fp) : Fp :=
  let c := fun k => f32 (m.getD (4 * r + k) 0).toNat
  ffma (c 3) (Fp.ofNat 1) (ffma (c 2) z (ffma (c 1) y (fmul (c 0) x)))

/-- The extrinsic matrix applied to a point. -/
def extrinsicAt (m : List Word) (p : RawPoint) : Fp × Fp × Fp :=
  (extrinsicRow m 0 p.x p.y p.z, extrinsicRow m 1 p.x p.y p.z, extrinsicRow m 2 p.x p.y p.z)

/-- ⌊(v - origin) / cell⌋ with FP32 operations (R223, R310); none for a value that is not finite. -/
def gridIndex (v origin cell : Fp) : Option Int :=
  match fdiv (fsub v origin) cell with
  | .fin n m e => some (Fp.floor (.fin n m e))
  | _ => none

/-- A cell index within `0 .. n`. -/
def within (n : Nat) (i : Option Int) : Option Nat :=
  match i with
  | some v => if 0 ≤ v ∧ v < (n : Int) then some v.toNat else none
  | none => none

end Sys2Proof.Machine
end

