-- ==== Sys2Proof/Machine/Evidence.lean ====
section
/-! DEFINITION. CKC's evidence for a frame (R308, R310): lidar returns per tile, the camera prior, the failed sensors and the
ego shift of check C4 (R311). -/

namespace Sys2Proof.Machine

/-- Base of a model slot in CKC SRAM (Table 12.1). -/
def modelBase (slot : Nat) : Nat := if slot = 0 then 0x100000 else 0x480000

/-- INPUT table entries of a model: (sensor code, kind, buffer offset, size) (Table 12.5). -/
def ckcInputs (ram : Memory) (base : Nat) (m : CkcModel) : List (Nat × Nat × Nat × Nat) :=
  (List.range m.inputs).map fun i =>
    let a := base + m.inputOff + 16 * i
    (memLe ram a 1, memLe ram (a + 1) 1, memLe ram (a + 4) 4, memLe ram (a + 8) 4)

/-- The buffer (offset in the slot, size) that a model gives a sensor's inputs of a kind (Table 12.5). -/
def ckcBuffer (ram : Memory) (base : Nat) (m : CkcModel) (sensor kind : Nat) : Option (Nat × Nat) :=
  ((ckcInputs ram base m).find? fun e => e.1 = sensor && e.2.1 = kind).map fun e => e.2.2

/-- The model slots that CKC's inputs are written to: the armed one and, once an ARM_CONTRACT is accepted, the staged one
(R309), with their models. -/
def State.ckcSlots (s : State) : List (Nat × CkcModel) :=
  (match s.ctr.armed with | some c => [(s.ckc.slotArmed, c.model)] | none => []) ++
    (if s.ctr.armPending.isSome then match s.ctr.staged with | some c => [(1 - s.ckc.slotArmed, c.model)] | none => [] else [])

/-- The bytes of a circular buffer of `size` bytes at `base`, from offset `off` on. -/
def circBytes (ram : Memory) (base size off n : Nat) : List Byte := (List.range n).map fun i => memGet ram (base + (off + i) % size)

/-- Write bytes into a circular buffer from offset `off` on. -/
def circPut (base size : Nat) (f : Fab) (off : Nat) : List Byte → Fab
  | [] => f
  | b :: r => circPut base size (f.poke .ckc (base + off % size) b) (off + 1) r

/-- The payload of a datagram's copy (R218): behind its 16-byte prefix. -/
def LidarCopy.payload (c : LidarCopy) (ram : Memory) (base size : Nat) : List Byte := circBytes ram base size (c.off + 16) c.len

/-- One copy in a lidar's circular buffer of a model slot (R218): prefix and payload behind the latest copy there, or nothing and a
count when the buffer has no room. -/
def State.pushCopy (slot : Nat) (m : CkcModel) (l : Nat) (arrival : Nat) (payload : List Byte) (s : State) : State :=
  match ckcBuffer s.fab.ckcRam (modelBase slot) m (0x80 + l) 1 with
  | none => s
  | some (buf, size) =>
    let here := s.ckc.copies.filter fun c => c.slot = slot && c.lidar = l
    let off := match here.getLast? with | some c => (c.off + 16 + c.len) % size | none => 0
    if (here.map fun c => 16 + c.len).sum + 16 + payload.length ≤ size then
      let s := s.onCkc fun k => { k with copies := k.copies ++ [{ slot := slot, lidar := l, arrival := arrival, off := off, len := payload.length }] }
      s.onFab fun f => circPut (modelBase slot + buf) size f off
        (leBytes 1 l ++ leBytes 3 0 ++ leBytes 4 payload.length ++ leBytes 8 arrival ++ payload)
    else s.onCkc fun k => { k with copyDrops := satU 32 (k.copyDrops + 1) }

/-- A thumbnail in a camera's buffer of a model slot (R207): as many of its bytes as the buffer holds. -/
def State.pushThumb (slot : Nat) (m : CkcModel) (cam w h : Nat) (b : List Byte) (s : State) : State :=
  match ckcBuffer s.fab.ckcRam (modelBase slot) m cam 0 with
  | none => s
  | some (buf, size) =>
    let s := s.onCkc fun k => { k with thumbs := { slot := slot, cam := cam, width := w, height := h } ::
                                                   k.thumbs.filter fun t => !(t.cam = cam && t.slot = slot) }
    s.onFab fun f => f.pokes .ckc (modelBase slot + buf) (b.take size)

/-! ### Lidar evidence -/

/-- The parse blocks in table order (R308): descriptor and extrinsic matrix, from the block at `a` on. -/
def parseBlocks (ram : Memory) : Nat → Nat → List (PointDesc × List Word)
  | 0, _ => []
  | n + 1, a =>
    let size := memLe ram a 4
    let b := memBytes ram a size
    (PointDesc.parse b 16, (blkList b (size - 48) 4 12).map fun v => BitVec.ofNat 32 v) :: parseBlocks ram n (a + size)

/-- Each lidar's parse block. -/
def ckcLidars (ram : Memory) (base : Nat) (m : CkcModel) : List (Nat × PointDesc × List Word) :=
  let ls := (ckcInputs ram base m).filter fun e => e.2.1 = 1
  (ls.map fun e => e.1 - 0x80).zip (parseBlocks ram ls.length (base + m.lidarOff))

/-- The tile of a vehicle-frame point and whether it is a ground or an obstacle return (R310): (tile, ground, obstacle). -/
def tileReturn (m : CkcModel) (gridW gridH : Nat) (q : Fp × Fp × Fp) : Option (Nat × Bool × Bool) :=
  let edge := f32 m.tileEdge.toNat
  match within gridW (gridIndex q.1 (f32 m.originX.toNat) edge), within gridH (gridIndex q.2.1 (f32 m.originY.toNat) edge) with
  | some ix, some iy =>
    let h := fsub q.2.2 (f32 m.zGround.toNat)
    let band := f32 m.zBand.toNat
    let ground := h.abs.le band
    some (iy * gridW + ix, ground, !ground && band.le h && h.le (Fp.ofNat 3))
  | _, _ => none

/-- Every return of the datagrams that arrived in the LIDAR_SPAN before the launch (R310). -/
def lidarReturns (ram : Memory) (base : Nat) (m : CkcModel) (gridW gridH launch : Nat) (cs : List LidarCopy) :
    List (Nat × Bool × Bool) :=
  (ckcLidars ram base m).flatMap fun l =>
    (cs.filter fun c => c.lidar = l.1 && decide (c.arrival ≤ launch) && decide (launch ≤ c.arrival + m.lidarSpan * 1000)).flatMap fun c =>
      let payload := match ckcBuffer ram base m (0x80 + l.1) 1 with | some e => c.payload ram (base + e.1) e.2 | none => []
      ((l.2.1.offsets payload).filterMap fun o => l.2.1.point payload o).filterMap fun p =>
        tileReturn m gridW gridH (extrinsicAt l.2.2 p)

/-! ### Camera prior -/

/-- A feature map: codes of one format by row, column and channel. -/
structure Fmap where
  w : Nat
  h : Nat
  ch : Nat
  fmt : Nat
  codes : List Nat
  deriving DecidableEq, Repr

/-- The value at a position; zero padding outside (R308). -/
def Fmap.at (f : Fmap) (y x : Int) (c : Nat) : Fp :=
  if y < 0 ∨ x < 0 ∨ (f.h : Int) ≤ y ∨ (f.w : Int) ≤ x then Fp.zero false
  else x19 f.fmt (f.codes.getD ((y.toNat * f.w + x.toNat) * f.ch + c) 0) 0 .none

/-- One sum of products: passes of 64 rows from +0, added in FP32; integer formats add exactly (R297, R108, R109). -/
def ckcDot (int : Bool) (l : List (Fp × Fp)) : Fp :=
  if int then (l.foldl (fun s p => s.add (p.1.mul p.2)) (Fp.zero false)).r32
  else ((List.range ((l.length + 63) / 64)).map fun k =>
      ((l.drop (64 * k)).take 64).foldl (fun s p => cellMac s p.1 p.2) (Fp.zero false)).foldl fadd (Fp.zero false)

/-- One layer of the network (Table 12.14): `a` is its entry's CKC address, `nextFmt` the format it converts to. -/
def ckcLayer (ram : Memory) (base a nextFmt : Nat) (x : Fmap) : Fmap :=
  let ic := memLe ram a 2
  let oc := memLe ram (a + 2) 2
  let k := memLe ram (a + 4) 1
  let st := memLe ram (a + 5) 1
  let fmt := memLe ram (a + 6) 1
  let act := memLe ram (a + 7) 1
  let woff := base + memLe ram (a + 8) 4
  let wscale := memLe ram (a + 0xC) 1
  let oscale := f32 (memLe ram (a + 0x10) 4)
  let boff := memLe ram (a + 0x14) 4
  let w := fun (o ky kx c : Nat) => x19 fmt (memLe ram (woff + ((o * k + ky) * k + kx) * ic + c) 1) 0 (.e8m0 wscale)
  let ow := (x.w + st - 1) / st
  let oh := (x.h + st - 1) / st
  let cell := fun (oy ox o : Nat) =>
    let terms := (List.range k).flatMap fun ky => (List.range k).flatMap fun kx => (List.range ic).map fun c =>
      (x.at (((oy * st + ky : Nat) : Int) - ((k / 2 : Nat) : Int)) (((ox * st + kx : Nat) : Int) - ((k / 2 : Nat) : Int)) c, w o ky kx c)
    let v := fmul (ckcDot (fmtIsInt fmt) terms) oscale
    let v := if boff = 0xFFFFFFFF then v else fadd v (f32 (memLe ram (base + boff + 4 * o) 4))
    let v := if act = 1 then fmax v (Fp.zero false) else v
    fmtCode nextFmt .rne false 0 v
  { w := ow, h := oh, ch := oc, fmt := nextFmt,
    codes := (List.range oh).flatMap fun oy => (List.range ow).flatMap fun ox => (List.range oc).map fun o => cell oy ox o }

/-- The UINT8 values of a thumbnail (R308): bits [15:8] of each value in its buffer. -/
def Thumb.vals (t : Thumb) (ram : Memory) (base : Nat) (m : CkcModel) : List Nat :=
  match ckcBuffer ram base m t.cam 0 with
  | some (buf, _) => (List.range (t.width * t.height)).map fun i => memLe ram (base + buf + 2 * i + 1) 1
  | none => []

/-- The network on one thumbnail (R308): the last layer converts to UINT8. -/
def ckcNetwork (ram : Memory) (base : Nat) (m : CkcModel) (t : Thumb) : Fmap :=
  let start : Fmap := { w := t.width, h := t.height, ch := 1, fmt := 0xA, codes := t.vals ram base m }
  (List.range m.netLayers).foldl (fun x i =>
    let next := if i + 1 < m.netLayers then memLe ram (base + m.netOff + 32 * (i + 1) + 6) 1 else 0xA
    ckcLayer ram base (base + m.netOff + 32 * i) next x) start

/-- The prior of every tile through the projection table (Table 12.15, R310); `usable` names the cameras whose bound slot
has neither ABSENT nor PATTERN_FAIL. -/
def ckcPrior (ram : Memory) (base : Nat) (m : CkcModel) (tiles : Nat) (usable : List Nat) (ts : List Thumb) : List (Option Nat) :=
  let cams := ((ckcInputs ram base m).filter fun e => e.2.1 = 0).map fun e => e.1
  let maps := ((cams.filter fun c => usable.contains c).filterMap fun c => ts.find? fun t => t.cam = c).map fun t => (t.cam, ckcNetwork ram base m t)
  (List.range tiles).map fun t =>
    let a := base + m.projOff + 4 * t
    let cell := memLe ram a 2
    if cell = 0xFFFF then none
    else match maps.find? fun p => p.1 = memLe ram (a + 2) 1 with
      | some p => p.2.codes[cell * p.2.ch + memLe ram (a + 3) 1]?
      | none => none

/-! ### The whole -/

/-- Rounded to the nearest integer, ties away from zero. -/
def roundAway (x : Fp) : Int :=
  match x with
  | .fin n m e => let h := Fp.floor ((Fp.fin false m e).add (.fin false 1 (-1))); if n then -h else h
  | _ => 0

/-- The motion record with the latest T_VALID; of equal ones, the last to arrive. -/
def latestMotion (ms : List Motion) : Option Motion :=
  ms.foldl (fun a m => match a with
    | some b => if b.tValid < m.tValid ∨ (b.tValid = m.tValid ∧ b.order < m.order) then some m else a
    | none => some m) none

/-- The ego shift of C4 in tiles over one FRAME_CYCLE at the velocity of the latest agreed MOTION record (R311). -/
def egoShift (latest : Option Motion) (m : CkcModel) (cycle : Nat) : Int × Int :=
  match latest with
  | none => (0, 0)
  | some r =>
    let dt := fmul (Fp.ofNat cycle).r32 (fdec 1 9)
    let one := fun (v : Word) => roundAway (fdiv (fmul (f32 v.toNat) dt) (f32 m.tileEdge.toNat))
    (one r.vx, one r.vy)

/-- Sensors whose bound slot has ABSENT, PATTERN_FAIL, SENSOR_TEST_FAIL, SENSOR_TEST_MISSING or LINK_DOWN (R310). -/
def failedSensors (bound : List (Nat × Nat)) : Word :=
  BitVec.ofNat 32 ((bound.filter fun p => decide (p.2 &&& 0x8F ≠ 0)).map fun p => 2 ^ p.1).sum

/-- CKC's evidence (R310). `bound` pairs the sensor index of every bound slot with its STATUS; `slot` is the model slot. -/
def State.evidence (s : State) (m : CkcModel) (slot gridW gridH launch cycle : Nat) (bound : List (Nat × Nat)) : Evidence :=
  let ram := s.fab.ckcRam
  let base := modelBase slot
  let tiles := gridW * gridH
  let rs := lidarReturns ram base m gridW gridH launch (s.ckc.copies.filter fun c => c.slot = slot)
  let usable := (bound.filter fun p => decide (p.1 < 24) && decide (p.2 &&& 3 = 0)).map fun p => p.1
  let shift := egoShift s.ckc.motion m cycle
  { ground := (List.range tiles).map fun t => (rs.filter fun r => r.1 = t && r.2.1).length,
    obst := (List.range tiles).map fun t => (rs.filter fun r => r.1 = t && r.2.2).length,
    prior := ckcPrior ram base m tiles usable (s.ckc.thumbs.filter fun t => t.slot = slot),
    failed := failedSensors bound, patternFail := bound.any fun p => p.2.testBit 1, shiftX := shift.1, shiftY := shift.2 }

end Sys2Proof.Machine
end

