-- ==== Sys2Proof/Machine/Voter.lean ====
section
/-! DEFINITION. The checker cluster's lanes and voter: transactions, odd lanes, agreement of inputs and modes (R297-R305). -/

namespace Sys2Proof.Machine

/-! ### Agreement of inputs -/

/-- Classes of agreed input, as a request's address names them: 0 a TMB read, 1 a CSI frame event, 2 a MOTION record, 3 a launch
time (Table 12.2; the codes are DESIGN CHOICE, log 171). -/
abbrev inFrameEvent : Nat := 1
/-- A MOTION record. -/
abbrev inMotion : Nat := 2
/-- A launch time. -/
abbrev inLaunch : Nat := 3

/-- Counts, times and TMB reads (R302): the median of three samples, the lower of two. -/
def agreeCount (l : List Nat) : Nat :=
  match l with
  | [a, b, c] => max (min a b) (min (max a b) c)
  | a :: b :: _ => min a b
  | [a] => a
  | [] => 0

/-- Flags and other values (R302): the majority of three samples, or the lower-numbered lane's of two. Three samples that all differ
have no majority: that value is free. -/
def agreeValue (l : List (Nat × Nat)) : Nat :=
  match l with
  | [a, b, c] => if a.2 = b.2 ∨ a.2 = c.2 then a.2 else if b.2 = c.2 then b.2 else Config.noMajority [a.2, b.2, c.2]
  | a :: b :: _ => if a.1 ≤ b.1 then a.2 else b.2
  | [a] => a.2
  | [] => 0

/-- The result of a round. -/
def Round.result (r : Round) : Nat := if r.addr = inMotion then agreeValue r.samples else agreeCount (r.samples.map fun p => p.2)

/-- The class of a waiting input. -/
def CkcInput.cls : CkcInput → Nat
  | .frameEvent .. => inFrameEvent | .motion .. => inMotion | .launch .. => inLaunch

/-- A MOTION record from its block's number (Table 8.10). -/
def motionOf (v order : Nat) : Motion :=
  { tValid := sext 64 (v % 2 ^ 64), vx := BitVec.ofNat 32 (v / 2 ^ 64), vy := BitVec.ofNat 32 (v / 2 ^ 96),
    vz := BitVec.ofNat 32 (v / 2 ^ 128), yaw := BitVec.ofNat 32 (v / 2 ^ 160), order := order }

/-- The latest of the agreed MOTION records (R311). -/
def laterMotion (o : Option Motion) (m : Motion) : Motion :=
  match o with | some x => if m.tValid < x.tValid then x else m | none => m

/-- The evidence of a judged frame, from its agreed launch time (R310). -/
def State.formEvidence (j : Judge) (launch : Nat) (s : State) : Judge :=
  { j with launch := launch,
           evidence := some (s.evidence j.model j.slot j.gridW (j.tiles / j.gridW) launch j.cycle j.bound) }

/-- An agreed input takes effect in CKC: it is logged, the first waiting input of its class is done, a MOTION record becomes the
latest, and a launch time lets its frame's evidence be formed (R302, R310, R311). -/
def State.takeAgreed (cls v : Nat) (s : State) : State :=
  let first := s.ckc.inputs.find? fun i => i.cls = cls
  let s := s.onCkc fun c => { c with agreed := c.agreed ++ [(cls, v)],
                                     inputs := match first with | some i => c.inputs.erase i | none => c.inputs }
  match first with
  | some (.motion _) => s.onCkc fun c => { c with motion := some (laterMotion c.motion (motionOf v c.agreed.length)) }
  | some (.launch frame _) =>
    s.onCkc fun c => { c with judges := c.judges.map fun j => if j.frame = frame then s.formEvidence j v else j }
  | _ => s

/-- Samples that a round needs: one of each lane that judges (Table 12.3). -/
def Ckc.sampleCount (c : Ckc) : Nat := if c.mode = .tmr then 3 else 2

/-- The rounds that have every sample end, in order. -/
def State.closeRounds (s : State) : State :=
  let full := fun (r : Round) => decide (s.ckc.sampleCount ≤ r.samples.length)
  let ready := s.ckc.rounds.filter full
  ready.foldl (fun s r => s.takeAgreed r.addr r.result) (s.onCkc fun c => { c with rounds := c.rounds.filter fun r => !full r })

/-! ### Checker faults and odd lanes -/

/-- Identical transactions (R299). -/
def LaneTx.same (a b : LaneTx) : Bool := decide (a.kind = b.kind) && decide (a.addr = b.addr) && decide (a.data = b.data)

/-- A CHECKER_SPLIT or CHECKER_JOIN that a checker fault or a failed self-test leaves without an outcome replies HW_FAULT naming CKC. -/
def State.failModeChange (s : State) : State :=
  let a := s.ckc.split.map fun p => p.1
  let b := s.ckc.join
  let s := s.onCkc fun c => { c with split := none, join := none }
  (a.toList ++ b.toList).foldl (fun s pk => s.reply pk stHwFault (unitCode .ckc) 0) s

/-- A checker fault (R301): the safe state latches, CKC halts and becomes suspect. `rule` counts the list of R301 from 1. -/
def State.checkerFault (lane rule : Nat) (s : State) : State :=
  let s := (s.latch latchChecker).setCkcMode .halted 0
  let s := s.onCkc fun c => { c with pres := [], await := [], inputs := [], rounds := [], copying := false, copyDone := false, selfBusy := false }
  s.failModeChange.suspectAtOnce
    { detector := 0x09, unit := .ckc, subunit := lane, cls := 0xFF, address := 0, detail := BitVec.ofNat 32 (lane + 16 * rule) }

/-- A lane was odd within the last 10 s after its rejoin (R301). -/
def State.oddAgain (s : State) (x : Nat) : Bool :=
  match vget s.ckc.rejoined x none with | some t => decide (s.now < t + 10000000000) | none => false

/-- The voter's odd lane (R299, R300): in TMR it is halted for RESYNC; in a pair, or within 10 s of its rejoin, it is a
checker fault. -/
def State.oddLane (x : Nat) (s : State) : State :=
  if s.ckc.mode ≠ .tmr then s.checkerFault x 3
  else
    let again := s.oddAgain x
    let s := s.onCkc fun c => { c with odd := vset c.odd x (satU 8 (vget c.odd x 0 + 1)) }
    let s := s.note 0x1005 sevWarning (unitCode .ckc) x 0 0
    if again then s.checkerFault x 5
    else
      ((s.onCkc fun c => { c with pres := c.pres.filter (fun t => t.lane ≠ x), await := c.await.filter (fun a => a.1.lane ≠ x), copying := true, copyDone := false,
                                  rounds := c.rounds.map fun r => { r with samples := r.samples.filter fun p => p.1 ≠ x } }).setCkcMode
        .resync x).closeRounds

/-! ### Transactions -/

/-- Codes of a transaction's kind, in the order of R299 (DESIGN CHOICE, log 171). -/
abbrev txSramWrite : Nat := 0
/-- An array command. -/
abbrev txArray : Nat := 1
/-- A verdict output. -/
abbrev txVerdict : Nat := 2
/-- A status-unit write. -/
abbrev txStatus : Nat := 3
/-- A request for agreed input. -/
abbrev txAgree : Nat := 4

/-- The lanes that judge: three in TMR, else the pair beside the free or reloading lane (Table 12.3). -/
def Ckc.judging (c : Ckc) (x : Nat) : Bool := c.mode = .tmr || (c.mode ≠ .halted && decide (x ≠ c.lane))

/-- A completed transaction takes effect (R299): an SRAM write stores its 64-bit word, an array command goes to the array of every
lane that judges, a verdict output may be issued, a status-unit write is held there, and a request for agreed input opens a round with
the lanes' samples (R302). -/
def State.txEffect (t mate : LaneTx) (s : State) : State :=
  let s := s.onCkc fun c => { c with completed := c.completed ++ [t] }
  if t.kind = txSramWrite then
    if t.addr + 8 ≤ 0x800000 then s.onFab fun f => f.pokes .ckc t.addr (leBytes 8 t.data) else s
  else if t.kind = txArray then
    s.onCkc fun c => { c with lanes := c.lanes.mapIdx fun i l => if c.judging i then { l with array := l.array ++ [(t.addr, t.data)] } else l }
  else if t.kind = txVerdict then s.onCkc fun c => { c with verdicts := c.verdicts ++ [t.addr] }
  else if t.kind = txStatus then s.onCkc fun c => { c with statusUnit := (t.addr, t.data) :: c.statusUnit.filter fun p => p.1 ≠ t.addr }
  else
    let r : Round := { addr := t.addr, data := t.data, samples := [(mate.lane, mate.sample), (t.lane, t.sample)] }
    (s.onCkc fun c => { c with rounds := c.rounds ++ [r] }).closeRounds

/-- The first presentation that waits is older than 2 µs (R301). -/
def Ckc.overdue (c : Ckc) (n : Nat) : Bool := c.pres.any fun t => decide (t.time + 2000 < n)

/-- Two lanes match: the transaction completes; in TMR the remaining lane is odd if it presented something else, and
otherwise has 2 µs to match (R299). -/
def State.txComplete (tx mate : LaneTx) (s : State) : State :=
  let s := (s.onCkc fun c => { c with pres := c.pres.filter fun t => t.lane ≠ mate.lane }).txEffect tx mate
  if s.ckc.mode = .tmr then
    let third := 3 - tx.lane - mate.lane
    if s.ckc.pres.any fun t => t.lane = third then s.oddLane third
    else s.onCkc fun c => { c with await := c.await ++ [({ tx with lane := third }, s.now + 2000)] }
  else s

/-- A lane presents a transaction that completes nothing of the others (R299, R301). -/
def State.txPresent (tx : LaneTx) (s : State) : State :=
  if s.ckc.pres.any (fun t => t.lane = tx.lane) then s
  else if s.ckc.overdue s.now then s.checkerFault tx.lane (if s.ckc.mode = .tmr then 1 else 3)
  else match s.ckc.pres.find? fun t => t.same tx with
    | some mate => s.txComplete tx mate
    | none =>
      let n := s.ckc.pres.length + 1
      if s.ckc.mode = .tmr ∧ n = 3 then s.checkerFault tx.lane 2
      else if s.ckc.mode ≠ .tmr ∧ n = 2 then s.checkerFault tx.lane 3
      else s.onCkc fun c => { c with pres := c.pres ++ [tx] }

/-- A lane has run up to the transaction that it presents: its registers then are what its firmware computed, which the manual does
not give (free values). -/
def Lane.ran (l : Lane) : Lane :=
  let n := l.count + 1
  { l with x := Vector.ofFn fun (r : Fin 32) => if r.val = 0 then 0#32 else Config.laneReg n r.val, pc := Config.laneReg n 32,
           csrs := Config.laneCsrs n, count := n }

/-- The third lane matches a completed transaction in time; its sample joins the round of a request for agreed input (R299, R302). -/
def State.txFollow (w : LaneTx) (due : Nat) (tx : LaneTx) (s : State) : State :=
  (s.onCkc fun c =>
    { c with await := c.await.erase (w, due),
             rounds := if tx.kind = txAgree then
                 c.rounds.map fun r => if r.addr = tx.addr && r.data = tx.data && !r.samples.any (fun p => p.1 = tx.lane) then
                   { r with samples := r.samples ++ [(tx.lane, tx.sample)] } else r
               else c.rounds }).closeRounds

/-- VOTER_TRANSACTION (R299): a lane presents a transaction at count `t`, with its sample where it requests agreed input; `eccFail`
reports an uncorrectable error of the CKC SRAM access (R301). -/
def doVoterTransaction (lane : Fin 3) (kind addr data sample t : Nat) (eccFail : Bool) (s : State) : State :=
  if !(s.pins.rstN && s.ckc.judging lane.val) then s else
  let s := s.advance t
  if eccFail then s.checkerFault lane.val 4 else
  let s := s.onCkc fun c => { c with lanes := vset c.lanes lane.val (vget c.lanes lane.val Lane.start).ran }
  let tx : LaneTx := { lane := lane.val, kind := kind, addr := addr, data := data, sample := sample, time := s.now }
  match s.ckc.await.find? fun a => a.1.lane = lane.val with
  | some (w, due) => if w.same tx && decide (s.now ≤ due) then s.txFollow w due tx else s.oddLane lane.val
  | none => s.txPresent tx
/-- VOTER_TRANSACTION (R299). -/
def execVoterTransaction (lane : Fin 3) (kind addr : Nat) (data : LaneWord) (t : Nat) (eccFail : Bool) (s : State) : Out :=
  .next (doVoterTransaction lane kind addr data.value data.sample t eccFail s)

/-- ODD_LANE_TIMEOUT (R299, R301): 2 µs pass without the lane's match; where no two lanes have matched, or the lane is one
of a pair, that is a checker fault. -/
def doOddLaneTimeout (lane : Fin 3) (s : State) : State :=
  if !(s.pins.rstN && s.ckc.judging lane.val) then s else
  match s.ckc.await.find? fun a => a.1.lane = lane.val with
  | some (_, due) => (s.advance due).oddLane lane.val
  | none =>
    match s.ckc.pres.head? with
    | some t =>
      if t.lane = lane.val then s
      else
        let s := s.advance (t.time + 2000)
        s.checkerFault lane.val (if s.ckc.mode = .tmr then 1 else 3)
    | none => s
/-- ODD_LANE_TIMEOUT (R299). -/
def execOddLaneTimeout (lane : Fin 3) (s : State) : Out := .next (doOddLaneTimeout lane s)

/-! ### RESYNC, SPLIT and JOIN -/

/-- The agreed state of the pair beside lane `x`: its lower-numbered lane's. -/
def Ckc.pairState (c : Ckc) (x : Nat) : Lane := vget c.lanes (if x = 0 then 1 else 0) Lane.start

/-- RESYNC_COPY_COMPLETE (R300): the pair's registers, control and status registers, array weights and feeder state are in the halted
lane. -/
def doResyncCopyComplete (s : State) : State :=
  if s.pins.rstN && s.ckc.mode = .resync && s.ckc.copying then
    s.onCkc fun c => { c with copying := false, copyDone := true, lanes := vset c.lanes c.lane (c.pairState c.lane) }
  else s
/-- RESYNC_COPY_COMPLETE (R300). -/
def execResyncCopyComplete (s : State) : Out := .next (doResyncCopyComplete s)

/-- No frame is running (R304): no frame program runs and no launch is placed. -/
def State.noFrame (s : State) : Bool := !s.ctr.prog.running && s.ctr.placed.isNone

/-- A frame boundary, or no frame running: a pending split takes effect in TMR (R304). -/
def State.splitBoundary (s : State) : State :=
  match s.ckc.split with
  | none => s
  | some (pk, x) =>
    if s.ckc.mode = .tmr then
      let s := s.onCkc fun c => { c with split := none, selfBusy := true, pres := c.pres.filter (fun t => t.lane ≠ x),
                                         await := c.await.filter (fun a => a.1.lane ≠ x),
                                         rounds := c.rounds.map fun r => { r with samples := r.samples.filter fun p => p.1 ≠ x } }
      ((s.setCkcMode .split x).closeRounds).done pk 0
    else s

/-- A band boundary (R300): a lane whose copy is complete rejoins, all three lanes restarting from the same instruction, and
CHECKER_JOIN gets its reply (R305); a split that waited for the rejoin then waits for the next frame boundary, or takes effect with no
frame running (R304). -/
def State.bandBoundary (s : State) : State :=
  if s.ckc.mode = .resync && s.ckc.copyDone then
    let x := s.ckc.lane
    let join := s.ckc.join
    let s := s.onCkc fun c =>
      { c with copyDone := false, join := none, pres := [], await := [], lanes := Vector.replicate 3 (c.pairState x),
               rejoined := if join.isNone then vset c.rejoined x (some s.now) else c.rejoined }
    let s := s.setCkcMode .tmr 0
    let s := match join with
      | some pk => s.done pk 0
      | none => s
    if s.noFrame then s.splitBoundary else s
  else s

/-- A frame is emitting: its slot 0 has opened and its trailer has not been emitted (Table 18.7). -/
def Emt.emitting (e : Emt) : Bool := match e.frames.head? with | some f => decide (0 < f.nextSlot) | none => false

/-- BAND_BOUNDARY (R300): a multiple of 128 µs of TMB while no frame is emitting. -/
def doBandBoundary (s : State) : State :=
  if s.pins.rstN && s.ckc.mode ≠ .halted && !s.emt.emitting then
    let s := s.advance ((s.ckc.bandAt / 128000 + 1) * 128000)
    (s.onCkc fun c => { c with bandAt := s.now }).bandBoundary
  else s
/-- BAND_BOUNDARY (R300). -/
def execBandBoundary (s : State) : Out := .next (doBandBoundary s)

/-- CHECKER_SPLIT (R304). -/
def doCheckerSplit (ring : Nat) (s : State) : State :=
  s.runPacket ring 0x90 fun pk s =>
    let x := pk.u 0x10 1
    if s.ckc.mode ≠ .tmr ∨ s.ckc.split.isSome then s.bad pk 0
    else if 2 < x then s.bad pk 0x10
    else
      let s := s.onCkc fun c => { c with split := some (pk, x) }
      if s.noFrame then s.splitBoundary else s
/-- CHECKER_SPLIT (R304). -/
def execCheckerSplit (ring : Nat) (s : State) : Out := .next (doCheckerSplit ring s)

/-- The free lane is reloaded (R305). -/
def State.startJoin (s : State) : State :=
  (s.onCkc fun c => { c with copying := true, copyDone := false }).setCkcMode .resync s.ckc.lane

/-- CHECKER_JOIN (R305): after the free lane's self-test has passed. -/
def doCheckerJoin (ring : Nat) (s : State) : State :=
  s.runPacket ring 0x91 fun pk s =>
    if s.ckc.mode ≠ .split ∨ s.ckc.join.isSome then s.bad pk 0
    else
      let s := s.onCkc fun c => { c with join := some pk }
      if !s.ckc.selfBusy && s.ckc.selfPassed then s.startJoin else s
/-- CHECKER_JOIN (R305). -/
def execCheckerJoin (ring : Nat) (s : State) : Out := .next (doCheckerJoin ring s)

/-- LANE_SELFTEST (R304): a failure makes CKC suspect, and a waiting CHECKER_JOIN ends (DEDUCED, log 176); a pass lets a waiting CHECKER_JOIN proceed (R305). -/
def doLaneSelftest (pass : Bool) (s : State) : State :=
  if !(s.pins.rstN && s.ckc.selfBusy) then s else
  let x := s.ckc.lane
  let s := s.onCkc fun c => { c with selfBusy := false, selfPassed := pass }
  let s := s.note 0x1006 sevNotice (unitCode .ckc) x (if pass then 0 else 1) 0
  if pass then (if s.ckc.join.isSome then s.startJoin else s)
  else s.failModeChange.suspectAtOnce { detector := 0x0A, unit := .ckc, subunit := x, cls := 0xFF, address := 0, detail := BitVec.ofNat 32 x }
/-- LANE_SELFTEST (R304). -/
def execLaneSelftest (pass : Bool) (s : State) : Out := .next (doLaneSelftest pass s)

/-- CKC_ALIVE (Table 12.11): every 100 µs of TMB the voted lanes count on. -/
def doCkcAlive (s : State) : State :=
  if s.pins.rstN && s.ckc.mode ≠ .halted then
    let s := s.advance ((s.now / 100000 + 1) * 100000)
    s.onSaf fun x => { x with alive := (x.alive + 1) % 2 ^ 16 }
  else s
/-- CKC_ALIVE (R325). -/
def execCkcAlive (s : State) : Out := .next (doCkcAlive s)

end Sys2Proof.Machine
end

