-- ==== Sys2Proof/Machine/Checker.lean ====
section
/-! DEFINITION. The checks of Table 12.6 on the records of the tap (R311). -/

namespace Sys2Proof.Machine

/-! ### Records on the tap -/

/-- REASONS bits (Table 9.6). -/
abbrev rPlausibility : Nat := 0x001
/-- TEMPORAL. -/
abbrev rTemporal : Nat := 0x002
/-- RECORD_CRC. -/
abbrev rRecordCrc : Nat := 0x004
/-- LATE_TILES. -/
abbrev rLateTiles : Nat := 0x008
/-- PATTERN_FAIL. -/
abbrev rPatternFail : Nat := 0x010
/-- CHECKER_LATE. -/
abbrev rCheckerLate : Nat := 0x020
/-- SAFE_STATE. -/
abbrev rSafeState : Nat := 0x040
/-- HW_FAULT. -/
abbrev rHwFault : Nat := 0x080
/-- OBJECTS_LATE. -/
abbrev rObjectsLate : Nat := 0x100

/-- The chained CRC of a record whose CRC field lies at `off` (R238); an object list's entries follow its CRC field. -/
def chainCrc (prev : Nat) (b : List Byte) (off : Nat) : Nat := crc32c (leBytes 4 prev ++ b.take off ++ b.drop (off + 4))

/-- The cells' OCC values (Table 9.3). -/
def recOcc (b : List Byte) : List Nat := (List.range 16).map fun i => recLe b (0x20 + 12 * i) 1

/-- The heights of cell `i`: (bottom, top); format 1 has one height. -/
def recHeights (fmt : Nat) (b : List Byte) (i : Nat) : Int × Int :=
  let o := 0x20 + 12 * i
  if fmt = 2 then (sext 16 (recLe b (o + 6) 2), sext 16 (recLe b (o + 4) 2))
  else (sext 16 (recLe b (o + 2) 2), sext 16 (recLe b (o + 2) 2))

/-- The previous frame's mean at the ego-shifted position; none outside the grid (Table 12.6). -/
def Judge.prevMean (j : Judge) (e : Evidence) (prev : List Nat) (t : Nat) : Option Nat :=
  let x := ((t % j.gridW : Nat) : Int) + e.shiftX
  let y := ((t / j.gridW : Nat) : Int) + e.shiftY
  if x < 0 ∨ (j.gridW : Int) ≤ x ∨ y < 0 ∨ ((j.tiles / j.gridW : Nat) : Int) ≤ y then none
  else prev[(y * j.gridW + x).toNat]?

/-- The REASONS bits that checks C1 to C5 of Table 12.6 give a record. -/
def Judge.tileReasons (j : Judge) (e : Evidence) (prev : List Nat) (cover : Nat) (t : Nat) (b : List Byte) : Nat :=
  let m := j.model
  let occ := recOcc b
  let f := e.ground.getD t 0
  let o := e.obst.getD t 0
  let p := (e.prior[t]?).join
  let mean := occ.sum / 16
  let c1 := occ.all (fun v => decide (v < m.occFree)) && decide (m.obstMin ≤ o)
  let full := (List.range 16).filter fun i => decide (m.occOcc ≤ occ.getD i 0)
  let weak := match p with | some v => decide (v < m.priorMin) | none => true
  let c2 := decide (m.ghostCells ≤ full.length) && decide (m.freeMin ≤ f) && decide (o = 0) && weak
  let c3 := full.any fun i => let h := recHeights j.format b i; decide (h.1 < m.hMin) || decide (m.hMax < h.2)
  let c4 := j.hasPrev && match j.prevMean e prev t with
    | none => false
    | some q => (decide (q + m.tempDelta < mean) && decide (o < m.obstMin)) || (decide (mean + m.tempDelta < q) && decide (f < m.freeMin))
  let bad := e.failed.toNat &&& cover
  let deg := recLe b 0x1C 4
  let c5 := decide (bad ≠ 0) && (!(recLe b 1 1).testBit 3 || decide (bad &&& deg ≠ bad))
  (if c1 || c2 || c3 || c5 then rPlausibility else 0) + (if c4 then rTemporal else 0)

/-- Add REASONS bits to a band of a judgement. -/
def Judge.addReason (j : Judge) (band bits : Nat) : Judge :=
  if bits = 0 then j else { j with reasons := (band, bits) :: j.reasons }

/-- The REASONS of a band so far. -/
def Judge.bandReasons (j : Judge) (band : Nat) : Nat := (j.reasons.filter fun r => r.1 = band).foldl (fun a r => a ||| r.2) 0

/-- The judgement that a predicate selects is updated. -/
def Ckc.onJudge (c : Ckc) (frame : Nat) (f : Judge → Judge) : Ckc :=
  { c with judges := c.judges.map fun j => if j.frame = frame then f j else j }

/-- The judgement that the next tile record of the tap belongs to, with its evidence, once that is formed (R310). -/
def Ckc.tileJudge (c : Ckc) : Option (Judge × Evidence) :=
  match c.judges.find? fun j => decide (j.occMeans.length < j.tiles) with
  | none => none
  | some j => j.evidence.map fun e => (j, e)

/-- The frame of the next tile record has no evidence yet: its launch time has not been agreed (R302, R310). -/
def Ckc.awaitsEvidence (c : Ckc) : Bool :=
  match c.judges.find? fun j => decide (j.occMeans.length < j.tiles) with
  | none => false
  | some j => j.evidence.isNone

/-- A tile record on the tap: C6, and C1 to C5 unless it is LATE or not VALID (R311). -/
def State.checkTile (b : List Byte) (s : State) : State :=
  match s.ckc.tileJudge with
  | none => s
  | some (j, e) =>
    let c := s.ckc
    let t := j.occMeans.length
    let ok := decide (recLe b 0xFC 4 = chainCrc c.expCrc.1.toNat b 0xFC) && decide (recLe b 0 1 = j.format) &&
      decide (recLe b 2 2 = t) && decide (recLe b 4 4 = j.frame) && decide (recLe b 0x10 4 = c.expSeq.1)
    let fl := recLe b 1 1
    let cover := memLe s.fab.ckcRam (j.modelAddr + j.model.coverOff + 4 * t) 4
    let bits := if fl.testBit 2 || !fl.testBit 0 then 0 else j.tileReasons e c.prevOcc cover t b
    let j' := { j with mask := if bits = 0 then j.mask else t :: j.mask, badCrc := if ok then j.badCrc else t :: j.badCrc,
                       occMeans := j.occMeans ++ [(recOcc b).sum / 16] }
    let j' := (j'.addReason (t / 64) bits).addReason (t / 64) (if ok then 0 else rRecordCrc)
    s.onCkc fun c =>
      { c.onJudge j.frame (fun _ => j') with
        expSeq := ((recLe b 0x10 4 + 1) % 2 ^ 32, c.expSeq.2), expCrc := (BitVec.ofNat 32 (recLe b 0xFC 4), c.expCrc.2),
        prevOcc := if j'.occMeans.length = j'.tiles then j'.occMeans else c.prevOcc }

/-- An object list on the tap: C6 (R311, R313). -/
def State.checkObjects (b : List Byte) (s : State) : State :=
  let c := s.ckc
  let ok := decide (recLe b 0x3C 4 = chainCrc c.expCrc.2.1.toNat b 0x3C) && decide (recLe b 0x10 4 = c.expSeq.2.1) &&
    c.judges.any fun j => decide (j.frame = recLe b 4 4) && decide (j.format = recLe b 0 1)
  let c' := if ok then c else match c.judges.head? with
    | some j => c.onJudge j.frame fun j => { j with objBad := true }
    | none => c
  s.onCkc fun _ =>
    { c' with expSeq := (c.expSeq.1, (recLe b 0x10 4 + 1) % 2 ^ 32, c.expSeq.2.2),
              expCrc := (c.expCrc.1, BitVec.ofNat 32 (recLe b 0x3C 4), c.expCrc.2.2) }

/-- A verdict record on the tap: a break of its chain makes its frame, or after a trailer the next launched frame,
INVALID, and is a safety event, for which Table 17.4 has FRAME_INVALID (R311; DEDUCED, log 174). -/
def State.checkVerdict (b : List Byte) (s : State) : State :=
  let c := s.ckc
  let ok := decide (recLe b 0xFC 4 = chainCrc c.expCrc.2.2.toNat b 0xFC) && decide (recLe b 0x10 4 = c.expSeq.2.2)
  let c' := if ok then c
    else if recLe b 1 1 = 2 then { c with nextBad := true }
    else c.onJudge (recLe b 4 4) fun j => { j with chainBad := true }
  let s := if ok then s else s.note 0x1003 sevWarning noUnit (recLe b 4 4) rRecordCrc 0
  s.onCkc fun _ =>
    { c' with expSeq := (c.expSeq.1, c.expSeq.2.1, (recLe b 0x10 4 + 1) % 2 ^ 32),
              expCrc := (c.expCrc.1, c.expCrc.2.1, BitVec.ofNat 32 (recLe b 0xFC 4)) }

/-- TILE_RECORD_CHECK (R311): CKC takes the next record of the tap, a tile record once its frame's evidence is formed; `arrived` is
what the tap carried if a fault changed it on the way. -/
def doTileRecordCheck (arrived : Option (List Byte)) (s : State) : State :=
  match s.emt.tap with
  | [] => s
  | (st, b) :: rest =>
    if !(s.pins.rstN && s.ckc.mode ≠ .halted) || (st = .tile && s.ckc.awaitsEvidence) then s else
    let s := s.onEmt fun e => { e with tap := rest }
    let b := arrived.getD b
    match st with
    | .tile => s.checkTile b
    | .object => s.checkObjects b
    | .verdict => s.checkVerdict b
/-- TILE_RECORD_CHECK (R311). -/
def execTileRecordCheck (arrived : Option (List Byte)) (s : State) : Out := .next (doTileRecordCheck arrived s)

end Sys2Proof.Machine
end

