-- ==== Sys2Proof/Machine/Emitter.lean ====
section
/-! DEFINITION. The result stream (chapter 9) and the verdicts (R312-R314): slots, LATE records, object lists, verdict
records, trailers and delivery to host rings. -/

namespace Sys2Proof.Machine

/-! ### Streams -/

/-- The ring kind of a stream (Table 9.1). -/
def streamKind : Stream → RingKind
  | .tile => .tileStream | .object => .objectStream | .verdict => .verdictStream
/-- Its code (Table 10.3). -/
def streamCode : Stream → Nat
  | .tile => 3 | .object => 4 | .verdict => 5
/-- Records an outbound queue holds (R228). -/
def streamQueue : Stream → Nat
  | .tile => 256 | .object => 2 | .verdict => 64
/-- The state of a stream. -/
def Emt.get (e : Emt) : Stream → StreamSt
  | .tile => e.tile | .object => e.object | .verdict => e.verdict
/-- Replace the state of a stream. -/
def Emt.put (e : Emt) (st : Stream) (x : StreamSt) : Emt :=
  match st with
  | .tile => { e with tile := x } | .object => { e with object := x } | .verdict => { e with verdict := x }
/-- The host ring of a stream. -/
def Cpx.streamRing (c : Cpx) (st : Stream) : Option Ring := c.rings.find? fun r => r.kind = streamKind st

/-- An undelivered record (R228). -/
def State.dropRecord (st : Stream) (frame : Nat) (s : State) : State :=
  (s.onEmt fun e => { e with dropsTrailer := satU 16 (e.dropsTrailer + 1), dropsReg := satU 32 (e.dropsReg + 1) }).note
    0x7001 sevWarning (unitCode .emt) (streamCode st) frame 0

/-- EMT emits a record whose CRC field lies at `off`: numbered, chained, onto the tap and into the host queue (R228,
R232, R238, R239), which takes nothing while PD45 is off (R380). The record's bytes come with STREAM_SEQ and CRC still zero. -/
def State.emitRecord (st : Stream) (off frame : Nat) (b : List Byte) (s : State) : State :=
  let x := s.emt.get st
  let b := b.take 0x10 ++ leBytes 4 x.seq ++ b.drop 0x14
  let crc := chainCrc x.crc.toNat b off
  let b := b.take off ++ leBytes 4 crc ++ b.drop (off + 4)
  let room := s.pwr.domains.getLsbD 45 && (s.cpx.streamRing st).isSome && decide (x.queue.length < streamQueue st)
  let s := s.onEmt fun e =>
    { e.put st { x with seq := (x.seq + 1) % 2 ^ 32, crc := BitVec.ofNat 32 crc, queue := if room then x.queue ++ [b] else x.queue } with
      tap := if s.ckc.mode = .halted then e.tap else e.tap ++ [(st, b)] }
  if room then s else s.dropRecord st frame

/-- RECORD_DELIVERY (R228, R227): the oldest queued record goes to its ring when an entry is free; the device tail
advances after every 8 tile records and after every other record. -/
def doRecordDelivery (st : Stream) (s : State) : State :=
  let x := s.emt.get st
  match x.queue, s.cpx.streamRing st with
  | b :: rest, some r =>
    if !(s.pins.rstN && s.hif.linkUp) || decide (r.entries ≤ r.used + x.tailPend) then s
    else
      let n := x.tailPend + 1
      let s := s.post (.record r.id (r.entryAddr (r.tail + x.tailPend)) b)
      if st = .tile ∧ n < 8 then s.onEmt fun e => e.put st { x with queue := rest, tailPend := n }
      else
        let s := s.onEmt fun e => e.put st { x with queue := rest, tailPend := 0 }
        let r' := { r with tail := (r.tail + n) % 2 ^ 32, sinceMsg := r.sinceMsg + n }
        let s := s.onCpx fun c => c.putRing r'
        (s.post (r'.block r'.tail)).ringMessage r.id (!rest.isEmpty)
  | _, _ => s
/-- RECORD_DELIVERY (R228). -/
def execRecordDelivery (st : Stream) (s : State) : Out := .next (doRecordDelivery st s)

/-! ### The frame that emits -/

/-- Replace the frame that emits. -/
def Emt.setHead (e : Emt) (f : EmitFrame) : Emt := { e with frames := f :: e.frames.drop 1 }
/-- The TMB count of slot position `k` (R230). -/
def EmitFrame.slotAt (f : EmitFrame) (k : Nat) : Nat := f.launch + f.offset + k * f.cadNs
/-- Bands of the grid. -/
def EmitFrame.bands (f : EmitFrame) : Nat := f.tiles / 64
/-- Parity of a frame's slots (R50). -/
def EmitFrame.parity (f : EmitFrame) : Nat := f.frame % 2
/-- LATE_LIMIT in force; 0 means 64 (Table 12.5). -/
def EmitFrame.lateLimit (f : EmitFrame) : Nat := if f.model.lateLimit = 0 then 64 else f.model.lateLimit

/-- Bit `i` of the flags byte, when it holds. -/
def flagBit (i : Nat) (b : Bool) : Nat := if b then 2 ^ i else 0

/-- The 256 bytes of a tile record before its number and CRC (Table 9.2, R233, R234, R236). `src` is the committed record. -/
def tileRecord (f : EmitFrame) (k : Nat) (slotTime : Int) (safe : Bool) (src : Option (List Byte)) : List Byte :=
  let head := fun (flags : Nat) => leBytes 1 f.format ++ leBytes 1 flags ++ leBytes 2 k ++ leBytes 4 f.frame ++
    leBytes 8 (codeOf 64 slotTime) ++ leBytes 4 0
  match src with
  | none => head (flagBit 2 true + flagBit 4 safe) ++ List.replicate 8 0xFF#8 ++ List.replicate 228 0#8
  | some b =>
    let fl := recLe b 1 1
    let valid := fl.testBit 0 && !safe
    let extra := if f.format = 2 then (b.drop 0xE0).take 16 else List.replicate 16 0#8
    head (flagBit 0 valid + flagBit 1 valid + flagBit 3 (fl.testBit 3) + flagBit 4 safe) ++
      (if safe then List.replicate 8 0xFF#8 else (b.drop 0x14).take 8) ++ (b.drop 0x1C).take 4 ++
      (if safe then List.replicate 192 0#8 else (b.drop 0x20).take 192) ++ extra ++ List.replicate 16 0#8

/-- COUNT of an object list: the entries before the first without PRESENT (R241). -/
def objCountOf (slot : List Byte) : Nat :=
  ((List.range 512).takeWhile fun i => ((slot.drop (32 * i)).headD 0).getLsbD 0).length

/-- EMT emits the frame's object list (R241): `slot` is the committed list, `late` sets LATE. -/
def State.emitObjects (f : EmitFrame) (slot : Option (List Byte)) (late : Bool) (s : State) : State :=
  let safe := s.saf.latched
  let n := match slot with | some b => if safe then 0 else objCountOf b | none => 0
  let ok := slot.isSome && !safe
  let b := leBytes 1 f.format ++ leBytes 1 (flagBit 0 ok + flagBit 1 ok + flagBit 2 late + flagBit 4 safe) ++ leBytes 2 n ++
    leBytes 4 f.frame ++ leBytes 8 (codeOf 64 s.vnow) ++ List.replicate 48 0#8 ++
    (match slot with | some x => x.take (32 * n) | none => [])
  let s := s.emitRecord .object 0x3C f.frame b
  s.onEmt fun e =>
    { e with objFull := e.objFull.filter fun p => p ≠ f.parity,
             frames := e.frames.map fun g => if g.frame = f.frame then
               { g with objDone := true, objLate := late, objCount := n, objOwed := slot.isNone } else g }

/-- The committed object list of a frame. -/
def State.objectSlot (s : State) (f : EmitFrame) : Option (List Byte) :=
  match f.objAt with
  | some (sp, a) => if s.emt.objFull.contains f.parity then some (s.fab.peeks sp a 16384) else none
  | none => none

/-- SLOT_OPEN (R231-R236, R241): the next slot of the frame that emits. The LATE record over the limit latches the safe
state and is itself marked (R316). -/
def doSlotOpen (s : State) : State :=
  match s.emt.frames with
  | [] => s
  | f :: _ =>
    let k := f.nextSlot
    if !s.pins.rstN || decide (f.tiles ≤ k) || decide (64 * f.nextBand + 66 < k) then s else
    let s := s.advance (f.slotAt k)
    let s := if k = 0 && f.hasObj && (s.objectSlot f).isSome then s.emitObjects f (s.objectSlot f) false else s
    let full := s.emt.full.contains (f.parity, k)
    let late := if full then f.lateTiles else k :: f.lateTiles
    let s := if !full && decide (late.length = f.lateLimit + 1) then s.latch latchLateLimit else s
    match s.emt.frames with
    | [] => s
    | f :: _ =>
      let safe := s.saf.latched
      let src := if full then some (s.fab.peeks f.tileAt.1 (f.tileAt.2 + 256 * k) 256) else none
      let b := tileRecord f k (vehicleTime s.tim (f.slotAt k)) safe src
      let deg := (recLe b 1 1).testBit 3
      let seq := s.emt.tile.seq
      let s := s.onEmt fun e =>
        { e.setHead { f with nextSlot := k + 1, lateTiles := late, owed := if full then f.owed else k :: f.owed,
                             degraded := if deg then k :: f.degraded else f.degraded,
                             firstSeq := if k = 0 then seq else f.firstSeq,
                             bandSeqs := if k % 64 = 0 then f.bandSeqs ++ [seq] else f.bandSeqs,
                             safeSeen := f.safeSeen || safe } with
          full := e.full.filter fun p => p ≠ (f.parity, k), lastFrame := f.frame, lastSlot := k, lastLate := late.length,
          lastLateCommits := f.lateCommits }
      s.emitRecord .tile 0xFC f.frame b
/-- SLOT_OPEN (R231). -/
def execSlotOpen (s : State) : Out := .next (doSlotOpen s)

/-! ### Band verdicts -/

/-- Tiles of a list that a band holds. -/
def bandCount (l : List Nat) (band : Nat) : Nat := (l.filter fun t => t / 64 = band).length

/-- The 256 bytes of a verdict record before its number and CRC (Table 9.6); `tail` holds bytes 0x28 to 0xD7. -/
def State.verdictRecord (s : State) (f : EmitFrame) (kind band : Nat) (invalid : Bool) (reasons late deg first mask : Nat)
    (tail : List Byte) : List Byte :=
  leBytes 1 f.format ++ leBytes 1 kind ++ leBytes 2 band ++ leBytes 4 f.frame ++ leBytes 8 (codeOf 64 s.vnow) ++ leBytes 4 0 ++
    leBytes 1 (if invalid then 1 else 0) ++ leBytes 1 s.ckc.mode.code ++ leBytes 2 reasons ++ leBytes 2 (satU 16 late) ++
    leBytes 2 (satU 16 deg) ++ leBytes 4 first ++ leBytes 8 mask ++ tail ++ List.replicate 40 0#8

/-- EMT emits the verdict of the next band of the frame that emits (R242); its issue is a band boundary (R300). -/
def State.emitBand (f : EmitFrame) (invalid : Bool) (reasons mask : Nat) (s : State) : State :=
  let b := f.nextBand
  let rec_ := s.verdictRecord f 1 b invalid reasons (bandCount f.lateTiles b) (bandCount f.degraded b) (f.bandSeqs.getD b 0) mask
    (List.replicate 176 0#8)
  let s := s.onEmt fun e =>
    e.setHead { f with nextBand := b + 1, bandInvalid := f.bandInvalid + (if invalid then 1 else 0), reasons := f.reasons ||| reasons }
  (s.emitRecord .verdict 0xFC f.frame rec_).bandBoundary

/-- REASONS that the emitter knows of a band: LATE tiles, replayed steps, the safe state (Table 9.6). -/
def State.bandKnown (s : State) (f : EmitFrame) (b : Nat) : Nat :=
  (if bandCount f.lateTiles b = 0 then 0 else rLateTiles) + (if f.hwBands.contains b then rHwFault else 0) +
    (if s.saf.latched then rSafeState else 0)

/-- VERDICT_DEADLINE (R242): no CKC verdict by slot position 64b + 66. -/
def doVerdictDeadline (s : State) : State :=
  match s.emt.frames with
  | [] => s
  | f :: _ =>
    let b := f.nextBand
    if s.pins.rstN && decide (b < f.bands) && decide (64 * (b + 1) ≤ f.nextSlot) then
      let s := s.advance (f.slotAt (64 * b + 66))
      s.emitBand f true (rCheckerLate + s.bandKnown f b) 0
    else s
/-- VERDICT_DEADLINE (R242). -/
def execVerdictDeadline (s : State) : Out := .next (doVerdictDeadline s)

/-- A bound camera slot of the judged frame has PATTERN_FAIL (R313). -/
def Judge.patternFail (j : Judge) : Bool := j.bound.any fun p => p.2.testBit 1

/-- The address of a verdict output transaction (R299): the frame's number and the band, 0xFFFF for the frame's own verdict (DESIGN
CHOICE, log 171). -/
def verdictAddr (frame band : Nat) : Nat := frame * 65536 + band

/-- CKC's next band to judge is complete on the tap. -/
def Judge.ready (j : Judge) : Bool := decide (64 * j.bandsIssued < j.tiles) && decide (64 * (j.bandsIssued + 1) ≤ j.occMeans.length)

/-- BAND_VERDICT (R312): CKC issues the verdict of its next band, whose output two lanes have agreed on (R299); one that comes after EMT's own is discarded (R242). -/
def doBandVerdict (s : State) : State :=
  match s.ckc.judges.find? Judge.ready with
  | none => s
  | some j =>
    let b := j.bandsIssued
    if !(s.pins.rstN && s.ckc.mode ≠ .halted && s.ckc.verdicts.contains (verdictAddr j.frame b)) then s else
    let s := s.onCkc fun c =>
      { c.onJudge j.frame (fun j => { j with bandsIssued := b + 1 }) with verdicts := c.verdicts.erase (verdictAddr j.frame b) }
    match s.emt.frames.head? with
    | none => s.note 0x2007 sevWarning (unitCode .ckc) j.frame b 0
    | some f =>
      if f.frame ≠ j.frame ∨ f.nextBand ≠ b then s.note 0x2007 sevWarning (unitCode .ckc) j.frame b 0
      else
        let here := j.mask.filter fun t => t / 64 = b
        let crcBad := j.badCrc.any fun t => t / 64 = b
        let invalid := decide (j.model.bandLimit < here.length) || crcBad || s.saf.latched
        let reasons := j.bandReasons b ||| s.bandKnown f b ||| (if j.patternFail then rPatternFail else 0)
        s.emitBand f invalid reasons ((here.map fun t => 2 ^ (t % 64)).sum)
/-- BAND_VERDICT (R312). -/
def execBandVerdict (s : State) : Out := .next (doBandVerdict s)

/-! ### Frame verdict and trailer -/

/-- CKC's frame verdict from what it has seen (R313). -/
def frameVerdict (j : Judge) (f : EmitFrame) : Bool × Nat :=
  let crc := !j.badCrc.isEmpty || j.objBad || j.chainBad
  let bad := decide (j.model.frameBandLimit ≤ f.bandInvalid) || j.patternFail || crc ||
    decide (f.lateLimit < f.lateTiles.length) || f.unreplayed
  (bad, (if crc then rRecordCrc else 0) + (if j.patternFail then rPatternFail else 0))

/-- The frame enters the history of the last 8 frames (R314). -/
def Saf.addHistory (x : Saf) (frame : Nat) : Saf :=
  if frame < x.histFrom then x
  else { x with history := frame :: x.history.filter fun n => decide (n ≠ frame) && decide (frame < n + 8) }

/-- FRAME_VERDICT (R313, R314): CKC issues the frame verdict, once two lanes have agreed on its output and the last band verdict is out; after the trailer it is
discarded (R243). An INVALID verdict enters the history. -/
def doFrameVerdict (s : State) : State :=
  match s.ckc.judges.find? fun j => decide (64 * j.bandsIssued = j.tiles) && j.verdict.isNone with
  | none => s
  | some j =>
    if !(s.pins.rstN && s.ckc.mode ≠ .halted && s.ckc.verdicts.contains (verdictAddr j.frame 0xFFFF)) then s else
    let s := s.onCkc fun c => { c with verdicts := c.verdicts.erase (verdictAddr j.frame 0xFFFF) }
    match s.emt.frames.find? fun f => f.frame = j.frame with
    | none =>
      (s.onCkc fun c => { c with judges := c.judges.filter fun x => x.frame ≠ j.frame }).note 0x2007 sevWarning (unitCode .ckc) j.frame 0xFFFF 0
    | some f =>
      let v := frameVerdict j f
      let s := s.onCkc fun c => c.onJudge j.frame fun j => { j with verdict := some v }
      if v.1 && decide (f.reasons ||| v.2 ≠ rSafeState) then s.onSaf fun x => x.addHistory j.frame else s
/-- FRAME_VERDICT (R313). -/
def execFrameVerdict (s : State) : Out := .next (doFrameVerdict s)

/-- The STATUS word of a sensor that the frame did not bind: its last commit, or ABSENT before any (R244). -/
def State.sensorWord (s : State) (i : Nat) : Word :=
  match s.sen.ring? i with
  | none => 0x80000000#32
  | some r =>
    match r.last with
    | some _ => BitVec.ofNat 32 (r.status % 2048 + (r.seq % 8192) * 2048)
    | none =>
      let up := if i < 24 then (match vget s.sen.cameras i none with | some c => s.sen.csiUp.getLsbD c.port | none => false)
                else (match vget s.sen.lidars (i - 24) none with | some l => s.sen.ethUp.getLsbD l.port | none => false)
      BitVec.ofNat 32 (1 + (if up then 0 else 2 ^ 7))

/-- The trailer's 32 sensor words: as bound at the launch, else as they are (R244). -/
def State.sensorWords (s : State) (f : EmitFrame) : List Nat :=
  (List.range 32).map fun i =>
    let w := f.sensors.getD i 0
    if w.getLsbD 30 then w.toNat else (s.sensorWord i).toNat

/-- The state after a trailer: the SAF_ fields, the history and its latch (R314, R316), the release that waits for this
trailer (R320), FRAME_ALIVE (R323). -/
def State.afterTrailer (f : EmitFrame) (invalid : Bool) (reasons : Nat) (s : State) : State :=
  let s := s.onSaf fun x => { x with lastInvalid := invalid, lastFrame := f.frame, lastReasons := reasons,
                                     lateLast := satU 16 f.lateTiles.length }
  let s := s.onPins fun p => { p with frameAlive := !p.frameAlive }
  let counts := invalid && decide (reasons ≠ rSafeState) && decide (s.saf.histFrom ≤ f.frame)
  let s := if invalid then s.note 0x1003 sevWarning noUnit f.frame reasons 0 else s
  let s := if counts then s.onSaf fun x => x.addHistory f.frame else s
  let second := counts && s.saf.history.any fun n => decide (n ≠ f.frame) && decide (f.frame < n + 8)
  let s := if second then s.latch latchTwoInEight else s
  if s.saf.relPending && s.saf.relFrame = some f.frame then s.unlatch else s

/-- STOP_FRAMES replies after the trailer of its frame; with ABORT an unfinished program is stopped first (R276, R277). -/
def State.stopReply (s : State) : State :=
  match s.cpx.stop with
  | none => s
  | some r =>
    if !(s.emt.frames.any fun f => f.frame = r.frame) && !(r.abort && s.ctr.prog.running) then
      (s.onCpx fun c => { c with stop := none }).done r.pkt (r.frame + if r.stopped then 2 ^ 32 else 0)
    else s

/-- FRAME_TRAILER (R243, Table 9.6): the last band verdict first, an object list header that falls due, then the trailer. -/
def doFrameTrailer (s : State) : State :=
  match s.emt.frames with
  | [] => s
  | f :: _ =>
    if !s.pins.rstN || f.nextSlot ≠ f.tiles || f.nextBand ≠ f.bands then s else
    let s := s.advance (f.slotAt (f.tiles + 2))
    let s := if f.hasObj && !f.objDone then s.emitObjects f none true else s
    match s.emt.frames with
    | [] => s
    | f :: _ =>
      let j := s.ckc.judges.find? fun j => j.frame = f.frame
      let v := match j with | some j => j.verdict | none => none
      let safe := f.safeSeen || s.saf.latched
      let objLate := f.hasObj && f.objLate
      let late := decide (f.lateLimit < f.lateTiles.length)
      let invalid := (match v with | some x => x.1 | none => true) || safe || objLate || late || f.unreplayed
      let reasons := f.reasons ||| (match v with | some x => x.2 | none => rCheckerLate) ||| (if safe then rSafeState else 0) |||
        (if objLate then rObjectsLate else 0) ||| (if f.hwFault then rHwFault else 0) |||
        (if f.lateTiles.isEmpty then 0 else rLateTiles)
      let open_ := f.progDone.isNone
      let (waves, ns) := f.progDone.getD (2 ^ 48 - 1, 2 ^ 48 - 1)
      let tail := leBytes 8 (codeOf 64 f.launchVt) ++ leBytes 8 (satU 48 waves) ++ leBytes 8 (satU 48 ns) ++
        leBytes 8 f.buildId.toNat ++ leBytes 2 f.bandInvalid ++ leBytes 2 s.emt.dropsTrailer ++ leBytes 2 (satU 16 f.lateCommits) ++
        leBytes 2 (satU 16 f.replays) ++ leBytes 2 f.objCount ++
        leBytes 1 (flagBit 0 objLate + flagBit 1 open_ + flagBit 2 safe + flagBit 3 f.swap) ++ List.replicate 5 0#8 ++
        (s.sensorWords f).flatMap (fun w => leBytes 4 w)
      let b := s.verdictRecord f 2 f.bands invalid reasons f.lateTiles.length f.degraded.length f.firstSeq 0 tail
      let s := s.onEmt fun e => { e with frames := e.frames.drop 1, dropsTrailer := 0,
                                         owedAfter := (f.frame, f.owed, f.objOwed) :: e.owedAfter.filter fun o => decide (s.ctr.prog.frame ≤ o.1) }
      let s := s.emitRecord .verdict 0xFC f.frame b
      let s := s.onCkc fun c => { c with judges := c.judges.filter fun x => x.frame ≠ f.frame || x.verdict.isNone }
      let s := s.onCtr fun c => if c.old.isSome ∧ c.oldFrame = f.frame then { c with old := none } else c
      (s.afterTrailer f invalid reasons).stopReply
/-- FRAME_TRAILER (R243). -/
def execFrameTrailer (s : State) : Out := .next (doFrameTrailer s)

end Sys2Proof.Machine
end

