-- ==== Sys2Proof/Machine/SafetySpi.lean ====
section
/-! DEFINITION. The safety SPI: request frames, status frames and RELEASE (R320, R324, R325, Tables 12.10 and 12.11). -/

namespace Sys2Proof.Machine

/-- The 32 bytes of a request frame, offset 0 first. -/
def spiBytes (f : BitVec 256) : List Byte := (List.range 32).map fun i => BitVec.ofNat 8 (f.toNat >>> (8 * i))

/-- The request's CRC is right (Table 12.10). -/
def spiCrcOk (f : BitVec 256) : Bool := decide (recLe (spiBytes f) 0x1C 4 = crc32c ((spiBytes f).take 0x1C))

/-- The request is taken: 256 clocks, a right CRC and VERSION 1 (R324). -/
def spiValid (clocks : Nat) (f : BitVec 256) : Bool :=
  decide (clocks = 256) && spiCrcOk f && decide (recLe (spiBytes f) 0 1 = 1)

/-- CMD of a request. -/
def spiCmd (f : BitVec 256) : Nat := recLe (spiBytes f) 1 1

/-- The LATE count of the frame now emitting does not exceed its limit (R320). -/
def Emt.lateOk (e : Emt) : Bool :=
  match e.frames.head? with | some f => decide (f.lateTiles.length ≤ f.lateLimit) | none => true

/-- The conditions of R320 for a RELEASE. -/
def State.releaseOk (s : State) (id : Nat) : Bool :=
  s.saf.latched && decide (id = s.saf.count) && (s.pwr.state = .ready || s.pwr.state = .running) && s.ckc.mode = .tmr &&
    s.emt.lateOk && !s.sec.unlocked

/-- A transaction returns the snapshot taken at its start (R324). -/
def State.spiReturn (clocks : Nat) (s : State) : State :=
  let b := s.statusFrame
  s.onSaf fun x => { x with spiOut := b.take (clocks / 8) }

/-- A valid request: the error flags clear, its ALIVE is checked and taken (R324, R325). -/
def State.spiAccept (f : BitVec 256) (s : State) : State :=
  let a := recLe (spiBytes f) 2 2
  s.onSaf fun x =>
    let bad := match x.prevAlive with | some p => decide (a ≠ (p + 1) % 2 ^ 16) | none => false
    { x with verError := false, reqError := false, rxErrors := if bad then satU 8 (x.rxErrors + 1) else x.rxErrors,
             ctrlAlive := a, prevAlive := some a }

/-- RELEASE acts (R320): refused, repeated or accepted. -/
def State.release (id : Nat) (s : State) : State :=
  if s.saf.relPending && decide (id = s.saf.count) then s
  else if s.releaseOk id then s.onSaf fun x => { x with relPending := true, relFrame := none }
  else s.onSaf fun x => { x with reqError := true }

/-- NOP and unknown commands (R324, Table 12.10). -/
def doNop (clocks : Nat) (f : BitVec 256) (s : State) : State :=
  if s.pins.rstN && spiValid clocks f && decide (spiCmd f ≠ 1 ∧ spiCmd f ≠ 2) then
    let s := (s.spiReturn clocks).spiAccept f
    if spiCmd f = 0 then s else s.onSaf fun x => { x with reqError := true }
  else s
/-- NOP (R324). -/
def execNop (clocks : Nat) (frame : BitVec 256) (s : State) : Out := .next (doNop clocks frame s)

/-- RELEASE (R320). -/
def doRelease (clocks : Nat) (f : BitVec 256) (s : State) : State :=
  if s.pins.rstN && spiValid clocks f && decide (spiCmd f = 1) then
    ((s.spiReturn clocks).spiAccept f).release (recLe (spiBytes f) 4 2)
  else s
/-- RELEASE (R320). -/
def execRelease (clocks : Nat) (frame : BitVec 256) (s : State) : Out := .next (doRelease clocks frame s)

/-- FORCE_SAFE (R325): the safe state latches with cause 0x06. -/
def doForceSafe (clocks : Nat) (f : BitVec 256) (s : State) : State :=
  if s.pins.rstN && spiValid clocks f && decide (spiCmd f = 2) then
    ((s.spiReturn clocks).spiAccept f).latch latchVehicle
  else s
/-- FORCE_SAFE (R325). -/
def execForceSafe (clocks : Nat) (frame : BitVec 256) (s : State) : Out := .next (doForceSafe clocks frame s)

/-- SPI_REQUEST_DISCARDED (R324): a wrong length, CRC or VERSION. -/
def doSpiRequestDiscarded (clocks : Nat) (f : BitVec 256) (s : State) : State :=
  if s.pins.rstN && !spiValid clocks f then
    let wrong := decide (clocks = 256) && spiCrcOk f
    (s.spiReturn clocks).onSaf fun x =>
      { x with rxErrors := satU 8 (x.rxErrors + 1), reqError := true, verError := x.verError || wrong }
  else s
/-- SPI_REQUEST_DISCARDED (R324). -/
def execSpiRequestDiscarded (clocks : Nat) (frame : BitVec 256) (s : State) : Out :=
  .next (doSpiRequestDiscarded clocks frame s)

end Sys2Proof.Machine
end

