-- ==== Sys2Proof/Machine/Frames.lean ====
section
/-! DEFINITION. Frames: launches and their placement (R15-R17, R365-R367), ingest binding (R49, R202, R203), arming and the
swap (R66, R67, R245), stopping (R276, R277) and the start of a frame program (R48, R91, R93). -/

namespace Sys2Proof.Machine

/-! ### Binding ingest slots -/

/-- SENSOR code, PORT and VC of a sensor (Table 8.2), its STALE time in ns, and whether its port has a link. -/
def State.sensorIdent (s : State) (i : Nat) : Nat × Nat × Nat × Nat × Bool :=
  if i < 24 then
    match vget s.sen.cameras i none with
    | some c => (i, c.port, c.vc, c.stale, s.sen.csiUp.getLsbD c.port)
    | none => (i, 0, 0, 0, false)
  else
    match vget s.sen.lidars (i - 24) none with
    | some l => (0x80 + (i - 24), l.port, 0xFF, l.stale, s.sen.ethUp.getLsbD l.port)
    | none => (0x80 + (i - 24), 0, 0xFF, 0, false)

/-- The header that the absent slot gets before it is bound (R203). -/
def State.absentHeader (s : State) (i : Nat) (r : DevRing) (status : Nat) : List Byte :=
  let id := s.sensorIdent i
  leBytes 1 id.1 ++ leBytes 1 id.2.1 ++ leBytes 1 id.2.2.1 ++ leBytes 1 0 ++ leBytes 4 status ++ leBytes 4 r.seq ++
    leBytes 4 0 ++ leBytes 8 r.tStart ++ leBytes 8 r.tEnd ++ List.replicate 32 0#8

/-- The absent slot is bound when the ring has never committed, its last commit is stale, or the port has no link (R203). -/
def State.bindsAbsent (s : State) (i : Nat) (r : DevRing) (launch : Nat) : Bool :=
  let id := s.sensorIdent i
  r.last.isNone || !id.2.2.2.2 || decide (r.tEnd + id.2.2.2.1 < launch)

/-- A bound slot: its index in the device ring, its address and its STATUS. -/
structure Binding where
  slot   : Nat
  addr   : Nat
  status : Nat
  seq    : Nat
  deriving DecidableEq, Repr

/-- Bind a slot of a sensor's device ring at a launch (R49, R202, R203). -/
def State.bindSensor (i launch : Nat) (s : State) : Option Binding × State :=
  match s.sen.ring? i with
  | none => (none, s)
  | some r =>
    match s.bindsAbsent i r launch, r.last with
    | false, some k =>
      let r' := { r with slots := r.slots.mapIdx fun j x => if j = k then { x with bound := x.bound + 1 } else x }
      (some { slot := k, addr := r.base + k * r.slotSize, status := r.status, seq := r.seq }, s.onSen fun x => x.putRing i r')
    | _, _ =>
      let status := 1 + if (s.sensorIdent i).2.2.2.2 then 0 else 2 ^ 7
      let k := r.slots.length
      let a := r.base + k * r.slotSize
      let s := s.putDram a (s.absentHeader i r status)
      (some { slot := k, addr := a, status := status, seq := r.seq },
        s.onSen fun x => x.putRing i { r with absentBound := r.absentBound + 1 })

/-- The start state of one contract ring (R48, R49); an INGEST ring binds its slot. -/
def State.startRing (launch : Nat) (r : RingEntry) (s : State) : RingState × Option (Nat × Binding) × State :=
  if r.kind = 2 then
    match ringSensor r.deviceRing with
    | some i =>
      let (b, s) := s.bindSensor i launch
      ({ full := [true], nextFill := 0, nextRel := 0, bound := b.map fun b => (b.slot, b.addr) }, b.map fun b => (i, b), s)
    | none => ({ full := [true], nextFill := 0, nextRel := 0, bound := none }, none, s)
  else ({ full := List.replicate r.slotCount false, nextFill := 0, nextRel := 0, bound := none }, none, s)

/-- The start state of every ring of a contract, with the bindings by sensor index. -/
def State.startRings (launch : Nat) : List RingEntry → State → List RingState × List (Nat × Binding) × State
  | [], s => ([], [], s)
  | r :: rest, s =>
    let (x, b, s) := s.startRing launch r
    let (xs, bs, s) := State.startRings launch rest s
    (x :: xs, b.toList ++ bs, s)

/-! ### The frame program -/

/-- The frame program starts (R15, R91): every stream at instruction 0, every program at its first record, the SAFE
semaphores at zero (R93), and the coppice step that carries a slice selected (R60). -/
def State.startProgram (c : Contract) (l : LateStart) (s : State) : State :=
  let s := s.onCtr fun x =>
    { x with prog := { running := true, frame := l.frame, launch := l.launch, waves0 := l.waves0, committed := [], rings := l.rings, totals := [] } }
  let visit := match s.nextVisit with
    | some k => (c.coppice.find? fun e => e.2 = visitUnit k).map fun e => e.1
    | none => none
  let s := s.onEvr fun r => { r with coppiceStep := visit }
  s.onFab fun f =>
    { f with sems := f.sems.filter (fun p => decide (0x1000 ≤ p.1)),
             cores := Vector.ofFn fun (k : Fin 8) =>
               { f.cores.get k with csq := 0, halted := !c.streams.any fun p => p.1 = k.val, weights := Vector.replicate 8 WeightTile.empty,
                                    drainCfg := Vector.replicate 4 none, su := Su.idle, run := Run.idle },
             engines := Vector.ofFn fun (k : Fin 4) =>
               { next := 0, halted := !c.programs.any fun p => p.1 = 0x10 + k.val, run := Run.idle } }

/-- A contract's cores have settled (R289: before its swap). -/
def State.ctrSettled (c : Contract) (s : State) : Bool := (maskBits 8 c.hdr.coreSet).all fun k => s.unitReady (.mxc (coreOf k))

/-- A swap waits for the next frame boundary (R66): ARM_CONTRACT is accepted and the staged contract's cores have settled. -/
def State.swapReady (s : State) : Bool :=
  s.ctr.armPending.isSome && match s.ctr.staged with | some n => s.ctrSettled n | none => false

/-- The contract that the next launch runs: the staged one when a swap waits (R66). -/
def State.nextContract (s : State) : Option Contract := if s.swapReady then s.ctr.staged else s.ctr.armed

/-- The contract that LAUNCH_AT counts with (R365): the one of the next launch, or the one whose ARM_CONTRACT is pending. -/
def State.launchContract (s : State) : Option Contract :=
  match s.nextContract with
  | some c => some c
  | none => if s.ctr.armPending.isSome then s.ctr.staged else none

/-- The staged contract becomes the armed one at a frame boundary (R66, R67, R309): the old one's output storage stays
held until its last trailer, its totals are gone (R35), and ARM_CONTRACT gets its reply. -/
def State.swapContracts (frame : Nat) (s : State) : State :=
  match s.ctr.staged with
  | none => s
  | some n =>
    let last := s.emt.frames.foldl (fun a f => if f.frame < frame then max a (f.frame + 1) else a) 0
    let pend := s.ctr.armPending
    let s := s.onCtr fun c => { c with armed := some n, staged := none, armPending := none, swapFrame := some frame, lastTotals := (0, 0, []),
                                       lateStart := c.lateStart.map fun l => { l with staged := false },
                                       old := if last = 0 then none else c.armed, oldFrame := last - 1 }
    let s := s.onCkc fun c => { c with slotArmed := 1 - c.slotArmed }
    match pend with
    | some pk => s.done pk frame
    | none => s

/-- With no contract armed, the swap takes place at once (R66), as soon as the contract's cores have settled (R289). -/
def State.firstSwap (s : State) : State :=
  if s.ctr.armed.isNone && s.swapReady then (s.swapContracts s.ctr.nextFrame).enter .running else s

/-! ### The emission and the judgement of a frame -/

/-- The status word of a bound slot (Table 9.7). -/
def Binding.word (b : Binding) : Word := BitVec.ofNat 32 (b.status % 2048 + (b.seq % 8192) * 2048 + 2 ^ 30)

/-- A launched frame as EMT holds it (R230, R246). -/
def Contract.emitFrame (c : Contract) (frame launch : Nat) (vt : Int) (slot : Nat) (swap : Bool) (bound : List (Nat × Binding)) : EmitFrame :=
  { frame := frame, launch := launch, launchVt := vt, offset := c.hdr.emitOffset, cadNs := c.hdr.cadenceNs, gridW := c.hdr.gridW,
    tiles := c.hdr.tiles, format := c.hdr.tileFormat, buildId := c.hdr.buildId, model := c.model, modelAddr := modelBase slot,
    swap := swap, hasObj := c.hasObjects, tileAt := (c.tilePlace (frame % 2) 0).getD (.sb, 0), objAt := c.objPlace (frame % 2),
    nextSlot := 0, owed := [], lateTiles := [], lateCommits := 0, degraded := [], firstSeq := 0, bandSeqs := [], nextBand := 0,
    bandInvalid := 0, objDone := false, objLate := false, objCount := 0, objOwed := false,
    sensors := (List.range 32).map fun i => match bound.find? (fun p => p.1 = i) with | some p => p.2.word | none => 0,
    replays := 0, hwBands := [], hwFault := false, unreplayed := false, progDone := none, safeSeen := false, reasons := 0 }

/-- CKC's judgement of a launched frame (R310, R311): check C4 is skipped for the first frame after READY and after a swap. -/
def State.judgeOf (c : Contract) (frame launch slot : Nat) (swap : Bool) (bound : List (Nat × Binding)) (s : State) : Judge :=
  { frame := frame, launch := launch, cycle := c.hdr.frameCycle, slot := slot, bound := bound.map fun p => (p.1, p.2.status), format := c.hdr.tileFormat, tiles := c.hdr.tiles, gridW := c.hdr.gridW, model := c.model,
    modelAddr := modelBase slot, mask := [], reasons := [], badCrc := [], objBad := false, chainBad := s.ckc.nextBad,
    bandsIssued := 0, verdict := none, occMeans := [], hasPrev := decide (frame ≠ 0) && !swap, evidence := none }

/-- CKC begins to judge a launched frame: its launch time goes to agreement (R302), and the datagrams older than the LIDAR_SPAN
leave the buffers. -/
def State.newJudge (c : Contract) (frame launch slot : Nat) (swap : Bool) (bound : List (Nat × Binding)) (s : State) : State :=
  if s.ckc.mode = .halted then s
  else
    let spans := s.ckcSlots
    let old := fun (x : LidarCopy) => match spans.find? fun p => p.1 = x.slot with
      | some p => decide (x.arrival + p.2.lidarSpan * 1000 < launch)
      | none => false
    (s.onCkc fun k =>
      { k with judges := k.judges ++ [s.judgeOf c frame launch slot swap bound], nextBad := false,
               copies := k.copies.filter fun x => !old x }).ckcInput (.launch frame launch)

/-- A frame that was launched late for the armed contract becomes the first of a contract armed since (R66): its ingest slots are
bound anew, and EMT and CKC take the new contract's layout unless its first slot has opened (DESIGN CHOICE, log 159). -/
def State.rebind (n : Contract) (l : LateStart) (s : State) : LateStart × State :=
  let s := match s.ctr.armed with | some a => s.releaseIngest a l.rings | none => s
  let (rings, bound, s) := State.startRings l.launch n.rings s
  let slot := 1 - s.ckc.slotArmed
  let fresh := fun (f : EmitFrame) => f.frame = l.frame && f.nextSlot = 0 && !f.objDone
  let s := if s.emt.frames.any fresh then
      let j := s.judgeOf n l.frame l.launch slot true bound
      (s.onEmt fun e => { e with frames := e.frames.map fun f => if fresh f then n.emitFrame l.frame l.launch f.launchVt slot true bound else f }).onCkc
        fun k => { k with judges := k.judges.map fun x =>
                              if x.frame = l.frame then (if x.evidence.isSome then s.formEvidence j x.launch else j) else x }
    else s
  ({ l with rings := rings }, s)

/-- A frame boundary (R66, R304): the program of `l` starts, after a swap that waits for it and a CKC split. -/
def State.boundaryStart (l : LateStart) (s : State) : State :=
  let (l, s) := match s.swapReady, s.ctr.staged with
    | true, some n => let (l, s) := if l.staged then (l, s) else s.rebind n l; (l, s.swapContracts l.frame)
    | _, _ => (l, s)
  match s.ctr.armed with
  | some c => (s.splitBoundary.applyRate).startProgram c l
  | none => s

/-! ### Releases at a launch -/

/-- A launch releases the STARTUP latch when CKC is in TMR (R319), and takes a pending RELEASE into effect (R320). -/
def State.launchRelease (frame : Nat) (s : State) : State :=
  let self := s.saf.latched && s.saf.startup && s.ckc.mode = .tmr
  if s.saf.relPending && s.saf.relFrame.isNone then
    let s := s.onSaf fun x => { x with history := [], histFrom := frame }
    match self, s.emt.frames.getLast? with
    | false, some f => s.onSaf fun x => { x with relFrame := some f.frame }
    | _, _ => s.unlatch
  else if self then s.unlatch
  else s

/-! ### Placing launches -/

/-- The earliest count for the next launch (R366): `l` is the latest launch, occurred or placed, with the contract that runs
it, and `past` the launches before it. -/
def launchMin (latest : Option PastLaunch) (before : Option PastLaunch) : Nat :=
  max (match latest with | some l => l.count + (l.tiles + 3) * l.cadenceNs | none => 0)
    (match before with | some l => l.count + l.emitOffset + (l.tiles + 3) * l.cadenceNs | none => 0)

/-- What R366 needs of a launch. -/
def Contract.pastAt (c : Contract) (count : Nat) : PastLaunch :=
  { count := count, emitOffset := c.hdr.emitOffset, tiles := c.hdr.tiles, cadenceNs := c.hdr.cadenceNs }

/-- The grid points passed over before the first whose count meets the minimum. -/
def skipPoints (m : Tim) (v : Int) (cycle lo : Nat) : Nat → Nat
  | 0 => 0
  | n + 1 => if lo ≤ countAt m v then 0 else 1 + skipPoints m (v + cycle) cycle lo n

/-- Place the next launch at the first grid point from `v` on that meets R366; points passed over are an event. -/
def State.placeLaunch (v : Int) (cycle lo : Nat) (s : State) : State :=
  let k := if cycle = 0 then 0 else skipPoints s.tim v cycle lo ((lo - countAt s.tim v) / (cycle / 2 + 1) + 2)
  let v := v + k * cycle
  let n := countAt s.tim v
  let s := s.onCtr fun c => { c with placed := some { count := n, vtime := v } }
  let s := if k = 0 then s else s.note 0x4005 sevWarning noUnit k 0 0
  s.placeLaunchEdges n cycle

/-! ### LAUNCH -/

/-- The launch time arrives (R15, R16, R17, R365). -/
def doLaunch (s : State) : State :=
  match s.ctr.placed, s.nextContract with
  | some p, some c =>
    if !s.pins.rstN then s else
    let s := s.advance p.count
    let s := s.preempt
    let s := s.onCpx fun x => { x with windowOpen := false }
    let frame := s.ctr.nextFrame
    let slot := if s.swapReady then 1 - s.ckc.slotArmed else s.ckc.slotArmed
    let first := (s.swapReady && !s.ctr.lateStart.any fun l => l.staged) || s.ctr.swapFrame = some frame
    let l : LateStart := { frame := frame, launch := p.count, waves0 := s.waveNow, staged := s.swapReady, rings := [] }
    let s := s.launchRelease frame
    let (rings, bound, s) := State.startRings p.count c.rings s
    let s := s.newJudge c frame p.count slot first bound
    let s := s.onEmt fun e => { e with frames := e.frames ++ [c.emitFrame frame p.count p.vtime slot first bound], launchLast := p.count }
    let l := { l with rings := rings }
    let s := if s.ctr.prog.running then s.onCtr fun x => { x with lateStart := x.lateStart ++ [l] } else s.boundaryStart l
    let s := s.onTim fun m => { m with launchSeen := true }
    let lo := launchMin (some (c.pastAt p.count)) s.ctr.past.head?
    let next := match s.ctr.grid with | some g => g.next | none => p.vtime + c.hdr.frameCycle
    let s := s.onCtr fun x =>
      { x with nextFrame := frame + 1, placed := none, grid := none, past := (c.pastAt p.count :: x.past).take 2 }
    s.placeLaunch next c.hdr.frameCycle lo
  | _, _ => s
/-- LAUNCH (R15). -/
def execLaunch (s : State) : Out := .next (doLaunch s)

/-- PREEMPTION_KILL_TOKEN (R282): 4 µs before a placed launch, or at once when it is nearer. -/
def doPreemptionKillToken (s : State) : State :=
  match s.ctr.placed with
  | none => s
  | some p =>
    if !s.pins.rstN || s.ctr.prog.running || !s.cpx.windowOpen then s else
    let s := s.advance (p.count - 4000)
    s.preempt.onCpx fun x => { x with windowOpen := false }
/-- PREEMPTION_KILL_TOKEN (R282). -/
def execPreemptionKillToken (s : State) : Out := .next (doPreemptionKillToken s)

/-! ### Commands -/

/-- Launches are scheduled with nothing placed before: VEHICLE_TIME becomes the first grid point (R365). -/
def State.launchFirst (pk : Packet) (v : Int) (c : Contract) (s : State) : State :=
  let s := s.onTim fun m => { m with launchSeen := true }
  let lo := launchMin s.ctr.past.head? (s.ctr.past.drop 1).head?
  let s := s.placeLaunch v c.hdr.frameCycle lo
  s.done pk (match s.ctr.placed with | some p => p.count | none => 0)

/-- LAUNCH_AT (R365, R367). -/
def doLaunchAt (ring : Nat) (s : State) : State :=
  s.runPacket ring 0x22 fun pk s =>
    let v := sext 64 (pk.u 0x10 8)
    match s.launchContract with
    | none => s.bad pk 0
    | some c =>
      if v < s.vnow ∨ s.vnow + 10000000000 < v then s.bad pk 0x10
      else match s.ctr.placed with
        | none => s.launchFirst pk v c
        | some p =>
          let n := countAt s.tim v
          if n < launchMin (some (c.pastAt p.count)) s.ctr.past.head? then s.bad pk 0x10
          else ((s.onTim fun m => { m with launchSeen := true }).onCtr fun x => { x with grid := some { next := v } }).done pk n
/-- LAUNCH_AT (R365). -/
def execLaunchAt (ring : Nat) (s : State) : Out := .next (doLaunchAt ring s)

/-- The two conditions of R67 between the armed contract and the staged one. -/
def armOverlap (o n : Contract) : Bool :=
  n.outStorage.any (fun x => decide (x.1 < 2) && o.outStorage.contains x) ||
    !decide (o.hdr.emitOffset + (o.hdr.tiles + 2) * o.hdr.cadenceNs ≤ o.hdr.frameCycle + n.hdr.emitOffset)

/-- The tile formats agree with what the clients negotiated (R245): the highest format that the client of the TILE_STREAM
ring, or without such a ring the admin client, negotiated. -/
def State.tileFormatOk (s : State) (n : Contract) : Bool :=
  let id := match s.cpx.rings.find? fun r => r.kind = .tileStream with | some r => r.client | none => 0
  match s.cpx.client? id with
  | some x => match x.versions with | some v => decide (n.hdr.tileFormat ≤ v.tile) | none => decide (n.hdr.tileFormat ≤ 1)
  | none => true

/-- Once ARM_CONTRACT is accepted, the staged model's buffers take the armed model's latest contents for every sensor and
kind that both name (R309). -/
def State.copyEvidence (o n : Contract) (s : State) : State :=
  let a := s.ckc.slotArmed
  let b := 1 - a
  let ram := s.fab.ckcRam
  let thumbs := (s.ckc.thumbs.filter fun x => x.slot = a).filterMap fun x => (ckcBuffer ram (modelBase a) o.model x.cam 0).map fun e => (x, e)
  let lidars := (s.ckc.copies.filter fun x => x.slot = a).filterMap fun x =>
    (ckcBuffer ram (modelBase a) o.model (0x80 + x.lidar) 1).map fun e => (x, e)
  let s := s.onCkc fun k => { k with copies := k.copies.filter (fun x => x.slot = a), thumbs := k.thumbs.filter fun x => x.slot = a }
  let s := thumbs.foldl (fun s p =>
    s.pushThumb b n.model p.1.cam p.1.width p.1.height (memBytes ram (modelBase a + p.2.1) (min p.2.2 (2 * p.1.width * p.1.height)))) s
  lidars.foldl (fun s p =>
    s.pushCopy b n.model p.1.lidar p.1.arrival (p.1.payload ram (modelBase a + p.2.1) p.2.2)) s

/-- ARM_CONTRACT (R66, R67, R245). -/
def doArmContract (ring : Nat) (s : State) : State :=
  s.runPacket ring 0x21 fun pk s =>
    match s.ctr.staged with
    | none => s.bad pk 0
    | some n =>
      if s.ctr.armPending.isSome then s.noRes pk 0
      else if !s.tileFormatOk n then s.reply pk stVersion 2 0
      else match s.ctr.armed with
        | none => (s.onCtr fun c => { c with armPending := some pk }).firstSwap
        | some o =>
          if armOverlap o n then s.reply pk stRejected 0x10 (0xFFFFFFFF * 2 ^ 32)
          else (s.copyEvidence o n).onCtr fun c => { c with armPending := some pk }
/-- ARM_CONTRACT (R66). -/
def execArmContract (ring : Nat) (s : State) : Out := .next (doArmContract ring s)

/-- STOP_FRAMES (R276, R277); the ring order of R263 keeps a second one behind it. -/
def doStopFrames (ring : Nat) (s : State) : State :=
  s.runPacket ring 0x23 fun pk s =>
    let abort := pk.u 0x10 1
    if 1 < abort ∨ (abort = 1 ∧ s.cpx.proto pk.client < 0x203) then s.bad pk 0x10
    else
      let s := s.cancelLaunches
      let s := if s.ctr.prog.running then s else s.onCpx fun c => { c with windowOpen := true }
      let s := if s.noFrame then s.splitBoundary else s
      if s.ctr.nextFrame = 0 then s.done pk 0xFFFFFFFF
      else (s.onCpx fun c => { c with stop := some { pkt := pk, abort := decide (abort = 1), frame := s.ctr.nextFrame - 1, stopped := false } }).stopReply
/-- STOP_FRAMES (R276). -/
def execStopFrames (ring : Nat) (s : State) : Out := .next (doStopFrames ring s)

/-- PROGRAM_ABORTED (R277): after the trailer of the last frame, a program that has not committed its last step is
stopped, and STOP_FRAMES replies. -/
def doProgramAborted (s : State) : State :=
  match s.cpx.stop with
  | none => s
  | some r =>
    if s.pins.rstN && r.abort && s.ctr.prog.running && !(s.emt.frames.any fun f => f.frame = r.frame) then
      let frame := s.ctr.prog.frame
      let s := s.stopProgram.note 0x1009 sevWarning noUnit frame 0 0
      let s := s.onCpx fun c => { c with stop := some { r with stopped := true } }
      s.splitBoundary.stopReply
    else s
/-- PROGRAM_ABORTED (R277). -/
def execProgramAborted (s : State) : Out := .next (doProgramAborted s)

/-! ### The end of a drain -/

/-- DRAIN_COMPLETE (Table 13.4 steps 5 and 6): after the flag record and the last trailer. No frame runs any more, so a pending split
takes effect (R304; DEDUCED, log 176). -/
def doDrainComplete (s : State) : State :=
  if s.pins.rstN && s.pwr.state = .draining && s.mss.flagWrite.isNone && s.emt.frames.isEmpty then
    (((s.splitBoundary.unloadContracts).snapshot 4).enter .flagged).raise causeFlagged
  else s
/-- DRAIN_COMPLETE (R339). -/
def execDrainComplete (s : State) : Out := .next (doDrainComplete s)

end Sys2Proof.Machine
end

