-- ==== Sys2Proof/Machine/Ethernet.lean ====
section
/-! DEFINITION. Received Ethernet frames of the lidar ports (R216, R217): acceptance and the UDP datagram inside. The layouts are those
of IEEE 802.3, 802.1Q, RFC 791, RFC 8200 and RFC 768 (PRESUMED, log 170). -/

namespace Sys2Proof.Machine

/-- A big-endian field. -/
def beField (b : List Byte) (off n : Nat) : Nat := leNat ((b.drop off).take n).reverse

/-- The sum of the 16-bit words of some bytes, a last odd byte padded with zero. -/
def sum16 : List Byte → Nat
  | a :: b :: r => 256 * a.toNat + b.toNat + sum16 r
  | [a] => 256 * a.toNat
  | [] => 0

/-- An Internet checksum over a sum that includes it is right. -/
def onesOk (v : Nat) : Bool := decide (v ≠ 0) && decide (v % 65535 = 0)

/-- A UDP datagram with the headers that assign it (R217). `srcIp` holds the source address' bytes from byte 0 up. -/
structure Datagram where
  vid     : Option Nat
  ipVer   : Nat
  srcIp   : BitVec 128
  udpPort : Nat
  payload : List Byte
  deriving DecidableEq, Repr

/-- What a port makes of a frame (R216): a PAUSE frame is ignored; otherwise the datagram as far as its headers read, and why the
frame is discarded. -/
structure Received where
  pause    : Bool
  datagram : Option Datagram
  discard  : Option Nat
  deriving DecidableEq, Repr

/-- Reasons for which a port discards a frame (R216, R217, R224): its length. -/
abbrev ethLength : Nat := 1
/-- A bad FCS. -/
abbrev ethFcs : Nat := 2
/-- Two tags. -/
abbrev ethTags : Nat := 3
/-- Neither IPv4 nor IPv6. -/
abbrev ethType : Nat := 4
/-- A bad IPv4 header or header checksum, or a bad IPv6 header. -/
abbrev ethHeader : Nat := 5
/-- A bad UDP checksum. -/
abbrev ethUdpSum : Nat := 6
/-- IPv6 extension headers. -/
abbrev ethExtension : Nat := 7
/-- An IP fragment. -/
abbrev ethFragment : Nat := 8
/-- No UDP datagram. -/
abbrev ethNotUdp : Nat := 9
/-- A UDP length that the packet does not hold. -/
abbrev ethUdpLength : Nat := 10
/-- The port's input buffer is full (R224). -/
abbrev ethFull : Nat := 11
/-- The datagram matches no lidar. -/
abbrev ethNoLidar : Nat := 0x100
/-- A payload shorter than PAYLOAD_MIN (Table 8.5). -/
abbrev ethShort : Nat := 0x101

/-- The datagram in a UDP segment. -/
def udpDatagram (vid : Option Nat) (ver : Nat) (src seg : List Byte) : Datagram :=
  { vid := vid, ipVer := ver, srcIp := BitVec.ofNat 128 (leNat src), udpPort := beField seg 2 2,
    payload := (seg.take (beField seg 4 2)).drop 8 }

/-- The segment holds the datagram that its length names. -/
def udpLengthOk (seg : List Byte) : Bool := decide (8 ≤ beField seg 4 2) && decide (beField seg 4 2 ≤ seg.length)

/-- An IPv4 packet: the datagram, and why it is discarded. -/
def ipv4 (vid : Option Nat) (ip : List Byte) : Option Datagram × Option Nat :=
  let ihl := 4 * (beField ip 0 1 % 16)
  let tot := beField ip 2 2
  let frag := beField ip 6 2 % 0x4000
  let seg := (ip.take tot).drop ihl
  let udp := decide (beField ip 9 1 = 17)
  let headOk := decide (beField ip 0 1 / 16 = 4) && decide (20 ≤ ihl ∧ ihl ≤ tot ∧ tot ≤ ip.length) && onesOk (sum16 (ip.take ihl))
  let pseudo := (ip.drop 12).take 8 ++ [0#8, 17#8] ++ (seg.drop 4).take 2
  let sumOk := decide (beField seg 6 2 = 0) || onesOk (sum16 (pseudo ++ seg.take (beField seg 4 2)))
  (if udp && decide (frag % 0x2000 = 0) && decide (8 ≤ seg.length) then some (udpDatagram vid 4 ((ip.drop 12).take 4) seg) else none,
    if !headOk then some ethHeader
    else if frag ≠ 0 then some ethFragment
    else if !udp then some ethNotUdp
    else if !udpLengthOk seg then some ethUdpLength
    else if !sumOk then some ethUdpSum
    else none)

/-- The IPv6 extension headers by their numbers. -/
def ipv6Extensions : List Nat := [0, 43, 44, 50, 51, 60, 135, 139, 140]

/-- An IPv6 packet: the datagram, and why it is discarded. -/
def ipv6 (vid : Option Nat) (ip : List Byte) : Option Datagram × Option Nat :=
  let next := beField ip 6 1
  let size := beField ip 4 2
  let seg := (ip.drop 40).take size
  (if next = 17 ∧ 8 ≤ seg.length then some (udpDatagram vid 6 ((ip.drop 8).take 16) seg) else none,
    if beField ip 0 1 / 16 ≠ 6 ∨ ip.length < 40 + size then some ethHeader
    else if next = 44 then some ethFragment
    else if ipv6Extensions.contains next then some ethExtension
    else if next ≠ 17 then some ethNotUdp
    else if !udpLengthOk seg then some ethUdpLength
    else none)

/-- A frame, its FCS included, as a port receives it (R216). -/
def receive (f : List Byte) : Received :=
  let body := f.take (f.length - 4)
  let outer := beField f 12 2
  let tagged := decide (outer = 0x8100)
  let type := if tagged then beField f 16 2 else outer
  let isTag := fun (t : Nat) => decide (t = 0x8100) || decide (t = 0x88A8)
  let vid := if tagged then some (beField f 14 2 % 4096) else none
  let ip := body.drop (if tagged then 18 else 14)
  let r := if type = 0x0800 then ipv4 vid ip else if type = 0x86DD then ipv6 vid ip else (none, some ethType)
  let lengthOk := decide (64 ≤ f.length ∧ f.length ≤ 9216)
  let fcsOk := decide (crc32 body = leNat (f.drop (f.length - 4)))
  { pause := lengthOk && fcsOk && decide (type = 0x8808), datagram := r.1,
    discard :=
      if !lengthOk then some ethLength
      else if !fcsOk then some ethFcs
      else if isTag outer && isTag (beField f 16 2) then some ethTags
      else r.2 }

end Sys2Proof.Machine
end

