-- ==== Sys2Proof/Machine/Cfe.lean ====
section
/-! DEFINITION. The camera front-end: unpacking of RAW lines, the stages of Table 8.4 (R204, R205), the thumbnail (R207) and
the blanking test pattern (R210). -/

namespace Sys2Proof.Machine

/-! ### Lines -/

/-- Pixel codes of a RAW payload, packed as CSI-2 packs them (R196). -/
def unpackRaw (dt : Nat) (p : List Byte) : List Nat :=
  let b := fun i => (p.getD i 0).toNat
  match dt with
  | 0x2A => p.map fun x => x.toNat
  | 0x2B => (List.range (p.length / 5 * 4)).map fun i => b (i / 4 * 5 + i % 4) * 4 + b (i / 4 * 5 + 4) / 2 ^ (2 * (i % 4)) % 4
  | 0x2C => (List.range (p.length / 3 * 2)).map fun i => b (i / 2 * 3 + i % 2) * 16 + b (i / 2 * 3 + 2) / 2 ^ (4 * (i % 2)) % 16
  | 0x2D => (List.range (p.length / 7 * 4)).map fun i =>
      b (i / 4 * 7 + i % 4) * 64 + leNat ((p.drop (i / 4 * 7 + 4)).take 3) / 2 ^ (6 * (i % 4)) % 64
  | 0x2E => (List.range (p.length / 2)).map fun i => b (2 * i) * 256 + b (2 * i + 1)
  | _ => (List.range (p.length / 5 * 2)).map fun i =>
      b (i / 2 * 5 + 2 * (i % 2)) * 4096 + b (i / 2 * 5 + 2 * (i % 2) + 1) * 16 + b (i / 2 * 5 + 4) / 2 ^ (4 * (i % 2)) % 16

/-! ### Stages -/

/-- The largest value of stages 1 to 6. -/
abbrev cfeMax : Nat := 2 ^ 24 - 1
/-- Clamp to 24 bits. -/
def cfeClamp (v : Int) : Nat := (max 0 (min (cfeMax : Int) v)).toNat

/-- Stage 1: decompanding of a 20-bit code. -/
def decompand (lut : List Nat) (code : Nat) : Nat :=
  let i := code / 256 % 4096
  let f := code % 256
  let a : Int := lut.getD i 0
  cfeClamp (a + (((lut.getD (i + 1) 0 : Nat) - a) * f + 128) / 256)

/-- The CFA phase of a pixel of the active window. -/
def cfaPhase (row col : Nat) : Nat := 2 * (row % 2) + col % 2

/-- Stage 2. -/
def blackLevel (bl : List Nat) (phase v : Nat) : Nat := v - bl.getD phase 0

/-- ⌊v / 2^k⌉ with ties to even. -/
def rneShift (k : Nat) (v : Int) : Int :=
  let q := v / (2 ^ k : Int)
  let r := v % (2 ^ k : Int)
  if (2 ^ k : Int) < 2 * r ∨ (2 * r = (2 ^ k : Int) ∧ q % 2 = 1) then q + 1 else q

/-- Stage 3's gain (UQ4.12) at a pixel: bilinear with UQ0.16 weights, RNE. -/
def shadingGain (grid : List Nat) (phase w h row col : Nat) : Nat :=
  let px := Config.cfeGridPos w col
  let py := Config.cfeGridPos h row
  let ix := min 31 (px / 65536)
  let iy := min 31 (py / 65536)
  let wx := px % 65536
  let wy := py % 65536
  let g := fun dy dx => grid.getD (phase * 1089 + (iy + dy) * 33 + ix + dx) 0
  (rneShift 32 ((g 0 0 * (65536 - wy) * (65536 - wx) + g 0 1 * (65536 - wy) * wx + g 1 0 * wy * (65536 - wx) + g 1 1 * wy * wx : Nat) : Int)).toNat

/-- A UQ4.12 gain (stages 3 and 5). -/
def cfeGain (v gain : Nat) : Nat := min cfeMax ((v * gain + 2048) / 4096)

/-- Stages 1 to 3 of one code; `b` bits are left-aligned to 20. -/
def cfeMono (p : CamParams) (b w h row col code : Nat) : Nat :=
  let ph := cfaPhase row col
  cfeGain (blackLevel p.bl ph (decompand p.lut (code * 2 ^ (20 - b)))) (shadingGain p.shading ph w h row col)

/-- The site of a pixel in its colour pattern (Table 8.7): 0 red, 1 green of a red row, 2 green of a blue row, 3 blue. Codes 4 to 7
have clear pixels in the green places, and code 8 in all but the red. -/
def cfaSite (cfa phase : Nat) : Nat := phase ^^^ (if cfa = 8 then 0 else cfa % 4)

/-- The channel that stage 4 forms for output `k`: RCCC gives (R, C, C) (R204). -/
def cfaChannel (cfa k : Nat) : Nat := if cfa = 8 then min k 1 else k

/-- Stage 4 at a pixel: for each output a sum over the 5 x 5 neighbourhood with repeated edges, with coefficients in eighths, RNE. -/
def cfeDemosaicAt (cfa w h : Nat) (get : Nat → Nat → Nat) (row col : Nat) : Nat × Nat × Nat :=
  let cl := fun (n v d : Nat) => min (n - 1) (v + d - 2)
  let ns := (List.range 5).flatMap fun dy => (List.range 5).map fun dx => get (cl h row dy) (cl w col dx)
  let one := fun k =>
    cfeClamp (rneShift 3 ((ns.mapIdx fun i v => Config.cfeCoef (cfa = 8) (cfaSite cfa (cfaPhase row col)) (cfaChannel cfa k) i * (v : Int)).sum))
  (one 0, one 1, one 2)

/-- Stages 5 and 6: one output channel of the colour matrix. -/
def cfeColour (p : CamParams) (r g b : Nat) (k : Nat) : Nat :=
  let m := fun i => p.ccm.getD (3 * k + i) 0
  let c := fun (v i : Nat) => (cfeGain v (p.wb.getD i 0) : Int)
  cfeClamp (rneShift 12 (m 0 * c r 0 + m 1 * c g 1 + m 2 * c b 2 + p.ccOff.getD k 0 * 4096))

/-- A level: width, height and the stage-6 values by channel, row and column. -/
structure CfeLevel where
  w : Nat
  h : Nat
  vals : List (List (List Nat))
  deriving DecidableEq, Repr

/-- Level 0 of a frame of `rows` lines of codes; the shading grid spans `fullH` lines. -/
def cfeLevel0 (c : Camera) (p : CamParams) (fullH : Nat) (lines : List (List Nat)) : CfeLevel :=
  let b := rawBits c.dataType
  let h := lines.length
  let mono := lines.mapIdx fun row l => l.mapIdx fun col v => cfeMono p b c.w fullH row col v
  let get := fun row col => (mono.getD row []).getD col 0
  let rgb := (List.range h).map fun row => (List.range c.w).map fun col =>
    cfeDemosaicAt c.cfa c.w h get row col
  { w := c.w, h := h, vals := (List.range 3).map fun k => rgb.map fun l => l.map fun q => cfeColour p q.1 q.2.1 q.2.2 k }

/-- Stage 7: the next level. -/
def CfeLevel.half (l : CfeLevel) : CfeLevel :=
  { w := l.w / 2, h := l.h / 2,
    vals := l.vals.map fun pl => (List.range (l.h / 2)).map fun y => (List.range (l.w / 2)).map fun x =>
      let g := fun dy dx => (pl.getD (2 * y + dy) []).getD (2 * x + dx) 0
      (g 0 0 + g 0 1 + g 1 0 + g 1 1 + 2) / 4 }

/-- Stage 8: the bytes of one value. -/
def cfeOut (p : CamParams) (fmt v : Nat) : List Byte :=
  if fmt = 0xA then leBytes 1 (p.tone.getD (v / 2 ^ 14) 0)
  else leBytes 2 (fmtCode fmt .rne false 0 (Fp.fin false v (-24)).r32)

/-- The bytes of a level in its layout (R205). -/
def CfeLevel.bytes (l : CfeLevel) (p : CamParams) (layout fmt : Nat) : List Byte :=
  if layout = 0 then l.vals.flatMap fun pl => pl.flatMap fun row => row.flatMap (cfeOut p fmt)
  else (List.range l.h).flatMap fun y => (List.range l.w).flatMap fun x =>
    (l.vals.flatMap fun pl => cfeOut p fmt ((pl.getD y []).getD x 0)) ++ List.replicate (cfeElem fmt) 0#8

/-- The enabled levels' bytes, in order of level. -/
def cfeLevels (c : Camera) (p : CamParams) (lines : List (List Nat)) : List (List Byte) :=
  let l0 := cfeLevel0 c p c.h lines
  let ls := [l0, l0.half, l0.half.half]
  (maskBits 3 c.levels).map fun k => (ls.getD k l0).bytes p c.layout c.outFmt

/-- The payload of a slot (R205): each level at a 64-byte-aligned offset. -/
def cfePayload (ls : List (List Byte)) : List Byte :=
  ls.flatMap fun b => b ++ List.replicate (up64 b.length - b.length) 0#8

/-- The thumbnail of a frame (R207). -/
def cfeThumb (c : Camera) (p : CamParams) (lines : List (List Nat)) : List Nat :=
  let b := rawBits c.dataType
  let v := fun row col => decompand p.lut ((lines.getD row []).getD col 0 * 2 ^ (20 - b))
  (List.range (c.h / 16)).flatMap fun by' => (List.range (c.w / 16)).map fun bx =>
    let sum := ((List.range 16).map fun dy => ((List.range 16).map fun dx => v (16 * by' + dy) (16 * bx + dx)).sum).sum
    (sum + 128) / 256 / 256 % 65536

/-! ### Test pattern -/

/-- One step of the 32-bit Galois LFSR with polynomial 0x8020_0003 (R210). -/
def lfsrStep (v : Nat) : Nat := if v % 2 = 1 then (v / 2) ^^^ 0x80200003 else v / 2

/-- `n` codes of the LFSR, the first from the seed. -/
def lfsrCodes (b : Nat) : Nat → Nat → List Nat
  | 0, _ => []
  | n + 1, v => v / 2 ^ (32 - b) :: lfsrCodes b n (lfsrStep v)

/-- The 16 lines of a test frame (R210). -/
def testLines (cam pattern b w : Nat) : List (List Nat) :=
  let full := 2 ^ b - 1
  match pattern with
  | 0 => List.replicate 16 ((List.range w).map fun j => j * 2 ^ b / w)
  | 1 => (List.range 16).map fun i => (List.range w).map fun j => if (i / 2 + j / 2) % 2 = 1 then full else 0
  | 2 =>
    let l := lfsrCodes b (16 * w) (cam * 2 ^ 24 ||| 0x5A5A5B)
    (List.range 16).map fun i => (l.drop (i * w)).take w
  | _ => List.replicate 16 (List.replicate w full)

/-- The expected signature of a test frame (R210, R211). -/
def testSignature (cam : Nat) (c : Camera) (p : CamParams) (pattern : Nat) : Nat :=
  crc32c (cfeLevels c p (testLines cam pattern (rawBits c.dataType) c.w)).flatten

end Sys2Proof.Machine
end

