-- ==== Sys2Proof/Machine/Ingest.lean ====
section
/-! DEFINITION. Camera ingest (R196, R197, R200-R203, R206-R212, R215) and the sensors' links. -/

namespace Sys2Proof.Machine

/-! ### Slots of device rings -/

/-- The free slot that was committed longest ago or never (R201). -/
def DevRing.freeSlot (r : DevRing) : Option Nat :=
  let free := (List.range r.slots.length).filter fun i => match r.slots[i]? with
    | some x => decide (x.bound = 0) && !x.writing && r.last ≠ some i
    | none => false
  let key : Nat → Nat := fun i => match r.slots[i]? with | some x => x.commitNo | none => 0
  match free with
  | [] => none
  | i :: rest => some (rest.foldl (fun a j => if key j < key a then j else a) i)

/-- Mark a slot as being written, or no longer. -/
def DevRing.setWriting (r : DevRing) (k : Nat) (b : Bool) : DevRing :=
  { r with slots := r.slots.mapIdx fun i x => if i = k then { x with writing := b } else x }

/-- A frame or window that is abandoned or dropped: its slot is free again, and DROPS counts it. -/
def DevRing.abandon (r : DevRing) (slot : Option Nat) : DevRing :=
  let r := match slot with | some k => r.setWriting k false | none => r
  { r with drops := satU 16 (r.drops + 1) }

/-- A commit of slot `k` (R199, R201). -/
def DevRing.commit (r : DevRing) (k tStart tEnd status : Nat) : DevRing :=
  { r with slots := r.slots.mapIdx fun i x => if i = k then { x with commitNo := r.seq + 1, writing := false } else x,
           seq := (r.seq + 1) % 2 ^ 32, drops := 0, last := some k, tStart := tStart, tEnd := tEnd, status := status }

/-! ### Cameras -/

/-- A camera is the stream of a port and virtual channel (R198). -/
def Camera.on (c : Camera) (port vc : Nat) : Bool := c.port = port && c.vc = vc

/-- A frame is open: its end has not come. -/
def Camera.isOpen (c : Camera) : Bool := match c.frame with | some f => !f.ended | none => false

/-- A frame has ended and its test frame is on its way (R210). -/
def Camera.testing (c : Camera) : Bool := match c.frame with | some f => f.ended | none => false

/-- The index of the camera that a port and virtual channel name, counting a descriptor that waits for its next frame. -/
def Sen.camAt (x : Sen) (port vc : Nat) : Option Nat :=
  (List.range 24).find? fun i => match x.cam i with | some c => c.on port vc | none => false

/-- The index of the camera with an open frame on a port and virtual channel. -/
def Sen.camOpen (x : Sen) (port vc : Nat) : Option Nat :=
  (List.range 24).find? fun i => match vget x.cameras i none with | some c => c.on port vc && c.isOpen | none => false

/-- Replace a camera. -/
def State.setCamera (i : Nat) (c : Camera) (s : State) : State := s.onSen fun x => { x with cameras := vset x.cameras i (some c) }

/-- The receiver and the CFE of a port run. -/
def State.cameraOn (s : State) (port : Nat) : Bool :=
  s.pins.rstN && s.pwr.domains &&& cameraMask port = cameraMask port && !s.sen.stopped.contains (0x18 + cfeOf port)

/-- Count a receiver event of a port: 0 corrected header, 1 bad header, 2 payload CRC, 3 unsupported type, 4 line beyond the
height, 5 pixels beyond the width. -/
def State.countCsi (port k : Nat) (s : State) : State :=
  s.onSen fun x =>
    let v := vget x.csiCounts port (Vector.replicate 6 0)
    { x with csiCounts := vset x.csiCounts port (vset v k (vget v k 0 + 1)) }

/-- A frame goes through an ingest engine (0, 1 CFE0 and CFE1; 2 the LPE) without loss by ECC: the losses in succession end (R208). -/
def State.engineGood (e : Nat) (s : State) : State := s.onSen fun x => { x with eccLost := vset x.eccLost e 0 }

/-- A descriptor that waits is in place from this frame start on (Table 8.6); a device ring of the same shape runs on. -/
def State.takeCamNext (i : Nat) (s : State) : State :=
  match vget s.sen.camNext i none with
  | none => s
  | some n =>
    let n := match vget s.sen.cameras i none with
      | some o => if o.sameShape n then { n with ring := o.ring, prevCounter := o.prevCounter, frame := o.frame } else n
      | none => n
    s.onSen fun x => { x with cameras := vset x.cameras i (some n), camNext := vset x.camNext i none }

/-- A camera's frame is abandoned by a frame start (R197); a frame that held no slot was counted when it was dropped. -/
def State.abandonOpen (i : Nat) (s : State) : State :=
  match vget s.sen.cameras i none with
  | none => s
  | some c =>
    match c.frame with
    | none => s
    | some f =>
      match f.slot with
      | some k => (s.setCamera i { c with ring := c.ring.abandon (some k), frame := none }).engineGood (cfeOf c.port)
      | none => s.setCamera i { c with frame := none }

/-- The frame start lies outside the window after its FSYNC output's latest edge (R215). -/
def State.syncLate (s : State) (c : Camera) (t : Nat) : Bool :=
  c.fsync ≠ 0xFF && match (vget s.sen.fsync c.fsync Fsync.off).lastEdge with
    | some e => !(decide (e ≤ t) && decide (t ≤ e + c.syncWindow))
    | none => true

/-- A frame start reaches the depacketiser (R197, R201, R206): an open frame is abandoned; the new one takes a free slot or is dropped
whole. `t` is its latched count. -/
def State.startFrame (port vc t : Nat) (s : State) : State :=
  match s.sen.camAt port vc with
  | none => s
  | some i =>
    if !s.cameraOn port then s else
    let s := match s.sen.camOpen port vc with | some k => if k = i then s else s.abandonOpen k | none => s
    let s := (s.takeCamNext i).abandonOpen i
    match vget s.sen.cameras i none with
    | none => s
    | some c =>
      let c := { c with params := c.nextParams.getD c.params, nextParams := none }
      let slot := c.ring.freeSlot
      let ring := match slot with | some k => c.ring.setWriting k true | none => c.ring.abandon none
      let f : CamFrame :=
        { slot := slot, tStart := t, tEnd := 0, ended := false, lines := [], repaired := 0, lineNo := 0, embSeen := 0,
          embOk := none, counterBad := false, syncLate := s.syncLate c t, pattern := 0, params := c.params }
      s.setCamera i { c with ring := ring, frame := some f }

/-- A repaired line: the previous accepted line of the frame, or zeros (R197). -/
def CamFrame.repair (f : CamFrame) (w : Nat) : CamFrame :=
  { f with lines := f.lines ++ [f.lines.getLast?.getD (List.replicate w 0)], repaired := f.repaired + 1 }

/-- A pixel line reaches the CFE: `codes` is none when its packet was discarded. -/
def CamFrame.line (f : CamFrame) (c : Camera) (codes : Option (List Nat)) : CamFrame :=
  let r := f.lineNo
  let f := { f with lineNo := r + 1 }
  if r < c.y0 ∨ c.y0 + c.h ≤ r then f
  else match codes with
    | some l => if l.length < c.x0 + c.w then f.repair c.w else { f with lines := f.lines ++ [(l.drop c.x0).take c.w] }
    | none => f.repair c.w

/-- The embedded region of the checked line compares well (R212). -/
def Camera.embGood (c : Camera) (p : List Byte) : Bool :=
  let region := (p.drop c.offset).take c.length
  if c.emb.testBit 1 then
    let q := (p.drop c.crcOffset).take 4
    decide (region.length = c.length) && decide (q.length = 4) &&
      decide (crc32c region = leNat (if c.emb.testBit 3 then q.reverse else q))
  else decide (region = c.reference.take c.length)

/-- The frame counter of the checked line. -/
def Camera.embCounter (c : Camera) (p : List Byte) : Nat :=
  let q := (p.drop c.fcOffset).take 2
  leNat (if c.emb.testBit 3 then q.reverse else q)

/-- An embedded data line of an open frame (R212). -/
def Camera.embLineAt (c : Camera) (f : CamFrame) (p : Option (List Byte)) : Camera :=
  let k := f.embSeen
  let f := { f with embSeen := k + 1 }
  match p with
  | some b =>
    if c.emb.testBit 0 && decide (k = c.embLine) then
      let n := c.embCounter b
      let bad := c.emb.testBit 4 && match c.prevCounter with | some q => decide (n ≠ (q + 1) % 65536) | none => false
      { c with frame := some { f with embOk := some (c.embGood b), counterBad := bad },
               prevCounter := if c.emb.testBit 4 then some n else c.prevCounter }
    else { c with frame := some f }
  | none => { c with frame := some f }

/-- The packet of a camera's open frame. -/
def Camera.packet (c : Camera) (f : CamFrame) (dt : Nat) (p : Option (List Byte)) : Camera :=
  if dt = c.dataType then { c with frame := some (f.line c (p.map (unpackRaw dt))) }
  else if dt = 0x12 then c.embLineAt f p
  else c

/-- The data types of Table 8.1. -/
def csiSupported (dt : Nat) : Bool := decide (0x2A ≤ dt ∧ dt ≤ 0x2F) || decide (dt = 0x12)

/-- A packet reaches the depacketiser (R197, R204, R212); its payload is none when it was discarded. -/
def State.takePacket (port vc dt : Nat) (p : Option (List Byte)) (s : State) : State :=
  match s.sen.camOpen port vc with
  | none => s
  | some i =>
    match vget s.sen.cameras i none with
    | none => s
    | some c =>
      match c.frame with
      | none => s
      | some f =>
        if !s.cameraOn port then s else
        let pix := decide (dt = c.dataType)
        let s := if pix && decide (c.y0 + c.h ≤ f.lineNo) then s.countCsi port 4 else s
        let wide := match p with | some b => decide (c.x0 + c.w < (unpackRaw dt b).length) | none => false
        let s := if pix && wide then s.countCsi port 5 else s
        s.setCamera i (c.packet f dt p)

/-- Missing lines at the frame end are repaired (R197). -/
def CamFrame.fill (f : CamFrame) (w : Nat) : Nat → CamFrame
  | 0 => f
  | n + 1 => (f.repair w).fill w n

/-- A frame end reaches the depacketiser (R197, R210): a frame past its REPAIR_LIMIT is abandoned; otherwise its test frame is
injected. `t` is its latched count. -/
def State.endFrame (port vc t : Nat) (s : State) : State :=
  match s.sen.camOpen port vc with
  | some i =>
    if !s.cameraOn port then s else
    match vget s.sen.cameras i none with
    | none => s
    | some c =>
      match c.frame with
      | none => s
      | some f =>
        let f := f.fill c.w (c.h - f.lines.length)
        match f.slot with
        | none => s.setCamera i { c with frame := none }
        | some k =>
          if c.repairLimit < f.repaired then
            (s.setCamera i { c with ring := c.ring.abandon (some k), frame := none }).engineGood (cfeOf port)
          else s.setCamera i { c with frame := some { f with ended := true, tEnd := t, pattern := (c.ring.seq + 1) % 4 } }
  | none =>
    match s.sen.camAt port vc with
    | none => s
    | some i =>
      if !s.cameraOn port then s else
      match vget s.sen.cameras i none with
      | none => s
      | some c => s.setCamera i { c with ring := c.ring.abandon none }

/-! ### The port's input buffer -/

/-- A test frame is in the port's pipeline, or the camera that a stream of the port is to be has one elsewhere (R210). -/
def Sen.csiBusy (x : Sen) (port : Nat) : Bool :=
  (List.range 24).any fun i => match vget x.cameras i none with
    | some c => c.testing && (c.port = port || match vget x.camNext i none with | some n => n.port = port | none => false)
    | none => false

/-- One item of a port's traffic leaves its input buffer. -/
def State.takeItem (port : Nat) (i : CsiItem) (s : State) : State :=
  match i with
  | .start vc t => s.startFrame port vc t
  | .packet vc dt p => s.takePacket port vc dt p
  | .stop vc t => s.endFrame port vc t

/-- A port's traffic leaves its input buffer in order, up to the next test frame (R210). -/
def State.drainCsi (port : Nat) : List CsiItem → State → State
  | [], s => s.onSen fun x => { x with csiWait := vset x.csiWait port [] }
  | i :: r, s =>
    if s.sen.csiBusy port then s.onSen fun x => { x with csiWait := vset x.csiWait port (i :: r) }
    else (s.takeItem port i).drainCsi port r

/-- Bytes that an item takes in the input buffer. -/
def CsiItem.size : CsiItem → Nat
  | .packet _ _ (some p) => p.length
  | _ => 0

/-- An item reaches a port's input buffer of 256 KiB; a packet that finds it full is discarded (DESIGN CHOICE, log 172: the manual
states no overflow). -/
def State.csiArrive (port : Nat) (i : CsiItem) (s : State) : State :=
  let held := vget s.sen.csiWait port []
  let i := match i with
    | .packet vc dt p => if 262144 < (held.map CsiItem.size).sum + i.size then .packet vc dt none else .packet vc dt p
    | x => x
  s.drainCsi port (held ++ [i])

/-- The receiver of a port runs. -/
def State.receiverOn (s : State) (port : Nat) : Bool := s.pins.rstN && s.pwr.domains.getLsbD (47 + cfeOf port)

/-- A frame start or end whose stream a camera has is accepted: its count is latched, it goes to CKC through agreement (R209, R302), and
into the port's input buffer. -/
def State.frameEvent (port vc : Nat) (isEnd : Bool) (t : Nat) (s : State) : State :=
  if (s.sen.camAt port vc).isNone && (s.sen.camOpen port vc).isNone || !s.receiverOn port then s
  else
    let s := s.advance t
    (s.ckcInput (.frameEvent port vc isEnd s.now)).csiArrive port (if isEnd then .stop vc s.now else .start vc s.now)

/-- FRAME_START (R197, R201, R209). -/
def doFrameStart (port : Fin 8) (vc : Fin 16) (t : Nat) (s : State) : State := s.frameEvent port.val vc.val false t
/-- FRAME_START (R197). -/
def execFrameStart (port : Fin 8) (vc : Fin 16) (t : Nat) (s : State) : Out := .next (doFrameStart port vc t s)

/-- FRAME_END (R197, R209, R210). -/
def doFrameEnd (port : Fin 8) (vc : Fin 16) (t : Nat) (s : State) : State := s.frameEvent port.val vc.val true t
/-- FRAME_END (R197). -/
def execFrameEnd (port : Fin 8) (vc : Fin 16) (t : Nat) (s : State) : Out := .next (doFrameEnd port vc t s)

/-- LONG_PACKET (R196, R197): the receiver checks the packet and counts what it finds. -/
def doLongPacket (port : Fin 8) (vc : Fin 16) (dt : Nat) (ecc : HeaderEcc) (crcOk : Bool) (p : List Byte) (s : State) : State :=
  if !s.receiverOn port.val then s else
  let s := match ecc with
    | .good => s | .corrected => s.countCsi port.val 0 | .bad => s.countCsi port.val 1
  let discard := ecc = .bad || !crcOk
  let s := if ecc ≠ .bad ∧ !crcOk then s.countCsi port.val 2 else s
  if !csiSupported dt then (if discard then s else s.countCsi port.val 3)
  else s.csiArrive port.val (.packet vc.val dt (if discard then none else some p))
/-- LONG_PACKET (R196). -/
def execLongPacket (port : Fin 8) (vc : Fin 16) (dataType : Nat) (ecc : HeaderEcc) (crcOk : Bool) (payload : List Byte) (s : State) : Out :=
  .next (doLongPacket port vc dataType ecc crcOk payload s)

/-! ### Commits -/

/-- The thumbnail of a committed frame goes into the models' buffers that name the camera (R207, R309). -/
def State.putThumb (cam : Nat) (w h : Nat) (vals : List Nat) (s : State) : State :=
  s.ckcSlots.foldl (fun s p => s.pushThumb p.1 p.2 cam w h (vals.flatMap (leBytes 2))) s

/-- An uncorrectable ECC error in the buffer of ingest engine `e` (R208, R335): the frame or window is lost; the second in
succession makes the engine suspect. -/
def State.ingestEcc (e : Nat) (u : UnitId) (sensor addr : Nat) (s : State) : State :=
  let f : FailReport := { detector := 0x07, unit := u, subunit := 0xFF, cls := 0xFF, address := addr, detail := BitVec.ofNat 32 sensor }
  let before := vget s.sen.eccLost e 0
  let s := s.onSen fun x => { x with eccLost := vset x.eccLost e (before + 1) }
  if before = 0 then (s.recordFault f (FaultCtx.none outAbandoned)).countErr (unitErrRow u) colTransient 1
  else s.suspect f (FaultCtx.none outSuspect)

/-- The STATUS of a camera frame at its commit (Table 8.3). -/
def Camera.statusOf (c : Camera) (f : CamFrame) (patternFail linkUp : Bool) : Nat :=
  flagBit 1 patternFail + flagBit 2 (f.embOk = some false) + flagBit 3 (c.emb.testBit 0 && c.emb.testBit 2 && f.embOk.isNone) +
    flagBit 4 (f.repaired ≠ 0) + flagBit 5 (decide (c.ring.drops ≠ 0) || f.counterBad) + flagBit 6 f.syncLate + flagBit 7 (!linkUp)

/-- The header of a committed camera frame (Table 8.2). -/
def Camera.header (i : Nat) (c : Camera) (f : CamFrame) (status sig exp : Nat) : List Byte :=
  leBytes 1 i ++ leBytes 1 c.port ++ leBytes 1 c.vc ++ leBytes 1 f.pattern ++ leBytes 4 status ++ leBytes 4 (c.ring.seq + 1) ++
    leBytes 2 c.ring.drops ++ leBytes 2 f.repaired ++ leBytes 8 f.tStart ++ leBytes 8 f.tEnd ++ leBytes 8 0 ++
    leBytes 4 (f.lines.length - f.repaired) ++ leBytes 4 0 ++ leBytes 4 sig ++ leBytes 4 exp ++ leBytes 8 0

/-- The frame commits (R201, R211). -/
def State.commitCamera (i : Nat) (c : Camera) (f : CamFrame) (k : Nat) (measured : Option Word) (s : State) : State :=
  let exp := testSignature i c f.params f.pattern
  let sig := match measured with | some w => w.toNat | none => exp
  let bad := decide (sig ≠ exp)
  let status := c.statusOf f bad (s.sen.csiUp.getLsbD c.port)
  let a := c.ring.base + k * c.ring.slotSize
  let s := s.putDram a (c.header i f status sig exp ++ cfePayload (cfeLevels c f.params f.lines))
  let s := (s.setCamera i { c with ring := c.ring.commit k f.tStart f.tEnd status, frame := none }).engineGood (cfeOf c.port)
  let s := s.putThumb i (c.w / 16) (c.h / 16) (cfeThumb c f.params f.lines)
  if bad then s.note 0x1004 sevError (0x18 + cfeOf c.port) i sig exp else s

/-- A CFE buffer's ECC error abandons the frame being written (R208): an open one takes no more of its lines. -/
def State.loseFrame (i : Nat) (c : Camera) (f : CamFrame) (addr : Nat) (s : State) : State :=
  let ring := match f.slot with | some k => c.ring.abandon (some k) | none => c.ring
  (s.setCamera i { c with ring := ring, frame := if f.ended then none else some { f with slot := none } }).ingestEcc (cfeOf c.port)
    (.cfe ⟨cfeOf c.port % 2, by omega⟩) i addr

/-- TEST_FRAME_COMPLETE (R208, R210, R211): the frame whose test frame has been checked commits, and the traffic that waited goes on.
`measured` is the signature where the hardware differs from its model, `ecc` the offset of an uncorrectable error, which also takes a
frame still open. -/
def doTestFrameComplete (cam : Fin 24) (ecc : Option Nat) (measured : Option Word) (s : State) : State :=
  match vget s.sen.cameras cam.val none with
  | none => s
  | some c =>
    match c.frame with
    | none => s
    | some f =>
      if !s.cameraOn c.port || (!f.ended && ecc.isNone) then s else
      let s := match ecc, f.slot with
        | some a, _ => s.loseFrame cam.val c f a
        | none, some k => s.commitCamera cam.val c f k measured
        | none, none => s.setCamera cam.val { c with frame := none }
      s.drainCsi c.port (vget s.sen.csiWait c.port [])
/-- TEST_FRAME_COMPLETE (R211). -/
def execTestFrameComplete (cam : Fin 24) (ecc : Option Nat) (measured : Option Word) (s : State) : Out :=
  .next (doTestFrameComplete cam ecc measured s)

/-! ### Links -/

/-- A sensor port gains or loses its link (R203). -/
def State.setSensorLink (p : SensorPort) (up : Bool) (s : State) : State :=
  match p with
  | .csi k => s.onSen fun x => { x with csiUp := if up then x.csiUp ||| (1#8 <<< k.val) else x.csiUp &&& ~~~(1#8 <<< k.val) }
  | .eth k => s.onSen fun x => { x with ethUp := if up then x.ethUp ||| (1#4 <<< k.val) else x.ethUp &&& ~~~(1#4 <<< k.val) }

/-- The domains of the port are on: its CSI PHY group, or PD46. -/
def State.sensorPortOn (s : State) (p : SensorPort) : Bool :=
  s.pins.rstN && match p with | .csi k => s.pwr.domains.getLsbD (47 + cfeOf k.val) | .eth _ => s.pwr.domains.getLsbD 46

/-- SENSOR_LINK_DOWN (R203). -/
def execSensorLinkDown (p : SensorPort) (s : State) : Out := .next (s.setSensorLink p false)
/-- SENSOR_LINK_UP (R203). -/
def execSensorLinkUp (p : SensorPort) (s : State) : Out := .next (if s.sensorPortOn p then s.setSensorLink p true else s)

end Sys2Proof.Machine
end

