-- ==== Sys2Proof/Machine/LidarIngest.lean ====
section
/-! DEFINITION. Lidar ingest (R216-R224): datagrams, windows, de-skew and grids. -/

namespace Sys2Proof.Machine

/-! ### Datagrams -/

/-- Replace a lidar. -/
def State.setLidar (i : Nat) (l : Lidar) (s : State) : State := s.onSen fun x => { x with lidars := vset x.lidars i (some l) }

/-- Count a discarded frame or datagram of a port by its reason (R216, R217). -/
def State.countEth (port reason : Nat) (s : State) : State :=
  s.onSen fun x =>
    let l := vget x.ethCounts port []
    let n := match l.find? (fun p => p.1 = reason) with | some p => p.2 | none => 0
    { x with ethCounts := vset x.ethCounts port ((reason, n + 1) :: l.filter fun p => p.1 ≠ reason) }

/-- The datagram belongs to the lidar (R217). -/
def Lidar.takes (l : Lidar) (port : Nat) (f : Datagram) : Bool :=
  l.port = port && l.ipVer = f.ipVer && l.srcIp = f.srcIp && l.udpPort = f.udpPort &&
    (match f.vid with | some v => decide (v = l.vid) | none => decide (l.vid = 0xFFFF))

/-- The MAC's copy into the lidar's buffers in CKC SRAM (R218, R309). -/
def State.copyLidar (l : Nat) (payload : List Byte) (arrival : Nat) (s : State) : State :=
  s.ckcSlots.foldl (fun s p => s.pushCopy p.1 p.2 l arrival payload) s

/-- The oldest window not yet committed. -/
def Lidar.baseK (l : Lidar) : Int :=
  match l.committedK with
  | some k => k + 1
  | none => l.windows.foldl (fun a w => min a w.k) l.nextK

/-- A window that has not been opened. -/
def Window.fresh (k : Int) : Window :=
  { k := k, slot := none, opened := false, points := [], lost := 0, seqGap := false, first := none, lastPkt := 0 }

/-- Update the window of index `k`, which begins empty. -/
def Lidar.onWindow (l : Lidar) (k : Int) (f : Window → Window) : Lidar :=
  if l.windows.any fun w => w.k = k then { l with windows := l.windows.map fun w => if w.k = k then f w else w }
  else { l with windows := l.windows ++ [f (Window.fresh k)] }

/-- The window of a point's time. -/
def Lidar.windowOf (l : Lidar) (t : Int) : Int := (t - l.phase) / (l.period : Int)

/-- A parameter of the grid: ORIGIN_X, ORIGIN_Y, ORIGIN_Z, CELL_XY, CELL_Z. -/
def Lidar.gridF (l : Lidar) (k : Nat) : Fp := f32 (l.grid.getD k 0).toNat

/-- The cell of a de-skewed point (R223). -/
def Lidar.cellOf (l : Lidar) (q : Fp × Fp × Fp) : Option (Nat × Nat × Nat) :=
  match within l.nx (gridIndex q.1 (l.gridF 0) (l.gridF 3)), within l.ny (gridIndex q.2.1 (l.gridF 1) (l.gridF 3)),
      within l.nz (gridIndex q.2.2 (l.gridF 2) (l.gridF 4)) with
  | some ix, some iy, some iz => some (ix, iy, iz)
  | _, _, _ => none

/-- The time of a datagram (R220 step 6): `arrival` is the vehicle time of the arrival count, `pt` the point that it is read for. -/
def Lidar.packetTime (l : Lidar) (p : List Byte) (pt : Nat) (arrival : Int) : Int :=
  let d := l.desc
  if d.timeSource = 0 then ((d.int? 10 p pt).getD 0) * d.timeUnit + d.timeEpoch else arrival

/-- The time of point `i` of a datagram (R220 step 6). -/
def Lidar.pointTime (l : Lidar) (p : List Byte) (pt i : Nat) (arrival : Int) : Int :=
  let d := l.desc
  match d.int? 11 p pt with
  | some v => l.packetTime p pt arrival + v * d.timeUnit
  | none => l.packetTime p pt arrival + i * d.timeStep

/-- The window is the oldest one not committed, or the next (R220 step 7). -/
def Lidar.near (l : Lidar) (k : Int) : Bool := k = l.baseK || k = l.baseK + 1

/-- One point lost (R220): counted in its own window, or in the oldest open one when that is not open. -/
def Lidar.lose (l : Lidar) (k : Int) : Lidar :=
  l.onWindow (if l.near k then k else l.baseK) fun w => { w with lost := w.lost + 1 }

/-- A packet's gap or discard, marked in the window of its time (Table 8.3). -/
def Lidar.gap (l : Lidar) (t : Int) : Lidar :=
  let k := l.windowOf t
  l.onWindow (if l.near k then k else l.baseK) fun w => { w with seqGap := true }

/-- One point of a datagram (R220 steps 1 to 8): the packet counts for its window (R222), and the point is kept if nothing drops it. `mine`
tells the times of the points that this lidar takes. -/
def Lidar.takePoint (mine : Int → Bool) (p : List Byte) (arrival : Int) (now : Nat) (l : Lidar) (e : Nat × Nat) : Lidar :=
  let t := l.pointTime p e.2 e.1 arrival
  let k := l.windowOf t
  if !mine t then l
  else
    let l := if l.near k then l.onWindow k fun w => { w with first := some (w.first.getD now), lastPkt := now } else l
    match l.desc.point p e.2 with
    | none => l.lose k
    | some r =>
      let q := extrinsicAt l.extrinsic r
      let inRange := (f32 l.minRange.toNat).le r.range && r.range.le (f32 l.maxRange.toNat)
      if !inRange || !l.near k || r.inten.lt (f32 l.minIntensity.toNat) || (l.cellOf q).isNone then l.lose k
      else
        let pt : Point := { x := BitVec.ofNat 32 q.1.code32, y := BitVec.ofNat 32 q.2.1.code32, z := BitVec.ofNat 32 q.2.2.code32,
                            intensity := BitVec.ofNat 32 r.inten.code32, time := t }
        l.onWindow k fun w => { w with points := w.points ++ [pt] }

/-- The SEQUENCE of a datagram is the previous value plus 1 in its field's width (R220). -/
def Lidar.seqOf (l : Lidar) (p : List Byte) : Option (Nat × Nat) :=
  (l.desc.field? 12).map fun f => (codeOf f.bits (f.raw p l.desc.pointOffset), f.bits)

/-- A datagram of a lidar reaches the LPE (R219, R220). -/
def Lidar.takeDatagram (mine : Int → Bool) (l : Lidar) (p : List Byte) (arrival : Int) (now : Nat) : Lidar :=
  let gap := match l.seqOf p, l.lastSeq with
    | some (v, b), some q => decide (v ≠ (q + 1) % 2 ^ b)
    | _, _ => false
  let l := if gap then l.gap (l.packetTime p l.desc.pointOffset arrival) else l
  let l := { l with lastSeq := match l.seqOf p with | some (v, _) => some v | none => l.lastSeq, arrivals := l.arrivals + 1 }
  ((l.desc.offsets p).mapIdx fun i o => (i, o)).foldl (Lidar.takePoint mine p arrival now) l

/-- The LPE runs. -/
def State.lpeOn (s : State) : Bool := s.pins.rstN && s.pwr.domains.getLsbD 40 && !s.sen.stopped.contains 0x1A

/-- Update a lidar: the one configured and, while it has windows to commit, the one it replaced (R225). -/
def State.onLidar (i : Nat) (f : Lidar → Lidar) (s : State) : State :=
  s.onSen fun x => { x with lidars := vset x.lidars i ((vget x.lidars i none).map f), lidOld := vset x.lidOld i ((vget x.lidOld i none).map f) }

/-- The lidar that a datagram belongs to (R217), as configured or as it was when its last open window began. -/
def Sen.lidarOf (x : Sen) (port : Nat) (d : Datagram) : Option Nat :=
  let has := fun (o : Option Lidar) => match o with | some l => l.takes port d | none => false
  ((List.range 8).find? fun i => has (vget x.lidars i none)).or ((List.range 8).find? fun i => has (vget x.lidOld i none))

/-- A time lies in a window that a lidar has open. -/
def Lidar.holds (l : Lidar) (t : Int) : Bool := l.windows.any fun w => w.opened && w.k = l.windowOf t

/-- A datagram of a lidar reaches the LPE with no room missing (R219, R220): its points go to the windows of the lidar, those of a window
that began before its present descriptor to that (R225). -/
def State.lidarPoints (i port : Nat) (d : Datagram) (s : State) : State :=
  let arrival := s.vnow
  let short := fun (l : Lidar) => decide (d.payload.length < l.desc.payloadMin)
  let old := (vget s.sen.lidOld i none).filter fun o => o.takes port d
  let cur := (vget s.sen.lidars i none).filter fun l => l.takes port d
  let early := fun (t : Int) => match old with | some o => o.holds t | none => false
  let run := fun (mine : Int → Bool) (l : Lidar) => if short l then l.gap arrival else l.takeDatagram mine d.payload arrival s.now
  let counts := match cur.or old with | some l => short l | none => false
  let s := match old with | some o => s.onSen fun x => { x with lidOld := vset x.lidOld i (some (run early o)) } | none => s
  let s := match cur with | some l => s.setLidar i (run (fun t => !early t) l) | none => s
  if counts then s.countEth port ethShort else s

/-- LIDAR_DATAGRAM (R216-R220, R224): a port receives a frame, its FCS included; `full` says that its input buffer was full. -/
def doLidarDatagram (port : Fin 4) (frame : List Byte) (full : Bool) (t : Nat) (s : State) : State :=
  if !(s.pins.rstN && s.pwr.domains.getLsbD 46) then s else
  let s := s.advance t
  let r := receive frame
  if r.pause then s else
  let who := match r.datagram with | some d => s.sen.lidarOf port.val d | none => none
  match r.discard, r.datagram, who with
  | some n, _, some i => (s.onLidar i fun l => l.gap s.vnow).countEth port.val n
  | some n, _, none => s.countEth port.val n
  | none, some d, some i =>
    let s := s.copyLidar i d.payload s.now
    if full then (s.onLidar i fun l => l.gap s.vnow).countEth port.val ethFull
    else if s.lpeOn then s.lidarPoints i port.val d
    else s
  | none, _, _ => s.countEth port.val ethNoLidar
/-- LIDAR_DATAGRAM (R217). -/
def execLidarDatagram (port : Fin 4) (frame : EthArrival) (t : Nat) (s : State) : Out :=
  .next (doLidarDatagram port frame.bytes frame.full t s)

/-! ### Opening a window -/

/-- The vehicle time at which window `k` begins (R222). -/
def Lidar.startOf (l : Lidar) (k : Int) : Int := l.phase + k * l.period

/-- Two device rings of the same place and shape. -/
def DevRing.same (a b : DevRing) : Bool := decide (a.base = b.base) && decide (a.slotSize = b.slotSize) && decide (a.slots.length = b.slots.length)

/-- A LIDAR descriptor that waits is in place from the next window on (Table 8.6): a device ring of the same shape runs on, and the lidar
it replaces keeps the windows that have still to commit. -/
def State.takeLidNext (i : Nat) (s : State) : State :=
  match vget s.sen.lidNext i none, vget s.sen.lidars i none with
  | some n, some o =>
    let n := if n.ring.same o.ring then { n with ring := o.ring } else n
    s.onSen fun x => { x with lidars := vset x.lidars i (some n), lidNext := vset x.lidNext i none,
                              lidOld := vset x.lidOld i (if o.windows.any fun w => w.opened then some o else none) }
  | some n, none => s.onSen fun x => { x with lidars := vset x.lidars i (some n), lidNext := vset x.lidNext i none }
  | none, _ => s

/-- LIDAR_WINDOW_OPEN (R201, R222): vehicle time reaches the start of the lidar's next window, which takes a free slot or is
dropped whole; a descriptor that waits is in place from here (Table 8.6). -/
def doLidarWindowOpen (i : Nat) (s : State) : State :=
  if !s.lpeOn then s else
  let s := s.takeLidNext i
  match vget s.sen.lidars i none with
  | none => s
  | some l =>
    let k := l.nextK
    let s := s.advance (countAt s.tim (l.startOf k))
    let slot := l.ring.freeSlot
    let ring := match slot with | some j => l.ring.setWriting j true | none => l.ring.abandon none
    let l := { l with ring := ring, nextK := k + 1 }
    s.setLidar i (l.onWindow k fun w => { w with slot := slot, opened := true })
/-- LIDAR_WINDOW_OPEN (R201). -/
def execLidarWindowOpen (lid : Fin 8) (s : State) : Out := .next (doLidarWindowOpen lid.val s)

/-! ### Committing a window -/

/-- The motion record that de-skews a window to REF_TIME (R221); none when no record qualifies or it is too old. -/
def Lidar.motionFor (l : Lidar) (ms : List Motion) (ref : Int) : Option Motion :=
  match latestMotion (ms.filter fun m => decide (m.tValid ≤ ref)) with
  | some m => if (l.maxAge : Int) < ref - m.tValid then none else some m
  | none => none

/-- De-skew of one point (R221). -/
def deskew (m : Option Motion) (ref : Int) (p : Point) : Fp × Fp × Fp :=
  let x := f32 p.x.toNat
  let y := f32 p.y.toNat
  let z := f32 p.z.toNat
  match m with
  | none => (x, y, z)
  | some m =>
    let dt := fmul (Fp.ofInt (ref - p.time)).r32 (fdec 1 9)
    let th := fmul (f32 m.yaw.toNat) dt
    let dx := fsub x (fmul (f32 m.vx.toNat) dt)
    let dy := fsub y (fmul (f32 m.vy.toNat) dt)
    (fadd (fmul (fcos th) dx) (fmul (fsin th) dy), fsub (fmul (fcos th) dy) (fmul (fsin th) dx), fsub z (fmul (f32 m.vz.toNat) dt))

/-- A point with its place in the grid. -/
structure Placement where
  cell : Nat
  ix : Nat
  iy : Nat
  iz : Nat
  q : Fp × Fp × Fp
  pt : Point
  deriving DecidableEq, Repr

/-- The centre of a cell along an axis. -/
def cellCentre (origin cell : Fp) (i : Nat) : Fp := fadd origin (fmul (fadd (Fp.ofNat i) (Fp.fin false 1 (-1))) cell)

/-- Feature codes 0 to 7: X, Y, Z, INTENSITY, DT, XC, YC, ZC (R223). -/
def Lidar.feature (l : Lidar) (ref : Int) (p : Placement) (k : Nat) : Fp :=
  match k with
  | 0 => p.q.1
  | 1 => p.q.2.1
  | 2 => p.q.2.2
  | 3 => f32 p.pt.intensity.toNat
  | 4 => fmul (Fp.ofInt (ref - p.pt.time)).r32 (fdec 1 9)
  | 5 => fsub p.q.1 (cellCentre (l.gridF 0) (l.gridF 3) p.ix)
  | 6 => fsub p.q.2.1 (cellCentre (l.gridF 1) (l.gridF 3) p.iy)
  | _ => fsub p.q.2.2 (cellCentre (l.gridF 2) (l.gridF 4) p.iz)

/-- The bytes of feature number `j` of a point (R223). -/
def Lidar.featBytes (l : Lidar) (ref : Int) (p : Placement) (j : Nat) : List Byte :=
  let v := l.feature ref p (l.features.getD j 0)
  let v := if fmtIsInt l.featFmt then fdiv v (f32 (l.featScale.getD j 0).toNat) else v
  leBytes (featElem l.featFmt) (fmtCode l.featFmt .rne false 0 v)

/-- Distinct cells in ascending order. -/
def insertCell (k : Nat) : List Nat → List Nat
  | [] => [k]
  | c :: r => if k < c then k :: c :: r else if k = c then c :: r else c :: insertCell k r

/-- A window's grid: cells written, points kept, points lost, overflow, payload (R223). -/
structure GridOut where
  cells : Nat
  kept : Nat
  lost : Nat
  overflow : Bool
  payload : List Byte
  deriving DecidableEq, Repr

/-- A part of the payload, padded with zeros to its size rounded up to 64. -/
def padTo (n : Nat) (b : List Byte) : List Byte := b.take n ++ List.replicate (up64 n - min n b.length) 0#8

/-- Scatter a window's points into its grid (R223). -/
def Lidar.scatter (l : Lidar) (m : Option Motion) (ref : Int) (pts : List Point) : GridOut :=
  let ps : List Placement := pts.filterMap fun p =>
    let q := deskew m ref p
    (l.cellOf q).map fun c => { cell := (c.2.2 * l.ny + c.2.1) * l.nx + c.1, ix := c.1, iy := c.2.1, iz := c.2.2, q := q, pt := p }
  let all := ps.foldl (fun a p => insertCell p.cell a) []
  let cells := all.take l.maxCells
  let rows := cells.map fun k => (ps.filter fun p => p.cell = k)
  let held := rows.map fun r => r.take l.p
  let kept := (held.map List.length).sum
  let nf := l.features.length
  let es := featElem l.featFmt
  let feats := held.flatMap fun r =>
    (r.flatMap fun p => (List.range nf).flatMap fun j => l.featBytes ref p j) ++ List.replicate ((l.p - r.length) * nf * es) 0#8
  { cells := cells.length, kept := kept, lost := pts.length - kept,
    overflow := decide (l.maxCells < all.length) || rows.any fun r => decide (l.p < r.length),
    payload := padTo (4 * l.maxCells) (cells.flatMap fun k => leBytes 4 k) ++ padTo l.maxCells (held.map fun r => BitVec.ofNat 8 r.length) ++
      padTo (l.maxCells * l.p * nf * es) feats }

/-- The lidar whose window commits next: the replaced one while it has one open, with the device ring that runs on (R225); and whether it
is that. -/
def Sen.committing (x : Sen) (i : Nat) : Option (Lidar × Bool) :=
  match vget x.lidOld i none, vget x.lidars i none with
  | some o, some l => some (if l.ring.same o.ring then { o with ring := l.ring } else o, true)
  | _, o => o.map fun l => (l, false)

/-- Put back the lidar of a commit. -/
def Sen.putCommitted (x : Sen) (i : Nat) (l : Lidar) (old : Bool) : Sen :=
  if old then
    { x with lidOld := vset x.lidOld i (if l.windows.any fun w => w.opened then some l else none),
             lidars := vset x.lidars i ((vget x.lidars i none).map fun c => if c.ring.same l.ring then { c with ring := l.ring } else c) }
  else { x with lidars := vset x.lidars i (some l) }

/-- The window commits (R221-R223): its slot gets the header and the payload. -/
def State.commitWindow (i : Nat) (l : Lidar) (old : Bool) (w : Window) (k : Nat) (s : State) : State :=
  let ref := l.startOf (w.k + 1)
  let m := l.motionFor s.sen.motions ref
  let g := l.scatter m ref w.points
  let empty := w.first.isNone
  let tS := w.first.getD (countAt s.tim (l.startOf w.k))
  let tE := if empty then countAt s.tim ref else w.lastPkt
  let status := flagBit 0 empty + flagBit 5 (decide (l.ring.drops ≠ 0)) + flagBit 7 (!s.sen.ethUp.getLsbD l.port) + flagBit 8 w.seqGap +
    flagBit 9 (m.isNone && !empty) + flagBit 10 g.overflow
  let head := leBytes 1 (0x80 + i) ++ leBytes 1 l.port ++ leBytes 1 0xFF ++ leBytes 1 0 ++ leBytes 4 status ++ leBytes 4 (l.ring.seq + 1) ++
    leBytes 2 l.ring.drops ++ leBytes 2 0 ++ leBytes 8 tS ++ leBytes 8 tE ++ leBytes 8 (codeOf 64 ref) ++ leBytes 4 g.kept ++
    leBytes 4 (w.lost + g.lost) ++ leBytes 8 0 ++ leBytes 4 g.cells ++ leBytes 4 0
  let s := s.putDram (l.ring.base + k * l.ring.slotSize) (head ++ g.payload)
  let l' := { l with ring := l.ring.commit k tS tE status, windows := l.windows.filter (fun x => x.k ≠ w.k), committedK := some w.k }
  (s.onSen fun x => x.putCommitted i l' old).engineGood 2

/-- LIDAR_WINDOW_COMMIT (R208, R222): vehicle time reaches the end of the oldest open window plus LATENESS. -/
def doLidarWindowCommit (i : Nat) (ecc : Option Nat) (s : State) : State :=
  if !s.lpeOn then s else
  match s.sen.committing i with
  | none => s
  | some (l, old) =>
    match l.windows.find? fun w => w.opened with
    | none => s
    | some w =>
      let s := s.advance (countAt s.tim (l.startOf (w.k + 1) + l.lateness))
      let gone : Lidar := { l with windows := l.windows.filter (fun x => x.k ≠ w.k), committedK := some w.k }
      match w.slot, ecc with
      | some k, none => s.commitWindow i l old w k
      | some k, some a =>
        (s.onSen fun x => x.putCommitted i { gone with ring := l.ring.abandon (some k) } old).ingestEcc 2 .lpe (24 + i) a
      | none, _ => s.onSen fun x => x.putCommitted i gone old
/-- LIDAR_WINDOW_COMMIT (R222). -/
def execLidarWindowCommit (lid : Fin 8) (ecc : Option Nat) (s : State) : Out := .next (doLidarWindowCommit lid.val ecc s)

end Sys2Proof.Machine
end

