-- ==== Sys2Proof/WellFormed.lean ====
section
/-! DEFINITION. Which operands a command may carry: the widths and ranges that the manual gives the packets, frames, words and
measurements that a command brings from outside. -/

namespace Sys2Proof

/-- CLASS of a sequencer instruction word (Table 4.7). -/
def classOf (w : BitVec 128) : Nat := w.toNat / 2 ^ 124

/-- A ring ID (R256, R271). -/
def ringId (r : Nat) : Bool := decide (r < 2 ^ 20)

/-- A 64-byte aligned byte string of a signed authorisation or a packet source. -/
def bytes64 (b : List Byte) : Bool := decide (b.length % 64 = 0)

/-- A width that a PCIe write to a doorbell page may have, in bits (R253). -/
def busWidth (w : Nat) : Bool := w = 8 || w = 16 || w = 32 || w = 64

/-- A repair names a unit code and a part of it (R390). -/
def Repair.wf (r : Repair) : Bool := decide (r.unitCode < 256) && decide (r.sub < 256) && decide (r.row < 65536)

/-- What DISCOVER saw on every port (R382-R384). -/
def Observation.wf (o : Observation) : Bool :=
  o.lenStatus.length = 8 && o.lenRaw.length = 8 && o.datagrams.length = 4 && o.matched.length = 4 && o.partner.length = 4 &&
    o.cameras.all (fun c => decide (c.port < 8) && decide (c.vc < 16)) && o.i2cAcks.all fun a => decide (a < 512)

/-- Timing sentinels of a unit (Table 2.1). -/
def sentinels : UnitId → Nat
  | .mxc _ => 96 | .eng _ => 16 | .cfe _ => 16 | .lpe => 16 | .hub => 32 | .sb => 32 | .emt => 8 | _ => 0

/-- What the windows cut by an interval's ends add to a monitor's count (R35): less than a window's count either way. -/
def edgesOk (l : List Int) : Bool := l.length = 17 && l.all fun e => decide (e.natAbs < 2 ^ 16)

/-- The operands of a command lie in the ranges that the manual gives them. -/
def Instr.wf : Instr → Bool
  | .doorbell page offset width _ => decide (page < 4096) && decide (offset < 4096) && busWidth width
  | .packetFetch r _ => ringId r
  | .readError (.fetch r _) => ringId r
  | .readError (.poisoned _) => true
  | .readError (.powerState _) => true
  | .hello r => ringId r
  | .queryCaps r => ringId r
  | .openClient r => ringId r
  | .closeClient r => ringId r
  | .createRing r => ringId r
  | .destroyRing r => ringId r
  | .loadContract r _ inj => ringId r && (match inj with | some k => decide (k < 312) | none => true)
  | .armContract r => ringId r
  | .launchAt r => ringId r
  | .stopFrames r => ringId r
  | .programAborted => true
  | .submitJob r => ringId r
  | .jobDispatch => true
  | .runOp r streams banks segs => ringId r && streams.all (fun p => decide (p.1 < 8)) && banks.all (fun b => decide (b < 64)) && segs.all fun g => decide (g < 6)
  | .endJob r => ringId r
  | .kill r _ => ringId r
  | .setCapacity r => ringId r
  | .seqJoin r => ringId r
  | .seqLeave r => ringId r
  | .mapBuffer r => ringId r
  | .unmapBuffer r => ringId r
  | .camera r => ringId r
  | .camParams r => ringId r
  | .lidar r => ringId r
  | .motion r => ringId r
  | .cci r => ringId r
  | .disable r => ringId r
  | .fsyncSchedule r => ringId r
  | .timeConfig r => ringId r
  | .timeAcceptStep r => ringId r
  | .logRead r => ringId r
  | .logClear r _ _ => ringId r
  | .statsRead r => ringId r
  | .updateBegin r => ringId r
  | .updateData r src => ringId r && bytes64 src
  | .updateCommit r _ => ringId r
  | .imageAreaWrite _ => true
  | .recoverySelfReset => true
  | .attest r => ringId r
  | .authChallenge r => ringId r
  | .challengeExpiry _ => true
  | .prepareOff r => ringId r
  | .offReady reps _ => reps.all Repair.wf
  | .diagRun r _ _ => ringId r
  | .flagClear r _ _ => ringId r
  | .checkerSplit r => ringId r
  | .checkerJoin r => ringId r
  | .discover r => ringId r
  | .halt _ w => classOf w = 0x0
  | .loadw _ w => classOf w = 0x1
  | .mma _ w => classOf w = 0x2
  | .conv _ w => classOf w = 0x3
  | .drain _ w => classOf w = 0x4
  | .vop _ w => classOf w = 0x5
  | .scalar _ w => classOf w = 0x6
  | .segEnd _ => true
  | .fcvtBf16S _ _ _ => true
  | .fcvtSBf16 _ _ _ => true
  | .fcvtE4m3S _ _ _ => true
  | .fcvtSE4m3 _ _ _ => true
  | .dmaIn _ w => classOf w = 0x7
  | .dmaOut _ w => classOf w = 0x8
  | .gather _ w => classOf w = 0x9
  | .gatherDescriptor => true
  | .wait _ w => classOf w = 0xA
  | .waitSatisfied _ => true
  | .post _ w => classOf w = 0xB
  | .golden _ w => classOf w = 0xD
  | .coppice _ w _ _ _ => classOf w = 0xE
  | .commit _ waves frameWaves => edgesOk waves && edgesOk frameWaves
  | .replay _ _ => true
  | .drainComplete => true
  | .conv2d _ _ => true
  | .dwconv2d _ _ => true
  | .pool _ _ => true
  | .pad _ _ => true
  | .matmul _ _ => true
  | .eltwise _ _ => true
  | .activation _ _ => true
  | .layerNorm _ _ => true
  | .softmax _ _ => true
  | .layoutConvert _ _ => true
  | .attention _ _ => true
  | .ssmScan _ _ => true
  | .embedGather _ _ => true
  | .resize _ _ => true
  | .gridSample _ _ => true
  | .undistort _ _ => true
  | .bevProject _ _ => true
  | .boxDecode _ _ => true
  | .topk _ _ => true
  | .nms _ _ => true
  | .quantise _ _ => true
  | .dequantise _ _ => true
  | .amax _ _ => true
  | .loss _ _ => true
  | .ssmScanBwd _ _ => true
  | .gradNorm _ _ => true
  | .optAdamw _ _ => true
  | .optSgd _ _ => true
  | .launch => true
  | .preemptionKillToken => true
  | .slotOpen => true
  | .recordDelivery _ => true
  | .verdictDeadline => true
  | .frameTrailer => true
  | .tileRecordCheck _ => true
  | .bandVerdict => true
  | .frameVerdict => true
  | .voterTransaction _ kind addr _ _ _ => decide (kind < 5) && decide (addr < 2 ^ 48)
  | .oddLaneTimeout _ => true
  | .resyncCopyComplete => true
  | .bandBoundary => true
  | .laneSelftest _ => true
  | .ckcAlive => true
  | .nop _ _ => true
  | .release _ _ => true
  | .forceSafe _ _ => true
  | .spiRequestDiscarded _ _ => true
  | .frameStart _ _ _ => true
  | .longPacket _ _ dt _ _ payload => decide (dt < 64) && decide (payload.length < 65536)
  | .frameEnd _ _ _ => true
  | .testFrameComplete _ _ _ => true
  | .lidarDatagram _ f _ => decide (f.bytes.length ≤ 16384)
  | .lidarWindowCommit _ _ => true
  | .i2cClockStretchTimeout _ done reads => decide (reads.length ≤ done)
  | .sync _ _ _ => true
  | .announce _ => true
  | .pdelayReq _ => true
  | .pdelayReqInitiate => true
  | .pdelayResp _ _ _ => true
  | .holdoverTimeout => true
  | .holdover => true
  | .ppsIn _ _ => true
  | .ppsOutPlacement => true
  | .ppsOut => true
  | .fsyncPlacement _ => true
  | .fsyncEdge _ => true
  | .domainOff d => decide (d < 50)
  | .domainOn d => decide (d < 50)
  | .rateTarget r => decide (r < 65536)
  | .park => true
  | .powerGateOpen d => decide (d < 50)
  | .domainSwitchComplete d => decide (d < 50)
  | .rateMonitorWindow rates => rates.length = 17
  | .sentinelFlag u e => decide (e.index < sentinels u)
  | .emtMarginExpiry => true
  | .belowFloor _ => true
  | .supplyLoopEvaluation _ _ => true
  | .avsbusTimeout => true
  | .monitorSample tj supply => tj.length = 32 && supply.length = 24
  | .thermalCapStep => true
  | .thermalTrip => true
  | .mr4Read _ _ _ => true
  | .patrolScrub _ f => (match f with | .uncorrectable d _ => decide (d < 16) | _ => true)
  | .eccWriteBack (.corrected _) => true
  | .eccWriteBack (.failed c) => decide (c < 32)
  | .coppiceSlice _ _ _ => true
  | .rstNAssert => true
  | .rstNRelease m _ => decide (m.toNat < 4)
  | .perstNAssert => true
  | .perstNRelease => true
  | .functionLevelReset => true
  | .pwrfailNAssert _ => true
  | .ownerProvision _ => true
  | .dbgChallenge => true
  | .dbgResponse _ _ => true
  | .bar4Access off w size => decide (off + size ≤ 2 ^ 30) && (match w with | some b => b.length = size | none => true)
  | .hifEventWrite _ => true
  | .hifEventMaskWrite _ => true
  | .hifBar4WindowWrite _ => true
  | .adminEnable _ => true
  | .adminDisable _ => true
  | .take => true
  | .apply => true
  | .regionApplyComplete => true
  | .mssSafeReserveWrite _ => true
  | .mssThermalCfgWrite _ => true
  | .mssEventRateWrite _ _ => true
  | .hifDoorbellErrorsRead => true
  | .emtHostDropsRead => true
  | .ckcCopyDropsRead => true
  | .dbgStatusRead => true
  | .pwrReqStatusRead => true
  | .registerWrite off width _ => busWidth width && decide (off < 65536)
  | .eventFlashWrite => true
  | .sectorErase => true
  | .opMark => true
  | .periodicSnapshot => true
  | .histogramTick => true
  | .tokenRefill code => decide (code < 65536)
  | .endOfStart _ rate _ reps _ => (rate = 8533 || rate = 7500 || rate = 6400) && reps.all Repair.wf
  | .discoverComplete obs => obs.wf
  | .diagRunComplete _ reps => reps.all Repair.wf
  | .cciOperationComplete _ done reads => decide (reads.length ≤ done)
  | .lidarWindowOpen _ => true
  | .flagRecordWritten => true
  | .snapshotWriteComplete => true
  | .pcieLinkDown => true
  | .pcieLinkUp speed width => decide (1 ≤ speed ∧ speed ≤ 4) && (width = 1 || width = 2 || width = 4)
  | .sensorLinkDown _ => true
  | .sensorLinkUp _ => true

end Sys2Proof
end

