-- ==== Sys2Proof/Machine/Power.lean ====
section
/-! DEFINITION. Power domains and requests (R136-R138, R368-R375), the rate loop and the supply loop (R24-R31, R376-R379),
monitors and thermal limits (R143, R380, R381), scrubbing (R127, R140) and DISCOVER (R382-R384). -/

namespace Sys2Proof.Machine

/-! ### PWR_REQUEST -/

/-- A PWR_REQUEST write: ignored and counted while BUSY (R371). -/
def State.pwrRequest (body : State → State) (s : State) : State :=
  if !s.bar0Open then s
  else if s.pwr.busy.isSome then s.onPwr fun p => { p with ignored := satU 8 (p.ignored + 1) }
  else body s

/-- Domains that PWR_REQUEST switches (R372). -/
def pwrSwitchable (d : Nat) : Bool :=
  decide (d < 32 ∧ d % 4 = 3) || decide (32 ≤ d ∧ d ≤ 44) || d = 47 || d = 48

/-- A contract holds a bank, segment or engine of a domain (R138, R372). -/
def Ctr.holdsDomain (c : Ctr) (d : Nat) : Bool :=
  c.banks.any (fun b => decide (bankDomain (b / 8) (b % 8) = d)) || c.segs.any (fun g => decide (segDomain g = d)) ||
    (decide (41 ≤ d ∧ d ≤ 44) && c.held.any fun k => k.hdr.engineSet.testBit (d - 41))

/-- A configured sensor is served by a domain (R372). -/
def Sen.needsDomain (x : Sen) (d : Nat) : Bool :=
  x.cams.any (fun c => (cameraMask c.2.port).getLsbD d) || (d = 40 && !x.lids.isEmpty)

/-- The domain's banks run as a cache (R138). -/
def State.cacheDomain (s : State) (d : Nat) : Bool :=
  (List.finRange 8).any fun c => decide (d = 4 * c.val + 3) && (s.fab.caches.get c).isSome

/-- DOMAIN_OFF (R136, R138, R372): the banks close, then the gate opens; a domain that is switching on first comes on. -/
def doDomainOff (d : Nat) (s : State) : State :=
  s.pwrRequest fun s =>
    if !pwrSwitchable d || s.ctr.holdsDomain d || s.sen.needsDomain d || s.cacheDomain d then s.pwrEnd stBadParam
    else if !(s.pwr.domains ||| s.pwr.rising).getLsbD d then s.pwrEnd stDone
    else s.onPwr fun p => { p with closing := p.closing ||| (1#64 <<< d), busy := some d }
/-- DOMAIN_OFF (R372). -/
def execDomainOff (domain : Nat) (s : State) : Out := .next (doDomainOff domain s)

/-- DOMAIN_ON (R369, R372). -/
def doDomainOn (d : Nat) (s : State) : State :=
  s.pwrRequest fun s =>
    if !pwrSwitchable d then s.pwrEnd stBadParam
    else if s.pwr.domains.getLsbD d then s.pwrEnd stDone
    else s.onPwr fun p => { p with rising := p.rising ||| (1#64 <<< d), busy := some d }
/-- DOMAIN_ON (R372). -/
def execDomainOn (domain : Nat) (s : State) : Out := .next (doDomainOn domain s)

/-- POWER_GATE_OPEN (R136): the gate opens and the contents are lost. Each write is issued and lands, or is discarded, within
the command that makes it, so that no outstanding-write counter stands above zero here (log 156). -/
def doPowerGateOpen (d : Nat) (s : State) : State :=
  if s.pins.rstN && s.pwr.closing.getLsbD d && !s.pwr.rising.getLsbD d then
    let s := s.gateOff (1#64 <<< d)
    if s.pwr.busy = some d then s.pwrEnd stDone else s
  else s
/-- POWER_GATE_OPEN (R136). -/
def execPowerGateOpen (domain : Nat) (s : State) : Out := .next (doPowerGateOpen domain s)

/-- RATE_TARGET (R27, R372). -/
def doRateTarget (rate : Nat) (s : State) : State :=
  s.pwrRequest fun s =>
    if rate < s.sec.floor ∨ 1150 < rate ∨ rate % 10 ≠ 0 then s.pwrEnd stBadParam
    else ((s.onPwr fun p => { p with hostRate := rate }).rateChanged).pwrEnd stDone
/-- RATE_TARGET (R372). -/
def execRateTarget (rate : Nat) (s : State) : Out := .next (doRateTarget rate s)

/-! ### PARKED -/

/-- Domains that are on at READY (Table 15.1). -/
def readyDomains : BitVec 64 := BitVec.ofNat 64 (2 ^ 38 - 1 + 15 * 2 ^ 41 + 3 * 2 ^ 45)

/-- Ingest in progress ends when its domains go off: open frames and windows are lost, links are down. -/
def Sen.quiesce (x : Sen) : Sen :=
  { x with
    cameras := x.cameras.map fun o => o.map fun c => match c.frame with
      | some f => { c with ring := if f.slot.isSome then c.ring.abandon f.slot else c.ring, frame := none }
      | none => c
    lidars := x.lidars.map fun o => o.map fun l =>
      { l with ring := l.windows.foldl (fun r w => if w.slot.isSome then r.abandon w.slot else r) l.ring, windows := [] }
    lidOld := Vector.replicate 8 none, csiWait := Vector.replicate 8 [], csiUp := 0, ethUp := 0 }

/-- The domains go off, PD45 last, and the state is PARKED (R375): scratchpads and SB lose their contents, LPDDR5X keeps
its own. -/
def State.enterParked (s : State) : State :=
  let s := (s.onFab Fab.cachesOff).gateOffEnd (s.pwr.domains ||| s.pwr.rising)
  let s := (s.onSen Sen.quiesce).onPwr fun p => { p with rising := 0, closing := 0, busy := none }
  (s.enter .parked).onHif fun h => { h with linkUp := false }

/-- The conditions of R375. -/
def State.parkOk (s : State) : Bool :=
  (s.pwr.state = .ready || s.pwr.state = .running) && s.ctr.placed.isNone && s.ctr.armPending.isNone && !s.cpx.jobOpen &&
    s.emt.frames.isEmpty && !s.ctr.prog.running

/-- PARK (R375). -/
def doPark (s : State) : State :=
  s.pwrRequest fun s =>
    if s.parkOk then (((s.latch latchPower).unloadContracts).pwrEnd stDone).enterParked
    else s.pwrEnd stNotReady
/-- PARK (R375). -/
def execPark (s : State) : Out := .next (doPark s)

/-- The domains that configured sensors need. -/
def Sen.mask (x : Sen) : BitVec 64 :=
  (x.cams.map fun c => cameraMask c.2.port).foldl (fun a b => a ||| b) (if x.lids.isEmpty then 0 else 1#64 <<< 40)

/-- No sensor reads above 110 °C (R375). -/
def Pwr.coolEnough (p : Pwr) : Bool := p.tj.toList.all fun t => decide (t ≤ 880)

/-- The domains that are on at READY begin to switch on when a part leaves PARKED, once it is cool after a trip (R375). -/
def State.leaveParked (s : State) : State :=
  if s.pwr.state = .parked && s.pwr.wake && (!s.pwr.tripped || s.pwr.coolEnough) then
    s.onPwr fun p => { p with rising := p.rising ||| ((readyDomains ||| s.sen.mask) &&& ~~~p.domains) }
  else s

/-- PARKED ends in READY when every domain that it switches on is ready (R375, Table 15.7). -/
def State.wakeDone (s : State) : State :=
  if s.pwr.state = .parked && s.pwr.wake && s.pwr.rising = 0 then
    let s := s.onPwr fun p => { p with wake := false, tripped := false, tripSince := none }
    (s.onCpx fun c => { c with qmCores := 0xFF#8, windowOpen := true }).enter .ready
  else s

/-- The unit of a domain has settled (R28, R30). -/
def State.domainSettled (d : Nat) (s : State) : Bool :=
  match domainUnit d with | some i => (vget s.pwr.units i RateUnit.zero).settled | none => true

/-- A domain that was switching on is on; one that a DOMAIN_OFF waits for stays closing. -/
def State.domainUp (d : Nat) (s : State) : State :=
  let shut := s.pwr.closing &&& (1#64 <<< d)
  let busy := s.pwr.busy
  let s := (s.onPwr fun p => { p with closing := p.closing &&& ~~~shut, busy := none }).powerOn (1#64 <<< d)
  let s := s.onPwr fun p => { p with closing := p.closing ||| shut, busy := busy }
  if shut = 0 ∧ busy = some d then s.pwrEnd stDone else s

/-- DOMAIN_SWITCH_COMPLETE (R369): zero-filled and its unit settled, the domain is ready; SET_CAPACITY's additions may join, and
the last domain of a wake ends PARKED. -/
def doDomainSwitchComplete (d : Nat) (s : State) : State :=
  if s.pins.rstN && s.pwr.rising.getLsbD d && s.domainSettled d then (s.domainUp d).boundary.wakeDone else s
/-- DOMAIN_SWITCH_COMPLETE (R369). -/
def execDomainSwitchComplete (domain : Nat) (s : State) : Out := .next (doDomainSwitchComplete domain s)

/-! ### The rate loop -/

/-- The unit of a rate monitor (Table 18.11); HUB stands for HUB with SB. -/
def rateUnitId (i : Nat) : UnitId :=
  if h : i < 8 then .mxc ⟨i, h⟩
  else match i with
    | 8 => .cfe 0 | 9 => .cfe 1 | 10 => .lpe | 11 => .eng .wre | 12 => .eng .gxe | 13 => .eng .dpp | 14 => .eng .qoe | 15 => .hub
    | _ => .emt

/-- The unit of a monitor is powered, or on its way to it. -/
def Pwr.unitOn (p : Pwr) (i : Nat) : Bool :=
  let on := p.domains ||| p.rising
  if i < 8 then on.getLsbD (4 * i + 2) else if i < 15 then on.getLsbD (38 + (i - 8)) else true

/-- One window of a rate-locked unit (R25, R28, R31): set points in microvolts, `vdd` in millivolts. A flag and a rate below the
target in one window raise the set point by one step (DESIGN CHOICE, log 149: R25 and R28 do not say whether their steps add). -/
def RateUnit.window (u : RateUnit) (i rate target floor vdd now : Nat) : RateUnit :=
  let top := vdd * 1000 - 10000
  let bot := vdd * 1000 - 150000
  let quiet := decide (u.flagged = 0) && match u.flagClear with | some t => decide (t + 100000 ≤ now) | none => true
  let up := decide (rate < target) || decide (u.flagged ≠ 0) || u.owed
  let down := decide (target * 101 < rate * 100) && quiet
  let ldo := if up then u.ldo + 2500 else if down then u.ldo - 2500 else u.ldo
  let inB := decide (target * 99 ≤ rate * 100 ∧ rate * 100 ≤ target * 101)
  let n := if inB then u.inBand + 1 else 0
  let hard := if i = 16 then decide (880 ≤ vdd) else decide (top ≤ u.ldo) && decide (880 ≤ vdd)
  let low := (u.settled || decide (i = 16)) && decide (rate < floor) && hard
  { u with rate := rate, owed := false, count := u.count + rate, ldo := if i = 16 then u.ldo else max bot (min top ldo), inBand := n, settled := u.settled || decide (50 ≤ n),
           below := if low then u.below + 1 else 0, noted := if low then u.noted else 0 }

/-- RATE_MONITOR_WINDOW (R26, R28): every 1.000 µs of TMB, each powered unit's count acts on its LDO; cores that settle may
join the QM core set (R288). -/
def doRateMonitorWindow (rates : List Nat) (s : State) : State :=
  if !s.pins.rstN then s else
  let s := s.advance ((s.now / 1000 + 1) * 1000)
  let floor := s.sec.floor
  let n := s.now
  let was := s.pwr.units
  let s := s.onPwr fun p =>
    { p with units := Vector.ofFn fun (i : Fin 17) =>
        let u := p.units.get i
        if p.unitOn i.val then u.window i.val (rates.getD i.val 0) p.effective floor p.vdd n else u }
  let s := s.onEvr fun r =>
    { r with rateExt := Vector.ofFn fun (i : Fin 17) =>
        let e := r.rateExt.get i
        let v : Int := (rates.getD i.val 0 : Nat)
        if !s.pwr.unitOn i.val then e
        else if !e.seen then { lo := v, hi := v, tLo := s.opSecs, tHi := s.opSecs, seen := true }
        else { e with lo := min e.lo v, tLo := if v < e.lo then s.opSecs else e.tLo, hi := max e.hi v, tHi := if e.hi < v then s.opSecs else e.tHi } }
  let back := (List.finRange 17).filter fun i => decide (10 ≤ (was.get i).below ∧ (was.get i).below < 1000 ∧ (s.pwr.units.get i).below = 0)
  let s := back.foldl (fun s (i : Fin 17) =>
    s.recordFault { detector := 0x08, unit := rateUnitId i.val, subunit := 0xFF, cls := 0xFF, address := 0,
                    detail := BitVec.ofNat 32 (s.pwr.units.get i).rate } (FaultCtx.none outTransient)) s
  s.boundary.firstSwap
/-- RATE_MONITOR_WINDOW (R26). -/
def execRateMonitorWindow (rates : List Nat) (s : State) : Out := .next (doRateMonitorWindow rates s)

/-- One of a unit's sentinels raises or drops its flag (R24, R25). -/
def RateUnit.flag (u : RateUnit) (index : Nat) (raised : Bool) (now : Nat) : RateUnit :=
  let f := if raised then u.flagged ||| (1#96 <<< index) else u.flagged &&& ~~~(1#96 <<< index)
  { u with flagged := f, owed := u.owed || raised,
           flagClear := if f ≠ 0 then none else if u.flagged ≠ 0 then some now else u.flagClear }

/-- SENTINEL_FLAG (R24, R25): a sentinel's flag rises, counted, or falls; in EMT it sets the EMT margin. -/
def doSentinelFlag (u : UnitId) (index : Nat) (raised : Bool) (s : State) : State :=
  match unitRateIdx u with
  | none => s
  | some i =>
    if !s.pins.rstN || !decide (index < sentinels u) then s else
    let n := s.now
    let s := s.onPwr fun p =>
      { p with units := vset p.units i ((vget p.units i RateUnit.zero).flag index raised n),
               emtMargin := p.emtMargin || (raised && decide (i = 16)) }
    if raised then s.countErr (unitErrRow u) colSentinel 1 else s
/-- SENTINEL_FLAG (R25). -/
def execSentinelFlag (u : UnitId) (raised : SentinelEdge) (s : State) : Out := .next (doSentinelFlag u raised.index raised.raised s)

/-- EMT_MARGIN_EXPIRY (R25): 100 µs after the last EMT flag cleared. -/
def doEmtMarginExpiry (s : State) : State :=
  let u := vget s.pwr.units 16 RateUnit.zero
  match u.flagClear with
  | some t =>
    if s.pins.rstN && s.pwr.emtMargin && decide (u.flagged = 0) then (s.advance (t + 100000)).onPwr fun p => { p with emtMargin := false } else s
  | none => s
/-- EMT_MARGIN_EXPIRY (R25). -/
def execEmtMarginExpiry (s : State) : Out := .next (doEmtMarginExpiry s)

/-- A stage of R31 has been taken for the windows below the floor that are counted now. -/
def State.stageNoted (i n : Nat) (s : State) : State :=
  s.onPwr fun p => { p with units := vset p.units i { vget p.units i RateUnit.zero with noted := n } }

/-- BELOW_FLOOR (R31): 10 windows below the floor are an event, 1,000 make the unit suspect, each once. -/
def doBelowFloor (u : UnitId) (s : State) : State :=
  match unitRateIdx u with
  | none => s
  | some i =>
    let x := vget s.pwr.units i RateUnit.zero
    if !s.pins.rstN || decide (x.below < 10) || x.noted = 2 then s
    else
      let s := if x.noted = 0 then s.note 0x2002 sevError (unitCode u) (unitCode u) x.rate 0 else s
      if x.below < 1000 then s.stageNoted i 1
      else
      (s.stageNoted i 2).suspect { detector := 0x08, unit := u, subunit := 0xFF, cls := 0xFF, address := 0, detail := BitVec.ofNat 32 x.rate }
        (FaultCtx.none outSuspect)
/-- BELOW_FLOOR (R31). -/
def execBelowFloor (u : UnitId) (s : State) : Out := .next (doBelowFloor u s)

/-! ### The supply loop -/

/-- The VDD_CORE target in mV (R29, R378). -/
def Pwr.vddTarget (p : Pwr) : Nat :=
  let top := ((List.range 16).map fun i => if p.unitOn i then (vget p.units i RateUnit.zero).ldo else 0).foldl max 0
  let t := top + 30000 + (if p.emtMargin then 10000 else 0)
  max 620 (min 880 ((t + 4999) / 5000 * 5))

/-- The next command (R378): up by at most five writes of 10 mV in 100 µs, down by one write of 5 mV after 1 ms. -/
def Pwr.steer (p : Pwr) (now : Nat) : Pwr :=
  let t := p.vddTarget
  if p.vdd < t then { p with vdd := min t (p.vdd + 50), lowSince := none }
  else if t + 10 ≤ p.vdd then
    let since := p.lowSince.getD now
    { p with lowSince := some since, vdd := if since + 1000000 ≤ now then p.vdd - 5 else p.vdd }
  else { p with lowSince := none }

/-- SUPPLY_LOOP_EVALUATION (R376, R378, R379): every 100 µs; `readMv` is the AVSBus voltage read when a transaction
succeeded, `alert` the regulator's status alert. -/
def doSupplyLoopEvaluation (readMv : Option Nat) (alert : Bool) (s : State) : State :=
  if !s.pins.rstN then s else
  let s := s.advance ((s.now / 100000 + 1) * 100000)
  let cmd := s.pwr.vdd
  let s := match readMv with
    | none => s
    | some v =>
      let far := decide (cmd + 25 < v ∨ v + 25 < cmd)
      let n := if far then s.pwr.mismatches + 1 else 0
      let s := s.onPwr fun p => { p with vddRead := v, avsLast := s.now, mismatches := n }
      if n = 3 then s.note 0x6002 sevError noUnit 1 0 v else s
  let was := s.pwr.alert
  let s := s.onPwr fun p => { p.steer s.now with alert := alert }
  let s := if alert && !was then s.note 0x6002 sevError noUnit 3 0 s.pwr.vddRead else s
  if s.ctr.prog.running || s.ctr.placed.isSome then s else s.applyRate
/-- SUPPLY_LOOP_EVALUATION (R378). -/
def execSupplyLoopEvaluation (readMv : Option Nat) (alert : Bool) (s : State) : Out := .next (doSupplyLoopEvaluation readMv alert s)

/-- AVSBUS_TIMEOUT (R379): 10 ms without a successful transaction. -/
def doAvsbusTimeout (s : State) : State :=
  if s.pins.rstN then
    let s := s.advance (s.pwr.avsLast + 10000000)
    (s.onPwr fun p => { p with avsLast := s.now }).note 0x6002 sevError noUnit 0 0 s.pwr.vddRead
  else s
/-- AVSBUS_TIMEOUT (R379). -/
def execAvsbusTimeout (s : State) : Out := .next (doAvsbusTimeout s)

/-! ### Monitors and thermal limits -/

/-- The thermal cap falls to the floor at once (R380). -/
def State.capToFloor (s : State) : State := (s.onPwr fun p => { p with cap := s.sec.floor }).rateChanged

/-- A threshold event of Table 15.9. -/
def State.thermalEvent (k sensor : Nat) (v : Int) (s : State) : State :=
  (s.raise causePower).note 0x6001 (if k = 3 then sevCritical else sevWarning) noUnit k sensor (codeOf 32 v)

/-- The highest sensor: its index and reading in 1/8 °C. -/
def Pwr.hottest (p : Pwr) : Nat × Int :=
  (List.range 32).foldl (fun a i => if a.2 < vget p.tj i 0 then (i, vget p.tj i 0) else a) (0, vget p.tj 0 0)

/-- The thresholds of Table 15.9 that a sample crosses. -/
def State.thermalCheck (s : State) : State :=
  let (i, v) := s.pwr.hottest
  let warn := decide ((8 * s.mss.warn : Nat) ≤ v)
  let thr := decide ((8 * s.mss.throttle : Nat) ≤ v)
  let lim := decide (1000 ≤ v)
  let p0 := s.pwr
  let s := if warn && !p0.warnAbove then s.thermalEvent 0 i v else s
  let s := if thr && !p0.throttleAbove then s.thermalEvent 1 i v else s
  let s := if lim && !p0.limitAbove then (s.thermalEvent 2 i v) else s
  let s := if lim then s.capToFloor else s
  s.onPwr fun p => { p with warnAbove := warn, throttleAbove := thr, limitAbove := lim,
                            tripSince := if 1040 ≤ v then some (p.tripSince.getD s.now) else none }

/-- An extreme takes a reading (R424). -/
def Extreme.take (e : Extreme) (v : Int) (t : Nat) : Extreme :=
  if !e.seen then { lo := v, hi := v, tLo := t, tHi := t, seen := true }
  else { e with lo := min e.lo v, tLo := if v < e.lo then t else e.tLo, hi := max e.hi v, tHi := if e.hi < v then t else e.tHi }

/-- MONITOR_SAMPLE (R379, R380, R381, R424): every 100 µs, the temperatures in 1/8 °C and the supplies in mV. -/
def doMonitorSample (tj : List Int) (supply : List Nat) (s : State) : State :=
  if !s.pins.rstN then s else
  let s := s.advance (s.pwr.lastSample + 100000)
  let s := s.onPwr fun p =>
    { p with lastSample := s.now, tj := Vector.ofFn fun (i : Fin 32) => tj.getD i.val 0, supply := Vector.ofFn fun (i : Fin 24) => supply.getD i.val 0 }
  let t := s.opSecs
  let s := s.onEvr fun r =>
    { r with tjExt := Vector.ofFn fun (i : Fin 32) => (r.tjExt.get i).take (tj.getD i.val 0) t,
             supplyExt := Vector.ofFn fun (i : Fin 24) => (r.supplyExt.get i).take (supply.getD i.val 0 : Nat) t }
  let bad := (List.range 4).find? fun q => let v := vget s.pwr.supply (16 + q) 0; decide (v < 600 ∨ 920 < v)
  let s := match bad with
    | some q => s.note 0x6002 sevError noUnit 2 (16 + q) (vget s.pwr.supply (16 + q) 0)
    | none => s
  s.thermalCheck.leaveParked
/-- MONITOR_SAMPLE (R381). -/
def execMonitorSample (tj : List Int) (supply : List Nat) (s : State) : Out := .next (doMonitorSample tj supply s)

/-- THERMAL_CAP_STEP (R380): every 10 ms the cap falls by 10 above THROTTLE and rises by 10 once all sensors read below
THROTTLE - 5; MR4's high-temperature limit holds it at the floor. -/
def doThermalCapStep (s : State) : State :=
  if !s.pins.rstN then s else
  let s := s.advance ((s.now / 10000000 + 1) * 10000000)
  let (_, v) := s.pwr.hottest
  let fl := s.sec.floor
  let cap :=
    if (8 * s.mss.throttle : Nat) ≤ v then max fl (s.pwr.cap - 10)
    else if v < ((8 * (s.mss.throttle - 5) : Nat) : Int) ∧ s.pwr.mr4Hot.isNone then min 1150 (s.pwr.cap + 10)
    else s.pwr.cap
  (s.onPwr fun p => { p with cap := cap }).rateChanged
/-- THERMAL_CAP_STEP (R380). -/
def execThermalCapStep (s : State) : Out := .next (doThermalCapStep s)

/-- THERMAL_TRIP (R380): 130 °C for 1 ms, or MR4's limit for 100 ms; PARKED whatever is running. -/
def doThermalTrip (s : State) : State :=
  let due := match s.pwr.tripSince, s.pwr.mr4Hot with
    | some a, some b => some (min (a + 1000000) (b + 100000000))
    | some a, none => some (a + 1000000)
    | none, some b => some (b + 100000000)
    | none, none => none
  match due with
  | none => s
  | some n =>
    if !s.pins.rstN || !(s.pwr.state = .ready || s.pwr.state = .running) then s else
    let s := s.advance n
    let (i, v) := s.pwr.hottest
    let s := s.thermalEvent 3 i v
    let s := (s.cancelLaunches.preempt.stopProgram.splitBoundary.latch latchPower).unloadContracts
    (s.onPwr fun p => { p with tripped := true }).enterParked
/-- THERMAL_TRIP (R380). -/
def execThermalTrip (s : State) : Out := .next (doThermalTrip s)

/-- MR4_READ (R143, R380): every 4 ms, the hottest channel's MR4; its high-temperature limit is an event and caps the rate
at the floor. -/
def doMr4Read (hottest channel : Nat) (hot : Bool) (s : State) : State :=
  if !s.pins.rstN then s else
  let s := s.advance ((s.now / 4000000 + 1) * 4000000)
  let was := s.pwr.mr4Hot.isSome
  let s := s.onPwr fun p => { p with mr4 := hottest, mr4Hot := if hot then some (p.mr4Hot.getD s.now) else none }
  if hot then (if was then s else s.note 0x6003 sevError noUnit channel 0 0).capToFloor else s
/-- MR4_READ (R143). -/
def execMr4Read (hottest : Nat) (channel : Nat) (hot : Bool) (s : State) : Out := .next (doMr4Read hottest channel hot s)

/-! ### Scrubbing -/

/-- PATROL_SCRUB (R140): one line is read in an unused slot; a corrected single-bit error is counted and scrubbed, a double-bit
or address error met for no commit unit is recorded (R127). -/
def doPatrolScrub (addr : Nat) (found : Scrub) (s : State) : State :=
  if !(s.pins.rstN && decide (s.mss.dataRate ≠ 0) && decide (addr < s.mss.usable)) then s else
  let s := s.onPwr fun p => { p with patrolled := p.patrolled + 1 }
  match found with
  | .clean => s
  | .corrected => s.countErr (unitErrRow .dmc) colEcc 1
  | .uncorrectable dmc detail =>
    s.faultNoUnit { detector := 0x03, unit := .dmc, subunit := dmc, cls := 0xFF, address := addr, detail := detail }
/-- PATROL_SCRUB (R140). -/
def execPatrolScrub (addr : Nat) (found : Scrub) (s : State) : Out := .next (doPatrolScrub addr found s)

/-- ECC_WRITE_BACK (R127, R142): a single-bit error of a unit's memory was corrected and written back, which is counted; or a write
to an LPDDR5X channel has failed link ECC with its retry, which is an event (log 161). -/
def doEccWriteBack (u : EccWrite) (s : State) : State :=
  if !s.pins.rstN then s else
  match u with
  | .corrected u => s.countErr (unitErrRow u) colEcc 1
  | .failed ch => s.note 0x2004 sevError (unitCode .dmc) ch 0 0
/-- ECC_WRITE_BACK (R127). -/
def execEccWriteBack (u : EccWrite) (s : State) : Out := .next (doEccWriteBack u s)

/-! ### DISCOVER -/

/-- The entries of a PHY descriptor (R383): (port, byte offset in the descriptor). -/
def phyEntries (b : List Byte) : List (Nat × Nat) := (maskBits 4 (blk b 1 1)).mapIdx fun i p => (p, 16 + 32 * i)

/-- Every range of a PHY descriptor holds (R383, Table 15.11). -/
def phyOk (b : List Byte) : Bool :=
  decide (16 ≤ b.length) && decide (blk b 0 1 = 1) && decide (blk b 1 1 < 16) && decide (100 ≤ blk b 2 2 ∧ blk b 2 2 ≤ 2500) &&
    (phyEntries b).all fun e =>
      let o := e.2
      decide (o + 32 ≤ b.length) && decide (blk b o 1 ≤ 31) && (blk b (o + 1) 1 = 22 || blk b (o + 1) 1 = 45) &&
        (decide (blk b (o + 1) 1 = 45) || decide (blk b (o + 2) 1 = 0)) && decide (blk b (o + 2) 1 ≤ 31) && decide (blk b (o + 3) 1 ≤ 1) &&
        decide (1 ≤ blk b (o + 0x11) 1 ∧ blk b (o + 0x11) 1 ≤ 16) && decide (1 ≤ blk b (o + 0x14) 2 ∧ blk b (o + 0x14) 2 ≤ 200) &&
        blkZero b (o + 0x16) 10

/-- The PHY descriptor in force; none when MSS_PHY_DESC_SIZE is 0. -/
def State.phyDesc (s : State) : Option (List Byte) :=
  if s.mss.phySize = 0 then none else some (memBytes s.fab.dram s.mss.phyAddr.toNat s.mss.phySize)

/-- DISCOVER (R382, R383): it switches on the ingest domains that are off, and reports when its observation ends. -/
def doDiscover (ring : Nat) (s : State) : State :=
  s.runPacket ring 0xA0 fun pk s =>
    if !aligned64 (pk.u 0x18 8) then s.bad pk 0x18
    else
      let ok := match s.phyDesc with
        | some b => s.mss.inOne tagShared s.mss.phyAddr.toNat s.mss.phySize && phyOk b
        | none => true
      if !ok then s.bad pk 0
      else
        let want := BitVec.ofNat 64 (2 ^ 38 + 2 ^ 39 + 2 ^ 47 + 2 ^ 48)
        let new := want &&& ~~~s.pwr.domains
        (s.powerOn new).onMss fun m => { m with discover := some { pkt := pk, switched := new, desc := s.phyDesc } }
/-- DISCOVER (R382). -/
def execDiscover (ring : Nat) (s : State) : Out := .next (doDiscover ring s)

/-- A port is used by a configured lidar. -/
def Sen.portUsed (x : Sen) (p : Nat) : Bool := x.lids.any fun l => l.2.port = p

/-- LEN_STATUS and LENGTH_CM of a lidar port (R383, R384). -/
def State.phyLength (s : State) (desc : Option (List Byte)) (o : Observation) (p : Nat) : Nat × Nat :=
  match desc with
  | none => (1, 0)
  | some b =>
    match (phyEntries b).find? fun e => e.1 = p with
    | none => (1, 0)
    | some e =>
      if blk b (e.2 + 3) 1 = 1 ∧ s.sen.portUsed p then (2, 0)
      else
        let st := o.lenStatus.getD p 0
        if st ≠ 0 then (st, 0)
        else (0, ((o.lenRaw.getD p 0) >>> blk b (e.2 + 0x10) 1) % 2 ^ blk b (e.2 + 0x11) 1 * blk b (e.2 + 0x12) 2)

/-- The camera entries sorted by port, then virtual channel. -/
def insertSeen (c : SeenCamera) : List SeenCamera → List SeenCamera
  | [] => [c]
  | d :: r => if c.port * 16 + c.vc < d.port * 16 + d.vc then c :: d :: r else d :: insertSeen c r

/-- The discovery report (Table 15.12); `desc` is the PHY descriptor that the DISCOVER read. -/
def State.discoveryReport (s : State) (desc : Option (List Byte)) (o : Observation) : List Byte :=
  let cams := o.cameras.foldl (fun a c => insertSeen c a) []
  let nCam := 16 * cams.length
  let total := 64 + 64 + nCam + 64 + 80 + 16
  let head := leBytes 1 1 ++ leBytes 1 s.pwr.state.code ++ leBytes 2 cams.length ++ leBytes 4 0 ++ leBytes 4 64 ++ leBytes 4 128 ++
    leBytes 4 (128 + nCam) ++ leBytes 4 (192 + nCam) ++ leBytes 4 (272 + nCam) ++ leBytes 4 total ++ List.replicate 32 0#8
  let i2c := (List.range 4).flatMap fun k => leBytes 16 (o.i2cAcks.getD k 0)
  let cam := cams.flatMap fun c => leBytes 1 c.port ++ leBytes 1 c.vc ++ leBytes 1 c.types ++ leBytes 1 c.lanes ++ leBytes 2 c.laneMbps ++
    leBytes 2 c.wordCount ++ leBytes 2 c.lines ++ leBytes 1 c.frames ++ leBytes 1 (satU 8 c.errors) ++ leBytes 4 c.periodUs
  let lid := (List.range 4).flatMap fun p =>
    let len := s.phyLength desc o p
    leBytes 1 (if s.sen.ethUp.getLsbD p then 1 else 0) ++ leBytes 1 len.1 ++ leBytes 2 len.2 ++ leBytes 4 (o.datagrams.getD p 0) ++
      leBytes 1 (o.matched.getD p 0) ++ List.replicate 7 0#8
  let mem := leBytes 2 s.mss.dataRate ++ leBytes 1 (if s.mss.dataRate = 8533 then 1 else 0) ++ leBytes 1 s.pwr.mr4 ++ leBytes 8 s.mss.usable ++ leBytes 4 0 ++
    (List.range 4).flatMap fun k => leBytes 4 (s.flash.memId.toNat / 2 ^ (32 * k)) ++ leBytes 1 (if s.mss.dataRate = 0 then 0 else 8) ++ List.replicate 11 0#8
  let pcie := leBytes 1 s.hif.linkSpeed ++ leBytes 1 s.hif.linkWidth ++ ((List.range 6).flatMap fun k => leBytes 1 (o.partner.getD k 0)) ++ List.replicate 8 0#8
  head ++ i2c ++ cam ++ lid ++ mem ++ pcie

/-- DISCOVER_COMPLETE (R382): after 200 ms, the report, its domains off again unless a camera needs them, the reply. -/
def doDiscoverComplete (o : Observation) (s : State) : State :=
  match s.mss.discover with
  | none => s
  | some d =>
    if !s.pins.rstN then s else
    let s := s.advance (d.pkt.started.getD s.now + 200000000)
    let b := s.discoveryReport d.desc o
    let s := s.gateOffEnd (d.switched &&& ~~~s.sen.mask)
    let s := s.onMss fun m => { m with discover := none }
    if d.pkt.u 0x14 4 < b.length then s.noRes d.pkt b.length
    else (s.hostWrite (d.pkt.u 0x18 8) b).done d.pkt b.length
/-- DISCOVER_COMPLETE (R382). -/
def execDiscoverComplete (obs : Observation) (s : State) : Out := .next (doDiscoverComplete obs s)

end Sys2Proof.Machine
end

