-- ==== Sys2Proof/Machine/Recorder.lean ====
section
/-! DEFINITION. The event recorder and the statistics (chapter 17): the flash log, rate limits, histograms, snapshots and
the reading commands. -/

namespace Sys2Proof.Machine

/-! ### The flash log -/

/-- One record is written to the log; a sector's first record starts the next sector's erase. -/
def State.logPut (e : EventRec) (s : State) : State :=
  let opens := decide (s.flash.logPos % 128 = 0)
  (s.onFlash fun f => { f with log := f.log ++ [e], logPos := f.logPos + 1 }).onEvr fun x => { x with erasing := x.erasing || opens }

/-- The erase of the next sector ends: in a wrapped log its oldest records are gone. -/
def State.logErase (s : State) : State :=
  let keep := 1022 * 128 + (s.flash.logPos - 1) % 128 + 1
  (s.onFlash fun f => { f with log := f.log.drop (f.log.length - keep) }).onEvr fun r => { r with erasing := false }

/-- The next record would open a sector that is still being erased. -/
def State.logWaits (s : State) : Bool := decide (s.flash.logPos % 128 = 0) && s.evr.erasing

/-- Every queued record reaches the log, each sector once it is erased (Table 16.8 step 3). -/
def State.flushLog (s : State) : State :=
  s.evr.queue.foldl (fun s e => (if s.logWaits then s.logErase else s).logPut e) (s.onEvr fun r => { r with queue := [] })

/-- Write the oldest queued record to the log (R418, R420): the flag record and snapshots go first; a record that
would open a sector waits while that sector is being erased; a sector's first record starts the next erase. -/
def doEventFlashWrite (s : State) : State :=
  match s.evr.queue with
  | [] => s
  | e :: r =>
    if !s.pins.rstN || s.mss.flagWrite.isSome || s.evr.snapWrite.isSome || s.logWaits then s
    else (s.onEvr fun x => { x with queue := r }).logPut e
/-- EVENT_FLASH_WRITE (R418). -/
def execEventFlashWrite (s : State) : Out := .next (doEventFlashWrite s)

/-- The erase of the next sector ends: in a wrapped log its oldest records are gone (R420). -/
def doSectorErase (s : State) : State :=
  if s.pins.rstN && s.evr.erasing then s.logErase else s
/-- SECTOR_ERASE (R420). -/
def execSectorErase (s : State) : Out := .next (doSectorErase s)

/-- The TMB count at which operating time reaches a number of seconds (R417). -/
def State.opCount (s : State) (secs : Nat) : Nat := (secs - s.evr.opSeconds) * 1000000000

/-- OP_MARK at every 3,600 s of operating time (R417). -/
def doOpMark (s : State) : State :=
  if s.pins.rstN then
    let due := s.evr.lastMark + 3600
    let s := s.advance (s.opCount due)
    (s.onEvr fun r => { r with lastMark := due }).note 0x0002 sevInfo noUnit 0 0 0
  else s
/-- OP_MARK (R417). -/
def execOpMark (s : State) : Out := .next (doOpMark s)

/-- PERIODIC_SNAPSHOT at every 600 s of operating time (R425). -/
def doPeriodicSnapshot (s : State) : State :=
  if s.pins.rstN then
    let due := s.evr.lastSnap + 600
    let s := s.advance (s.opCount due)
    (s.onEvr fun r => { r with lastSnap := due }).snapshot 0
  else s
/-- PERIODIC_SNAPSHOT (R425). -/
def execPeriodicSnapshot (s : State) : Out := .next (doPeriodicSnapshot s)

/-- A snapshot's flash write ends (R425): it joins the ring with the fault records that wait, and a trigger that came
meanwhile starts one further snapshot. The ring holds 126 snapshots and 8,128 fault records beside its erased sectors
(R421). -/
def State.snapshotDone (s : State) : State :=
  match s.evr.snapWrite with
  | none => s
  | some img =>
    let s := s.onFlash fun f =>
      { f with snapSeq := f.snapSeq + 1, snapshots := (f.snapshots ++ [img]).drop (f.snapshots.length + 1 - 126),
               faultRing := (f.faultRing ++ s.evr.ringQueue).drop (f.faultRing.length + s.evr.ringQueue.length - 8128) }
    let again := s.evr.snapAgain
    let s := s.onEvr fun r => { r with snapWrite := none, snapAgain := none, ringQueue := [] }
    match again with
    | some c => s.snapshot c
    | none => s
/-- SNAPSHOT_WRITE_COMPLETE (R425): a flag record is written first (R418). -/
def doSnapshotWriteComplete (s : State) : State := if s.pins.rstN && s.mss.flagWrite.isNone then s.snapshotDone else s
/-- SNAPSHOT_WRITE_COMPLETE (R425). -/
def execSnapshotWriteComplete (s : State) : Out := .next (doSnapshotWriteComplete s)

/-! ### Histograms and buckets -/

/-- An integer limited to a histogram's bins. -/
def binOf (v : Int) : Nat := (max 0 (min 31 v)).toNat
/-- Add one to a bin. -/
def bump (v : Vector Nat 32) (i : Nat) : Vector Nat 32 := vset v i (satU 32 (vget v i 0 + 1))

/-- Once per second, one bin of each histogram (R424). -/
def doHistogramTick (s : State) : State :=
  if s.pins.rstN then
    let due := s.evr.lastTick + 1
    let s := s.advance (s.opCount due)
    let p := s.pwr
    let v := max (max (vget p.supply 16 0) (vget p.supply 17 0)) (max (vget p.supply 18 0) (vget p.supply 19 0))
    s.onEvr fun r =>
      { r with lastTick := due,
               tjHist := (List.finRange 8).foldl (fun h (c : Fin 8) =>
                 h.set c (bump (h.get c) (binOf ((p.tjOf (.mxc c) + 320) / 40)))) r.tjHist,
               vddHist := bump r.vddHist (binOf (((v : Int) - 600) / 10)),
               rateHist := (List.finRange 8).foldl (fun h (c : Fin 8) =>
                 h.set c (bump (h.get c) (binOf (((p.rateOf (.mxc c) : Int) - 600) / 20)))) r.rateHist }
  else s
/-- HISTOGRAM_TICK (R424). -/
def execHistogramTick (s : State) : Out := .next (doHistogramTick s)

/-- One token returns 60 / LIMIT seconds after the last, up to LIMIT (R419). -/
def doTokenRefill (code : Nat) (s : State) : State :=
  match s.evr.buckets.find? fun b => b.code = code with
  | none => s
  | some b =>
    let l := s.limitOf code
    if s.pins.rstN && decide (b.tokens < l) then
      let s := s.advance (b.since + 60000000000 / l)
      s.onEvr fun r => r.putBucket { b with tokens := b.tokens + 1, since := s.now }
    else s
/-- TOKEN_REFILL (R419). -/
def execTokenRefill (code : Nat) (s : State) : Out := .next (doTokenRefill code s)

/-- One LIMIT field of MSS_EVENT_RATE (R441): a value 1-60 is taken, and a change refills the class's buckets. -/
def State.setLimit (cls v : Nat) (s : State) : State :=
  if v < 1 ∨ 60 < v ∨ vget s.mss.limits cls 0 = v then s
  else
    let s := s.onMss fun m => { m with limits := vset m.limits cls v }
    s.onEvr fun r => { r with buckets := r.buckets.map fun b => if b.code / 4096 = cls then { b with tokens := v } else b }

/-- MSS_EVENT_RATE0 and MSS_EVENT_RATE1 (R441). -/
def doMssEventRateWrite (i : Fin 2) (v : Word) (s : State) : State :=
  if s.bar0Open then (List.range 4).foldl (fun s k => s.setLimit (4 * i.val + k) (v.toNat / 2 ^ (8 * k) % 64)) s else s
/-- MSS_EVENT_RATE_WRITE (R441). -/
def execMssEventRateWrite (i : Fin 2) (v : Word) (s : State) : Out := .next (doMssEventRateWrite i v s)

/-! ### Reading -/

/-- Every record held, flash and queue, in SEQ order (R426). -/
def State.allRecords (s : State) : List EventRec := s.flash.log ++ s.evr.queue

/-- The records that LOG_READ copies (R426). -/
def State.logSlice (s : State) (first count : Nat) : List EventRec :=
  ((s.allRecords.filter fun e => first = 0xFFFFFFFF || decide (first ≤ e.seq))).take count

/-- LOG_READ (R426). -/
def doLogRead (ring : Nat) (s : State) : State :=
  s.runPacket ring 0x60 fun pk s =>
    let count := pk.u 0x14 4
    let dest := pk.u 0x18 8
    if count < 1 ∨ 4096 < count then s.bad pk 0x14
    else if !aligned64 dest then s.bad pk 0x18
    else
      let rs := s.logSlice (pk.u 0x10 4) count
      let next := match rs.getLast? with | some e => (e.seq + 1) % 2 ^ 32 | none => s.evr.nextSeq
      let s := if rs.isEmpty then s else s.hostWrite dest (rs.flatMap EventRec.bytes)
      s.done pk (rs.length + 2 ^ 32 * next)
/-- LOG_READ (R426). -/
def execLogRead (ring : Nat) (s : State) : Out := .next (doLogRead ring s)

/-- The client table of R295. -/
def Cpx.clientTable (c : Cpx) : List Byte :=
  (List.range 4096).flatMap fun i => match (c.clients ++ c.past).find? fun x => x.id = i with
    | some x => leBytes 4 x.completed ++ leBytes 4 x.killed
    | none => List.replicate 8 0#8

/-- The live statistics block of 40,960 bytes (R427). -/
def State.statsBlock (s : State) : List Byte :=
  s.snapshotImage s.flash.snapSeq 0 ++ s.evr.faults.flatten ++ List.replicate (64 * (64 - s.evr.faults.length)) 0#8 ++
    s.cpx.clientTable

/-- The per-step totals of the armed contract's last completed frame (R427). -/
def State.totalsBlock (s : State) : List Byte :=
  match s.ctr.armed with
  | none => List.replicate 64 0#8
  | some _ =>
    let (frame, build, steps) := s.ctr.lastTotals
    leBytes 8 build.toNat ++ leBytes 4 frame ++ leBytes 4 steps.length ++ List.replicate 48 0#8 ++
      steps.flatMap fun t => leBytes 4 t.1 ++ leBytes 6 (satU 48 t.2.1) ++ leBytes 6 (satU 48 t.2.2)

/-- STATS_READ (R427): the block is a host-memory write of the command, of at most 1 MiB (R264). -/
def doStatsRead (ring : Nat) (s : State) : State :=
  s.runPacket ring 0x62 fun pk s =>
    let what := pk.u 0x10 1
    let dest := pk.u 0x18 8
    if 1 < what then s.bad pk 0x10
    else if !aligned64 dest then s.bad pk 0x18
    else
      let b := if what = 0 then s.statsBlock else s.totalsBlock
      if pk.u 0x14 4 < b.length ∨ hostWriteMax < b.length then s.noRes pk b.length
      else (s.hostWrite dest b).done pk b.length
/-- STATS_READ (R427). -/
def execStatsRead (ring : Nat) (s : State) : Out := .next (doStatsRead ring s)

end Sys2Proof.Machine
end

