-- ==== Sys2Proof/Machine/Identity.lean ====
section
/-! DEFINITION. Owner keys, the firmware image, challenges and authorisations, attestation, updates, the authorised commands
and the debug port (R387, R388, R401-R415, R428, R342, R343). -/

namespace Sys2Proof.Machine

/-! ### Owner slots -/

/-- An owner slot of SEC. -/
def Sec.slot (x : Sec) (i : Nat) : OwnerSlot := vget x.slots i { digest := 0, revoked := false }
/-- EMPTY (R405). -/
def OwnerSlot.empty (o : OwnerSlot) : Bool := decide (o.digest = 0) && !o.revoked
/-- ENROLLED (R405). -/
def OwnerSlot.enrolled (o : OwnerSlot) : Bool := decide (o.digest ≠ 0) && !o.revoked

/-- A signature section's slot, public key and verdict of the signature are accepted (R388 checks 2 and 3, R409): `sec` is
the section's bytes, `sigOk` whether the SLH-DSA signature verifies. -/
def Sec.slotOk (x : Sec) (slot : Nat) (key : List Byte) : Bool :=
  decide (slot < 4) && (x.slot slot).enrolled && digest256 key = (x.slot slot).digest

/-! ### The firmware image -/

/-- A field of the image header (Table 16.3). -/
def imgLe (m : Memory) (off n : Nat) : Nat := memLe m off n
/-- IMAGE_SIZE. -/
def imgSize (m : Memory) : Nat := imgLe m 0x10 4
/-- VERSION. -/
def imgVersion (m : Memory) : Nat := imgLe m 8 4
/-- Where the signature section starts. -/
def imgSig (m : Memory) : Nat := imgSize m - 29920

/-- A directory component: type, offset, size. -/
def imgComponents (m : Memory) : List (Nat × Nat × Nat) :=
  (List.range (min 8 (imgLe m 0xD 1))).map fun i => (imgLe m (0x40 + 16 * i) 2, imgLe m (0x44 + 16 * i) 4, imgLe m (0x48 + 16 * i) 4)

/-- The size limit of a component type; types 3 and 4 have none. -/
def componentLimit : Nat → Nat
  | 1 => 0x180000 | 2 => 0x80000 | _ => 0x800000

/-- Check 1 of Table 16.4. -/
def imgCheck1 (m : Memory) : Bool :=
  let c := imgComponents m
  imgLe m 0 4 = 0x4D57464B && imgLe m 4 2 = 1 && imgLe m 6 2 = 0x0880 && imgLe m 0xF 1 = 0xA1 &&
    decide (30432 ≤ imgSize m) && decide (imgSize m ≤ 8388608) && imgSize m % 64 = 0 &&
    c.all (fun e => decide (e.2.1 + e.2.2 ≤ imgSig m) && decide (e.2.2 ≤ componentLimit e.1)) &&
    (List.range c.length).all fun i => (List.range i).all fun j =>
      let a := c.getD i (0, 0, 0)
      let b := c.getD j (0, 0, 0)
      decide (a.2.1 + a.2.2 ≤ b.2.1) || decide (b.2.1 + b.2.2 ≤ a.2.1)

/-- Check 2 of Table 16.4. -/
def Sec.imgCheck2 (x : Sec) (m : Memory) : Bool := x.slotOk (imgLe m (imgSig m) 1) (memBytes m (imgSig m + 64) 64)

/-- The first failed check of Table 16.4; 0 when the image is accepted (R388). -/
def Sec.imageCheck (x : Sec) (m : Memory) (sigOk : Bool) : Nat :=
  if !imgCheck1 m then 1 else if !x.imgCheck2 m then 2 else if !sigOk then 3 else if imgLe m 0xC 1 < x.rollback then 4 else 0

/-- One key operation (R406). -/
structure KeyOp where
  op     : Nat
  slot   : Nat
  digest : BitVec 256
  deriving DecidableEq, Repr

/-- The KEY_OPs of an image. -/
def imgKeyOps (m : Memory) : List KeyOp :=
  (List.range (min 4 (imgLe m 0xE 1))).map fun i =>
    { op := imgLe m (0xC0 + 40 * i) 1, slot := imgLe m (0xC1 + 40 * i) 1, digest := BitVec.ofNat 256 (imgLe m (0xC8 + 40 * i) 32) }

/-- A key operation may be carried out on the fuses; `signer` is the slot that signs the image (R406). -/
def Sec.keyOpValid (x : Sec) (signer : Nat) (k : KeyOp) : Bool :=
  decide (k.slot < 4) &&
    ((k.op = 1 && (x.slot k.slot).empty && decide (k.digest ≠ 0)) || (k.op = 2 && k.slot ≠ signer))

/-- A key operation is already in effect (R407). -/
def Sec.keyOpDone (x : Sec) (k : KeyOp) : Bool :=
  decide (k.slot < 4) && ((k.op = 1 && decide (k.digest ≠ 0) && (x.slot k.slot).digest = k.digest) || (k.op = 2 && (x.slot k.slot).revoked))

/-- Fuse a key operation. -/
def Sec.fuse (x : Sec) (k : KeyOp) : Sec :=
  let o := x.slot k.slot
  { x with slots := vset x.slots k.slot (if k.op = 1 then { o with digest := k.digest } else { o with revoked := true }) }

/-- A list of key operations is valid (R406), each judged with the earlier ones in effect. -/
def Sec.keyOpsValid (x : Sec) (signer : Nat) : List KeyOp → Bool
  | [] => (List.range 4).any fun i => (x.slot i).enrolled
  | k :: r => x.keyOpValid signer k && (x.fuse k).keyOpsValid signer r

/-! ### Challenges -/

/-- The 64 bytes of a challenge (Table 16.10). -/
def Challenge.bytes (c : Challenge) (purpose : Nat) : List Byte :=
  leBytes 4 0x4C484341 ++ leBytes 1 purpose ++ leBytes 3 0 ++ leBytes 4 c.id ++ leBytes 4 c.fwVersion ++
    leBytes 8 Config.deviceId.toNat ++ leBytes 8 c.issued ++ leBytes 32 c.nonce.toNat

/-- The outstanding challenge of a purpose: 60 s of TMB end it (R408). -/
def State.challenge (s : State) (p : Nat) : Option Challenge :=
  match vget s.sec.challenges p none with
  | some c => if s.now < c.issued + 60000000000 then some c else none
  | none => none

/-- A challenge of a purpose is used or expires. -/
def State.dropChallenge (p : Nat) (s : State) : State := s.onSec fun x => { x with challenges := vset x.challenges p none }

/-- AUTH_CHALLENGE (R408). -/
def doAuthChallenge (ring : Nat) (s : State) : State :=
  s.runPacket ring 0x74 fun pk s =>
    let p := pk.u 0x10 1
    let dest := pk.u 0x18 8
    if 3 < p then s.bad pk 0x10
    else if !aligned64 dest then s.bad pk 0x18
    else
      let id := (s.sec.nextId + 1) % 2 ^ 32
      let nonce := digest256 (leBytes 32 Config.deviceSecret.toNat ++ leBytes 4 s.flash.powerCycle ++ leBytes 4 id)
      let c : Challenge := { id := id, fwVersion := s.mss.fwVersion, issued := s.now, nonce := nonce }
      let s := s.onSec fun x => { x with nextId := id, challenges := vset x.challenges p (some c) }
      (s.hostWrite dest (c.bytes p)).done pk id
/-- AUTH_CHALLENGE (R408). -/
def execAuthChallenge (ring : Nat) (s : State) : Out := .next (doAuthChallenge ring s)

/-- CHALLENGE_EXPIRY (R408): 60 s of TMB after its issue. -/
def doChallengeExpiry (p : Fin 4) (s : State) : State :=
  match s.sec.challenges.get p with
  | some c => if s.pins.rstN then (s.advance (c.issued + 60000000000)).dropChallenge p.val else s
  | none => s
/-- CHALLENGE_EXPIRY (R408). -/
def execChallengeExpiry (purpose : Fin 4) (s : State) : Out := .next (doChallengeExpiry purpose s)

/-- Size of an authorisation (R409). -/
abbrev authSize : Nat := 29984

/-- An authorisation answers the outstanding challenge of a purpose (R409). -/
def State.authOk (s : State) (p size : Nat) (auth : List Byte) (sigOk : Bool) : Bool :=
  match s.challenge p with
  | none => false
  | some c => decide (size = authSize) && auth.take 64 = c.bytes p &&
      s.sec.slotOk (auth.getD 64 0).toNat ((auth.drop 128).take 64) && sigOk

/-- The examination of an authorisation is its challenge's use, whether it passes or fails (R408, R409). -/
def State.examine (p size : Nat) (auth : List Byte) (sigOk : Bool) (s : State) : Bool × State :=
  if s.authOk p size auth sigOk then (true, s.dropChallenge p)
  else (false, (s.dropChallenge p).note 0x5002 sevWarning noUnit p 0 0)

/-- A command that needs an authorisation and meets every other condition (R409). -/
def State.authorised (pk : Packet) (p : Nat) (auth : List Byte) (sigOk : Bool) (body : State → State) (s : State) : State :=
  if !aligned64 (pk.u 0x10 8) then s.bad pk 0x10
  else match s.examine p (pk.u 0x18 4) auth sigOk with
    | (true, s) => body s
    | (false, s) => s.reply pk stAuth 0 0

/-- NOT_READY in the present state (Table 10.10). -/
def State.notReady (pk : Packet) (s : State) : State := s.reply pk stNotReady s.pwr.state.code 0

/-! ### LOG_CLEAR -/

/-- Snapshots under way reach flash. -/
def State.flushSnapshots (s : State) : State := s.snapshotDone.snapshotDone

/-- Histograms, extremes, counters and the fault records of the statistics are reset (R428). -/
def Rec.clearStats (r : Rec) : Rec :=
  { r with tjHist := Rec.reset.tjHist, vddHist := Rec.reset.vddHist, rateHist := Rec.reset.rateHist, tjExt := Rec.reset.tjExt,
           supplyExt := Rec.reset.supplyExt, rateExt := Rec.reset.rateExt, errors := Rec.reset.errors, faults := [],
           ringQueue := [], queue := [] }

/-- The log and the fault-record ring are erased, LOG_CLEARED opens the new log and a snapshot follows (R428). -/
def State.clearLog (slot id : Nat) (s : State) : State :=
  let s := s.flushSnapshots.onEvr Rec.clearStats
  let s := s.onFlash fun f => { f with log := [], logPos := 0, faultRing := [] }
  let s := s.note 0x0009 sevNotice noUnit slot id 0
  let q := s.evr.queue
  let s := s.onFlash fun f => { f with log := q, logPos := q.length }
  ((s.onEvr fun r => { r with queue := [], erasing := !q.isEmpty }).snapshot 5).flushSnapshots

/-- LOG_CLEAR (R428). -/
def doLogClear (ring : Nat) (auth : List Byte) (sigOk : Bool) (s : State) : State :=
  s.runPacket ring 0x61 fun pk s =>
    let id := match s.challenge 0 with | some c => c.id | none => 0
    s.authorised pk 0 auth sigOk fun s => (s.clearLog (auth.getD 64 0).toNat id).done pk 0
/-- LOG_CLEAR (R428). -/
def execLogClear (ring : Nat) (auth : List Byte) (sigOk : Bool) (s : State) : Out := .next (doLogClear ring auth sigOk s)

/-! ### DIAG_RUN and FLAG_CLEAR -/

/-- Lines of jobs in cache mode are written back and dropped; the banks stay in cache mode (R342). -/
def Fab.invalidateCaches (f : Fab) : Fab := (List.finRange 8).foldl (fun f c => f.cacheFlush c fun _ => true) f

/-- DIAG_RUN (R342): the authorised diagnosis starts. -/
def doDiagRun (ring : Nat) (auth : List Byte) (sigOk : Bool) (s : State) : State :=
  s.runPacket ring 0x81 fun pk s =>
    if !(s.pwr.state = .ready || s.pwr.state = .flagged) || s.ctr.armed.isSome || s.ctr.staged.isSome ||
        (s.pwr.state = .ready && s.cpx.jobOpen) then s.notReady pk
    else s.authorised pk 2 auth sigOk fun s =>
      (s.onFab Fab.invalidateCaches).onMss fun m => { m with diag := some pk }
/-- DIAG_RUN (R342). -/
def execDiagRun (ring : Nat) (auth : List Byte) (sigOk : Bool) (s : State) : Out := .next (doDiagRun ring auth sigOk s)

/-- The newest repair record (R391). -/
def Flash.newest (f : Flash) : Option RepairRecord :=
  match f.repairA, f.repairB with
  | some a, some b => if a.seq < b.seq then some b else some a
  | some a, none => some a
  | none, b => b

/-- A new repair record goes into the slot that does not hold the newest one (R390). -/
def Flash.putRepair (f : Flash) (r : RepairRecord) : Flash :=
  let inA := match f.repairA, f.repairB with
    | some a, some b => decide (b.seq ≤ a.seq)
    | some _, none => true
    | none, _ => false
  if inA then { f with repairB := some r } else { f with repairA := some r }

/-- A repair record of the present part (Table 16.6): the repairs in force and those found now. -/
def State.repairRecord (s : State) (source : Nat) (rs : List Repair) (complete : Bool) : RepairRecord :=
  { seq := (match s.flash.newest with | some r => r.seq | none => 0) + 1, source := source, powerCycle := s.flash.powerCycle,
    dataRate := s.mss.dataRate, memId := s.flash.memId, repairs := rs, complete := complete }

/-- The repairs of the newest record. -/
def Flash.repairs (f : Flash) : List Repair := match f.newest with | some r => r.repairs | none => []

/-- The flag record that holds (R340). -/
def Flash.flagRecord (f : Flash) : Option FlagRecord :=
  match f.flagA, f.flagB with
  | some a, some b => if a.seq < b.seq then some b else some a
  | some a, none => some a
  | none, b => b

/-- A flag record goes into the older copy (R340). -/
def Flash.putFlag (f : Flash) (r : FlagRecord) : Flash :=
  let a : Nat := (f.flagA.map fun x => x.seq).getD 0
  let b : Nat := (f.flagB.map fun x => x.seq).getD 0
  if a ≤ b then { f with flagA := some r } else { f with flagB := some r }

/-- Banks and segments that open jobs hold; in cache mode also B6 and B7 of the set (R342, R285). -/
def Cpx.heldBanks (c : Cpx) : List Nat :=
  c.jobs.flatMap fun j => j.banks ++ (if j.cache && j.state = .running then (maskBits 8 c.qmCores.toNat).flatMap fun k => [8 * k + 6, 8 * k + 7] else [])

/-- Every bank and segment that no open job holds is zero-filled (R342, R128). -/
def Fab.zeroFree (f : Fab) (banks segs : List Nat) : Fab :=
  let f := (List.finRange 8).foldl (fun f c => (List.range 8).foldl (fun f b =>
    if banks.contains (8 * c.val + b) then f
    else { f with spad := f.spad.set c (memZero (f.spad.get c) (b * bankSize) ((b + 1) * bankSize)) }) f) f
  (List.range 6).foldl (fun f g => if segs.contains g then f else { f with sb := memZero f.sb (g * 0x1000000) ((g + 1) * 0x1000000) }) f

/-- A graft that an array can still take (R83, R84): at most two of any kind, and one column, as it has one spare column. -/
def repairFits (held : List Repair) (r : Repair) : Bool :=
  let mine := held.filter fun h => h.graft && h.unitCode = r.unitCode && h.sub = r.sub
  !r.graft || (decide (mine.length < 2) && (!r.column || mine.all fun h => !h.column))

/-- The repairs that stand with those already held, and those that no spare is left for (R84, R394). A graft already held is no new
one. -/
def fitRepairs : List Repair → List Repair → List Repair × List Repair
  | held, [] => (held, [])
  | held, r :: rest =>
    if r.graft && held.contains r then fitRepairs held rest
    else if repairFits held r then fitRepairs (held ++ [r]) rest
    else
      let q := fitRepairs held rest
      (q.1, r :: q.2)

/-- DIAG_RUN_COMPLETE (R342): zero-fill, repair entries, DIAG_PASSES and the reply. -/
def doDiagRunComplete (failing : List UnitId) (repairs : List Repair) (s : State) : State :=
  match s.mss.diag with
  | none => s
  | some pk =>
    if !s.pins.rstN then s else
    let s := s.onMss fun m => { m with diag := none }
    let banks := s.cpx.heldBanks
    let segs := s.cpx.jobs.flatMap fun j => j.segs
    let s := s.onFab fun f => f.zeroFree banks segs
    let (kept, spare) := fitRepairs s.flash.repairs repairs
    let s := if repairs.isEmpty then s
      else
        let r := s.repairRecord 2 kept true
        s.onFlash fun f => f.putRepair r
    let codes := failing.map unitCode ++ spare.map fun r => r.unitCode
    if codes.isEmpty then
      let s := s.onMss fun m => { m with diagPassed := true }
      let s := s.onFlash fun f => match f.flagRecord with
        | some r => if r.flagged then f.putFlag { r with seq := r.seq + 1, diagPasses := r.diagPasses + 1 } else f
        | none => f
      s.done pk 0
    else
      s.reply pk stHwFault (codes.foldl min 0xFF) (((List.range 64).map fun i => if codes.contains i then 2 ^ i else 0).sum)
/-- DIAG_RUN_COMPLETE (R342). -/
def execDiagRunComplete (failing : List UnitId) (repairs : List Repair) (s : State) : Out := .next (doDiagRunComplete failing repairs s)

/-- FLAG_CLEAR (R343): the record with FLAGGED = 0 is on its way to flash; its write brings the reply. -/
def doFlagClear (ring : Nat) (auth : List Byte) (sigOk : Bool) (s : State) : State :=
  s.runPacket ring 0x82 fun pk s =>
    if s.pwr.state ≠ .flagged then s.bad pk 0
    else if !s.mss.diagPassed then s.notReady pk
    else s.authorised pk 1 auth sigOk fun s =>
      let r : FlagRecord := match s.flash.flagRecord with
        | some r => { r with seq := r.seq + 1, flagged := false }
        | none => { seq := 1, flagged := false, unit := 0xFF, subunit := 0xFF, detector := 0, powerCycle := s.flash.powerCycle,
                    opSeconds := s.opSecs, diagPasses := 0, fault := s.saf.faultRecord }
      s.onMss fun m => { m with flagWrite := some r, flagClear := some pk }
/-- FLAG_CLEAR (R343). -/
def execFlagClear (ring : Nat) (auth : List Byte) (sigOk : Bool) (s : State) : Out := .next (doFlagClear ring auth sigOk s)

/-! ### Attestation -/

/-- Bytes of the certificate (Table 16.9). -/
abbrev certSize : Nat := 29920

/-- The certificate passes R411. -/
def Flash.certOk (f : Flash) : Bool :=
  match f.cert with
  | none => false
  | some m => memLe m 0 4 = 0x5443444B && memLe m 4 2 = 0x0880 && memLe m 8 8 = Config.deviceId.toNat &&
      memLe m 0x40 32 = Config.identityPublicKey.toNat

/-- FUSE_DIGEST (Table 16.11). -/
def Sec.fuseDigest (x : Sec) : BitVec 256 :=
  Config.fuseDigest ((x.slots.toList.map fun o => o.digest.toNat) ++ (x.slots.toList.map fun o => if o.revoked then 1 else 0) ++ [x.rollback, x.order])

/-- The 256 bytes of a quote body (Table 16.11). -/
def State.quoteBody (s : State) (nonce : Nat) : List Byte :=
  let dg := fun (o : Option Contract) (f : Contract → BitVec 256) => match o with | some c => leBytes 32 (f c).toNat | none => List.replicate 32 0#8
  leBytes 4 0x54514D4B ++ leBytes 2 1 ++
    leBytes 2 (packBits [s.pwr.state = .recovery, s.saf.flagged, s.pwr.longStart, s.saf.latched]) ++
    leBytes 8 Config.deviceId.toNat ++ leBytes 4 s.mss.fwVersion ++ leBytes 4 s.sec.rollback ++ leBytes 8 s.now ++
    leBytes 32 nonce ++ leBytes 32 s.mss.fwDigest.toNat ++ dg s.ctr.armed (fun c => c.digest) ++
    dg s.ctr.armed (fun c => c.modelDigest) ++ leBytes 32 s.sec.fuseDigest.toNat ++ dg s.ctr.staged (fun c => c.digest) ++
    leBytes 4 s.flash.powerCycle ++ leBytes 1 s.pwr.state.code ++ leBytes 1 s.sec.order ++ leBytes 1 0xA1 ++ leBytes 1 0 ++
    leBytes 4 (if s.sec.certValid then certSize else 0) ++ List.replicate 20 0#8

/-- ATTEST (R412). -/
def doAttest (ring : Nat) (s : State) : State :=
  s.runPacket ring 0x73 fun pk s =>
    let dest := pk.u 0x30 8
    if !aligned64 dest then s.bad pk 0x30
    else if s.sec.unlocked then s.notReady pk
    else
      let b := s.quoteBody (pk.u 0x10 32)
      let sig := (Config.identitySign b).take 17088
      let q := b ++ sig ++ List.replicate (17088 - sig.length) 0#8
      let q := match s.sec.certValid, s.flash.cert with
        | true, some m => q ++ memBytes m 0 certSize
        | _, _ => q
      (s.hostWrite dest q).done pk (if s.sec.certValid then 47264 else 17344)
/-- ATTEST (R412). -/
def execAttest (ring : Nat) (s : State) : Out := .next (doAttest ring s)

/-! ### Updates -/

/-- UPDATE_BEGIN (R401). -/
def doUpdateBegin (ring : Nat) (s : State) : State :=
  s.runPacket ring 0x70 fun pk s =>
    let size := pk.u 0x10 4
    if s.flash.commit.isSome then s.notReady pk
    else if size < 30432 ∨ 0x7000000 < size then s.bad pk 0x10
    else (s.onFlash fun f => { f with session := some { size := size, version := pk.u 0x14 4, written := [] } }).done pk 0
/-- UPDATE_BEGIN (R401). -/
def execUpdateBegin (ring : Nat) (s : State) : Out := .next (doUpdateBegin ring s)

/-- Where a staged image byte lies (R402): the staging area of the device area, or CKC SRAM in RECOVERY. The places within
the device area are the order of R145's list. -/
def State.stagePlace (s : State) (off : Nat) : Space × Nat :=
  if s.pwr.state = .recovery then (.ckc, off) else (.dram, s.mss.usable - 0x8000000 + 0x3000000 + off)

/-- The staged image as a memory of its own. -/
def State.staged (s : State) : Memory :=
  let (sp, a) := s.stagePlace 0
  memPut [] 0 (s.fab.peeks sp a 0x800000)

/-- UPDATE_DATA (R402); `src` is what host memory holds at SRC. -/
def doUpdateData (ring : Nat) (src : List Byte) (s : State) : State :=
  s.runPacket ring 0x71 fun pk s =>
    let off := pk.u 0x18 4
    let len := pk.u 0x1C 4
    match s.flash.session with
    | none => if s.flash.commit.isSome then s.notReady pk else s.bad pk 0
    | some x =>
      if s.flash.commit.isSome then s.notReady pk
      else if pk.u 0x10 8 % 64 ≠ 0 then s.bad pk 0x10
      else if len < 64 ∨ 0x100000 < len ∨ len % 64 ≠ 0 then s.bad pk 0x1C
      else if off % 64 ≠ 0 ∨ x.size < off + len then s.bad pk 0x18
      else
        let b := (List.range len).map fun i => src.getD i 0
        if off + len ≤ 0x800000 then
          let (sp, a) := s.stagePlace off
          let units := (List.range (len / 64)).map fun i => off / 64 + i
          let s := s.onFab fun f => f.pokes sp a b
          (s.onFlash fun f => { f with session := some { x with written := units ++ x.written.filter fun u => !units.contains u } }).done pk 0
        else if 0x1000000 ≤ off ∧ off + len ≤ 0x7000000 then
          let s := s.onFlash fun f => { f with pattern := memPut f.pattern off b }
          let s := s.onMss fun m => { m with patternMode := true }
          let s := if s.evr.patternNoted then s else (s.onEvr fun r => { r with patternNoted := true }).note 0x0006 sevNotice noUnit 0 0 0
          s.done pk 0
        else s.bad pk 0x18
/-- UPDATE_DATA (R402). -/
def execUpdateData (ring : Nat) (src : List Byte) (s : State) : Out := .next (doUpdateData ring src s)

/-- Every byte of the image was written in the session (R403 check 1). -/
def UpdateSession.complete (x : UpdateSession) (size : Nat) : Bool :=
  (List.range ((size + 63) / 64)).all fun u => x.written.contains u

/-- UPDATE_COMMIT (R403): the checks; then the flash write starts with the erase of the first sector. -/
def doUpdateCommit (ring : Nat) (sigOk : Bool) (s : State) : State :=
  s.runPacket ring 0x72 fun pk s =>
    match s.flash.session with
    | none => s.bad pk 0
    | some x =>
      let m := s.staged
      let c := s.sec.imageCheck m sigOk
      if s.flash.commit.isSome then s.notReady pk
      else if !x.complete 64 || !x.complete (imgSize m) then s.bad pk 0
      else if c = 1 ∨ imgVersion m ≠ x.version then s.bad pk 0xFFFF
      else if c ≠ 0 then s.reply pk stAuth 0 0
      else if !s.sec.keyOpsValid (imgLe m (imgSig m) 1) (imgKeyOps m) then s.bad pk 0xFFFF
      else s.onFlash fun f => { f with image := none, commit := some pk }
/-- UPDATE_COMMIT (R403). -/
def execUpdateCommit (ring : Nat) (sigOk : Bool) (s : State) : Out := .next (doUpdateCommit ring sigOk s)

/-- IMAGE_AREA_WRITE (R403): the write ends after `mismatches` failed read-backs; the third leaves no valid image. PWRFAIL_N
pauses the write for the rest of the power cycle. -/
def doImageAreaWrite (mismatches : Nat) (s : State) : State :=
  match s.flash.commit with
  | none => s
  | some pk =>
    if !(s.pins.rstN && s.pins.pwrfailN) then s
    else if mismatches < 3 then
      let m := s.staged
      let s := s.onFlash fun f => { f with image := some (m.filter fun c => decide (c.1 < imgSize m)), commit := none }
      let s := (s.note 0x0005 sevNotice noUnit (imgVersion m) 0 0).done pk (imgVersion m)
      if s.pwr.state = .recovery then s.onMss fun x => { x with selfReset := some (s.now + 10000000) } else s
    else
      let off := s.freeWord.toNat % 0x800000
      let s := s.bumpFree.onFlash fun f => { f with image := none, commit := none }
      (s.note 0x2006 sevError 0x25 off 0 0).reply pk stHwFault 0x25 0
/-- IMAGE_AREA_WRITE (R403). -/
def execImageAreaWrite (mismatches : Nat) (s : State) : Out := .next (doImageAreaWrite mismatches s)

/-! ### JTAG -/

/-- OWNER_PROVISION (R405): only while every slot is EMPTY. -/
def doOwnerProvision (d : BitVec 256) (s : State) : State :=
  if s.pins.rstN && (List.range 4).all (fun i => (s.sec.slot i).empty) && decide (d ≠ 0) then
    s.onSec fun x => { x with slots := vset x.slots 0 { digest := d, revoked := false } }
  else s
/-- OWNER_PROVISION (R405). -/
def execOwnerProvision (digest : BitVec 256) (s : State) : Out := .next (doOwnerProvision digest s)

/-- DBG_CHALLENGE (R414): the outstanding purpose-3 challenge goes out; what goes out without one is not stated. -/
def doDbgChallenge (s : State) : State :=
  if !s.pins.rstN || s.sec.unlocked then s else
  match s.challenge 3 with
  | some c => s.onSec fun x => { x with jtagOut := c.bytes 3 }
  | none =>
    let b := (List.range 8).flatMap fun i => leBytes 8 (Config.freeValue (s.freeCtr + i)).toNat
    ({ s with freeCtr := s.freeCtr + 8 }).onSec fun x => { x with jtagOut := b }
/-- DBG_CHALLENGE (R414). -/
def execDbgChallenge (s : State) : Out := .next (doDbgChallenge s)

/-- The key store is zeroised (R398): the identity key and the outstanding challenges are gone. -/
def Sec.zeroise (x : Sec) : Sec := { x with keyZero := true, challenges := Vector.replicate 4 none }

/-- The unlock conditions of R414. -/
def State.unlockOk (s : State) : Bool :=
  s.ctr.armed.isNone && s.ctr.staged.isNone && !s.mss.regions.any fun r => r.encrypt

/-- DBG_RESPONSE (R414, R415). -/
def doDbgResponse (auth : List Byte) (sigOk : Bool) (s : State) : State :=
  if !s.pins.rstN || s.sec.unlocked then s else
  let s := s.onSec fun x => { x with attempts := satU 8 (x.attempts + 1) }
  let refuse := fun (s : State) => s.onSec fun x => { x with lastRefused := true }
  if !s.unlockOk then refuse (s.note 0x5006 sevCritical noUnit 1 0 0)
  else match s.examine 3 auth.length auth sigOk with
    | (false, s) => refuse s
    | (true, s) =>
      let s := s.onSec fun x => { x.zeroise with unlocked := true, lastRefused := false }
      let s := s.note 0x5006 sevCritical noUnit 0 0 0
      if s.saf.latched then s else s.latch latchPower
/-- DBG_RESPONSE (R414). -/
def execDbgResponse (auth : List Byte) (sigOk : Bool) (s : State) : Out := .next (doDbgResponse auth sigOk s)

end Sys2Proof.Machine
end

