-- ==== Sys2Proof/Machine/Boot.lean ====
section
/-! DEFINITION. Resets and starts (R386-R396, R341, R348, R349, R407, R417, R423, R424), the pins PERST_N and PWRFAIL_N (R250,
R375, R425), the shut-down test (R397-R400) and the self-reset of RECOVERY (R404). -/

namespace Sys2Proof.Machine

/-! ### RST_N -/

/-- What RST_N keeps of the flash: an update's session and an unfinished image write end (R395, R404). -/
def Flash.afterReset (f : Flash) : Flash := { f with session := none, commit := none }

/-- What RST_N keeps of SEC: the fuses (R395). -/
def Sec.afterReset (x : Sec) : Sec :=
  { Sec.reset with orderQ10 := x.orderQ10, slots := x.slots, rollback := x.rollback }

/-- The unit's memories, registers and outputs return to their reset values (R395, R432, R450); the fuses, the completed
flash writes, what the host has received and the input pins stay. -/
def State.afterReset (s : State) : State :=
  { State.reset with
    sec := s.sec.afterReset, flash := s.flash.afterReset, hif := { Hif.reset with posted := s.hif.posted },
    pins := { Pins.reset with perstN := s.pins.perstN }, freeCtr := s.freeCtr, pending := s.pending }

/-! ### Statistics at a start -/

/-- A little-endian field of a record's bytes. -/
def leAt (b : List Byte) (off n : Nat) : Nat := leNat ((b.drop off).take n)

/-- An extreme with two times (Table 17.2); one that was never recorded reads zero. -/
def extreme2 (b : List Byte) (off : Nat) (signed : Bool) : Extreme :=
  let rd := fun o => if signed then sext 16 (leAt b o 2) else ((leAt b o 2 : Nat) : Int)
  { lo := rd off, hi := rd (off + 2), tLo := leAt b (off + 4) 4, tHi := leAt b (off + 8) 4,
    seen := (b.drop off).take 12 != List.replicate 12 0#8 }

/-- The statistics counted on from a snapshot (R424). -/
def Rec.load (r : Rec) (b : List Byte) : Rec :=
  { r with
    tjHist := Vector.ofFn fun (c : Fin 8) => Vector.ofFn fun (i : Fin 32) => leAt b (0x40 + 128 * c.val + 4 * i.val) 4
    vddHist := Vector.ofFn fun (i : Fin 32) => leAt b (0x440 + 4 * i.val) 4
    rateHist := Vector.ofFn fun (c : Fin 8) => Vector.ofFn fun (i : Fin 32) => leAt b (0x4C0 + 128 * c.val + 4 * i.val) 4
    tjExt := Vector.ofFn fun (i : Fin 32) => extreme2 b (0x8C0 + 12 * i.val) true
    supplyExt := Vector.ofFn fun (i : Fin 24) => extreme2 b (0xA40 + 12 * i.val) false
    rateExt := Vector.ofFn fun (i : Fin 17) =>
      let o := 0xB60 + 8 * i.val
      { lo := ((leAt b o 2 : Nat) : Int), hi := ((leAt b (o + 2) 2 : Nat) : Int), tLo := leAt b (o + 4) 4, tHi := 0,
        seen := (b.drop o).take 8 != List.replicate 8 0#8 }
    errors := Vector.ofFn fun (k : Fin 24) => Vector.ofFn fun (c : Fin 8) => leAt b (0xBE8 + 32 * k.val + 4 * c.val) 4 }

/-- The recorder at a start (R417, R423, R424): SEQ and operating time go on from what the flash holds, and the newest
fault-record sector gives the most recent fault records. -/
def Flash.startRec (f : Flash) : Rec :=
  let ops := (f.log.map (fun e => e.opSeconds) ++ f.snapshots.map fun b => leAt b 8 4).foldl max 0
  let next := match f.log.getLast? with | some e => (e.seq + 1) % 2 ^ 32 | none => 0
  let r := { Rec.reset with nextSeq := next, opSeconds := ops, lastMark := ops / 3600 * 3600, lastSnap := ops / 600 * 600, lastTick := ops,
                            faults := (f.faultRing.drop (f.faultRing.length / 64 * 64 - if f.faultRing.length % 64 = 0 then 64 else 0)).reverse }
  match f.snapshots.getLast? with
  | some b => r.load b
  | none => r

/-! ### Starting -/

/-- What every start does first: the recorder goes on from the flash, the straps, the STARTUP latch and the certificate
(R386, R389, R411, R417). -/
def State.startCommon (mode : BitVec 2) (s : State) : State :=
  let s := { s with evr := s.flash.startRec }
  let s := s.onPins fun p => { p with rstN := true, bootMode := mode }
  let s := (s.raise causeLatch).note 0x1001 sevCritical noUnit latchStartup s.saf.count 0
  let s := if mode = 3 then s.note 0x0004 sevNotice noUnit 0 0 0 else s
  let cert := s.flash.certOk
  let s := s.onSec fun x => { x with certValid := cert }
  if cert then s else s.note 0x5004 sevWarning noUnit 0 0 0

/-- The image whose checks passed starts: its version and digest, the power-cycle count, a short or a long start (R389, R391). -/
def State.startImage (mode : BitVec 2) (s : State) : State :=
  let img := s.flash.image.getD []
  let s := s.onMss fun m => { m with fwVersion := imgVersion img, fwDigest := digest256 (memBytes img 0 (imgSig img)) }
  let s := s.onFlash fun f => { f with powerCycle := (f.powerCycle + 1) % 2 ^ 24 }
  let normal := decide (mode ≠ 1) && match s.flash.newest with | some r => r.complete && r.memId = s.flash.memId | none => false
  (s.onMss fun m => { m with bootLong := !normal, bootStep := 6 }).onPwr fun p => { p with longStart := !normal }

/-- RST_N_RELEASE, steps 1 to 6 of Table 16.5: straps, STARTUP latch, image checks, repair record and power-cycle count
(R386, R388, R389, R391, R411), as MSS_BOOT_STEP then shows (R442). RECOVERY comes before step 4 by the straps, before the end of
step 5 by a failed check. `imageSigOk` says whether the image's signature verifies. -/
def State.startFrom (mode : BitVec 2) (sigOk : Bool) (s : State) : State :=
  let s := s.startCommon mode
  let c := s.sec.imageCheck (s.flash.image.getD []) sigOk
  if mode = 2 then s.onMss fun m => { m with bootRecovery := true, bootStep := 3 }
  else if c ≠ 0 then
    (s.onMss fun m => { m with bootRecovery := true, imageCheck := c, bootStep := 4 }).note 0x5001 sevCritical noUnit c 0 0
  else s.startImage mode

/-- RST_N_RELEASE (R389). -/
def doRstNRelease (mode : BitVec 2) (sigOk : Bool) (s : State) : State :=
  if s.pins.rstN then s else s.startFrom mode sigOk
/-- RST_N_RELEASE (R389). -/
def execRstNRelease (bootMode : BitVec 2) (imageSigOk : Bool) (s : State) : Out := .next (doRstNRelease bootMode imageSigOk s)

/-- One key operation of the running image at a start (R407). -/
def State.applyKeyOp (signer : Nat) (s : State) (k : KeyOp) : State :=
  if s.sec.keyOpDone k then s
  else if s.sec.keyOpValid signer k then s.onSec fun x => x.fuse k
  else s.note 0x5003 sevWarning noUnit k.op k.slot 0

/-- The fuses follow the image header (R407). -/
def State.applyFuses (s : State) : State :=
  let img := s.flash.image.getD []
  let s := (imgKeyOps img).foldl (State.applyKeyOp (imgLe img (imgSig img) 1)) s
  s.onSec fun x => { x with rollback := max x.rollback (min 128 (imgLe img 0xC 1)) }

/-- The injections of Table 13.8. -/
abbrev injectionCount : Nat := 312

/-- The SAFE reservation that a data rate needs (Table 6.4). -/
def minReserve (rate : Nat) : Nat := if rate = 8533 then 60 else if rate = 7500 then 70 else 80

/-- Usable LPDDR5X bytes (R140): 30 GiB of 32 GB, 60 GiB of 64 GB. -/
def usableBytes (dense : Bool) : Nat := if dense then 60 * 2 ^ 30 else 30 * 2 ^ 30

/-- The fault record and the flag record of a start that fails (R349, R394). -/
def State.failStart (t : TestFail) (s : State) : State :=
  let f : FailReport := { detector := t.detector, unit := t.unit, subunit := t.subunit, cls := 0xFF, address := t.address, detail := t.detail }
  let s := s.suspect f (FaultCtx.none outSuspect)
  let r := s.flagRecordOf f
  s.onFlash fun x => x.putFlag r

/-- The part enters FLAGGED at the end of a start (R341): the STARTUP latch is left for the vehicle controller. -/
def State.startFlagged (unit : Nat) (s : State) : State :=
  let s := s.onSaf fun x => { x with flagged := true, faultUnit := unit, startup := false }
  (s.enter .flagged).raise causeFlagged

/-- An array that needs a third graft (R394): repair exhausted. -/
def repairExhausted (r : Repair) : TestFail :=
  { detector := 0x0E, unit := .mxc (coreOf r.unitCode), subunit := r.sub, address := r.row, detail := 0 }

/-- The CKC lane firmware of the image is in CKC SRAM from address 0 (Table 12.1, Table 16.5 step 6; its place in the first MiB is DESIGN
CHOICE, log 173), and the lanes start together in TMR. -/
def State.startLanes (s : State) : State :=
  let img := s.flash.image.getD []
  let s := match (imgComponents img).find? fun e => e.1 = 2 with
    | some e => s.onFab fun f => f.pokes .ckc 0 (memBytes img e.2.1 e.2.2)
    | none => s
  (s.onCkc fun c => { c with lanes := Vector.replicate 3 Lane.start }).setCkcMode .tmr 0

/-- A start that reaches its last step (Tables 16.5 and 16.7). -/
def State.finishStart (dense : Bool) (rate : Nat) (retrained : Bool) (repairs : List Repair) (fail : Option TestFail) (s : State) : State :=
  let wasLong := s.mss.bootLong
  let long := wasLong || retrained
  let s := s.onMss fun m => { m with bootLong := long, bootStep := 0xFF, dataRate := rate, usable := usableBytes dense,
                                     reserveEff := max m.reserve (minReserve rate) }
  let s := s.onPwr fun p => { p with longStart := long }
  let s := s.powerOn readyDomains
  let s := s.onPwr fun p => { p with units := Vector.ofFn fun (i : Fin 17) => { p.units.get i with settled := p.unitOn i.val } }
  let s := s.onCpx fun c => { c with qmCores := 0xFF#8, windowOpen := true }
  let (kept, spare) := fitRepairs [] (if wasLong then repairs else s.flash.repairs ++ repairs)
  let s := if long then
      let r := s.repairRecord 1 kept true
      s.onFlash fun f => f.putRepair r
    else s
  let s := (s.note 0x0003 sevInfo noUnit injectionCount 0 0).applyFuses
  let s := s.startLanes
  let s := s.note 0x0001 sevInfo noUnit (if long then 1 else 0) s.mss.fwVersion s.pins.bootMode.toNat
  match fail.or (spare.head?.map repairExhausted) with
  | some t => (s.failStart t).startFlagged (unitCode t.unit)
  | none =>
    match s.flash.flagRecord with
    | some r => if r.flagged then s.startFlagged r.unit else s.enter .ready
    | none => s.enter .ready

/-- END_OF_START (R389, R393, R404): `dense` is the density of the memories, `trainedRate` the rate at which training passed,
`retrained` a failed read-back of stored values (R392), `repairs` what a long start found, `fail` an unrepairable finding. -/
def doEndOfStart (dense : Bool) (rate : Nat) (retrained : Bool) (repairs : List Repair) (fail : Option TestFail) (s : State) : State :=
  if !s.pins.rstN || s.pwr.state ≠ .boot then s
  else if s.mss.bootRecovery then
    let s := s.onMss fun m => { m with bootStep := 0xFF }
    let s := s.powerOn (1#64 <<< 45)
    (s.note 0x0001 sevInfo noUnit 2 0 s.pins.bootMode.toNat).enter .recovery
  else s.finishStart dense rate retrained repairs fail
/-- END_OF_START (R389). -/
def execEndOfStart (dense : Bool) (trainedRate : Nat) (retrained : Bool) (repairs : List Repair) (fail : Option TestFail) (s : State) : Out :=
  .next (doEndOfStart dense trainedRate retrained repairs fail s)

/-! ### Shut-down test -/

/-- Steps 2 and 3 of Table 16.8, once the last frame has been emitted: contracts unloaded, statistics written, the new
record's header written with COMPLETE zero. -/
def State.shutAdvance (s : State) : State :=
  if s.pwr.state = .shutdownTest && !s.mss.aborted && decide (s.mss.shutStep < 3) && s.emt.frames.isEmpty then
    let s := if s.ctr.prog.running then s.stopProgram else s
    let s := ((s.splitBoundary.unloadContracts).flushLog.snapshot 3).flushSnapshots
    let r := s.repairRecord 0 s.flash.repairs false
    (s.onFlash fun f => f.putRepair r).onMss fun m => { m with shutStep := 3 }
  else s

/-- PREPARE_OFF (R397, Table 16.8 step 1). -/
def doPrepareOff (ring : Nat) (s : State) : State :=
  s.runPacket ring 0x80 fun pk s =>
    if s.cpx.jobOpen || s.ctr.armPending.isSome || s.flash.commit.isSome ||
        !(s.pwr.state = .ready || s.pwr.state = .running || s.pwr.state = .flagged) then s.notReady pk
    else
      let s := (s.latch latchPower).enter .shutdownTest
      let s := s.cancelLaunches.onMss fun m => { m with prepare := some pk, shutStep := 1, aborted := false }
      (s.onCpx fun c => { c with windowOpen := false }).shutAdvance
/-- PREPARE_OFF (R397). -/
def execPrepareOff (ring : Nat) (s : State) : Out := .next (doPrepareOff ring s)

/-- A scan failure that no spare repairs (R399): recorded in the flag record, unless the part is already flagged. -/
def State.shutFailure (t : TestFail) (s : State) : State :=
  if s.saf.flagged then s
  else
    let f : FailReport := { detector := t.detector, unit := t.unit, subunit := t.subunit, cls := 0xFF, address := t.address, detail := t.detail }
    let s := (s.recordFault f (FaultCtx.none outSuspect)).flushSnapshots
    let r := s.flagRecordOf f
    s.onFlash fun x => x.putFlag r

/-- Every domain goes off; the link with PD45. -/
def State.allOff (s : State) : State :=
  (((s.gateOffEnd (s.pwr.domains ||| s.pwr.rising)).onSen Sen.quiesce).onPwr fun p => { p with rising := 0, closing := 0, busy := none }).onHif fun h => { h with linkUp := false }

/-- OFF_READY (Table 16.8 steps 4 to 9): the record's body with the repairs found and COMPLETE, the reply, the pin, PD45 off. -/
def doOffReady (repairs : List Repair) (unrepaired : Option TestFail) (s : State) : State :=
  let s := s.shutAdvance
  match s.mss.prepare with
  | none => s
  | some pk =>
    if !s.pins.rstN || s.mss.aborted || decide (s.mss.shutStep < 3) then s else
    let s := s.onSec fun x => { x.zeroise with scanEnabled := true }
    let (kept, spare) := fitRepairs s.flash.repairs repairs
    let s := match unrepaired.or (spare.head?.map repairExhausted) with | some t => s.shutFailure t | none => s
    let s := s.onFlash fun f => match f.newest with
      | some r =>
        let r' := { r with repairs := kept, complete := true }
        if f.repairA = some r then { f with repairA := some r' } else { f with repairB := some r' }
      | none => f
    let s := s.onMss fun m => { m with prepare := none, shutStep := 9 }
    let s := s.done pk 0
    let s := s.onPins fun p => { p with offReady := true }
    s.allOff.enter .offReady
/-- OFF_READY (R397). -/
def execOffReady (repairs : List Repair) (unrepaired : Option TestFail) (s : State) : Out := .next (doOffReady repairs unrepaired s)

/-! ### RST_N assertion and the self-reset -/

/-- RST_N_ASSERT (R395): an unfinished shut-down test leaves its record incomplete (R400). -/
def doRstNAssert (s : State) : State := if s.pins.rstN then s.shutAdvance.afterReset else s
/-- RST_N_ASSERT (R395). -/
def execRstNAssert (s : State) : Out := .next (doRstNAssert s)

/-- RECOVERY_SELF_RESET (R404): 10 ms after the reply, as if RST_N had been asserted; the image that was just written and
checked is started. -/
def doRecoverySelfReset (s : State) : State :=
  match s.mss.selfReset with
  | some t =>
    if s.pins.rstN && s.pwr.state = .recovery then
      let m := s.pins.bootMode
      ((s.advance t).afterReset).startFrom m true
    else s
  | none => s
/-- RECOVERY_SELF_RESET (R404). -/
def execRecoverySelfReset (s : State) : Out := .next (doRecoverySelfReset s)

/-! ### PERST_N and PWRFAIL_N -/

/-- PERST_N_ASSERT (R250, R375, R455): ignored while RST_N is low; in PARKED it also wakes the part. -/
def doPerstNAssert (s : State) : State :=
  if s.pins.rstN then
    let s := s.onPins fun p => { p with perstN := false }
    let s := (s.attachReset 0).onHif fun h => { h with linkUp := false }
    if s.pwr.state = .parked then (s.onPwr fun p => { p with wake := true }).leaveParked else s
  else s.onPins fun p => { p with perstN := false }
/-- PERST_N_ASSERT (R250). -/
def execPerstNAssert (s : State) : Out := .next (doPerstNAssert s)

/-- PERST_N_RELEASE (R396): the link may train. -/
def doPerstNRelease (s : State) : State := s.onPins fun p => { p with perstN := true }
/-- PERST_N_RELEASE (R396). -/
def execPerstNRelease (s : State) : Out := .next (doPerstNRelease s)

/-- PWRFAIL_N_ASSERT (R425, R400): the event, the snapshot, and the end of a shut-down test without a reply; `step` is the step
that the test had reached. -/
def doPwrfailNAssert (step : Nat) (s : State) : State :=
  if !s.pins.rstN then s else
  let s := s.shutAdvance
  let s := s.onPins fun p => { p with pwrfailN := false }
  let s := s.note 0x6004 sevCritical noUnit s.pwr.state.code 0 0
  let s := match s.mss.prepare with
    | some pk =>
      let k := if s.mss.shutStep < 3 then s.mss.shutStep else max 3 (min 8 step)
      let s := s.note 0x0008 sevWarning noUnit k 0 0
      let s := if 4 ≤ k then s.onSec fun x => { x.zeroise with scanEnabled := true } else s
      (s.onMss fun m => { m with prepare := none, aborted := true, shutStep := k }).onCpx fun c => c.retire pk 0
    | none => s
  s.snapshot 2
/-- PWRFAIL_N_ASSERT (R425). -/
def execPwrfailNAssert (step : Nat) (s : State) : Out := .next (doPwrfailNAssert step s)

end Sys2Proof.Machine
end

