-- ==== Sys2Proof/Machine/Registers.lean ====
section
/-! DEFINITION. The BAR0 registers: reads (Tables 18.1-18.15, R430-R443), writes under the access rules, the region table
(R144, R413, R440) and the settings of R441. -/

namespace Sys2Proof.Machine

/-! ### Reading -/

/-- The two words of a 64-bit register. -/
def reg64 (off v : Nat) : List (Nat × Nat) := [(off, v % 2 ^ 32), (off + 4, v / 2 ^ 32 % 2 ^ 32)]

/-- Bytes as words from an offset. -/
def regBytes (off : Nat) (b : List Byte) : List (Nat × Nat) :=
  (List.range (b.length / 4)).map fun i => (off + 4 * i, leAt b (4 * i) 4)

/-- HIF_ADMIN_CTRL (Table 18.4). -/
def Hif.ctrl (h : Hif) : Nat :=
  packBits [h.adminEnable, h.adminActive, h.configError, h.adminIrq] + 2 ^ 8 * h.adminVector + 2 ^ 16 * h.adminCoalesce

/-- SEC_STATUS (Table 18.15). -/
def Sec.status (x : Sec) : Nat :=
  ((List.range 4).map fun i => let o := x.slot i; (if o.revoked then 3 else if o.enrolled then 1 else 0) * 4 ^ i).sum +
    2 ^ 8 * x.rollback + (if x.certValid then 2 ^ 16 else 0) +
    (if x.keyZero && x.challenges.toList.all (fun c => c.isNone) then 2 ^ 17 else 0)

/-- DBG_STATUS (Table 18.15). -/
def Sec.dbgStatus (x : Sec) : Nat := packBits [x.unlocked, x.lastRefused] + 2 ^ 8 * x.attempts

/-- PWR_REQ_STATUS (Table 15.4). -/
def Pwr.reqStatus (p : Pwr) : Nat := packBits [p.busy.isSome, p.done] + 2 ^ 8 * p.status + 2 ^ 16 * p.ignored

/-- MSS_EVENT_RATE of a half (Table 18.13). -/
def Mss.eventRate (m : Mss) (h : Nat) : Nat := ((List.range 4).map fun k => vget m.limits (4 * h + k) 0 * 2 ^ (8 * k)).sum

/-- The HIF and CPX registers. -/
def State.regsHost (s : State) : List (Nat × Nat) :=
  let h := s.hif
  [(0x0, 0x0880 + 0xA1 * 2 ^ 16 + s.sec.order * 2 ^ 24), (0x4, s.mss.fwVersion)] ++ reg64 0x8 Config.deviceId.toNat ++
  [(0x10, 0x02030100), (0x14, 0x02010403), (0x18, h.event.toNat), (0x1C, h.eventMask.toNat), (0x20, h.doorbellErrors)] ++
  reg64 0x28 h.bar4Window.toNat ++ reg64 0x30 h.adminCmdBase.toNat ++ reg64 0x38 h.adminCplBase.toNat ++
  [(0x40, h.adminEntries.toNat), (0x44, h.ctrl),
   (0x400, s.cpx.qmCores.toNat + 2 ^ 8 * packBits [s.cpx.windowOpen, s.cpx.running?.isSome, s.ctr.armed.isSome, s.ctr.staged.isSome,
                                                   s.ctr.armPending.isSome]),
   (0x404, s.cpx.clients.length + 2 ^ 15 * s.cpx.unrepliedAll.length),
   (0x408, match s.cpx.running? with | some j => j.ring + 2 ^ 31 | none => 0)]

/-- The TMB registers. -/
def State.regsTime (s : State) : List (Nat × Nat) :=
  let m := s.tim
  let servo := match m.servo with | .freeRun => 0 | .locking => 1 | .locked => 2 | .holdover => 3 | .stepPending => 4
  reg64 0x800 s.now ++ [(0x808, 0)] ++ reg64 0x810 m.snapCount.toNat ++ reg64 0x818 (codeOf 64 m.snapVtime) ++
  [(0x820, m.snapSeq), (0x824, m.seq)] ++ reg64 0x828 m.base ++ reg64 0x830 (codeOf 64 m.offset) ++
  [(0x838, codeOf 32 m.rate), (0x83C, servo + 2 ^ 3 * packBits [m.gptp, m.ppsInEn, m.ppsOutEn] + 2 ^ 8 * m.domain),
   (0x840, codeOf 32 (max (-(2 ^ 31 - 1)) (min (2 ^ 31 - 1) m.error))), (0x844, m.jumpNs)] ++
  reg64 0x848 (codeOf 64 m.pending) ++ reg64 0x850 m.ppsCount ++ [(0x858, codeOf 32 m.ppsPhase)] ++ reg64 0x860 m.master.toNat

/-- The EMT and CKC registers. -/
def State.regsFrame (s : State) : List (Nat × Nat) :=
  let e := s.emt
  [(0xC00, match s.ctr.armed with | some c => c.hdr.cadence + 2 ^ 6 * c.hdr.tileFormat + 2 ^ 8 * (c.hdr.tiles / 64) | none => 0),
   (0xC04, e.lastFrame),
   (0xC08, e.lastSlot + if e.frames.any (fun f => f.frame = e.lastFrame && decide (0 < f.nextSlot)) then 2 ^ 16 else 0),
   (0xC0C, satU 16 e.lastLate + 2 ^ 16 * satU 16 e.lastLateCommits), (0xC10, e.dropsReg)] ++ reg64 0xC18 e.launchLast ++
  reg64 0xC20 (match s.ctr.placed with | some p => p.count | none => 2 ^ 64 - 1) ++
  [(0x1200, s.ckc.mode.code + 4 * s.ckc.lane + 2 ^ 4 * packBits [s.ckc.split.isSome, s.ckc.selfBusy, s.ckc.selfPassed] +
      2 ^ 8 * s.ckc.slotArmed + 2 ^ 9 * packBits [s.ctr.armed.isSome, s.ctr.staged.isSome]),
   (0x1204, satU 8 (s.ckc.odd.get 0) + 2 ^ 8 * satU 8 (s.ckc.odd.get 1) + 2 ^ 16 * satU 8 (s.ckc.odd.get 2)), (0x1208, s.ckc.copyDrops)]

/-- The SAF registers (Table 18.8). -/
def State.regsSafe (s : State) : List (Nat × Nat) :=
  let x := s.saf
  [(0x1000, s.statusFlags % 256 + 2 ^ 8 * (if x.latched then x.cause else 0) + 2 ^ 16 * x.historyByte + 2 ^ 24 * x.rxErrors),
   (0x1004, x.count + 2 ^ 16 * x.lastReasons), (0x1008, x.time), (0x100C, x.lastFrame), (0x1010, x.alive + 2 ^ 16 * x.ctrlAlive),
   (0x1014, x.faultUnit + 2 ^ 8 * codeOf 8 s.pwr.tjMax + 2 ^ 16 * x.lateLast), (0x1018, x.faultSeq)] ++ regBytes 0x1040 x.faultRecord

/-- The PWR registers. -/
def State.regsPower (s : State) : List (Nat × Nat) :=
  let p := s.pwr
  [(0x1400, p.state.code + if p.longStart then 2 ^ 8 else 0)] ++ reg64 0x1408 p.domains.toNat ++ reg64 0x1410 p.closing.toNat ++
  [(0x1418, 0), (0x141C, p.reqStatus), (0x1420, p.hostRate + 2 ^ 16 * p.effective), (0x1424, p.cap + 2 ^ 16 * s.sec.floor),
   (0x1428, p.vdd + 2 ^ 16 * p.vddRead)] ++
  ((List.range 32).map fun i => (0x1500 + 4 * i, codeOf 16 (vget p.tj i 0))) ++
  ((List.range 24).map fun i => (0x1580 + 4 * i, vget p.supply i 0 % 4096)) ++
  (List.range 17).map fun i => (0x1600 + 4 * i, (vget p.units i RateUnit.zero).rate % 2048)

/-- The MSS, SEC and DBG registers and the MSI-X structures. -/
def State.regsMss (s : State) : List (Nat × Nat) :=
  let m := s.mss
  ((List.range 16).map fun n => (0x1800 + 4 * n, (vget m.shadow n 0).toNat)) ++
  [(0x1840, (if m.applyBusy.isSome then 1 else 0) + 2 * m.errCode + 2 ^ 4 * m.errEntry), (0x1844, m.applies),
   (0x1848, m.reserve + 2 ^ 8 * m.reserveEff), (0x184C, m.warn + 2 ^ 8 * m.throttle + if m.thermalRejected then 2 ^ 31 else 0)] ++
  reg64 0x1850 m.phyAddr.toNat ++ [(0x1858, m.phySize), (0x185C, m.eventRate 0), (0x1860, m.eventRate 1),
   (0x1864, m.bootStep + (if m.bootLong then 2 ^ 8 else 0) + (if m.bootRecovery then 2 ^ 9 else 0) + 2 ^ 12 * m.imageCheck)] ++
  ((List.range 4).map fun n => (0x1870 + 4 * n, (vget m.scratch n 0).toNat)) ++
  [(0x1C00, s.sec.status), (0x1C04, (if s.sec.scanEnabled then 1 else 0) + 2 * packBits ((List.range 4).map fun p => (s.challenge p).isSome)),
   (0x1E00, s.sec.dbgStatus)] ++
  ((List.range 256).map fun i => (0x2000 + 4 * i, (vget s.hif.msixTable i 0).toNat)) ++ reg64 0x3000 s.hif.pba.toNat

/-- Every register word that Table 18.1 names. -/
def State.regs (s : State) : List (Nat × Nat) :=
  s.regsHost ++ s.regsTime ++ s.regsFrame ++ s.regsSafe ++ s.regsPower ++ s.regsMss

/-- Registers that BOOT shows at their value: PWR_STATE, MSS_BOOT_STEP and the fused identification fields (R432). -/
def bootShown : List Nat := [0x0, 0x8, 0xC, 0x1400, 0x1424, 0x1864, 0x1C00]

/-- The word that a 4-byte read of BAR0 returns (R430, R432); offsets that no register has read zero. -/
def State.regRead (s : State) (off : Nat) : Nat :=
  let from' := fun (s : State) => match s.regs.find? (fun r => r.1 = off) with | some r => r.2 % 2 ^ 32 | none => 0
  if s.pwr.state = .boot && !bootShown.contains off then from' State.reset
  else if s.pwr.state = .recovery && (decide (0xC00 ≤ off ∧ off < 0xC28) || decide (0x1200 ≤ off ∧ off < 0x120C)) then from' State.reset
  else from' s

/-- Reads reach BAR0: the link is up and the part is not PARKED (R432). -/
def State.bar0Reads (s : State) : Bool := s.barOpen && s.pwr.state ≠ .parked

/-- A read of a register with a ROC field: the value goes to the host and the field clears (R11, R12). -/
def State.rocRead (off : Nat) (clear : State → State) (s : State) : State :=
  if !s.bar0Reads then s
  else
    let t := s.post (.readData (leBytes 4 (s.regRead off)))
    if s.pwr.state = .boot then t else clear t

/-- A read of EMT_HOST_DROPS. -/
def doEmtHostDropsRead (s : State) : State := s.rocRead 0xC10 fun s => s.onEmt fun e => { e with dropsReg := 0 }
/-- EMT_HOST_DROPS_READ (R12). -/
def execEmtHostDropsRead (s : State) : Out := .next (doEmtHostDropsRead s)
/-- A read of CKC_COPY_DROPS. -/
def doCkcCopyDropsRead (s : State) : State := s.rocRead 0x1208 fun s => s.onCkc fun c => { c with copyDrops := 0 }
/-- CKC_COPY_DROPS_READ (R12). -/
def execCkcCopyDropsRead (s : State) : Out := .next (doCkcCopyDropsRead s)
/-- A read of DBG_STATUS. -/
def doDbgStatusRead (s : State) : State := s.rocRead 0x1E00 fun s => s.onSec fun x => { x with attempts := 0 }
/-- DBG_STATUS_READ (R12). -/
def execDbgStatusRead (s : State) : Out := .next (doDbgStatusRead s)
/-- A read of PWR_REQ_STATUS. -/
def doPwrReqStatusRead (s : State) : State := s.rocRead 0x141C fun s => s.onPwr fun p => { p with ignored := 0 }
/-- PWR_REQ_STATUS_READ (R12). -/
def execPwrReqStatusRead (s : State) : Out := .next (doPwrReqStatusRead s)

/-! ### The region table -/

/-- The fields of a region entry (Table 18.12), as a region with addresses in bytes. -/
def regionOf (n : Nat) (w : Word) (count : Nat) : Region :=
  { index := n, base := bitsOf w.toNat 10 0 * 2 ^ 26, size := bitsOf w.toNat 21 11 * 2 ^ 26, tag := bitsOf w.toNat 23 22,
    encrypt := w.getLsbD 24, keyCount := count }

/-- The entries of a shadow table. -/
def regionsOf (t : Vector Word 16) : List Region := (List.range 16).map fun n => regionOf n (vget t n 0) 0

/-- The error code of an entry against the entries before it (R144, R440). -/
def regionError (usable : Nat) (before : List Region) (r : Region) : Nat :=
  if r.tag = 0 then (if r.encrypt then 1 else 0)
  else if r.size = 0 then 1
  else if before.any (fun q => q.tag ≠ 0 && decide (q.base < r.base + r.size) && decide (r.base < q.base + q.size)) then 2
  else if usable - 0x8000000 < r.base + r.size then 3
  else 0

/-- The first faulty entry: (entry, code). -/
def firstFault (usable : Nat) (before : List Region) : List Region → Option (Nat × Nat)
  | [] => none
  | r :: rest => if regionError usable before r ≠ 0 then some (r.index, regionError usable before r) else firstFault usable (before ++ [r]) rest

/-- APPLY (R440): the shadow table as it stands is taken; ignored with ERR_CODE 4 while a contract is staged or armed or a
job is open. -/
def doApply (s : State) : State :=
  if !s.bar0Open || s.mss.applyBusy.isSome then s
  else if s.ctr.staged.isSome || s.ctr.armed.isSome || s.cpx.jobOpen then
    (s.onMss fun m => { m with errCode := 4, errEntry := 0 }).note 0x7005 sevWarning noUnit 0 0 0
  else s.onMss fun m => { m with applyBusy := some m.shadow }
/-- APPLY (R440). -/
def execApply (s : State) : Out := .next (doApply s)

/-- The same range, tag and flag (R413). -/
def Region.sameKey (a b : Region) : Bool := a.index = b.index && a.base = b.base && a.size = b.size && a.tag = b.tag && a.encrypt = b.encrypt

/-- The keys of an entry: kept when an earlier apply had it unchanged, else new with this apply (R413). -/
def Mss.keyed (m : Mss) (r : Region) : Region :=
  match m.regions.find? fun q => q.sameKey r with
  | some q => { r with keyCount := q.keyCount }
  | none => { r with keyCount := m.applies + 1 }

/-- The contents of a range that lost its keys or got new ones read as unpredictable data (R413). -/
def Fab.stale (f : Fab) (count : Nat) (r : Region) : Fab :=
  { f with dram := (List.range r.size).foldl (fun d i => memSet d (r.base + i) (Config.staleCipher count (r.base + i))) f.dram }

/-- REGION_APPLY_COMPLETE (R440, R413): the table is replaced as a whole, or kept with the faulty entry named. -/
def doRegionApplyComplete (s : State) : State :=
  match s.mss.applyBusy with
  | none => s
  | some t =>
    if !s.pins.rstN then s else
    let rs := regionsOf t
    match firstFault s.mss.usable [] rs with
    | some (n, c) => s.onMss fun m => { m with applyBusy := none, errCode := c, errEntry := n }
    | none =>
      let new := (rs.filter fun r => r.tag ≠ 0).map s.mss.keyed
      let changed := (s.mss.regions.filter fun q => q.encrypt && !new.any fun r => q.sameKey r) ++
        new.filter fun r => r.encrypt && !s.mss.regions.any fun q => q.sameKey r
      let count := s.mss.applies + 1
      let s := s.onFab fun f => changed.foldl (fun f r => f.stale count r) f
      let s := if new.any fun r => r.encrypt then s.onSec fun x => { x with keyZero := false } else s
      s.onMss fun m => { m with applyBusy := none, errCode := 0, errEntry := 0, regions := new, applies := count }
/-- REGION_APPLY_COMPLETE (R440). -/
def execRegionApplyComplete (s : State) : Out := .next (doRegionApplyComplete s)

/-! ### Settings -/

/-- MSS_SAFE_RESERVE (R441, R148). -/
def doMssSafeReserveWrite (v : Word) (s : State) : State :=
  let r := v.toNat % 128
  if s.bar0Open && decide (60 ≤ r ∧ r ≤ 90 ∧ r % 5 = 0) then
    s.onMss fun m => { m with reserve := r, reserveEff := max r (minReserve m.dataRate) }
  else s
/-- MSS_SAFE_RESERVE_WRITE (R441). -/
def execMssSafeReserveWrite (v : Word) (s : State) : Out := .next (doMssSafeReserveWrite v s)

/-- MSS_THERMAL_CFG (R441). -/
def doMssThermalCfgWrite (v : Word) (s : State) : State :=
  let w := v.toNat % 256
  let t := v.toNat / 256 % 256
  if !s.bar0Open then s
  else if 90 ≤ w ∧ w ≤ 120 ∧ 100 ≤ t ∧ t ≤ 122 ∧ w < t then s.onMss fun m => { m with warn := w, throttle := t, thermalRejected := false }
  else s.onMss fun m => { m with thermalRejected := true }
/-- MSS_THERMAL_CFG_WRITE (R441). -/
def execMssThermalCfgWrite (v : Word) (s : State) : Out := .next (doMssThermalCfgWrite v s)

/-! ### Writing -/

/-- PWR_REQUEST (Table 15.3). -/
def State.writePwrRequest (v : Nat) (s : State) : State :=
  match v % 16 with
  | 0 => doDomainOff (bitsOf v 9 4) s
  | 1 => doDomainOn (bitsOf v 9 4) s
  | 2 => doRateTarget (bitsOf v 26 16) s
  | 3 => doPark s
  | _ => s.pwrRequest fun s => s.pwrEnd stBadParam

/-- A word of the MSI-X table: address and data words, and the mask bit; clearing a mask sends a pending message (R255). -/
def State.writeMsix (i : Nat) (v : Word) (s : State) : State :=
  let v := if i % 4 = 0 then v &&& ~~~3#32 else if i % 4 = 3 then v &&& 1#32 else v
  let s := s.onHif fun h => { h with msixTable := vset h.msixTable i v }
  let k := i / 4
  if i % 4 = 3 && !v.getLsbD 0 && s.hif.pba.getLsbD k then
    (s.onHif fun h => { h with pba := h.pba &&& ~~~(1#64 <<< k) }).message k
  else s

/-- A base or window register is written whole (R431). -/
def State.writeWhole (off : Nat) (v : DWord) (s : State) : State :=
  match off with
  | 0x28 => (doHifBar4WindowWrite v s).onHif fun h => { h with heldWindow := none }
  | 0x30 => if s.hif.adminEnable then s else s.onHif fun h => { h with adminCmdBase := v, heldCmdBase := none }
  | 0x38 => if s.hif.adminEnable then s else s.onHif fun h => { h with adminCplBase := v, heldCplBase := none }
  | 0x1850 => s.onMss fun m => { m with phyAddr := v, heldPhy := none }
  | _ => s

/-- The register's value in force and its held low half. -/
def State.halfOf (s : State) (off : Nat) : DWord × Option Word :=
  match off with
  | 0x28 => (s.hif.bar4Window, s.hif.heldWindow)
  | 0x30 => (s.hif.adminCmdBase, s.hif.heldCmdBase)
  | 0x38 => (s.hif.adminCplBase, s.hif.heldCplBase)
  | _ => (s.mss.phyAddr, s.mss.heldPhy)

/-- A write to the low half is held (R431). -/
def State.holdLow (off : Nat) (v : Word) (s : State) : State :=
  match off with
  | 0x28 => s.onHif fun h => { h with heldWindow := some v }
  | 0x30 => if s.hif.adminEnable then s else s.onHif fun h => { h with heldCmdBase := some v }
  | 0x38 => if s.hif.adminEnable then s else s.onHif fun h => { h with heldCplBase := some v }
  | _ => s.onMss fun m => { m with heldPhy := some v }

/-- A write to the high half takes effect with the held low half, or with the low half in force (R431). -/
def State.writeHigh (off : Nat) (v : Word) (s : State) : State :=
  let (cur, held) := s.halfOf off
  let low := match held with | some w => w.toNat | none => cur.toNat % 2 ^ 32
  s.writeWhole off (BitVec.ofNat 64 (low + 2 ^ 32 * v.toNat))

/-- The 64-bit RW registers. -/
def wideRegs : List Nat := [0x28, 0x30, 0x38, 0x1850]

/-- A 4-byte write to BAR0 outside BOOT (R430, R432). -/
def State.write32 (off : Nat) (v : Word) (s : State) : State :=
  if wideRegs.contains off then s.holdLow off v
  else if wideRegs.contains (off - 4) && decide (4 ≤ off) then s.writeHigh (off - 4) v
  else if 0x1800 ≤ off ∧ off < 0x1840 then s.onMss fun m => { m with shadow := vset m.shadow ((off - 0x1800) / 4) (v &&& 0x1FFFFFF#32) }
  else if 0x2000 ≤ off ∧ off < 0x2400 then s.writeMsix ((off - 0x2000) / 4) v
  else match off with
    | 0x18 => doHifEventWrite v s
    | 0x1C => doHifEventMaskWrite v s
    | 0x40 => if s.hif.adminEnable then s else s.onHif fun h => { h with adminEntries := v }
    | 0x44 => doAdminCtrl v s
    | 0x808 => if v.getLsbD 0 then doTake s else s
    | 0x1418 => s.writePwrRequest v.toNat
    | 0x141C => if v.getLsbD 1 then s.onPwr fun p => { p with done := false } else s
    | 0x1840 => if v.getLsbD 0 then doApply s else s
    | 0x1848 => doMssSafeReserveWrite v s
    | 0x184C => doMssThermalCfgWrite v s
    | 0x1858 => s.onMss fun m => { m with phySize := v.toNat % 65536 }
    | 0x185C => doMssEventRateWrite 0 v s
    | 0x1860 => doMssEventRateWrite 1 v s
    | _ => s

/-- MSS_SCRATCH is written in BOOT too (R432, R442). -/
def State.writeWord (off : Nat) (v : Word) (s : State) : State :=
  if 0x1870 ≤ off ∧ off < 0x1880 then s.onMss fun m => { m with scratch := vset m.scratch ((off - 0x1870) / 4) v }
  else if s.pwr.state = .boot then s
  else s.write32 off v

/-- REGISTER_WRITE (R430-R432): aligned 4-byte and 8-byte writes; an 8-byte write to a 64-bit register is one write, to two
adjacent 32-bit registers two in address order; any other width or alignment is discarded. -/
def doRegisterWrite (off width : Nat) (v : DWord) (s : State) : State :=
  if !s.bar0Reads then s
  else if width = 32 ∧ off % 4 = 0 then s.writeWord off (BitVec.ofNat 32 v.toNat)
  else if width = 64 ∧ off % 8 = 0 then
    if wideRegs.contains off then (if s.pwr.state = .boot then s else s.writeWhole off v)
    else (s.writeWord off (BitVec.ofNat 32 v.toNat)).writeWord (off + 4) (BitVec.ofNat 32 (v.toNat / 2 ^ 32))
  else s
/-- REGISTER_WRITE (R430). -/
def execRegisterWrite (offset width : Nat) (value : DWord) (s : State) : Out := .next (doRegisterWrite offset width value s)

end Sys2Proof.Machine
end

