-- ==== Sys2Proof/Machine/Sequence.lean ====
section
/-! DEFINITION. The 128-bit instructions of a core: fields (Tables 4.7, 4.8), what makes one valid (R90-R94, R97, R102),
scale headers (Table 5.2), the address walk of CONV (R76), and the bytes each instruction reads and writes. -/

namespace Sys2Proof.Machine

/-! ### Fields -/

/-- Bits `[hi:lo]` of an instruction. -/
def fld (w : BitVec 128) (hi lo : Nat) : Nat := bitsOf w.toNat hi lo
/-- CLASS. -/
def seqClass (w : BitVec 128) : Nat := fld w 127 124
/-- SYNC, bit 0 ARR to bit 5 GTH. -/
def seqSync (w : BitVec 128) : Nat := fld w 123 118
/-- The arrays that AMASK selects. -/
def seqArrays (w : BitVec 128) : List Nat := maskBits 4 (fld w 117 114)
/-- The SPA that means none (R90). -/
abbrev spaNone : Nat := 0x3FFFF
/-- The RING field that means none. -/
abbrev ringNone : Nat := 0xFFFFF
/-- A scratchpad byte address from an SPA. -/
def spaByte (a : Nat) : Nat := 64 * a
/-- A field that may name none. -/
def spaOpt (a : Nat) : Option Nat := if a = spaNone then none else some (64 * a)

/-- Packed formats hold two rows per cell (R74). -/
def fmtPacked (c : Nat) : Bool := c = 5 || c = 6 || c = 7 || c = 11 || c = 12
/-- Reduction rows per pass (Table 4.3). -/
def rowsPerPass (c : Nat) : Nat := if fmtPacked c then 256 else 128
/-- Rows of a pass for a pair of formats: the pair runs at the rate of the slower (R74). -/
def pairRows (fa fw : Nat) : Nat := if fmtPacked fa && fmtPacked fw then 256 else 128
/-- Channels of a block of the channel-blocked layout (R76). -/
def blockWidth (c : Nat) : Nat := if fmtBits c ≤ 8 then 32 else 16

/-- A reader of bytes: space, address, length; the little-endian number. -/
abbrev Reader := Space → Nat → Nat → Nat

/-! ### Scale headers -/

/-- A scale header (Table 5.2); its data follows at `addr` + 0x40. -/
structure ScaleHdr where
  block     : Nat
  out       : Nat
  zp        : Int
  padScale  : Nat
  outBlock  : Nat
  inRec     : Nat
  outRec    : Nat
  outScales : Nat
  sp        : Space
  addr      : Nat
  deriving DecidableEq, Repr

/-- No header: no block scales, a zero point of 0, no output scaling. -/
def ScaleHdr.absent : ScaleHdr :=
  { block := 0, out := 0, zp := 0, padScale := 127, outBlock := 0, inRec := 0xFFFFFFFF, outRec := 0xFFFFFFFF,
    outScales := 0, sp := .dram, addr := 0 }

/-- Read a header. -/
def readHdr (rd : Reader) (sp : Space) : Option Nat → ScaleHdr
  | none => ScaleHdr.absent
  | some a =>
    { block := rd sp a 1, out := rd sp (a + 1) 1, zp := sext 16 (rd sp (a + 2) 2), padScale := rd sp (a + 4) 1,
      outBlock := rd sp (a + 5) 1, inRec := rd sp (a + 8) 4, outRec := rd sp (a + 12) 4, outScales := rd sp (a + 16) 4,
      sp := sp, addr := a }

/-- Bytes of one block scale (R105). -/
def ScaleHdr.blkSize (h : ScaleHdr) : Nat := if h.block = 0 then 0 else if h.block = 1 then 1 else 2

/-- Block scale number `i` of a header's data (R103, R105). -/
def blkScale (rd : Reader) (h : ScaleHdr) (i : Nat) : BlkScale :=
  let a := h.addr + 0x40 + i * h.blkSize
  match h.block with
  | 1 => .e8m0 (rd h.sp a 1)
  | 2 => .val (fmtValue 2 (rd h.sp a 2))
  | 3 => .val (fmtValue 1 (rd h.sp a 2))
  | _ => .none

/-- The zero points that R102 allows for a format. -/
def zpAllowed (fmt : Nat) (zp : Int) : Bool :=
  if fmt = 9 ∨ fmt = 10 ∨ fmt = 11 ∨ fmt = 12 then decide ((fmtRange fmt).1 ≤ zp) && decide (zp ≤ (fmtRange fmt).2) else zp = 0

/-- An operand header is allowed for a format (R102-R104): block scales only on the float formats of 8 bits and narrower. -/
def ScaleHdr.operandOk (h : ScaleHdr) (fmt : Nat) : Bool :=
  decide (h.block ≤ 3) && (h.block = 0 || decide (3 ≤ fmt ∧ fmt ≤ 7)) && zpAllowed fmt h.zp && (h.block ≠ 0 || h.padScale = 127)

/-- An OSCALE header is allowed for an output format and COLS (R102, R104, R121). -/
def ScaleHdr.outputOk (h : ScaleHdr) (fmt cols : Nat) : Bool :=
  decide (h.out ≤ 3) && decide (h.outBlock ≤ 1) && zpAllowed fmt h.zp &&
    (h.outBlock = 0 || (decide (3 ≤ fmt ∧ fmt ≤ 7) && decide (cols % 32 = 0)))

/-- Reserved bytes of a header are zero (R104). -/
def hdrReservedOk (rd : Reader) (sp : Space) (a : Nat) : Bool := rd sp (a + 6) 2 = 0 && rd sp (a + 0x14) 44 = 0

/-- Where a scale record lies (R104): the scratchpad of core `c`, or SB. -/
def recPlace (c : Fin 8) (a : Nat) : Space × Nat := if a < 2 ^ 31 then (.spad c, a % 2 ^ 24) else (.sb, a % 2 ^ 27)

/-! ### The address walk of CONV -/

/-- A walk descriptor (Table 4.4). -/
structure Walk where
  base : Nat
  h : Nat
  w : Nat
  cb : Nat
  cw : Nat
  bits : Nat
  oh : Nat
  ow : Nat
  kh : Nat
  kw : Nat
  sh : Nat
  sw : Nat
  dh : Nat
  dw : Nat
  top : Nat
  left : Nat
  mode : Nat
  code : Nat
  tapBase : Nat
  pixBase : Nat
  deriving DecidableEq, Repr

/-- Read a walk descriptor. -/
def readWalk (rd : Reader) (sp : Space) (a : Nat) : Walk :=
  let u := fun (o n : Nat) => rd sp (a + o) n
  { base := u 0 4, h := u 4 2, w := u 6 2, cb := u 8 2, cw := u 0xA 1, bits := u 0xB 1, oh := u 0xC 2, ow := u 0xE 2,
    kh := u 0x10 1, kw := u 0x11 1, sh := u 0x12 1, sw := u 0x13 1, dh := u 0x14 2, dw := u 0x16 2, top := u 0x18 2,
    left := u 0x1A 2, mode := u 0x1C 1, code := u 0x1E 2, tapBase := u 0x20 4, pixBase := u 0x28 8 }

/-- The ranges of Table 4.4, with CW and ELEM_BITS those of the activation format. OH and OW have no range there: a zero is
accepted, and the walk's divisions by it give 0 (DESIGN CHOICE, log 146). -/
def Walk.ok (d : Walk) (fmt : Nat) : Bool :=
  decide (d.base % 64 = 0) && decide (1 ≤ d.h) && decide (1 ≤ d.w) && decide (1 ≤ d.cb ∧ d.cb ≤ 4096) && d.cw = blockWidth fmt &&
  d.bits = fmtBits fmt && decide (1 ≤ d.kh) && decide (1 ≤ d.kw) && decide (1 ≤ d.sh) && decide (1 ≤ d.sw) &&
  decide (1 ≤ d.dh) && decide (1 ≤ d.dw) && decide (d.mode ≤ 3)

/-- The fold of MIRROR padding (R76). -/
def mirrorIdx (i : Int) (n : Nat) : Nat :=
  if n ≤ 1 then 0 else
  let p : Int := 2 * ((n : Int) - 1)
  let j := i % p
  (if j < n then j else p - j).toNat

/-- The clamp of REPEAT_EDGE padding. -/
def clampIdx (i : Int) (n : Nat) : Nat := (max 0 (min ((n : Int) - 1) i)).toNat

/-- What one tap of the walk gives its rows (R76, R77). -/
inductive Tap where
  | skip
  | const
  | fetch (n cb ih iw : Nat)
  deriving DecidableEq, Repr

/-- A tap position under a padding mode (R76, R166). -/
def padTap (mode : Nat) (h w n cb : Nat) (ih iw : Int) : Tap :=
  if 0 ≤ ih ∧ ih < h ∧ 0 ≤ iw ∧ iw < w then .fetch n cb ih.toNat iw.toNat
  else match mode with
    | 1 => .const
    | 2 => .fetch n cb (mirrorIdx ih h) (mirrorIdx iw w)
    | 3 => .fetch n cb (clampIdx ih h) (clampIdx iw w)
    | _ => .skip

/-- Tap `t` of output pixel `p` (R76). -/
def Walk.tap (d : Walk) (p t : Nat) : Tap :=
  if d.kh * d.kw * d.cb ≤ t then .skip
  else
    let n := p / (d.oh * d.ow)
    let oh := p / d.ow % d.oh
    let ow := p % d.ow
    let ih : Int := (oh * d.sh + t / (d.kw * d.cb) * d.dh : Nat) - (d.top : Int)
    let iw : Int := (ow * d.sw + t / d.cb % d.kw * d.dw : Nat) - (d.left : Int)
    padTap d.mode d.h d.w n (t % d.cb) ih iw

/-- The position number of a fetched block: ((n x CB + cb) x H + ih) x W + iw. -/
def Walk.pos (d : Walk) (n cb ih iw : Nat) : Nat := ((n * d.cb + cb) * d.h + ih) * d.w + iw
/-- Bytes of one channel block. -/
def Walk.blkBytes (d : Walk) : Nat := d.cw * d.bits / 8

/-! ### Valid instructions -/

/-- VOP codes of Table 4.11 (R92). -/
def vopKnown (op : Nat) : Bool :=
  decide (op ≤ 9) || decide (0x10 ≤ op ∧ op ≤ 0x15) || op = 0x20 || decide (0x30 ≤ op ∧ op ≤ 0x32) || decide (0x40 ≤ op ∧ op ≤ 0x4B) ||
    decide (0x50 ≤ op ∧ op ≤ 0x54)
/-- The operation reads SRCB. -/
def vopUsesB (op : Nat) : Bool :=
  decide (op ≤ 5) || decide (0x10 ≤ op ∧ op ≤ 0x15) || decide (0x30 ≤ op ∧ op ≤ 0x32)
/-- The operation reads DST as its third operand. -/
def vopUsesD (op : Nat) : Bool := op = 3 || op = 0x13 || op = 0x32
/-- The operation writes INT32 whatever FMT says (R92). -/
def vopInt (op : Nat) : Bool := decide (0x10 ≤ op ∧ op ≤ 0x12) || decide (0x30 ≤ op ∧ op ≤ 0x32) || op = 0x53 || op = 0x54
/-- Reductions. -/
def vopReduces (op : Nat) : Bool := decide (0x50 ≤ op)

/-- PIECE is one that the format splits into (R106, R107; DEDUCED, log 94: an INT16 or FP32 operand is always split). -/
def pieceOk (fmt piece : Nat) : Bool :=
  if fmt = 0 then decide (1 ≤ piece) else if fmt = 8 then piece = 1 || piece = 3
  else if fmtIsInt fmt then piece ≠ 2 else true

/-- A valid instruction (R90-R94, R123, R133): defined class, reserved bits zero, fields in range, SB ranges inside one segment.
`qm` says that a command's stream holds it; such a DMA names no ring, since no contract gives its command one (DESIGN CHOICE,
log 147). -/
def seqOk (qm : Bool) (w : BitVec 128) : Bool :=
  let zero := fun (hi lo : Nat) => decide (fld w hi lo = 0)
  let noMask := zero 117 114
  let sbFar := fld w 95 92 ≠ 0 || fld w 39 20 ≠ ringNone || sbRange (fld w 91 40) (64 * fld w 19 0)
  match seqClass w with
  | 0x0 => noMask && zero 113 0
  | 0x1 =>
    let fmt := fld w 77 74
    zero 53 0 && decide (fmt ≤ 12) && decide (fld w 72 64 ≤ rowsPerPass fmt) && decide (1 ≤ fld w 63 56 ∧ fld w 63 56 ≤ 128) &&
      pieceOk fmt (fld w 55 54)
  | 0x2 => zero 25 0 && decide (fld w 77 74 ≤ 12) && pieceOk (fld w 77 74) (fld w 37 36) && decide (1 ≤ fld w 35 26)
  | 0x3 => zero 14 0 && decide (fld w 39 36 ≤ 12) && pieceOk (fld w 39 36) (fld w 16 15)
  | 0x4 => zero 3 0 && decide (fld w 77 74 ≤ 13) && decide (fld w 71 70 ≤ 2) && decide (fld w 32 31 ≤ 2)
  | 0x5 =>
    let op := fld w 113 106
    noMask && zero 33 32 && vopKnown op && decide (1 ≤ fld w 51 40) && decide (fld w 39 36 ≤ 14) && decide (fld w 35 34 ≤ 2) &&
      (vopUsesB op || fld w 87 70 = spaNone) && (!decide (0x30 ≤ op ∧ op ≤ 0x32) || fld w 39 36 = 9 || fld w 39 36 = 10) &&
      (op ≠ 0x20 || decide (fld w 3 0 ≤ 14))
  | 0x6 => noMask && zero 39 0 && decide (1 ≤ fld w 77 60)
  | 0x7 => noMask && decide (fld w 95 92 ≤ 1) && (!qm || fld w 39 20 = ringNone) && sbFar
  | 0x8 =>
    let tg := fld w 95 92
    noMask && decide (tg ≤ 2 ∨ (tg = 3 ∧ qm = true)) && (!qm || fld w 39 20 = ringNone) && sbFar &&
      (tg ≠ 2 || (zero 90 64 && (fld w 39 20 ≠ ringNone || decide (fld w 63 40 % 32 = 0)))) &&
      (qm || tg ≠ 2 || fld w 39 20 ≠ ringNone) && (qm || !(tg = 1 && fld w 113 96 = spaNone && fld w 39 20 = ringNone))
  | 0x9 => noMask && zero 4 0 && decide (1 ≤ fld w 91 76) && decide (1 ≤ fld w 75 64) && (fld w 5 5 = 1 || sbRange (fld w 63 24) 1)
  | 0xA => noMask && zero 61 0 && decide (1 ≤ fld w 97 82) && (!qm || (zero 81 62 && decide (0x1000 ≤ fld w 113 98)))
  | 0xB => noMask && zero 81 0 && decide (1 ≤ fld w 97 82) && (!qm || decide (0x1000 ≤ fld w 113 98))
  | 0xC => noMask && zero 113 0
  | 0xD => noMask && zero 75 0 && !qm
  | 0xE => noMask && zero 113 0 && !qm
  | _ => false

/-! ### Bytes an instruction reads and writes -/

/-- One access: write or read, where, and how many bytes. -/
structure Acc where
  wr   : Bool
  sp   : Space
  addr : Nat
  len  : Nat
  deriving DecidableEq, Repr

/-- Two accesses share a byte. -/
def Acc.overlaps (a b : Acc) : Bool :=
  decide (a.sp = b.sp) && decide (a.addr < b.addr + b.len) && decide (b.addr < a.addr + a.len)

/-- The accesses of LOADW (R72, R105). -/
def loadwAcc (rd : Reader) (c : Fin 8) (w : BitVec 128) : List Acc :=
  let sp := Space.spad c
  let fmt := fld w 77 74
  let pitch := fmtBytes fmt 128
  let h := readHdr rd sp (spaOpt (fld w 95 78))
  let scales := if h.block = 0 then [] else [{ wr := false, sp := sp, addr := h.addr + 0x40, len := rowsPerPass fmt / 32 * 128 * h.blkSize }]
  ((List.range (fld w 72 64)).map fun k => { wr := false, sp := sp, addr := spaByte (fld w 113 96) + k * pitch, len := fmtBytes fmt (fld w 63 56) }) ++
    (match spaOpt (fld w 95 78) with | some a => [{ wr := false, sp := sp, addr := a, len := 64 }] | none => []) ++ scales

/-- Where a drain writes output vector `m` of array `a` (Table 4.8). -/
def DrainCfg.place (d : DrainCfg) (a m : Nat) : Nat := spaByte (d.dst + a * d.dstride + m * d.ostride)

/-- Bytes that a drain writes for one vector of `cols` lanes: partials take four bytes a lane. -/
def DrainCfg.bytes (d : DrainCfg) (cols : Nat) : Nat := if d.last then fmtBytes d.outFmt cols else 4 * cols

/-- The tile in a buffer of an array. -/
def Core.tile (k : Core) (a buf : Nat) : WeightTile := vget k.weights (2 * a + buf) WeightTile.empty

/-- The accesses of a drain for `m` vectors of the arrays. -/
def drainAcc (rd : Reader) (c : Fin 8) (k : Core) (arrays : List Nat) (buf vecs : Nat) : List Acc :=
  let sp := Space.spad c
  (arrays.zipIdx).flatMap fun (a, r) =>
    match vget k.drainCfg a none with
    | none => []
    | some d =>
      let cols := (k.tile a buf).cols.length
      let h := readHdr rd sp (spaOpt d.oscale)
      let n := d.bytes cols
      let data := (List.range vecs).flatMap fun m =>
        (if d.acc then [{ wr := false, sp := sp, addr := d.place a m, len := 4 * cols }] else []) ++
          [{ wr := true, sp := sp, addr := d.place a m, len := n }]
      let post :=
        if !d.last then [] else
        (if d.oscale = spaNone then [] else [{ wr := false, sp := sp, addr := h.addr, len := 64 }]) ++
        (match h.out with
          | 1 => [{ wr := false, sp := sp, addr := h.addr + 0x40, len := 4 * cols }]
          | 2 => [{ wr := false, sp := sp, addr := h.addr + 0x40 + 4 * (a * vecs), len := 4 * vecs }]
          | 3 => [{ wr := false, sp := sp, addr := h.addr + 0x40, len := 4 }]
          | _ => []) ++
        (match spaOpt d.bias with
          | some b => [{ wr := false, sp := sp, addr := b, len := 4 * cols + (if d.act = 2 then 8 else 0) }]
          | none => []) ++
        (if h.outBlock = 1 then [{ wr := true, sp := sp, addr := spaByte h.outScales + 4 * (r * vecs), len := 4 * vecs }] else []) ++
        (if h.inRec = 0xFFFFFFFF then [] else [{ wr := false, sp := (recPlace c h.inRec).1, addr := (recPlace c h.inRec).2, len := 64 }]) ++
        (if h.outRec = 0xFFFFFFFF then [] else [{ wr := true, sp := (recPlace c h.outRec).1, addr := (recPlace c h.outRec).2, len := 64 }])
      data ++ post

/-- The bytes that MMA streams (R71, R105). -/
def mmaFeed (rd : Reader) (c : Fin 8) (k : Core) (w : BitVec 128) : List Acc :=
  let sp := Space.spad c
  let fmt := fld w 77 74
  let vecs := fld w 71 56
  let h := readHdr rd sp (spaOpt (fld w 55 38))
  (match spaOpt (fld w 55 38) with | some a => [{ wr := false, sp := sp, addr := a, len := 64 }] | none => []) ++
  (seqArrays w).flatMap fun a =>
    let rows := pairRows fmt (k.tile a (fld w 73 73)).fmt
    let blocks := rows / 32
    ((List.range vecs).map fun m =>
      { wr := false, sp := sp, addr := spaByte (fld w 113 96 + a * fld w 95 78 + m * fld w 35 26), len := fmtBytes fmt rows }) ++
    (if h.block = 0 then [] else [{ wr := false, sp := sp, addr := h.addr + 0x40 + a * vecs * blocks * h.blkSize, len := vecs * blocks * h.blkSize }])

/-- The taps of vector `m` of array `a` of a CONV, by segment position. -/
def convTaps (d : Walk) (w : BitVec 128) (rows a m : Nat) : List Tap :=
  let p := d.pixBase + fld w 95 72 + a * fld w 71 56 + m
  (List.range (rows / d.cw)).map fun g => d.tap p (d.tapBase + fld w 55 40 + g)

/-- The bytes that CONV fetches (R76, R105). -/
def convFeed (rd : Reader) (c : Fin 8) (k : Core) (w : BitVec 128) : List Acc :=
  let sp := Space.spad c
  let d := readWalk rd sp (spaByte (fld w 113 96))
  let h := readHdr rd sp (spaOpt (fld w 34 17))
  let one := fun (t : Tap) => match t with
    | .fetch n cb ih iw =>
      { wr := false, sp := sp, addr := d.base + d.pos n cb ih iw * d.blkBytes, len := d.blkBytes } ::
        (if h.block = 0 then [] else [{ wr := false, sp := sp, addr := h.addr + 0x40 + d.pos n cb ih iw * h.blkSize, len := h.blkSize }])
    | _ => []
  { wr := false, sp := sp, addr := spaByte (fld w 113 96), len := 64 } ::
  ((match spaOpt (fld w 34 17) with | some a => [{ wr := false, sp := sp, addr := a, len := 64 }] | none => []) ++
  ((seqArrays w).flatMap fun a => (List.range (fld w 71 56)).flatMap fun m => (convTaps d w (pairRows (fld w 39 36) (k.tile a (fld w 35 35)).fmt) a m).flatMap one))

/-- Elements that a VOP reads and writes at one source or destination. -/
def vopElems (w : BitVec 128) : Nat := 256 * fld w 51 40

/-- The accesses of VOP (R92). -/
def vopAcc (c : Fin 8) (w : BitVec 128) : List Acc :=
  let sp := Space.spad c
  let op := fld w 113 106
  let fmt := fld w 39 36
  let n := vopElems w
  let rdAcc := fun (a len : Nat) => ({ wr := false, sp := sp, addr := spaByte a, len := len } : Acc)
  let outLen := if vopReduces op then (if vopInt op || op = 0x50 then 4 else fmtBytes fmt 1)
    else if vopInt op then 4 * n else if op = 0x20 then fmtBytes (fld w 3 0) n else fmtBytes fmt n
  let a := [rdAcc (fld w 105 88) (fmtBytes fmt n)]
  let b := if op = 0x14 then [rdAcc (fld w 87 70) 8] else if vopUsesB op then [rdAcc (fld w 87 70) (fmtBytes fmt n)] else []
  let dd := if vopUsesD op then [rdAcc (fld w 69 52) (if op = 3 then fmtBytes fmt n else 4 * n)] else []
  a ++ b ++ dd ++ [{ wr := true, sp := sp, addr := spaByte (fld w 69 52), len := outLen }]

/-- The neighbour that a Pleach link leads to (R89). -/
def pleachTo (c : Fin 8) (link : Nat) : Fin 8 := ⟨if link = 0 then (c.val + 1) % 8 else (c.val + 7) % 8, by split <;> omega⟩

/-- A byte run: where it starts and how many bytes it has. -/
abbrev Piece := Space × Nat × Nat

/-- The runs that hold bytes 0 to n-1 of something whose byte `i` lies at `place i` (R467: a ring wraps at its end). -/
def pieces (place : Nat → Option (Space × Nat)) (n : Nat) : List Piece :=
  ((List.range n).foldl (fun (acc : List Piece) i =>
    match place i, acc with
    | some (sp, a), (sp', a', l) :: r => if sp = sp' ∧ a = a' + l then (sp', a', l + 1) :: r else (sp, a, 1) :: (sp', a', l) :: r
    | some (sp, a), [] => [(sp, a, 1)]
    | none, acc => acc) []).reverse

/-- Where a byte of a ring reference lies: for a write or a read, the ring's position and the ring-relative offset (R467). -/
abbrev RingAt := Bool → Nat → Nat → Option (Space × Nat)

/-- The far end of a DMA (R91): its own REMOTE field, or the bytes that its ring reference reaches. -/
def dmaRemote (c : Fin 8) (ringAt : RingAt) (w : BitVec 128) : List Piece :=
  let n := 64 * fld w 19 0
  let remote := fld w 91 40
  let ring := fld w 39 20
  let wr := decide (seqClass w = 8)
  match fld w 95 92 with
  | 0 => if ring = ringNone then [(.sb, remote, n)] else pieces (fun i => ringAt wr ring (remote + i)) n
  | 1 => if ring = ringNone then [(.dram, remote, n)] else pieces (fun i => ringAt wr ring (remote + i)) n
  | 2 => if ring = ringNone then [(.spad (pleachTo c (fld w 91 91)), remote % 2 ^ 24, n)] else pieces (fun i => ringAt wr ring (remote % 2 ^ 24 + i)) n
  | _ => []

/-- The accesses of a DMA. -/
def dmaAcc (c : Fin 8) (ringAt : RingAt) (w : BitVec 128) : List Acc :=
  let out := decide (seqClass w = 8)
  { wr := !out, sp := .spad c, addr := spaByte (fld w 113 96), len := 64 * fld w 19 0 } ::
    (dmaRemote c ringAt w).map fun p => { wr := out, sp := p.1, addr := p.2.1, len := p.2.2 }

/-- A gather as GATHER or a descriptor states it (R151-R154). -/
structure Gather where
  indexSp : Space
  index   : Nat
  count   : Nat
  elem    : Nat
  tableSp : Space
  table   : Nat
  dstSp   : Space
  dst     : Nat
  deriving DecidableEq, Repr

/-- The gather of a GATHER instruction. -/
def seqGather (c : Fin 8) (w : BitVec 128) : Gather :=
  { indexSp := .spad c, index := spaByte (fld w 109 92), count := fld w 91 76, elem := fld w 75 64,
    tableSp := if fld w 5 5 = 0 then .sb else .dram, table := fld w 63 24, dstSp := .spad c, dst := spaByte (fld w 23 6) }

/-- Row stride of a gather (R152). -/
def Gather.stride (g : Gather) : Nat := 64 * cdiv g.elem 64
/-- Bytes of the index entries by IDX_FMT (Table 6.6). -/
def idxBytes (f : Nat) : Nat := if f = 0 then 4 else 2

/-- The accesses of a gather: the table rows that any index may name. -/
def Gather.acc (rd : Reader) (g : Gather) : List Acc :=
  let rows := rd g.indexSp g.index 4
  [{ wr := false, sp := g.indexSp, addr := g.index, len := 64 + g.count * idxBytes (rd g.indexSp (g.index + 4) 1) },
   { wr := false, sp := g.tableSp, addr := g.table, len := rows * g.stride },
   { wr := true, sp := g.dstSp, addr := g.dst, len := g.count * g.stride }]

/-- Bytes of a segment's code in a row, up to and with its first zero halfword (no RISC-V instruction) and at most as many
instructions as it has units, each of which costs one or more (DEDUCED, log 154). -/
def codeBytes (rd : Reader) (sp : Space) : Nat → Nat → Nat
  | 0, _ => 0
  | fuel + 1, a =>
    let h := rd sp a 2
    if h = 0 then 4 else if h % 4 = 3 then 4 + codeBytes rd sp fuel (a + 4) else 2 + codeBytes rd sp fuel (a + 2)

/-- The accesses of SCALAR: its window (R53) and the code that it fetches (R86). -/
def scalarAcc (rd : Reader) (c : Fin 8) (w : BitVec 128) : List Acc :=
  let win := fun (wr : Bool) => ({ wr := wr, sp := .spad c, addr := spaByte (fld w 95 78), len := 64 * fld w 77 60 } : Acc)
  [win false, win true, { wr := false, sp := .spad c, addr := spaByte (fld w 113 96), len := codeBytes rd (.spad c) (fld w 59 40) (spaByte (fld w 113 96)) }]

/-- The accesses of one instruction; for MMA and CONV with those of their drains (R94). -/
def seqAcc (rd : Reader) (c : Fin 8) (k : Core) (ringAt : RingAt) (w : BitVec 128) : List Acc :=
  match seqClass w with
  | 0x1 => loadwAcc rd c w
  | 0x2 => mmaFeed rd c k w ++ drainAcc rd c k (seqArrays w) (fld w 73 73) (fld w 71 56)
  | 0x3 => convFeed rd c k w ++ drainAcc rd c k (seqArrays w) (fld w 35 35) (fld w 71 56)
  | 0x5 => vopAcc c w
  | 0x6 => scalarAcc rd c w
  | 0x7 => dmaAcc c ringAt w
  | 0x8 => dmaAcc c ringAt w
  | 0x9 => (seqGather c w).acc rd
  | 0xD => [{ wr := false, sp := .spad c, addr := spaByte (fld w 113 96), len := 64 * fld w 95 76 }]
  | _ => []

end Sys2Proof.Machine
end

