-- ==== Sys2Proof/Machine/Array.lean ====
section
/-! DEFINITION. The arrays: weight tiles (R72, R74), activation vectors of MMA and CONV (R73, R76, R77), the columns (R71,
R108), the checksum compare (R80-R82), and the drain (R79, R109, R110, R115, R117, R121). -/

namespace Sys2Proof.Machine

/-- A run's bytes as a reader. -/
def Cx.rd (x : Cx) : Reader := fun sp a n => x.le sp a n

/-- Checked read of byte runs. -/
def Cx.readP (u : UnitId) (ps : List Piece) (x : Cx) : List Byte × Cx :=
  ps.foldl (fun r p => let q := r.2.read u p.1 p.2.1 p.2.2; (r.1 ++ q.1, q.2)) ([], x)

/-- Checked provisional write over byte runs. -/
def Cx.writeP (u : UnitId) (ps : List Piece) (bs : List Byte) (x : Cx) : Cx :=
  (ps.foldl (fun (r : List Byte × Cx) p => (r.1.drop p.2.2, r.2.write u p.1 p.2.1 (r.1.take p.2.2))) (bs, x)).2

/-! ### Operands -/

/-- The leading 8 significant bits of a finite value (R107). -/
def trunc8 : Fp → Fp
  | .fin n m e => if m = 0 then .fin n m e else .fin n (m / 2 ^ (m.log2 - 7)) (e + (m.log2 - 7 : Nat))
  | y => y

/-- A piece below 2^-126 becomes signed zero (R107). -/
def flushPiece : Fp → Fp
  | .fin n m e => if m = 0 ∨ (m.log2 : Int) + e < -126 then Fp.zero n else .fin n m e
  | y => y

/-- The piece of an operand (R106, R107). A non-finite value lies whole in its first piece, so that the pieces sum to it. -/
def operandPiece (isInt : Bool) (piece : Nat) (v : Fp) : Fp :=
  if piece = 0 then v
  else if isInt then
    let i := v.toInt .rtz
    Fp.ofInt (if piece = 1 then i / 256 else i % 256)
  else
    let hi := trunc8 v
    let mid := trunc8 (v.sub hi)
    match piece with
    | 1 => flushPiece hi
    | 2 => if v.isFin then flushPiece mid else Fp.zero false
    | _ => if v.isFin then flushPiece ((v.sub hi).sub mid) else Fp.zero false

/-- An operand as a cell holds it (R101, R106, R107). -/
def operand (fmt code piece : Nat) (zp : Int) (blk : BlkScale) : Fp :=
  operandPiece (fmtIsInt fmt) piece (if fmt = 0 ∨ fmt = 8 then fmtValue fmt code else x19 fmt code zp blk)

/-! ### Weights -/

/-- The weights that LOADW loads: a list of columns of `rows` values. -/
def weightCols (rd : Reader) (c : Fin 8) (w : BitVec 128) : List (List Word) :=
  let sp := Space.spad c
  let fmt := fld w 77 74
  let rows := fld w 72 64
  let cols := fld w 63 56
  let h := readHdr rd sp (spaOpt (fld w 95 78))
  let pitch := fmtBytes fmt 128
  (List.range cols).map fun n => (List.range rows).map fun k =>
    let v := rd sp (spaByte (fld w 113 96) + k * pitch) (fmtBytes fmt cols)
    let blk := if h.block = 0 then BlkScale.none else blkScale rd h ((k / 32) * 128 + n)
    BitVec.ofNat 32 (operand fmt (packedAt fmt v n) (fld w 55 54) h.zp blk).code32

/-- The tile that LOADW leaves in a buffer (R72). -/
def weightTile (rd : Reader) (c : Fin 8) (w : BitVec 128) : WeightTile :=
  { filled := true, fmt := fld w 77 74, piece := fld w 55 54, rows := fld w 72 64, cols := weightCols rd c w }

/-- Column `n` of a tile over the rows of a pass: rows at or above ROWS hold zero weights (R72). -/
def WeightTile.col (t : WeightTile) (rows n : Nat) : List Fp :=
  let l := ((t.cols.getD n []).take rows).map fun w => f32 w.toNat
  l ++ List.replicate (rows - l.length) (Fp.zero false)

/-! ### Columns -/

/-- The exact product of two operands; a product that overflows FP32 is an infinity (R108). -/
def cellProduct (a w : Fp) : Fp :=
  match a.mul w with
  | .fin n m e => if m ≠ 0 ∧ 128 ≤ (m.log2 : Int) + e then .inf n else .fin n m e
  | p => p

/-- The products of one cell for its one or two rows; none when every row is skipped (R71, R108). -/
def cellTerm : List (Option Fp × Fp) → Option Fp
  | [] => none
  | (none, _) :: r => cellTerm r
  | (some a, w) :: r => match cellTerm r with
    | none => some (cellProduct a w)
    | some p => some ((cellProduct a w).add p)

/-- The rows that share a cell: k, and k + 128 in the packed formats (R74). -/
def cellRows (packed : Bool) (vec : List (Option Fp)) (col : List Fp) : List (List (Option Fp × Fp)) :=
  if packed then ((vec.take 128).zip (col.take 128)).zipWith (fun a b => [a, b]) ((vec.drop 128).zip (col.drop 128))
  else (vec.zip col).map fun p => [p]

/-- One column: +0 enters at the top and each cell adds its term with one rounding (R71). -/
def columnSum (packed : Bool) (vec : List (Option Fp)) (col : List Fp) : Fp :=
  (cellRows packed vec col).foldl (fun s r => match cellTerm r with | some p => cellRound (s.add p) | none => s) (Fp.zero false)

/-! ### The checksum compare -/

/-- The row sums R_k or, of magnitudes, A_k: rounded to FP32 in float mode (R80, R81). -/
def rowSums (isInt mag : Bool) (rows : Nat) (t : WeightTile) : List Fp :=
  let cols := (List.range t.cols.length).map fun n => t.col rows n
  (List.range rows).map fun k =>
    let s := cols.foldl (fun s c => s.add (if mag then (c.getD k (Fp.zero false)).abs else c.getD k (Fp.zero false))) (Fp.zero false)
    if isInt then s else s.r32

/-- The outcome of the compare of R80 and R81. -/
inductive Compare where
  | pass
  | skipped
  | fail (detail : Nat)
  deriving DecidableEq, Repr

/-- The compare of one output vector (R80, R81). -/
def checksum (isInt : Bool) (rows : Nat) (t : WeightTile) (vec : List (Option Fp)) (outs : List Fp) : Compare :=
  if isInt then
    let c := ((cellRows false vec (rowSums true false rows t)).filterMap cellTerm).foldl Fp.add (Fp.zero false)
    let s := outs.foldl Fp.add (Fp.zero false)
    if c.eq s then .pass else .fail (c.sub s).abs.code32
  else
    let c := columnSum (rows = 256) vec (rowSums false false rows t)
    let m := columnSum (rows = 256) (vec.map fun a => a.map Fp.abs) (rowSums false true rows t)
    let s := outs.foldl fadd (Fp.zero false)
    if !m.isFin then .skipped
    else if !(c.isFin && s.isFin && outs.all Fp.isFin) then .fail 0xFFFFFFFF
    else if ((m.mul (Fp.pow2 (-14))).add (Fp.pow2 (-110))).lt (c.sub s).abs then .fail (c.sub s).abs.code32
    else .pass

/-! ### The drain's conversion -/

/-- The larger of two amax values under the rule of R115: NaN wins, then infinity. -/
def amax2 (a b : Fp) : Fp := if a.isNan || b.isNan then .nan else if a.lt b then b else a
/-- The amax of values (R115). -/
def amaxOf (l : List Fp) : Fp := l.foldl (fun m y => amax2 m y.abs) (Fp.zero false)

/-- The exponent that R116 subtracts for an E8M0 scale of a target format. -/
def e8m0Exp (fmt : Nat) : Int := match fmt with | 3 => 8 | 4 => 15 | 5 => 4 | _ => 2
/-- The E8M0 code that R116 derives from a block's amax. -/
def e8m0Of (fmt : Nat) (a : Fp) : Nat :=
  if !a.isFin then 0xFF else if a.isZero then 127 else (max 0 (min 254 (a.log2 - e8m0Exp fmt + 127))).toNat
/-- The symmetric scale of R116: amax x 2^MARGIN / F; 1.0 for a zero range, nothing for a non-finite one. -/
def symScale (fmt margin : Nat) (a : Fp) : Option Fp :=
  if !a.isFin then none else if a.isZero then some (Fp.ofNat 1) else some (fdiv (a.mul (Fp.pow2 margin)).r32 (fmtMax fmt).r32)

/-- The counts of R115 for converted elements. -/
structure Counts where
  amax     : Fp
  sats     : Nat
  unders   : Nat
  nonZeros : Nat
  elements : Nat
  deriving DecidableEq, Repr

/-- No element. -/
def Counts.zero : Counts := { amax := Fp.zero false, sats := 0, unders := 0, nonZeros := 0, elements := 0 }
/-- Counts added. -/
def Counts.add (a b : Counts) : Counts :=
  { amax := amax2 a.amax b.amax, sats := a.sats + b.sats, unders := a.unders + b.unders, nonZeros := a.nonZeros + b.nonZeros,
    elements := a.elements + b.elements }

/-- The value handed to a converter has a rounded magnitude beyond the target's largest finite value (R113, R115). -/
def overflows (fmt : Nat) (md : Rnd) (zp : Int) (z : Fp) : Bool :=
  match z with
  | .fin n m e =>
    if fmtIsFloat fmt then (fmtMax fmt).lt (match roundFin fmt md n m e with | .fin _ m e => .fin false m e | y => y)
    else if fmt = 14 then (fmtMax 14).lt z.abs
    else
      let v := z.toInt (match md with | .rtz => .rtz | _ => .rne) + zp
      decide (v < (fmtRange fmt).1) || decide ((fmtRange fmt).2 < v)
  | .inf _ => true
  | .nan => false

/-- A code stands for zero: either signed zero, or the zero point (R115). -/
def zeroCode (fmt code : Nat) (zp : Int) : Bool :=
  if fmtIsFloat fmt then code % 2 ^ (fmtBits fmt - 1) = 0 else code = codeOf (fmtBits fmt) zp

/-- The counts of one element: `y` before quantisation, `z` the value converted, `code` its code. -/
def countsOf (fmt : Nat) (md : Rnd) (zp : Int) (y z : Fp) (code : Nat) : Counts :=
  let live := y.isFin && !y.isZero
  { amax := y.abs, sats := if y.isFin && overflows fmt md zp z then 1 else 0,
    unders := if live && zeroCode fmt code zp then 1 else 0, nonZeros := if live then 1 else 0, elements := 1 }

/-- ROUND as a mode, with the word of R112 for stochastic rounding; an integer target takes RNE then (R111). -/
def rndMode (round fmt : Nat) (ident seed elem : Nat) : Rnd :=
  match round with
  | 1 => .rtz
  | 2 => if fmtIsFloat fmt then .stoch (stochWord ident seed elem) else .rne
  | _ => .rne

/-! ### Scale records within a run -/

/-- Q_NEXT of a record as this run uses it (R110, R118, R119): read at the first drain that names the record, or q_retry. -/
def Cx.qNext (sp : Space) (a : Nat) (x : Cx) : Fp × Cx :=
  match x.run.recs.find? fun r => r.space = sp && r.addr = a with
  | some r => (f32 r.qNext.toNat, x)
  | none =>
    let q := match x.run.qRetry.find? fun r => r.1 = sp && r.2.1 = a with
      | some r => r.2.2
      | none => BitVec.ofNat 32 (x.le sp (a + 4) 4)
    let r : RecTotals := { space := sp, addr := a, qNext := q, used := false, amax := 0, sats := 0, unders := 0, nonZeros := 0, elements := 0,
                           retryable := true }
    (f32 q.toNat, { x with run := { x.run with recs := x.run.recs ++ [r] } })

/-- A drain names a record (R117-R119): it joins the run's, quantised with if the drain converts through it, and is not retried
if the drain uses OUT_BLOCK. Answers its Q_NEXT. -/
def Cx.nameRec (quant blockOut : Bool) (p : Space × Nat) (x : Cx) : Fp × Cx :=
  let (q, x) := x.qNext p.1 p.2
  (q, { x with run := { x.run with recs := x.run.recs.map fun r =>
    if r.space = p.1 ∧ r.addr = p.2 then { r with used := r.used || quant, retryable := r.retryable && !blockOut } else r } })

/-- Report counts to QOE: into the record's totals, and into the commit unit's (R115). -/
def Cx.report (place : Option (Space × Nat)) (n : Counts) (x : Cx) : Cx :=
  let run := { x.run with totSats := x.run.totSats + n.sats, totUnders := x.run.totUnders + n.unders }
  let recs := match place with
    | none => run.recs
    | some p => run.recs.map fun r =>
      if r.space = p.1 ∧ r.addr = p.2 then
        { r with amax := BitVec.ofNat 32 (amax2 (f32 r.amax.toNat) n.amax).code32, sats := r.sats + n.sats, unders := r.unders + n.unders,
                 nonZeros := r.nonZeros + n.nonZeros, elements := r.elements + n.elements }
      else r
  { x with run := { run with recs := recs } }

/-! ### Finishing values (R110) -/

/-- What step 3 to 5 of R110 need: the output format, the rounding, and the header. -/
structure Finish where
  fmt    : Nat
  round  : Nat
  nonsat : Bool
  seed   : Nat
  hdr    : ScaleHdr
  recAt  : Option (Space × Nat)
  deriving DecidableEq, Repr

/-- The output neither scales nor quantises: FP32 or INT32 without OUT scaling (R110). -/
def Finish.plain (f : Finish) : Bool := (f.fmt = 0 || f.fmt = 13) && f.hdr.out = 0

/-- The finish names its record. -/
def Cx.nameOut (quant : Bool) (f : Finish) (x : Cx) : Option Fp × Cx :=
  match f.recAt with
  | some p => let (q, x) := x.nameRec quant (f.hdr.outBlock = 1) p; (some q, x)
  | none => (none, x)

/-- Steps 3 to 5 of R110 on one vector of pre-quantisation values: codes, block-scale codes and counts. `elem` gives an
element's index of R112. -/
def Cx.quantise (f : Finish) (ident : Nat) (elem : Nat → Nat) (ys : List Fp) (x : Cx) : List Nat × List Nat × Counts × Cx :=
  let (q, x) := x.nameOut (!f.plain) f
  let q := if f.plain then none else q.map (fdiv (Fp.ofNat 1))
  let block := f.hdr.outBlock = 1 && !f.plain
  let groups := if block then (List.range (cdiv ys.length 32)).map fun g => e8m0Of f.fmt (amaxOf ((ys.drop (32 * g)).take 32)) else []
  let step := fun (y : Fp) (i : Nat) =>
    let z := match q with | some q => fmul y.r32 q | none => y
    let z := if block then
        let c := groups.getD (i / 32) 127
        if c = 255 then .nan else z.mul (Fp.pow2 (127 - (c : Int)))
      else z
    let md := rndMode f.round f.fmt ident f.seed (elem i)
    let code := fmtCode f.fmt md f.nonsat f.hdr.zp z
    (code, countsOf f.fmt md f.hdr.zp y z code)
  let out := (ys.zipIdx).map fun p => step p.1 p.2
  (out.map fun p => p.1, groups, out.foldl (fun n p => n.add p.2) Counts.zero, x)

/-- ReLU; a NaN stays a NaN. -/
def relu (y : Fp) : Fp := if y.isNan then .nan else if y.neg? then Fp.zero false else y
/-- The ACT clamp. -/
def clampTo (lo hi y : Fp) : Fp := fmin (fmax y lo) hi

/-! ### The drain of one vector -/

/-- The OUT scale of a lane, times Q_USED of IN_REC (R110 step 1). -/
def Cx.outScale (x : Cx) (c : Fin 8) (h : ScaleHdr) (lane row : Nat) : Option Fp :=
  let s := fun (off : Nat) => f32 (x.le h.sp (h.addr + 0x40 + off) 4)
  let q := fun (v : Fp) => if h.inRec = 0xFFFFFFFF then v else
    let p := recPlace c h.inRec
    fmul v (f32 (x.le p.1 p.2 4))
  match h.out with
  | 1 => some (q (s (4 * lane)))
  | 2 => some (q (s (4 * row)))
  | 3 => some (q (s 0))
  | _ => none

/-- Steps 1 and 2 of R110: scale, bias and ACT; `row` is a x M + m. -/
def Cx.finishLane (x : Cx) (c : Fin 8) (d : DrainCfg) (h : ScaleHdr) (cols lane row : Nat) (v : Fp) : Fp :=
  let sp := Space.spad c
  let v := match x.outScale c h lane row with | some s => fmul v.r32 s | none => v
  let v := match spaOpt d.bias with | some b => fadd v.r32 (f32 (x.le sp (b + 4 * lane) 4)) | none => v
  match d.act, spaOpt d.bias with
  | 1, _ => relu v
  | 2, some b => clampTo (f32 (x.le sp (b + 4 * cols) 4)) (f32 (x.le sp (b + 4 * cols + 4) 4)) v
  | _, _ => v

/-- INT32 saturation of an exact sum (R109). -/
def sat32 (i : Int) : Int := max (-(2 ^ 31 : Int)) (min (2 ^ 31 - 1) i)

/-- The drain of one output vector (R79): compare, combine with the partial, and write a partial or the finished lanes.
`rank` counts the vectors of the drain array by array (R121). -/
def Cx.drainVector (c : Fin 8) (d : DrainCfg) (t : WeightTile) (isInt : Bool) (rows : Nat) (weight : Int) (a m vecs rank ord : Nat)
    (vec : List (Option Fp)) (x : Cx) : Cx :=
  let sp := Space.spad c
  let cols := t.cols.length
  let outs := (List.range cols).map fun n => if t.rows = 0 then Fp.zero false else columnSum (rows = 256) vec (t.col rows n)
  let x := match (if t.rows = 0 then .pass else checksum isInt rows t vec outs) with
    | .pass => x
    | .skipped => x.count (unitErrRow (.mxc c)) colSkipped 1
    | .fail dt => x.failCheck { detector := 0x01, unit := .mxc c, subunit := a, cls := 0xFF, address := m * 4 + a, detail := BitVec.ofNat 32 dt }
  let at_ := d.place a m
  let x := x.touch (.mxc c) sp at_ (max (d.bytes cols) (if d.acc then 4 * cols else 0))
  let sums : List (Fp × Bool) := (outs.zipIdx).map fun p =>
    if isInt then
      let prev := if d.acc then sext 32 (x.le sp (at_ + 4 * p.2) 4) else 0
      let v := p.1.toInt .rne * weight + prev
      (Fp.ofInt (sat32 v), decide (sat32 v ≠ v))
    else (if d.acc then fadd (f32 (x.le sp (at_ + 4 * p.2) 4)) p.1 else p.1, false)
  let ovf := (sums.filter fun p => p.2).length
  let x := x.count (unitErrRow (.mxc c)) colIntOver ovf
  let h := readHdr x.rd sp (spaOpt d.oscale)
  let f : Finish := { fmt := d.outFmt, round := d.round, nonsat := d.nonsat, seed := d.seed, hdr := h,
                      recAt := if h.outRec = 0xFFFFFFFF then none else some (recPlace c h.outRec) }
  if !d.last then
    let x := if d.qrpt && decide (ovf ≠ 0) then (x.nameOut false f).2.report f.recAt { Counts.zero with sats := ovf } else x
    x.put sp at_ ((sums.map fun p => if isInt then codeOf 32 (p.1.toInt .rne) else p.1.code32).flatMap fun v => leBytes 4 v)
  else
    let row := a * vecs + m
    let ys := (sums.zipIdx).map fun p => x.finishLane c d h cols p.2 row p.1.1
    let (codes, groups, n, x) := x.quantise f x.run.ident (fun i => ord * 2 ^ 32 + a * 2 ^ 23 + m * 2 ^ 7 + i) ys
    let n := { n with sats := n.sats + ovf }
    let x := if d.qrpt then x.report f.recAt n else x
    let x := x.put sp at_ (packCodes d.outFmt codes)
    if groups.isEmpty then x
    else
      let b := spaByte h.outScales + 4 * rank
      (x.touch (.mxc c) sp b groups.length).put sp b (groups.map fun g => BitVec.ofNat 8 g)

/-! ### MMA and CONV -/

/-- The activation vector `m` of array `a` of MMA (R73, R105). -/
def mmaVector (rd : Reader) (c : Fin 8) (w : BitVec 128) (rows a m : Nat) : List (Option Fp) :=
  let sp := Space.spad c
  let fmt := fld w 77 74
  let vecs := fld w 71 56
  let h := readHdr rd sp (spaOpt (fld w 55 38))
  let v := rd sp (spaByte (fld w 113 96 + a * fld w 95 78 + m * fld w 35 26)) (fmtBytes fmt rows)
  (List.range rows).map fun k =>
    let blk := if h.block = 0 then BlkScale.none else blkScale rd h ((a * vecs + m) * (rows / 32) + k / 32)
    some (operand fmt (packedAt fmt v k) (fld w 37 36) h.zp blk)

/-- The rows that one tap gives (R76, R77). -/
def tapRows (rd : Reader) (sp : Space) (d : Walk) (h : ScaleHdr) (fmt piece : Nat) (t : Tap) : List (Option Fp) :=
  match t with
  | .skip => List.replicate d.cw none
  | .const => List.replicate d.cw (some (operand fmt d.code piece h.zp (if h.block = 0 then .none else .e8m0 h.padScale)))
  | .fetch n cb ih iw =>
    let v := rd sp (d.base + d.pos n cb ih iw * d.blkBytes) d.blkBytes
    let blk := if h.block = 0 then BlkScale.none else blkScale rd h (d.pos n cb ih iw)
    (List.range d.cw).map fun i => some (operand fmt (packedAt fmt v i) piece h.zp blk)

/-- The activation vector `m` of array `a` of CONV (R76). -/
def convVector (rd : Reader) (c : Fin 8) (w : BitVec 128) (rows a m : Nat) : List (Option Fp) :=
  let sp := Space.spad c
  let d := readWalk rd sp (spaByte (fld w 113 96))
  let h := readHdr rd sp (spaOpt (fld w 34 17))
  (convTaps d w rows a m).flatMap (tapRows rd sp d h (fld w 39 36) (fld w 16 15))

/-- 2^8 for each high piece of an integer product (R79 step 2, R106). -/
def pieceWeight (p q : Nat) : Int := (if p = 1 then 256 else 1) * (if q = 1 then 256 else 1)

/-- The header that a finishing drain names is allowed (R102, R104, R121). -/
def Cx.outHdrOk (c : Fin 8) (d : DrainCfg) (cols : Nat) (x : Cx) : Bool :=
  !d.last || match spaOpt d.oscale with
    | none => true
    | some a => hdrReservedOk x.rd (.spad c) a && (readHdr x.rd (.spad c) (some a)).outputOk d.outFmt cols

/-- MMA or CONV: every vector of every selected array through its weights and its drain, in order. A command's cores count their
MMAs and CONVs together, in the order in which they issue them (DESIGN CHOICE, log 153). -/
def Cx.stream (c : Fin 8) (k : Core) (arrays : List Nat) (buf fmt piece vecs : Nat) (vector : Reader → Nat → Nat → Nat → List (Option Fp))
    (x : Cx) : Cx :=
  let ord := x.run.mmaOrd
  let x := { x with run := { x.run with mmaOrd := ord + 1 } }
  (arrays.zipIdx).foldl (fun x (a, r) =>
    let t := k.tile a buf
    let rows := pairRows fmt t.fmt
    match vget k.drainCfg a none with
    | none => x.stop stBadParam
    | some d =>
      if !t.filled || fmtIsInt t.fmt != fmtIsInt fmt || !x.outHdrOk c d t.cols.length then x.stop stBadParam
      else (List.range vecs).foldl (fun x m =>
        if x.live then x.drainVector c d t (fmtIsInt fmt) rows (pieceWeight piece t.piece) a m vecs (r * vecs + m) ord (vector x.rd rows a m) else x) x) x

/-- The core `c` of a fabric. -/
def Cx.core (x : Cx) (c : Fin 8) : Core := x.fab.cores.get c
/-- Replace core `c`. -/
def Cx.putCore (c : Fin 8) (k : Core) (x : Cx) : Cx := { x with fab := { x.fab with cores := x.fab.cores.set c k } }

/-- The header that an instruction names is allowed (R102-R104); otherwise a command ends with BAD_PARAM. -/
def Cx.needHdr (c : Fin 8) (spa fmt : Nat) (x : Cx) : Cx :=
  let ok := match spaOpt spa with
    | none => true
    | some a => hdrReservedOk x.rd (.spad c) a && (readHdr x.rd (.spad c) (some a)).operandOk fmt
  if ok then x else x.stop stBadParam

/-- LOADW (R72). -/
def runLoadw (c : Fin 8) (w : BitVec 128) (x : Cx) : Cx :=
  let x := (loadwAcc x.rd c w).foldl (fun x a => x.touch (.mxc c) a.sp a.addr a.len) x
  let x := x.needHdr c (fld w 95 78) (fld w 77 74)
  let t := weightTile x.rd c w
  let k := x.core c
  x.putCore c { k with weights := (seqArrays w).foldl (fun v a => vset v (2 * a + fld w 73 73) t) k.weights }

/-- MMA (R71-R75). -/
def runMma (c : Fin 8) (w : BitVec 128) (x : Cx) : Cx :=
  let x := (mmaFeed x.rd c (x.core c) w).foldl (fun x a => x.touch (.mxc c) a.sp a.addr a.len) x
  let x := x.needHdr c (fld w 55 38) (fld w 77 74)
  x.stream c (x.core c) (seqArrays w) (fld w 73 73) (fld w 77 74) (fld w 37 36) (fld w 71 56) fun rd rows a m => mmaVector rd c w rows a m

/-- CONV (R76-R78). -/
def runConv (c : Fin 8) (w : BitVec 128) (x : Cx) : Cx :=
  let x := (convFeed x.rd c (x.core c) w).foldl (fun x a => x.touch (.mxc c) a.sp a.addr a.len) x
  let x := x.needHdr c (fld w 34 17) (fld w 39 36)
  let d := readWalk x.rd (.spad c) (spaByte (fld w 113 96))
  let x := if d.ok (fld w 39 36) then x else x.stop stBadParam
  x.stream c (x.core c) (seqArrays w) (fld w 35 35) (fld w 39 36) (fld w 16 15) (fld w 71 56) fun rd rows a m => convVector rd c w rows a m

/-- The settings that a DRAIN states (Table 4.8). -/
def drainCfgOf (w : BitVec 128) : DrainCfg :=
  { dst := fld w 113 96, dstride := fld w 95 78, outFmt := fld w 77 74, acc := fld w 73 73 = 1, last := fld w 72 72 = 1,
    round := fld w 71 70, nonsat := fld w 69 69 = 1, oscale := fld w 68 51, bias := fld w 50 33, act := fld w 32 31,
    qrpt := fld w 30 30 = 1, seed := fld w 29 14, ostride := fld w 13 4 }

/-- DRAIN sets the drain of every selected array (R91). -/
def runDrain (c : Fin 8) (w : BitVec 128) (x : Cx) : Cx :=
  let k := x.core c
  x.putCore c { k with drainCfg := (seqArrays w).foldl (fun v a => vset v a (some (drainCfgOf w))) k.drainCfg }

end Sys2Proof.Machine
end

