-- ==== Sys2Proof/Machine/Vop.lean ====
section
/-! DEFINITION. The vector unit (R85, R92, Tables 4.5 and 4.11): elementwise operations, conversions, the 8-bit integer
path, table functions and reductions. -/

namespace Sys2Proof.Machine

/-! ### Functions of the VU -/

/-- A table function (Table 4.5); a NaN operand gives NaN (R100), and exp of minus infinity is +0 (R177). -/
def vuTable (op : Nat) (x : Fp) : Fp :=
  if x.isNan then .nan
  else if (op = 0x40 || op = 0x42) && x = .inf true then Fp.zero false
  else vuFn op x.r32
/-- exp2. -/
def fexp2 (x : Fp) : Fp := vuTable 0x40 x
/-- log2. -/
def flog2 (x : Fp) : Fp := vuTable 0x41 x
/-- exp. -/
def fexp (x : Fp) : Fp := vuTable 0x42 x
/-- rcp. -/
def frcp (x : Fp) : Fp := vuTable 0x44 x
/-- rsqrt. -/
def frsqrt (x : Fp) : Fp := vuTable 0x45 x
/-- sqrt. -/
def fsqrtT (x : Fp) : Fp := vuTable 0x46 x
/-- sigmoid. -/
def fsigmoid (x : Fp) : Fp := vuTable 0x48 x

/-- min of Table 4.11: -0 counts below +0, NaN if either is NaN. -/
def vuMin (x y : Fp) : Fp := if x.isNan || y.isNan then .nan else if y.lt x || (x.eq y && y.neg?) then y else x
/-- max of Table 4.11. -/
def vuMax (x y : Fp) : Fp := if x.isNan || y.isNan then .nan else if x.lt y || (x.eq y && x.neg?) then y else x

/-- One level of a pairwise tree: lanes 2i and 2i + 1 join, and a lane without a partner passes (R85; DEDUCED, log 97). -/
def pairUp (f : Fp → Fp → Fp) : List Fp → List Fp
  | a :: b :: r => f a b :: pairUp f r
  | l => l

/-- A tree over at most 256 lanes: eight levels. -/
def treeOf (f : Fp → Fp → Fp) (l : List Fp) : Option Fp := (Nat.repeat (pairUp f) 8 l).head?

/-- The vectors of 256 elements of a list. -/
def vectorsOf (l : List Fp) : List (List Fp) := (List.range (cdiv l.length 256)).map fun i => (l.drop (256 * i)).take 256

/-- A reduction: each vector in its tree, then the vectors in index order (R85). -/
def vuReduce (f : Fp → Fp → Fp) (l : List Fp) : Option Fp :=
  match (vectorsOf l).filterMap (treeOf f) with
  | [] => none
  | a :: r => some (r.foldl f a)

/-- The FP32 sum of a list in tree order; +0 for none. -/
def treeSum (l : List Fp) : Fp := (vuReduce fadd l).getD (Fp.zero false)

/-- The index of the first element that no later one beats; a comparison with NaN is false (R92). -/
def argBest (better : Fp → Fp → Bool) (l : List Fp) : Nat :=
  ((l.zipIdx).foldl (fun (b : Option (Fp × Nat)) p =>
    if p.1.isNan then b else match b with
    | none => some (p.1, p.2)
    | some q => if better p.1 q.1 then some (p.1, p.2) else b) none).elim 0 fun q => q.2

/-! ### VOP -/

/-- The elements at a source, read in a format (R92). -/
def Cx.elems (x : Cx) (sp : Space) (fmt a n : Nat) : List Fp :=
  let v := x.le sp a (fmtBytes fmt n)
  (List.range n).map fun i => fmtValue fmt (packedAt fmt v i)

/-- An arithmetic result in FP32 under ROUND (Table 4.5): rounded as ROUND says when it is an FP32 result or rounds toward zero,
otherwise with RNE before the conversion, which ROUND governs (DEDUCED, log 97). -/
def vuRoundReal (fmt : Nat) (md : Rnd) (v : Fp) : Fp :=
  match v with
  | .fin n m e =>
    let y := roundFin 0 (match md with | .stoch r => if fmt = 0 then .stoch r else .rne | k => k) n m e
    if (fmtMax 0).lt y.abs then .inf n else y
  | y => y
/-- An arithmetic result of operands of a format: exact for integers. -/
def vuRound (fmt : Nat) (md : Rnd) (v : Fp) : Fp := if fmtIsInt fmt then v else vuRoundReal fmt md v

/-- A flag as an INT32 result. -/
def flagVal (b : Bool) : Fp := Fp.ofNat (if b then 1 else 0)

/-- The elementwise operations (Table 4.11), before the conversion back to the result format. -/
def vopLane (op fmt : Nat) (md : Rnd) (imm a b d : Fp) : Fp :=
  let r := vuRound fmt md
  match op with
  | 0x00 => r (a.add b)
  | 0x01 => r (a.sub b)
  | 0x02 => r (a.mul b)
  | 0x03 => r ((a.mul b).add d)
  | 0x04 => vuMin a b
  | 0x05 => vuMax a b
  | 0x06 => a.abs
  | 0x07 => a.negate
  | 0x08 => vuRoundReal fmt md (a.r32.mul imm)
  | 0x09 => vuRoundReal fmt md (a.r32.add imm)
  | 0x10 => flagVal (a.eq b)
  | 0x11 => flagVal (a.lt b)
  | 0x12 => flagVal (a.le b)
  | 0x13 => if d.isZero then b else a
  | 0x15 => if b.isZero || b.isNan then Fp.zero false else a
  | 0x20 => a
  | 0x30 => a.add b
  | 0x31 => a.mul b
  | 0x32 => d.add (a.mul b)
  | _ => vuTable op a

/-- The result format of a VOP. -/
def vopOutFmt (w : BitVec 128) : Nat :=
  let op := fld w 113 106
  if vopInt op then 13 else if op = 0x20 then fld w 3 0 else if op = 0x50 then 0 else fld w 39 36

/-- The value of a reduction (Table 4.11). -/
def vopReduce (op : Nat) (a : List Fp) : Fp :=
  match op with
  | 0x50 => treeSum (a.map Fp.r32)
  | 0x51 => (vuReduce vuMax a).getD (Fp.zero false)
  | 0x52 => (vuReduce vuMin a).getD (Fp.zero false)
  | 0x53 => Fp.ofNat (argBest (fun y b => b.lt y) a)
  | _ => Fp.ofNat (argBest (fun y b => y.lt b) a)

/-- VOP (R92). -/
def runVop (c : Fin 8) (w : BitVec 128) (x : Cx) : Cx :=
  let sp := Space.spad c
  let op := fld w 113 106
  let fmt := fld w 39 36
  let n := vopElems w
  let x := (vopAcc c w).foldl (fun x a => x.touch (.mxc c) a.sp a.addr a.len) x
  let ord := x.run.vopOrd
  let x := { x with run := { x.run with vopOrd := ord + 1 } }
  let imm := f32 (fld w 31 0)
  let a := x.elems sp fmt (spaByte (fld w 105 88)) n
  let out := vopOutFmt w
  let mode := fun (i : Nat) => rndMode (fld w 35 34) out x.run.ident Config.vopSeed (ord * 2 ^ 32 + i)
  let nonsat := op = 0x20 && fld w 4 4 = 1
  let dst := spaByte (fld w 69 52)
  if vopReduces op then x.put sp dst (packCodes out [fmtCode out (mode 0) nonsat 0 (vopReduce op a)])
  else
    let b := if op ≠ 0x14 && vopUsesB op then x.elems sp fmt (spaByte (fld w 87 70)) n else []
    let d := if vopUsesD op then x.elems sp (if op = 3 then fmt else 13) dst n else []
    let lo := f32 (x.le sp (spaByte (fld w 87 70)) 4)
    let hi := f32 (x.le sp (spaByte (fld w 87 70) + 4) 4)
    let z := Fp.zero false
    let vals := (a.zipIdx).map fun p =>
      if op = 0x14 then clampTo lo hi p.1 else vopLane op fmt (mode p.2) imm p.1 (b.getD p.2 z) (d.getD p.2 z)
    x.put sp dst (packCodes out ((vals.zipIdx).map fun p => fmtCode out (mode p.2) nonsat 0 p.1))

end Sys2Proof.Machine
end

