-- ==== Sys2Proof/Machine/Scalar.lean ====
section
/-! DEFINITION. The scalar unit (R86, R53, R125, R129, Table 4.6): an RV32IMFC interpreter over the segment's window. The
base instructions follow the RISC-V unprivileged specification that R86 names. -/

namespace Sys2Proof.Machine

/-! ### IEEE arithmetic (R86, R99: with subnormals) -/

/-- The value of an FP32 code, subnormals kept. -/
def ieee (w : Word) : Fp :=
  let v := w.toNat
  let ef : Nat := v / 2 ^ 23 % 256
  let fr : Nat := v % 2 ^ 23
  let neg := decide (2 ^ 31 ≤ v)
  if ef = 255 then (if fr = 0 then .inf neg else .nan) else if ef = 0 then .fin neg fr (-149) else .fin neg (2 ^ 23 + fr) ((ef : Int) - 150)

/-- A signalling NaN. -/
def isSnan (w : Word) : Bool := (ieee w).isNan && !w.getLsbD 22

/-- Exception flags of fcsr: NX, UF, OF, DZ, NV. -/
abbrev flagNX : Nat := 1
/-- Underflow. -/
abbrev flagUF : Nat := 2
/-- Overflow. -/
abbrev flagOF : Nat := 4
/-- Division by zero. -/
abbrev flagDZ : Nat := 8
/-- Invalid. -/
abbrev flagNV : Nat := 16

/-- m x 2^e in units of 2^q under a RISC-V rounding mode (0 RNE, 1 RTZ, 2 RDN, 3 RUP, 4 RMM), and whether it is inexact. -/
def roundRm (rm : Nat) (neg : Bool) (m : Nat) (e q : Int) : Nat × Bool :=
  if q ≤ e then (m * 2 ^ (e - q).toNat, false)
  else
    let d := 2 ^ (q - e).toNat
    let lo := m / d
    let rem := m % d
    let up := match rm with
      | 0 => decide (d < 2 * rem ∨ (2 * rem = d ∧ lo % 2 = 1))
      | 2 => neg && decide (rem ≠ 0)
      | 3 => !neg && decide (rem ≠ 0)
      | 4 => decide (d ≤ 2 * rem)
      | _ => false
    (if up then lo + 1 else lo, decide (rem ≠ 0))

/-- Round a value to a format of the SU (FP32 0, BF16 2, E4M3 3) and give its code and flags. An E4M3 overflow saturates
(Table 5.3). -/
def suRound (fmt rm : Nat) (v : Fp) : Nat × Nat :=
  match v with
  | .nan => (fmtNan fmt, 0)
  | .inf n => (fmtCode fmt .rne false 0 (.inf n), 0)
  | .fin n m e =>
    if m = 0 then (fmtFin fmt n 0 0, 0)
    else
      let man : Int := fmtMan fmt
      let lg := (m.log2 : Int) + e
      let emin := 1 - fmtBias fmt
      let r := roundRm rm n m e (max (lg - man) (emin - man))
      let free := roundRm rm n m e (lg - man)
      let q := max (lg - man) (emin - man)
      let tiny := decide (free.1 = 0) || decide ((free.1.log2 : Int) + (lg - man) < emin)
      let fl := (if r.2 then flagNX else 0) + (if r.2 && tiny then flagUF else 0)
      if (fmtMax fmt).lt (.fin false r.1 q) then
        let toMax := rm = 1 || (rm = 2 && !n) || (rm = 3 && n)
        (if toMax then (match fmtMax fmt with | .fin _ m e => fmtFin fmt n m e | _ => 0) else fmtOver fmt n false, flagOF + flagNX)
      else (fmtFin fmt n r.1 q, fl)

/-- An exact sum's zero takes the sign that the rounding mode gives when the addends' signs differ. -/
def zeroSign (rm : Nat) (x y s : Fp) : Fp := if s.isFin && s.isZero && x.neg? != y.neg? then Fp.zero (rm = 2) else s

/-- x + y with its flags. -/
def suAdd (rm : Nat) (x y : Fp) : Nat × Nat :=
  let s := zeroSign rm x y (x.add y)
  let r := suRound 0 rm s
  (r.1, r.2 + if s.isNan && !x.isNan && !y.isNan then flagNV else 0)

/-- x x y + z with one rounding. -/
def suFma (rm : Nat) (x y z : Fp) : Nat × Nat :=
  let p := x.mul y
  let s := zeroSign rm p z (p.add z)
  let r := suRound 0 rm s
  let nv := (p.isNan && !x.isNan && !y.isNan) || (s.isNan && !p.isNan && !z.isNan)
  (r.1, r.2 + if nv then flagNV else 0)

/-- A value as a saturated integer: FCVT.W.S and FCVT.WU.S. -/
def suToInt (rm : Nat) (signed : Bool) (v : Fp) : Nat × Nat :=
  let lo : Int := if signed then -(2 ^ 31) else 0
  let hi : Int := if signed then 2 ^ 31 - 1 else 2 ^ 32 - 1
  match v with
  | .nan => (codeOf 32 hi, flagNV)
  | .inf n => (codeOf 32 (if n then lo else hi), flagNV)
  | .fin n m e =>
    let r := roundRm rm n m e 0
    let i : Int := if n then -(r.1 : Int) else r.1
    if i < lo then (codeOf 32 lo, flagNV) else if hi < i then (codeOf 32 hi, flagNV) else (codeOf 32 i, if r.2 then flagNX else 0)

/-- FCLASS.S. -/
def suClass (w : Word) : Nat :=
  match ieee w with
  | .nan => if isSnan w then 2 ^ 8 else 2 ^ 9
  | .inf n => if n then 1 else 2 ^ 7
  | .fin n m _ =>
    if m = 0 then (if n then 2 ^ 3 else 2 ^ 4)
    else if m < 2 ^ 23 then (if n then 2 ^ 2 else 2 ^ 5) else (if n then 2 else 2 ^ 6)

/-- FMIN.S and FMAX.S. -/
def suMinMax (isMax : Bool) (a b : Word) : Word :=
  let x := ieee a
  let y := ieee b
  if x.isNan && y.isNan then 0x7FC00000
  else if x.isNan then b else if y.isNan then a
  else if isMax then (if x.lt y || (x.eq y && x.neg?) then b else a)
  else (if y.lt x || (x.eq y && y.neg?) then b else a)

/-! ### Compressed instructions -/

/-- An I-type word. -/
def encI (op f3 rd rs1 imm : Nat) : Nat := op + rd * 2 ^ 7 + f3 * 2 ^ 12 + rs1 * 2 ^ 15 + imm % 2 ^ 12 * 2 ^ 20
/-- An S-type word. -/
def encS (op f3 rs1 rs2 imm : Nat) : Nat :=
  op + imm % 32 * 2 ^ 7 + f3 * 2 ^ 12 + rs1 * 2 ^ 15 + rs2 * 2 ^ 20 + imm / 32 % 128 * 2 ^ 25
/-- An R-type word. -/
def encR (f7 f3 rd rs1 rs2 : Nat) : Nat := 0x33 + rd * 2 ^ 7 + f3 * 2 ^ 12 + rs1 * 2 ^ 15 + rs2 * 2 ^ 20 + f7 * 2 ^ 25
/-- A branch word of a 13-bit offset. -/
def encB (f3 rs1 rs2 imm : Nat) : Nat :=
  0x63 + imm / 2048 % 2 * 2 ^ 7 + imm / 2 % 16 * 2 ^ 8 + f3 * 2 ^ 12 + rs1 * 2 ^ 15 + rs2 * 2 ^ 20 + imm / 32 % 64 * 2 ^ 25 +
    imm / 4096 % 2 * 2 ^ 31
/-- A jump word of a 21-bit offset. -/
def encJ (rd imm : Nat) : Nat :=
  0x6F + rd * 2 ^ 7 + imm / 4096 % 256 * 2 ^ 12 + imm / 2048 % 2 * 2 ^ 20 + imm / 2 % 1024 * 2 ^ 21 + imm / 2 ^ 20 % 2 * 2 ^ 31

/-- The 32-bit word that a 16-bit RV32FC instruction stands for. -/
def expandC (h : Nat) : Option Nat :=
  let b := fun (hi lo : Nat) => bitsOf h hi lo
  let f3 := b 15 13
  let r1 := b 11 7
  let r2 := b 6 2
  let p1 := 8 + b 9 7
  let p2 := 8 + b 4 2
  let imm6 := codeOf 12 (sext 6 (b 12 12 * 32 + b 6 2))
  let offW := b 12 10 * 8 + b 6 6 * 4 + b 5 5 * 64
  let offJ := codeOf 21 (sext 12 (b 12 12 * 2048 + b 11 11 * 16 + b 10 9 * 256 + b 8 8 * 1024 + b 7 7 * 64 + b 6 6 * 128 + b 5 3 * 2 + b 2 2 * 32))
  let offB := codeOf 13 (sext 9 (b 12 12 * 256 + b 11 10 * 8 + b 6 5 * 64 + b 4 3 * 2 + b 2 2 * 32))
  match b 1 0, f3 with
  | 0, 0 =>
    let imm := b 12 11 * 16 + b 10 7 * 64 + b 6 6 * 4 + b 5 5 * 8
    if imm = 0 then none else some (encI 0x13 0 p2 2 imm)
  | 0, 2 => some (encI 0x03 2 p2 p1 offW)
  | 0, 3 => some (encI 0x07 2 p2 p1 offW)
  | 0, 6 => some (encS 0x23 2 p1 p2 offW)
  | 0, 7 => some (encS 0x27 2 p1 p2 offW)
  | 1, 0 => some (encI 0x13 0 r1 r1 imm6)
  | 1, 1 => some (encJ 1 offJ)
  | 1, 2 => some (encI 0x13 0 r1 0 imm6)
  | 1, 3 =>
    if r1 = 2 then
      let imm := sext 10 (b 12 12 * 512 + b 6 6 * 16 + b 5 5 * 64 + b 4 3 * 128 + b 2 2 * 32)
      if imm = 0 then none else some (encI 0x13 0 2 2 (codeOf 12 imm))
    else
      let imm := sext 6 (b 12 12 * 32 + b 6 2)
      if imm = 0 then none else some (0x37 + r1 * 2 ^ 7 + codeOf 20 imm * 2 ^ 12)
  | 1, 4 =>
    match b 11 10 with
    | 0 => if b 12 12 = 1 then none else some (encI 0x13 5 p1 p1 r2)
    | 1 => if b 12 12 = 1 then none else some (encI 0x13 5 p1 p1 (r2 + 0x400))
    | 2 => some (encI 0x13 7 p1 p1 imm6)
    | _ =>
      if b 12 12 = 1 then none else
      match b 6 5 with
      | 0 => some (encR 0x20 0 p1 p1 p2)
      | 1 => some (encR 0 4 p1 p1 p2)
      | 2 => some (encR 0 6 p1 p1 p2)
      | _ => some (encR 0 7 p1 p1 p2)
  | 1, 5 => some (encJ 0 offJ)
  | 1, 6 => some (encB 0 p1 0 offB)
  | 1, 7 => some (encB 1 p1 0 offB)
  | 2, 0 => if b 12 12 = 1 then none else some (encI 0x13 1 r1 r1 r2)
  | 2, 2 => if r1 = 0 then none else some (encI 0x03 2 r1 2 (b 12 12 * 32 + b 6 4 * 4 + b 3 2 * 64))
  | 2, 3 => some (encI 0x07 2 r1 2 (b 12 12 * 32 + b 6 4 * 4 + b 3 2 * 64))
  | 2, 4 =>
    if b 12 12 = 0 then
      if r2 = 0 then (if r1 = 0 then none else some (encI 0x67 0 0 r1 0)) else some (encR 0 0 r1 0 r2)
    else if r2 = 0 then (if r1 = 0 then none else some (encI 0x67 0 1 r1 0))
    else some (encR 0 0 r1 r1 r2)
  | 2, 6 => some (encS 0x23 2 2 r2 (b 12 9 * 4 + b 8 7 * 64))
  | 2, 7 => some (encS 0x27 2 2 r2 (b 12 9 * 4 + b 8 7 * 64))
  | _, _ => none

/-! ### Memory -/

/-- The scratchpad byte of a window offset (R53): window base + offset modulo window size. -/
def Su.windowByte (s : Su) (a : Nat) : Nat := spaByte s.wbase + a % (64 * s.wsize)

/-- The 1 GiB aperture of cache mode (R129): the device address of an SU address. -/
def Cx.apertureAt (x : Cx) (a : Nat) : Option Nat :=
  match x.aperture with
  | some b => if 0x40000000 ≤ a ∧ a < 0x80000000 then some (b + (a - 0x40000000)) else none
  | none => none

/-- An aligned load, or a part of one, of `n` bytes. -/
def Cx.suLoadPart (c : Fin 8) (s : Su) (a n : Nat) (x : Cx) : Nat × Cx :=
  match x.apertureAt a with
  | some d => let r := x.cacheRead c d n; (leNat r.1, r.2)
  | none =>
    (leNat ((List.range n).map fun i => x.get (.spad c) (s.windowByte (a + i))),
      (List.range n).foldl (fun x i => x.touch (.mxc c) (.spad c) (s.windowByte (a + i)) 1) x)

/-- A load of `n` bytes: a misaligned one is two aligned accesses in address order (R125). -/
def Cx.suLoad (c : Fin 8) (s : Su) (a n : Nat) (x : Cx) : Nat × Cx :=
  if a % n = 0 then x.suLoadPart c s a n
  else
    let k := n - a % n
    let lo := x.suLoadPart c s a k
    let hi := lo.2.suLoadPart c s ((a + k) % 2 ^ 32) (n - k)
    (lo.1 + 2 ^ (8 * k) * hi.1, hi.2)

/-- An aligned store, or a part of one, of `n` bytes. -/
def Cx.suStorePart (c : Fin 8) (s : Su) (a n v : Nat) (x : Cx) : Cx :=
  match x.apertureAt a with
  | some d => x.cacheWrite c d (leBytes n v)
  | none =>
    (((leBytes n v).zipIdx).foldl (fun x p =>
      (x.touch (.mxc c) (.spad c) (s.windowByte (a + p.2)) 1).set (.spad c) (s.windowByte (a + p.2)) p.1) x)

/-- A store of `n` bytes: a misaligned one is two aligned accesses in address order (R125). -/
def Cx.suStore (c : Fin 8) (s : Su) (a n v : Nat) (x : Cx) : Cx :=
  if a % n = 0 then x.suStorePart c s a n v
  else
    let k := n - a % n
    (x.suStorePart c s a k v).suStorePart c s ((a + k) % 2 ^ 32) (n - k) (v / 2 ^ (8 * k))

/-! ### One instruction -/

/-- Register `i`; x0 reads zero. -/
def Su.get (s : Su) (i : Nat) : Word := if i = 0 then 0 else vget s.x i 0
/-- Write register `i`; x0 discards. -/
def Su.set (s : Su) (i : Nat) (v : Word) : Su := if i = 0 then s else { s with x := vset s.x i v }
/-- Float register `i`. -/
def Su.getF (s : Su) (i : Nat) : Word := vget s.f i 0
/-- Write float register `i`. -/
def Su.setF (s : Su) (i : Nat) (v : Nat) : Su := { s with f := vset s.f i (BitVec.ofNat 32 v) }
/-- Add exception flags to fcsr. -/
def Su.raise (s : Su) (fl : Nat) : Su := { s with fcsr := s.fcsr ||| fl }

/-- The result of one instruction: the registers with pc after it, memory, and its cost units (Table 4.6). -/
structure SuStep where
  su   : Su
  x    : Cx
  cost : Nat

/-- Integer operations on registers. -/
def aluOp (f3 : Nat) (alt : Bool) (a b : Word) : Word :=
  match f3 with
  | 0 => if alt then a - b else a + b
  | 1 => a <<< (b.toNat % 32)
  | 2 => if a.toInt < b.toInt then 1 else 0
  | 3 => if a.toNat < b.toNat then 1 else 0
  | 4 => a ^^^ b
  | 5 => if alt then BitVec.sshiftRight a (b.toNat % 32) else a >>> (b.toNat % 32)
  | 6 => a ||| b
  | _ => a &&& b

/-- The M extension. -/
def mulOp (f3 : Nat) (a b : Word) : Word :=
  match f3 with
  | 0 => a * b
  | 1 => BitVec.ofInt 32 (a.toInt * b.toInt / 2 ^ 32)
  | 2 => BitVec.ofInt 32 (a.toInt * (b.toNat : Int) / 2 ^ 32)
  | 3 => BitVec.ofNat 32 (a.toNat * b.toNat / 2 ^ 32)
  | 4 => if b = 0 then 0xFFFFFFFF else BitVec.ofInt 32 (a.toInt.tdiv b.toInt)
  | 5 => if b = 0 then 0xFFFFFFFF else BitVec.ofNat 32 (a.toNat / b.toNat)
  | 6 => if b = 0 then a else BitVec.ofInt 32 (a.toInt.tmod b.toInt)
  | _ => if b = 0 then a else BitVec.ofNat 32 (a.toNat % b.toNat)

/-- A branch is taken; none where the encoding is not a branch. -/
def branchTaken (f3 : Nat) (a b : Word) : Option Bool :=
  match f3 with
  | 0 => some (a = b)
  | 1 => some (a ≠ b)
  | 4 => some (decide (a.toInt < b.toInt))
  | 5 => some (!decide (a.toInt < b.toInt))
  | 6 => some (decide (a.toNat < b.toNat))
  | 7 => some (!decide (a.toNat < b.toNat))
  | _ => none

/-- The value of fflags, frm or fcsr (CSR 1, 2, 3). -/
def csrRead (s : Su) (n : Nat) : Option Nat :=
  match n with | 1 => some (s.fcsr % 32) | 2 => some (s.fcsr / 32 % 8) | 3 => some (s.fcsr % 256) | _ => none
/-- Write fflags, frm or fcsr. -/
def csrWrite (s : Su) (n v : Nat) : Su :=
  match n with
  | 1 => { s with fcsr := s.fcsr / 32 * 32 + v % 32 }
  | 2 => { s with fcsr := v % 8 * 32 + s.fcsr % 32 }
  | _ => { s with fcsr := v % 256 }

/-- The rounding mode of an instruction: its rm field, or frm when it is dynamic; none for a reserved one. -/
def suRm (s : Su) (f3 : Nat) : Option Nat :=
  let rm := if f3 = 7 then s.fcsr / 32 % 8 else f3
  if rm ≤ 4 then some rm else none

/-- OP-FP instructions (opcode 0x53): the registers after it and the cost. -/
def fpOp (s : Su) (f7 f3 rd rs1 rs2 : Nat) : Option (Su × Nat) :=
  let wa := s.getF rs1
  let wb := s.getF rs2
  let a := ieee wa
  let b := ieee wb
  let snan := if isSnan wa || isSnan wb then flagNV else 0
  let arith := fun (r : Nat × Nat) (extra cost : Nat) => some ((s.setF rd r.1).raise (r.2 ||| extra), cost)
  match f7 with
  | 0x00 => (suRm s f3).bind fun rm => arith (suAdd rm a b) snan 4
  | 0x04 => (suRm s f3).bind fun rm => arith (suAdd rm a b.negate) snan 4
  | 0x08 => (suRm s f3).bind fun rm =>
    let p := a.mul b
    arith (suRound 0 rm p) (snan ||| if p.isNan && !a.isNan && !b.isNan then flagNV else 0) 4
  | 0x0C => (suRm s f3).bind fun rm =>
    let p := a.div b
    arith (suRound 0 rm p) (snan ||| (if p.isNan && !a.isNan && !b.isNan then flagNV else 0) |||
      (if a.isFin && !a.isZero && b.isFin && b.isZero then flagDZ else 0)) 28
  | 0x2C => if rs2 ≠ 0 then none else (suRm s f3).bind fun rm =>
    let p := a.sqrt
    arith (suRound 0 rm p) ((if isSnan wa then flagNV else 0) ||| (if p.isNan && !a.isNan then flagNV else 0)) 28
  | 0x10 =>
    let sg := wb.getLsbD 31
    let sign := match f3 with | 0 => sg | 1 => !sg | _ => wa.getLsbD 31 != sg
    if 2 < f3 then none else some (s.setF rd (wa.toNat % 2 ^ 31 + if sign then 2 ^ 31 else 0), 1)
  | 0x14 => if 1 < f3 then none else some ((s.setF rd (suMinMax (f3 = 1) wa wb).toNat).raise snan, 4)
  | 0x50 =>
    let nan := a.isNan || b.isNan
    match f3 with
    | 0 => some ((s.set rd (if a.le b then 1 else 0)).raise (if nan then flagNV else 0), 4)
    | 1 => some ((s.set rd (if a.lt b then 1 else 0)).raise (if nan then flagNV else 0), 4)
    | 2 => some ((s.set rd (if a.eq b then 1 else 0)).raise snan, 4)
    | _ => none
  | 0x60 => if 1 < rs2 then none else (suRm s f3).bind fun rm =>
    let r := suToInt rm (rs2 = 0) a
    some ((s.set rd (BitVec.ofNat 32 r.1)).raise r.2, 4)
  | 0x68 => if 1 < rs2 then none else (suRm s f3).bind fun rm =>
    let v := s.get rs1
    arith (suRound 0 rm (Fp.ofInt (if rs2 = 0 then v.toInt else (v.toNat : Int)))) 0 4
  | 0x70 =>
    if rs2 ≠ 0 then none
    else if f3 = 0 then some (s.set rd wa, 1)
    else if f3 = 1 then some (s.set rd (BitVec.ofNat 32 (suClass wa)), 1) else none
  | 0x78 => if rs2 = 0 ∧ f3 = 0 then some (s.setF rd (s.get rs1).toNat, 1) else none
  | _ => none

/-- The RV32IMF instructions that touch no memory: the registers with pc after a word of `len` bytes at pc and its cost; none
where the word is none of them. -/
def suRegOp (s : Su) (w len : Nat) : Option (Su × Nat) :=
  let rd := bitsOf w 11 7
  let f3 := bitsOf w 14 12
  let rs1 := bitsOf w 19 15
  let rs2 := bitsOf w 24 20
  let f7 := bitsOf w 31 25
  let a := s.get rs1
  let b := s.get rs2
  let immI : Int := sext 12 (w / 2 ^ 20)
  let immB : Int := sext 13 (bitsOf w 31 31 * 4096 + bitsOf w 7 7 * 2048 + bitsOf w 30 25 * 32 + bitsOf w 11 8 * 2)
  let immJ : Int := sext 21 (bitsOf w 31 31 * 2 ^ 20 + bitsOf w 19 12 * 4096 + bitsOf w 20 20 * 2048 + bitsOf w 30 21 * 2)
  let next := { s with pc := (s.pc + len) % 2 ^ 32 }
  let jump := fun (t : Int) => codeOf 32 t
  let alu := fun (s : Su) (cost : Nat) => some (s, cost)
  let link := BitVec.ofNat 32 (s.pc + len)
  match w % 128 with
  | 0x37 => alu (next.set rd (BitVec.ofNat 32 (w / 4096 * 4096))) 1
  | 0x17 => alu (next.set rd (BitVec.ofNat 32 (s.pc + w / 4096 * 4096))) 1
  | 0x6F => alu { s.set rd link with pc := jump (s.pc + immJ) } 48
  | 0x67 => if f3 ≠ 0 then none else alu { s.set rd link with pc := jump ((a.toNat : Int) + immI) / 2 * 2 } 48
  | 0x63 => (branchTaken f3 a b).bind fun t => if t then alu { s with pc := jump (s.pc + immB) } 48 else alu next 1
  | 0x13 =>
    let im := BitVec.ofInt 32 immI
    if f3 = 1 then (if f7 = 0 then alu (next.set rd (aluOp 1 false a im)) 1 else none)
    else if f3 = 5 then (if f7 = 0 ∨ f7 = 0x20 then alu (next.set rd (aluOp 5 (f7 = 0x20) a im)) 1 else none)
    else alu (next.set rd (aluOp f3 false a im)) 1
  | 0x33 =>
    if f7 = 1 then alu (next.set rd (mulOp f3 a b)) (if f3 ≤ 3 then 2 else 34)
    else if f7 = 0 ∨ (f7 = 0x20 ∧ (f3 = 0 ∨ f3 = 5)) then alu (next.set rd (aluOp f3 (f7 = 0x20) a b)) 1
    else none
  | 0x0F => if f3 = 0 then alu next 1 else none
  | 0x73 =>
    let n := w / 2 ^ 20
    let v := if 4 ≤ f3 then rs1 else a.toNat
    match csrRead s n, f3 % 4 with
    | some old, 1 => alu ((csrWrite next n v).set rd (BitVec.ofNat 32 old)) 1
    | some old, 2 => alu ((if rs1 = 0 then next else csrWrite next n (old ||| v)).set rd (BitVec.ofNat 32 old)) 1
    | some old, 3 => alu ((if rs1 = 0 then next else csrWrite next n (old - (old &&& v))).set rd (BitVec.ofNat 32 old)) 1
    | _, _ => none
  | 0x53 => (fpOp next f7 f3 rd rs1 rs2).bind fun p => alu p.1 p.2
  | op =>
    if (op = 0x43 ∨ op = 0x47 ∨ op = 0x4B ∨ op = 0x4F) ∧ f7 % 4 = 0 then
      (suRm s f3).bind fun rm =>
        let wa := s.getF rs1
        let wb := s.getF rs2
        let wc := s.getF (w / 2 ^ 27)
        let p := if op = 0x4B ∨ op = 0x4F then (ieee wa).negate else ieee wa
        let q := if op = 0x47 ∨ op = 0x4F then (ieee wc).negate else ieee wc
        let r := suFma rm p (ieee wb) q
        alu ((next.setF rd r.1).raise (r.2 ||| if isSnan wa || isSnan wb || isSnan wc then flagNV else 0)) 4
    else none

/-- One RV32IMF instruction word of `len` bytes at pc; none where the word is none of them. -/
def suExec (c : Fin 8) (s : Su) (x : Cx) (w len : Nat) : Option SuStep :=
  let rd := bitsOf w 11 7
  let f3 := bitsOf w 14 12
  let rs2 := bitsOf w 24 20
  let a := s.get (bitsOf w 19 15)
  let immI : Int := sext 12 (w / 2 ^ 20)
  let immS : Int := sext 12 (bitsOf w 31 25 * 32 + bitsOf w 11 7)
  let next := { s with pc := (s.pc + len) % 2 ^ 32 }
  let ea := fun (i : Int) => codeOf 32 ((a.toNat : Int) + i)
  let op := w % 128
  if op = 0x03 then
    let go := fun (n : Nat) (sg : Bool) =>
      let r := x.suLoad c s (ea immI) n
      some { su := next.set rd (BitVec.ofInt 32 (if sg then sext (8 * n) r.1 else (r.1 : Int))), x := r.2, cost := 48 : SuStep }
    match f3 with | 0 => go 1 true | 1 => go 2 true | 2 => go 4 true | 4 => go 1 false | 5 => go 2 false | _ => none
  else if op = 0x23 then
    if 2 < f3 then none else some { su := next, x := x.suStore c s (ea immS) (2 ^ f3) (s.get rs2).toNat, cost := 48 }
  else if op = 0x07 then
    if f3 ≠ 2 then none
    else
      let r := x.suLoad c s (ea immI) 4
      some { su := next.setF rd r.1, x := r.2, cost := 48 }
  else if op = 0x27 then
    if f3 ≠ 2 then none else some { su := next, x := x.suStore c s (ea immS) 4 (s.getF rs2).toNat, cost := 48 }
  else (suRegOp s w len).map fun p => { su := p.1, x := x, cost := p.2 }

/-- The next instruction of a segment: its word and length, with the code's bytes touched (R137); a 16-bit code that is no
RV32FC instruction gives the word 0, which is no instruction either. -/
def suFetch (c : Fin 8) (s : Su) (x : Cx) : (Nat × Nat) × Cx :=
  let h := x.le (.spad c) s.pc 2
  let x' := x.touch (.mxc c) (.spad c) s.pc (if h % 4 = 3 then 4 else 2)
  if h % 4 = 3 then ((x.le (.spad c) s.pc 4, 4), x') else (((expandC h).getD 0, 2), x')

/-- A word of the four major opcodes that RISC-V keeps for custom instructions: one of the five custom opcodes, whose own
encodings R86 does not give (PRESUMED, log 150). -/
def isCustom (w : Nat) : Bool := [0x0B, 0x2B, 0x5B, 0x7B].contains (w % 128)

/-- How a stretch of a segment ends: at a custom opcode, at a word that is no instruction, or overrun (R86). -/
inductive SuEnd where
  | paused
  | ended
  | overrun
  deriving DecidableEq, Repr

/-- Run a segment until it pauses, ends or overruns; each instruction costs at least one unit, so the units left bound the
steps. A word that is no instruction costs one unit too, so that the segment ends after a bounded number of units whatever its
code does; whether it ends the segment or is passed over is not stated (log 150). A fetch from a bank that is off stops. -/
def suRun (c : Fin 8) : Nat → Su → Cx → Su × Cx × SuEnd
  | 0, s, x => (s, x, .overrun)
  | n + 1, s, x =>
    let f := suFetch c s x
    if f.2.run.status.isSome || f.2.wait then (s, f.2, .ended) else
    match suExec c s f.2 f.1.1 f.1.2 with
    | none =>
      if isCustom f.1.1 then (s, f.2, .paused)
      else if s.unitsMax < s.units + 1 then (s, f.2, .overrun)
      else if Config.suIllegalEnds f.1.1 then (s, f.2, .ended)
      else suRun c n { s with pc := (s.pc + f.1.2) % 2 ^ 32, units := s.units + 1 } f.2
    | some r =>
      if s.unitsMax < s.units + r.cost then (s, f.2, .overrun)
      else suRun c n { r.su with units := s.units + r.cost } r.x

/-- Continue a core's segment; an overrun ends it with its event (the caller records it). -/
def runSegment (c : Fin 8) (x : Cx) : Cx × Bool :=
  let k := x.core c
  let r := suRun c (k.su.unitsMax + 1 - k.su.units) k.su x
  match r.2.2 with
  | .paused => (r.2.1.putCore c { k with su := r.1 }, false)
  | .ended => (r.2.1.putCore c { k with su := Su.idle }, false)
  | .overrun => (r.2.1.putCore c { k with su := Su.idle }, true)

/-- SCALAR starts a segment (R86): frm is RNE, every other register as Config leaves it. -/
def startSegment (c : Fin 8) (w : BitVec 128) (x : Cx) : Cx :=
  x.putCore c { x.core c with su :=
    { active := true, pc := spaByte (fld w 113 96),
      x := Vector.ofFn fun (i : Fin 32) => if i.val = 0 then 0 else Config.suStartReg i.val,
      f := Vector.ofFn fun (i : Fin 32) => Config.suStartReg (32 + i.val), fcsr := 0, wbase := fld w 95 78, wsize := fld w 77 60,
      units := 0, unitsMax := fld w 59 40 } }

/-- A custom opcode at a paused segment (R86): it costs one unit; past UNITS_MAX the segment overruns instead. -/
def customOp (c : Fin 8) (body : Su → Su) (x : Cx) : Cx × Bool :=
  let k := x.core c
  if k.su.unitsMax < k.su.units + 1 then (x.putCore c { k with su := Su.idle }, true)
  else
    let len := if x.le (.spad c) k.su.pc 2 % 4 = 3 then 4 else 2
    let s := body { k.su with pc := (k.su.pc + len) % 2 ^ 32, units := k.su.units + 1 }
    let x := x.putCore c { k with su := s }
    if s.active then runSegment c x else (x, false)

/-- SEG_END ends the segment. -/
def segEnd (_ : Su) : Su := Su.idle

/-- A narrow code in a float register: the bits above it are ones, as RISC-V boxes narrow values (DEDUCED, log 98). -/
def boxed (bits code : Nat) : Nat := 2 ^ 32 - 2 ^ bits + code

/-- FCVT.BF16.S and FCVT.E4M3.S: FP32 to a narrow format under frm; a reserved frm rounds as RNE (DESIGN CHOICE, log 148). -/
def fcvtTo (fmt bits : Nat) (rd rs : Fin 32) (s : Su) : Su :=
  let r := suRound fmt ((suRm s 7).getD 0) (ieee (s.getF rs.val))
  (s.setF rd.val (boxed bits r.1)).raise (r.2 ||| if isSnan (s.getF rs.val) then flagNV else 0)

/-- FCVT.S.BF16 and FCVT.S.E4M3: a narrow code to FP32, exact. -/
def fcvtFrom (fmt : Nat) (rd rs : Fin 32) (s : Su) : Su :=
  let code := (s.getF rs.val).toNat % 2 ^ fmtBits fmt
  let v := if fmt = 2 then ieee (BitVec.ofNat 32 (code * 2 ^ 16)) else fmtValue fmt code
  s.setF rd.val (suRound 0 0 v).1

end Sys2Proof.Machine
end

