-- ==== Sys2Proof/Machine/Sequencer.lean ====
section
/-! DEFINITION. The core sequencer (R69, R91): which commit unit an instruction belongs to, ring waits (R45, R46, R50, R467),
DMA (R89, R131), gathers (R151-R154), semaphores (R93), golden and coppice steps (R57, R60), and the rows of Table 4.8. -/

namespace Sys2Proof.Machine

/-! ### The context of a commit unit -/

/-- A run in the state's fabric. -/
def State.cx (run : Run) (s : State) : Cx :=
  { fab := s.fab, run := run, mss := s.mss, usable := s.pwr.usable, rising := s.pwr.opening, wait := false, qm := false, barBanks := s.ctr.banks, barSegs := s.ctr.segs,
    lent := [], cores := 0xFF, aperture := none, used := [], free := s.freeCtr, stats := [], pwr := s.pwr, vtime := s.vnow, clock := s.now, cls := 0xFF }

/-- The QM command's run: what its client was lent (R271), its core set and its cache aperture. -/
def State.cxQm (q : QmRun) (s : State) : Cx :=
  let job := s.cpx.job? q.pkt.ring
  { s.cx q.run with
    qm := true, cores := q.cores.toNat, lent := q.lent,
    aperture := match job with | some j => if j.cache then some j.aperture else none | none => none }

/-- What a run left: the fabric, the free values used, and its statistics; nothing where it waits for a domain that is
switching on (R137). -/
def State.cxBack (x : Cx) (s : State) : State :=
  if x.wait then s else x.stats.foldl (fun s e => s.countErr e.1 e.2.1 e.2.2) { s with fab := x.fab, freeCtr := x.free }

/-- A new run of a commit unit, with what the rate monitors have counted by now. -/
def Run.start (kind ident now : Nat) (waves : List Nat) : Run :=
  { Run.idle with active := true, kind := kind, ident := ident, started := now, waves0 := waves }

/-- A core at the start of a commit unit: no weights, no drain settings (R72). -/
def Core.fresh (k : Core) : Core :=
  { k with weights := Vector.replicate 8 WeightTile.empty, drainCfg := Vector.replicate 4 none, su := Su.idle }

/-- The step of a unit that holds position `idx` of its stream or program (R43). -/
def Contract.stepOf (a : Contract) (unit idx : Nat) : Option StepEntry :=
  (a.steps.filter fun e => e.unit = unit && decide (e.streamOffset ≤ idx)).foldl
    (fun b e => match b with
      | some p => if p.streamOffset < e.streamOffset ∨ (p.streamOffset = e.streamOffset ∧ p.id < e.id) then some e else b
      | none => some e) none

/-- The instruction that a core's stream has at its sequencer's place. -/
def Contract.instrAt (a : Contract) (core idx : Nat) : Option (BitVec 128) :=
  match a.streams.find? fun p => p.1 = core with | some p => p.2[idx]? | none => none

/-! ### Rings -/

/-- The byte that a ring reference names (R467, R49, R50): a write counts from the unit's next fill, a read from its next
release. -/
def Contract.ringAt (a : Contract) (p : Prog) (wr : Bool) (r o : Nat) : Option (Space × Nat) :=
  match a.rings[r]?, p.rings[r]? with
  | some e, some st =>
    match e.kind with
    | 2 => st.bound.map fun b => (.dram, b.2 + o)
    | 3 => (a.tilePlace (p.frame % 2) 0).map fun q => (q.1, q.2 + o)
    | 4 => (a.objPlace (p.frame % 2)).map fun q => (q.1, q.2 + o)
    | _ =>
      let c := if wr then st.nextFill else st.nextRel
      a.slotPlace e ((c + o / e.slotSize) % e.slotCount) (o % e.slotSize)
  | _, _ => none

/-- An access touches a byte of a range. -/
def Acc.touches (x : Acc) (sp : Space) (addr len : Nat) : Bool := x.overlaps { wr := false, sp := sp, addr := addr, len := len }

/-- A ring makes the access wait: a write into a full slot of the unit's own ring, or a read of an empty slot that it
consumes (R45, R46); for EMT's rings, a tile or object list not yet emitted (R50). -/
def State.ringBlocks (a : Contract) (unit : Nat) (x : Acc) (s : State) (i : Nat) (e : RingEntry) : Bool :=
  let par := s.ctr.prog.frame % 2
  match e.kind with
  | 2 => false
  | 3 => x.wr && e.producer = unit && s.emt.full.any fun t => t.1 = par &&
      (match a.tilePlace par t.2 with | some q => x.touches q.1 q.2 256 | none => false)
  | 4 => x.wr && e.producer = unit && s.emt.objFull.contains par &&
      (match a.objPlace par with | some q => x.touches q.1 q.2 e.slotSize | none => false)
  | _ =>
    match s.ctr.prog.rings[i]? with
    | none => false
    | some st => (st.full.zipIdx).any fun f =>
      (if x.wr then decide (e.producer = unit) && f.1 else decide (e.consumer = unit) && !f.1) &&
        (match a.slotPlace e f.2 0 with | some q => x.touches q.1 q.2 e.slotSize | none => false)

/-- Every access of an instruction may go ahead. -/
def State.ringsReady (a : Contract) (unit : Nat) (accs : List Acc) (s : State) : Bool :=
  accs.all fun x => (a.rings.zipIdx).all fun r => !s.ringBlocks a unit x r.2 r.1

/-! ### Ending a QM command -/

/-- A QM command ends before its commit (R137, R146, R286 and others): nothing of it stays, and its job goes on (R280). -/
def State.endQm (q : QmRun) (st dt : Nat) (s : State) : State :=
  let kills := s.cpx.kills
  let s := s.discardQm
  let s := s.answerKills (if kills.isEmpty then 0 else 2)
  (s.reply q.pkt st dt 0).boundary

/-- A job holds the banks and segments that its commands have used (R285). -/
def Cpx.holdUsed (c : Cpx) (ring : Nat) (banks segs : List Nat) : Cpx :=
  match c.job? ring with
  | some j => c.putJob { j with banks := (j.banks ++ banks).eraseDups, segs := (j.segs ++ segs).eraseDups }
  | none => c

/-- A QM run after some of its work: a status ends the command. -/
def State.qmBack (q : QmRun) (x : Cx) (s : State) : State :=
  if x.wait then s else
  let s := s.cxBack x
  let q := { q with run := x.run }
  let s := s.onCpx fun c => { c.holdUsed q.pkt.ring (x.used.filter fun b => decide (b < 64)) ((x.used.filter fun b => decide (64 ≤ b)).map fun b => b - 64)
                              with qm := some q }
  match x.run.status with
  | some st => s.endQm q st (if st = stBadParam then 0xFFFF else 0)
  | none => s

/-! ### One instruction -/

/-- An overrun of a segment is an event (R86). -/
def State.overrun (c : Fin 8) (ident : Nat) (b : Bool) (s : State) : State := if b then s.note 0x2005 sevWarning c.val ident 0 0 else s

/-- What an instruction does: the run after it, whether it is complete, and whether a segment overran. -/
structure Did where
  x    : Cx
  done : Bool
  ovf  : Bool

/-- A complete instruction. -/
def did (x : Cx) : Did := { x := x, done := true, ovf := false }

/-- An instruction of the armed contract's stream of core `c` (R69, R91). -/
def State.frameInstr (a : Contract) (c : Fin 8) (w : BitVec 128) (body : RingAt → Cx → Did) (s : State) : State :=
  let k := s.fab.cores.get c
  match a.instrAt c.val k.csq, a.stepOf c.val k.csq with
  | some w', some e =>
    if w' ≠ w || !(k.run.active || s.unitReady (.mxc c)) then s else
    let ringAt : RingAt := fun wr r o => a.ringAt s.ctr.prog wr r o
    let k0 := if k.run.active then k else k.fresh
    let run := if k.run.active then k.run else Run.start 0 e.id s.now s.waveNow
    let x := { (s.cx run).putCore c k0 with cls := seqClass w }
    if !s.ringsReady a c.val (seqAcc x.rd c k0 ringAt w) then s else
    let r := body ringAt x
    let k1 := r.x.core c
    let x := r.x.putCore c { k1 with run := r.x.run, csq := if r.done then k1.csq + 1 else k1.csq }
    (s.cxBack x).overrun c e.id (r.ovf && !x.wait)
  | _, _ => s

/-- An instruction that a command's stream may hold (R88, R89, R92, R93, R286): a Pleach send goes to a core of the set, into
banks that the job holds there. -/
def seqAllowedQm (cores : BitVec 8) (banks : List Nat) (c : Fin 8) (w : BitVec 128) : Bool :=
  seqOk true w &&
    (if seqClass w = 8 && fld w 95 92 = 2 then
      let d := pleachTo c (fld w 91 91)
      cores.getLsbD d.val && (banksOf (fld w 63 40) (max 1 (64 * fld w 19 0))).all fun b => decide (b < 8) && banks.contains (8 * d.val + b)
    else true)

/-- The stream of a command's operator contract for a core. -/
def QmRun.stream (q : QmRun) (c : Fin 8) : Option (List (BitVec 128)) := (q.streams.find? fun p => p.1 = c.val).map fun p => p.2

/-- The instruction that a command's stream has at its place on core `c`. -/
def State.qmAt (q : QmRun) (c : Fin 8) (s : State) : Option (BitVec 128) := (q.stream c).bind fun l => l[(s.fab.cores.get c).csq]?

/-- An instruction of the running command's stream on core `c` (R280). -/
def State.qmInstr (q : QmRun) (c : Fin 8) (w : BitVec 128) (body : RingAt → Cx → Did) (s : State) : State :=
  if s.qmAt q c ≠ some w then s
  else
    let r := body (fun _ _ _ => none) { s.cxQm q with cls := seqClass w }
    let k1 := r.x.core c
    let x := r.x.putCore c { k1 with csq := if r.done then k1.csq + 1 else k1.csq }
    (s.qmBack q x).overrun c q.run.ident (r.ovf && !x.wait)

/-- The core can take its next instruction: not halted, no segment under way, no WAIT pending. -/
def Core.free (k : Core) (waiting : List (Nat × Nat × Nat)) (c : Fin 8) : Bool :=
  !k.halted && !k.su.active && !waiting.any fun p => p.1 = c.val

/-- One instruction of class `cls` on core `c`: of the frame program, or of the running command's stream. -/
def State.coreInstr (c : Fin 8) (cls : Nat) (w : BitVec 128) (body : RingAt → Cx → Did) (s : State) : State :=
  if !(s.pins.rstN && decide (seqClass w = cls)) then s else
  let k := s.fab.cores.get c
  match s.cpx.qm with
  | some q => if q.cores.getLsbD c.val && !q.run.done && k.free q.run.waiting c then s.qmInstr q c w body else s
  | none =>
    match s.ctr.armed with
    | some a => if s.ctr.prog.running && k.free k.run.waiting c then s.frameInstr a c w body else s
    | none => s

/-! ### HALT -/

/-- HALT (R91): the core's stream ends for this frame or command. It follows the last commit, so it also runs after the
frame program's end. -/
def doHalt (c : Fin 8) (w : BitVec 128) (s : State) : State :=
  if !(s.pins.rstN && decide (seqClass w = 0)) then s else
  let k := s.fab.cores.get c
  let stop := s.onFab fun f => { f with cores := f.cores.set c { k with halted := true } }
  match s.cpx.qm with
  | some q => if q.cores.getLsbD c.val && k.free q.run.waiting c && s.qmAt q c = some w then stop else s
  | none =>
    match s.ctr.armed with
    | some a => if k.free k.run.waiting c && !k.run.active && a.instrAt c.val k.csq = some w then stop else s
    | none => s
/-- HALT (R91). -/
def execHalt (c : Fin 8) (w : BitVec 128) (s : State) : Out := .next (doHalt c w s)

/-! ### Arrays, VU and SU -/

/-- LOADW (R72). -/
def doLoadw (c : Fin 8) (w : BitVec 128) (s : State) : State := s.coreInstr c 0x1 w fun _ x => did (runLoadw c w x)
/-- LOADW (R72). -/
def execLoadw (c : Fin 8) (w : BitVec 128) (s : State) : Out := .next (doLoadw c w s)
/-- MMA (R73). -/
def doMma (c : Fin 8) (w : BitVec 128) (s : State) : State := s.coreInstr c 0x2 w fun _ x => did (runMma c w x)
/-- MMA (R73). -/
def execMma (c : Fin 8) (w : BitVec 128) (s : State) : Out := .next (doMma c w s)
/-- CONV (R76). -/
def doConv (c : Fin 8) (w : BitVec 128) (s : State) : State := s.coreInstr c 0x3 w fun _ x => did (runConv c w x)
/-- CONV (R76). -/
def execConv (c : Fin 8) (w : BitVec 128) (s : State) : Out := .next (doConv c w s)
/-- DRAIN (R79). -/
def doDrain (c : Fin 8) (w : BitVec 128) (s : State) : State := s.coreInstr c 0x4 w fun _ x => did (runDrain c w x)
/-- DRAIN (R79). -/
def execDrain (c : Fin 8) (w : BitVec 128) (s : State) : Out := .next (doDrain c w s)
/-- VOP (R92). -/
def doVop (c : Fin 8) (w : BitVec 128) (s : State) : State := s.coreInstr c 0x5 w fun _ x => did (runVop c w x)
/-- VOP (R92). -/
def execVop (c : Fin 8) (w : BitVec 128) (s : State) : Out := .next (doVop c w s)

/-- SCALAR (R86): the segment starts and runs to its first custom opcode. -/
def doScalar (c : Fin 8) (w : BitVec 128) (s : State) : State :=
  s.coreInstr c 0x6 w fun _ x =>
    let r := runSegment c (startSegment c w x)
    { x := r.1, done := true, ovf := r.2 }
/-- SCALAR (R86). -/
def execScalar (c : Fin 8) (w : BitVec 128) (s : State) : Out := .next (doScalar c w s)

/-- A custom opcode of the segment that core `c` runs (R86). -/
def State.customInstr (c : Fin 8) (body : Su → Su) (s : State) : State :=
  let k := s.fab.cores.get c
  if !(s.pins.rstN && k.su.active) then s else
  match s.cpx.qm with
  | some q =>
    let r := customOp c body { s.cxQm q with cls := 6 }
    (s.qmBack q r.1).overrun c q.run.ident (r.2 && !r.1.wait)
  | none =>
    let r := customOp c body { s.cx k.run with cls := 6 }
    let k1 := r.1.core c
    (s.cxBack (r.1.putCore c { k1 with run := r.1.run })).overrun c k.run.ident (r.2 && !r.1.wait)

/-- SEG_END (R86). -/
def doSegEnd (c : Fin 8) (s : State) : State := s.customInstr c segEnd
/-- SEG_END (R86). -/
def execSegEnd (c : Fin 8) (s : State) : Out := .next (doSegEnd c s)
/-- FCVT.BF16.S (R86). -/
def doFcvtBf16S (c : Fin 8) (rd rs : Fin 32) (s : State) : State := s.customInstr c (fcvtTo 2 16 rd rs)
/-- FCVT.BF16.S (R86). -/
def execFcvtBf16S (c : Fin 8) (rd rs : Fin 32) (s : State) : Out := .next (doFcvtBf16S c rd rs s)
/-- FCVT.S.BF16 (R86). -/
def doFcvtSBf16 (c : Fin 8) (rd rs : Fin 32) (s : State) : State := s.customInstr c (fcvtFrom 2 rd rs)
/-- FCVT.S.BF16 (R86). -/
def execFcvtSBf16 (c : Fin 8) (rd rs : Fin 32) (s : State) : Out := .next (doFcvtSBf16 c rd rs s)
/-- FCVT.E4M3.S (R86). -/
def doFcvtE4m3S (c : Fin 8) (rd rs : Fin 32) (s : State) : State := s.customInstr c (fcvtTo 3 8 rd rs)
/-- FCVT.E4M3.S (R86). -/
def execFcvtE4m3S (c : Fin 8) (rd rs : Fin 32) (s : State) : Out := .next (doFcvtE4m3S c rd rs s)
/-- FCVT.S.E4M3 (R86). -/
def doFcvtSE4m3 (c : Fin 8) (rd rs : Fin 32) (s : State) : State := s.customInstr c (fcvtFrom 3 rd rs)
/-- FCVT.S.E4M3 (R86). -/
def execFcvtSE4m3 (c : Fin 8) (rd rs : Fin 32) (s : State) : Out := .next (doFcvtSE4m3 c rd rs s)

/-! ### DMA -/

/-- DMA_IN (R91): the far bytes arrive in the scratchpad. -/
def runDmaIn (c : Fin 8) (ringAt : RingAt) (w : BitVec 128) (x : Cx) : Cx :=
  let r := x.readP (.mxc c) (dmaRemote c ringAt w)
  r.2.write (.mxc c) (.spad c) (spaByte (fld w 113 96)) r.1

/-- DMA_IN (R91). -/
def doDmaIn (c : Fin 8) (w : BitVec 128) (s : State) : State := s.coreInstr c 0x7 w fun ringAt x => did (runDmaIn c ringAt w x)
/-- DMA_IN (R91). -/
def execDmaIn (c : Fin 8) (w : BitVec 128) (s : State) : Out := .next (doDmaIn c w s)

/-- The credit counter of a Pleach link's sending end: core, link and virtual channel (R87). -/
def creditIdx (c link vc : Nat) : Nat := 4 * c + 2 * link + vc

/-- A link carries traffic: PD(4c+2) is on at both ends, and its virtual channel holds a credit (R87, R88). -/
def Cx.linkOpen (c : Fin 8) (link : Nat) (x : Cx) : Bool :=
  x.usable.getLsbD (4 * c.val + 2) && x.usable.getLsbD (4 * (pleachTo c link).val + 2) &&
    decide (0 < vget x.fab.credits (creditIdx c.val link (if x.qm then 1 else 0)) 0)

/-- A credit is taken for a flit on a link (R87); the run holds it until the receiving port returns it (Table 1.3). -/
def Cx.takeCredit (i : Nat) (x : Cx) : Cx :=
  { x with fab := { x.fab with credits := vset x.fab.credits i (vget x.fab.credits i 0 - 1) }, run := { x.run with credits := i :: x.run.credits } }
/-- The receiving port has written the flit and returns its credit. -/
def Cx.giveCredit (i : Nat) (x : Cx) : Cx :=
  { x with fab := x.fab.giveCredit i, run := { x.run with credits := x.run.credits.erase i } }

/-- The bytes of a Pleach send: flit by flit under one credit, each written by the receiving port before the next is sent (R87;
DESIGN CHOICE, log 158). -/
def Cx.sendPleach (c : Fin 8) (link : Nat) (far : List Piece) (bs : List Byte) (x : Cx) : Cx :=
  let i := creditIdx c.val link (if x.qm then 1 else 0)
  if bs.isEmpty then x else ((x.takeCredit i).writeP (.mxc c) far bs).giveCredit i

/-- DMA_OUT (R89, R91, R131): to SB, LPDDR5X, a Pleach neighbour, host memory (held until the commit, at most 1 MiB, R264), or a cache flush. -/
def runDmaOut (c : Fin 8) (ringAt : RingAt) (w : BitVec 128) (x : Cx) : Did :=
  let n := 64 * fld w 19 0
  let tg := fld w 95 92
  let spa := fld w 113 96
  if tg = 1 && spa = spaNone && fld w 39 20 = ringNone then did (x.flush c (fld w 91 40) n)
  else if tg = 2 && !x.linkOpen c (fld w 91 91) then { x := x, done := false, ovf := false }
  else
    let r := x.read (.mxc c) (.spad c) (spaByte spa) n
    if tg = 3 then
      if 2 ^ 20 < ((r.2.run.hostWrites.map fun p => p.2.length).sum + n) then did (r.2.stop stNoResource) else
      did { r.2 with run := { r.2.run with hostWrites := r.2.run.hostWrites ++ [(fld w 91 40, r.1)] } }
    else if tg = 2 then did (r.2.sendPleach c (fld w 91 91) (dmaRemote c ringAt w) r.1)
    else did (r.2.writeP (.mxc c) (dmaRemote c ringAt w) r.1)

/-- DMA_OUT (R89). -/
def doDmaOut (c : Fin 8) (w : BitVec 128) (s : State) : State := s.coreInstr c 0x8 w fun ringAt x => runDmaOut c ringAt w x
/-- DMA_OUT (R89). -/
def execDmaOut (c : Fin 8) (w : BitVec 128) (s : State) : Out := .next (doDmaOut c w s)

/-! ### Gathers -/

/-- An index entry by IDX_FMT (Table 6.6). -/
def idxValue (f v : Nat) : Int := match f with | 0 => sext 32 v | 1 => sext 16 v | _ => (v : Int)

/-- A table row of a gather: by the core's cache in cache mode (R129), else direct. -/
def Cx.gatherRow (u : UnitId) (cache : Option (Fin 8)) (sp : Space) (a n : Nat) (x : Cx) : List Byte × Cx :=
  match cache, sp with
  | some c, .dram => if (x.fab.caches.get c).isSome then x.cacheRead c a n else x.read u sp a n
  | _, _ => x.read u sp a n

/-- A gather (R152): element `j` from table row index[j]; an index out of range gives FILL and is counted. -/
def Cx.gather (u : UnitId) (cache : Option (Fin 8)) (g : Gather) (x : Cx) : Cx :=
  let fmt := x.le g.indexSp (g.index + 4) 1
  let rows := x.le g.indexSp g.index 4
  let fill := x.get g.indexSp (g.index + 5)
  let x := x.touch u g.indexSp g.index (64 + g.count * idxBytes fmt)
  let bad := x.qm && (match g.tableSp with
    | .sb => !sbRange g.table (rows * g.stride)
    | _ => decide (g.table % 64 ≠ 0))
  if bad then x.stop stBadParam
  else (List.range g.count).foldl (fun x j =>
    if !x.live then x else
    let i := idxValue fmt (x.le g.indexSp (g.index + 64 + j * idxBytes fmt) (idxBytes fmt))
    let pad := List.replicate (g.stride - g.elem) 0#8
    if i < 0 ∨ (rows : Int) ≤ i then
      (x.count (unitErrRow u) colGatherOor 1).write u g.dstSp (g.dst + j * g.stride) (List.replicate g.elem fill ++ pad)
    else
      let r := x.gatherRow u cache g.tableSp (g.table + i.toNat * g.stride) g.elem
      r.2.write u g.dstSp (g.dst + j * g.stride) (r.1 ++ pad)) x

/-- GATHER (R151-R153). -/
def doGather (c : Fin 8) (w : BitVec 128) (s : State) : State :=
  s.coreInstr c 0x9 w fun _ x =>
    if x.qm && !x.usable.getLsbD 42 then did (x.stop stNoResource) else did (x.gather (.mxc c) (some c) (seqGather c w))
/-- GATHER (R152). -/
def execGather (c : Fin 8) (w : BitVec 128) (s : State) : Out := .next (doGather c w s)

/-! ### Semaphores -/

/-- What this run sees of a semaphore: its own posts at once (R93). -/
def Cx.sem (x : Cx) (n : Nat) : Nat := satU 32 (x.fab.sem n + ((x.run.posts.filter fun p => p.1 = n).map fun p => p.2).sum)

/-- Take `c` from a semaphore, from the run's own posts first; what comes from the shared value returns if the run is
killed or replayed (R93). -/
def Cx.acquire (n c : Nat) (x : Cx) : Cx :=
  let own := ((x.run.posts.filter fun p => p.1 = n).map fun p => p.2).sum
  let rest := x.run.posts.filter fun p => p.1 ≠ n
  if c ≤ own then { x with run := { x.run with posts := (n, own - c) :: rest } }
  else { x with fab := x.fab.putSem n (x.fab.sem n - (c - own)),
                run := { x.run with posts := rest, acquired := (n, c - own) :: x.run.acquired } }

/-- A WAIT joins those that wait on a semaphore. -/
def Cx.join (c : Fin 8) (n k : Nat) (x : Cx) : Cx :=
  { x with fab := { x.fab with waiters := x.fab.waiters ++ [(n, c.val)] }, run := { x.run with waiting := (c.val, n, k) :: x.run.waiting } }

/-- The core whose WAIT reached a semaphore's arbiter first, of those still there. -/
def Fab.firstWaiter (f : Fab) (n : Nat) : Option Nat := (f.waiters.find? fun p => p.1 = n).map fun p => p.2

/-- WAIT (R93): it acquires at once where no earlier WAIT is at the semaphore's arbiter, or waits without a time limit. -/
def doWait (c : Fin 8) (w : BitVec 128) (s : State) : State :=
  s.coreInstr c 0xA w fun _ x =>
    let n := fld w 113 98
    let k := fld w 97 82
    if k ≤ x.sem n && (x.fab.firstWaiter n).isNone then did (x.acquire n k) else { x := x.join c n k, done := false, ovf := false }
/-- WAIT (R93). -/
def execWait (c : Fin 8) (w : BitVec 128) (s : State) : Out := .next (doWait c w s)

/-- The run after a waiting core's WAIT is satisfied; none where it is not, or where an earlier WAIT is before it (R93). -/
def Cx.satisfied (c : Fin 8) (x : Cx) : Option Cx :=
  match x.run.waiting.find? fun p => p.1 = c.val with
  | none => none
  | some (_, n, k) =>
    if k ≤ x.sem n && x.fab.firstWaiter n = some c.val then
      let x := { x with fab := { x.fab with waiters := x.fab.waiters.erase (n, c.val) }, run := { x.run with waiting := x.run.waiting.filter fun p => p.1 ≠ c.val } }
      let q := x.core c
      some ((x.acquire n k).putCore c { q with csq := q.csq + 1 })
    else none

/-- WAIT_SATISFIED (R93). -/
def doWaitSatisfied (c : Fin 8) (s : State) : State :=
  if !s.pins.rstN then s else
  match s.cpx.qm with
  | some q => match (s.cxQm q).satisfied c with | some x => s.qmBack q x | none => s
  | none =>
    match (s.cx (s.fab.cores.get c).run).satisfied c with
    | some x => s.cxBack (x.putCore c { x.core c with run := x.run })
    | none => s
/-- WAIT_SATISFIED (R93). -/
def execWaitSatisfied (c : Fin 8) (s : State) : Out := .next (doWaitSatisfied c s)

/-- POST (R93): provisional until the commit. -/
def doPost (c : Fin 8) (w : BitVec 128) (s : State) : State :=
  s.coreInstr c 0xB w fun _ x => did { x with run := { x.run with posts := x.run.posts ++ [(fld w 113 98, fld w 97 82)] } }
/-- POST (R93). -/
def execPost (c : Fin 8) (w : BitVec 128) (s : State) : Out := .next (doPost c w s)

/-! ### GOLDEN and COPPICE -/

/-- GOLDEN (R57): names the output whose CRC-64 the commit compares. -/
def doGolden (c : Fin 8) (w : BitVec 128) (s : State) : State :=
  s.coreInstr c 0xD w fun _ x => did { x with run := { x.run with golden := some (spaByte (fld w 113 96), 64 * fld w 95 76) } }
/-- GOLDEN (R57). -/
def execGolden (c : Fin 8) (w : BitVec 128) (s : State) : Out := .next (doGolden c w s)

/-- COPPICE (R60, R345): the step that the MSS selected runs its unit's slice, any other nothing. -/
def doCoppice (c : Fin 8) (w : BitVec 128) (digestOk : Bool) (signature : Option DWord) (restoreFail : Bool) (s : State) : State :=
  let k := s.fab.cores.get c
  let s' := s.coreInstr c 0xE w fun _ x => did x
  let k' := s'.fab.cores.get c
  if k'.csq ≠ k.csq && s'.evr.coppiceStep = some k'.run.ident then s'.runSlice c.val digestOk signature restoreFail else s'
/-- COPPICE (R60). -/
def execCoppice (c : Fin 8) (w : BitVec 128) (digestOk : Bool) (signature : Option DWord) (restoreFail : Bool) (s : State) : Out :=
  .next (doCoppice c w digestOk signature restoreFail s)

end Sys2Proof.Machine
end

