-- ==== Sys2Proof/Machine/OpCommon.lean ====
section
/-! DEFINITION. Operator records (R158-R163, Tables 7.1-7.3): reading a record, tensors and their layouts, expanding
elements to FP32 (R172), array products in passes (R165, R170), and writing an output under R110. -/

namespace Sys2Proof.Machine

/-! ### Records -/

/-- A tensor descriptor (Table 7.2); `ring` holds the ring and offset of a SPACE of 2, `scaleSp` the header's space. -/
structure Tensor where
  present : Bool
  space  : Nat
  sp     : Space
  addr   : Nat
  fmt    : Nat
  layout : Nat
  rank   : Nat
  dims   : List Nat
  scale  : Option (Space × Nat)
  ring   : Option (Nat × Nat)
  deriving DecidableEq, Repr

/-- No tensor. -/
def Tensor.absent : Tensor :=
  { present := false, space := 0, sp := .dram, addr := 0, fmt := 0, layout := 0, rank := 0, dims := [], scale := none, ring := none }

/-- An operator record (Table 7.1). -/
structure OpRec where
  op      : Nat
  version : Nat
  ntensor : Nat
  psize   : Nat
  flags   : Nat
  convert : Nat
  seed    : Nat
  tensors : List Tensor
  params  : List Byte
  reserved : Nat
  deriving DecidableEq, Repr

/-- All ones, 64 bits. -/
abbrev ones64 : Nat := 0xFFFFFFFFFFFFFFFF

/-- Read a tensor descriptor. A ring's tensor has its scale header in SB (Table 7.2 names no other space for it). -/
def readTensor (rd : Reader) (sp : Space) (a : Nat) : Tensor :=
  let addr := rd sp a 8
  let space := rd sp (a + 8) 1
  let rank := rd sp (a + 0xB) 1
  let sc := rd sp (a + 0x10) 8
  { present := decide (addr ≠ ones64), space := space, sp := if space = 0 then .dram else .sb, addr := addr, fmt := rd sp (a + 9) 1,
    layout := rd sp (a + 0xA) 1, rank := rank, dims := (List.range (min rank 8)).map fun i => rd sp (a + 0x18 + 4 * i) 4,
    scale := if sc = ones64 then none else some (if space = 0 then .dram else .sb, sc),
    ring := if space = 2 then some (addr / 2 ^ 32 % 2 ^ 20, addr % 2 ^ 32) else none }

/-- What must read zero in a descriptor: its reserved bytes, and the dimensions from RANK on (Table 7.2). -/
def tensorZeros (rd : Reader) (sp : Space) (a : Nat) : Nat :=
  rd sp (a + 0xC) 4 + rd sp (a + 0x38) 8 + rd sp (a + 0x18 + 4 * min (rd sp (a + 0xB) 1) 8) (32 - 4 * min (rd sp (a + 0xB) 1) 8)

/-- Read a record (Table 7.1). -/
def readRec (rd : Reader) (sp : Space) (a : Nat) : OpRec :=
  let u := fun (o n : Nat) => rd sp (a + o) n
  let nt := u 3 1
  let ps := u 4 2
  let pa := a + 32 + 64 * nt
  { op := u 0 2, version := u 2 1, ntensor := nt, psize := ps, flags := u 6 1, convert := u 7 1, seed := u 8 2,
    tensors := (List.range nt).map fun i => readTensor rd sp (a + 32 + 64 * i),
    params := leBytes ps (rd sp pa ps),
    reserved := u 0xA 22 + ((List.range nt).map fun i => tensorZeros rd sp (a + 32 + 64 * i)).sum }

/-- What an operator's results depend on beside its tensors' contents (R20): no address of a record or a tensor. -/
def OpRec.key (r : OpRec) : List Nat :=
  [r.op, r.convert] ++ r.params.map (fun b => b.toNat) ++ r.tensors.flatMap fun t => [if t.present then 1 else 0, t.fmt, t.layout] ++ t.dims
/-- Bytes of a record. -/
def OpRec.size (r : OpRec) : Nat := 32 + 64 * r.ntensor + r.psize
/-- A little-endian parameter field. -/
def OpRec.p (r : OpRec) (off n : Nat) : Nat := leNat ((r.params.drop off).take n)
/-- An f32 parameter. -/
def OpRec.f (r : OpRec) (off : Nat) : Fp := f32 (r.p off 4)
/-- Tensor `i`. -/
def OpRec.t (r : OpRec) (i : Nat) : Tensor := r.tensors.getD i Tensor.absent
/-- ROUND of CONVERT. -/
def OpRec.round (r : OpRec) : Nat := r.convert % 4
/-- NONSAT of CONVERT. -/
def OpRec.nonsat (r : OpRec) : Bool := r.convert / 4 % 2 = 1

/-! ### Layout -/

/-- Dimension `i`; 1 beyond the rank. -/
def Tensor.dim (t : Tensor) (i : Nat) : Nat := t.dims.getD i 1
/-- Innermost dimension `i` places from the end; 1 for a missing outer one. -/
def Tensor.inner (t : Tensor) (i : Nat) : Nat := t.dims.reverse.getD i 1
/-- Logical elements. -/
def Tensor.count (t : Tensor) : Nat := t.dims.foldl (· * ·) 1
/-- CW of a channel-blocked tensor. -/
def Tensor.cw (t : Tensor) : Nat := blockWidth t.fmt
/-- CB of a channel-blocked tensor. -/
def Tensor.cb (t : Tensor) : Nat := cdiv (t.dim 1) t.cw
/-- Stored elements (R159). -/
def Tensor.stored (t : Tensor) : Nat := if t.layout = 1 then t.dim 0 * t.cb * t.dim 2 * t.dim 3 * t.cw else t.count
/-- Stored bytes. -/
def Tensor.bytes (t : Tensor) : Nat := fmtBytes t.fmt t.stored
/-- Elements of one stored row: the innermost dimension, or one channel block. -/
def Tensor.rowLen (t : Tensor) : Nat := if t.layout = 1 then t.cw else t.inner 0

/-- Row-major index of coordinates. -/
def ravel : List Nat → List Nat → Nat
  | _ :: ds, c :: cs => c * ds.foldl (· * ·) 1 + ravel ds cs
  | _, _ => 0
/-- Coordinates of a row-major index. -/
def unravel : List Nat → Nat → List Nat
  | [], _ => []
  | _ :: ds, i => let n := ds.foldl (· * ·) 1; i / n :: unravel ds (i % n)

/-- The stored index of logical coordinates (R76, R159). -/
def Tensor.at (t : Tensor) (c : List Nat) : Nat :=
  if t.layout = 1 then
    let g := fun i => c.getD i 0
    (((g 0 * t.cb + g 1 / t.cw) * t.dim 2 + g 2) * t.dim 3 + g 3) * t.cw + g 1 % t.cw
  else ravel t.dims c

/-- The logical coordinates of a stored element; none for a padding channel (R159). -/
def Tensor.coords (t : Tensor) (i : Nat) : Option (List Nat) :=
  if t.layout = 1 then
    let q := unravel [t.dim 0, t.cb, t.dim 2, t.dim 3, t.cw] i
    let ch := q.getD 1 0 * t.cw + q.getD 4 0
    if ch < t.dim 1 then some [q.getD 0 0, ch, q.getD 2 0, q.getD 3 0] else none
  else some (unravel t.dims i)

/-- The channel of coordinates: C of a channel-blocked tensor, else the innermost dimension (DEDUCED, log 104). -/
def Tensor.chan (t : Tensor) (c : List Nat) : Nat := if t.layout = 1 then c.getD 1 0 else c.getLastD 0
/-- The row of coordinates, for per-row scales. -/
def Tensor.row (t : Tensor) (i : Nat) : Nat := if t.rowLen = 0 then 0 else i / t.rowLen
/-- The block scale of a stored element: blocks of 32 along a row. -/
def Tensor.blk (t : Tensor) (i : Nat) : Nat := if t.rowLen = 0 then 0 else i / t.rowLen * cdiv t.rowLen 32 + i % t.rowLen / 32

/-! ### Reading elements -/

/-- A tensor's bytes as read, with its scale header. -/
structure View where
  t   : Tensor
  v   : Nat
  hdr : ScaleHdr
  rd  : Reader
  c   : Fin 8

/-- The bytes that a scale header's data takes for a tensor (R195). -/
def Tensor.scaleBytes (t : Tensor) (h : ScaleHdr) : Nat :=
  let blocks := if t.rowLen = 0 then 0 else t.stored / t.rowLen * cdiv t.rowLen 32
  let out := match h.out with
    | 1 => 4 * (if t.layout = 1 then t.dim 1 else t.inner 0)
    | 2 => 4 * (if t.rowLen = 0 then 0 else t.stored / t.rowLen)
    | 3 => 4
    | _ => 0
  max (blocks * h.blkSize) out

/-- What an operator's run knows: the unit it runs on, its core for statistics and records, the record, and
where the bytes of its unit's rings lie. -/
structure OpCx where
  u    : UnitId
  c    : Fin 8
  qoe  : Bool
  rec_ : OpRec
  ringAt : RingAt

/-- The byte runs of the first `n` bytes of a tensor (Table 7.2). -/
def Tensor.runs (ringAt : RingAt) (wr : Bool) (t : Tensor) (n : Nat) : List Piece :=
  match t.ring with
  | none => [(t.sp, t.addr, n)]
  | some (r, o) => pieces (fun i => ringAt wr r (o + i)) n

/-- Read `n` bytes of a tensor. -/
def OpCx.readT (o : OpCx) (t : Tensor) (n : Nat) (x : Cx) : List Byte × Cx := x.readP o.u (t.runs o.ringAt false n)
/-- Write a tensor's first bytes. -/
def OpCx.writeT (o : OpCx) (t : Tensor) (bs : List Byte) (x : Cx) : Cx := x.writeP o.u (t.runs o.ringAt true bs.length) bs

/-- Read a tensor for a unit. -/
def OpCx.load (o : OpCx) (t : Tensor) (x : Cx) : View × Cx :=
  let h := match t.scale with | some p => readHdr x.rd p.1 (some p.2) | none => ScaleHdr.absent
  if !t.present then ({ t := t, v := 0, hdr := h, rd := x.rd, c := o.c }, x)
  else
    let r := o.readT t t.bytes x
    ({ t := t, v := leNat r.1, hdr := h, rd := x.rd, c := o.c }, if t.scale.isSome then r.2.touch o.u h.sp h.addr (64 + t.scaleBytes h) else r.2)

/-- The code of a stored element. -/
def View.code (w : View) (i : Nat) : Nat := packedAt w.t.fmt w.v i

/-- The OUT scale of a header for a channel and a row, times Q_USED of IN_REC (R110). -/
def hdrScale (rd : Reader) (c : Fin 8) (h : ScaleHdr) (chan row : Nat) : Option Fp :=
  let s := fun (off : Nat) => f32 (rd h.sp (h.addr + 0x40 + off) 4)
  let q := fun (v : Fp) => if h.inRec = 0xFFFFFFFF then v else fmul v (f32 (rd (recPlace c h.inRec).1 (recPlace c h.inRec).2 4))
  match h.out with
  | 1 => some (q (s (4 * chan)))
  | 2 => some (q (s (4 * row)))
  | 3 => some (q (s 0))
  | _ => none

/-- A block scale applied to a value. -/
def scaleBy (b : BlkScale) (v : Fp) : Fp :=
  match b with
  | .none => v
  | .e8m0 k => if k = 255 then .nan else (v.mul (Fp.pow2 ((k : Int) - 127))).r32
  | .val s => fmul v s

/-- The value of a code after zero-point subtraction. -/
def View.ofCode (w : View) (code : Nat) : Fp :=
  let v := fmtValue w.t.fmt code
  if fmtIsInt w.t.fmt then v.add (Fp.ofInt (-w.hdr.zp)) else v

/-- An element's value after zero point and block scale, without the scale of OUT. -/
def View.raw (w : View) (i : Nat) : Fp :=
  scaleBy (if w.hdr.block = 0 then BlkScale.none else blkScale w.rd w.hdr (w.t.blk i)) (w.ofCode (w.code i))

/-- An element expanded to FP32 (R172): zero point, block scale, and the scale that the header's OUT names. -/
def View.elem (w : View) (i : Nat) : Fp :=
  let v := w.raw i
  match w.t.coords i with
  | none => v.r32
  | some cs => match hdrScale w.rd w.c w.hdr (w.t.chan cs) (w.t.row i) with
    | some s => fmul v.r32 s
    | none => v.r32

/-- The element at logical coordinates. -/
def View.at (w : View) (cs : List Nat) : Fp := w.elem (w.t.at cs)

/-- The element at coordinates of a shape that the tensor broadcasts to (R163). -/
def View.bcast (w : View) (cs : List Nat) : Fp :=
  let own := cs.drop (cs.length - w.t.dims.length)
  w.at ((own.zip w.t.dims).map fun p => if p.2 = 1 then 0 else p.1)

/-- An INT32 element. -/
def View.int (w : View) (i : Nat) : Int := sext 32 (w.code i)

/-! ### Writing an output -/

/-- How one element's index of R112 arises: QOE counts its operations and elements; for other units the library's tiling is
not stated. -/
def Cx.elemOf (x : Cx) (qoe : Bool) (r : OpRec) (j : Nat) : Nat :=
  if qoe then x.run.qoeOrd * 2 ^ 32 + j else Config.elementIndex r.key j

/-- The Finish of an output tensor. -/
def OpRec.finish (r : OpRec) (c : Fin 8) (t : Tensor) (h : ScaleHdr) : Finish :=
  { fmt := t.fmt, round := r.round, nonsat := r.nonsat, seed := r.seed, hdr := h,
    recAt := if h.outRec = 0xFFFFFFFF then none else some (recPlace c h.outRec) }

/-- The header of a tensor. -/
def Cx.hdrOf (x : Cx) (t : Tensor) : ScaleHdr := match t.scale with | some p => readHdr x.rd p.1 (some p.2) | none => ScaleHdr.absent

/-- Write an output tensor whose stored element `i` is `f i` (none for padding channels): steps 3 to 5 of R110 row by row
(step 4 where `block` says so: R172 leaves it out), counts to QOE (R115), block scales at the header's data (R121, R189). -/
def Cx.storeT (o : OpCx) (block : Bool) (t : Tensor) (f : Nat → Option Fp) (x : Cx) : Cx :=
  let h := x.hdrOf t
  let x := if t.scale.isSome then x.touch o.u h.sp h.addr (64 + t.scaleBytes { h with block := 0 }) else x
  let h := if block then h else { h with outBlock := 0 }
  let fin := o.rec_.finish o.c t h
  let n := t.rowLen
  let padCode := if fmtIsFloat t.fmt then 0 else codeOf (fmtBits t.fmt) h.zp
  let elem := fun j => x.elemOf o.qoe o.rec_ j
  let rows := if n = 0 then 0 else t.stored / n
  let res := (List.range rows).foldl (fun (p : List Nat × List Nat × Cx) r =>
    let vals := (List.range n).map fun i => f (r * n + i)
    let ys := vals.filterMap id
    let (codes, groups, cnt, x) := p.2.2.quantise fin p.2.2.run.ident (fun i => elem (r * n + i)) ys
    let x := x.report fin.recAt cnt
    (p.1 ++ codes ++ List.replicate (n - codes.length) padCode, p.2.1 ++ groups, x)) ([], [], x)
  let x := o.writeT t (packCodes t.fmt res.1) res.2.2
  if res.2.1.isEmpty then x else x.write o.u h.sp (h.addr + 0x40) (res.2.1.map fun g => BitVec.ofNat 8 g)

/-- Write FP32 values in logical order, unquantised; padding channels take zero (R159). -/
def Cx.storeF32 (o : OpCx) (t : Tensor) (vals : List Fp) (x : Cx) : Cx :=
  o.writeT t (if t.layout = 1 then (List.range t.stored).flatMap fun i =>
      leBytes 4 (match t.coords i with | some cs => (vals.getD (ravel t.dims cs) (Fp.zero false)).code32 | none => 0)
    else vals.flatMap fun v => leBytes 4 v.code32) x

/-! ### Array products -/

/-- The pieces of an operand pair, (activation, weight), in issue order (R106, R107). -/
def piecePairs (fa fw : Nat) : List (Nat × Nat) :=
  if fa = 0 ∨ fw = 0 then [(1, 1), (2, 1), (3, 1), (1, 2), (2, 2), (1, 3)]
  else if fa = 8 ∨ fw = 8 then [(1, 1), (3, 1), (1, 3), (3, 3)]
  else [(0, 0)]

/-- One pass of one product: the columns of a tile of up to 128, and the compare's statistics. -/
def Cx.arrayPass (c : Fin 8) (isInt : Bool) (rows : Nat) (vec : List (Option Fp)) (cols : List (List Fp)) (fmt : Nat) (x : Cx) : List Fp × Cx :=
  let t : WeightTile := { filled := true, fmt := fmt, piece := 0, rows := rows, cols := cols.map fun l => l.map fun v => BitVec.ofNat 32 v.code32 }
  let outs := (List.range cols.length).map fun n => columnSum (rows = 256) vec (t.col rows n)
  (outs, match checksum isInt rows t vec outs with | .skipped => x.count (unitErrRow (.mxc c)) colSkipped 1 | _ => x)

/-- The drain's accumulation of one piece product (R79, R109): the running sums and the saturations so far. -/
def accumulate (isInt : Bool) (weight : Int) (first : Bool) (acc : List Fp × Nat) (outs : List Fp) : List Fp × Nat :=
  if isInt then
    let raw := (outs.zipIdx).map fun p => p.1.toInt .rne * weight + (if first then 0 else (acc.1.getD p.2 (Fp.zero false)).toInt .rne)
    (raw.map fun v => Fp.ofInt (sat32 v), acc.2 + (raw.filter fun v => sat32 v ≠ v).length)
  else (if first then outs else (outs.zipIdx).map fun p => fadd (acc.1.getD p.2 (Fp.zero false)) p.1, acc.2)

/-- One output row of an array operator (R165, R170): `act pass piece` is the vector of a pass, `wt pass piece n` its weights
of column `n`. Passes in increasing order, pieces in issue order; column tiles of 128. -/
def Cx.arrayRow (c : Fin 8) (fa fw passes ncols : Nat) (act : Nat → Nat → List (Option Fp)) (wt : Nat → Nat → Nat → List Fp) (x : Cx) : List Fp × Nat × Cx :=
  let isInt := fmtIsInt fa
  let rows := pairRows fa fw
  let pairs := piecePairs fa fw
  let work := (List.range passes).flatMap fun p => pairs.map fun q => (p, q)
  (List.range (cdiv ncols 128)).foldl (fun (r : List Fp × Nat × Cx) ct =>
    let n0 := 128 * ct
    let n := min 128 (ncols - n0)
    let res := (work.zipIdx).foldl (fun (r : (List Fp × Nat) × Cx) w =>
      let (p, pa, pw) := w.1
      let (outs, x) := r.2.arrayPass c isInt rows (act p pa) ((List.range n).map fun i => wt p pw (n0 + i)) fw
      (accumulate isInt (pieceWeight pa pw) (w.2 = 0) r.1 outs, x)) ((List.replicate n (Fp.zero false), 0), r.2.2)
    (r.1 ++ res.1.1, r.2.1 + res.1.2, res.2)) ([], 0, x)

/-- Steps 1 and 2 of R110 for an operator's lane: the scale that the output's header names, the bias, ACT. -/
def finishOp (o : OpCx) (rd : Reader) (h : ScaleHdr) (chan row : Nat) (bias : Option Fp) (act : Nat) (lo hi v : Fp) : Fp :=
  let v := match hdrScale rd o.c h chan row with | some s => fmul v.r32 s | none => v
  let v := match bias with | some b => fadd v.r32 b | none => v
  match act with | 1 => relu v | 2 => clampTo lo hi v | _ => v

/-- An operand of an array operator: a stored element as a cell holds it. -/
def View.operand (w : View) (piece i : Nat) (blk : Nat) : Fp :=
  Machine.operand w.t.fmt (w.code i) piece w.hdr.zp (if w.hdr.block = 0 then .none else blkScale w.rd w.hdr blk)

/-- INT32 saturations of an array operator (R109, R115): the core's statistic, and a report for its output, the last tensor. -/
def Cx.countOvf (o : OpCx) (n : Nat) (x : Cx) : Cx :=
  let x := x.count (unitErrRow (.mxc o.c)) colIntOver n
  if n = 0 then x
  else
    let t := o.rec_.t (o.rec_.ntensor - 1)
    let f := o.rec_.finish o.c t (x.hdrOf t)
    (x.nameOut false f).2.report f.recAt { Counts.zero with sats := n }

/-- The view of tensor `i` of the record. -/
def OpCx.view (o : OpCx) (i : Nat) (x : Cx) : View × Cx := o.load (o.rec_.t i) x

/-- An operand header that R102 to R104 do not allow ends the work with BAD_PARAM. -/
def Cx.needOperand (w : View) (x : Cx) : Cx := if w.hdr.operandOk w.t.fmt then x else x.stop stBadParam

/-- The shape that shapes broadcast to (R163), innermost dimension first: the larger size of each; none where they do not fit. -/
def bcastRev : List Nat → List Nat → Option (List Nat)
  | [], b => some b
  | a, [] => some a
  | a :: as, b :: bs =>
    if a = b ∨ a = 1 ∨ b = 1 then (bcastRev as bs).map fun r => max a b :: r else none

/-- The shape that two shapes broadcast to (R163). -/
def bcastDims (a b : List Nat) : Option (List Nat) := (bcastRev a.reverse b.reverse).map List.reverse

/-- The shape of several present tensors together: broadcasting for ND tensors only (R163). -/
def bcastAll (l : List Tensor) : Option (List Nat) :=
  let ts := l.filter fun t => t.present
  let dims := ts.foldl (fun (d : Option (List Nat)) t => d.bind fun d => bcastDims d t.dims) (some [])
  if ts.all (fun t => t.layout = 0) || ts.all (fun t => some t.dims = dims) then dims else none

/-- Formats of the arrays, the drain's output and the VU (Table 5.5). -/
def arrFmt (f : Nat) : Bool := decide (f ≤ 12)
/-- Formats of a drain's output (Table 5.5). -/
def drainFmt (f : Nat) : Bool := decide (f ≤ 13)
/-- Formats of the VU and QOE (Table 5.5). -/
def vuFmt (f : Nat) : Bool := decide (f ≤ 14)

/-- A tensor's coordinates in logical order. -/
def Tensor.index (t : Tensor) (i : Nat) : List Nat := unravel t.dims i

end Sys2Proof.Machine
end

