-- ==== Sys2Proof/Machine/OpsDense.lean ====
section
/-! DEFINITION. The dense operators (R164-R179): convolution, pooling, padding, matrix products, elementwise operations,
normalisation, softmax, layout, attention, the state-space scan and the embedding gather. Each operator has its shape rule
(R161) and what it computes. -/

namespace Sys2Proof.Machine

/-! ### Window geometry (R164) -/

/-- The window parameters that CONV2D, DWCONV2D and POOL share. -/
structure KWindow where
  kh : Nat
  kw : Nat
  sh : Nat
  sw : Nat
  dh : Nat
  dw : Nat
  top : Nat
  bottom : Nat
  left : Nat
  right : Nat
  mode : Nat
  deriving DecidableEq, Repr

/-- The window of a record. -/
def OpRec.window (r : OpRec) : KWindow :=
  { kh := r.p 0 1, kw := r.p 1 1, sh := r.p 2 1, sw := r.p 3 1, dh := r.p 4 2, dw := r.p 6 2, top := r.p 8 2, bottom := r.p 10 2,
    left := r.p 12 2, right := r.p 14 2, mode := r.p 16 1 }

/-- OH or OW (R164). -/
def outDim (n k s d a b : Nat) : Int := ((n + a + b : Nat) - (d : Int) * ((k : Int) - 1) - 1) / (s : Int) + 1

/-- A window whose steps are at least one (Table 4.4). -/
def KWindow.ok (g : KWindow) : Bool :=
  decide (1 ≤ g.kh) && decide (1 ≤ g.kw) && decide (1 ≤ g.sh) && decide (1 ≤ g.sw) && decide (1 ≤ g.dh) && decide (1 ≤ g.dw) && decide (g.mode ≤ 3)

/-- The output dimensions of a window over an input of four dimensions; none where one is below 1. -/
def KWindow.out (g : KWindow) (x : Tensor) : Option (Nat × Nat) :=
  let oh := outDim (x.dim 2) g.kh g.sh g.dh g.top g.bottom
  let ow := outDim (x.dim 3) g.kw g.sw g.dw g.left g.right
  if 1 ≤ oh ∧ 1 ≤ ow then some (oh.toNat, ow.toNat) else none

/-- The input position of tap (kh, kw) of an output pixel under the padding mode (R76, R166). -/
def KWindow.tap (g : KWindow) (x : Tensor) (n cb oh ow kh kw : Nat) : Tap :=
  padTap g.mode (x.dim 2) (x.dim 3) n cb ((oh * g.sh + kh * g.dh : Nat) - (g.top : Int)) ((ow * g.sw + kw * g.dw : Nat) - (g.left : Int))

/-- The positions (kh, kw) of a window in raster order. -/
def KWindow.taps (g : KWindow) : List (Nat × Nat) := (List.range g.kh).flatMap fun a => (List.range g.kw).map fun b => (a, b)

/-- Every dimension of a tensor is at least 1. -/
def Tensor.solid (t : Tensor) : Bool := t.dims.all fun d => decide (1 ≤ d)

/-- The block scale of a padded tap (R105). -/
def View.padScale (w : View) : BlkScale := if w.hdr.block = 0 then .none else .e8m0 w.hdr.padScale

/-- PAD_VALUE as a code of the input's format for channel `ch` (R164): RNE and saturation, through the padded tap's block scale, the
scale of OUT and the zero point. A padded tap lies in no row, so under a scale per row its code is open (log 163). -/
def View.padCode (w : View) (v : Fp) (ch : Nat) : Nat :=
  let v := match w.padScale with | .e8m0 k => v.mul (Fp.pow2 (127 - (k : Int))) | _ => v
  if w.hdr.out = 2 then (Config.unstated [0x164, w.t.fmt, v.code32]).toNat % 2 ^ fmtBits w.t.fmt
  else
    let v := match hdrScale w.rd w.c w.hdr ch 0 with | some q => fdiv v.r32 q | none => v
    fmtCode w.t.fmt .rne false w.hdr.zp v

/-! ### CONV2D -/

/-- The shape rule of CONV2D (R164). -/
def conv2dOk (r : OpRec) : Bool :=
  let (x, w, b, y) := (r.t 0, r.t 1, r.t 2, r.t 3)
  let g := r.window
  let gr := r.p 18 2
  let cg := x.dim 1 / gr
  g.ok && decide (r.p 17 1 ≤ 2) && decide (1 ≤ gr) && x.layout = 1 && y.layout = 1 && w.layout = 0 && w.rank = 4 && x.solid &&
    arrFmt x.fmt && arrFmt w.fmt && (fmtIsInt x.fmt == fmtIsInt w.fmt) && drainFmt y.fmt &&
    decide (x.dim 1 % gr = 0) && decide (w.dim 0 % gr = 0) && decide (cg % x.cw = 0) &&
    w.dims.drop 1 == [g.kh, g.kw, cdiv cg x.cw * x.cw] &&
    (!b.present || (b.fmt = 0 && b.layout = 0 && b.dims == [w.dim 0])) &&
    (match g.out x with | some (oh, ow) => y.dims == [x.dim 0, w.dim 0, oh, ow] | none => false)

/-- The rows that one tap of a channel block gives to an activation vector; `pad` is PAD_VALUE. -/
def convRows (x : View) (pad : Fp) (piece cb : Nat) : Tap → List (Option Fp)
  | .skip => List.replicate x.t.cw none
  | .const => (List.range x.t.cw).map fun k => some (operand x.t.fmt (x.padCode pad (cb * x.t.cw + k)) piece x.hdr.zp x.padScale)
  | .fetch n cb ih iw =>
    let i := (((n * x.t.cb + cb) * x.t.dim 2 + ih) * x.t.dim 3 + iw) * x.t.cw
    (List.range x.t.cw).map fun k => some (x.operand piece (i + k) ((i + k) / 32))

/-- CONV2D (R164-R166). -/
def opConv2d (o : OpCx) (x : Cx) : Cx :=
  let r := o.rec_
  let g := r.window
  let (X, x) := o.view 0 x
  let (W, x) := o.view 1 x
  let (B, x) := o.view 2 x
  let x := (x.needOperand X).needOperand W
  let y := r.t 3
  let h := x.hdrOf y
  let groups := r.p 18 2
  let cog := W.t.dim 0 / groups
  let cbg := cdiv (X.t.dim 1 / groups) X.t.cw
  let taps := g.taps.flatMap fun k => (List.range cbg).map fun cb => (k.1, k.2, cb)
  let seg := pairRows X.t.fmt W.t.fmt / X.t.cw
  let passes := cdiv taps.length seg
  let (oh, ow) := (g.out X.t).getD (0, 0)
  let places := List.range (X.t.dim 0 * oh * ow)
  let res := places.foldl (fun (p : List (List Fp) × Cx) i =>
    let n := i / (oh * ow)
    let (a, b) := (i / ow % oh, i % ow)
    let one := (List.range groups).foldl (fun (q : List Fp × Cx) gi =>
      let ps := (List.range passes).map fun k => (taps.drop (seg * k)).take seg
      let fill := fun (l : List (Option Fp)) => l ++ List.replicate (seg * X.t.cw - l.length) none
      let act := fun (k piece : Nat) => fill ((ps.getD k []).flatMap fun t => convRows X (r.f 20) piece (gi * cbg + t.2.2) (g.tap X.t n (gi * cbg + t.2.2) a b t.1 t.2.1))
      let wt := fun (k piece c : Nat) =>
        let l := (ps.getD k []).flatMap fun t => (List.range X.t.cw).map fun e =>
          let wi := W.t.at [gi * cog + c, t.1, t.2.1, t.2.2 * X.t.cw + e]
          W.operand piece wi (W.t.blk wi)
        l ++ List.replicate (seg * X.t.cw - l.length) (Fp.zero false)
      let (row, ovf, x) := q.2.arrayRow o.c X.t.fmt W.t.fmt passes cog act wt
      (q.1 ++ row, x.countOvf o ovf)) ([], p.2)
    (p.1 ++ [one.1], one.2)) ([], x)
  let x := res.2
  x.storeT o true y fun i => (y.coords i).map fun c =>
    let v := (res.1.getD ((c.getD 0 0 * oh + c.getD 2 0) * ow + c.getD 3 0) []).getD (c.getD 1 0) (Fp.zero false)
    finishOp o x.rd h (y.chan c) (y.row i) (if B.t.present then some (B.elem (c.getD 1 0)) else none) (r.p 17 1) (r.f 24) (r.f 28) v

/-! ### DWCONV2D, POOL and PAD -/

/-- A VU operator's image tensors: four dimensions of at least 1. -/
def Tensor.image (t : Tensor) : Bool := t.rank = 4 && t.solid && vuFmt t.fmt

/-- The shape rule of DWCONV2D (R167). -/
def dwconv2dOk (r : OpRec) : Bool :=
  let (x, w, b, y) := (r.t 0, r.t 1, r.t 2, r.t 3)
  let g := r.window
  g.ok && decide (r.p 17 1 ≤ 2) && x.image && y.image && w.layout = 0 && vuFmt w.fmt && w.dims == [x.dim 1, g.kh, g.kw] &&
    (!b.present || (b.fmt = 0 && b.layout = 0 && b.dims == [x.dim 1])) &&
    (match g.out x with | some (oh, ow) => y.dims == [x.dim 0, x.dim 1, oh, ow] | none => false)

/-- The value at a tap of an image; none for a skipped tap. -/
def View.tapVal (w : View) (pad : Fp) (full : Bool) (ch : Nat) : Tap → Option Fp
  | .skip => none
  | .const => some pad
  | .fetch n _ ih iw => let i := w.t.at [n, ch, ih, iw]; some (if full then w.elem i else w.raw i)

/-- DWCONV2D (R167). -/
def opDwconv2d (o : OpCx) (x : Cx) : Cx :=
  let r := o.rec_
  let g := r.window
  let (X, x) := o.view 0 x
  let (W, x) := o.view 1 x
  let (B, x) := o.view 2 x
  let y := r.t 3
  let h := x.hdrOf y
  let pad := fun (ch : Nat) => scaleBy X.padScale (X.ofCode (X.padCode (r.f 20) ch))
  let rd := x.rd
  x.storeT o true y fun i => (y.coords i).map fun c =>
    let ch := c.getD 1 0
    let acc := g.taps.foldl (fun acc k =>
      match X.tapVal (pad ch) false ch (g.tap X.t (c.getD 0 0) 0 (c.getD 2 0) (c.getD 3 0) k.1 k.2) with
      | some v => ffma v.r32 (W.raw (W.t.at [ch, k.1, k.2])).r32 acc
      | none => acc) (Fp.zero false)
    finishOp o rd h (y.chan c) (y.row i) (if B.t.present then some (B.elem ch) else none) (r.p 17 1) (r.f 24) (r.f 28) acc

/-- The shape rule of POOL (R168). -/
def poolOk (r : OpRec) : Bool :=
  let (x, y) := (r.t 0, r.t 1)
  let g := r.window
  g.ok && decide (r.p 17 1 ≤ 2) && x.image && y.image &&
    (match g.out x with | some (oh, ow) => y.dims == [x.dim 0, x.dim 1, oh, ow] | none => false)

/-- One window of POOL (R168): the taps that take part, none for those that ZERO padding leaves out. -/
def poolWindow (kind : Nat) (vals : List (Option Fp)) : Fp :=
  let part := vals.filterMap id
  if part.isEmpty then Fp.zero false
  else match kind with
    | 0 =>
      if part.any Fp.isNan then .nan
      else part.tail.foldl (fun m v => if m.lt v then v else m) (part.headD (Fp.zero false))
    | 1 => fmul (part.foldl fadd (Fp.zero false)) (fdiv (Fp.ofNat 1) (Fp.ofNat part.length))
    | _ => fmul ((vals.map fun v => v.getD (Fp.zero false)).foldl fadd (Fp.zero false)) (fdiv (Fp.ofNat 1) (Fp.ofNat vals.length))

/-- The taps of an output pixel of POOL. -/
def poolTaps (g : KWindow) (X : View) (pad : Fp) (c : List Nat) : List (Option Fp) :=
  g.taps.map fun k => X.tapVal pad true (c.getD 1 0) (g.tap X.t (c.getD 0 0) 0 (c.getD 2 0) (c.getD 3 0) k.1 k.2)

/-- POOL (R168). -/
def opPool (o : OpCx) (x : Cx) : Cx :=
  let r := o.rec_
  let g := r.window
  let kind := r.p 17 1
  let (X, x) := o.view 0 x
  let y := r.t 1
  let empty := if kind = 2 then 0 else
    ((List.range y.stored).filter fun i => match y.coords i with
      | some c => (poolTaps g X (r.f 20) c).all fun v => v.isNone
      | none => false).length
  let x := x.count (unitErrRow (.mxc o.c)) colEmptyWin empty
  x.storeT o false y fun i => (y.coords i).map fun c => poolWindow kind (poolTaps g X (r.f 20) c)

/-- The shape rule of PAD (R168). -/
def padOk (r : OpRec) : Bool :=
  let (x, y) := (r.t 0, r.t 1)
  decide (r.p 8 1 ≤ 3) && x.image && y.image &&
    y.dims == [x.dim 0, x.dim 1, x.dim 2 + r.p 0 2 + r.p 2 2, x.dim 3 + r.p 4 2 + r.p 6 2]

/-- PAD (R168): under ZERO the border holds zero. -/
def opPad (o : OpCx) (x : Cx) : Cx :=
  let r := o.rec_
  let (X, x) := o.view 0 x
  let y := r.t 1
  x.storeT o false y fun i => (y.coords i).map fun c =>
    let t := padTap (r.p 8 1) (X.t.dim 2) (X.t.dim 3) (c.getD 0 0) 0 ((c.getD 2 0 : Nat) - (r.p 0 2 : Int)) ((c.getD 3 0 : Nat) - (r.p 4 2 : Int))
    (X.tapVal (r.f 12) true (c.getD 1 0) t).getD (Fp.zero false)

/-! ### MATMUL -/

/-- M or N, K of an operand: the two innermost dimensions, exchanged by its TRANS parameter. -/
def matDims (t : Tensor) (trans : Bool) : Nat × Nat := if trans then (t.inner 0, t.inner 1) else (t.inner 1, t.inner 0)
/-- The leading dimensions. -/
def Tensor.lead (t : Tensor) : List Nat := t.dims.take (t.dims.length - 2)

/-- The shape rule of MATMUL (R169). -/
def matmulOk (r : OpRec) : Bool :=
  let (a, b, c, y) := (r.t 0, r.t 1, r.t 2, r.t 3)
  let (m, k) := matDims a (r.p 0 1 = 1)
  let (k2, n) := matDims b (r.p 1 1 = 1)
  decide (r.p 0 1 ≤ 1) && decide (r.p 1 1 ≤ 1) && decide (r.p 2 1 ≤ 2) && a.layout = 0 && b.layout = 0 && y.layout = 0 &&
    decide (2 ≤ a.rank) && decide (2 ≤ b.rank) && decide (k = k2) && arrFmt a.fmt && arrFmt b.fmt && (fmtIsInt a.fmt == fmtIsInt b.fmt) &&
    drainFmt y.fmt && (!c.present || (c.fmt = 0 && c.layout = 0 && c.dims == [n])) &&
    (match bcastDims a.lead b.lead with | some l => y.dims == l ++ [m, n] | none => false)

/-- The coordinates of an operand's element (i, j) of batch coordinates `l`. -/
def matCoords (t : Tensor) (trans : Bool) (l : List Nat) (i j : Nat) : List Nat :=
  (((l.drop (l.length - t.lead.length)).zip t.lead).map fun p => if p.2 = 1 then 0 else p.1) ++ (if trans then [j, i] else [i, j])

/-- The block of an operand's element along the reduction: along its row, or block by block of the rows that the reduction
crosses (DEDUCED, log 104). -/
def matBlk (t : Tensor) (along : Bool) (i : Nat) : Nat :=
  if along then t.blk i
  else
    let m := t.inner 1 * t.inner 0
    let q := i % m
    i / m * (cdiv (t.inner 1) 32 * t.inner 0) + q / t.inner 0 / 32 * t.inner 0 + q % t.inner 0

/-- One row of a product on the arrays (R170): `K` terms, `cols` columns, from element numbers of the two operands. -/
def Cx.dotRow (o : OpCx) (A W : View) (alongA alongW : Bool) (k cols : Nat) (ai : Nat → Nat) (wi : Nat → Nat → Nat) (x : Cx) : List Fp × Cx :=
  let rows := pairRows A.t.fmt W.t.fmt
  let act := fun (p piece : Nat) => (List.range rows).map fun e =>
    let q := p * rows + e
    some (if q < k then A.operand piece (ai q) (matBlk A.t alongA (ai q)) else Fp.zero false)
  let wt := fun (p piece c : Nat) => (List.range rows).map fun e =>
    let q := p * rows + e
    if q < k then W.operand piece (wi c q) (matBlk W.t alongW (wi c q)) else Fp.zero false
  let (row, ovf, x) := x.arrayRow o.c A.t.fmt W.t.fmt (cdiv k rows) cols act wt
  (row, x.countOvf o ovf)

/-- MATMUL (R169-R171). -/
def opMatmul (o : OpCx) (x : Cx) : Cx :=
  let r := o.rec_
  let (A, x) := o.view 0 x
  let (B, x) := o.view 1 x
  let (C, x) := o.view 2 x
  let x := (x.needOperand A).needOperand B
  let y := r.t 3
  let h := x.hdrOf y
  let (ta, tb) := (decide (r.p 0 1 = 1), decide (r.p 1 1 = 1))
  let (m, k) := matDims A.t ta
  let n := (matDims B.t tb).2
  let lead := y.lead
  let batches := if m * n = 0 then 0 else lead.foldl (· * ·) 1
  let res := (List.range (batches * m)).foldl (fun (p : List (List Fp) × Cx) i =>
    let l := unravel lead (i / m)
    let (row, x) := p.2.dotRow o A B (!ta) tb k n (fun q => A.t.at (matCoords A.t ta l (i % m) q)) fun c q => B.t.at (matCoords B.t tb l q c)
    (p.1 ++ [row], x)) ([], x)
  let x := res.2
  x.storeT o true y fun i =>
    let v := (res.1.getD (i / n) []).getD (i % n) (Fp.zero false)
    some (finishOp o x.rd h (i % n) (i / n) (if C.t.present then some (C.elem (i % n)) else none) (r.p 2 1) (r.f 4) (r.f 8) v)

/-! ### ELTWISE and ACTIVATION -/

/-- The shape rule of ELTWISE (R163, R172): B for every operation but SCALE, C for FMA. -/
def eltwiseOk (r : OpRec) : Bool :=
  let (a, b, c, y) := (r.t 0, r.t 1, r.t 2, r.t 3)
  let op := r.p 0 1
  let used := (if op = 7 then [a] else if op = 6 then [a, b, c] else [a, b])
  decide (op ≤ 7) && used.all (fun t => t.present && vuFmt t.fmt) && vuFmt y.fmt && bcastAll used == some y.dims

/-- The operations of ELTWISE in FP32 (R172). -/
def eltwise (op : Nat) (imm a b c : Fp) : Fp :=
  match op with
  | 0 => fadd a b
  | 1 => fsub a b
  | 2 => fmul a b
  | 3 => fmul a (frcp b)
  | 4 => vuMin a b
  | 5 => vuMax a b
  | 6 => ffma a b c
  | _ => fmul a imm

/-- The 8-bit integer path of R172: exact into INT32. -/
def eltInt (op : Nat) (A B : View) : Bool :=
  A.t.fmt = B.t.fmt && (A.t.fmt = 9 || A.t.fmt = 10) && A.hdr.zp = 0 && B.hdr.zp = 0 && A.hdr.out = 0 && B.hdr.out = 0 &&
    A.hdr.block = 0 && B.hdr.block = 0 && (decide (op ≤ 2) || op = 4 || op = 5)

/-- ELTWISE (R172). -/
def opEltwise (o : OpCx) (x : Cx) : Cx :=
  let r := o.rec_
  let op := r.p 0 1
  let (A, x) := o.view 0 x
  let (B, x) := o.view 1 x
  let (C, x) := o.view 2 x
  let y := r.t 3
  let z := Fp.zero false
  let int := op ≠ 7 && eltInt op A B
  x.storeT o false y fun i => (y.coords i).map fun c =>
    let v := eltwise op (r.f 4) (A.bcast c) (if op = 7 then z else B.bcast c) (if op = 6 then C.bcast c else z)
    if int then Fp.ofInt (v.toInt .rne) else v

/-- The shape rule of ACTIVATION: Y has the shape of X. -/
def activationOk (r : OpRec) : Bool :=
  let (x, y) := (r.t 0, r.t 1)
  decide (r.p 0 1 ≤ 9) && vuFmt x.fmt && vuFmt y.fmt && y.dims == x.dims

/-- The constant 0.707 106 77 of GELU (R172). -/
def geluC : Fp := fdec 70710677 8

/-- The functions of ACTIVATION (R172). -/
def activate (fn : Nat) (lo hi v : Fp) : Fp :=
  match fn with
  | 0 => relu v
  | 1 => clampTo lo hi v
  | 2 => fsigmoid v
  | 3 => vuTable 0x47 v
  | 4 => fmul (fmul (fdec 5 1) v) (fadd (Fp.ofNat 1) (vuTable 0x49 (fmul v geluC)))
  | 5 => fmul v (fsigmoid v)
  | 6 => fexp v
  | 7 => vuTable 0x43 v
  | 8 => frsqrt v
  | _ => fsqrtT v

/-- ACTIVATION (R172). -/
def opActivation (o : OpCx) (x : Cx) : Cx :=
  let r := o.rec_
  let (X, x) := o.view 0 x
  let y := r.t 1
  x.storeT o false y fun i => (y.coords i).map fun c => activate (r.p 0 1) (r.f 4) (r.f 8) (X.at c)

/-! ### LAYER_NORM, SOFTMAX and LAYOUT_CONVERT -/

/-- The elements of group `g` of `n` consecutive logical elements. -/
def View.group (w : View) (n g : Nat) : List Fp := (List.range n).map fun i => w.at (w.t.index (g * n + i))

/-- The values of an output computed group by group of `n` logical elements, by logical index. -/
def grouped (w : View) (n : Nat) (f : List Fp → List Fp) : List (List Fp) :=
  (List.range (if n = 0 then 0 else w.t.count / n)).map fun g => f (w.group n g)

/-- The shape rule of LAYER_NORM (R173). -/
def layerNormOk (r : OpRec) : Bool :=
  let (x, g, b, y) := (r.t 0, r.t 1, r.t 2, r.t 3)
  let ax := r.p 0 1
  decide (1 ≤ ax ∧ ax ≤ 3) && decide (ax ≤ x.rank) && (x.dims.drop (x.rank - ax)).all (fun d => decide (1 ≤ d)) && vuFmt x.fmt && vuFmt y.fmt &&
    y.dims == x.dims && (!g.present || (g.layout = 0 && vuFmt g.fmt && bcastDims x.dims g.dims == some x.dims)) &&
    (!b.present || (b.layout = 0 && vuFmt b.fmt && bcastDims x.dims b.dims == some x.dims))

/-- (x - mu) x rsqrt(sigma^2 + EPS) over a group (R173). -/
def normGroup (eps : Fp) (l : List Fp) : List Fp :=
  let r := fdiv (Fp.ofNat 1) (Fp.ofNat l.length)
  let mu := fmul (treeSum l) r
  let d := l.map fun v => fsub v mu
  let var := fmul (treeSum (d.map fun v => fmul v v)) r
  d.map fun v => fmul v (frsqrt (fadd var eps))

/-- LAYER_NORM (R173). -/
def opLayerNorm (o : OpCx) (x : Cx) : Cx :=
  let r := o.rec_
  let (X, x) := o.view 0 x
  let (G, x) := o.view 1 x
  let (B, x) := o.view 2 x
  let y := r.t 3
  let n := (X.t.dims.drop (X.t.dims.length - r.p 0 1)).foldl (· * ·) 1
  let groups := grouped X n (normGroup (r.f 4))
  x.storeT o false y fun i => (y.coords i).map fun c =>
    let j := ravel X.t.dims c
    let v := (groups.getD (j / n) []).getD (j % n) (Fp.zero false)
    let v := fmul v (if G.t.present then G.bcast c else Fp.ofNat 1)
    fadd v (if B.t.present then B.bcast c else Fp.zero false)

/-- The shape rule of SOFTMAX: Y has the shape of X. -/
def softmaxOk (r : OpRec) : Bool :=
  let (x, y) := (r.t 0, r.t 1)
  vuFmt x.fmt && vuFmt y.fmt && y.dims == x.dims

/-- The larger values first met win in order (R174). -/
def rowMax (l : List Fp) : Fp := l.tail.foldl vuMax (l.headD (.inf true))

/-- SOFTMAX of one row (R174). -/
def softmaxRow (l : List Fp) : List Fp :=
  if l.any Fp.isNan || l.any (fun v => v = .inf false) then l.map fun _ => .nan
  else if l.all fun v => v = .inf true then l.map fun _ => Fp.zero false
  else
    let m := rowMax l
    let e := l.map fun v => fexp (fsub v m)
    let q := frcp (treeSum e)
    e.map fun v => fmul v q

/-- SOFTMAX (R174). -/
def opSoftmax (o : OpCx) (x : Cx) : Cx :=
  let (X, x) := o.view 0 x
  let y := o.rec_.t 1
  let n := X.t.dims.getLastD 0
  let rows := grouped X n softmaxRow
  x.storeT o false y fun i => (y.coords i).map fun c =>
    let j := ravel X.t.dims c
    (rows.getD (j / n) []).getD (j % n) (Fp.zero false)

/-- The shape rule of LAYOUT_CONVERT (R175). -/
def layoutConvertOk (r : OpRec) : Bool :=
  let (x, y) := (r.t 0, r.t 1)
  x.rank = 4 && vuFmt x.fmt && y.fmt = x.fmt && x.layout ≠ y.layout && y.dims == x.dims

/-- LAYOUT_CONVERT (R175): codes move, padding channels are zero codes (R159). -/
def opLayoutConvert (o : OpCx) (x : Cx) : Cx :=
  let (X, x) := o.view 0 x
  let y := o.rec_.t 1
  let pad := if fmtIsInt y.fmt then codeOf (fmtBits y.fmt) (x.hdrOf y).zp else 0
  o.writeT y (packCodes y.fmt ((List.range y.stored).map fun i =>
    match y.coords i with | some c => X.code (X.t.at c) | none => pad)) x

/-! ### ATTENTION -/

/-- The shape rule of ATTENTION (R176). -/
def attentionOk (r : OpRec) : Bool :=
  let (q, k, v, m, y) := (r.t 0, r.t 1, r.t 2, r.t 3, r.t 4)
  let kind := r.p 0 1
  let (b, h, lq, d, lk, dv) := (q.dim 0, q.dim 1, q.dim 2, q.dim 3, k.dim 2, v.dim 3)
  [q, k, v, y].all (fun t => t.layout = 0 && t.rank = 4) && decide (1 ≤ d ∧ d ≤ 256) && decide (1 ≤ dv ∧ dv ≤ 256) &&
    k.dims == [b, h, lk, d] && v.dims == [b, h, lk, dv] && y.dims == [b, h, lq, dv] && q.fmt = k.fmt && decide (1 ≤ q.fmt ∧ q.fmt ≤ 4) &&
    fmtIsFloat v.fmt && vuFmt y.fmt && decide (kind ≤ 3) &&
    (match kind with
      | 2 => m.present && m.layout = 0 && (m.fmt = 0 || m.fmt = 2) && bcastDims [b, h, lq, lk] m.dims == some [b, h, lq, lk]
      | 3 => m.present && m.layout = 0 && m.fmt = 13 && m.dims == [b]
      | _ => true)

/-- The product of the attention weights of one tile with its values, on the arrays (R177). -/
def Cx.pvRow (o : OpCx) (V : View) (p : List Fp) (dv : Nat) (vi : Nat → Nat → Nat) (x : Cx) : List Fp × Cx :=
  let rows := pairRows V.t.fmt V.t.fmt
  let codes := p.map fun v => fmtCode V.t.fmt .rne false 0 v
  let act := fun (_ piece : Nat) => (List.range rows).map fun e =>
    some (match codes[e]? with | some c => operand V.t.fmt c piece 0 .none | none => Fp.zero false)
  let wt := fun (_ piece c : Nat) => (List.range rows).map fun e =>
    if e < p.length then V.operand piece (vi e c) (matBlk V.t false (vi e c)) else Fp.zero false
  let (row, _, x) := x.arrayRow o.c V.t.fmt V.t.fmt 1 dv act wt
  (row, x)

/-- One tile of the online softmax (R177): (m, l, o) from the scores of its keys. -/
def Cx.attnTile (o : OpCx) (V : View) (dv j0 : Nat) (s : List Fp) (vi : Nat → Nat → Nat) (p : (Fp × Fp × List Fp) × Cx) : (Fp × Fp × List Fp) × Cx :=
  let ((m, l, acc), x) := p
  let mt := rowMax s
  if mt = .inf true then p else
  let mn := vuMax m mt
  let c := fexp (fsub m mn)
  let e := s.map fun v => fexp (fsub v mn)
  let (pv, x) := x.pvRow o V e dv fun t n => vi (j0 + t) n
  ((mn, fadd (fmul l c) (treeSum e), (acc.zip pv).map fun q => fadd (fmul q.1 c) q.2), x)

/-- ATTENTION (R176, R177). -/
def opAttention (o : OpCx) (x : Cx) : Cx :=
  let r := o.rec_
  let kind := r.p 0 1
  let (Q, x) := o.view 0 x
  let (K, x) := o.view 1 x
  let (V, x) := o.view 2 x
  let (M, x) := o.view 3 x
  let x := ((x.needOperand Q).needOperand K).needOperand V
  let y := r.t 4
  let (hh, lq, d, lk, dv) := (Q.t.dim 1, Q.t.dim 2, Q.t.dim 3, K.t.dim 2, V.t.dim 3)
  let z := Fp.zero false
  let res := (List.range (Q.t.dim 0 * hh * lq)).foldl (fun (p : List (List Fp) × Cx) q =>
    let bh := q / lq
    let b := bh / hh
    let i := q % lq
    let (dots, x) := p.2.dotRow o Q K true true d lk (fun e => q * d + e) fun c e => (bh * lk + c) * d + e
    let hidden := fun (j : Nat) => match kind with
      | 1 => decide ((i : Int) + lk - lq < j)
      | 3 => decide (M.int b ≤ (j : Int))
      | _ => false
    let s := (dots.zipIdx).map fun t =>
      if hidden t.2 then Fp.inf true
      else
        let v := fmul t.1.r32 (r.f 4)
        if kind = 2 then fadd v (M.bcast [b, bh % hh, i, t.2]) else v
    let run := (List.range (cdiv lk 128)).foldl (fun st tile =>
      Cx.attnTile o V dv (128 * tile) ((s.drop (128 * tile)).take 128) (fun j n => (bh * lk + j) * dv + n) st) ((.inf true, z, List.replicate dv z), x)
    let (_, l, acc) := run.1
    let row := if s.any Fp.isNan then List.replicate dv .nan else if l.isZero then List.replicate dv z else acc.map fun v => fmul v (frcp l)
    (p.1 ++ [row], run.2)) ([], x)
  res.2.storeT o false y fun i => some ((res.1.getD (i / dv) []).getD (i % dv) z)

/-! ### SSM_SCAN -/

/-- The shape rule that SSM_SCAN and its backward pass share (R178): X, DT, A, B, CM, D, H_IN, LEN. -/
def ssmInputsOk (r : OpRec) : Bool :=
  let (x, dt, a, b, cm, d, h, len) := (r.t 0, r.t 1, r.t 2, r.t 3, r.t 4, r.t 5, r.t 6, r.t 7)
  let (s, t, c, n) := (x.dim 0, x.dim 1, x.dim 2, a.dim 1)
  [x, dt, a, b, cm, d, h].all (fun t => t.layout = 0) && decide (x.fmt ≤ 2) && decide (dt.fmt ≤ 2) && x.rank = 3 && dt.dims == x.dims && a.fmt = 0 &&
    a.dims == [c, n] && vuFmt b.fmt && vuFmt cm.fmt && vuFmt d.fmt && b.dims == [s, t, n] && cm.dims == [s, t, n] && d.dims == [c] &&
    h.fmt = 0 && h.dims == [s, c, n] && decide (1 ≤ n ∧ n ≤ 64) && [c, t, s].all (fun v => decide (1 ≤ v ∧ v ≤ 4096)) &&
    (!len.present || (len.fmt = 13 && len.layout = 0 && len.dims == [s]))

/-- The shape rule of SSM_SCAN (R178). -/
def ssmScanOk (r : OpRec) : Bool :=
  let (y, ho) := (r.t 8, r.t 9)
  ssmInputsOk r && y.layout = 0 && y.dims == (r.t 0).dims && vuFmt y.fmt && ho.layout = 0 && ho.fmt = 0 && ho.dims == (r.t 6).dims

/-- The inputs of the recurrence. -/
structure SsmIn where
  x  : View
  dt : View
  a  : View
  b  : View
  cm : View
  d  : View
  h  : View
  len : View

/-- Read them. -/
def OpCx.ssm (o : OpCx) (x : Cx) : SsmIn × Cx :=
  let (a0, x) := o.view 0 x
  let (a1, x) := o.view 1 x
  let (a2, x) := o.view 2 x
  let (a3, x) := o.view 3 x
  let (a4, x) := o.view 4 x
  let (a5, x) := o.view 5 x
  let (a6, x) := o.view 6 x
  let (a7, x) := o.view 7 x
  ({ x := a0, dt := a1, a := a2, b := a3, cm := a4, d := a5, h := a6, len := a7 }, x)

/-- len[s]: T without LEN, else LEN limited to 0 to T (R178). -/
def SsmIn.length (i : SsmIn) (s : Nat) : Nat :=
  let t := i.x.t.dim 1
  if i.len.t.present then (max 0 (min (t : Int) (i.len.int s))).toNat else t

/-- One step of one channel: its states before, those after, and its output (R178). -/
def SsmIn.step (i : SsmIn) (s t c : Nat) (h : List Fp) : List Fp × Fp :=
  let x := i.x.at [s, t, c]
  let dt := i.dt.at [s, t, c]
  let u := fmul dt x
  let acc := fmul (i.d.at [c]) x
  (h.zipIdx).foldl (fun (p : List Fp × Fp) q =>
    let n := q.2
    let v := ffma (fexp (fmul dt (i.a.at [c, n]))) q.1 (fmul u (i.b.at [s, t, n]))
    (p.1 ++ [v], ffma v (i.cm.at [s, t, n]) p.2)) ([], acc)

/-- The states of a channel of a sequence at the start. -/
def SsmIn.start (i : SsmIn) (s c : Nat) : List Fp := (List.range (i.a.t.dim 1)).map fun n => i.h.at [s, c, n]

/-- The states after each step of a channel, the start first, and the outputs. -/
def SsmIn.scan (i : SsmIn) (s c : Nat) : List (List Fp) × List Fp :=
  (List.range (i.length s)).foldl (fun (p : List (List Fp) × List Fp) t =>
    let (h, y) := i.step s t c (p.1.getLastD [])
    (p.1 ++ [h], p.2 ++ [y])) ([i.start s c], [])

/-- SSM_SCAN (R178). -/
def opSsmScan (o : OpCx) (x : Cx) : Cx :=
  let (i, x) := o.ssm x
  let (ns, nc, nn) := (i.x.t.dim 0, i.x.t.dim 2, i.a.t.dim 1)
  let runs := (List.range ns).map fun s => (List.range nc).map fun c => i.scan s c
  let get := fun (s c : Nat) => (runs.getD s []).getD c ([], [])
  let y := o.rec_.t 8
  let x := x.storeT o false y fun j =>
    let q := y.index j
    some ((get (q.getD 0 0) (q.getD 2 0)).2.getD (q.getD 1 0) (Fp.zero false))
  x.storeF32 o (o.rec_.t 9) ((List.range (ns * nc)).flatMap fun j => ((get (j / nc) (j % nc)).1.getLastD []).take nn)

/-! ### EMBED_GATHER -/

/-- The shape rule of EMBED_GATHER (R179). -/
def embedGatherOk (r : OpRec) : Bool :=
  let (t, i, y) := (r.t 0, r.t 1, r.t 2)
  t.layout = 0 && i.layout = 0 && y.layout = 0 && t.rank = 2 && i.rank = 1 && i.fmt = 13 && y.fmt = t.fmt &&
    decide (1 ≤ t.dim 0) && decide (t.dim 0 < 2 ^ 31) && y.dims == [i.dim 0, t.dim 1]

/-- The codes of `e` elements of a dense tensor from element `k` on, reading only the bytes that hold them (R152). -/
def OpCx.codesAt (o : OpCx) (t : Tensor) (k e : Nat) (x : Cx) : List Nat × Cx :=
  let lo := k * fmtBits t.fmt / 8
  let r := x.read o.u t.sp (t.addr + lo) (((k + e) * fmtBits t.fmt + 7) / 8 - lo)
  let v := leNat r.1 / 2 ^ (k * fmtBits t.fmt % 8)
  ((List.range e).map fun n => packedAt t.fmt v n, r.2)

/-- EMBED_GATHER (R179): a row per index, FILL throughout for an index out of range, which is counted (R152). -/
def opEmbedGather (o : OpCx) (x : Cx) : Cx :=
  let r := o.rec_
  let t := r.t 0
  let bad := match t.sp with | .sb => !sbRange t.addr t.bytes | _ => decide (t.addr % 64 ≠ 0)
  if bad && x.qm then x.stop stBadParam else
  let (I, x) := o.view 1 x
  let e := t.dim 1
  let fill := leNat (List.replicate (fmtBytes t.fmt e) (BitVec.ofNat 8 (r.p 0 1)))
  let rows := (List.range (I.t.dim 0)).map fun j =>
    let k := I.int j
    if k < 0 ∨ (t.dim 0 : Int) ≤ k then none else some k.toNat
  let x := x.count (unitErrRow o.u) colGatherOor (rows.filter fun k => k.isNone).length
  let res := rows.foldl (fun (p : List Nat × Cx) k => match k with
    | some k => let q := o.codesAt t (k * e) e p.2; (p.1 ++ q.1, q.2)
    | none => (p.1 ++ (List.range e).map fun n => packedAt t.fmt fill n, p.2)) ([], x)
  o.writeT (r.t 2) (packCodes t.fmt res.1) res.2

end Sys2Proof.Machine
end

