-- ==== Sys2Proof/Machine/OpsImage.lean ====
section
/-! DEFINITION. The sampling operators of WRE (R180-R183) and the detection operators of DPP (R184-R188, R241). -/

namespace Sys2Proof.Machine

/-! ### Sampling -/

/-- Formats of WRE (Table 5.5). -/
def wreFmt (f : Nat) : Bool := decide (f ≤ 2) || f = 10
/-- 0.5 in FP32. -/
def half : Fp := .fin false 1 (-1)

/-- The value of a pixel index under PAD_MODE (R181): ZERO supplies the value 0. -/
def View.pixel (w : View) (mode : Nat) (pad : Fp) (n ch : Nat) (iy ix : Int) : Fp :=
  (w.tapVal pad true ch (padTap mode (w.t.dim 2) (w.t.dim 3) n 0 iy ix)).getD (Fp.zero false)

/-- Bilinear interpolation of four values (R180). -/
def bilerp (v00 v01 v10 v11 fx fy : Fp) : Fp :=
  let one := Fp.ofNat 1
  let a := fmul (fadd (fmul v00 (fsub one fx)) (fmul v01 fx)) (fsub one fy)
  let b := fmul (fadd (fmul v10 (fsub one fx)) (fmul v11 fx)) fy
  fadd a b

/-- The cubic convolution kernel of coefficient -0.5 at a distance, exact (R180). -/
def cubic (t : Fp) : Fp :=
  let t2 := t.mul t
  let t3 := t2.mul t
  let c := fun (k : Int) (v : Fp) => (Fp.ofInt k).mul v
  let twice := if t.le (Fp.ofNat 1) then ((c 3 t3).add (c (-5) t2)).add (Fp.ofNat 2)
    else if t.lt (Fp.ofNat 2) then (((c (-1) t3).add (c 5 t2)).add (c (-8) t)).add (Fp.ofNat 4)
    else Fp.zero false
  twice.mul half

/-- The weight of offset `k` (0 for i0 - 1) at a fraction: the kernel's value in FP32, rounded to either neighbour where FP32 does
not hold it. -/
def cubicWeight (f : Fp) (k : Nat) : Fp :=
  match cubic ((f.sub (Fp.ofInt ((k : Int) - 1))).abs) with
  | .fin n m e => roundFin 0 (.stoch (Config.bicubicWeight (BitVec.ofNat 32 f.code32) k).toNat) n m e
  | v => v

/-- Four terms added in increasing offset order. -/
def cubicSum (f : Fp) (v : List Fp) : Fp :=
  let p := (v.zipIdx).map fun q => fmul (cubicWeight f q.2) q.1
  p.tail.foldl fadd (p.headD (Fp.zero false))

/-- A coordinate that R181 treats apart: NaN, infinite, or beyond 2^30. -/
def farCoord (v : Fp) : Bool := !v.isFin || (Fp.pow2 30).lt v.abs

/-- A sample of channel `ch` of image `n` at (x, y) (R180, R181). -/
def View.sample (w : View) (mode pmode : Nat) (pad : Fp) (n ch : Nat) (x y : Fp) : Fp :=
  if farCoord x || farCoord y then (if pmode = 1 then pad else Fp.zero false)
  else if mode = 0 then w.pixel pmode pad n ch y.floor x.floor
  else
    let (xs, ys) := (fsub x half, fsub y half)
    let (i, j) := (xs.floor, ys.floor)
    let (fx, fy) := (fsub xs (Fp.ofInt i), fsub ys (Fp.ofInt j))
    let px := fun (dy dx : Int) => w.pixel pmode pad n ch (j + dy) (i + dx)
    if mode = 1 then bilerp (px 0 0) (px 0 1) (px 1 0) (px 1 1) fx fy
    else cubicSum fy ((List.range 4).map fun r => cubicSum fx ((List.range 4).map fun c => px ((r : Int) - 1) ((c : Int) - 1)))

/-- The image tensors of WRE: X and Y of one batch and channel count. -/
def wreImages (x y : Tensor) : Bool :=
  x.rank = 4 && y.rank = 4 && x.solid && wreFmt x.fmt && wreFmt y.fmt && x.dim 0 = y.dim 0 && x.dim 1 = y.dim 1

/-- The shape rule of RESIZE (R182). -/
def resizeOk (r : OpRec) : Bool := decide (r.p 0 1 ≤ 2) && decide (r.p 1 1 ≤ 1) && wreImages (r.t 0) (r.t 1)

/-- The source coordinate of RESIZE (R182). -/
def resizeCoord (corners : Bool) (o inN outN : Nat) : Fp :=
  if corners then
    if outN = 1 then half
    else fadd (fmul (Fp.ofNat o) (fdiv (Fp.ofNat (inN - 1)) (Fp.ofNat (outN - 1)))) half
  else fmul (fadd (Fp.ofNat o) half) (fdiv (Fp.ofNat inN) (Fp.ofNat outN))

/-- RESIZE (R182): always REPEAT_EDGE. -/
def opResize (o : OpCx) (x : Cx) : Cx :=
  let r := o.rec_
  let (X, x) := o.view 0 x
  let y := r.t 1
  let co := r.p 1 1 = 1
  x.storeT o false y fun i => (y.coords i).map fun c =>
    X.sample (r.p 0 1) 3 (Fp.zero false) (c.getD 0 0) (c.getD 1 0) (resizeCoord co (c.getD 3 0) (X.t.dim 3) (y.dim 3))
      (resizeCoord co (c.getD 2 0) (X.t.dim 2) (y.dim 2))

/-- The shape rule of GRID_SAMPLE (R182). -/
def gridSampleOk (r : OpRec) : Bool :=
  let (x, g, y) := (r.t 0, r.t 1, r.t 2)
  decide (r.p 0 1 ≤ 2) && decide (r.p 1 1 ≤ 3) && wreImages x y && g.layout = 0 && g.fmt = 0 && g.dims == [y.dim 0, y.dim 2, y.dim 3, 2]

/-- GRID_SAMPLE (R182). -/
def opGridSample (o : OpCx) (x : Cx) : Cx :=
  let r := o.rec_
  let (X, x) := o.view 0 x
  let (G, x) := o.view 1 x
  let y := r.t 2
  x.storeT o false y fun i => (y.coords i).map fun c =>
    let at_ := fun (k : Nat) => G.at [c.getD 0 0, c.getD 2 0, c.getD 3 0, k]
    X.sample (r.p 0 1) (r.p 1 1) (r.f 4) (c.getD 0 0) (c.getD 1 0) (at_ 0) (at_ 1)

/-- The shape rule of UNDISTORT (R182). -/
def undistortOk (r : OpRec) : Bool :=
  let (x, m, y) := (r.t 0, r.t 1, r.t 2)
  let cell := r.p 2 1
  decide (r.p 0 1 ≤ 2) && decide (r.p 1 1 ≤ 3) && (cell = 8 || cell = 16 || cell = 32) && wreImages x y && m.layout = 0 && m.fmt = 0 &&
    m.dims == [cdiv (y.dim 2) cell + 1, cdiv (y.dim 3) cell + 1, 2]

/-- UNDISTORT (R182). -/
def opUndistort (o : OpCx) (x : Cx) : Cx :=
  let r := o.rec_
  let cell := r.p 2 1
  let (X, x) := o.view 0 x
  let (M, x) := o.view 1 x
  let y := r.t 2
  x.storeT o false y fun i => (y.coords i).map fun c =>
    let u := fdiv (fadd (Fp.ofNat (c.getD 3 0)) half) (Fp.ofNat cell)
    let v := fdiv (fadd (Fp.ofNat (c.getD 2 0)) half) (Fp.ofNat cell)
    let (j, k) := (u.floor.toNat, v.floor.toNat)
    let (fu, fv) := (fsub u (Fp.ofNat j), fsub v (Fp.ofNat k))
    let co := fun (e : Nat) => bilerp (M.at [k, j, e]) (M.at [k, j + 1, e]) (M.at [k + 1, j, e]) (M.at [k + 1, j + 1, e]) fu fv
    X.sample (r.p 0 1) (r.p 1 1) (r.f 4) (c.getD 0 0) (c.getD 1 0) (co 0) (co 1)

/-- The shape rule of BEV_PROJECT (R183). -/
def bevProjectOk (r : OpRec) : Bool :=
  let (f, s, y) := (r.t 0, r.t 1, r.t 2)
  let slots := r.p 0 1
  decide (1 ≤ slots ∧ slots ≤ 8) && decide (r.p 1 1 ≤ 3) && f.layout = 1 && f.solid && wreFmt f.fmt && wreFmt y.fmt && y.rank = 4 &&
    s.layout = 0 && s.dims == [y.dim 2, y.dim 3, slots] && y.dim 0 = 1 && y.dim 1 = f.dim 1

/-- BEV_PROJECT (R183). -/
def opBevProject (o : OpCx) (x : Cx) : Cx :=
  let r := o.rec_
  let slots := r.p 0 1
  let (F, x) := o.view 0 x
  let s := r.t 1
  let y := r.t 2
  let (tab, x) := o.readT s (16 * s.count) x
  let g := fun (off n : Nat) => leNat ((tab.drop off).take n)
  x.storeT o false y fun i => (y.coords i).map fun c =>
    (List.range slots).foldl (fun acc k =>
      let e := ((c.getD 2 0) * y.dim 3 + c.getD 3 0) * slots + k
      let cam := g (16 * e) 2
      if cam = 0xFFFF then acc
      else
        let v := if cam < F.t.dim 0 then F.sample 1 (r.p 1 1) (r.f 4) cam (c.getD 1 0) (f32 (g (16 * e + 4) 4)) (f32 (g (16 * e + 8) 4))
          else f32 (Config.unstated (r.key ++ [c.getD 1 0, g (16 * e) 8, g (16 * e + 8) 4])).toNat
        fadd acc (fmul (f32 (g (16 * e + 12) 4)) v)) (Fp.zero false)

/-! ### Candidate lists (R184) -/

/-- A candidate record. -/
structure Candidate where
  score : Nat
  cls   : Nat
  kind  : Nat
  index : Nat
  box   : List Nat
  deriving DecidableEq, Repr

/-- Its 64 bytes. -/
def Candidate.bytes (c : Candidate) : List Byte :=
  leBytes 4 c.score ++ leBytes 2 c.cls ++ leBytes 1 c.kind ++ [0] ++ leBytes 4 c.index ++ leBytes 4 0 ++
    ((List.range 10).flatMap fun i => leBytes 4 (c.box.getD i 0)) ++ leBytes 8 0

/-- A candidate from its 64 bytes. -/
def readCandidate (b : List Byte) : Candidate :=
  let g := fun (off n : Nat) => leNat ((b.drop off).take n)
  { score := g 0 4, cls := g 4 2, kind := g 6 1, index := g 8 4, box := (List.range 10).map fun i => g (16 + 4 * i) 4 }

/-- A list's bytes: the header, then the records. -/
def listBytes (above nans : Nat) (l : List Candidate) : List Byte :=
  leBytes 4 l.length ++ leBytes 4 (satU 32 above) ++ leBytes 4 nans ++ leBytes 52 0 ++ l.flatMap Candidate.bytes

/-- The order of R186: descending score, then ascending INDEX. -/
def Candidate.before (a b : Candidate) : Bool :=
  (f32 b.score).lt (f32 a.score) || ((f32 a.score).eq (f32 b.score) && decide (a.index < b.index))

/-- Insert in order. -/
def insertBy (c : Candidate) : List Candidate → List Candidate
  | [] => [c]
  | d :: r => if c.before d then c :: d :: r else d :: insertBy c r

/-- The K best in order, and ABOVE and NAN_DROPPED (R186). -/
def selectBest (k : Nat) (thr : Fp) (l : List Candidate) : List Candidate × Nat × Nat :=
  let enter := l.filter fun c => thr.le (f32 c.score)
  ((enter.foldl (fun best c => (insertBy c best).take k) []), enter.length, (l.filter fun c => (f32 c.score).isNan).length)

/-- Formats that DPP reads (Table 5.5). -/
def dppFmt (f : Nat) : Bool := decide (f ≤ 2)
/-- Formats of a list's descriptor (Table 5.5): FP32 and INT32 fields. -/
def listFmt (f : Nat) : Bool := f = 0 || f = 13

/-- Write a list. -/
def Cx.storeList (o : OpCx) (t : Tensor) (k : Nat) (thr : Fp) (l : List Candidate) (x : Cx) : Cx :=
  let s := selectBest k thr l
  o.writeT t (listBytes s.2.1 s.2.2 s.1) x

/-! ### BOX_DECODE and TOPK -/

/-- The shape rule of BOX_DECODE (R185). -/
def boxDecodeOk (r : OpRec) : Bool :=
  let (s, g, a, o) := (r.t 0, r.t 1, r.t 2, r.t 3)
  let (kind, cl, k) := (r.p 0 1, r.p 2 2, r.p 4 2)
  [s, g].all (fun t => t.layout = 0 && dppFmt t.fmt) && listFmt o.fmt && decide (kind ≤ 2) && decide (r.p 1 1 ≤ 2) && decide (1 ≤ cl) &&
    decide (1 ≤ k ∧ k ≤ 4096) &&
    (if kind = 2 then s.rank = 3 && s.dim 0 = cl && g.dims == [10, s.dim 1, s.dim 2]
     else s.rank = 2 && s.dim 1 = cl && a.present && a.layout = 0 && dppFmt a.fmt && g.dims == [s.dim 0, 4] && a.dims == [s.dim 0, 4])

/-- x1, y1, x2, y2 around a centre (R185). -/
def corners (x y w h : Fp) : List Fp := [fsub x (fmul w half), fsub y (fmul h half), fadd x (fmul w half), fadd y (fmul h half)]

/-- A box of KIND 0 or 1 from an anchor and its regression (R185). -/
def anchorBox (kind : Nat) (var : Nat → Fp) (clip : Fp) (a d : List Fp) : List Fp :=
  let z := Fp.zero false
  let g := fun (i : Nat) => a.getD i z
  let t := fun (i : Nat) => fmul (d.getD i z) (var i)
  if kind = 0 then
    corners (fadd (g 0) (fmul (t 0) (g 2))) (fadd (g 1) (fmul (t 1) (g 3))) (fmul (g 2) (fexp (fmin (t 2) clip))) (fmul (g 3) (fexp (fmin (t 3) clip)))
  else
    let c := corners (g 0) (g 1) (g 2) (g 3)
    (List.range 4).map fun i => fadd (c.getD i z) (fmul (t i) (g (2 + i % 2)))

/-- A box of KIND 2 at (row, col) (R185). -/
def bevBox (clip ox oy cell : Fp) (row col : Nat) (v : Nat → Fp) : List Fp :=
  let e := fun (i : Nat) => fexp (fmin (v i) clip)
  [fadd ox (fmul (fadd (Fp.ofNat col) (v 0)) cell), fadd oy (fmul (fadd (Fp.ofNat row) (v 1)) cell), v 2, e 3, e 4, e 5,
   fatan2 (v 6) (v 7), v 8, v 9]

/-- The scores of one position over the classes under SCORE_FN (R185). -/
def scoreFn (fn : Nat) (l : List Fp) : List Fp :=
  match fn with
  | 1 => l.map fsigmoid
  | 2 => softmaxRow l
  | _ => l

/-- BOX_DECODE (R185, R186). -/
def opBoxDecode (o : OpCx) (x : Cx) : Cx :=
  let r := o.rec_
  let (kind, cl, k) := (r.p 0 1, r.p 2 2, r.p 4 2)
  let (S, x) := o.view 0 x
  let (G, x) := o.view 1 x
  let (A, x) := o.view 2 x
  let w := S.t.dim 2
  let positions := if kind = 2 then S.t.dim 1 * w else S.t.dim 0
  let box := fun (p : Nat) =>
    if kind = 2 then bevBox (r.f 12) (r.f 32) (r.f 36) (r.f 40) (p / w) (p % w) fun i => G.at [i, p / w, p % w]
    else anchorBox kind (fun i => r.f (16 + 4 * i)) (r.f 12) ((List.range 4).map fun i => A.at [p, i]) ((List.range 4).map fun i => G.at [p, i])
  let cand := (List.range positions).flatMap fun p =>
    let scores := scoreFn (r.p 1 1) ((List.range cl).map fun c => if kind = 2 then S.at [c, p / w, p % w] else S.at [p, c])
    let b := (box p).map Fp.code32
    (scores.zipIdx).map fun s => ({ score := s.1.code32, cls := s.2, kind := kind, index := p * cl + s.2, box := b } : Candidate)
  x.storeList o (r.t 3) k (r.f 8) cand

/-- The shape rule of TOPK (R186). -/
def topkOk (r : OpRec) : Bool :=
  let (s, o) := (r.t 0, r.t 1)
  s.layout = 0 && s.rank = 1 && dppFmt s.fmt && listFmt o.fmt && decide (s.dim 0 ≤ 16777216) && decide (1 ≤ r.p 0 2 ∧ r.p 0 2 ≤ 4096)

/-- TOPK (R186). -/
def opTopk (o : OpCx) (x : Cx) : Cx :=
  let r := o.rec_
  let (S, x) := o.view 0 x
  let cand := (List.range (S.t.dim 0)).map fun i => ({ score := (S.elem i).code32, cls := 0, kind := 0, index := i, box := [] } : Candidate)
  x.storeList o (r.t 1) (r.p 0 2) (r.f 4) cand

/-! ### NMS -/

/-- Field `i` of a candidate's box. -/
def Candidate.b (c : Candidate) (i : Nat) : Fp := f32 (c.box.getD i 0)

/-- Intersection and union of axis-aligned boxes (R187). -/
def iouAxis (a b : Candidate) : Fp × Fp :=
  let z := Fp.zero false
  let side := fun (c : Candidate) (i : Nat) => fmax z (fsub (c.b (i + 2)) (c.b i))
  let ov := fun (i : Nat) => fmax z (fsub (fmin (a.b (i + 2)) (b.b (i + 2))) (fmax (a.b i) (b.b i)))
  let n := fmul (ov 0) (ov 1)
  (n, fsub (fadd (fmul (side a 0) (side a 1)) (fmul (side b 0) (side b 1))) n)

/-- The corners of a BEV box, counter-clockwise (R187). -/
def bevCorners (c : Candidate) : List (Fp × Fp) :=
  let (l, w) := (fmul (c.b 3) half, fmul (c.b 4) half)
  let (cs, sn) := (vuTable 0x4B (c.b 6), vuTable 0x4A (c.b 6))
  [(l, w), (l.negate, w), (l.negate, w.negate), (l, w.negate)].map fun d =>
    (fadd (c.b 0) (fsub (fmul d.1 cs) (fmul d.2 sn)), fadd (c.b 1) (fadd (fmul d.1 sn) (fmul d.2 cs)))

/-- The cross product that places a vertex beside an edge (R187). -/
def edgeCross (p q v : Fp × Fp) : Fp := fsub (fmul (fsub q.1 p.1) (fsub v.2 p.2)) (fmul (fsub q.2 p.2) (fsub v.1 p.1))

/-- A list rotated by one. -/
def rotate1 {α : Type} : List α → List α
  | [] => []
  | a :: r => r ++ [a]

/-- One Sutherland-Hodgman step: a polygon against one edge (R187). -/
def clipEdge (p q : Fp × Fp) (poly : List (Fp × Fp)) : List (Fp × Fp) :=
  (poly.zip (rotate1 poly)).flatMap fun e =>
    let (d0, d1) := (edgeCross p q e.1, edgeCross p q e.2)
    let (in0, in1) := ((Fp.zero false).le d0, (Fp.zero false).le d1)
    let t := fdiv d0 (fsub d0 d1)
    let cross := (fadd e.1.1 (fmul t (fsub e.2.1 e.1.1)), fadd e.1.2 (fmul t (fsub e.2.2 e.1.2)))
    (if in0 then [e.1] else []) ++ (if in0 != in1 then [cross] else [])

/-- Intersection and union of rotated boxes (R187). -/
def iouRotated (a b : Candidate) : Fp × Fp :=
  let cb := bevCorners b
  let poly := (cb.zip (rotate1 cb)).foldl (fun poly e => clipEdge e.1 e.2 poly) (bevCorners a)
  let sum := (poly.zip (rotate1 poly)).foldl (fun s e => fadd s (fsub (fmul e.1.1 e.2.2) (fmul e.2.1 e.1.2))) (Fp.zero false)
  let n := fmul half sum.abs
  (n, fsub (fadd (fmul (a.b 3) (a.b 4)) (fmul (b.b 3) (b.b 4))) n)

/-- `b` overlaps `a` (R187): strictly above the threshold; never for an empty union. -/
def overlaps (rotated : Bool) (thr : Fp) (a b : Candidate) : Bool :=
  let (i, u) := if rotated then iouRotated a b else iouAxis a b
  !u.isZero && (fmul thr u).lt i

/-- The greedy selection of R188: kept candidates, in keep order. -/
def nmsKeep (rotated aware : Bool) (thr : Fp) (maxOut : Nat) : List Candidate → List Candidate → List Candidate
  | kept, [] => kept
  | kept, c :: r =>
    if maxOut ≤ kept.length then kept
    else if kept.any fun k => (!aware || k.cls = c.cls) && overlaps rotated thr c k then nmsKeep rotated aware thr maxOut kept r
    else nmsKeep rotated aware thr maxOut (kept ++ [c]) r

/-- An object entry (R241, Table 9.5). -/
def objectEntry (c : Candidate) : List Byte :=
  let h := fun (v : Fp) => leBytes 2 (fmtCode 1 .rne false 0 v)
  let head := [BitVec.ofNat 8 (if c.kind = 2 then 3 else 1), 0] ++ leBytes 2 c.cls ++ leBytes 4 c.score
  if c.kind = 2 then
    head ++ leBytes 4 (c.box.getD 0 0) ++ leBytes 4 (c.box.getD 1 0) ++ ((List.range 7).flatMap fun i => h (c.b (i + 2))) ++ leBytes 2 0
  else
    let mid := fun (i : Nat) => fmul (fadd (c.b i) (c.b (i + 2))) half
    let z := leBytes 2 0
    head ++ leBytes 4 (mid 0).code32 ++ leBytes 4 (mid 1).code32 ++ z ++ h (fsub (c.b 2) (c.b 0)) ++ h (fsub (c.b 3) (c.b 1)) ++ z ++ z ++ z ++ z ++ z

/-- The shape rule of NMS (R187, R188). -/
def nmsOk (r : OpRec) : Bool :=
  let (i, o) := (r.t 0, r.t 1)
  (dppFmt i.fmt || listFmt i.fmt) && (listFmt o.fmt || (o.fmt = 1 && r.p 4 1 = 1)) && decide (r.p 0 1 ≤ 1) && decide (r.p 1 1 ≤ 1) &&
    decide (1 ≤ r.p 2 2 ∧ r.p 2 2 ≤ 512) && decide (r.p 4 1 ≤ 1)

/-- The bytes that NMS writes: a list, whose ABOVE and NAN_DROPPED no rule states, or object entries; into a ring every remaining
entry of the slot as zero (R241). -/
def nmsBytes (o : OpCx) (objects : Bool) (t : Tensor) (input : List Byte) (kept : List Candidate) : List Byte :=
  if objects then
    let b := kept.flatMap objectEntry
    if t.space = 2 then b ++ List.replicate (16384 - b.length) 0 else b
  else
    let v := fun (k : Nat) => (Config.unstated (o.rec_.key ++ [k] ++ input.map fun b => b.toNat)).toNat
    listBytes (v 0) (v 1) kept

/-- NMS (R187, R188): at most 4,096 candidates, the longest list there is. -/
def opNms (o : OpCx) (x : Cx) : Cx :=
  let r := o.rec_
  let i := r.t 0
  let n := min 4096 (leNat (o.readT i 4 x).1)
  let (b, x) := o.readT i (64 + 64 * n) x
  let cand := (List.range n).map fun k => readCandidate ((b.drop (64 + 64 * k)).take 64)
  let kept := nmsKeep (r.p 0 1 = 1) (r.p 1 1 = 1) (r.f 8) (r.p 2 2) [] cand
  o.writeT (r.t 1) (nmsBytes o (r.p 4 1 = 1) (r.t 1) b kept) x

end Sys2Proof.Machine
end

