-- ==== Sys2Proof/Machine/OpsTrain.lean ====
section
/-! DEFINITION. Quantisation and training operators (R189-R194). -/

namespace Sys2Proof.Machine

/-! ### QUANTISE, DEQUANTISE, AMAX -/

/-- The shape rule of QUANTISE. -/
def quantiseOk (r : OpRec) : Bool := vuFmt (r.t 0).fmt && vuFmt (r.t 1).fmt && (r.t 1).dims == (r.t 0).dims
/-- QUANTISE (R189): steps 3 to 5 of R110. -/
def opQuantise (o : OpCx) (x : Cx) : Cx :=
  let (X, x) := o.view 0 x
  let y := o.rec_.t 1
  x.storeT o true y fun i => (y.coords i).map fun c => X.at c

/-- The shape rule of DEQUANTISE (R189). -/
def dequantiseOk (r : OpRec) : Bool := vuFmt (r.t 0).fmt && decide ((r.t 1).fmt ≤ 2) && (r.t 1).dims == (r.t 0).dims
/-- DEQUANTISE (R189). -/
def opDequantise (o : OpCx) (x : Cx) : Cx :=
  let (X, x) := o.view 0 x
  let y := o.rec_.t 1
  x.storeT o false y fun i => (y.coords i).map fun c => X.at c

/-- How many maxima AMAX writes, and which one an element belongs to (R189). A block of a channel-blocked tensor is 32 channels of
one position, whatever the width of its channel blocks (DEDUCED, log 164). -/
def amaxGroups (mode : Nat) (t : Tensor) : Nat × (Nat → List Nat → Nat) :=
  match mode with
  | 0 => (1, fun _ _ => 0)
  | 1 => (if t.layout = 1 then t.dim 1 else t.inner 0, fun _ c => t.chan c)
  | _ =>
    let cb := cdiv (t.dim 1) 32
    if t.layout = 1 then
      (t.dim 0 * cb * t.dim 2 * t.dim 3, fun _ c => ((c.getD 0 0 * cb + c.getD 1 0 / 32) * t.dim 2 + c.getD 2 0) * t.dim 3 + c.getD 3 0)
    else (if t.rowLen = 0 then 0 else t.stored / t.rowLen * cdiv t.rowLen 32, fun i _ => t.blk i)

/-- The shape rule of AMAX. -/
def amaxOk (r : OpRec) : Bool :=
  let o := r.t 1
  decide (r.p 0 1 ≤ 2) && vuFmt (r.t 0).fmt && o.fmt = 0 && o.layout = 0 && o.count = (amaxGroups (r.p 0 1) (r.t 0)).1
/-- AMAX (R189): the rule of R115 for non-finite elements; padding channels take no part. -/
def opAmax (o : OpCx) (x : Cx) : Cx :=
  let (X, x) := o.view 0 x
  let (n, of) := amaxGroups (o.rec_.p 0 1) X.t
  let m := (List.range X.t.stored).foldl (fun (m : List Fp) i =>
    match X.t.coords i with
    | some c => m.modify (of i c) fun a => amax2 a (X.elem i).abs
    | none => m) (List.replicate n (Fp.zero false))
  x.storeF32 o (o.rec_.t 1) m

/-! ### LOSS -/

/-- The shape rule of LOSS (R190). -/
def lossOk (r : OpRec) : Bool :=
  let (p, t, w, l, d) := (r.t 0, r.t 1, r.t 2, r.t 3, r.t 4)
  decide (r.p 0 1 ≤ 1) && vuFmt p.fmt && vuFmt t.fmt && vuFmt d.fmt && t.dims == p.dims && d.dims == p.dims && l.fmt = 0 && l.count = 1 &&
    (!w.present || (vuFmt w.fmt && w.layout = 0 && bcastDims p.dims w.dims == some p.dims))

/-- The loss term and dL/dYP of one element (R190). -/
def lossTerm (huber : Bool) (delta norm wt e : Fp) : Fp × Fp :=
  let nw := fmul norm wt
  if !huber then (fmul wt (fmul e e), fmul nw (fmul (Fp.ofNat 2) e))
  else if e.abs.le delta then (fmul (fmul wt half) (fmul e e), fmul nw e)
  else
    let sign := if e.isNan then .nan else if e.isZero then Fp.zero false else Fp.ofInt (if e.neg? then -1 else 1)
    (fmul (fmul wt delta) (fsub e.abs (fmul half delta)), fmul (fmul nw delta) sign)

/-- LOSS (R190). -/
def opLoss (o : OpCx) (x : Cx) : Cx :=
  let r := o.rec_
  let (P, x) := o.view 0 x
  let (T, x) := o.view 1 x
  let (W, x) := o.view 2 x
  let terms := (List.range P.t.count).map fun i =>
    let c := P.t.index i
    lossTerm (r.p 0 1 = 1) (r.f 4) (r.f 8) (if W.t.present then W.bcast c else Fp.ofNat 1) (fsub (P.at c) (T.at c))
  let x := x.storeF32 o (r.t 3) [fmul (treeSum (terms.map fun p => p.1)) (r.f 8)]
  let d := r.t 4
  x.storeT o false d fun i => (d.coords i).map fun c => (terms.map fun p => p.2).getD (ravel P.t.dims c) (Fp.zero false)

/-! ### SSM_SCAN_BWD -/

/-- Formats of gradient outputs (R191). -/
def gradFmt (f : Nat) : Bool := f = 0 || f = 2 || f = 4

/-- The shape rule of SSM_SCAN_BWD (R191). -/
def ssmScanBwdOk (r : OpRec) : Bool :=
  let like := fun (i j : Nat) => (r.t i).dims == (r.t j).dims && (r.t i).layout = 0
  ssmInputsOk r && like 8 0 && vuFmt (r.t 8).fmt && like 9 0 && like 10 0 && like 11 2 && like 12 3 && like 13 4 && like 14 5 &&
    [9, 10, 11, 12, 13, 14].all fun i => gradFmt (r.t i).fmt

/-- The gradients of a sequence while it runs: those over channels and states, and those of its steps. -/
structure SsmGrad where
  g   : List (List Fp)
  da  : List (List Fp)
  dd  : List Fp
  db  : List (List Fp)
  dc  : List (List Fp)
  dx  : List (List Fp)
  ddt : List (List Fp)

/-- A matrix of +0. -/
def zeros (a b : Nat) : List (List Fp) := List.replicate a (List.replicate b (Fp.zero false))
/-- Entry (i, j). -/
def mget (m : List (List Fp)) (i j : Nat) : Fp := (m.getD i []).getD j (Fp.zero false)
/-- Change entry (i, j). -/
def mmod (m : List (List Fp)) (i j : Nat) (f : Fp → Fp) : List (List Fp) := m.modify i fun r => r.modify j f

/-- The body of R191's loops for one step and channel; `before` and `after` are the states h_{t-1} and h_t. -/
def ssmBack (i : SsmIn) (dy : View) (s t c : Nat) (before after : List Fp) (a : SsmGrad) : SsmGrad :=
  let z := Fp.zero false
  let x := i.x.at [s, t, c]
  let dt := i.dt.at [s, t, c]
  let u := fmul dt x
  let y := dy.at [s, t, c]
  let (a, du, ddt) := (List.range (i.a.t.dim 1)).foldl (fun (p : SsmGrad × Fp × Fp) n =>
    let (a, du, ddt) := p
    let an := i.a.at [c, n]
    let e := fexp (fmul dt an)
    let gh := ffma y (i.cm.at [s, t, n]) (mget a.g c n)
    let da := fmul (fmul gh (before.getD n z)) e
    ({ a with dc := mmod a.dc t n fun v => fadd v (fmul y (after.getD n z)), db := mmod a.db t n fun v => fadd v (fmul gh u),
              da := mmod a.da c n fun v => fadd v (fmul da dt), g := mmod a.g c n fun _ => fmul gh e },
     ffma gh (i.b.at [s, t, n]) du, ffma da an ddt)) (a, z, z)
  { a with ddt := mmod a.ddt t c fun _ => ffma du x ddt, dx := mmod a.dx t c fun _ => ffma du dt (fmul y (i.d.at [c])),
           dd := a.dd.modify c fun v => fadd v (fmul y x) }

/-- One sequence (R191): DA and DD carry over from the sequences before it. -/
def ssmBackSeq (i : SsmIn) (dy : View) (s : Nat) (da : List (List Fp)) (dd : List Fp) : SsmGrad :=
  let (nt, nc, nn) := (i.x.t.dim 1, i.x.t.dim 2, i.a.t.dim 1)
  let hist := (List.range nc).map fun c => (i.scan s c).1
  let h := fun (c k : Nat) => (hist.getD c []).getD k []
  let a : SsmGrad := { g := zeros nc nn, da := da, dd := dd, db := zeros nt nn, dc := zeros nt nn, dx := zeros nt nc, ddt := zeros nt nc }
  (List.range (i.length s)).reverse.foldl (fun a t =>
    (List.range nc).foldl (fun a c => ssmBack i dy s t c (h c t) (h c (t + 1)) a) a) a

/-- SSM_SCAN_BWD (R191). -/
def opSsmScanBwd (o : OpCx) (x : Cx) : Cx :=
  let r := o.rec_
  let (i, x) := o.ssm x
  let (dy, x) := o.view 8 x
  let (ns, nt, nc, nn) := (i.x.t.dim 0, i.x.t.dim 1, i.x.t.dim 2, i.a.t.dim 1)
  let runs := (List.range ns).foldl (fun (l : List SsmGrad) s =>
    match l.getLast? with
    | some p => l ++ [ssmBackSeq i dy s p.da p.dd]
    | none => l ++ [ssmBackSeq i dy s (zeros nc nn) (List.replicate nc (Fp.zero false))]) []
  let step := fun (k n : Nat) (of : SsmGrad → List (List Fp)) (x : Cx) =>
    x.storeT o true (r.t k) fun j => some (((runs.map of)[j / (nt * n)]?.map fun m => mget m (j / n % nt) (j % n)).getD (Fp.zero false))
  let x := step 9 nc (fun a => a.dx) x
  let x := step 10 nc (fun a => a.ddt) x
  let last := runs.getLast?
  let x := x.storeT o true (r.t 11) fun j => some ((last.map fun a => mget a.da (j / nn) (j % nn)).getD (Fp.zero false))
  let x := step 12 nn (fun a => a.db) x
  let x := step 13 nn (fun a => a.dc) x
  x.storeT o true (r.t 14) fun j => some ((last.map fun a => a.dd.getD j (Fp.zero false)).getD (Fp.zero false))

/-! ### Gradient scale records -/

/-- Q_USED of the record that a tensor's header names; 1 without one (R192, R193). -/
def View.qUsed (w : View) : Fp :=
  if w.hdr.inRec = 0xFFFFFFFF then Fp.ofNat 1 else f32 (w.rd (recPlace w.c w.hdr.inRec).1 (recPlace w.c w.hdr.inRec).2 4)

/-- A gradient element expanded with its scale (R192, R193). -/
def View.grad (w : View) (i : Nat) : Fp := if w.hdr.out = 0 then fmul (w.raw i).r32 w.qUsed else w.elem i

/-- A gradient whose record holds a non-finite AMAX_LAST (R192, R194). -/
def View.badAmax (w : View) : Bool :=
  w.t.present && w.hdr.inRec ≠ 0xFFFFFFFF && !(f32 (w.rd (recPlace w.c w.hdr.inRec).1 ((recPlace w.c w.hdr.inRec).2 + 0x10) 4)).isFin

/-! ### GRAD_NORM -/

/-- The shape rule of GRAD_NORM. -/
def gradNormOk (r : OpRec) : Bool :=
  (r.tensors.take 14).all (fun t => !t.present || vuFmt t.fmt) && (r.t 14).fmt = 0 && decide (1 ≤ (r.t 14).count)

/-- Views of several tensors. -/
def OpCx.views (o : OpCx) (l : List Nat) (x : Cx) : List View × Cx :=
  l.foldl (fun p i => let (v, x) := o.view i p.2; (p.1 ++ [v], x)) ([], x)

/-- GRAD_NORM (R192). -/
def opGradNorm (o : OpCx) (x : Cx) : Cx :=
  let r := o.rec_
  let (gs, x) := o.views ((List.range 14).filter fun i => (r.t i).present) x
  let total := fun (w : View) =>
    treeSum (((List.range w.t.stored).filter fun i => (w.t.coords i).isSome).map fun i => let g := w.grad i; fmul g g)
  let n2 := (gs.map total).foldl fadd (Fp.zero false)
  if !n2.isFin || gs.any View.badAmax then x.stop stNonfinite
  else
    let f := fmin (Fp.ofNat 1) (fmul (r.f 0) (frcp (fadd (fsqrtT n2) (fdec 1 6))))
    o.writeT (r.t 14) (leBytes 4 f.code32) x

/-! ### OPT_ADAMW and OPT_SGD -/

/-- A moment element: its block is 32 consecutive parameters (R122). -/
def View.moment (w : View) (i : Nat) : Fp :=
  scaleBy (if w.hdr.block = 0 then .none else blkScale w.rd w.hdr (i / 32)) (w.ofCode (w.code i))

/-- Moments re-scaled per block (R122, R193): a block scale by R116 at the header's data, codes rounded with RNE. -/
def Cx.storeMoments (o : OpCx) (t : Tensor) (vals : List Fp) (x : Cx) : Cx :=
  let groups := (List.range (cdiv vals.length 32)).map fun g => (vals.drop (32 * g)).take 32
  let scales := groups.map fun g => e8m0Of t.fmt (amaxOf g)
  let codes := (groups.zip scales).flatMap fun p => p.1.map fun v =>
    fmtCode t.fmt .rne false 0 (if p.2 = 255 then .nan else v.mul (Fp.pow2 (127 - (p.2 : Int))))
  let x := o.writeT t (packCodes t.fmt codes) x
  match t.scale with
  | some p => x.write o.u p.1 (p.2 + 0x40) (scales.map fun g => BitVec.ofNat 8 g)
  | none => x

/-- Master weights, rounded stochastically with the record's SEED and the parameter's index (R122, R193). -/
def Cx.storeWeights (o : OpCx) (t : Tensor) (vals : List Fp) (x : Cx) : Cx :=
  let code := fun (p : Fp × Nat) => fmtCode t.fmt (.stoch (stochWord x.run.ident o.rec_.seed (x.elemOf true o.rec_ p.2))) false 0 p.1
  o.writeT t (packCodes t.fmt ((vals.zipIdx).map code)) x

/-- The shape rule that the optimisers share: W and W_OUT BF16, moments E4M3 with a scale header, all of one ND shape. -/
def optOk (w g clip wo : Tensor) (moments : List Tensor) : Bool :=
  w.fmt = 2 && wo.fmt = 2 && vuFmt g.fmt && moments.all (fun m => m.fmt = 3 && m.scale.isSome) &&
    (w :: g :: wo :: moments).all (fun t => t.layout = 0 && t.dims == w.dims) && (!clip.present || (clip.fmt = 0 && decide (1 ≤ clip.count)))

/-- The shape rule of OPT_ADAMW (R193). -/
def optAdamwOk (r : OpRec) : Bool := decide (1 ≤ r.p 20 4) && optOk (r.t 0) (r.t 1) (r.t 4) (r.t 5) [r.t 2, r.t 3, r.t 6, r.t 7]
/-- The shape rule of OPT_SGD (R193). -/
def optSgdOk (r : OpRec) : Bool := decide (r.p 12 1 ≤ 1) && optOk (r.t 0) (r.t 1) (r.t 3) (r.t 4) [r.t 2, r.t 5]

/-- The clipping factor: 1 without CLIP. -/
def clipFactor (v : View) : Fp := if v.t.present then v.elem 0 else Fp.ofNat 1

/-- One parameter of OPT_ADAMW (R193): w, m and v. -/
def adamw (lr b1 b2 eps wd : Fp) (step : Nat) (w g m v : Fp) : Fp × Fp × Fp :=
  let one := Fp.ofNat 1
  let corr := fun (b : Fp) => frcp (fsub one (fexp2 (fmul (Fp.ofNat step).r32 (flog2 b))))
  let m := fadd (fmul b1 m) (fmul (fsub one b1) g)
  let v := fadd (fmul b2 v) (fmul (fmul (fsub one b2) g) g)
  let mh := fmul m (corr b1)
  let vh := fmul v (corr b2)
  (fsub w (fmul lr (fadd (fmul mh (frcp (fadd (fsqrtT vh) eps))) (fmul wd w))), m, v)

/-- OPT_ADAMW (R193, R194). -/
def opOptAdamw (o : OpCx) (x : Cx) : Cx :=
  let r := o.rec_
  let (W, x) := o.view 0 x
  let (G, x) := o.view 1 x
  let (M, x) := o.view 2 x
  let (V, x) := o.view 3 x
  let (C, x) := o.view 4 x
  if G.badAmax then x.stop stNonfinite else
  let res := (List.range W.t.count).map fun i =>
    adamw (r.f 0) (r.f 4) (r.f 8) (r.f 12) (r.f 16) (r.p 20 4) (W.elem i) (fmul (G.grad i) (clipFactor C)) (M.moment i) (V.moment i)
  ((x.storeWeights o (r.t 5) (res.map fun p => p.1)).storeMoments o (r.t 6) (res.map fun p => p.2.1)).storeMoments o (r.t 7) (res.map fun p => p.2.2)

/-- One parameter of OPT_SGD (R193): w and m. -/
def sgd (lr mom wd : Fp) (nesterov : Bool) (w g m : Fp) : Fp × Fp :=
  let m := fadd (fadd (fmul mom m) g) (fmul wd w)
  let d := if nesterov then fadd (fadd g (fmul wd w)) (fmul mom m) else m
  (fsub w (fmul lr d), m)

/-- OPT_SGD (R193, R194). -/
def opOptSgd (o : OpCx) (x : Cx) : Cx :=
  let r := o.rec_
  let (W, x) := o.view 0 x
  let (G, x) := o.view 1 x
  let (M, x) := o.view 2 x
  let (C, x) := o.view 3 x
  if G.badAmax then x.stop stNonfinite else
  let res := (List.range W.t.count).map fun i =>
    sgd (r.f 0) (r.f 4) (r.f 8) (r.p 12 1 = 1) (W.elem i) (fmul (G.grad i) (clipFactor C)) (M.moment i)
  (x.storeWeights o (r.t 4) (res.map fun p => p.1)).storeMoments o (r.t 5) (res.map fun p => p.2)

end Sys2Proof.Machine
end

