-- ==== Sys2Proof/Machine/Operators.lean ====
section
/-! DEFINITION. The operator table (Table 7.3), the checks of a record (R160, R161), running a record as a command or in an
engine program, and the rows of the operators and of GXE's gather descriptors (R154). -/

namespace Sys2Proof.Machine

/-! ### The table -/

/-- The unit that Table 7.3 gives an operator. -/
inductive OpUnit where
  | arrays | vu | gxe | wre | dpp | qoe
  deriving DecidableEq, Repr

/-- A row of Table 7.3: which tensors are optional, which are outputs, the parameter block's size, and the unit. -/
structure OpInfo where
  opt   : List Bool
  outs  : List Nat
  psize : Nat
  unit  : OpUnit
  deriving DecidableEq, Repr

/-- `n` tensors, those of `opt` optional. -/
def opEntry (n : Nat) (opt outs : List Nat) (psize : Nat) (unit : OpUnit) : OpInfo :=
  { opt := (List.range n).map fun i => opt.contains i, outs := outs, psize := psize, unit := unit }

/-- Table 7.3. -/
def opInfo (op : Nat) : Option OpInfo :=
  match op with
  | 0x0001 => some (opEntry 4 [2] [3] 32 .arrays)
  | 0x0002 => some (opEntry 4 [2] [3] 32 .vu)
  | 0x0003 => some (opEntry 2 [] [1] 24 .vu)
  | 0x0004 => some (opEntry 2 [] [1] 16 .vu)
  | 0x0010 => some (opEntry 4 [2] [3] 16 .arrays)
  | 0x0020 => some (opEntry 4 [1, 2] [3] 8 .vu)
  | 0x0021 => some (opEntry 2 [] [1] 16 .vu)
  | 0x0022 => some (opEntry 4 [1, 2] [3] 8 .vu)
  | 0x0023 => some (opEntry 2 [] [1] 0 .vu)
  | 0x0024 => some (opEntry 2 [] [1] 0 .vu)
  | 0x0030 => some (opEntry 5 [3] [4] 8 .arrays)
  | 0x0031 => some (opEntry 10 [7] [8, 9] 0 .vu)
  | 0x0032 => some (opEntry 3 [] [2] 8 .gxe)
  | 0x0040 => some (opEntry 2 [] [1] 8 .wre)
  | 0x0041 => some (opEntry 3 [] [2] 8 .wre)
  | 0x0042 => some (opEntry 3 [] [2] 8 .wre)
  | 0x0043 => some (opEntry 3 [] [2] 8 .wre)
  | 0x0050 => some (opEntry 4 [2] [3] 48 .dpp)
  | 0x0051 => some (opEntry 2 [] [1] 8 .dpp)
  | 0x0052 => some (opEntry 2 [] [1] 16 .dpp)
  | 0x0060 => some (opEntry 2 [] [1] 0 .qoe)
  | 0x0061 => some (opEntry 2 [] [1] 0 .qoe)
  | 0x0062 => some (opEntry 2 [] [1] 8 .qoe)
  | 0x0070 => some (opEntry 5 [2] [3, 4] 16 .vu)
  | 0x0071 => some (opEntry 15 [7] [9, 10, 11, 12, 13, 14] 0 .vu)
  | 0x0072 => some (opEntry 15 (List.range 14) [14] 8 .vu)
  | 0x0073 => some (opEntry 8 [4] [5, 6, 7] 24 .qoe)
  | 0x0074 => some (opEntry 6 [3] [4, 5] 16 .qoe)
  | _ => none

/-- The shape rule of each operator (R161). -/
def opShapeOk (r : OpRec) : Bool :=
  match r.op with
  | 0x0001 => conv2dOk r
  | 0x0002 => dwconv2dOk r
  | 0x0003 => poolOk r
  | 0x0004 => padOk r
  | 0x0010 => matmulOk r
  | 0x0020 => eltwiseOk r
  | 0x0021 => activationOk r
  | 0x0022 => layerNormOk r
  | 0x0023 => softmaxOk r
  | 0x0024 => layoutConvertOk r
  | 0x0030 => attentionOk r
  | 0x0031 => ssmScanOk r
  | 0x0032 => embedGatherOk r
  | 0x0040 => resizeOk r
  | 0x0041 => gridSampleOk r
  | 0x0042 => undistortOk r
  | 0x0043 => bevProjectOk r
  | 0x0050 => boxDecodeOk r
  | 0x0051 => topkOk r
  | 0x0052 => nmsOk r
  | 0x0060 => quantiseOk r
  | 0x0061 => dequantiseOk r
  | 0x0062 => amaxOk r
  | 0x0070 => lossOk r
  | 0x0071 => ssmScanBwdOk r
  | 0x0072 => gradNormOk r
  | 0x0073 => optAdamwOk r
  | 0x0074 => optSgdOk r
  | _ => false

/-- What each operator computes. -/
def opBody (op : Nat) : OpCx → Cx → Cx :=
  match op with
  | 0x0001 => opConv2d
  | 0x0002 => opDwconv2d
  | 0x0003 => opPool
  | 0x0004 => opPad
  | 0x0010 => opMatmul
  | 0x0020 => opEltwise
  | 0x0021 => opActivation
  | 0x0022 => opLayerNorm
  | 0x0023 => opSoftmax
  | 0x0024 => opLayoutConvert
  | 0x0030 => opAttention
  | 0x0031 => opSsmScan
  | 0x0032 => opEmbedGather
  | 0x0040 => opResize
  | 0x0041 => opGridSample
  | 0x0042 => opUndistort
  | 0x0043 => opBevProject
  | 0x0050 => opBoxDecode
  | 0x0051 => opTopk
  | 0x0052 => opNms
  | 0x0060 => opQuantise
  | 0x0061 => opDequantise
  | 0x0062 => opAmax
  | 0x0070 => opLoss
  | 0x0071 => opSsmScanBwd
  | 0x0072 => opGradNorm
  | 0x0073 => opOptAdamw
  | 0x0074 => opOptSgd
  | _ => fun _ x => x

/-! ### The checks of a record -/

/-- The bytes that tensor `i` of a record takes; `n` is the length of the list that NMS reads. -/
def OpRec.bytesOf (r : OpRec) (n i : Nat) : Nat :=
  match r.op, i with
  | 0x0043, 1 => 16 * (r.t 1).count
  | 0x0050, 3 => 64 + 64 * r.p 4 2
  | 0x0051, 1 => 64 + 64 * r.p 0 2
  | 0x0052, 0 => 64 + 64 * n
  | 0x0052, 1 => if r.p 4 1 = 0 then 64 + 64 * r.p 2 2 else if (r.t 1).space = 2 then 16384 else 32 * r.p 2 2
  | 0x0072, 14 => 64
  | 0x0073, 4 => 64
  | 0x0074, 3 => 64
  | _, _ => (r.t i).bytes

/-- The bytes that tensor `i` touches, as accesses. -/
def OpRec.accs (r : OpRec) (ringAt : RingAt) (n i : Nat) : List Acc :=
  let t := r.t i
  let outs := match opInfo r.op with | some k => k.outs | none => []
  if !t.present then []
  else (t.runs ringAt (outs.contains i) (r.bytesOf n i)).map fun p => { wr := outs.contains i, sp := p.1, addr := p.2.1, len := p.2.2 }

/-- What a record reaches beyond its tensors: scale headers and data, the block scales that it writes (R121), and the scale
record of an output (R117). -/
def OpRec.scaleAccs (rd : Reader) (r : OpRec) (i : Nat) : List Acc :=
  let t := r.t i
  let outs := match opInfo r.op with | some k => k.outs | none => []
  match t.present, t.scale with
  | true, some p =>
    let h := readHdr rd p.1 (some p.2)
    let blocks := if t.rowLen = 0 then 0 else t.stored / t.rowLen * cdiv t.rowLen 32
    { wr := false, sp := p.1, addr := p.2, len := 64 + t.scaleBytes h } ::
      ((if outs.contains i && decide (h.outBlock = 1) then [{ wr := true, sp := p.1, addr := p.2 + 64, len := blocks }] else []) ++
       (if outs.contains i && decide (h.outRec ≠ 0xFFFFFFFF) then [{ wr := true, sp := (recPlace 0 h.outRec).1, addr := (recPlace 0 h.outRec).2, len := 64 }] else []) ++
       (if h.inRec ≠ 0xFFFFFFFF then [{ wr := false, sp := (recPlace 0 h.inRec).1, addr := (recPlace 0 h.inRec).2, len := 64 }] else []))
  | _, _ => []

/-- The bytes that say how much a record reads and writes: its tensors' scale headers, and the header of the list that NMS reads. -/
def OpRec.headAccs (r : OpRec) (ringAt : RingAt) : List Acc :=
  ((List.range r.ntensor).flatMap fun i => match (r.t i).present, (r.t i).scale with
    | true, some p => [{ wr := false, sp := p.1, addr := p.2, len := 64 }]
    | _, _ => []) ++
  (if r.op = 0x0052 then ((r.t 0).runs ringAt false 64).map fun p => { wr := false, sp := p.1, addr := p.2.1, len := p.2.2 } else [])

/-- No output overlaps an input or another output (R160). -/
def OpRec.disjoint (r : OpRec) (ringAt : RingAt) (n : Nat) : Bool :=
  let all := (List.range r.ntensor).map fun i => r.accs ringAt n i
  (all.zipIdx).all fun a => a.1.all fun x => !x.wr || (all.zipIdx).all fun b => a.2 = b.2 || b.1.all fun y => decide (y.len = 0) || decide (x.len = 0) || !x.overlaps y

/-- A present tensor's descriptor (Table 7.2). -/
def Tensor.wellFormed (t : Tensor) (engine : Bool) : Bool :=
  decide (t.space ≤ (if engine then 2 else 1)) && decide (t.fmt ≤ 14) && decide (t.layout ≤ 1) && decide (1 ≤ t.rank ∧ t.rank ≤ 8) &&
    (t.layout = 0 || t.rank = 4)

/-- A record that R158 to R163 accept; `engine` for a record of an engine program. -/
def OpRec.ok (r : OpRec) (engine : Bool) (ringAt : RingAt) (n : Nat) : Bool :=
  match opInfo r.op with
  | none => false
  | some k =>
    r.version = 1 && r.ntensor = k.opt.length && r.psize = k.psize && decide (r.flags ≤ (if engine then 3 else 0)) && decide (r.convert < 8) &&
      decide (r.round ≤ 2) && r.reserved = 0 &&
      ((r.tensors.zip k.opt).all fun p => if p.1.present then p.1.wellFormed engine else p.2) &&
      opShapeOk r && r.disjoint ringAt n

/-- The scale headers of a record are allowed (R102-R104, R121), as far as they are `known`. -/
def OpRec.hdrsOk (r : OpRec) (rd : Reader) (known : Space → Nat → Bool) : Bool :=
  let outs := match opInfo r.op with | some k => k.outs | none => []
  (List.range r.ntensor).all fun i =>
    let t := r.t i
    match t.present, t.scale with
    | true, some p =>
      !known p.1 p.2 ||
        (let h := readHdr rd p.1 (some p.2)
         hdrReservedOk rd p.1 p.2 && if outs.contains i then h.outputOk t.fmt 0 else h.operandOk t.fmt && decide (h.out ≤ 3))
    | _, _ => true

/-- COUNT of the list that NMS reads, as it stands, at most 4,096. -/
def OpRec.nmsLen (r : OpRec) (rd : Reader) (ringAt : RingAt) : Nat :=
  min 4096 (leNat (((r.t 0).runs ringAt false 4).flatMap fun p => leBytes p.2.2 (rd p.1 p.2.1 p.2.2)))

/-! ### Running a record -/

/-- The unit identifiers of a command's operator: array and VU operators run on the lowest core of its set. -/
def opUnitOf (k : OpUnit) (c : Fin 8) : UnitId :=
  match k with
  | .arrays => .mxc c | .vu => .mxc c | .gxe => .eng .gxe | .wre => .eng .wre | .dpp => .eng .dpp | .qoe => .eng .qoe
/-- The domain of an operator's unit outside the cores (R370). -/
def opDomain : OpUnit → Option Nat
  | .wre => some 41 | .gxe => some 42 | .dpp => some 43 | .qoe => some 44 | _ => none

/-- The lowest core of a set. -/
def lowestCore (m : Nat) : Fin 8 := ((List.finRange 8).find? fun c => m.testBit c.val).getD 0

/-- Run one record in a run. `ord` is its ordinal within its program (R112). A scale record in a scratchpad lies in core `c`'s
(R104 names the drain's own core; DESIGN CHOICE for records without a drain, log 152). -/
def Cx.runRecord (u : UnitId) (c : Fin 8) (ringAt : RingAt) (ord : Nat) (r : OpRec) (x : Cx) : Cx :=
  opBody r.op { u := u, c := c, qoe := decide (u = .eng .qoe), rec_ := r, ringAt := ringAt } { x with run := { x.run with qoeOrd := ord } }

/-- The record of a RUN_OP, as it lies in LPDDR5X. -/
def State.commandRec (q : QmRun) (s : State) : OpRec := readRec (s.cxQm q).rd .dram (q.pkt.u 0x18 8)

/-- A command's record runs (R161): on its unit, whose domain is on (R370). -/
def State.runCommandRec (q : QmRun) (s : State) : State :=
  let r := s.commandRec q
  match opInfo r.op with
  | none => s.endQm q stBadParam 0xFFFF
  | some k =>
    let x := s.cxQm q
    let c := lowestCore x.cores
    let off := match opDomain k.unit with | some d => !x.usable.getLsbD d | none => false
    if off then s.endQm q stNoResource 0
    else
      let x := x.runRecord (opUnitOf k.unit c) c (fun _ _ _ => none) 0 r
      s.qmBack { q with run := { q.run with done := true } } { x with run := { x.run with done := true } }

/-- The place of an engine among the four. -/
def engIdx : Engine → Nat | .wre => 0 | .gxe => 1 | .dpp => 2 | .qoe => 3
/-- An engine's state. -/
def Fab.engine (f : Fab) (e : Engine) : EngineSt := vget f.engines (engIdx e) EngineSt.idle
/-- Replace it. -/
def Fab.putEngine (f : Fab) (e : Engine) (k : EngineSt) : Fab := { f with engines := vset f.engines (engIdx e) k }

/-- The program of an engine in a contract. -/
def Contract.program (a : Contract) (e : Engine) : List EngRecord :=
  match a.programs.find? fun p => p.1 = unitCode (.eng e) with | some p => p.2 | none => []

/-- The next record or descriptor of an engine, with its step, when the engine may take it: the frame program runs, the
step so far is not complete, and a new step finds the unit settled (R30). -/
def State.engineNext (e : Engine) (s : State) : Option (Contract × EngRecord × StepEntry) :=
  match s.ctr.armed with
  | none => none
  | some a =>
    let k := s.fab.engine e
    if !(s.ctr.prog.running && !k.halted && !k.run.done && (k.run.active || s.unitReady (.eng e))) then none else
    match (a.program e)[k.next]?, a.stepOf (unitCode (.eng e)) k.next with
    | some r, some st => some (a, r, st)
    | _, _ => none

/-- A record or descriptor of an engine's program has run: its run, and the next one; or it waits for a domain that is switching on
(R137). -/
def State.engineBack (e : Engine) (r : EngRecord) (x : Cx) (s : State) : State :=
  let k := s.fab.engine e
  if x.wait then s else
  (s.cxBack x).onFab fun f => f.putEngine e { k with next := k.next + 1, run := { x.run with done := r.isStep } }

/-- The run of an engine's step. -/
def State.engineRun (e : Engine) (st : StepEntry) (s : State) : Run :=
  let k := s.fab.engine e
  if k.run.active then k.run else Run.start 0 st.id s.now s.waveNow

/-- Every access of an engine's record: tensors, scales and records (R45, R46). -/
def OpRec.allAccs (r : OpRec) (rd : Reader) (ringAt : RingAt) : List Acc :=
  (List.range r.ntensor).flatMap fun i => r.accs ringAt (r.nmsLen rd ringAt) i ++ r.scaleAccs rd i

/-- The next record of an engine's program (R154, R158): it waits for its rings (R45, R46), first for the headers that say how
much it reads; the records of a coppice step do no work (R60). -/
def State.runEngineRec (e : Engine) (rec_ : Nat) (op : Nat) (s : State) : State :=
  if e = .gxe then s else
  match s.engineNext e with
  | none => s
  | some (a, er, st) =>
    let unit := unitCode (.eng e)
    let ringAt : RingAt := fun wr r o => a.ringAt s.ctr.prog wr r o
    let x := s.cx (s.engineRun e st)
    let r := readRec x.rd .dram (a.imageAddr + er.off)
    if a.imageAddr + er.off ≠ rec_ ∨ r.op ≠ op then s
    else if st.kind = 2 then s.engineBack e er x
    else
      if !s.ringsReady a unit (r.headAccs ringAt) || !s.ringsReady a unit (r.allAccs x.rd ringAt) then s
      else s.engineBack e er (x.runRecord (.eng e) 0 ringAt (s.fab.engine e).next r)

/-- One operator row: the record at `rec_` runs as the running command's (after a replay or a retry has set it back), or as
the next one of an engine's program. -/
def State.operatorRow (op : Nat) (u : Cu) (rec_ : Nat) (s : State) : State :=
  if !s.pins.rstN then s else
  match u with
  | .core _ => s
  | .engine e => s.runEngineRec e rec_ op
  | .qm =>
    match s.cpx.qm with
    | none => s
    | some q =>
      if q.streams.isEmpty && !q.run.done && decide (q.pkt.u 0x18 8 = rec_) && decide ((s.commandRec q).op = op) then s.runCommandRec q else s

/-! ### The rows -/

/-- CONV2D (R164). -/
def execConv2d (u : Cu) (rec_ : Nat) (s : State) : Out := .next (s.operatorRow 0x0001 u rec_)
/-- DWCONV2D (R167). -/
def execDwconv2d (u : Cu) (rec_ : Nat) (s : State) : Out := .next (s.operatorRow 0x0002 u rec_)
/-- POOL (R168). -/
def execPool (u : Cu) (rec_ : Nat) (s : State) : Out := .next (s.operatorRow 0x0003 u rec_)
/-- PAD (R168). -/
def execPad (u : Cu) (rec_ : Nat) (s : State) : Out := .next (s.operatorRow 0x0004 u rec_)
/-- MATMUL (R169). -/
def execMatmul (u : Cu) (rec_ : Nat) (s : State) : Out := .next (s.operatorRow 0x0010 u rec_)
/-- ELTWISE (R172). -/
def execEltwise (u : Cu) (rec_ : Nat) (s : State) : Out := .next (s.operatorRow 0x0020 u rec_)
/-- ACTIVATION (R172). -/
def execActivation (u : Cu) (rec_ : Nat) (s : State) : Out := .next (s.operatorRow 0x0021 u rec_)
/-- LAYER_NORM (R173). -/
def execLayerNorm (u : Cu) (rec_ : Nat) (s : State) : Out := .next (s.operatorRow 0x0022 u rec_)
/-- SOFTMAX (R174). -/
def execSoftmax (u : Cu) (rec_ : Nat) (s : State) : Out := .next (s.operatorRow 0x0023 u rec_)
/-- LAYOUT_CONVERT (R175). -/
def execLayoutConvert (u : Cu) (rec_ : Nat) (s : State) : Out := .next (s.operatorRow 0x0024 u rec_)
/-- ATTENTION (R176). -/
def execAttention (u : Cu) (rec_ : Nat) (s : State) : Out := .next (s.operatorRow 0x0030 u rec_)
/-- SSM_SCAN (R178). -/
def execSsmScan (u : Cu) (rec_ : Nat) (s : State) : Out := .next (s.operatorRow 0x0031 u rec_)
/-- EMBED_GATHER (R179). -/
def execEmbedGather (u : Cu) (rec_ : Nat) (s : State) : Out := .next (s.operatorRow 0x0032 u rec_)
/-- RESIZE (R182). -/
def execResize (u : Cu) (rec_ : Nat) (s : State) : Out := .next (s.operatorRow 0x0040 u rec_)
/-- GRID_SAMPLE (R182). -/
def execGridSample (u : Cu) (rec_ : Nat) (s : State) : Out := .next (s.operatorRow 0x0041 u rec_)
/-- UNDISTORT (R182). -/
def execUndistort (u : Cu) (rec_ : Nat) (s : State) : Out := .next (s.operatorRow 0x0042 u rec_)
/-- BEV_PROJECT (R183). -/
def execBevProject (u : Cu) (rec_ : Nat) (s : State) : Out := .next (s.operatorRow 0x0043 u rec_)
/-- BOX_DECODE (R185). -/
def execBoxDecode (u : Cu) (rec_ : Nat) (s : State) : Out := .next (s.operatorRow 0x0050 u rec_)
/-- TOPK (R186). -/
def execTopk (u : Cu) (rec_ : Nat) (s : State) : Out := .next (s.operatorRow 0x0051 u rec_)
/-- NMS (R187). -/
def execNms (u : Cu) (rec_ : Nat) (s : State) : Out := .next (s.operatorRow 0x0052 u rec_)
/-- QUANTISE (R189). -/
def execQuantise (u : Cu) (rec_ : Nat) (s : State) : Out := .next (s.operatorRow 0x0060 u rec_)
/-- DEQUANTISE (R189). -/
def execDequantise (u : Cu) (rec_ : Nat) (s : State) : Out := .next (s.operatorRow 0x0061 u rec_)
/-- AMAX (R189). -/
def execAmax (u : Cu) (rec_ : Nat) (s : State) : Out := .next (s.operatorRow 0x0062 u rec_)
/-- LOSS (R190). -/
def execLoss (u : Cu) (rec_ : Nat) (s : State) : Out := .next (s.operatorRow 0x0070 u rec_)
/-- SSM_SCAN_BWD (R191). -/
def execSsmScanBwd (u : Cu) (rec_ : Nat) (s : State) : Out := .next (s.operatorRow 0x0071 u rec_)
/-- GRAD_NORM (R192). -/
def execGradNorm (u : Cu) (rec_ : Nat) (s : State) : Out := .next (s.operatorRow 0x0072 u rec_)
/-- OPT_ADAMW (R193). -/
def execOptAdamw (u : Cu) (rec_ : Nat) (s : State) : Out := .next (s.operatorRow 0x0073 u rec_)
/-- OPT_SGD (R193). -/
def execOptSgd (u : Cu) (rec_ : Nat) (s : State) : Out := .next (s.operatorRow 0x0074 u rec_)

/-! ### GXE -/

/-- A gather descriptor (Table 6.7) at an address of LPDDR5X. -/
def readDescriptor (rd : Reader) (a : Nat) : Gather :=
  let k := rd .dram (a + 2) 1
  { indexSp := .sb, index := rd .dram (a + 8) 4, count := rd .dram (a + 6) 2, elem := rd .dram (a + 4) 2,
    tableSp := if k % 2 = 0 then .sb else .dram, table := rd .dram (a + 0x10) 8,
    dstSp := if k / 2 % 2 = 0 then .sb else .dram, dst := rd .dram (a + 0x18) 8 }

/-- GXE's next gather descriptor (R154): a gather once its rings are ready, the end of a step (OP 1), or the end of the
program (OP 2). -/
def doGatherDescriptor (s : State) : State :=
  if !s.pins.rstN then s else
  match s.engineNext .gxe with
  | none => s
  | some (a, er, st) =>
    let x := s.cx (s.engineRun .gxe st)
    let g := readDescriptor x.rd (a.imageAddr + er.off)
    if er.isEnd then s.onFab fun f => f.putEngine .gxe { f.engine .gxe with halted := true }
    else if er.isStep || st.kind = 2 then s.engineBack .gxe er x
    else if !s.ringsReady a (unitCode (.eng .gxe)) (g.acc x.rd) then s
    else s.engineBack .gxe er (x.gather (.eng .gxe) none g)
/-- A gather descriptor (R154). -/
def execGatherDescriptor (s : State) : Out := .next (doGatherDescriptor s)

end Sys2Proof.Machine
end

