-- ==== Sys2Proof/Machine/CommitRun.lean ====
section
/-! DEFINITION. Commits (R18, R70, R118-R120, R156, R233, R467), replays (R330-R334), RUN_OP (R161, R280, R285) and the coppice
slices outside a coppice step (R345). -/

namespace Sys2Proof.Machine

/-! ### A run starts again -/

/-- A commit unit restarts with what outlives its runs: identity, the start of its totals (R36), failures counted and the retry
scales (R112, R119, R330, R332). -/
def Run.again (r : Run) : Run :=
  { Run.start r.kind r.ident r.started r.waves0 with
    hwFails := r.hwFails, firstFail := r.firstFail, firstSeen := r.firstSeen, firstFails := r.firstFails, retry := r.retry, qRetry := r.qRetry,
    gens := r.gens, genReplay := r.genReplay }

/-- The first hardware-check failure is kept for the fault record (R332). -/
def Run.countFailure (r : Run) : Run :=
  if r.firstFail.isSome then { r with hwFails := r.hwFails + 1 }
  else { r with hwFails := r.hwFails + 1, firstFail := r.failed, firstSeen := r.seen, firstFails := r.fails }

/-! ### Scale records -/

/-- A record's fields, as memory holds them before the commit. -/
def Cx.recByte (x : Cx) (r : RecTotals) (off n : Nat) : Nat := x.le r.space (r.addr + off) n

/-- The amax of a record's totals. -/
def RecTotals.peak (r : RecTotals) : Fp := f32 r.amax.toNat

/-- The counts of a run exceed a record's limits (R119). -/
def Cx.overLimit (x : Cx) (r : RecTotals) : Bool :=
  decide (x.recByte r 0xB 1 % 2 = 1) && r.retryable && r.peak.isFin &&
    (decide (r.elements < r.sats * 2 ^ x.recByte r 0xC 1) || decide (r.nonZeros < r.unders * 2 ^ x.recByte r 0xD 1))

/-- q_retry of a record (R119): the symmetric scale for the amax that the run measured. -/
def Cx.qRetryOf (x : Cx) (r : RecTotals) : Word :=
  match symScale (x.recByte r 8 1) (x.recByte r 9 1) r.peak with | some q => BitVec.ofNat 32 q.code32 | none => r.qNext

/-- The retry that a run needs (R119): none for a retry run, or beside a non-finite amax (R120). -/
def Cx.retryScales (x : Cx) : List (Space × Nat × Word) :=
  if x.run.retry || x.run.recs.any (fun r => !r.peak.isFin) then []
  else (x.run.recs.filter x.overLimit).map fun r => (r.space, r.addr, x.qRetryOf r)

/-- Q_USED of a committed run (R118): the scale that it quantised with; of a run whose drains converted nothing through the record
the rule states none, so it is open (log 162). -/
def RecTotals.qUsed (r : RecTotals) : Word :=
  if r.used then r.qNext else Config.unstated [0x118, r.qNext.toNat, r.amax.toNat, r.sats, r.unders, r.elements]

/-- A record's update at the commit (R118, R120). -/
def Cx.commitRecord (x : Cx) (r : RecTotals) : Cx :=
  let put := fun (off n v : Nat) (x : Cx) => x.put r.space (r.addr + off) (leBytes n v)
  let len := max 1 (x.recByte r 0xA 1)
  let pos := x.recByte r 0xE 1
  let flags := x.recByte r 0xB 1
  let margin := x.recByte r 9 1
  let fmt := x.recByte r 8 1
  let x := put 0 4 r.qUsed.toNat x
  let x := put 0x10 4 r.amax.toNat (put 0x14 4 (satU 32 r.sats) (put 0x18 4 (satU 32 r.unders) x))
  if !r.peak.isFin then x
  else
    let x := put (0x20 + 4 * (pos % 8)) 4 r.amax.toNat x
    let x := put 0xE 1 ((pos + 1) % len) x
    if flags / 2 % 2 = 1 then
      let top := (List.range (min len 8)).foldl (fun (m : Fp) i => amax2 m (f32 (x.recByte r (0x20 + 4 * i) 4))) (Fp.zero false)
      match symScale fmt margin top with | some q => put 4 4 q.code32 x | none => x
    else x

/-- The fabric after a run's commit: its provisional bytes and record updates, its posts, its cache lines (Table 1.3, R93,
R118, R130). -/
def Cx.committed (x : Cx) : Fab :=
  let x := x.run.recs.foldl Cx.commitRecord x
  let f := x.fab.applyJournal x.run.journal
  let f := x.run.posts.foldl (fun f p => f.putSem p.1 (satU 32 (f.sem p.1 + p.2))) f
  if x.qm then f.commitCaches x.run.flushes else f

/-! ### Frame steps -/

/-- Set or clear `n` full bits from slot `c` on (R45, R46). -/
def setFull (b : Bool) (c n : Nat) (l : List Bool) : List Bool :=
  (List.range n).foldl (fun l i => l.set ((c + i) % l.length) b) l

/-- The rings after a step's commit (R467): fills and releases by ring position. -/
def StepEdges.apply (e : StepEdges) (rs : List RingState) : List RingState :=
  let rs := e.fills.foldl (fun rs p => rs.modify p.1 fun r =>
    { r with full := setFull true r.nextFill p.2 r.full, nextFill := r.nextFill + p.2 }) rs
  e.releases.foldl (fun rs p => rs.modify p.1 fun r =>
    { r with full := setFull false r.nextRel p.2 r.full, nextRel := r.nextRel + p.2 }) rs

/-- The ingest slots that a step's commit releases (R49). -/
def State.releaseSlots (a : Contract) (e : StepEdges) (s : State) : State :=
  e.releases.foldl (fun s p =>
    match a.rings[p.1]?, s.ctr.prog.rings[p.1]? with
    | some r, some st =>
      if r.kind ≠ 2 then s else
      match ringSensor r.deviceRing, st.bound with
      | some i, some (k, _) => s.onSen fun x => match x.ring? i with | some d => x.putRing i (d.unbind k) | none => x
      | _, _ => s
    | _, _ => s) s

/-- Commits into owed slots are counted: in the frame's LATE_COMMITS and, while EMT_FRAME names the frame, in EMT_LATE (R233,
Table 18.7). -/
def Emt.countLate (e : Emt) (frame n : Nat) : Emt :=
  { e with frames := e.frames.map fun g => if g.frame = frame then { g with lateCommits := g.lateCommits + n } else g,
           lastLateCommits := if e.lastFrame = frame then e.lastLateCommits + n else e.lastLateCommits }

/-- The tiles of a step reach EMT (R50, R233): a slot that is owed is emptied at once and counted, before the frame's trailer or after
it; the others become full. -/
def State.commitTiles (e : StepEntry) (s : State) : State :=
  let fr := s.ctr.prog.frame
  let tiles := (List.range e.tileCount).map fun i => e.firstTile + i
  match s.emt.frames.find? fun f => f.frame = fr with
  | none =>
    let late := tiles.filter fun t => s.emt.owedAfter.any fun o => o.1 = fr && o.2.1.contains t
    s.onEmt fun m =>
      { m.countLate fr late.length with
        owedAfter := m.owedAfter.map fun o => if o.1 = fr then (o.1, o.2.1.filter (fun t => !late.contains t), o.2.2) else o }
  | some f =>
    let late := tiles.filter fun t => f.owed.contains t
    let live := tiles.filter fun t => !f.owed.contains t
    s.onEmt fun m =>
      let m := m.countLate fr late.length
      { m with full := m.full ++ live.map fun t => (f.parity, t),
               frames := m.frames.map fun g => if g.frame = fr then { g with owed := g.owed.filter fun t => !late.contains t } else g }

/-- The object list of a step reaches EMT (R241): emitted late when slot 0 has opened; owed since the trailer, it is emptied at once and
counted (R233). -/
def State.commitObjects (a : Contract) (e : StepEdges) (s : State) : State :=
  let has := e.fills.any fun p => match a.rings[p.1]? with | some r => decide (r.kind = 4) | none => false
  let fr := s.ctr.prog.frame
  match has, s.emt.frames.find? fun f => f.frame = fr with
  | true, some f =>
    let s := s.onEmt fun m => { m with objFull := f.parity :: m.objFull }
    if f.nextSlot = 0 then s else s.emitObjects f (s.objectSlot f) true
  | true, none =>
    if s.emt.owedAfter.any fun o => o.1 = fr && o.2.2 then
      s.onEmt fun m => { m.countLate fr 1 with owedAfter := m.owedAfter.map fun o => if o.1 = fr then (o.1, o.2.1, false) else o }
    else s
  | false, _ => s

/-- A step's failure that its replay mended (R333): the record, the statistics, REPLAYS and HW_FAULT of the frame's bands. -/
def State.stepTransient (e : StepEntry) (run : Run) (s : State) : State :=
  match run.firstFail with
  | none => s
  | some f =>
    let fr := s.ctr.prog.frame
    let s := (s.recordFault f (run.stepCtx run.firstSeen fr outTransient run.firstFails 1 0)).countErr (unitErrRow f.unit) colTransient 1
    let bands := ((List.range e.tileCount).map fun i => (e.firstTile + i) / 64).eraseDups
    s.onEmt fun m =>
      { m with frames := m.frames.map fun g => if g.frame = fr then
          { g with replays := g.replays + 1, hwFault := true, hwBands := g.hwBands ++ bands } else g }

/-- The rate monitor of a unit that runs steps (Table 3.6). -/
def monitorOf (unit : Nat) : Nat := if unit < 8 then unit else unit - 5

/-- The last step has committed (R15, R17, R35): the frame's totals, in waves the highest among the units that run its steps; the
next frame program when one is late, else the QM window. -/
def State.programEnd (a : Contract) (frameWaves : List Int) (s : State) : State :=
  let p := s.ctr.prog
  let totals := p.totals
  let waves := satU 48 (s.wavesSince p.waves0 (a.steps.map fun e => monitorOf e.unit) frameWaves)
  let s := s.onCtr fun c => { c with lastTotals := (p.frame, a.hdr.buildId, totals), prog := { p with running := false, rings := [] } }
  let s := s.onEmt fun m =>
    { m with frames := m.frames.map fun g => if g.frame = p.frame then { g with progDone := some (waves, satU 48 (s.now - p.launch)) } else g }
  let s := match s.ctr.lateStart with
    | l :: rest => (s.onCtr fun c => { c with lateStart := rest }).boundaryStart l
    | [] =>
      let s := s.openWindow
      if s.noFrame then s.splitBoundary else s
  s.stopReply

/-- The commit of a step (R18, R43): everything becomes visible together. `x` is its run, `back` puts its unit at rest. -/
def State.commitStep (a : Contract) (e : StepEntry) (x : Cx) (waves frameWaves : List Int) (s : State) : State :=
  let edges := (a.edges[e.id]?).getD { fills := [], releases := [] }
  let fr := s.ctr.prog.frame
  let s := (x.run.recs.filter fun r => !r.peak.isFin).foldl (fun s _ => s.note 0x1008 sevWarning e.unit e.id fr 0) s
  let s := s.onFab fun _ => x.committed
  let s := s.releaseSlots a edges
  let s := s.onCtr fun c =>
    { c with prog := { c.prog with rings := edges.apply c.prog.rings, committed := e.id :: c.prog.committed,
                                   totals := c.prog.totals ++ [(e.id, satU 48 (s.wavesSince x.run.waves0 [monitorOf e.unit] waves), satU 48 (s.now - x.run.started))] } }
  let s := ((s.commitTiles e).commitObjects a edges).stepTransient e x.run
  if s.ctr.prog.committed.length = a.hdr.stepCount then s.programEnd a frameWaves else s

/-- The golden comparison of a step (R57): a mismatch is a failed check. -/
def Cx.goldenCheck (a : Contract) (e : StepEntry) (c : Fin 8) (x : Cx) : Cx :=
  match x.run.golden, a.golden.find? fun g => g.stepId = e.id with
  | some (addr, n), some g =>
    let crc := crc64 (x.bytes (.spad c) addr n)
    if crc = g.expected.toNat then x
    else x.failCheck { detector := 0x05, unit := .mxc c, subunit := 0xFF, cls := 0xFF, address := e.id, detail := BitVec.ofNat 32 crc }
  | _, _ => x

/-- A core rests at an index of its stream, with a run. -/
def State.restCore (c : Fin 8) (idx : Nat) (run : Run) (s : State) : State :=
  s.onFab fun f =>
    let k := (f.cores.get c).fresh
    { f with cores := f.cores.set c { k with csq := idx, run := run } }

/-- A core's commit unit is at its COMMIT: the stream's next instruction, with nothing under way. -/
def State.coreAtCommit (a : Contract) (c : Fin 8) (s : State) : Bool :=
  let k := s.fab.cores.get c
  k.free k.run.waiting c && (match a.instrAt c.val k.csq with | some w => decide (seqClass w = 0xC) | none => false)

/-- A run of a step that is not committed goes round again (R119, R330, R331): its provisional effects are discarded. -/
def State.coreAgain (c : Fin 8) (e : StepEntry) (run : Run) (s : State) : State :=
  (s.onFab fun f => f.returnHeld run).restCore c e.streamOffset run.again

/-- COMMIT of a core's step (R70). -/
def State.commitCore (c : Fin 8) (waves frameWaves : List Int) (s : State) : State :=
  match s.ctr.armed with
  | none => s
  | some a =>
    let k := s.fab.cores.get c
    match a.stepOf c.val k.csq with
    | none => s
    | some e =>
      if !(s.ctr.prog.running && s.coreAtCommit a c) then s else
      let run := if k.run.active then k.run else Run.start 0 e.id s.now s.waveNow
      if run.failed.isSome then s else
      let x := { s.cx run with cls := 0xC }.goldenCheck a e c
      if x.run.failed.isSome then s.onFab fun f => { f with cores := f.cores.set c { k with run := x.run } }
      else
        let q := x.retryScales
        if !q.isEmpty then s.coreAgain c e { run with retry := true, qRetry := q }
        else (s.restCore c (k.csq + 1) Run.idle).commitStep a e { x with fab := (s.restCore c (k.csq + 1) Run.idle).fab } waves frameWaves

/-- An engine rests at a place of its program, with a run. -/
def State.restEngine (g : Engine) (next : Nat) (run : Run) (s : State) : State :=
  s.onFab fun f => f.putEngine g { f.engine g with next := next, run := run }

/-- A coppice step of an engine that the MSS selected runs its slice (R60, R345). -/
def State.engineSlice (g : Engine) (e : StepEntry) (digestOk : Bool) (signature : Option DWord) (restoreFail : Bool) (s : State) : State :=
  if e.kind = 2 && s.evr.coppiceStep = some e.id then s.runSlice (8 + engIdx g) digestOk signature restoreFail else s

/-- COMMIT of an engine's step (R70). -/
def State.commitEngine (g : Engine) (waves frameWaves : List Int) (s : State) : State :=
  match s.ctr.armed with
  | none => s
  | some a =>
    let k := s.fab.engine g
    match a.steps.find? fun e => e.id = k.run.ident && decide (e.unit = unitCode (.eng g)) with
    | none => s
    | some e =>
      if !(s.ctr.prog.running && k.run.active && k.run.done) || k.run.failed.isSome then s else
      let x := s.cx k.run
      let q := x.retryScales
      if !q.isEmpty then (s.onFab fun f => f.returnHeld k.run).restEngine g e.streamOffset { k.run with retry := true, qRetry := q }.again
      else
        let s := s.restEngine g k.next Run.idle
        (s.commitStep a e { x with fab := s.fab } waves frameWaves).engineSlice g e true none false

/-! ### The QM command -/

/-- The generation words of a command's lent buffers (R156): each address with the value read. -/
def State.readGens (addrs : List Nat) (s : State) : List (Nat × DWord) := addrs.map fun a => (a, BitVec.ofNat 64 (s.dramLe a 8))

/-- The generation check of R156 passes. -/
def State.gensOk (r : Run) (s : State) : Bool :=
  r.gens.all fun g => decide (s.dramLe g.1 8 = g.2.toNat) && decide (g.2.toNat % 2 = 0)

/-- The cores of a set start a command or run it again. -/
def State.freshCores (m : BitVec 8) (s : State) : State :=
  s.onFab fun f =>
    let cs := Vector.ofFn fun (i : Fin 8) =>
      if m.getLsbD i.val then { (f.cores.get i).fresh with csq := 0, halted := false } else f.cores.get i
    { f with cores := cs }

/-- The replay of R156 fetches every input afresh: lines of lent memory that the caches hold clean are dropped. -/
def Fab.dropClean (f : Fab) : Fab :=
  { f with caches := f.caches.map fun o => o.map fun k => { k with lines := k.lines.filter fun l => l.dirty || l.prov } }

/-- A command's run goes round again (R119, R156, R330, R331): what it left provisionally is discarded. -/
def State.qmAgain (q : QmRun) (run : Run) (s : State) : State :=
  let s := (s.onFab fun f => f.dropProvisional.returnHeld q.run).freshCores q.cores
  s.onCpx fun c => { c with qm := some { q with run := run.again } }

/-- The status and detail of a command that commits (R119, R333). -/
def commitStatus (r : Run) : Nat × Nat :=
  if r.retry then (stScaleRetry, 0) else if r.firstFail.isSome then (stReplayed, 1) else (stDone, 0)

/-- The rate monitors of a command's cores and of the engine that runs its record (Table 2.4). -/
def State.qmUnits (q : QmRun) (s : State) : List Nat :=
  maskBits 8 q.cores.toNat ++
    (match opInfo (s.commandRec q).op with | some k => (unitRateIdx (opUnitOf k.unit (lowestCore q.cores.toNat))).toList | none => [])

/-- The commit of a command (R161, R273, R280): its effects, its held host writes, its fault record, then its reply. A kill
token that comes after it finds it committed. Its waves are the highest count among its cores and its record's engine (Table 2.4). -/
def State.commitQm (q : QmRun) (waves : List Int) (s : State) : State :=
  let x := s.cxQm q
  let waves := s.wavesSince q.run.waves0 (s.qmUnits q) waves
  let s := s.onFab fun _ => x.committed
  let s := q.run.hostWrites.foldl (fun s w => s.hostWrite w.1 w.2) s
  let s := match q.run.firstFail with
    | some f => (s.recordFault f (q.pkt.faultCtx q.run.firstSeen outTransient q.run.firstFails 1 0)).countErr (unitErrRow f.unit) colTransient 1
    | none => s
  let kills := s.cpx.kills
  let whole := kills.any fun k => k.scope1
  let (st, dt) := commitStatus q.run
  let (st, dt) := if kills.isEmpty then (st, dt) else (stTooLate, st)
  let res := satU 32 q.run.totSats + 2 ^ 32 * satU 32 q.run.totUnders
  let s := s.onCpx fun c => { c with qm := none }
  let s := s.replyAll q.pkt st dt res waves (s.now - q.run.started)
  let s := s.answerKills 1
  (if whole then s.teardown q.pkt.ring true else s).boundary

/-- A core of a command has come to its COMMIT or to the end of its stream, with nothing under way (R70); the command's single
commit comes after every unit of its set is there (R272). -/
def State.coreDone (q : QmRun) (c : Fin 8) (s : State) : Bool :=
  let k := s.fab.cores.get c
  match q.stream c with
  | none => true
  | some _ => !k.su.active && !(q.run.waiting.any fun p => p.1 = c.val) &&
      (k.halted || match s.qmAt q c with | some w => decide (seqClass w = 0xC) | none => true)

/-- The command has come to its single COMMIT: its record has run, or every core of its set is there (R70, R272). -/
def State.cmdEnded (q : QmRun) (s : State) : Bool :=
  if q.streams.isEmpty then q.run.done else (List.finRange 8).all fun c => s.coreDone q c

/-- COMMIT of a command (R70, R119, R120, R156): the checks in their order. -/
def State.commitCmd (waves : List Int) (s : State) : State :=
  match s.cpx.qm with
  | none => s
  | some q =>
    if !(q.run.active && s.cmdEnded q) || q.run.failed.isSome then s
    else if !s.gensOk q.run then
      if q.run.genReplay then s.endQm q stGeneration 0
      else (s.onFab Fab.dropClean).qmAgain q { q.run with genReplay := true, gens := s.readGens (q.run.gens.map fun g => g.1) }
    else
      let x := s.cxQm q
      if (q.run.recs.any fun r => !r.peak.isFin) then s.endQm q stNonfinite 0
      else
        let r := x.retryScales
        if !r.isEmpty then s.qmAgain q { q.run with retry := true, qRetry := r }
        else s.commitQm q waves

/-- COMMIT (R70): of a core's step, an engine's step or the running command. `waves` and `frameWaves` are what each monitor's windows
that the ends of the unit's and the frame's interval cut add to the windows counted (R35, log 155). -/
def doCommit (u : Cu) (waves frameWaves : List Int) (s : State) : State :=
  if !s.pins.rstN then s else
  match u with
  | .core c => s.commitCore c waves frameWaves
  | .engine g => s.commitEngine g waves frameWaves
  | .qm => s.commitCmd waves
/-- COMMIT (R70). -/
def execCommit (u : Cu) (waves frameWaves : List Int) (s : State) : Out := .next (doCommit u waves frameWaves s)

/-! ### REPLAY -/

/-- Detectors that make a unit suspect at once (Table 13.1). -/
def atOnce (d : Nat) : Bool := d = 0x09 || d = 0x0A || d = 0x0B || d = 0x0D
/-- Detectors whose failure a replay follows (Table 13.1). -/
def replays (d : Nat) : Bool := decide (1 ≤ d ∧ d ≤ 6)

/-- A failure that a detector outside the unit reports joins a run. -/
def Run.reported (r : Run) (f : Option FailReport) (s : State) : Run :=
  match f with | some f => if r.active then r.fail f (s.seen f.unit) else r | none => r

/-- SECOND of a fault record (Table 13.3). -/
def secondOf (f : FailReport) : Nat := f.detector + 256 * unitCode f.unit

/-- A step whose replay failed (R334): it could not be replayed, and its units are suspect. -/
def State.stepSuspect (run : Run) (s : State) : State :=
  let fr := s.ctr.prog.frame
  let s := s.onEmt fun m => { m with frames := m.frames.map fun g => if g.frame = fr then { g with unreplayed := true } else g }
  match run.firstFail, run.failed with
  | some f, some g => s.suspectAs f (run.stepCtx run.firstSeen fr outSuspect run.firstFails 1 (secondOf g)) run.failUnits
  | _, _ => s

/-- REPLAY of a core's step (R330-R334). -/
def State.replayCore (c : Fin 8) (report : Option FailReport) (s : State) : State :=
  match s.ctr.armed with
  | none => s
  | some a =>
    let k := s.fab.cores.get c
    let run := k.run.reported report s
    match a.stepOf c.val k.csq with
    | none => s
    | some e =>
      if !(s.ctr.prog.running && run.active && run.failed.isSome) then s
      else if !s.coreAtCommit a c then s.onFab fun f => { f with cores := f.cores.set c { k with run := run } }
      else if run.hwFails = 0 then s.coreAgain c e run.countFailure
      else ((s.onFab fun f => f.returnHeld run).restCore c k.csq Run.idle).stepSuspect run

/-- REPLAY of an engine's step. -/
def State.replayEngine (g : Engine) (report : Option FailReport) (s : State) : State :=
  match s.ctr.armed with
  | none => s
  | some a =>
    let k := s.fab.engine g
    let run := k.run.reported report s
    match a.steps.find? fun e => e.id = run.ident && decide (e.unit = unitCode (.eng g)) with
    | none => s
    | some e =>
      if !(s.ctr.prog.running && run.active && run.failed.isSome) then s
      else if !run.done then s.restEngine g k.next run
      else
        let s := s.onFab fun f => f.returnHeld run
        if run.hwFails = 0 then s.restEngine g e.streamOffset run.countFailure.again
        else (s.restEngine g k.next Run.idle).stepSuspect run

/-- The second failure of a command (R334): HW_FAULT with the suspect unit's code, the job is torn down, the part drains. -/
def State.cmdSuspect (q : QmRun) (run : Run) (s : State) : State :=
  match run.firstFail, run.failed with
  | some f, some g =>
    let kills := s.cpx.kills
    let s := (s.onCpx fun c => { c with qm := none }).onFab fun b => b.dropProvisional.returnHeld run
    let s := s.replyAll q.pkt stHwFault (unitCode g.unit) 0 0 (s.now - run.started)
    let s := s.answerKills (if kills.isEmpty then 0 else 2)
    let s := s.teardown q.pkt.ring true
    s.suspectAs f (q.pkt.faultCtx run.firstSeen outSuspect run.firstFails 1 (secondOf g)) run.failUnits
  | _, _ => s

/-- REPLAY of the running command, once it has come to its COMMIT (R330). -/
def State.replayCmd (report : Option FailReport) (s : State) : State :=
  match s.cpx.qm with
  | none => s
  | some q =>
    let run := q.run.reported report s
    if run.failed.isNone then s
    else if !s.cmdEnded q then s.onCpx fun c => { c with qm := some { q with run := run } }
    else if run.hwFails = 0 then s.qmAgain q run.countFailure
    else s.cmdSuspect q run

/-- A commit unit has a run. -/
def State.cuActive (u : Cu) (s : State) : Bool :=
  match u with
  | .core c => (s.fab.cores.get c).run.active
  | .engine g => (s.fab.engine g).run.active
  | .qm => s.cpx.qm.isSome

/-- REPLAY (R329-R334). `report` is a failure that a detector outside the unit reports: a unit may be suspect at once, a
failure without a commit unit leaves only its record (NO_UNIT), any other joins the unit's run. -/
def doReplay (u : Cu) (report : Option FailReport) (s : State) : State :=
  if !s.pins.rstN then s else
  match report with
  | some f =>
    if atOnce f.detector then s.suspectAtOnce f
    else if !replays f.detector then s
    else if !s.cuActive u then s.faultNoUnit f
    else match u with
      | .core c => s.replayCore c report
      | .engine g => s.replayEngine g report
      | .qm => s.replayCmd report
  | none =>
    match u with
    | .core c => s.replayCore c none
    | .engine g => s.replayEngine g none
    | .qm => s.replayCmd none
/-- REPLAY (R330). -/
def execReplay (u : Cu) (report : Option FailReport) (s : State) : Out := .next (doReplay u report s)

/-! ### RUN_OP -/

/-- What an operator contract needs is free for the command (R284, R285): no bank or segment that a contract names, no bank of
a core outside the set. -/
def State.canHold (banks segs : List Nat) (s : State) : Bool :=
  banks.all (fun b => decide (b < 64) && s.cpx.qmCores.getLsbD (b / 8) && !s.ctr.banks.contains b) &&
    segs.all (fun g => decide (g < 6) && !s.ctr.segs.contains g)

/-- Every unit that a command uses has settled (R30): its cores, the engine of its record, and GXE for a stream that gathers; a
domain that is switching on is waited for. -/
def State.cmdSettled (k : Option OpUnit) (streams : List (Nat × List (BitVec 128))) (s : State) : Bool :=
  let gathers := streams.any fun p => p.2.any fun w => seqClass w = 9
  let us := (match k with | some k => if streams.isEmpty then [opUnitOf k 0] else [] | none => []) ++ if gathers then [UnitId.eng .gxe] else []
  (List.finRange 8).all (fun c => !s.cpx.qmCores.getLsbD c.val || s.unitReady (.mxc c)) &&
    us.all fun u => match u with
      | .eng e => let d := 41 + engIdx e; !s.pwr.rising.getLsbD d && (!s.pwr.usable.getLsbD d || s.unitReady u)
      | _ => true

/-- The bank (core x 8 + bank) or segment (64 + segment) numbers that an access reaches. -/
def Acc.holds (x : Acc) : List Nat :=
  match x.sp with
  | .spad c => (banksOf x.addr x.len).map fun b => 8 * c.val + b
  | .sb => [64 + x.addr / 0x1000000]
  | _ => []

/-- The banks and segments that a record's tensors and scales reach. -/
def OpRec.holds (rd : Reader) (r : OpRec) : List Nat :=
  ((r.allAccs rd fun _ _ _ => none).filter fun a => decide (a.len ≠ 0)).flatMap Acc.holds

/-- RUN_OP is dispatched (R161, R280, R285): its core set, the buffers lent to its client, their generation words and its held
banks are fixed; with a record, the operator runs. -/
def State.startOp (pk : Packet) (j : Job) (streams : List (Nat × List (BitVec 128))) (banks segs : List Nat) (s : State) : State :=
  let lent := s.cpx.lentTo pk.client
  let run := { Run.start 1 (pk.cmdIdx.getD 0) s.now s.waveNow with gens := s.readGens (lent.filterMap fun b => b.gen) }
  let q : QmRun := { pkt := pk, cores := s.cpx.qmCores, streams := streams, banks := banks, segs := segs,
                     lent := lent.map (fun b => (b.addr, b.size)), run := run }
  let s := s.onCpx fun c => (c.putJob { j with visible := lent.map fun b => b.handle }).holdUsed j.ring banks segs
  let s := (s.freshCores q.cores).onCpx fun c => { c with qm := some q }
  if streams.isEmpty then s.runCommandRec q else s

/-- RUN_OP (R161). `streams` are the operator contract's own streams by core, run instruction by instruction, or none where the
record's operator runs as one; `banks` and `segs` are what that contract needs beside what the record's tensors reach. -/
def doRunOp (ring : Nat) (streams : List (Nat × List (BitVec 128))) (banks segs : List Nat) (s : State) : State :=
  if !s.pins.rstN then s else
  let s := s.boundary
  match s.nextCmd ring with
  | none => s.strayCmd ring 0x31
  | some (j, pk) =>
    let rd : Reader := fun sp a n => leNat (s.fab.peeks sp a n)
    let r := readRec rd .dram (pk.u 0x18 8)
    if pk.opcode ≠ 0x31 || !s.cmdSettled ((opInfo r.op).map fun k => k.unit) streams then s else
    s.startCmd pk fun pk s =>
      let used := if streams.isEmpty then r.holds rd else []
      let banks := (banks ++ used.filter fun b => decide (b < 64)).eraseDups
      let segs := (segs ++ (used.filter fun b => decide (64 ≤ b)).map fun b => b - 64).eraseDups
      let allowed := streams.all fun p => p.2.all (seqAllowedQm s.cpx.qmCores (j.banks ++ banks) (coreOf p.1))
      if !s.mss.inOne tagShared (pk.u 0x10 8) 64 then s.replyAll pk stBadParam 0x10 0 0 0
      else if !s.mss.inOne tagShared (pk.u 0x18 8) 32 || !s.mss.inOne tagShared (pk.u 0x18 8) r.size then s.replyAll pk stBadParam 0x18 0 0 0
      else if !(r.ok false (fun _ _ _ => none) (r.nmsLen rd (fun _ _ _ => none)) && r.hdrsOk rd (fun _ _ => true) && allowed) then s.replyAll pk stBadParam 0xFFFF 0 0 0
      else if !s.canHold banks segs || !(streams.all fun p => s.cpx.qmCores.getLsbD p.1) then s.replyAll pk stNoResource 0 0 0 0
      else s.startOp pk j streams banks segs
/-- RUN_OP (R161). -/
def execRunOp (ring : Nat) (streams : List (Nat × List (BitVec 128))) (banks segs : List Nat) (s : State) : Out :=
  .next (doRunOp ring streams banks segs s)

/-! ### COPPICE_SLICE -/

/-- COPPICE_SLICE (R345): the slice that waits at a QM window's opening, or, with no contract armed, the one due every
33.333 ms of TMB at a command boundary. A unit whose armed contract has a coppice step waits for that step. -/
def doCoppiceSlice (digestOk : Bool) (signature : Option DWord) (restoreFail : Bool) (s : State) : State :=
  if !(s.pins.rstN && s.cpx.qm.isNone && (s.pwr.state = .ready || s.pwr.state = .running)) then s else
  match s.nextVisit with
  | none => s.onCpx fun c => { c with sliceDue := false }
  | some k =>
    if s.ctr.armed.isNone then
      let s := s.advance (s.evr.lastSlice + 33333000)
      (s.onEvr fun r => { r with lastSlice := s.now }).runSlice k digestOk signature restoreFail
    else if s.cpx.sliceDue && !s.ctr.hasCoppice k then
      (s.onCpx fun c => { c with sliceDue := false }).runSlice k digestOk signature restoreFail
    else s
/-- COPPICE_SLICE (R345). -/
def execCoppiceSlice (digestOk : Bool) (signature : Option DWord) (restoreFail : Bool) (s : State) : Out :=
  .next (doCoppiceSlice digestOk signature restoreFail s)

end Sys2Proof.Machine
end

