-- ==== Sys2Proof/Machine/Image.lean ====
section
/-! DEFINITION. A contract image (R38-R40, Tables 3.1-3.5, 3.9-3.11): its header, directory, sections, streams and engine
programs, as numbers read at byte offsets. -/

namespace Sys2Proof.Machine

/-- An image: the little-endian number of `n` bytes at an offset. -/
abbrev Img := Nat → Nat → Nat

/-- A directory entry (R39). -/
structure ImgSection where
  typ     : Nat
  reserved : Nat
  off     : Nat
  size    : Nat
  entries : Nat
  deriving DecidableEq, Repr

/-- Section types (Table 3.2). -/
abbrev secStreams : Nat := 1
/-- ENGINE_PROGRAMS. -/
abbrev secPrograms : Nat := 2
/-- RINGS. -/
abbrev secRings : Nat := 3
/-- BUFFERS. -/
abbrev secBuffers : Nat := 4
/-- STEPS. -/
abbrev secSteps : Nat := 5
/-- GOLDEN. -/
abbrev secGolden : Nat := 6
/-- BOUNDS. -/
abbrev secBounds : Nat := 7
/-- COPPICE. -/
abbrev secCoppice : Nat := 8
/-- CHECKER_MODEL. -/
abbrev secModel : Nat := 9
/-- CONSTANTS. -/
abbrev secConstants : Nat := 0xA
/-- SIGNATURE. -/
abbrev secSignature : Nat := 0xF

/-- The header fields of Table 3.1. -/
def imgHeader (i : Img) : CtrHeader :=
  { format := i 4 2, tileFormat := i 0xB 1, floor := i 0xC 2, cadence := i 0xE 1, coreSet := i 0xF 1, frameCycle := i 0x10 4,
    emitOffset := i 0x14 4, gridW := i 0x18 2, gridH := i 0x1A 2, cellSize := i 0x1C 2, engineSet := i 0x1E 2,
    stepCount := i 0x20 4, ringCount := i 0x24 4, semBase := i 0x28 2, semCount := i 0x2A 2, imageSize := i 0x2C 4,
    buildId := BitVec.ofNat 64 (i 0x30 8) }
/-- SECTION_COUNT. -/
def imgSectionCount (i : Img) : Nat := i 0x38 2
/-- The directory (R39). -/
def imgSections (i : Img) : List ImgSection :=
  (List.range (imgSectionCount i)).map fun k =>
    let a := 0x100 + 16 * k
    { typ := i a 2, reserved := i (a + 2) 2, off := i (a + 4) 4, size := i (a + 8) 4, entries := i (a + 12) 4 }

/-- A section by type. -/
def findSec (l : List ImgSection) (t : Nat) : Option ImgSection := l.find? fun e => e.typ = t
/-- The offset of a section. -/
def secOff (l : List ImgSection) (t : Nat) : Nat := match findSec l t with | some e => e.off | none => 0
/-- The size of a section. -/
def secSize (l : List ImgSection) (t : Nat) : Nat := match findSec l t with | some e => e.size | none => 0
/-- The entries of a section. -/
def secEntries (l : List ImgSection) (t : Nat) : Nat := match findSec l t with | some e => e.entries | none => 0

/-- The entries of a fixed-size section, read one by one. -/
def imgEntries {α : Type} (l : List ImgSection) (t size : Nat) (f : Nat → α) : List α :=
  (List.range (secEntries l t)).map fun k => f (secOff l t + size * k)

/-- STEPS (Table 3.3). -/
def imgSteps (i : Img) (l : List ImgSection) : List StepEntry :=
  imgEntries l secSteps 16 fun a =>
    { id := i a 4, unit := i (a + 4) 1, kind := i (a + 5) 1, tileCount := i (a + 6) 2, firstTile := i (a + 8) 2, streamOffset := i (a + 0xC) 4 }
/-- RINGS (Table 3.4). -/
def imgRings (i : Img) (l : List ImgSection) : List RingEntry :=
  imgEntries l secRings 32 fun a =>
    { kind := i a 1, producer := i (a + 1) 1, consumer := i (a + 2) 1, cls := i (a + 3) 1, slotCount := i (a + 4) 2, deviceRing := i (a + 6) 2,
      slotSize := i (a + 8) 4, buffer := i (a + 0xC) 4, bufferOffset := i (a + 0x10) 4, fills := i (a + 0x14) 4 }
/-- BUFFERS (Table 3.5). -/
def imgBuffers (i : Img) (l : List ImgSection) : List BufEntry :=
  imgEntries l secBuffers 32 fun a =>
    { kind := i a 1, location := i (a + 1) 1, cls := i (a + 2) 1, access := i (a + 3) 1, owner := i (a + 4) 1, offset := i (a + 8) 8,
      size := i (a + 0x10) 8, init := i (a + 0x18) 4 }
/-- BOUNDS (R54): WAVES and FINISH. -/
def imgBounds (i : Img) (l : List ImgSection) : List (Nat × Nat) := imgEntries l secBounds 8 fun a => (i a 4, i (a + 4) 4)
/-- GOLDEN (Table 3.10). -/
def imgGolden (i : Img) (l : List ImgSection) : List GoldenEntry :=
  imgEntries l secGolden 32 fun a =>
    { stepId := i a 4, unit := i (a + 4) 1, inputOffset := i (a + 8) 4, inputSize := i (a + 0xC) 4, spanFirst := i (a + 0x10) 4,
      spanCount := i (a + 0x14) 4, expected := BitVec.ofNat 64 (i (a + 0x18) 8) }
/-- COPPICE (Table 3.11): STEP_ID and UNIT. -/
def imgCoppice (i : Img) (l : List ImgSection) : List (Nat × Nat) := imgEntries l secCoppice 16 fun a => (i a 4, i (a + 4) 1)

/-! ### Units -/

/-- The cores of CORE_SET, in order. -/
def CtrHeader.cores (h : CtrHeader) : List Nat := maskBits 8 h.coreSet
/-- The engines of ENGINE_SET, by unit code, in bit order. -/
def CtrHeader.engines (h : CtrHeader) : List Nat := (maskBits 4 h.engineSet).map fun e => 0x10 + e
/-- The units that run steps, in order (R42). -/
def CtrHeader.units (h : CtrHeader) : List Nat := h.cores ++ h.engines

/-! ### Streams and programs -/

/-- The streams (Table 3.2): one per core, each after its instruction count; a stream that the section cannot hold is
missing, and nothing follows it. -/
def imgStreams (i : Img) (last : Nat) : List Nat → Nat → List (Nat × List (BitVec 128))
  | [], _ => []
  | c :: cs, a =>
    let n := i a 4
    if last < a + 4 + 16 * n then []
    else (c, (List.range n).map fun k => BitVec.ofNat 128 (i (a + 4 + 16 * k) 16)) :: imgStreams i last cs (a + 4 + 16 * n)
/-- Where the streams end. -/
def streamsEnd (a : Nat) (l : List (Nat × List (BitVec 128))) : Nat := a + (l.map fun s => 4 + 16 * s.2.length).sum

/-- The records of a WRE, DPP or QOE program: `n` records from an offset (R158); FLAGS end steps and the program. -/
def imgRecords (i : Img) : Nat → Nat → List EngRecord
  | 0, _ => []
  | n + 1, a =>
    let size := 32 + 64 * i (a + 3) 1 + i (a + 4) 2
    { off := a, size := size, isStep := decide (i (a + 6) 1 % 2 = 1), isEnd := decide (i (a + 6) 1 / 2 % 2 = 1) } :: imgRecords i n (a + size)
/-- The descriptors of a GXE program (R154): OP 1 ends a step, OP 2 the program. -/
def imgDescriptors (i : Img) (n a : Nat) : List EngRecord :=
  (List.range n).map fun k => { off := a + 32 * k, size := 32, isStep := decide (i (a + 32 * k) 1 = 1), isEnd := decide (i (a + 32 * k) 1 = 2) }
/-- The records or descriptors after a program header. -/
def imgProgram (i : Img) (unit a : Nat) : List EngRecord :=
  if unit = 0x11 then imgDescriptors i (i (a + 4) 4) (a + 16) else imgRecords i (i (a + 4) 4) (a + 16)

/-- The programs (R40), each at the first 64-byte boundary after the one before; a program whose header is wrong or that the
section cannot hold is missing, and nothing follows it. -/
def imgPrograms (i : Img) (last : Nat) : List Nat → Nat → List (Nat × List EngRecord)
  | [], _ => []
  | u :: us, a =>
    let size := i (a + 8) 4
    let recs := imgProgram i u a
    let ok := decide (a + 16 + size ≤ last) && i a 1 = u && i (a + 1) 3 = 0 && i (a + 12) 4 = 0 && (recs.map fun r => r.size).sum = size
    if !ok then [] else (u, recs) :: imgPrograms i last us (up64 (a + 16 + size))

/-! ### The parsed image -/

/-- An image with its header, directory and sections. -/
structure Draft where
  img  : Img
  secs : List ImgSection
  con  : Contract

/-- No model yet. -/
def CkcModel.none : CkcModel :=
  { off := 0, inputs := 0, resident := 0, inputOff := 0, lidarOff := 0, netOff := 0, projOff := 0, coverOff := 0, lateLimit := 0,
    bandLimit := 0, netLayers := 0, frameBandLimit := 0, occFree := 0, occOcc := 0, obstMin := 0, freeMin := 0, ghostCells := 0,
    priorMin := 0, tempDelta := 0, hMin := 0, hMax := 0, zGround := 0, zBand := 0, lidarSpan := 0, tileEdge := 0, originX := 0, originY := 0 }

/-- The header fields of a checker model (Table 12.5) at an offset of the image. -/
def imgModel (i : Img) (a : Nat) : CkcModel :=
  let w := fun (o : Nat) => BitVec.ofNat 32 (i (a + o) 4)
  { off := a, inputs := i (a + 6) 2, resident := i (a + 8) 4, inputOff := i (a + 0xC) 4, lidarOff := i (a + 0x10) 4,
    netOff := i (a + 0x14) 4, projOff := i (a + 0x18) 4, coverOff := i (a + 0x1C) 4, lateLimit := i (a + 0x2C) 2,
    bandLimit := i (a + 0x2E) 1, netLayers := i (a + 0x2F) 1, frameBandLimit := i (a + 0x30) 2, occFree := i (a + 0x32) 1,
    occOcc := i (a + 0x33) 1, obstMin := i (a + 0x34) 2, freeMin := i (a + 0x36) 2, ghostCells := i (a + 0x38) 1,
    priorMin := i (a + 0x39) 1, tempDelta := i (a + 0x3A) 1, hMin := sext 16 (i (a + 0x3C) 2), hMax := sext 16 (i (a + 0x3E) 2),
    zGround := w 0x40, zBand := w 0x44, lidarSpan := i (a + 0x48) 4, tileEdge := w 0x4C, originX := w 0x50, originY := w 0x54 }

/-- Parse an image. Where a section is missing its list is empty. -/
def parseImage (i : Img) : Draft :=
  let h := imgHeader i
  let l := imgSections i
  let progs := match findSec l secPrograms with | some e => imgPrograms i (e.off + e.size) h.engines e.off | none => []
  { img := i, secs := l,
    con :=
      { hdr := h, imageAddr := 0, ringBase := 0, steps := imgSteps i l, rings := imgRings i l, buffers := imgBuffers i l,
        bounds := imgBounds i l, golden := imgGolden i l, coppice := imgCoppice i l,
        streams := imgStreams i (secOff l secStreams + secSize l secStreams) h.cores (secOff l secStreams), programs := progs, edges := [],
        model := imgModel i (secOff l secModel), modelSize := secSize l secModel, sigOff := secOff l secSignature, digest := 0,
        modelDigest := 0 } }

/-! ### What INIT supplies -/

/-- The BUFFERS entry that covers an address, the latest in the section. -/
def Contract.bufferAt (c : Contract) (p : BufEntry → Bool) (sp : Space) (a n : Nat) : Option BufEntry :=
  c.buffers.reverse.find? fun b => p b && decide ((b.place 0).1 = sp) && decide ((b.place 0).2 ≤ a) && decide (a + n ≤ (b.place 0).2 + b.size)

/-- The byte that an entry's INIT supplies; 0 where none does. -/
def Draft.initByte (d : Draft) (sp : Space) (a : Nat) : Nat :=
  match d.con.bufferAt (fun b => b.init ≠ 0xFFFFFFFF) sp a 1 with
  | some b => d.img (secOff d.secs secConstants + b.init + (a - (b.place 0).2)) 1
  | none => 0
/-- The contents that memory has at load, as far as INIT supplies them. -/
def Draft.rd (d : Draft) : Reader := fun sp a n => leNat ((List.range n).map fun k => BitVec.ofNat 8 (d.initByte sp (a + k)))
/-- A header or descriptor that no step writes and INIT supplies (R78). -/
def Draft.staticAt (d : Draft) (sp : Space) (a : Nat) : Bool :=
  (d.con.bufferAt (fun b => b.init ≠ 0xFFFFFFFF && b.owner = 0xFF) sp a 64).isSome
/-- A reader of the image itself: addresses are offsets. -/
def Draft.imgRd (d : Draft) : Reader := fun _ a n => d.img a n

/-! ### Steps in order -/

/-- Put a step before the first whose STEP_ID is not lower. -/
def insertById (e : StepEntry) : List StepEntry → List StepEntry
  | [] => [e]
  | x :: r => if e.id ≤ x.id then e :: x :: r else x :: insertById e r
/-- The steps in increasing STEP_ID. -/
def Contract.byId (c : Contract) : List StepEntry := c.steps.foldr insertById []
/-- The steps of a unit in increasing STEP_ID (R43). -/
def Contract.unitSteps (c : Contract) (u : Nat) : List StepEntry := c.byId.filter fun e => e.unit = u
/-- The stream of a core. -/
def Contract.stream (c : Contract) (u : Nat) : List (BitVec 128) := match c.streams.find? fun p => p.1 = u with | some p => p.2 | none => []
/-- The program of an engine's unit code. -/
def Contract.recs (c : Contract) (u : Nat) : List EngRecord := match c.programs.find? fun p => p.1 = u with | some p => p.2 | none => []

/-- Cut a list after every element that ends a step: (position, elements) of each, and what is left over. -/
def cutSteps {α : Type} (fin : α → Bool) : Nat → List (Nat × α) → List α → List (List (Nat × α)) × List (Nat × α)
  | _, acc, [] => ([], acc.reverse)
  | k, acc, a :: r =>
    if fin a then
      let q := cutSteps fin (k + 1) [] r
      (((k, a) :: acc).reverse :: q.1, q.2)
    else cutSteps fin (k + 1) ((k, a) :: acc) r

/-- The instructions of each step of a core's stream, with their indices. -/
def Contract.coreSteps (c : Contract) (u : Nat) : List (List (Nat × BitVec 128)) × List (Nat × BitVec 128) :=
  cutSteps (fun w => decide (seqClass w = 0xC)) 0 [] (c.stream u)
/-- The records of each step of an engine's program, with their indices. -/
def Contract.engSteps (c : Contract) (u : Nat) : List (List (Nat × EngRecord)) × List (Nat × EngRecord) :=
  cutSteps (fun r => r.isStep) 0 [] (c.recs u)

end Sys2Proof.Machine
end

