-- ==== Sys2Proof/Machine/Traffic.lean ====
section
/-! DEFINITION. What each step of a contract reads and writes, derived at load from its instructions and records (R53, R467):
plain ranges, ring references, and the slots of every ring that the step fills and releases. -/

namespace Sys2Proof.Machine

/-- A ring reference: write or read, the ring's position, the ring-relative offset, and the bytes. -/
structure RingRef where
  wr   : Bool
  ring : Nat
  off  : Nat
  len  : Nat
  deriving DecidableEq, Repr

/-- What one instruction or record reaches. -/
structure Traffic where
  plain : List Acc
  refs  : List RingRef
  deriving DecidableEq, Repr

/-! ### Instructions -/

/-- LOADW and DRAIN as far as the addresses of later instructions need them: shapes, no weights. -/
def shapeInstr (w : BitVec 128) (k : Core) : Core :=
  match seqClass w with
  | 0x1 =>
    let t : WeightTile := { filled := true, fmt := fld w 77 74, piece := fld w 55 54, rows := fld w 72 64, cols := List.replicate (fld w 63 56) [] }
    { k with weights := (seqArrays w).foldl (fun v a => vset v (2 * a + fld w 73 73) t) k.weights }
  | 0x4 => { k with drainCfg := (seqArrays w).foldl (fun v a => vset v a (some (drainCfgOf w))) k.drainCfg }
  | _ => k

/-- The core's shapes before each instruction of a step. -/
def coreShapes : Core → List (Nat × BitVec 128) → List (Nat × BitVec 128 × Core)
  | _, [] => []
  | k, (i, w) :: r => (i, w, k) :: coreShapes (shapeInstr w k) r

/-- What an instruction reaches. -/
def instrTraffic (rd : Reader) (c : Fin 8) (k : Core) (w : BitVec 128) : Traffic :=
  let dma := decide (seqClass w = 7) || decide (seqClass w = 8)
  let off := if fld w 95 92 = 2 then fld w 91 40 % 2 ^ 24 else fld w 91 40
  { plain := (seqAcc rd c k (fun _ _ _ => none) w).filter fun a => decide (a.len ≠ 0),
    refs := if dma && decide (fld w 39 20 ≠ ringNone) && decide (fld w 19 0 ≠ 0) then
        [{ wr := decide (seqClass w = 8), ring := fld w 39 20, off := off, len := 64 * fld w 19 0 }]
      else [] }

/-! ### Records -/

/-- The record at an engine program's entry. -/
def Draft.record (d : Draft) (e : EngRecord) : OpRec := readRec d.imgRd .dram e.off
/-- The descriptor at an entry of GXE's program. -/
def Draft.gather (d : Draft) (e : EngRecord) : Gather := readDescriptor d.imgRd e.off

/-- K of a record that produces a list (R195). -/
def OpRec.listK (r : OpRec) : Option (Nat × Tensor) :=
  if r.op = 0x50 then some (r.p 4 2, r.t 3) else if r.op = 0x51 then some (r.p 0 2, r.t 1) else none
/-- COUNT of the list that an NMS record reads: K of its producing record, at most 4,096 (R195). `before` holds the program's
earlier records, the latest first. -/
def nmsLimit (before : List OpRec) (r : OpRec) : Nat :=
  match before.findSome? fun q => match q.listK with
      | some (k, t) => if t.space = (r.t 0).space ∧ t.addr = (r.t 0).addr then some k else none
      | none => none with
  | some k => min 4096 k
  | none => 4096

/-- The limit of each record of a program. -/
def Draft.nmsLimits (d : Draft) : List OpRec → List EngRecord → List Nat
  | _, [] => []
  | before, e :: r => nmsLimit before (d.record e) :: d.nmsLimits (d.record e :: before) r

/-- What a record of an engine reaches; `n` limits the list that NMS reads. -/
def recTraffic (rd : Reader) (n : Nat) (r : OpRec) : Traffic :=
  let outs := match opInfo r.op with | some k => k.outs | none => []
  let is := List.range r.ntensor
  { plain := (is.flatMap fun i => r.accs (fun _ _ _ => none) n i ++ r.scaleAccs rd i).filter fun a => decide (a.len ≠ 0),
    refs := is.filterMap fun i => match (r.t i).present, (r.t i).ring with
      | true, some (g, o) => some { wr := outs.contains i, ring := g, off := o, len := r.bytesOf n i }
      | _, _ => none }

/-- What a gather descriptor reaches. -/
def Draft.gatherTraffic (d : Draft) (e : EngRecord) : Traffic :=
  { plain := if d.img e.off 1 = 0 then ((d.gather e).acc d.rd).filter fun a => decide (a.len ≠ 0) else [], refs := [] }

/-- A step with what its instructions or records reach, by index. -/
structure StepItems where
  step  : StepEntry
  items : List (Nat × Traffic)

/-- The steps of a unit with what they reach. -/
def Draft.unitItems (d : Draft) (u : Nat) : List StepItems :=
  let steps := d.con.unitSteps u
  if u < 8 then
    (steps.zip (d.con.coreSteps u).1).map fun p =>
      { step := p.1, items := (coreShapes Core.idle p.2).map fun q => (q.1, instrTraffic d.rd (coreOf u) q.2.2 q.2.1) }
  else
    let lim := if u = 0x11 then [] else d.nmsLimits [] (d.con.recs u)
    (steps.zip (d.con.engSteps u).1).map fun p =>
      { step := p.1, items := p.2.map fun q => (q.1, if u = 0x11 then d.gatherTraffic q.2 else recTraffic d.rd (lim.getD q.1 0) (d.record q.2)) }

/-! ### Slots -/

/-- The slots of ring `i` that a step reaches by writes or by reads, counted from slot `c` (R467). -/
def Contract.relSlots (a : Contract) (i : Nat) (r : RingEntry) (c : Nat) (wr : Bool) (ts : List Traffic) : List Nat :=
  let byRef := ts.flatMap fun t => (t.refs.filter fun f => f.ring = i && f.wr = wr && decide (f.len ≠ 0)).flatMap fun f =>
    (List.range ((f.off + f.len - 1) / r.slotSize - f.off / r.slotSize + 1)).map fun k => f.off / r.slotSize + k
  let byAddr := ts.flatMap fun t => (t.plain.filter fun x => x.wr = wr).flatMap fun x =>
    ((List.range r.slotCount).filter fun k => match a.slotPlace r k 0 with
      | some p => x.touches p.1 p.2 r.slotSize
      | none => false).map fun k => (k + r.slotCount - c % r.slotCount) % r.slotCount
  (byRef ++ byAddr).eraseDups

/-- Slots c to c + n - 1: consecutive from c and no more than the ring has (R467). -/
def slotsOk (r : RingEntry) (l : List Nat) : Bool := decide (l.length ≤ r.slotCount) && (List.range l.length).all fun k => l.contains k

/-- What a step does to the rings: slots filled and released as (ring, first in the frame's count, how many), the INGEST rings
that it reads, the OBJECT_OUT rings that it writes, and the rings whose slots are not as R467 asks. -/
structure StepFlow where
  step     : StepEntry
  items    : List (Nat × Traffic)
  fills    : List (Nat × Nat × Nat)
  releases : List (Nat × Nat × Nat)
  ingest   : List Nat
  object   : List Nat
  bad      : List Nat

/-- The flow of a step, with the unit's counters before it. -/
def Contract.flowOf (a : Contract) (u : Nat) (rs : List (Nat × Nat)) (p : StepItems) : StepFlow :=
  let ts := p.items.map fun q => q.2
  let rings := a.rings.zipIdx
  let named := fun (i : Nat) (wr : Bool) => ts.any fun t => t.refs.any fun f => f.ring = i && f.wr = wr
  let slots := fun (wr : Bool) => (rings.filter fun e => decide (e.1.kind ≤ 1) && decide ((if wr then e.1.producer else e.1.consumer) = u)).map fun e =>
    let c := if wr then (rs.getD e.2 (0, 0)).1 else (rs.getD e.2 (0, 0)).2
    (e.2, c, e.1, a.relSlots e.2 e.1 c wr ts)
  let fs := (slots true).filter fun q => !q.2.2.2.isEmpty
  let gs := (slots false).filter fun q => !q.2.2.2.isEmpty
  let far := rings.filter fun e => e.1.kind = 2 && e.1.consumer = u &&
    ts.any fun t => t.refs.any fun f => f.ring = e.2 && decide (e.1.slotSize < f.off + f.len)
  { step := p.step, items := p.items, fills := fs.map fun q => (q.1, q.2.1, q.2.2.2.length), releases := gs.map fun q => (q.1, q.2.1, q.2.2.2.length),
    ingest := (rings.filter fun e => e.1.kind = 2 && e.1.consumer = u && named e.2 false).map fun e => e.2,
    object := (rings.filter fun e => e.1.kind = 4 && e.1.producer = u && named e.2 true).map fun e => e.2,
    bad := ((fs ++ gs).filter fun q => !slotsOk q.2.2.1 q.2.2.2).map (fun q => q.1) ++ far.map fun e => e.2 }

/-- A unit's counters after a step. -/
def countFlow (f : StepFlow) (rs : List (Nat × Nat)) : List (Nat × Nat) :=
  let rs := f.fills.foldl (fun rs q => rs.modify q.1 fun p => (p.1 + q.2.2, p.2)) rs
  f.releases.foldl (fun rs q => rs.modify q.1 fun p => (p.1, p.2 + q.2.2)) rs

/-- The flows of a unit's steps. -/
def Contract.flows (a : Contract) (u : Nat) : List (Nat × Nat) → List StepItems → List StepFlow
  | _, [] => []
  | rs, p :: r => let f := a.flowOf u rs p; f :: a.flows u (countFlow f rs) r

/-- The flows of every step. -/
def Draft.flows (d : Draft) : List StepFlow :=
  d.con.hdr.units.flatMap fun u => d.con.flows u (List.replicate d.con.rings.length (0, 0)) (d.unitItems u)

/-- The last step that reads an INGEST ring: its commit releases the slot (R49). -/
def lastReader (fs : List StepFlow) (i : Nat) : Option Nat :=
  ((fs.filter fun f => f.ingest.contains i).map fun f => f.step.id).foldl (fun m k => match m with | some j => some (max j k) | none => some k) none

/-- What the commits of the steps do to the rings, by STEP_ID. -/
def Draft.stepEdges (d : Draft) (fs : List StepFlow) : List StepEdges :=
  (List.range d.con.hdr.stepCount).map fun id =>
    match fs.find? fun f => f.step.id = id with
    | none => { fills := [], releases := [] }
    | some f =>
      { fills := f.fills.map (fun q => (q.1, q.2.2)) ++ f.object.map fun i => (i, 1),
        releases := f.releases.map (fun q => (q.1, q.2.2)) ++ (f.ingest.filter fun i => lastReader fs i = some id).map fun i => (i, 1) }

end Sys2Proof.Machine
end

