-- ==== Sys2Proof/Machine/Checks.lean ====
section
/-! DEFINITION. The load-time checks 2, 3 and 5 to 14 of Table 3.7 (R38-R61, R94, R469): each answers nothing when it passes,
else the status, DETAIL and RESULT of the reply. -/

namespace Sys2Proof.Machine

/-- A reply that rejects an image. -/
structure Rej where
  status : Nat
  detail : Nat
  result : Nat
  deriving DecidableEq, Repr

/-- No entry can be named (R469). -/
abbrev noEntry : Nat := 0xFFFFFFFF
/-- CONTRACT_REJECTED with a reason code, naming section, unit and entry (R469). -/
def rej (reason sec unit entry : Nat) : Rej := { status := stRejected, detail := reason, result := sec + 2 ^ 16 * unit + 2 ^ 32 * entry }
/-- A fault when a condition fails. -/
def need (ok : Bool) (r : Rej) : Option Rej := if ok then none else some r
/-- The first fault of several. -/
def firstRej (l : List (Option Rej)) : Option Rej := l.findSome? id
/-- The first faulty entry of a section. -/
def eachEntry {α : Type} (reason sec : Nat) (ok : Nat → α → Bool) (l : List α) : Option Rej :=
  (l.zipIdx).findSome? fun p => need (ok p.2 p.1) (rej reason sec 0 p.2)

/-! ### Check 2 -/

/-- The entry size of a fixed-size section (R39). -/
def entrySize (t : Nat) : Option Nat :=
  match t with | 3 => some 32 | 4 => some 32 | 5 => some 16 | 6 => some 32 | 7 => some 8 | 8 => some 16 | _ => none
/-- The entries that the header gives a section (Table 3.2). -/
def entryCount (h : CtrHeader) (t : Nat) : Option Nat :=
  match t with | 1 => some h.cores.length | 2 => some h.engines.length | 3 => some h.ringCount | 5 => some h.stepCount | 7 => some h.stepCount | 9 => some 0 | 10 => some 0 | 15 => some 0 | _ => none
/-- Types of Table 3.2; an entry of another type faults check 2 (DESIGN CHOICE, log 145). -/
def typeKnown (t : Nat) : Bool := decide (1 ≤ t ∧ t ≤ 10) || t = 15

/-- A directory entry keeps the rules of R39; `before` holds the entries ahead of it. Its reserved bytes must be zero (DESIGN
CHOICE, log 144). -/
def entryOk (h : CtrHeader) (first : Nat) (before : List ImgSection) (e : ImgSection) : Bool :=
  typeKnown e.typ && e.reserved = 0 && !(before.any fun b => b.typ = e.typ) && decide (e.off % 64 = 0) && decide (first ≤ e.off) &&
    decide (e.off + e.size ≤ h.imageSize) &&
    !(before.any fun b => decide (b.off < e.off + e.size) && decide (e.off < b.off + b.size)) &&
    (match entrySize e.typ with | some k => e.size = e.entries * k | none => true) &&
    (match entryCount h e.typ with | some n => e.entries = n | none => true) &&
    (e.typ ≠ secSignature || e.size = 29920) && (e.typ ≠ secCoppice || h.format ≠ 3)

/-- The first faulty directory entry. -/
def dirFault (h : CtrHeader) (first : Nat) : List ImgSection → List ImgSection → Option ImgSection
  | _, [] => none
  | before, e :: r => if entryOk h first before e then dirFault h first (before ++ [e]) r else some e

/-- Sections that an image must have (Table 3.2). -/
def requiredSecs (h : CtrHeader) : List Nat :=
  [1, 3, 4, 5, 6, 7, 9, 15] ++ (if h.engineSet ≠ 0 then [2] else []) ++ (if h.format = 4 then [8] else [])

/-- The header and the directory can be read (R468). -/
def imgReadable (i : Img) (size : Nat) : Bool :=
  decide (256 ≤ size) && i 0 4 = 0x54434D4B && i 6 2 = 256 && i 0x2C 4 = size && decide (0x100 + 16 * imgSectionCount i ≤ size)

/-- Check 2. -/
def check2 (i : Img) (size : Nat) : Option Rej :=
  let whole := rej 0x01 0 0 noEntry
  if !imgReadable i size then some whole
  else
    let h := imgHeader i
    let l := imgSections i
    match dirFault h (0x100 + 16 * l.length) [] l with
    | some e => some (rej 0x01 e.typ 0 noEntry)
    | none =>
      let sig := secOff l secSignature
      if !(requiredSecs h).all (fun t => (findSec l t).isSome) then some whole
      else if l.any fun e => decide (sig < e.off) then some (rej 0x01 secSignature 0 noEntry)
      else none

/-! ### Checks 3, 5, 6 and 7 -/

/-- Check 3 (R267). -/
def check3 (h : CtrHeader) (negotiated : Nat) : Option Rej :=
  need ((h.format = 3 || h.format = 4) && decide (h.format ≤ negotiated)) { status := stVersion, detail := 1, result := 0 }
/-- Check 5. -/
def check5 (i : Img) : Option Rej := need (i 8 2 = 0x0880 && i 0xA 1 = 0xA1) (rej 0x02 0 0 noEntry)
/-- Check 6 (R4). -/
def check6 (h : CtrHeader) (floor : Nat) : Option Rej := need (decide (h.floor ≤ floor)) (rej 0x03 0 0 noEntry)
/-- Check 7: the ranges of Table 3.1; reserved bytes are zero (R38). -/
def check7 (i : Img) (h : CtrHeader) : Option Rej :=
  let ok := decide (1 ≤ h.tileFormat ∧ h.tileFormat ≤ 2) && (h.format ≠ 3 || h.tileFormat = 1) && decide (100 ≤ h.floor ∧ h.floor ≤ 1150) &&
    decide (8 ≤ h.cadence ∧ h.cadence ≤ 32) && decide (25000000 ≤ h.frameCycle ∧ h.frameCycle ≤ 50000000) && decide (h.emitOffset < h.frameCycle) &&
    decide (1 ≤ h.gridW ∧ h.gridW ≤ 256) && decide (1 ≤ h.gridH ∧ h.gridH ≤ 256) && decide (h.tiles % 64 = 0) &&
    decide (50 ≤ h.cellSize ∧ h.cellSize ≤ 2000) && decide (h.engineSet < 16) && decide (1 ≤ h.stepCount ∧ h.stepCount ≤ 1048576) &&
    decide (1 ≤ h.ringCount ∧ h.ringCount ≤ 65536) && i 0x3A 198 = 0
  need ok (rej 0x04 0 0 noEntry)

/-! ### Check 8: one step of a core -/

/-- The resource of an instruction (R69, Table 4.9): 0 ARR, 1 WLD, 2 VU, 3 SU, 4 DMA, 5 GTH. -/
def seqRes (w : BitVec 128) : Option Nat :=
  match seqClass w with
  | 0x1 => some 1 | 0x2 => some 0 | 0x3 => some 0 | 0x4 => some 0 | 0x5 => some 2 | 0x6 => some 3 | 0x7 => some 4 | 0x8 => some 4
  | 0x9 => some (if fld w 5 5 = 0 then 5 else 4)
  | _ => none

/-- A scale header that an instruction names is static (R78), and its operand fields are allowed (R102-R104). -/
def Draft.hdrOk (d : Draft) (c : Fin 8) (spa : Nat) (ok : ScaleHdr → Bool) : Bool :=
  match spaOpt spa with
  | none => true
  | some a => d.staticAt (.spad c) a && hdrReservedOk d.rd (.spad c) a && ok (readHdr d.rd (.spad c) (some a))

/-- An MMA or CONV finds its weights and its drain in the same step, of formats that go together (R72, R74, R94, R121). -/
def Draft.arraysReady (d : Draft) (c : Fin 8) (k : Core) (w : BitVec 128) (buf fmt : Nat) : Bool :=
  (seqArrays w).all fun a =>
    let t := k.tile a buf
    t.filled && fmtIsInt t.fmt = fmtIsInt fmt &&
      (match vget k.drainCfg a none with
       | none => false
       | some g => g.oscale = spaNone || (readHdr d.rd (.spad c) (spaOpt g.oscale)).outputOk g.outFmt t.cols.length)

/-- The ring that a DMA names: a ring of the contract whose storage is where TARGET says; over Pleach a HALO ring to whose
consumer the link leads (R89). -/
def Contract.dmaRingOk (a : Contract) (c : Fin 8) (w : BitVec 128) : Bool :=
  if fld w 39 20 = ringNone then true else
  match a.rings[fld w 39 20]? with
  | none => false
  | some r =>
    let home := if r.kind = 2 then 2 else match a.buffers[r.buffer]? with | some b => b.kind | none => 3
    match fld w 95 92 with
    | 0 => decide (r.kind ≠ 1) && home = 1
    | 1 => decide (r.kind ≠ 1) && home = 2
    | 2 => r.kind = 1 && decide (r.consumer = (pleachTo c (fld w 91 91)).val)
    | _ => false

/-- An instruction of a frame program passes what R78, R89, R92 and R94 ask of it alone, with the step's shapes so far. -/
def Draft.instrOk (d : Draft) (c : Fin 8) (w : BitVec 128) (k : Core) : Bool :=
  let h := d.con.hdr
  let sem := decide (h.semBase ≤ fld w 113 98) && decide (fld w 113 98 < h.semBase + h.semCount)
  seqOk false w &&
  match seqClass w with
  | 0x0 => false
  | 0x1 => d.hdrOk c (fld w 95 78) fun x => x.operandOk (fld w 77 74)
  | 0x2 => d.hdrOk c (fld w 55 38) (fun x => x.operandOk (fld w 77 74)) && d.arraysReady c k w (fld w 73 73) (fld w 77 74)
  | 0x3 =>
    let a := spaByte (fld w 113 96)
    d.staticAt (.spad c) a && (readWalk d.rd (.spad c) a).ok (fld w 39 36) && d.hdrOk c (fld w 34 17) (fun x => x.operandOk (fld w 39 36)) &&
      d.arraysReady c k w (fld w 35 35) (fld w 39 36)
  | 0x4 => d.hdrOk c (fld w 68 51) fun x => decide (x.out ≤ 3) && decide (x.outBlock ≤ 1) && zpAllowed (fld w 77 74) x.zp
  | 0x7 => d.con.dmaRingOk c w
  | 0x8 => d.con.dmaRingOk c w
  | 0xA => sem
  | 0xB => sem
  | _ => true

/-- Where ring references lie for the counters that a unit has at a step's start; an INGEST slot is not bound at load. -/
def Contract.ringAtLoad (a : Contract) (rs : List (Nat × Nat)) : RingAt :=
  a.ringAt { Prog.idle with rings := rs.map fun q => { full := [], nextFill := q.1, nextRel := q.2, bound := none } }

/-- The bytes that an instruction of a step reaches, its ring references placed by the counters that the unit has at the
step's start. -/
def Contract.placed (a : Contract) (rs : List (Nat × Nat)) (t : Traffic) : List Acc :=
  t.plain ++ t.refs.flatMap fun f => (pieces (fun i => a.ringAtLoad rs f.wr f.ring (f.off + i)) f.len).map fun q =>
    { wr := f.wr, sp := q.1, addr := q.2.1, len := q.2.2 }

/-- Two instructions touch a common byte that one of them writes. -/
def clash (a b : List Acc) : Bool := a.any fun x => b.any fun y => (x.wr || y.wr) && x.overlaps y

/-- An instruction is ordered after an earlier one (R94): the same resource, no common byte, or a SYNC between them that names
the earlier one's resource. `later` holds the instructions after the earlier one up to and with this one. -/
def ordered (w1 : BitVec 128) (a1 : List Acc) (later : List (BitVec 128)) (w2 : BitVec 128) (a2 : List Acc) : Bool :=
  match seqRes w1, seqRes w2 with
  | some r1, some r2 => r1 = r2 || !clash a1 a2 || later.any fun w => (seqSync w).testBit r1
  | _, _ => true

/-- The index of the first instruction of a step that R94's last condition faults. -/
def syncFault (l : List (Nat × BitVec 128 × List Acc)) : Option Nat :=
  ((List.range l.length).find? fun j =>
    match l[j]? with
    | none => false
    | some b => (List.range j).any fun i => match l[i]? with
      | none => false
      | some a => !ordered a.2.1 a.2.2 (((l.drop (i + 1)).take (j - i)).map fun q => q.2.1) b.2.1 b.2.2).bind fun j => (l[j]?).map fun q => q.1

/-- An instruction has the place in its step that KIND gives it (R94): GOLDEN, span, COMMIT; COPPICE, COMMIT; neither in a WORK
step. `pos` is its position in the step, `n` the step's length. -/
def kindForm (kind pos n : Nat) (w : BitVec 128) : Bool :=
  let k := seqClass w
  match kind with
  | 1 => if pos = 0 then k = 0xD else k ≠ 0xD && k ≠ 0xE
  | 2 => if pos = 0 then k = 0xE && n = 2 else k = 0xC
  | _ => k ≠ 0xD && k ≠ 0xE

/-- A drain of a golden step names no scale record (R118). -/
def Draft.goldenDrain (d : Draft) (c : Fin 8) (kind : Nat) (w : BitVec 128) : Bool :=
  kind ≠ 1 || seqClass w ≠ 4 ||
    (let h := readHdr d.rd (.spad c) (spaOpt (fld w 68 51)); h.inRec = 0xFFFFFFFF && h.outRec = 0xFFFFFFFF)

/-- The lowest of several indices. -/
def lowest (l : List (Option Nat)) : Option Nat := l.foldl (fun m k => match m, k with | some a, some b => some (min a b) | some a, none => some a | none, k => k) none

/-- The first faulty instruction of a core's step. -/
def Draft.stepFault (d : Draft) (u : Nat) (rs : List (Nat × Nat)) (p : List (Nat × BitVec 128) × StepItems) : Option Nat :=
  let c := coreOf u
  let kind := p.2.step.kind
  let shapes := (coreShapes Core.idle p.1).zipIdx
  let own := shapes.find? fun q =>
    !(d.instrOk c q.1.2.1 q.1.2.2 && kindForm kind q.2 p.1.length q.1.2.1 && d.goldenDrain c kind q.1.2.1)
  lowest [own.map fun q => q.1.1, syncFault ((p.1.zip p.2.items).map fun q => (q.1.1, q.1.2, d.con.placed rs q.2.2))]

/-- The first faulty instruction among a core's steps, with the counters as they run. -/
def Draft.stepsFault (d : Draft) (u : Nat) : List (Nat × Nat) → List (List (Nat × BitVec 128) × StepItems) → Option Nat
  | _, [] => none
  | rs, p :: r =>
    match d.stepFault u rs p with
    | some k => some k
    | none => d.stepsFault u (countFlow (d.con.flowOf u rs p.2) rs) r

/-- The GX engines that each core's GATHERs name (R153). -/
def Draft.coreGx (d : Draft) (u : Nat) : List (Nat × Nat) :=
  ((d.con.stream u).zipIdx).filterMap fun p => if seqClass p.1 = 9 then some (p.2, fld p.1 113 110) else none
/-- The GX engines that GXE's descriptors name. -/
def Draft.gxeGx (d : Draft) : List Nat := (d.con.recs 0x11).filterMap fun e => if d.img e.off 1 = 0 then some (d.img (e.off + 1) 1) else none

/-- The first GATHER of a core that names a GX engine of another core or of GXE's steps (R153). -/
def Draft.gxFault (d : Draft) (u : Nat) : Option Nat :=
  let others := ((d.con.hdr.cores.filter fun v => decide (v < u)).flatMap fun v => (d.coreGx v).map fun p => p.2)
  ((d.coreGx u).find? fun p => others.contains p.2).map fun p => p.1

/-- A core's stream (R94, R153): it is there, its steps are whole, its GATHERs name GX engines of its own, and only HALT follows the
last COMMIT. The first faulty instruction is named. -/
def Draft.streamFault (d : Draft) (u : Nat) : Option Rej :=
  let at_ := fun (i : Nat) => rej 0x05 secStreams u i
  if !(d.con.streams.any fun p => p.1 = u) then some (at_ noEntry)
  else
    let (spans, rest) := d.con.coreSteps u
    let tail := match rest with
      | [(i, w)] => if seqClass w = 0 && seqOk false w then none else some i
      | (i, _) :: _ => some i
      | [] => some ((d.con.stream u).length - 1)
    (lowest [d.stepsFault u (List.replicate d.con.rings.length (0, 0)) (spans.zip (d.unitItems u)), d.gxFault u, tail]).map at_

/-! ### Check 8: engines, GX engines, tables -/

/-- The unit that runs a record (Table 7.3). -/
def unitRuns (u : Nat) (k : OpUnit) : Bool := (u = 0x10 && k = .wre) || (u = 0x12 && k = .dpp) || (u = 0x13 && k = .qoe)

/-- A tensor's ring is one of the contract's. -/
def Contract.recRingsOk (a : Contract) (r : OpRec) : Bool :=
  r.tensors.all fun t => match t.present, t.ring with | true, some p => decide (p.1 < a.rings.length) | _, _ => true

/-- The scale headers of a record that INIT supplies are allowed (R102-R104). -/
def Draft.recHdrsOk (d : Draft) (r : OpRec) : Bool :=
  r.hdrsOk d.rd fun sp a => (d.con.bufferAt (fun b => b.init ≠ 0xFFFFFFFF) sp a 64).isSome

/-- A record of an engine's program passes (R102-R104, R158-R163); `rs` are the unit's counters at its step's start. -/
def Draft.recordOk (d : Draft) (u n : Nat) (rs : List (Nat × Nat)) (r : OpRec) : Bool :=
  (match opInfo r.op with | some k => unitRuns u k.unit | none => false) && d.con.recRingsOk r && r.ok true (d.con.ringAtLoad rs) n && d.recHdrsOk r

/-- The counters that a unit has at the start of each of its steps. -/
def Draft.stepCounters (d : Draft) (u : Nat) : List (Nat × Nat) → List StepItems → List (List (Nat × Nat))
  | _, [] => []
  | rs, p :: r => rs :: d.stepCounters u (countFlow (d.con.flowOf u rs p) rs) r

/-- The counters for each record of a unit's program; those of no step see the start's. -/
def Draft.recCounters (d : Draft) (u : Nat) : Nat → List (Nat × Nat) :=
  let zero := List.replicate d.con.rings.length (0, 0)
  let items := d.unitItems u
  let at_ := (items.zip (d.stepCounters u zero items)).flatMap fun p => p.1.items.map fun q => (q.1, p.2)
  fun i => match at_.find? fun q => q.1 = i with | some q => q.2 | none => zero

/-- A gather descriptor passes (Table 6.7). -/
def Draft.descriptorOk (d : Draft) (e : EngRecord) : Bool :=
  let u := fun (o n : Nat) => d.img (e.off + o) n
  decide (u 0 1 ≤ 2) && u 3 1 = 0 && u 0xC 4 = 0 &&
    (u 0 1 ≠ 0 || (decide (u 1 1 < 16) && decide (u 2 1 < 4) && decide (1 ≤ u 4 2 ∧ u 4 2 ≤ 4095) && decide (1 ≤ u 6 2)))

/-- An engine's program (R40, R154, R158). -/
def Draft.programFault (d : Draft) (u : Nat) : Option Rej :=
  let at_ := fun (i : Nat) => rej 0x05 secPrograms u i
  if !(d.con.programs.any fun p => p.1 = u) then some (at_ noEntry)
  else
    let recs := d.con.recs u
    let lim := if u = 0x11 then [] else d.nmsLimits [] recs
    let gx := if u = 0x11 then d.con.hdr.cores.flatMap fun v => (d.coreGx v).map fun p => p.2 else []
    let cs := d.recCounters u
    let ok := fun (e : EngRecord) (i : Nat) =>
      (if u = 0x11 then d.descriptorOk e && !(d.img e.off 1 = 0 && gx.contains (d.img (e.off + 1) 1)) else d.recordOk u (lim.getD i 0) (cs i) (d.record e)) &&
        e.isEnd = decide (i + 1 = recs.length)
    match (recs.zipIdx).find? fun p => !ok p.1 p.2 with
    | some p => some (at_ p.2)
    | none =>
      let last := (recs.getLast?).map fun e => e.isStep || u = 0x11
      need (last = some true && (u ≠ 0x11 || decide ((d.con.engSteps u).2.length = 1))) (at_ (recs.length - 1))

/-- The first step of the unit's list that does not start where its stream or program starts a step (R43). -/
def Draft.offsetsOk (d : Draft) (e : StepEntry) : Bool :=
  let starts := if e.unit < 8 then (d.con.coreSteps e.unit).1.map (fun l => (l.head?).map fun p => p.1)
    else (d.con.engSteps e.unit).1.map fun l => (l.head?).map fun p => p.1
  let mine := d.con.unitSteps e.unit
  mine.length = starts.length && (mine.zip starts).any fun p => p.1 = e && p.2 = some e.streamOffset

/-- The tiles of the other steps. -/
def Contract.tilesClash (a : Contract) (e : StepEntry) : Bool :=
  e.tileCount ≠ 0 && a.steps.any fun q => q.id ≠ e.id && q.tileCount ≠ 0 &&
    decide (q.firstTile < e.firstTile + e.tileCount) && decide (e.firstTile < q.firstTile + q.tileCount)

/-- A STEPS entry (R43, R50). Its reserved bytes must be zero (DESIGN CHOICE, log 144). -/
def Draft.stepOk (d : Draft) (i : Nat) (e : StepEntry) : Bool :=
  let h := d.con.hdr
  decide (e.id < h.stepCount) && !((d.con.steps.take i).any fun q => q.id = e.id) && h.units.contains e.unit && decide (e.kind ≤ 2) &&
    d.img (secOff d.secs secSteps + 16 * i + 0xA) 2 = 0 && decide (e.firstTile + e.tileCount ≤ h.tiles ∨ e.tileCount = 0) &&
    !d.con.tilesClash e && d.offsetsOk e

/-- A RINGS entry's ranges (Table 3.4); output rings are check 9's. Its reserved bytes must be zero (DESIGN CHOICE, log 144). -/
def Draft.ringOk (d : Draft) (i : Nat) (r : RingEntry) : Bool :=
  decide (r.kind ≤ 4) && d.img (secOff d.secs secRings + 32 * i + 0x18) 8 = 0 &&
  (decide (3 ≤ r.kind) ||
    (decide (1 ≤ r.slotCount ∧ r.slotCount ≤ 4096) && decide (r.slotSize % 64 = 0) && decide (64 ≤ r.slotSize ∧ r.slotSize ≤ 0x400000) &&
      (if r.kind = 2 then decide (r.deviceRing ≤ 0xFFF) else r.deviceRing = 0 && decide (r.bufferOffset % 64 = 0) &&
        (match d.con.buffers[r.buffer]? with
         | some b => decide (r.bufferOffset + r.slotCount * r.slotSize ≤ b.size)
         | none => false))))

/-- A BUFFERS entry's ranges (Table 3.5). Its reserved bytes must be zero (DESIGN CHOICE, log 144). -/
def Draft.bufferOk (d : Draft) (i : Nat) (b : BufEntry) : Bool :=
  let a := secOff d.secs secBuffers + 32 * i
  decide (b.kind ≤ 2) && decide (b.location < (if b.kind = 0 then 64 else if b.kind = 1 then 6 else 1)) && decide (b.access ≤ 3) &&
    (b.owner = 0xFF || d.con.hdr.units.contains b.owner) && d.img (a + 5) 3 = 0 && d.img (a + 0x1C) 4 = 0 &&
    decide (1 ≤ b.size) && decide (b.size % 64 = 0) &&
    decide (b.offset + b.size ≤ (if b.kind = 0 then bankSize else if b.kind = 1 then segSize else 2 ^ 64)) &&
    (b.init = 0xFFFFFFFF || decide (b.init + b.size ≤ secSize d.secs secConstants))

/-- A GOLDEN entry (R57, R58). -/
def Draft.goldenOk (d : Draft) (i : Nat) (g : GoldenEntry) : Bool :=
  let a := secOff d.secs secGolden + 32 * i
  let span := match (d.con.steps.find? fun e => e.id = g.stepId) with
    | none => none
    | some e => if e.unit ≠ g.unit || e.kind ≠ 1 then none
      else ((d.con.coreSteps g.unit).1.find? fun l => (l.head?).map (fun p => p.1) = some e.streamOffset).map fun l => (e.streamOffset + 1, l.length - 2)
  d.con.hdr.cores[i]? = some g.unit && d.img (a + 5) 3 = 0 && decide (g.inputSize % 64 = 0) &&
    decide (g.inputOffset + g.inputSize ≤ secSize d.secs secConstants) &&
    (d.con.buffers.any fun b => b.init = g.inputOffset && b.owner = g.unit) && span = some (g.spanFirst, g.spanCount)

/-- Check 8. -/
def Draft.check8 (d : Draft) : Option Rej :=
  let h := d.con.hdr
  let a0 := secOff d.secs secStreams
  let strEnd := need (streamsEnd a0 d.con.streams = a0 + secSize d.secs secStreams) (rej 0x05 secStreams (h.cores.getLastD 0) noEntry)
  firstRej
    ((h.cores.map d.streamFault) ++ [strEnd] ++ (h.engines.map d.programFault) ++
     [eachEntry 0x05 secRings d.ringOk d.con.rings, eachEntry 0x05 secBuffers d.bufferOk d.con.buffers,
      eachEntry 0x05 secSteps d.stepOk d.con.steps,
      need ((d.con.steps.map fun e => e.tileCount).sum = h.tiles) (rej 0x05 secSteps 0 noEntry),
      eachEntry 0x05 secGolden d.goldenOk d.con.golden,
      need (d.con.golden.length = h.cores.length) (rej 0x05 secGolden 0 noEntry)])

/-! ### Check 9 -/

/-- The engine that commits into a configured device ring: (ring, unit) (R49). -/
def Sen.ringUnits (x : Sen) : List (Nat × Nat) :=
  (x.cams.map fun c => (0x100 + c.1, 0x18 + cfeOf c.2.port)) ++ x.lids.map fun l => (0x200 + l.1, 0x1A)

/-- Some step of another unit than the ring's ends reaches it. -/
def strangers (a : Contract) (fs : List StepFlow) (i : Nat) (r : RingEntry) : Bool :=
  fs.any fun f => f.items.any fun t =>
    (t.2.refs.any fun q => q.ring = i && decide ((if q.wr then r.producer else r.consumer) ≠ f.step.unit)) ||
    (decide (r.kind ≤ 1) && f.step.unit ≠ r.producer && f.step.unit ≠ r.consumer && t.2.plain.any fun x =>
      !x.wr && (List.range r.slotCount).any fun k => match a.slotPlace r k 0 with | some p => x.touches p.1 p.2 r.slotSize | none => false)

/-- A RINGS entry's endpoints and shape (R42, R44, R49-R51); `devs` are the device rings with their engines. -/
def Draft.endpointsOk (d : Draft) (devs : List (Nat × Nat)) (fs : List StepFlow) (i : Nat) (r : RingEntry) : Bool :=
  let us := d.con.hdr.units
  let a := d.con
  let same := fun (k : Nat) => (a.rings.take i).filter fun q => q.kind = k
  let buf := a.buffers[r.buffer]?
  let fits := fun (n : Nat) => match buf with | some b => decide (r.bufferOffset + n ≤ b.size) | none => false
  let shape := match r.kind with
    | 0 => us.contains r.producer && us.contains r.consumer
    | 1 => us.contains r.producer && us.contains r.consumer && decide (r.producer < 8) && decide (r.consumer < 8) &&
        (decide (r.consumer = (r.producer + 1) % 8) || decide (r.consumer = (r.producer + 7) % 8)) &&
        (match buf with | some b => b.kind = 0 && decide (b.location / 8 = r.consumer) | none => false)
    | 2 => us.contains r.consumer && devs.contains (r.deviceRing, r.producer) && !((same 2).any fun q => q.deviceRing = r.deviceRing)
    | 3 => us.contains r.producer && (decide (r.producer < 8) || r.producer = 0x12) && r.consumer = 0x1F && r.slotCount = 0 && r.slotSize = 0 &&
        r.fills = 0 && r.deviceRing = 0 && decide (r.bufferOffset % 64 = 0) && fits (2 * a.hdr.tiles * 256) && !((same 3).any fun q => q.producer = r.producer) &&
        (same 3).all fun q => q.buffer = r.buffer && q.bufferOffset = r.bufferOffset
    | _ => us.contains r.producer && r.producer = 0x12 && r.consumer = 0x1F && r.slotCount = 2 && r.slotSize = 16384 && r.fills = 1 && r.deviceRing = 0 &&
        decide (r.bufferOffset % 64 = 0) && fits 32768 && (same 4).isEmpty
  shape && !strangers a fs i r

/-- Check 9. -/
def Draft.check9 (d : Draft) (devs : List (Nat × Nat)) (fs : List StepFlow) : Option Rej :=
  let outs := d.con.rings.filter fun r => r.kind = 3
  firstRej
    [eachEntry 0x06 secRings (d.endpointsOk devs fs) d.con.rings,
     need (!outs.isEmpty) (rej 0x06 secRings 0 noEntry),
     eachEntry 0x06 secSteps (fun _ e => e.tileCount = 0 || outs.any fun r => r.producer = e.unit) d.con.steps]

/-! ### Checks 10 and 11 -/

/-- A ring's fills and releases over a frame (R48-R50, R467). -/
def balanced (fs : List StepFlow) (i : Nat) (r : RingEntry) : Bool :=
  let sum := fun (g : StepFlow → List (Nat × Nat × Nat)) => (fs.map fun f => ((g f).map fun q => if q.1 = i then q.2.2 else 0).sum).sum
  !(fs.any fun f => f.bad.contains i) &&
  match r.kind with
  | 2 => r.fills = 1 && (lastReader fs i).isSome
  | 3 => true
  | 4 => decide ((fs.filter fun f => f.object.contains i).length = 1)
  | _ => sum (fun f => f.fills) = r.fills && sum (fun f => f.releases) = r.fills

/-- Check 10. -/
def Draft.check10 (d : Draft) (fs : List StepFlow) : Option Rej := eachEntry 0x07 secRings (balanced fs) d.con.rings

/-- Bytes of the tile storage (R50). -/
def Contract.inTiles (a : Contract) (x : Acc) : Bool :=
  match a.tilePlace 0 0 with | some p => x.touches p.1 p.2 (2 * a.hdr.tiles * 256) | none => false

/-- A plain write lands in a writable buffer of the unit or in slots of a ring that the unit produces, outside the tile storage
(R50, R53). -/
def Contract.writeOk (a : Contract) (u : Nat) (x : Acc) : Bool :=
  !a.inTiles x &&
  ((a.bufferAt (fun b => b.owner = u && b.access / 2 % 2 = 1) x.sp x.addr x.len).isSome ||
   a.rings.any fun r => decide (r.kind ≤ 1) && r.producer = u && (match a.slotPlace r 0 0 with
     | some p => decide (p.1 = x.sp) && decide (p.2 ≤ x.addr) && decide (x.addr + x.len ≤ p.2 + r.slotCount * r.slotSize)
     | none => false))

/-- A write through a ring reference stays where it may: a tile-producing step in its own tiles, OBJECT_OUT in its slot (R50);
other rings are check 10's. -/
def Contract.refOk (a : Contract) (e : StepEntry) (f : RingRef) : Bool :=
  match a.rings[f.ring]? with
  | none => false
  | some r =>
    if r.kind = 3 then decide (256 * e.firstTile ≤ f.off) && decide (f.off + f.len ≤ 256 * (e.firstTile + e.tileCount))
    else if r.kind = 4 then decide (f.off + f.len ≤ r.slotSize) else decide (r.kind ≤ 1)

/-- Every write of one instruction or record is within what the step's unit owns. -/
def Contract.writesOk (a : Contract) (e : StepEntry) (t : Traffic) : Bool :=
  (t.plain.all fun x => !x.wr || a.writeOk e.unit x) && t.refs.all fun f => !f.wr || a.refOk e f

/-- Check 11 (R53). -/
def Draft.check11 (d : Draft) (fs : List StepFlow) : Option Rej :=
  let bad := fun (u : Nat) => ((fs.filter fun f => f.step.unit = u).flatMap fun f => f.items.filterMap fun t =>
    if d.con.writesOk f.step t.2 then none else some t.1)
  let sec := fun (u : Nat) => if u < 8 then secStreams else secPrograms
  firstRej (d.con.hdr.units.map fun u => ((bad u).head?).map fun i => rej 0x08 (sec u) u i)

/-! ### Checks 12 and 14 -/

/-- Check 12: classes, SAFE regions, the SAFE semaphores, and nothing that a QM job holds (R52, R285). -/
def Draft.check12 (d : Draft) (m : Mss) (banks segs : List Nat) : Option Rej :=
  let h := d.con.hdr
  firstRej
    [need (h.semCount = 0 || decide (h.semBase + h.semCount ≤ 0x1000)) (rej 0x09 0 0 noEntry),
     eachEntry 0x09 secRings (fun _ r => r.cls = 1) d.con.rings,
     eachEntry 0x09 secBuffers (fun _ b => b.cls = 1 &&
       (match b.kind with
        | 0 => !banks.contains b.location
        | 1 => !segs.contains b.location
        | _ => m.inOne tagSafe b.offset b.size)) d.con.buffers]

/-- WAVES that a coppice step must have (R60). -/
def coppiceWaves (floor : Nat) : Nat := 1200 * floor + 8

/-- How far bytes from `a` on lie in one of the ranges, within `n` extensions. -/
def reach (l : List Acc) (sp : Space) : Nat → Nat → Nat
  | 0, a => a
  | n + 1, a => match l.find? fun x => decide (x.sp = sp) && decide (x.addr ≤ a) && decide (a < x.addr + x.len) with
    | some x => reach l sp n (x.addr + x.len)
    | none => a

/-- A golden step reads bytes of its fixed input, or bytes that an instruction of its own before wrote (DEDUCED, log 157), and
writes only what its core owns (R57). `done` holds its writes so far. -/
def Draft.goldenReads (d : Draft) (u : Nat) (input : List Acc) : List Acc → List (Nat × Traffic) → Bool
  | _, [] => true
  | done, t :: r =>
    let src := input ++ done
    (t.2.plain.all fun x => if x.wr then (d.con.bufferAt (fun b => b.owner = u) x.sp x.addr x.len).isSome
      else decide (x.addr + x.len ≤ reach src x.sp src.length x.addr)) &&
      d.goldenReads u input (done ++ t.2.plain.filter fun x => x.wr) r

/-- The fixed input of a golden step, where INIT places it (R58). -/
def Draft.fixedInput (d : Draft) (id : Nat) : List Acc :=
  (d.con.golden.filter fun g => g.stepId = id).flatMap fun g =>
    (d.con.buffers.filter fun b => b.init = g.inputOffset && b.owner = g.unit).map fun b =>
      { wr := false, sp := (b.place 0).1, addr := (b.place 0).2, len := g.inputSize }

/-- A golden or coppice step touches no ring; what a golden step reads and writes is its own (R57, R60). Its first instruction,
GOLDEN, names the output that the commit compares. -/
def Draft.quietOk (d : Draft) (f : StepFlow) : Bool :=
  f.step.kind = 0 ||
    (f.fills.isEmpty && f.releases.isEmpty && f.ingest.isEmpty && f.object.isEmpty && f.step.tileCount = 0 &&
     (f.items.all fun t => t.2.refs.isEmpty) && (f.step.kind ≠ 1 || d.goldenReads f.step.unit (d.fixedInput f.step.id) [] (f.items.drop 1)))

/-- Check 14 (R41, R57, R60, R61). -/
def Draft.check14 (d : Draft) (fs : List StepFlow) : Option Rej :=
  let h := d.con.hdr
  let a := d.con
  let count := fun (u k : Nat) => (a.steps.filter fun e => e.unit = u && e.kind = k).length
  let steps := eachEntry 0x0B secSteps (fun _ e =>
      (e.kind ≠ 1 || decide (e.unit < 8 ∧ count e.unit 1 = 1)) && (e.kind ≠ 2 || (h.format = 4 && decide (count e.unit 2 = 1))) &&
        fs.all fun f => f.step.id ≠ e.id || d.quietOk f) a.steps
  let missing := need (h.cores.all (fun u => count u 1 = 1) && (h.format = 3 || h.units.all fun u => count u 2 = 1)) (rej 0x0B secSteps 0 noEntry)
  let coppice := if h.format = 3 then none else firstRej
    [eachEntry 0x0B secCoppice (fun i p =>
       let o := secOff d.secs secCoppice + 16 * i
       h.units[i]? = some p.2 && d.img (o + 5) 3 = 0 && d.img (o + 8) 8 = 0 && (a.steps.any fun e => e.id = p.1 && e.unit = p.2 && e.kind = 2) &&
         decide (coppiceWaves h.floor ≤ (a.bounds.getD p.1 (0, 0)).1)) a.coppice,
     need (a.coppice.length = h.units.length) (rej 0x0B secCoppice 0 noEntry)]
  firstRej [steps, missing, coppice]

end Sys2Proof.Machine
end

