-- ==== Sys2Proof/Machine/Bounds.lean ====
section
/-! DEFINITION. The cost model of a step (R78, R95, R96, R105, R154, R195, Tables 4.9, 7.5) and checks 15 to 17 of Table 3.7
(R54-R56). Costs are in waves at the contract's FLOOR. -/

namespace Sys2Proof.Machine

/-! ### Bank beats -/

/-- The 512-byte beats of a range, as beat numbers in the scratchpad (R124). -/
def beatsOf (a n : Nat) : List Nat := if n = 0 then [] else (List.range ((a + n - 1) / 512 - a / 512 + 1)).map fun k => a / 512 + k
/-- The bank of a beat. -/
def beatBank (b : Nat) : Nat := b * 512 / bankSize
/-- B of R95: the most beats that go through one bank. -/
def bankMax (l : List Nat) : Nat := ((List.range 8).map fun k => (l.filter fun b => beatBank b = k).length).foldl max 0

/-- Beats fetched for a sequence of ranges, each beat reused while the walk stays inside it: (held beat, fetched) (R78). -/
def heldFetch (st : Option Nat × List Nat) (r : Nat × Nat) : Option Nat × List Nat :=
  (beatsOf r.1 r.2).foldl (fun st b => if st.1 = some b then st else (some b, st.2 ++ [b])) st
/-- The beats fetched for ranges in order. -/
def fetchBeats (l : List (Nat × Nat)) : List Nat := (l.foldl heldFetch (none, [])).2

/-- The output scale data that array `a`'s drain reads (R105, Table 5.2). -/
def outScaleBeats (h : ScaleHdr) (d : DrainCfg) (a cols vecs : Nat) : List Nat :=
  if !d.last then [] else match h.out with
    | 1 => beatsOf (h.addr + 0x40) (4 * cols)
    | 2 => beatsOf (h.addr + 0x40 + 4 * (a * vecs)) (4 * vecs)
    | 3 => beatsOf (h.addr + 0x40) 4
    | _ => []

/-- What array `a`'s drain moves: its vectors, its bias and its block scales, and apart from them its scale data. -/
def arrayDrainBeats (rd : Reader) (c : Fin 8) (k : Core) (buf vecs : Nat) (p : Nat × Nat) : List Nat × List Nat :=
  let (a, r) := p
  match vget k.drainCfg a none with
  | none => ([], [])
  | some d =>
    let cols := (k.tile a buf).cols.length
    let h := readHdr rd (.spad c) (spaOpt d.oscale)
    let data := (List.range vecs).flatMap fun m =>
      (if d.acc then beatsOf (d.place a m) (4 * cols) else []) ++ beatsOf (d.place a m) (d.bytes cols)
    let bias := match d.last, spaOpt d.bias with
      | true, some b => beatsOf b (4 * cols + (if d.act = 2 then 8 else 0))
      | _, _ => []
    let blocks := if d.last && h.outBlock = 1 then (List.range vecs).flatMap fun m => beatsOf (spaByte h.outScales + 4 * (r * vecs + m)) (cols / 32) else []
    (data ++ bias ++ blocks, outScaleBeats h d a cols vecs)

/-- The beats that the drains of an MMA or CONV move (R95, R105): every vector's write and, in accumulate mode, its read; each
distinct beat of scale data once for the instruction. -/
def drainBeats (rd : Reader) (c : Fin 8) (k : Core) (arrays : List Nat) (buf vecs : Nat) : List Nat :=
  let l := arrays.zipIdx.map (arrayDrainBeats rd c k buf vecs)
  (l.flatMap fun p => p.1) ++ (l.flatMap fun p => p.2).eraseDups

/-- The beats that MMA's feeders fetch (R78, R105). -/
def mmaBeats (rd : Reader) (c : Fin 8) (k : Core) (w : BitVec 128) : List Nat :=
  let fmt := fld w 77 74
  let vecs := fld w 71 56
  let h := readHdr rd (.spad c) (spaOpt (fld w 55 38))
  let scale := (seqArrays w).flatMap fun a =>
    let blocks := pairRows fmt (k.tile a (fld w 73 73)).fmt / 32
    if h.block = 0 then [] else beatsOf (h.addr + 0x40 + a * vecs * blocks * h.blkSize) (vecs * blocks * h.blkSize)
  ((seqArrays w).flatMap fun a =>
    let n := fmtBytes fmt (pairRows fmt (k.tile a (fld w 73 73)).fmt)
    fetchBeats ((List.range vecs).map fun m => (spaByte (fld w 113 96 + a * fld w 95 78 + m * fld w 35 26), n))) ++ scale.eraseDups

/-- The beats that CONV's feeders fetch: data and scales by segment position, each with its own held beat (R78, R105). -/
def convBeats (rd : Reader) (c : Fin 8) (k : Core) (w : BitVec 128) : List Nat :=
  let d := readWalk rd (.spad c) (spaByte (fld w 113 96))
  let h := readHdr rd (.spad c) (spaOpt (fld w 34 17))
  (seqArrays w).flatMap fun a =>
    let rows := pairRows (fld w 39 36) (k.tile a (fld w 35 35)).fmt
    let taps := (List.range (fld w 71 56)).map fun m => convTaps d w rows a m
    (List.range (if d.cw = 0 then 0 else rows / d.cw)).flatMap fun g =>
      let pos := taps.filterMap fun l => match l[g]? with | some (Tap.fetch n cb ih iw) => some (d.pos n cb ih iw) | _ => none
      fetchBeats (pos.map fun p => (d.base + p * d.blkBytes, d.blkBytes)) ++
        (if h.block = 0 then [] else fetchBeats (pos.map fun p => (h.addr + 0x40 + p * h.blkSize, h.blkSize)))

/-- The beats of VOP's operands. -/
def vopBeats (c : Fin 8) (w : BitVec 128) : List Nat := (vopAcc c w).flatMap fun a => beatsOf a.addr a.len

/-! ### Instruction costs -/

/-- Bytes over a share given in bytes per microsecond. -/
def shareWaves (floor bytes share : Nat) : Nat := cdiv (bytes * floor) share
/-- The latency of LPDDR5X: 0.8 microseconds. -/
def dramLat (floor : Nat) : Nat := cdiv (4 * floor) 5

/-- Occupancy of a VOP by its group (Table 4.5). -/
def vopQ (op n : Nat) : Nat :=
  if 0x50 ≤ op then n + 8 else if 0x40 ≤ op then 4 * n else if 0x30 ≤ op then cdiv n 2 else n

/-- Occupancy and latency of an instruction (Table 4.9). -/
def instrCost (rd : Reader) (floor : Nat) (c : Fin 8) (k : Core) (w : BitVec 128) : Nat × Nat :=
  let bytes := 64 * fld w 19 0
  let m := fld w 71 56
  match seqClass w with
  | 0x1 => (128, 52)
  | 0x2 =>
    let b := bankMax (mmaBeats rd c k w ++ drainBeats rd c k (seqArrays w) (fld w 73 73) m)
    if m = 0 then (1, 0) else (max m (cdiv b 2), 313)
  | 0x3 =>
    let b := bankMax (convBeats rd c k w ++ drainBeats rd c k (seqArrays w) (fld w 35 35) m)
    if m = 0 then (1, 313) else (max m (cdiv b 2), 313)
  | 0x4 => (1, 0)
  | 0x5 => (max (vopQ (fld w 113 106) (fld w 51 40)) (cdiv (bankMax (vopBeats c w)) 2), 60)
  | 0x6 => (fld w 59 40, 0)
  | 0x7 => if fld w 95 92 = 0 then (cdiv bytes 256, 96) else (shareWaves floor bytes 24000, dramLat floor)
  | 0x8 => match fld w 95 92 with
    | 0 => (cdiv bytes 256, 96)
    | 1 => (shareWaves floor bytes 24000, dramLat floor)
    | _ => (cdiv bytes 32, 16)
  | 0x9 =>
    let lines := fld w 91 76 * cdiv (fld w 75 64) 64
    if fld w 5 5 = 0 then (lines, 200) else (shareWaves floor (lines * 64) 24000, dramLat floor + 200)
  | 0xA => (4, 0)
  | 0xB => (4, 0)
  | 0xD => (1, 0)
  | 0xE => (1200 * floor, 0)
  | _ => (0, 0)

/-- The model's time within a step (R95): the issue time, each resource's busy and done times, for each BUF the end of the last
ARR occupancy and the start of the last LOADW, and what GOLDEN adds to the COMMIT. -/
structure CostSt where
  issue  : Nat
  busy   : List Nat
  done   : List Nat
  arrEnd : List Nat
  loadAt : List Nat
  golden : Nat
  deriving DecidableEq, Repr

/-- Every resource is free at the step's start. -/
def CostSt.start : CostSt :=
  { issue := 0, busy := List.replicate 6 0, done := List.replicate 6 0, arrEnd := [0, 0], loadAt := [0, 0], golden := 0 }

/-- The BUF of LOADW, MMA or CONV. -/
def seqBuf (w : BitVec 128) : Nat := if seqClass w = 3 then fld w 35 35 else fld w 73 73

/-- One instruction that is not COMMIT (R95). `used` says that an MMA or CONV has used its BUF before. -/
def CostSt.next (rd : Reader) (floor : Nat) (c : Fin 8) (w : BitVec 128) (k : Core) (used : Bool) (t : CostSt) : CostSt :=
  let b := seqBuf w
  let (occ, lat) := instrCost rd floor c k w
  let cls := seqClass w
  let first := if cls = 1 && used then t.arrEnd.getD b 0 + 126
    else if cls = 2 || cls = 3 then t.loadAt.getD b 0 + 4 else 0
  let s := max t.issue first
  let s := match seqRes w with | some r => max s (t.busy.getD r 0) | none => s
  let s := (maskBits 6 (seqSync w)).foldl (fun s r => max s (t.done.getD r 0)) s
  match seqRes w with
  | some r =>
    { t with issue := s + 1, busy := t.busy.set r (s + occ), done := t.done.set r (max (t.done.getD r 0) (s + occ + lat)),
             arrEnd := if cls = 2 || cls = 3 then t.arrEnd.set b (s + occ) else t.arrEnd,
             loadAt := if cls = 1 then t.loadAt.set b s else t.loadAt }
  | none => { t with issue := s + occ, golden := if cls = 0xD then cdiv (fld w 95 76) 8 else t.golden }

/-- The cost of a core's step (R95). -/
def coreStepCost (rd : Reader) (floor : Nat) (c : Fin 8) : CostSt → List Nat → List (Nat × BitVec 128 × Core) → Nat
  | t, _, [] => t.issue
  | t, used, (_, w, k) :: r =>
    if seqClass w = 0xC then t.done.foldl max t.issue + 8 + t.golden
    else
      let b := seqBuf w
      let t := t.next rd floor c w k (used.contains b)
      coreStepCost rd floor c t (if seqClass w = 2 || seqClass w = 3 then b :: used else used) r

/-! ### Engine costs -/

/-- The share of an engine in bytes per microsecond (R195, Table 6.5). -/
def engineShare (u : Nat) : Nat := if u = 0x10 then 10000 else if u = 0x12 then 2000 else 4000

/-- A tensor lies in LPDDR5X: by its space, or in a ring whose storage is there. -/
def Contract.tensorFar (a : Contract) (t : Tensor) : Bool :=
  match t.ring with
  | some p => match a.rings[p.1]? with
    | some r => r.kind = 2 || (match a.buffers[r.buffer]? with | some b => b.kind = 2 | none => false)
    | none => false
  | none => t.space = 0

/-- Lines that one sampled read fetches, by MODE: NEAREST, BILINEAR, BICUBIC (R195). -/
def sampleLines (mode : Nat) : Nat := if mode = 0 then 1 else if mode = 1 then 4 else 16

/-- The bytes of tensor `i`'s scale header and scale data (R195), and whether they lie in LPDDR5X. -/
def OpRec.costScale (rd : Reader) (r : OpRec) (i : Nat) : Nat × Bool :=
  let t := r.t i
  match t.present, t.scale with
  | true, some p => (64 + t.scaleBytes (readHdr rd p.1 (some p.2)), p.1 = .dram)
  | _, _ => (0, false)

/-- The bytes counted for tensor `i` of a record itself (Table 7.5). -/
def OpRec.costBytes (n : Nat) (r : OpRec) (i : Nat) : Nat :=
  if !(r.t i).present then 0 else
  let x := r.t 0
  let y := r.t (r.ntensor - 1)
  match r.op, i with
  | 0x0040, 0 => 64 * sampleLines (r.p 0 1) * (y.dim 0 * y.dim 2 * y.dim 3 * x.cb)
  | 0x0041, 0 => 64 * sampleLines (r.p 0 1) * (y.dim 0 * y.dim 2 * y.dim 3 * x.cb)
  | 0x0042, 0 => 64 * sampleLines (r.p 0 1) * (y.dim 0 * y.dim 2 * y.dim 3 * x.cb)
  | 0x0043, 0 => 64 * 4 * (y.dim 2 * y.dim 3 * (r.t 1).inner 0 * x.cb)
  | _, _ => r.bytesOf n i

/-- The compute term of a record (Table 7.5); `n` is the COUNT of NMS. -/
def OpRec.compute (n : Nat) (r : OpRec) : Nat :=
  let y := r.t (r.ntensor - 1)
  let image := cdiv (y.dim 0 * y.dim 2 * y.dim 3 * y.cb * y.cw) 16
  match r.op with
  | 0x0040 => if r.p 0 1 = 2 then 4 * image else image
  | 0x0041 => if r.p 0 1 = 2 then 4 * image else image
  | 0x0042 => if r.p 0 1 = 2 then 4 * image else image
  | 0x0043 => cdiv (y.dim 2 * y.dim 3 * (r.t 1).inner 0 * y.cb * y.cw) 16
  | 0x0050 => cdiv (r.t 0).count 16 + 4 * r.p 4 2
  | 0x0051 => cdiv (r.t 0).count 16 + r.p 0 2
  | 0x0052 => (if r.p 0 1 = 0 then cdiv (n * r.p 2 2) 32 else cdiv (n * r.p 2 2) 2) + n
  | 0x0073 => cdiv (r.t 0).count 16
  | 0x0074 => cdiv (r.t 0).count 16
  | _ => cdiv (r.t 0).count 64

/-- The cost of a record: the larger of compute and traffic (R195). -/
def Draft.recordCost (d : Draft) (u n : Nat) (r : OpRec) : Nat :=
  let fl := d.con.hdr.floor
  let bytes := fun (far : Bool) => ((List.range r.ntensor).map fun i =>
    let sc := r.costScale d.rd i
    (if d.con.tensorFar (r.t i) = far then r.costBytes n i else 0) + (if sc.2 = far then sc.1 else 0)).sum
  max (r.compute n) (cdiv (bytes false) 256 + shareWaves fl (bytes true) (engineShare u))

/-- The cost of a step of WRE, DPP or QOE (R195). -/
def Draft.engineCost (d : Draft) (u : Nat) (lim : List Nat) (l : List (Nat × EngRecord)) : Nat :=
  let fl := d.con.hdr.floor
  let recs := l.map fun p => (d.record p.2, lim.getD p.1 0)
  let far := recs.any fun p => p.1.tensors.any fun t => t.present && d.con.tensorFar t
  (recs.map fun p => d.recordCost u p.2 p.1).sum + (if far then dramLat fl + 64 else 160) + 8

/-- The cost of a GXE step (R154). -/
def Draft.gxeCost (d : Draft) (l : List (Nat × EngRecord)) : Nat :=
  let fl := d.con.hdr.floor
  let gs := (l.filter fun p => d.img p.2.off 1 = 0).map fun p => (d.img (p.2.off + 1) 1, d.gather p.2)
  let far := fun (g : Gather) => g.tableSp = .dram || g.dstSp = .dram
  let one := fun (g : Gather) =>
    let lines := g.count * cdiv g.elem 64
    (if g.tableSp = .sb then lines else 0) + (if far g then shareWaves fl (lines * 64) 12000 else 0)
  let tot := (List.range 16).map fun e => ((gs.filter fun p => p.1 = e).map fun p => one p.2).sum
  tot.foldl max 0 + (if gs.any fun p => far p.2 then 200 + dramLat fl else 0) + 8

/-- The costs of a unit's steps, by STEP_ID (R54); a coppice step costs what R60 says. -/
def Draft.unitCosts (d : Draft) (u : Nat) : List (Nat × Nat) :=
  let fl := d.con.hdr.floor
  let steps := d.con.unitSteps u
  if u < 8 then
    (steps.zip (d.con.coreSteps u).1).map fun p => (p.1.id, coreStepCost d.rd fl (coreOf u) CostSt.start [] (coreShapes Core.idle p.2))
  else
    let lim := if u = 0x11 then [] else d.nmsLimits [] (d.con.recs u)
    (steps.zip (d.con.engSteps u).1).map fun p =>
      (p.1.id, if p.1.kind = 2 then coppiceWaves fl else if u = 0x11 then d.gxeCost p.2 else d.engineCost u lim p.2)
/-- The recomputed cost of every step. -/
def Draft.costs (d : Draft) : List (Nat × Nat) := d.con.hdr.units.flatMap d.unitCosts

/-! ### Edges -/

/-- The step that fills place `f` of ring `i` in the frame's count; releases likewise. -/
def fillerOf (fs : List StepFlow) (i f : Nat) : Option Nat :=
  (fs.find? fun q => q.fills.any fun e => e.1 = i && decide (e.2.1 ≤ f) && decide (f < e.2.1 + e.2.2)).map fun q => q.step.id
/-- The step that releases place `f` of ring `i`. -/
def drainerOf (fs : List StepFlow) (i f : Nat) : Option Nat :=
  (fs.find? fun q => q.releases.any fun e => e.1 = i && decide (e.2.1 ≤ f) && decide (f < e.2.1 + e.2.2)).map fun q => q.step.id

/-- The steps that a WAIT of a core's step names (R55). -/
def Draft.waitsOf (d : Draft) (e : StepEntry) : List Nat :=
  if e.unit < 8 then
    match (d.con.coreSteps e.unit).1.find? fun l => (l.head?).map (fun p => p.1) = some e.streamOffset with
    | some l => l.filterMap fun p => if seqClass p.2 = 0xA then some (fld p.2 81 62) else none
    | none => []
  else []

/-- The edges of a step (R55): the producers of the fills that it consumes, the consumers whose slots it reuses, and the steps
that it waits for; a missing end counts as the step itself. -/
def Draft.edgesInto (d : Draft) (fs : List StepFlow) (e : StepEntry) : List Nat :=
  match fs.find? fun q => q.step.id = e.id with
  | none => d.waitsOf e
  | some q =>
    (q.releases.flatMap fun r => (List.range r.2.2).map fun k => (fillerOf fs r.1 (r.2.1 + k)).getD e.id) ++
    (q.fills.flatMap fun r =>
      let slots := match d.con.rings[r.1]? with | some g => g.slotCount | none => 0
      (List.range r.2.2).filterMap fun k => if r.2.1 + k < slots then none else some ((drainerOf fs r.1 (r.2.1 + k - slots)).getD e.id)) ++
    d.waitsOf e

/-! ### Checks 15, 16 and 17 -/

/-- The latest commit of each step in STEP_ID order (R55): finish times so far, and each unit's. -/
def finishes (waves : Nat → Nat) (edges : StepEntry → List Nat) : List Nat → List (Nat × Nat) → List StepEntry → List Nat
  | acc, _, [] => acc
  | acc, free, e :: r =>
    let t := match free.find? fun p => p.1 = e.unit with | some p => p.2 | none => 0
    let t := (edges e).foldl (fun t k => max t (acc.getD k 0)) t
    let f := t + waves e.id
    finishes waves edges (acc ++ [f]) ((e.unit, f) :: free.filter fun p => p.1 ≠ e.unit) r

/-- Check 15: every edge points to a lower STEP_ID. -/
def Draft.check15 (d : Draft) (fs : List StepFlow) : Option Rej :=
  match d.con.byId.find? fun e => (d.edgesInto fs e).any fun k => decide (e.id ≤ k) with
  | some e => some (rej 0x0C secSteps 0 (d.con.steps.idxOf e))
  | none => none

/-- Check 16: costs within WAVES, finishes within FINISH. -/
def Draft.check16 (d : Draft) (fs : List StepFlow) : Option Rej :=
  let costs := d.costs
  let cost := fun (id : Nat) => match costs.find? fun p => p.1 = id with | some p => p.2 | none => 0
  let bound := fun (id : Nat) => d.con.bounds.getD id (0, 0)
  let fin := finishes (fun id => (bound id).1) (d.edgesInto fs) [] [] d.con.byId
  match d.con.byId.find? fun e => decide ((bound e.id).1 < cost e.id) || decide ((bound e.id).2 < fin.getD e.id 0) with
  | some e => some (rej 0x0D secBounds 0 e.id)
  | none => none

/-- Check 17: the deadlines of R56. -/
def Draft.check17 (d : Draft) : Option Rej :=
  let h := d.con.hdr
  let c := h.cadenceNs
  let waves := fun (ns : Nat) => ns * h.floor / 1000
  let ok := (d.con.steps.all fun e =>
      let f := (d.con.bounds.getD e.id (0, 0)).2
      (e.tileCount = 0 || decide (f ≤ waves (h.emitOffset + e.firstTile * c))) && decide (f ≤ waves h.frameCycle)) &&
    decide ((h.tiles + 3) * c ≤ h.frameCycle * 9995 / 10000) && decide (h.emitOffset + (h.tiles + 3) * c ≤ 2 * h.frameCycle * 9995 / 10000)
  need ok (rej 0x0E 0 0 noEntry)

end Sys2Proof.Machine
end

