-- ==== Sys2Proof/Machine/Contracts.lean ====
section
/-! DEFINITION. LOAD_CONTRACT (R62-R65, R289, R309, R350, R468): resources, the signature, the checker model, and what a passing
image leaves. -/

namespace Sys2Proof.Machine

/-! ### Check 1 -/

/-- Two byte ranges share a byte. -/
def rangesMeet (a b : Nat × Nat) : Bool := decide (a.1 < b.1 + b.2) && decide (b.1 < a.1 + a.2)

/-- The SAFE-region ranges that are occupied (R468); the staged contract counts as free. -/
def State.occupied (s : State) : List (Nat × Nat) :=
  ((s.ctr.armed.toList ++ s.ctr.old.toList).flatMap fun c => c.imageRange :: c.dramRanges) ++
  s.sen.deviceRings.map DevRing.range

/-- Parts of a range that no occupied range uses. -/
def freeParts (occ : List (Nat × Nat)) (lo hi : Nat) : List (Nat × Nat) :=
  let cuts := occ.filter fun o => rangesMeet o (lo, hi - lo)
  let starts := lo :: cuts.map fun o => o.1 + o.2
  (starts.filter fun a => decide (lo ≤ a ∧ a < hi) && !(cuts.any fun o => decide (o.1 ≤ a) && decide (a < o.1 + o.2))).map fun a =>
    (a, (cuts.filter fun o => decide (a < o.1)).foldl (fun e o => min e o.1) hi)

/-- The 64-byte aligned places of `n` bytes in a free part: the first, and how many. -/
def placesIn (n : Nat) (p : Nat × Nat) : Nat × Nat :=
  let a := up64 p.1
  (a, if a + n ≤ p.2 then (p.2 - n - a) / 64 + 1 else 0)

/-- A range (first, end) joins those that it touches. -/
def joinRange (acc : List (Nat × Nat)) (r : Nat × Nat) : List (Nat × Nat) :=
  let near := acc.filter fun q => decide (r.1 ≤ q.2) && decide (q.1 ≤ r.2)
  near.foldl (fun t q => (min t.1 q.1, max t.2 q.2)) r :: acc.filter fun q => !(decide (r.1 ≤ q.2) && decide (q.1 ≤ r.2))

/-- SAFE-region space: its regions, those that touch as one (R468 asks for space, not for a region). -/
def Mss.safeSpace (m : Mss) : List (Nat × Nat) :=
  ((m.regions.filter fun r => r.tag = tagSafe).map fun r => (r.base, r.base + r.size)).foldl joinRange []

/-- Every place that an image copy may take (R468). -/
def State.imagePlaces (s : State) (occ : List (Nat × Nat)) (n : Nat) : List (Nat × Nat) :=
  (s.mss.safeSpace.flatMap fun r => (freeParts occ r.1 r.2).map (placesIn n)).filter fun p => decide (p.2 ≠ 0)

/-- Place number `k`. -/
def placeAt : Nat → List (Nat × Nat) → Option Nat
  | _, [] => none
  | k, p :: r => if k < p.2 then some (p.1 + 64 * k) else placeAt (k - p.2) r

/-- The lowest range of `n` free ring numbers at or above 0x1000, the staged contract's counted as free (R65, R468). -/
def State.ringRange (s : State) (n : Nat) : Option Nat :=
  let used := (s.cpx.rings.map fun r => (r.id, 1)) ++ (s.ctr.armed.toList ++ s.ctr.old.toList).map fun k => (k.ringBase, k.hdr.ringCount)
  let cands := 0x1000 :: used.map fun u => u.1 + u.2
  let ok := cands.filter fun a => decide (0x1000 ≤ a) && decide (a + n ≤ 0x100000) && !used.any fun u => rangesMeet u (a, n)
  match ok with | [] => none | a :: r => some (r.foldl min a)

/-- The DRAM buffers that check 1 sees (R468): none where the BUFFERS entry of the directory runs out of the image or its SIZE is
no whole number of its ENTRIES. -/
def Draft.seenRanges (d : Draft) (size : Nat) : List (Nat × Nat) :=
  match findSec d.secs secBuffers with
  | some e => if decide (e.off + e.size ≤ size) && e.size = 32 * e.entries then d.con.dramRanges else []
  | none => []

/-- Check 1 passes with an image address and a ring base (R468). An image that cannot be read passes while staging is free.
The place of the copy is the KM880's to choose: a free value chooses it. -/
def State.check1 (d : Draft) (size : Nat) (s : State) : Option (Nat × Nat) :=
  if s.ctr.armPending.isSome then none
  else if !imgReadable d.img size then some (0, 0x1000)
  else
    let bufs := d.seenRanges size
    let occ := s.occupied
    let places := s.imagePlaces (occ ++ bufs) d.con.hdr.imageSize
    let total := (places.map fun p => p.2).sum
    if bufs.any fun b => occ.any fun o => rangesMeet b o then none
    else match placeAt (s.freeWord.toNat % max 1 total) places, s.ringRange d.con.hdr.ringCount with
      | some a, some b => some (a, b)
      | _, _ => none

/-! ### Check 4 -/

/-- `n` bytes of an image. -/
def imgBytes (i : Img) (a n : Nat) : List Byte := (List.range n).map fun k => BitVec.ofNat 8 (i (a + k) 1)

/-- Check 4 (R39, R405): the key slot, the public key and the signature. -/
def State.check4 (d : Draft) (sigOk : Bool) (s : State) : Option Rej :=
  let a := d.con.sigOff
  need (s.sec.slotOk (d.img a 1) (imgBytes d.img (a + 64) 64) && sigOk) { status := stAuth, detail := 0, result := 0 }

/-! ### Check 18 -/

/-- Bytes of a model slot (R306, R307). -/
abbrev slotBytes : Nat := 3670016

/-- A part of the model with its offset, and whether it is as it should be. -/
abbrev ModelTest := Nat × Bool

/-- The lidar parse blocks (R308): each block's offset, size and descriptor. -/
def modelBlocks (b : List Byte) : Nat → Nat → List (Nat × Nat × PointDesc)
  | 0, _ => []
  | n + 1, a => (a, blk b a 4, PointDesc.parse b (a + 16)) :: modelBlocks b n (a + blk b a 4)

/-- The network's layers (Table 12.14): each entry's offset with the channels that it must read. -/
def layerTests (b : List Byte) (m : CkcModel) : Nat → Nat → Nat → List ModelTest
  | 0, _, _ => []
  | n + 1, a, ch =>
    let u := fun (o k : Nat) => blk b (a + o) k
    let inCh := u 0 2
    let outCh := u 2 2
    [(a, inCh = ch && decide (1 ≤ inCh ∧ inCh ≤ 256)), (a + 2, decide (1 ≤ outCh ∧ outCh ≤ 256)), (a + 4, [1, 3, 5].contains (u 4 1)),
     (a + 5, [1, 2].contains (u 5 1)), (a + 6, [3, 4, 9, 10].contains (u 6 1)), (a + 7, decide (u 7 1 ≤ 1)),
     (a + 8, decide (u 8 4 + outCh * u 4 1 * u 4 1 * inCh ≤ m.resident)), (a + 0xD, blkZero b (a + 0xD) 3),
     (a + 0x14, u 0x14 4 = 0xFFFFFFFF || decide (u 0x14 4 + 4 * outCh ≤ m.resident)), (a + 0x18, blkZero b (a + 0x18) 8)] ++
    layerTests b m n (a + 32) outCh

/-- The tables of a model with their sizes (R306). -/
def modelTables (b : List Byte) (m : CkcModel) (tiles : Nat) (blocks : List (Nat × Nat × PointDesc)) : List (Nat × Nat) :=
  let u := fun (o k : Nat) => blk b o k
  let layers := (List.range m.netLayers).flatMap fun k =>
    let a := m.netOff + 32 * k
    (u (a + 8) 4, u (a + 2) 2 * u (a + 4) 1 * u (a + 4) 1 * u a 2) :: (if u (a + 0x14) 4 = 0xFFFFFFFF then [] else [(u (a + 0x14) 4, 4 * u (a + 2) 2)])
  [(0, 128), (m.inputOff, 16 * m.inputs), (m.netOff, 32 * m.netLayers), (m.projOff, 4 * tiles), (m.coverOff, 4 * tiles)] ++
    (blocks.map fun p => (p.1, p.2.1)) ++ layers

/-- The INPUT entries of a model: offset, sensor, kind, buffer and size. -/
def modelInputs (b : List Byte) (m : CkcModel) : List (Nat × Nat × Nat × Nat × Nat) :=
  (List.range m.inputs).map fun k =>
    let a := m.inputOff + 16 * k
    (a, blk b a 1, blk b (a + 1) 1, blk b (a + 4) 4, blk b (a + 8) 4)

/-- Every part of the model with its test (R307, R308). -/
def modelTests (b : List Byte) (m : CkcModel) (h : CtrHeader) : List ModelTest :=
  let u := fun (o k : Nat) => blk b o k
  let ins := modelInputs b m
  let blocks := modelBlocks b (ins.filter fun e => e.2.2.1 = 1).length m.lidarOff
  let tables := modelTables b m h.tiles blocks
  ([(0, decide (u 0 4 = 0x4C444D43)), (4, decide (u 4 2 = 1)), (6, decide (m.inputs ≤ 32)), (8, decide (m.resident ≤ slotBytes) && decide (m.resident ≤ b.length)),
   (0x20, decide (5 * u 0x20 4 ≤ h.cadenceNs)), (0x24, decide (5 * u 0x24 4 ≤ 2 * h.cadenceNs)),
   (0x28, decide (5 * u 0x28 4 + 10000 ≤ h.emitOffset)), (0x2C, decide (m.lateLimit ≤ 1024)), (0x2E, decide (1 ≤ m.bandLimit ∧ m.bandLimit ≤ 64)),
   (0x2F, decide (1 ≤ m.netLayers ∧ m.netLayers ≤ 8)), (0x30, decide (1 ≤ m.frameBandLimit ∧ m.frameBandLimit ≤ 780)),
   (0x38, decide (1 ≤ m.ghostCells ∧ m.ghostCells ≤ 16)), (0x3B, blkZero b 0x3B 1), (0x48, decide (10000 ≤ m.lidarSpan ∧ m.lidarSpan ≤ 200000)),
   (0x58, blkZero b 0x58 40)] : List ModelTest) ++
  (tables.map fun t => (t.1, decide (t.1 + t.2 ≤ m.resident))) ++
  layerTests b m m.netLayers m.netOff 1 ++
  (blocks.map fun p => (p.1, p.2.2.ok && decide (p.2.1 % 16 = 0) && blkZero b (p.1 + 4) 12 &&
    decide (p.2.1 = 16 + (32 + 16 * p.2.2.fields.length + 8 * p.2.2.channels.length + 15) / 16 * 16 + 48))) ++
  ((List.range h.tiles).map fun t => (m.projOff + 4 * t, u (m.projOff + 4 * t) 2 = 0xFFFF || decide (u (m.projOff + 4 * t + 2) 1 ≤ 23))) ++
  ((ins.zipIdx).flatMap fun (e, i) =>
    let (a, sensor, kind, buf, size) := e
    [(a, (if kind = 0 then decide (sensor ≤ 23) else kind = 1 && decide (0x80 ≤ sensor ∧ sensor ≤ 0x87)) &&
        !((ins.take i).any fun q => q.2.1 = sensor && q.2.2.1 = kind) && blkZero b (a + 2) 2 && blkZero b (a + 12) 4),
     (a + 4, decide (buf % 64 = 0) && decide (buf + size ≤ slotBytes) && !((ins.take i).any fun q => rangesMeet (q.2.2.2.1, q.2.2.2.2) (buf, size)) &&
        !tables.any fun t => rangesMeet t (buf, size))])

/-- Check 18: the lowest offset at fault (R469). -/
def Draft.check18 (d : Draft) : Option Rej :=
  if 0x400000 < d.con.modelSize ∨ d.con.modelSize < 128 then some (rej 0x0F secModel 0 noEntry)
  else
    let b := imgBytes d.img d.con.model.off d.con.modelSize
    match (modelTests b d.con.model d.con.hdr).filter fun t => !t.2 with
    | [] => none
    | t :: r => some (rej 0x0F secModel 0 (r.foldl (fun m q => min m q.1) t.1))

/-! ### LOAD_CONTRACT -/

/-- Banks that QM jobs hold, and those in cache mode (R132, R285). -/
def State.qmBanks (s : State) : List Nat :=
  (s.cpx.jobs.flatMap fun j => j.banks) ++ (List.finRange 8).flatMap fun c => if (s.fab.caches.get c).isSome then [8 * c.val + 6, 8 * c.val + 7] else []
/-- Segments that QM jobs hold. -/
def State.qmSegs (s : State) : List Nat := s.cpx.jobs.flatMap fun j => j.segs

/-- Checks 2 to 18 in their order (R62, Table 3.7). -/
def State.loadChecks (d : Draft) (size negotiated : Nat) (sigOk : Bool) (s : State) : Option Rej :=
  let h := d.con.hdr
  (check2 d.img size).orElse fun _ => (check3 h negotiated).orElse fun _ => (s.check4 d sigOk).orElse fun _ =>
  (check5 d.img).orElse fun _ => (check6 h s.sec.floor).orElse fun _ => (check7 d.img h).orElse fun _ => d.check8.orElse fun _ =>
    let fs := d.flows
    (d.check9 s.sen.ringUnits fs).orElse fun _ => (d.check10 fs).orElse fun _ => (d.check11 fs).orElse fun _ =>
    (d.check12 s.mss s.qmBanks s.qmSegs).orElse fun _ => (d.check14 fs).orElse fun _ => (d.check15 fs).orElse fun _ =>
    (d.check16 fs).orElse fun _ => d.check17.orElse fun _ => d.check18

/-- The domains that a contract needs (R289, R370). -/
def Contract.domains (c : Contract) : BitVec 64 :=
  let ds := (c.hdr.cores.flatMap fun k => [4 * k, 4 * k + 1, 4 * k + 2, 4 * k + 3]) ++ (c.hdr.engines.map fun u => 41 + (u - 0x10)) ++
    (c.banks.map fun b => bankDomain (b / 8) (b % 8)) ++ c.segs.map segDomain
  ds.foldl (fun m d => m ||| (1#64 <<< d)) 0

/-- The contract that a passing image becomes (R65). -/
def Draft.finish (d : Draft) (addr base : Nat) : Contract :=
  { d.con with
    imageAddr := addr, ringBase := base, edges := d.stepEdges d.flows,
    digest := digest256 (imgBytes d.img 0 d.con.sigOff), modelDigest := digest256 (imgBytes d.img d.con.model.off d.con.modelSize) }

/-- Each buffer's INIT contents, copied in the section's order (R63). -/
def State.copyInit (d : Draft) (s : State) : State :=
  d.con.buffers.foldl (fun s b =>
    if b.init = 0xFFFFFFFF then s
    else s.onFab fun f => f.pokes (b.place 0).1 (b.place 0).2 (imgBytes d.img (secOff d.secs secConstants + b.init) b.size)) s

/-- The resident part of the model goes into the model slot that the armed contract does not use (R309). -/
def State.copyModel (d : Draft) (s : State) : State :=
  let slot := 1 - s.ckc.slotArmed
  let b := imgBytes d.img d.con.model.off d.con.model.resident
  (s.onFab fun f => { f with ckcRam := memPut f.ckcRam (modelBase slot) b }).onCkc fun k =>
    { k with copies := k.copies.filter (fun x => x.slot ≠ slot), thumbs := k.thumbs.filter fun x => x.slot ≠ slot }

/-- An image that passes becomes the staged contract (R63-R65, R289, R309): its domains are on, its copy, its INIT contents and
its model are in place, and the earlier staged contract is gone. -/
def State.stageContract (pk : Packet) (d : Draft) (addr base : Nat) (s : State) : State :=
  let c := d.finish addr base
  let s := (s.powerOn c.domains).putDram addr (imgBytes d.img 0 d.con.hdr.imageSize)
  let s := (s.copyInit d).copyModel d
  (s.onCtr fun x => { x with staged := some c }).done pk base

/-- LOAD_CONTRACT (R62). `sigOk` says whether the SLH-DSA signature verifies; `injFail` is the test record of R350 whose verdict
differed, if any. The command waits while an old contract's last trailer is due: the model slot that it fills is not free before
(R309; DEDUCED, log 175). -/
def doLoadContract (ring : Nat) (sigOk : Bool) (injFail : Option Nat) (s : State) : State :=
  if s.ctr.old.isSome then s else
  s.runPacket ring 0x20 fun pk s =>
    if !(s.pwr.state = .ready || s.pwr.state = .running) || s.sec.unlocked then s.notReady pk
    else
      let addr := pk.u 0x10 8
      let size := pk.u 0x18 4
      if !s.mss.inOne tagShared addr size then s.bad pk 0x10
      else
        let d := parseImage fun a n => s.dramLe (addr + a) n
        match s.check1 d size with
        | none => s.noRes pk 0
        | some (at_, base) =>
          let s := s.bumpFree
          let negotiated := match s.cpx.client? pk.client with | some c => (match c.versions with | some v => v.contract | none => 0) | none => 0
          match s.loadChecks d size negotiated sigOk with
          | some r => s.reply pk r.status r.detail r.result
          | none =>
            match injFail with
            | some k => (s.note 0x1007 sevError 0x20 k 0 0).reply pk stRejected 0x0F (secModel + 2 ^ 32 * noEntry)
            | none => s.stageContract pk d at_ base
/-- LOAD_CONTRACT (R62). -/
def execLoadContract (ring : Nat) (sigOk : Bool) (injFail : Option Nat) (s : State) : Out := .next (doLoadContract ring sigOk injFail s)

end Sys2Proof.Machine
end

