-- ==== Sys2Proof/Machine/Dispatch.lean ====
section
/-! DEFINITION. One arm per command: its meaning on everything but the queue. -/

namespace Sys2Proof.Machine

/-- The effect of one command. -/
def exec (i : Instr) (s : State) : Host.Outcome State Fault Refusal :=
  match i with
  | .doorbell page offset width value => Sys2Proof.Machine.execDoorbell page offset width value s
  | .packetFetch ring pkt => Sys2Proof.Machine.execPacketFetch ring pkt s
  | .readError e => Sys2Proof.Machine.execReadError e s
  | .hello ring => Sys2Proof.Machine.execHello ring s
  | .queryCaps ring => Sys2Proof.Machine.execQueryCaps ring s
  | .openClient ring => Sys2Proof.Machine.execOpenClient ring s
  | .closeClient ring => Sys2Proof.Machine.execCloseClient ring s
  | .createRing ring => Sys2Proof.Machine.execCreateRing ring s
  | .destroyRing ring => Sys2Proof.Machine.execDestroyRing ring s
  | .loadContract ring sigOk injFail => Sys2Proof.Machine.execLoadContract ring sigOk injFail s
  | .armContract ring => Sys2Proof.Machine.execArmContract ring s
  | .launchAt ring => Sys2Proof.Machine.execLaunchAt ring s
  | .stopFrames ring => Sys2Proof.Machine.execStopFrames ring s
  | .programAborted => Sys2Proof.Machine.execProgramAborted s
  | .submitJob ring => Sys2Proof.Machine.execSubmitJob ring s
  | .jobDispatch => Sys2Proof.Machine.execJobDispatch s
  | .runOp ring streams banks segs => Sys2Proof.Machine.execRunOp ring streams banks segs s
  | .endJob ring => Sys2Proof.Machine.execEndJob ring s
  | .kill ring late => Sys2Proof.Machine.execKill ring late s
  | .setCapacity ring => Sys2Proof.Machine.execSetCapacity ring s
  | .seqJoin ring => Sys2Proof.Machine.execSeqJoin ring s
  | .seqLeave ring => Sys2Proof.Machine.execSeqLeave ring s
  | .mapBuffer ring => Sys2Proof.Machine.execMapBuffer ring s
  | .unmapBuffer ring => Sys2Proof.Machine.execUnmapBuffer ring s
  | .camera ring => Sys2Proof.Machine.execCamera ring s
  | .camParams ring => Sys2Proof.Machine.execCamParams ring s
  | .lidar ring => Sys2Proof.Machine.execLidar ring s
  | .motion ring => Sys2Proof.Machine.execMotion ring s
  | .cci ring => Sys2Proof.Machine.execCci ring s
  | .disable ring => Sys2Proof.Machine.execDisable ring s
  | .fsyncSchedule ring => Sys2Proof.Machine.execFsyncSchedule ring s
  | .timeConfig ring => Sys2Proof.Machine.execTimeConfig ring s
  | .timeAcceptStep ring => Sys2Proof.Machine.execTimeAcceptStep ring s
  | .logRead ring => Sys2Proof.Machine.execLogRead ring s
  | .logClear ring auth sigOk => Sys2Proof.Machine.execLogClear ring auth sigOk s
  | .statsRead ring => Sys2Proof.Machine.execStatsRead ring s
  | .updateBegin ring => Sys2Proof.Machine.execUpdateBegin ring s
  | .updateData ring src => Sys2Proof.Machine.execUpdateData ring src s
  | .updateCommit ring sigOk => Sys2Proof.Machine.execUpdateCommit ring sigOk s
  | .imageAreaWrite mismatches => Sys2Proof.Machine.execImageAreaWrite mismatches s
  | .recoverySelfReset => Sys2Proof.Machine.execRecoverySelfReset s
  | .attest ring => Sys2Proof.Machine.execAttest ring s
  | .authChallenge ring => Sys2Proof.Machine.execAuthChallenge ring s
  | .challengeExpiry purpose => Sys2Proof.Machine.execChallengeExpiry purpose s
  | .prepareOff ring => Sys2Proof.Machine.execPrepareOff ring s
  | .offReady repairs unrepaired => Sys2Proof.Machine.execOffReady repairs unrepaired s
  | .diagRun ring auth sigOk => Sys2Proof.Machine.execDiagRun ring auth sigOk s
  | .flagClear ring auth sigOk => Sys2Proof.Machine.execFlagClear ring auth sigOk s
  | .checkerSplit ring => Sys2Proof.Machine.execCheckerSplit ring s
  | .checkerJoin ring => Sys2Proof.Machine.execCheckerJoin ring s
  | .discover ring => Sys2Proof.Machine.execDiscover ring s
  | .halt core w => Sys2Proof.Machine.execHalt core w s
  | .loadw core w => Sys2Proof.Machine.execLoadw core w s
  | .mma core w => Sys2Proof.Machine.execMma core w s
  | .conv core w => Sys2Proof.Machine.execConv core w s
  | .drain core w => Sys2Proof.Machine.execDrain core w s
  | .vop core w => Sys2Proof.Machine.execVop core w s
  | .scalar core w => Sys2Proof.Machine.execScalar core w s
  | .segEnd core => Sys2Proof.Machine.execSegEnd core s
  | .fcvtBf16S core rd rs => Sys2Proof.Machine.execFcvtBf16S core rd rs s
  | .fcvtSBf16 core rd rs => Sys2Proof.Machine.execFcvtSBf16 core rd rs s
  | .fcvtE4m3S core rd rs => Sys2Proof.Machine.execFcvtE4m3S core rd rs s
  | .fcvtSE4m3 core rd rs => Sys2Proof.Machine.execFcvtSE4m3 core rd rs s
  | .dmaIn core w => Sys2Proof.Machine.execDmaIn core w s
  | .dmaOut core w => Sys2Proof.Machine.execDmaOut core w s
  | .gather core w => Sys2Proof.Machine.execGather core w s
  | .gatherDescriptor => Sys2Proof.Machine.execGatherDescriptor s
  | .wait core w => Sys2Proof.Machine.execWait core w s
  | .waitSatisfied core => Sys2Proof.Machine.execWaitSatisfied core s
  | .post core w => Sys2Proof.Machine.execPost core w s
  | .golden core w => Sys2Proof.Machine.execGolden core w s
  | .coppice core w digestOk signature restoreFail => Sys2Proof.Machine.execCoppice core w digestOk signature restoreFail s
  | .commit u waves frameWaves => Sys2Proof.Machine.execCommit u waves frameWaves s
  | .replay u report => Sys2Proof.Machine.execReplay u report s
  | .drainComplete => Sys2Proof.Machine.execDrainComplete s
  | .conv2d u rec => Sys2Proof.Machine.execConv2d u rec s
  | .dwconv2d u rec => Sys2Proof.Machine.execDwconv2d u rec s
  | .pool u rec => Sys2Proof.Machine.execPool u rec s
  | .pad u rec => Sys2Proof.Machine.execPad u rec s
  | .matmul u rec => Sys2Proof.Machine.execMatmul u rec s
  | .eltwise u rec => Sys2Proof.Machine.execEltwise u rec s
  | .activation u rec => Sys2Proof.Machine.execActivation u rec s
  | .layerNorm u rec => Sys2Proof.Machine.execLayerNorm u rec s
  | .softmax u rec => Sys2Proof.Machine.execSoftmax u rec s
  | .layoutConvert u rec => Sys2Proof.Machine.execLayoutConvert u rec s
  | .attention u rec => Sys2Proof.Machine.execAttention u rec s
  | .ssmScan u rec => Sys2Proof.Machine.execSsmScan u rec s
  | .embedGather u rec => Sys2Proof.Machine.execEmbedGather u rec s
  | .resize u rec => Sys2Proof.Machine.execResize u rec s
  | .gridSample u rec => Sys2Proof.Machine.execGridSample u rec s
  | .undistort u rec => Sys2Proof.Machine.execUndistort u rec s
  | .bevProject u rec => Sys2Proof.Machine.execBevProject u rec s
  | .boxDecode u rec => Sys2Proof.Machine.execBoxDecode u rec s
  | .topk u rec => Sys2Proof.Machine.execTopk u rec s
  | .nms u rec => Sys2Proof.Machine.execNms u rec s
  | .quantise u rec => Sys2Proof.Machine.execQuantise u rec s
  | .dequantise u rec => Sys2Proof.Machine.execDequantise u rec s
  | .amax u rec => Sys2Proof.Machine.execAmax u rec s
  | .loss u rec => Sys2Proof.Machine.execLoss u rec s
  | .ssmScanBwd u rec => Sys2Proof.Machine.execSsmScanBwd u rec s
  | .gradNorm u rec => Sys2Proof.Machine.execGradNorm u rec s
  | .optAdamw u rec => Sys2Proof.Machine.execOptAdamw u rec s
  | .optSgd u rec => Sys2Proof.Machine.execOptSgd u rec s
  | .launch => Sys2Proof.Machine.execLaunch s
  | .preemptionKillToken => Sys2Proof.Machine.execPreemptionKillToken s
  | .slotOpen => Sys2Proof.Machine.execSlotOpen s
  | .recordDelivery st => Sys2Proof.Machine.execRecordDelivery st s
  | .verdictDeadline => Sys2Proof.Machine.execVerdictDeadline s
  | .frameTrailer => Sys2Proof.Machine.execFrameTrailer s
  | .tileRecordCheck arrived => Sys2Proof.Machine.execTileRecordCheck arrived s
  | .bandVerdict => Sys2Proof.Machine.execBandVerdict s
  | .frameVerdict => Sys2Proof.Machine.execFrameVerdict s
  | .voterTransaction lane kind addr data t eccFail => Sys2Proof.Machine.execVoterTransaction lane kind addr data t eccFail s
  | .oddLaneTimeout lane => Sys2Proof.Machine.execOddLaneTimeout lane s
  | .resyncCopyComplete => Sys2Proof.Machine.execResyncCopyComplete s
  | .bandBoundary => Sys2Proof.Machine.execBandBoundary s
  | .laneSelftest pass => Sys2Proof.Machine.execLaneSelftest pass s
  | .ckcAlive => Sys2Proof.Machine.execCkcAlive s
  | .nop clocks frame => Sys2Proof.Machine.execNop clocks frame s
  | .release clocks frame => Sys2Proof.Machine.execRelease clocks frame s
  | .forceSafe clocks frame => Sys2Proof.Machine.execForceSafe clocks frame s
  | .spiRequestDiscarded clocks frame => Sys2Proof.Machine.execSpiRequestDiscarded clocks frame s
  | .frameStart port vc t => Sys2Proof.Machine.execFrameStart port vc t s
  | .longPacket port vc dataType ecc crcOk payload => Sys2Proof.Machine.execLongPacket port vc dataType ecc crcOk payload s
  | .frameEnd port vc t => Sys2Proof.Machine.execFrameEnd port vc t s
  | .testFrameComplete cam ecc measured => Sys2Proof.Machine.execTestFrameComplete cam ecc measured s
  | .lidarDatagram port frame t => Sys2Proof.Machine.execLidarDatagram port frame t s
  | .lidarWindowCommit lid ecc => Sys2Proof.Machine.execLidarWindowCommit lid ecc s
  | .i2cClockStretchTimeout ctl done reads => Sys2Proof.Machine.execI2cClockStretchTimeout ctl done reads s
  | .sync sourceNs freq t => Sys2Proof.Machine.execSync sourceNs freq t s
  | .announce master => Sys2Proof.Machine.execAnnounce master s
  | .pdelayReq t => Sys2Proof.Machine.execPdelayReq t s
  | .pdelayReqInitiate => Sys2Proof.Machine.execPdelayReqInitiate s
  | .pdelayResp delayNs ratioPpb t => Sys2Proof.Machine.execPdelayResp delayNs ratioPpb t s
  | .holdoverTimeout => Sys2Proof.Machine.execHoldoverTimeout s
  | .holdover => Sys2Proof.Machine.execHoldover s
  | .ppsIn freq t => Sys2Proof.Machine.execPpsIn freq t s
  | .ppsOutPlacement => Sys2Proof.Machine.execPpsOutPlacement s
  | .ppsOut => Sys2Proof.Machine.execPpsOut s
  | .fsyncPlacement out => Sys2Proof.Machine.execFsyncPlacement out s
  | .fsyncEdge out => Sys2Proof.Machine.execFsyncEdge out s
  | .domainOff domain => Sys2Proof.Machine.execDomainOff domain s
  | .domainOn domain => Sys2Proof.Machine.execDomainOn domain s
  | .rateTarget rate => Sys2Proof.Machine.execRateTarget rate s
  | .park => Sys2Proof.Machine.execPark s
  | .powerGateOpen domain => Sys2Proof.Machine.execPowerGateOpen domain s
  | .domainSwitchComplete domain => Sys2Proof.Machine.execDomainSwitchComplete domain s
  | .rateMonitorWindow rates => Sys2Proof.Machine.execRateMonitorWindow rates s
  | .sentinelFlag u raised => Sys2Proof.Machine.execSentinelFlag u raised s
  | .emtMarginExpiry => Sys2Proof.Machine.execEmtMarginExpiry s
  | .belowFloor u => Sys2Proof.Machine.execBelowFloor u s
  | .supplyLoopEvaluation readMv alert => Sys2Proof.Machine.execSupplyLoopEvaluation readMv alert s
  | .avsbusTimeout => Sys2Proof.Machine.execAvsbusTimeout s
  | .monitorSample tj supply => Sys2Proof.Machine.execMonitorSample tj supply s
  | .thermalCapStep => Sys2Proof.Machine.execThermalCapStep s
  | .thermalTrip => Sys2Proof.Machine.execThermalTrip s
  | .mr4Read hottest channel hot => Sys2Proof.Machine.execMr4Read hottest channel hot s
  | .patrolScrub addr found => Sys2Proof.Machine.execPatrolScrub addr found s
  | .eccWriteBack u => Sys2Proof.Machine.execEccWriteBack u s
  | .coppiceSlice digestOk signature restoreFail => Sys2Proof.Machine.execCoppiceSlice digestOk signature restoreFail s
  | .rstNAssert => Sys2Proof.Machine.execRstNAssert s
  | .rstNRelease bootMode imageSigOk => Sys2Proof.Machine.execRstNRelease bootMode imageSigOk s
  | .perstNAssert => Sys2Proof.Machine.execPerstNAssert s
  | .perstNRelease => Sys2Proof.Machine.execPerstNRelease s
  | .functionLevelReset => Sys2Proof.Machine.execFunctionLevelReset s
  | .pwrfailNAssert step => Sys2Proof.Machine.execPwrfailNAssert step s
  | .ownerProvision digest => Sys2Proof.Machine.execOwnerProvision digest s
  | .dbgChallenge => Sys2Proof.Machine.execDbgChallenge s
  | .dbgResponse auth sigOk => Sys2Proof.Machine.execDbgResponse auth sigOk s
  | .bar4Access offset write size => Sys2Proof.Machine.execBar4Access offset write size s
  | .hifEventWrite v => Sys2Proof.Machine.execHifEventWrite v s
  | .hifEventMaskWrite v => Sys2Proof.Machine.execHifEventMaskWrite v s
  | .hifBar4WindowWrite v => Sys2Proof.Machine.execHifBar4WindowWrite v s
  | .adminEnable v => Sys2Proof.Machine.execAdminEnable v s
  | .adminDisable v => Sys2Proof.Machine.execAdminDisable v s
  | .take => Sys2Proof.Machine.execTake s
  | .apply => Sys2Proof.Machine.execApply s
  | .regionApplyComplete => Sys2Proof.Machine.execRegionApplyComplete s
  | .mssSafeReserveWrite v => Sys2Proof.Machine.execMssSafeReserveWrite v s
  | .mssThermalCfgWrite v => Sys2Proof.Machine.execMssThermalCfgWrite v s
  | .mssEventRateWrite idx v => Sys2Proof.Machine.execMssEventRateWrite idx v s
  | .hifDoorbellErrorsRead => Sys2Proof.Machine.execHifDoorbellErrorsRead s
  | .emtHostDropsRead => Sys2Proof.Machine.execEmtHostDropsRead s
  | .ckcCopyDropsRead => Sys2Proof.Machine.execCkcCopyDropsRead s
  | .dbgStatusRead => Sys2Proof.Machine.execDbgStatusRead s
  | .pwrReqStatusRead => Sys2Proof.Machine.execPwrReqStatusRead s
  | .registerWrite offset width value => Sys2Proof.Machine.execRegisterWrite offset width value s
  | .eventFlashWrite => Sys2Proof.Machine.execEventFlashWrite s
  | .sectorErase => Sys2Proof.Machine.execSectorErase s
  | .opMark => Sys2Proof.Machine.execOpMark s
  | .periodicSnapshot => Sys2Proof.Machine.execPeriodicSnapshot s
  | .histogramTick => Sys2Proof.Machine.execHistogramTick s
  | .tokenRefill code => Sys2Proof.Machine.execTokenRefill code s
  | .endOfStart dense trainedRate retrained repairs fail => Sys2Proof.Machine.execEndOfStart dense trainedRate retrained repairs fail s
  | .discoverComplete obs => Sys2Proof.Machine.execDiscoverComplete obs s
  | .diagRunComplete failing repairs => Sys2Proof.Machine.execDiagRunComplete failing repairs s
  | .cciOperationComplete ctl done reads => Sys2Proof.Machine.execCciOperationComplete ctl done reads s
  | .lidarWindowOpen lid => Sys2Proof.Machine.execLidarWindowOpen lid s
  | .flagRecordWritten => Sys2Proof.Machine.execFlagRecordWritten s
  | .snapshotWriteComplete => Sys2Proof.Machine.execSnapshotWriteComplete s
  | .pcieLinkDown => Sys2Proof.Machine.execPcieLinkDown s
  | .pcieLinkUp speed width => Sys2Proof.Machine.execPcieLinkUp speed width s
  | .sensorLinkDown p => Sys2Proof.Machine.execSensorLinkDown p s
  | .sensorLinkUp p => Sys2Proof.Machine.execSensorLinkUp p s

end Sys2Proof.Machine
end

