-- ==== Sys2Proof/Machine/Idle.lean ====
section
/-! DEFINITION. What the block does on an empty queue (R351). -/

namespace Sys2Proof.Machine

/-- The free-running clock: one nanosecond passes while RST_N is released; in reset nothing moves. -/
def idle (s : State) : State :=
  if s.pins.rstN then (s.onTim fun m => { m with count := m.count + 1 }).settlePulses else s

end Sys2Proof.Machine
end

