-- ==== Sys2Proof/Safety.lean ====
section
/-! DEFINITION. What the claims about the whole machine are stated in: memories in canonical form, the SAFE_N pin and the
latch (R322), fuses that are never unset (R405), and the bound of the event queue (R418). -/

namespace Sys2Proof.Machine

/-- Every memory of the fabric is in canonical form. -/
structure Fab.Canonical (f : Fab) : Prop where
  dram : Memory.wf f.dram = true
  sb   : Memory.wf f.sb = true
  ckc  : Memory.wf f.ckcRam = true
  spad : ∀ c : Fin 8, Memory.wf (f.spad.get c) = true

/-- The byte areas of the flash are in canonical form. -/
structure Flash.Canonical (f : Flash) : Prop where
  image   : Memory.wf (f.image.getD []) = true
  cert    : Memory.wf (f.cert.getD []) = true
  pattern : Memory.wf f.pattern = true

/-- Every byte memory of the part is in canonical form. -/
structure State.Canonical (s : State) : Prop where
  fab   : s.fab.Canonical
  flash : s.flash.Canonical

/-- SAFE_N is low exactly while the safe state is latched (R322). -/
def State.SafePin (s : State) : Prop := s.pins.safeN = !s.saf.latched

/-- No fuse of `x` is unset in `y` (R405): a fused digest and a fused revocation bit stay, the rollback counter does not
fall, and the ordering code is what it was. -/
def Sec.FusesStay (x y : Sec) : Prop :=
  (∀ i, (x.slot i).digest ≠ 0 → (y.slot i).digest = (x.slot i).digest) ∧
  (∀ i, (x.slot i).revoked = true → (y.slot i).revoked = true) ∧
  x.rollback ≤ y.rollback ∧ y.orderQ10 = x.orderQ10

/-- At most 1,024 event records wait for the flash (R418). -/
def State.QueueBounded (s : State) : Prop := s.evr.queue.length ≤ 1024

/-! ### Starting a packet -/

/-- The next packet of `ring` is `pk`: it has opcode `op`, a completion entry is free for its reply, no firmware command is
before it, and none of the refusals that every packet meets applies (R263-R267, R269, R270). -/
structure State.Starts (s : State) (ring op : Nat) (pk : Packet) : Prop where
  on    : s.pins.rstN = true
  front : s.cpx.front ring = some pk
  code  : pk.opcode = op
  room  : s.cpx.cplRoom ring = true
  free  : (opFirmware op && s.mssBusy) = false
  gate  : s.gate pk = none

/-- The packet with the count at which its command began. -/
def State.begun (s : State) (pk : Packet) : Packet := { pk with started := some s.now }

/-- Like `Starts`, but one of the common refusals applies. -/
structure State.Refuses (s : State) (ring op : Nat) (pk : Packet) (st dt : Nat) : Prop where
  on    : s.pins.rstN = true
  front : s.cpx.front ring = some pk
  code  : pk.opcode = op
  room  : s.cpx.cplRoom ring = true
  gate  : s.gate pk = some (st, dt)

/-- No UNMAP_BUFFER is ready to reply, and no packet with an opcode that Table 10.9 lacks waits: a reply brings no other. -/
structure State.Quiet (s : State) : Prop where
  unmaps : ∀ u ∈ s.cpx.unmaps, u.waits ≠ []
  known  : ∀ p ∈ s.cpx.unrepliedAll, opKnown p.opcode = true

/-- `v` is the highest of the versions `l` in the range that a HELLO offers (R266). -/
def BestVersion (l : List Nat) (lo hi v : Nat) : Prop := (v ∈ l ∧ lo ≤ v ∧ v ≤ hi) ∧ ∀ w ∈ l, lo ≤ w → w ≤ hi → w ≤ v

/-- The power domains of a set of cores (Table 15.1). -/
def coreDomains (m : BitVec 8) : BitVec 64 :=
  BitVec.ofNat 64 (((List.range 8).filter fun c => m.getLsbD c).foldl (fun a c => a + 15 * 2 ^ (4 * c)) 0)

/-- A core is in the QM core set already, or may join it: its four domains are on and it has settled (R288). -/
def State.coreIn (s : State) (c : Nat) : Bool :=
  s.cpx.qmCores.getLsbD c ||
    ((List.range 4).all (fun k => s.pwr.domains.getLsbD (4 * c + k)) && (vget s.pwr.units c RateUnit.zero).settled)

/-! ### Commands of a stream or a program -/

/-- The running QM command `q` has instruction `w` of class `cls` next in its stream for core `c`, which is free (R280). -/
structure State.QmTakes (s : State) (c : Fin 8) (cls : Nat) (w : BitVec 128) (q : QmRun) : Prop where
  on   : s.pins.rstN = true
  code : seqClass w = cls
  run  : s.cpx.qm = some q
  at_  : s.qmAt q c = some w
  core : q.cores.getLsbD c.val = true
  more : q.run.done = false
  free : (s.fab.cores.get c).free q.run.waiting c = true

/-- The frame program of the armed contract `a` has instruction `w` of class `cls` next on core `c`, in step `e`, whose unit may
start or has started (R30, R69, R91). -/
structure State.FrameTakes (s : State) (c : Fin 8) (cls : Nat) (w : BitVec 128) (a : Contract) (e : StepEntry) : Prop where
  on      : s.pins.rstN = true
  code    : seqClass w = cls
  noQm    : s.cpx.qm = none
  armed   : s.ctr.armed = some a
  running : s.ctr.prog.running = true
  free    : (s.fab.cores.get c).free (s.fab.cores.get c).run.waiting c = true
  instr   : a.instrAt c.val (s.fab.cores.get c).csq = some w
  step    : a.stepOf c.val (s.fab.cores.get c).csq = some e
  ready   : (s.fab.cores.get c).run.active = true ∨ s.unitReady (.mxc c) = true

/-- Core `c` moves on after an instruction that is complete. -/
def Did.moved (c : Fin 8) (r : Did) : Cx :=
  r.x.putCore c { r.x.core c with csq := if r.done then (r.x.core c).csq + 1 else (r.x.core c).csq }

/-- The run of core `c`'s step before its next instruction: the one under way, or a new one (R72, R91). -/
def State.frameCx (s : State) (c : Fin 8) (e : StepEntry) (w : BitVec 128) : Cx :=
  let k := s.fab.cores.get c
  { (s.cx (if k.run.active then k.run else Run.start 0 e.id s.now s.waveNow)).putCore c (if k.run.active then k else k.fresh) with
    cls := seqClass w }

/-- The state after an instruction of a frame program. -/
def State.frameAfter (s : State) (c : Fin 8) (e : StepEntry) (r : Did) : State :=
  (s.cxBack (r.x.putCore c { r.x.core c with run := r.x.run, csq := if r.done then (r.x.core c).csq + 1 else (r.x.core c).csq })).overrun
    c e.id (r.ovf && !r.x.wait)

/-- The running command `q` is at its COMMIT: nothing of it is under way and no check has failed (R70). -/
structure State.QmAtCommit (s : State) (q : QmRun) : Prop where
  on     : s.pins.rstN = true
  run    : s.cpx.qm = some q
  active : q.run.active = true
  ended  : s.cmdEnded q = true
  good   : q.run.failed = none

/-! ### Frames -/

/-- Commands that act on the host interface, the clients, the clock, the recorder, the checker's records, the safety SPI or one
setting, and on nothing that computes. -/
def sparesFabric : Instr → Bool
  | .doorbell .. | .packetFetch .. | .readError .. | .hello .. | .queryCaps .. | .openClient .. | .createRing .. | .mapBuffer ..
  | .unmapBuffer .. | .submitJob .. | .motion .. | .fsyncSchedule .. | .timeConfig .. | .timeAcceptStep .. | .logRead .. | .statsRead ..
  | .logClear .. | .attest .. | .authChallenge .. | .challengeExpiry .. | .flagClear .. | .checkerSplit .. | .checkerJoin ..
  | .recordDelivery .. | .verdictDeadline | .tileRecordCheck .. | .bandVerdict | .frameVerdict | .resyncCopyComplete | .bandBoundary
  | .ckcAlive | .nop .. | .release .. | .forceSafe .. | .spiRequestDiscarded .. | .sync .. | .announce .. | .pdelayReq ..
  | .pdelayReqInitiate | .pdelayResp .. | .holdoverTimeout | .holdover | .ppsIn .. | .ppsOutPlacement | .ppsOut | .fsyncPlacement ..
  | .fsyncEdge .. | .domainOff .. | .domainOn .. | .rateTarget .. | .sentinelFlag .. | .emtMarginExpiry | .supplyLoopEvaluation ..
  | .avsbusTimeout | .thermalCapStep | .mr4Read .. | .patrolScrub .. | .eccWriteBack .. | .ownerProvision .. | .dbgChallenge
  | .dbgResponse .. | .hifEventWrite .. | .hifEventMaskWrite .. | .hifBar4WindowWrite .. | .adminEnable .. | .take | .apply
  | .mssSafeReserveWrite .. | .mssThermalCfgWrite .. | .mssEventRateWrite .. | .hifDoorbellErrorsRead | .emtHostDropsRead
  | .ckcCopyDropsRead | .dbgStatusRead | .pwrReqStatusRead | .eventFlashWrite | .sectorErase | .opMark | .periodicSnapshot
  | .histogramTick | .tokenRefill .. | .flagRecordWritten | .snapshotWriteComplete | .pcieLinkDown | .pcieLinkUp ..
  | .sensorLinkDown .. | .sensorLinkUp .. => true
  | _ => false

end Sys2Proof.Machine
end

