-- ==== Sys2Proof/Certificates/Slice0/Obligations.lean ====
section
/-! DEFINITION. The statements for the provers. -/

open Sys2Proof Sys2Proof.Machine

/-! ### The whole machine -/

/-- For every command c, every queue rest and every state, a step with c at the front of the queue is exec of c on the same
state with the rest as its queue. The queue is the model's form of the commands that arrive from outside. -/
def Obligations.StepRunsTheFrontCommand : Prop :=
  ∀ (c : Instr) (rest : List Instr) (s : State),
    step { s with pending := c :: rest } = exec c { s with pending := rest }

/-- On an empty queue the block idles: the step answers a next state whose TMB count is one nanosecond later (modulo the 64
bits of the count), the memories, the rings, the latch and the queue being what they were. That an empty queue stands for one
nanosecond is the model's choice (log entry 4). -/
def Obligations.EmptyQueueIdles : Prop :=
  ∀ s : State, s.pending = [] → ∃ t, step s = .next t ∧ t.pending = [] ∧
    (s.pins.rstN = true → s.now + 1 < 2 ^ 64 → t.now = s.now + 1) ∧
    t.fab = s.fab ∧ t.cpx = s.cpx ∧ t.hif = s.hif ∧ t.saf = s.saf ∧ t.sec = s.sec ∧ t.flash = s.flash

/-- Whatever the command and the state, the queue after exec is the queue before it: a command neither drops, adds nor
reorders waiting commands, so commands run in the order in which they arrive. -/
def Obligations.CommandsLeaveTheQueue : Prop :=
  ∀ (c : Instr) (s t : State), exec c s = .next t → t.pending = s.pending

/-- From every state whose memories (LPDDR5X, the shared buffer, the eight scratchpads, CKC's SRAM, and the image, certificate
and pattern areas of the flash) are in canonical form (addresses strictly rising, no listed byte equal to what an unlisted
address reads as), a step answers a state whose memories are in canonical form. -/
def Obligations.StepKeepsMemoriesCanonical : Prop :=
  ∀ s t : State, s.Canonical → step s = .next t → t.Canonical

/-- From every state in which SAFE_N is low exactly while the safe state is latched (R322), a step answers a state in which
it is so again: no command drives the pin without the latch or the latch without the pin. -/
def Obligations.SafeNFollowsTheLatch : Prop :=
  ∀ s t : State, s.SafePin → step s = .next t → t.SafePin

/-- Whatever the state, a step unsets no fuse (R405): a fused owner-key digest and a fused revocation bit are still there
afterwards, the rollback counter is no lower, and the ordering code is the same. -/
def Obligations.FusesAreNeverUnset : Prop :=
  ∀ s t : State, step s = .next t → s.sec.FusesStay t.sec

/-- From every state whose write queue of event records holds at most 1,024 records (R418), a step answers a state whose
queue holds at most 1,024. -/
def Obligations.EventQueueStaysBounded : Prop :=
  ∀ s t : State, s.QueueBounded → step s = .next t → t.QueueBounded

/-- The reset state has its memories in canonical form, SAFE_N low and the safe state latched with cause STARTUP and count 1,
an empty event queue, every admin field and HIF_EVENT zero, JUMP_NS 50,000, the QM core set 0xFF, the rate target 1,000, the
supply set point 750 mV, SAFE_RESERVE 60, the thermal thresholds 110 and 118, and no command waiting. -/
def Obligations.ResetMeetsTheInvariants : Prop :=
  State.reset.Canonical ∧ State.reset.SafePin ∧ State.reset.QueueBounded ∧ State.reset.pending = [] ∧
  State.reset.pins.safeN = false ∧ State.reset.saf.latched = true ∧ State.reset.saf.cause = latchStartup ∧
  State.reset.saf.count = 1 ∧ State.reset.hif.event = 0 ∧ State.reset.hif.adminEnable = false ∧
  State.reset.tim.jumpNs = 50000 ∧ State.reset.cpx.qmCores = 0xFF#8 ∧ State.reset.pwr.hostRate = 1000 ∧
  State.reset.pwr.vdd = 750 ∧ State.reset.mss.reserve = 60 ∧ State.reset.mss.warn = 110 ∧ State.reset.mss.throttle = 118

/-! ### The host attachment -/

/-- With BAR0 open (RST_N high, link up, the function in D0, state neither BOOT nor PARKED): a write of HIF_EVENT clears exactly the bits written
as 1, a write of HIF_EVENT_MASK keeps its eight cause bits, and after either, vector 0 sends a message when a bit is left both
set and unmasked (a masked vector sets its pending bit instead) and nothing else changes; a write of HIF_BAR4_WINDOW sets the
window to the value with bits [25:0] cleared and changes nothing else. A read of HIF_DOORBELL_ERRORS, outside BOOT and PARKED,
returns the count to the host and leaves it zero. -/
def Obligations.HostRegisterAccesses : Prop :=
  (∀ (v : Word) (s : State), s.bar0Open = true → ∃ t, exec (.hifEventWrite v) s = .next t ∧
    t = (let u := s.onHif fun h => { h with event := h.event &&& ~~~v }
         if u.hif.event &&& ~~~u.hif.eventMask ≠ 0 then u.message 0 else u) ∧ t.hif.event = s.hif.event &&& ~~~v) ∧
  (∀ (v : Word) (s : State), s.bar0Open = true → ∃ t, exec (.hifEventMaskWrite v) s = .next t ∧
    t = (let u := s.onHif fun h => { h with eventMask := v &&& 0xFF#32 }
         if u.hif.event &&& ~~~u.hif.eventMask ≠ 0 then u.message 0 else u) ∧ t.hif.event = s.hif.event) ∧
  (∀ (v : DWord) (s : State), s.bar0Open = true →
    exec (.hifBar4WindowWrite v) s = .next (s.onHif fun h => { h with bar4Window := v &&& ~~~0x3FFFFFF#64 })) ∧
  (∀ s : State, s.barOpen = true → s.pwr.state ≠ .boot → s.pwr.state ≠ .parked →
    exec .hifDoorbellErrorsRead s = .next (s.onHif fun h =>
      { h with posted := h.posted ++ [.readData (leBytes 4 h.doorbellErrors)], doorbellErrors := 0 }))

/-- BAR4 offset x reaches device address HIF_BAR4_WINDOW + x (R254). With RST_N high, the link up and the function in D0, for an access inside the
1 GiB BAR: a write changes LPDDR5X exactly at the addresses window + x whose 64-byte line is tagged HOST_SHARED, byte by byte,
and no other byte of any memory; a read posts one completion whose bytes are those of LPDDR5X at window + x where the line is
HOST_SHARED and zero elsewhere, and changes no memory. An address at or past the end of usable memory lies in no region, so it
reads zero and its writes are discarded. The window used is the one in force at the access. (For a write: the memories in
canonical form, which every step keeps.) -/
def Obligations.Bar4ReachesTheWindow : Prop :=
  (∀ (off : Nat) (b : List Byte) (n : Nat) (s : State), s.Canonical → s.barOpen = true → off + b.length ≤ 0x40000000 →
    ∃ t, exec (.bar4Access off (some b) n) s = .next t ∧
      (∀ i, i < b.length → s.mss.tagAt (64 * ((s.hif.bar4Window.toNat + off + i) / 64)) = tagShared →
        t.fab.peek .dram (s.hif.bar4Window.toNat + off + i) = b.getD i 0) ∧
      (∀ a, (∀ i, i < b.length → a = s.hif.bar4Window.toNat + off + i →
          s.mss.tagAt (64 * (a / 64)) ≠ tagShared) → t.fab.peek .dram a = s.fab.peek .dram a) ∧
      (∀ sp a, sp ≠ .dram → t.fab.peek sp a = s.fab.peek sp a) ∧
      t.cpx = s.cpx ∧ t.mss = s.mss ∧ t.sec = s.sec ∧ t.flash = s.flash ∧ t.saf = s.saf ∧ t.pins = s.pins) ∧
  (∀ (off n : Nat) (s : State), s.barOpen = true → off + n ≤ 0x40000000 →
    ∃ t, exec (.bar4Access off none n) s = .next t ∧ t.fab = s.fab ∧ t.cpx = s.cpx ∧
      ∃ l, t.hif.posted = l ++ [.readData ((List.range n).map fun i =>
        if s.mss.tagAt (64 * ((s.hif.bar4Window.toNat + off + i) / 64)) = tagShared
        then s.fab.peek .dram (s.hif.bar4Window.toNat + off + i) else 0)]) ∧
  (∀ (v : DWord) (s : State), s.bar0Open = true → ∃ t, exec (.hifBar4WindowWrite v) s = .next t ∧
    t.hif.bar4Window = v &&& ~~~0x3FFFFFF#64 ∧ t.hif.bar4Window.toNat % 0x4000000 = 0)

/-- A write that sets ENABLE (state READY, RUNNING, DRAINING, FLAGGED or RECOVERY, both bases 4 KiB-aligned, a power of two of
entries from 8 to 65,536, VECTOR 1-63, ENABLE 0 before) puts an empty admin command ring and an empty admin completion ring in
service; ENABLE and ACTIVE read 1 and CONFIG_ERROR 0. Otherwise ENABLE stays 0 and CONFIG_ERROR sets. A write that clears
ENABLE, a Function Level Reset with the link up, and the assertion of PERST_N leave no client but client 0, no host ring, no
lent buffer and no job, return the BAR4 window to 0, and leave the armed and staged contracts, the regions, the cameras, the
safe state and the fuses as they were. A write of the function's power state (the model's form of it, log entry 169) changes only
that. -/
def Obligations.HostAttachmentSetUpAndTornDown : Prop :=
  (∀ (v : Word) (s : State), s.bar0Open = true → s.hif.adminEnable = false → s.adminAccepts (v ||| 1#32) = true →
    ∃ t, exec (.adminEnable v) s = .next t ∧ t.hif.adminEnable = true ∧ t.hif.adminActive = true ∧ t.hif.configError = false ∧
      (∃ a ∈ t.cpx.rings, a.id = adminCmd ∧ a.kind = .command ∧ a.head = 0 ∧ a.tail = 0 ∧ a.link = adminCpl ∧
        a.base = s.hif.adminCmdBase ∧ a.entries = s.hif.adminEntries.toNat ∧ a.client = 0) ∧
      (∃ a ∈ t.cpx.rings, a.id = adminCpl ∧ a.kind = .completion ∧ a.head = 0 ∧ a.tail = 0 ∧
        a.base = s.hif.adminCplBase ∧ a.client = 0) ∧
      (t.cpx.client? 0).isSome = true ∧ t.fab = s.fab ∧ t.ctr = s.ctr ∧ t.saf = s.saf ∧ t.mss = s.mss) ∧
  (∀ (v : Word) (s : State), s.bar0Open = true → s.hif.adminEnable = false → s.adminAccepts (v ||| 1#32) = false →
    ∃ t, exec (.adminEnable v) s = .next t ∧ t.hif.adminEnable = false ∧ t.hif.configError = true ∧ t.cpx = s.cpx) ∧
  (∀ (c : Instr) (s : State), (∃ v, c = .adminDisable v ∧ s.bar0Open = true ∧ s.hif.adminEnable = true) ∨
      (c = .functionLevelReset ∧ s.pins.rstN = true ∧ s.hif.linkUp = true) ∨ (c = .perstNAssert ∧ s.pins.rstN = true) →
    ∃ t, exec c s = .next t ∧ (∀ x ∈ t.cpx.clients, x.id = 0) ∧ t.cpx.rings = [] ∧ t.cpx.buffers = [] ∧ t.cpx.jobs = [] ∧
      t.hif.bar4Window = 0 ∧ t.hif.adminEnable = false ∧ t.hif.adminActive = false ∧ t.ctr.armed = s.ctr.armed ∧
      t.ctr.staged = s.ctr.staged ∧ t.ctr.grid = s.ctr.grid ∧ t.mss.regions = s.mss.regions ∧ t.sen.cameras = s.sen.cameras ∧
      t.saf.latched = s.saf.latched ∧ t.sec = s.sec) ∧
  (∀ (b : Bool) (s : State), s.pins.rstN = true → s.hif.linkUp = true →
    exec (.readError (.powerState b)) s = .next (s.onHif fun h => { h with d3hot := b }))

/-- With RST_N high, the link up and the function in D0, a 64-bit write at offset 0 of an open client's page whose bits [31:20] are
zero, naming a ring r of that client with an index in the range of R259, sets the tail of a command ring to the index and changes
nothing else; or it sets the head of a ring that the KM880 produces, and then the replies that waited for an entry of their
completion ring go out. Any other write changes no ring, adds one to HIF_DOORBELL_ERRORS (saturating at 32 bits) and sets
HOST_ERROR; memories and contracts are as before. A read only posts a completion of zeros. -/
def Obligations.DoorbellMovesItsRing : Prop :=
  (∀ (page : Nat) (value : DWord) (s : State) (r : Ring), s.barOpen = true →
    (s.cpx.client? page).isSome = true → value.toNat / 2 ^ 20 % 2 ^ 12 = 0 →
    s.cpx.ring? (value.toNat % 2 ^ 20) = some r → r.client = page → r.accepts (value.toNat / 2 ^ 32) = true →
    exec (.doorbell page 0 64 (some value)) s = .next
      (if r.kind = .command then s.onCpx fun c => c.putRing { r with tail := value.toNat / 2 ^ 32 }
       else ((s.onCpx fun c => c.putRing { r with head := value.toNat / 2 ^ 32 }).drainOwed).settle) ∧
    (s.cpx.owed = [] → s.Quiet → r.kind ≠ .command →
      exec (.doorbell page 0 64 (some value)) s = .next (s.onCpx fun c => c.putRing { r with head := value.toNat / 2 ^ 32 }))) ∧
  (∀ (page offset width : Nat) (value : DWord) (s : State), s.barOpen = true →
    (width ≠ 64 ∨ offset ≠ 0 ∨ s.cpx.client? page = none ∨ value.toNat / 2 ^ 20 % 2 ^ 12 ≠ 0 ∨
      s.cpx.ring? (value.toNat % 2 ^ 20) = none ∨
      ∃ r, s.cpx.ring? (value.toNat % 2 ^ 20) = some r ∧ (r.client ≠ page ∨ r.accepts (value.toNat / 2 ^ 32) = false)) →
    ∃ t, exec (.doorbell page offset width (some value)) s = .next t ∧ t.cpx = s.cpx ∧ t.fab = s.fab ∧ t.ctr = s.ctr ∧
      t.hif.doorbellErrors = min (s.hif.doorbellErrors + 1) (2 ^ 32 - 1) ∧ t.hif.event.getLsbD causeHost = true) ∧
  (∀ (page offset width : Nat) (s : State), s.barOpen = true →
    exec (.doorbell page offset width none) s = .next (s.onHif fun h =>
      { h with posted := h.posted ++ [.readData (List.replicate (width / 8) 0#8)] }))

/-- For a command ring r that is not in ERROR, with RST_N high and the link up. With its tail ahead of its head and the fetch limits
of R263 not reached: fetching a packet with a known opcode while the ring has no job appends it to CPX's packets with the ring's
head as its position, advances DEV_INDEX by one, posts the ring's index block at the address after its entries, then at most one
message, and changes no memory (no UNMAP_BUFFER being ready to reply and no packet with an undefined opcode waiting). A read for
the ring that ends with an error puts it into ERROR without advancing it, posts the index block with ERROR, records a
host-protocol event (HOST_ERROR sets) and reports the request's header through AER. A poisoned write only reports through AER. -/
def Obligations.PacketsAreFetchedInRingOrder : Prop :=
  (∀ (ring : Nat) (bits : BitVec 512) (s : State) (r : Ring), s.cpx.ring? ring = some r → s.pins.rstN = true →
    s.hif.linkUp = true → r.kind = .command → r.error = false → r.head ≠ r.tail → (s.cpx.unreplied ring).length < 1025 →
    s.cpx.unrepliedAll.length < 65536 → s.cpx.job? ring = none → s.Quiet →
    opKnown (bits.toNat % 256) = true →
    ∃ t n rest, exec (.packetFetch ring bits) s = .next t ∧
      t.cpx = { s.cpx.putRing { r with head := idxNext r.head, sinceMsg := n } with packets := s.cpx.packets ++
        [{ ring := r.id, pos := r.head, bits := bits, cmdIdx := none, client := r.client, started := none }] } ∧
      t.hif.posted = s.hif.posted ++ [.indexBlock r.id (r.base.toNat + r.entries * 64) (idxNext r.head) false] ++ rest ∧
      rest.length ≤ 1 ∧ (∀ p ∈ rest, p = .msix r.vector) ∧ t.fab = s.fab ∧ t.ctr = s.ctr) ∧
  (∀ (ring : Nat) (header : BitVec 128) (s : State) (r : Ring), s.cpx.ring? ring = some r → s.pins.rstN = true → s.hif.linkUp = true →
    r.kind = .command → r.error = false →
    ∃ t n, exec (.readError (.fetch ring header)) s = .next t ∧ t.cpx = s.cpx.putRing { r with error := true, sinceMsg := n } ∧
      HostPost.indexBlock ring (r.base.toNat + r.entries * 64) r.head true ∈ t.hif.posted ∧ HostPost.aer header ∈ t.hif.posted ∧
      t.hif.event.getLsbD causeHost = true ∧ t.fab = s.fab ∧ t.ctr = s.ctr) ∧
  (∀ (header : BitVec 128) (s : State), s.pins.rstN = true → s.hif.linkUp = true →
    exec (.readError (.poisoned header)) s = .next (s.onHif fun h => { h with posted := h.posted ++ [.aer header] }))

/-- For a packet of a ring whose completion ring is q, with the link up, outside a job, with no UNMAP_BUFFER ready to reply and no
other packet with an undefined opcode waiting. Ending its command with status st, DETAIL dt and RESULT res: when it had started
(its entry is reserved) or an entry is free, the reply entry (with the packet's opcode, TAG and position) is posted at the host
address of q's tail, then the index block with the advanced tail, then at most one message; earlier posted writes stay in front;
q's tail advances by one. Otherwise nothing is posted and the reply waits behind those that wait already. Either way the packet
leaves CPX and nothing outside HIF and CPX changes. -/
def Obligations.ReplyIsWrittenThenIndexed : Prop :=
  ∀ (s : State) (pk : Packet) (q : Ring) (st dt res : Nat), s.hif.linkUp = true → pk.cmdIdx = none →
    (∀ u ∈ s.cpx.unmaps, u.waits ≠ []) → (∀ p ∈ s.cpx.unrepliedAll, p.same pk = false → opKnown p.opcode = true) →
    opKnown pk.opcode = true → s.cpx.cplOf pk.ring = some q → s.cpx.ring? q.id = some q →
    ((pk.started.isSome = true ∨ s.cpx.cplRoom pk.ring = true) →
      ∃ (w n : Nat) (rest : List HostPost), rest.length ≤ 1 ∧ (∀ p ∈ rest, p = .msix q.vector) ∧
        (s.reply pk st dt res).hif.posted = s.hif.posted ++
          [.reply q.id (q.base.toNat + q.tail % q.entries * q.kind.entrySize)
             { opcode := pk.opcode, status := st, detail := dt, tag := pk.tag, position := pk.pos,
               waves := w, ns := n, result := BitVec.ofNat 64 res },
           .indexBlock q.id (q.base.toNat + q.entries * q.kind.entrySize) (idxNext q.tail) q.error] ++ rest ∧
        ∃ q', (s.reply pk st dt res).cpx.ring? q.id = some q' ∧ q'.tail = idxNext q.tail ∧ q'.head = q.head) ∧
    (pk.started = none → (s.cpx.retire pk st).cplRoom pk.ring = false →
      (s.reply pk st dt res).hif = s.hif ∧ ∃ r, (s.reply pk st dt res).cpx.owed = s.cpx.owed ++ [{ pkt := pk, reply := r }] ∧
        r.opcode = pk.opcode ∧ r.status = st ∧ r.detail = dt ∧ r.tag = pk.tag ∧ r.position = pk.pos) ∧
    (∀ p ∈ (s.reply pk st dt res).cpx.packets, p.same pk = false) ∧
    (s.reply pk st dt res).fab = s.fab ∧ (s.reply pk st dt res).ctr = s.ctr ∧ (s.reply pk st dt res).sec = s.sec ∧
    (s.reply pk st dt res).flash = s.flash ∧ (s.reply pk st dt res).saf = s.saf ∧ (s.reply pk st dt res).evr = s.evr

/-- For each command that a packet outside a job starts: when the ring's next packet has the command's opcode and a common
refusal (st, dt) applies (no HELLO yet, opcode not in the negotiated version, wrong place, CMD_INDEX, admin ring, device state, a
byte that must be zero), the next state is the one with the packet started and answered with status st and DETAIL dt, and nothing
else. A packet that none refuses is a HELLO or has an opcode of the version its client negotiated; it is on the admin ring if its
opcode asks for that, in a job just if its opcode belongs there, with CMD_INDEX its position; and its FLAGS bits beyond [0] and
every parameter byte that its opcode does not use are zero. That a nonzero one refuses is the model's reading (log 17). -/
def Obligations.CommonRefusalsOnlyReply : Prop :=
  (∀ (s : State) (pk : Packet), s.gate pk = none →
    (pk.opcode ≠ 0x01 → s.cpx.proto pk.client ≠ 0 ∧ opIn (s.cpx.proto pk.client) pk.opcode = true) ∧
    (opAdmin pk.opcode = true → pk.ring = adminCmd) ∧ pk.cmdIdx.isSome = opInJob pk.opcode ∧ pk.cmdIndex = pk.cmdIdx.getD 0 ∧
    pk.u 1 1 ≤ 1 ∧
    ∀ o, 0x10 ≤ o → o < 0x40 → (∀ f ∈ opFields pk.opcode, o < f.1 ∨ f.1 + f.2 ≤ o) → pk.u o 1 = 0) ∧
  (∀ (c : Instr) (ring op : Nat) (s : State) (pk : Packet) (st dt : Nat),
    (c, op) ∈ [(Instr.hello ring, 0x01), (.queryCaps ring, 0x02), (.openClient ring, 0x10), (.closeClient ring, 0x11),
      (.createRing ring, 0x12), (.destroyRing ring, 0x13), (.armContract ring, 0x21), (.launchAt ring, 0x22),
      (.stopFrames ring, 0x23), (.submitJob ring, 0x30), (.setCapacity ring, 0x34), (.mapBuffer ring, 0x40),
      (.unmapBuffer ring, 0x41), (.timeConfig ring, 0x52), (.timeAcceptStep ring, 0x53), (.logRead ring, 0x60),
      (.statsRead ring, 0x62), (.checkerSplit ring, 0x90), (.checkerJoin ring, 0x91), (.discover ring, 0xA0)] →
    s.Refuses ring op pk st dt → exec c s = .next ((s.markStarted pk).reply (s.begun pk) st dt 0))

/-! ### Clients, rings, buffers -/

/-- HELLO of a client that is not busy (no open job, no unreplied command but those behind it on its ring, log entry 166): when every
interface has a common version, the client gets the highest common version of the host protocol (1.0, 2.0-2.3), of the contract
format (3, 4) and of the tile record (1, 2), and the reply is DONE with the three in RESULT; without a common version the reply is
VERSION_MISMATCH with the first interface that lacks one in DETAIL (0 protocol, 1 contract, 2 tile; the layout of its RESULT is the
model's reading, log entry 12); with the client busy it is BAD_PARAM. In every case nothing but the versions and the reply
changes. -/
def Obligations.HelloNegotiatesVersions : Prop :=
  ∀ (s : State) (ring : Nat) (pk : Packet), s.Starts ring 0x01 pk →
    (∀ x p c t, s.cpx.clientBusy pk = false → s.cpx.client? pk.client = some x →
      BestVersion [0x100, 0x200, 0x201, 0x202, 0x203] (pk.u 0x10 2) (pk.u 0x12 2) p →
      BestVersion [3, 4] (pk.u 0x14 1) (pk.u 0x15 1) c → BestVersion [1, 2] (pk.u 0x16 1) (pk.u 0x17 1) t →
      exec (.hello ring) s = .next (((s.markStarted pk).onCpx fun k =>
        k.putClient { x with versions := some { proto := p, contract := c, tile := t } }).done (s.begun pk) (p + 2 ^ 16 * c + 2 ^ 24 * t))) ∧
    (∀ i, s.cpx.clientBusy pk = false →
      ((i = 0 ∧ ¬ ∃ p, BestVersion [0x100, 0x200, 0x201, 0x202, 0x203] (pk.u 0x10 2) (pk.u 0x12 2) p) ∨
       (i = 1 ∧ (∃ p, BestVersion [0x100, 0x200, 0x201, 0x202, 0x203] (pk.u 0x10 2) (pk.u 0x12 2) p) ∧
         ¬ ∃ c, BestVersion [3, 4] (pk.u 0x14 1) (pk.u 0x15 1) c) ∨
       (i = 2 ∧ (∃ p, BestVersion [0x100, 0x200, 0x201, 0x202, 0x203] (pk.u 0x10 2) (pk.u 0x12 2) p) ∧
         (∃ c, BestVersion [3, 4] (pk.u 0x14 1) (pk.u 0x15 1) c) ∧ ¬ ∃ t, BestVersion [1, 2] (pk.u 0x16 1) (pk.u 0x17 1) t)) →
      exec (.hello ring) s = .next ((s.markStarted pk).reply (s.begun pk) stVersion i rangesResult)) ∧
    (s.cpx.clientBusy pk = true → exec (.hello ring) s = .next ((s.markStarted pk).bad (s.begun pk) 0))

/-- QUERY_CAPS with a 64-byte-aligned DEST posts the block to DEST and then replies DONE. The block is 256 bytes; its fields, at
the offsets of Table 10.8, are the part 0x0880, the stepping, the order, the floor, the host rate, the stream counts, the device
state, the QM core set, the supported versions, the usable memory, its data rate, the link, the free clients, the free ring IDs,
the firmware version, the rollback counter and the device ID; bytes not listed (0x1E-0x1F, 0x2C-0x2F, 0x38-0xFF) are zero. -/
def Obligations.QueryCapsWritesTheBlock : Prop :=
  (∀ (s : State) (ring : Nat) (pk : Packet), s.Starts ring 0x02 pk → pk.u 0x18 8 % 64 = 0 →
    exec (.queryCaps ring) s =
      .next (((s.markStarted pk).post (.block (pk.u 0x18 8) s.capsBlock)).done (s.begun pk) 0)) ∧
  (∀ s : State, s.capsBlock.length = 256 ∧ s.capsBlock.take 2 = leBytes 2 0x0880 ∧
    (s.capsBlock.drop 2).take 2 = leBytes 1 0xA1 ++ leBytes 1 (if s.sec.orderQ10 then 0x10 else 0x08) ∧
    (s.capsBlock.drop 4).take 4 = leBytes 2 (if s.sec.orderQ10 then 760 else 680) ++ leBytes 2 s.pwr.hostRate ∧
    (s.capsBlock.drop 8).take 4 = [1#8, 2#8] ++ leBytes 1 s.pwr.state.code ++ leBytes 1 s.cpx.qmCores.toNat ∧
    (s.capsBlock.drop 12).take 12 = leBytes 4 0x02010403 ++ leBytes 8 s.mss.usable ∧
    (s.capsBlock.drop 24).take 6 = leBytes 2 s.mss.dataRate ++ leBytes 1 s.hif.linkSpeed ++ leBytes 1 s.hif.linkWidth ++
      leBytes 2 (4095 - (s.cpx.clients.filter fun c => c.id ≠ 0).length) ∧ (s.capsBlock.drop 30).take 2 = [0#8, 0#8] ∧
    (s.capsBlock.drop 32).take 12 = leBytes 4 s.freeRings ++ leBytes 4 s.mss.fwVersion ++ leBytes 4 s.sec.rollback ∧
    (s.capsBlock.drop 44).take 4 = [0#8, 0#8, 0#8, 0#8] ∧
    (s.capsBlock.drop 48).take 8 = leBytes 8 Config.deviceId.toNat ∧ s.capsBlock.drop 56 = List.replicate 200 0#8)

/-- OPEN_CLIENT opens the lowest client number from 1 to 4,095 that is not open, without versions and with its counts at zero,
and replies DONE with the number; with none free it replies NO_RESOURCE. CLOSE_CLIENT of an open client from 1 to 4,095 answers
a next state in which that client is not open, owns no ring and no lent buffer, and no job of its rings is left, while the other clients are still
open, and the contracts, the regions, the safe state and the fuses are as before; its counts stay readable until the number is
opened again; any other number replies BAD_PARAM. -/
def Obligations.ClientsOpenAndClose : Prop :=
  (∀ (s : State) (ring : Nat) (pk : Packet) (i : Nat), s.Starts ring 0x10 pk → i < 4095 →
    s.cpx.client? (i + 1) = none → (∀ j, j < i → (s.cpx.client? (j + 1)).isSome = true) →
    exec (.openClient ring) s = .next (((s.markStarted pk).onCpx fun c =>
      { c with clients := c.clients ++ [{ id := i + 1, versions := none, completed := 0, killed := 0 }],
               past := c.past.filter fun x => x.id ≠ i + 1 }).done (s.begun pk) (i + 1))) ∧
  (∀ (s : State) (ring : Nat) (pk : Packet), s.Starts ring 0x10 pk → (∀ j, j < 4095 → (s.cpx.client? (j + 1)).isSome = true) →
    exec (.openClient ring) s = .next ((s.markStarted pk).noRes (s.begun pk) 0)) ∧
  (∀ (s : State) (ring : Nat) (pk : Packet), s.Starts ring 0x11 pk → 1 ≤ pk.u 0x10 2 → pk.u 0x10 2 ≤ 4095 →
    (s.cpx.client? (pk.u 0x10 2)).isSome = true →
    ∃ t, exec (.closeClient ring) s = .next t ∧ t.cpx.client? (pk.u 0x10 2) = none ∧
      (∀ r ∈ t.cpx.rings, r.client ≠ pk.u 0x10 2) ∧ (∀ r ∈ s.cpx.rings, r.client = pk.u 0x10 2 → t.cpx.job? r.id = none) ∧
      (∀ b ∈ t.cpx.buffers, b.client ≠ pk.u 0x10 2) ∧
      (∀ i, i ≠ pk.u 0x10 2 → (t.cpx.client? i).isSome = (s.cpx.client? i).isSome) ∧
      t.ctr.armed = s.ctr.armed ∧ t.ctr.staged = s.ctr.staged ∧ t.mss.regions = s.mss.regions ∧
      (∃ x ∈ t.cpx.past, x.id = pk.u 0x10 2) ∧ t.saf.latched = s.saf.latched ∧ t.sec = s.sec) ∧
  (∀ (s : State) (ring : Nat) (pk : Packet), s.Starts ring 0x11 pk →
    (pk.u 0x10 2 < 1 ∨ 4095 < pk.u 0x10 2 ∨ s.cpx.client? (pk.u 0x10 2) = none) →
    exec (.closeClient ring) s = .next ((s.markStarted pk).bad (s.begun pk) 0x10))

/-- CREATE_RING whose parameters meet Table 10.9 (kind 1-5, IRQ 0 or 1, an open client, entries a power of two from 8 to
65,536, a 4 KiB-aligned base, for a command ring a completion ring of the same client, vector 1-63, no second stream ring of
a kind) creates an empty ring with the parameters under the lowest free number at or above 0x1000 and replies DONE with it; a
stream ring starts without pending tail updates. Each parameter outside its range replies BAD_PARAM with its offset, a second
stream ring of a kind NO_RESOURCE. Nothing else changes. -/
def Obligations.CreateRingMakesAnEmptyRing : Prop :=
  (∀ (s : State) (ring : Nat) (pk : Packet) (k : RingKind) (client id : Nat), s.Starts ring 0x12 pk →
    client = (if pk.ring = adminCmd then pk.u 0x12 2 else pk.client) →
    ringKindOf (pk.u 0x10 1) = some k → pk.u 0x11 1 ≤ 1 → (s.cpx.client? client).isSome = true → goodEntries (pk.u 0x14 4) = true →
    pk.u 0x18 8 % 4096 = 0 → (k = .command → ∃ q, s.cpx.ring? (pk.u 0x20 4) = some q ∧ q.kind = .completion ∧ q.client = client) →
    1 ≤ pk.u 0x24 1 → pk.u 0x24 1 ≤ 63 → (k.isStream = true → ∀ r ∈ s.cpx.rings, r.kind ≠ k) → s.freeRing = some id →
    exec (.createRing ring) s = .next ((((s.markStarted pk).onEmt fun e => match k with
        | .tileStream => { e with tile := { e.tile with tailPend := 0 } }
        | .objectStream => { e with object := { e.object with tailPend := 0 } }
        | .verdictStream => { e with verdict := { e.verdict with tailPend := 0 } }
        | .command => e
        | .completion => e).onCpx fun c =>
      { c with rings := c.rings ++ [
        { id := id, kind := k, irq := decide (pk.u 0x11 1 = 1), error := false, client := client,
          entries := pk.u 0x14 4, base := BitVec.ofNat 64 (pk.u 0x18 8), head := 0, tail := 0,
          link := (if k = .command then pk.u 0x20 4 else 0), vector := pk.u 0x24 1, coalesce := pk.u 0x25 1, sinceMsg := 0, spans := [] }] }).done
      (s.begun pk) id)) ∧
  (∀ (s : State) (ring : Nat) (pk : Packet) (client off : Nat), s.Starts ring 0x12 pk →
    client = (if pk.ring = adminCmd then pk.u 0x12 2 else pk.client) →
    ((ringKindOf (pk.u 0x10 1) = none ∧ off = 0x10) ∨
     (∃ k, ringKindOf (pk.u 0x10 1) = some k ∧ ((1 < pk.u 0x11 1 ∧ off = 0x11) ∨ (pk.u 0x11 1 ≤ 1 ∧
       ((s.cpx.client? client = none ∧ off = 0x12) ∨ ((s.cpx.client? client).isSome = true ∧
       ((goodEntries (pk.u 0x14 4) = false ∧ off = 0x14) ∨ (goodEntries (pk.u 0x14 4) = true ∧
       ((pk.u 0x18 8 % 4096 ≠ 0 ∧ off = 0x18) ∨ (pk.u 0x18 8 % 4096 = 0 ∧
       ((k = .command ∧ (∀ q, s.cpx.ring? (pk.u 0x20 4) = some q → q.kind = .completion → q.client ≠ client) ∧ off = 0x20) ∨
        ((k = .command → ∃ q, s.cpx.ring? (pk.u 0x20 4) = some q ∧ q.kind = .completion ∧ q.client = client) ∧
          (pk.u 0x24 1 < 1 ∨ 63 < pk.u 0x24 1) ∧ off = 0x24)))))))))))) →
    exec (.createRing ring) s = .next ((s.markStarted pk).bad (s.begun pk) off)) ∧
  (∀ (s : State) (ring : Nat) (pk : Packet) (k : RingKind), s.Starts ring 0x12 pk → ringKindOf (pk.u 0x10 1) = some k →
    pk.u 0x11 1 ≤ 1 → (s.cpx.client? (if pk.ring = adminCmd then pk.u 0x12 2 else pk.client)).isSome = true →
    goodEntries (pk.u 0x14 4) = true → pk.u 0x18 8 % 4096 = 0 → 1 ≤ pk.u 0x24 1 → pk.u 0x24 1 ≤ 63 → k.isStream = true →
    (∃ r ∈ s.cpx.rings, r.kind = k) →
    exec (.createRing ring) s = .next ((s.markStarted pk).noRes (s.begun pk) 0)) ∧
  (∀ (s : State) (id : Nat), s.freeRing = some id → 0x1000 ≤ id ∧ id < 0x100000 ∧ s.ringUsed id = false ∧
    ∀ j, 0x1000 ≤ j → j < id → s.ringUsed j = true)

/-- DESTROY_RING of a host ring of the sender's client (not a completion ring that a command ring still names) answers a next
state without that ring, without a job of it and without an unstarted packet of it; the contracts, the regions, the lent
buffers, the safe state and the fuses are as before. A ring that is not there, is one of the KM880's own, is another
client's, or is a completion ring in use replies BAD_PARAM. That the admin rings are refused too is the
model's reading (log entry 14). -/
def Obligations.DestroyRingRemovesIt : Prop :=
  (∀ (s : State) (ring : Nat) (pk : Packet) (r : Ring), s.Starts ring 0x13 pk → s.cpx.ring? (pk.u 0x10 4) = some r →
    0x1000 ≤ pk.u 0x10 4 → r.client = pk.client →
    (r.kind = .completion → ∀ q ∈ s.cpx.rings, q.kind = .command → q.link ≠ pk.u 0x10 4) →
    ∃ t, exec (.destroyRing ring) s = .next t ∧ t.cpx.ring? (pk.u 0x10 4) = none ∧ t.cpx.job? (pk.u 0x10 4) = none ∧
      (∀ p ∈ t.cpx.packets, p.started = none → p.ring ≠ pk.u 0x10 4) ∧ t.cpx.buffers = s.cpx.buffers ∧
      t.ctr.armed = s.ctr.armed ∧ t.ctr.staged = s.ctr.staged ∧ t.mss.regions = s.mss.regions ∧
      t.saf.latched = s.saf.latched ∧ t.sec = s.sec) ∧
  (∀ (s : State) (ring : Nat) (pk : Packet), s.Starts ring 0x13 pk →
    (s.cpx.ring? (pk.u 0x10 4) = none ∨ ∃ r, s.cpx.ring? (pk.u 0x10 4) = some r ∧ (pk.u 0x10 4 < 0x1000 ∨ r.client ≠ pk.client ∨
      (r.kind = .completion ∧ ∃ q ∈ s.cpx.rings, q.kind = .command ∧ q.link = pk.u 0x10 4))) →
    exec (.destroyRing ring) s = .next ((s.markStarted pk).bad (s.begun pk) 0x10))

/-- MAP_BUFFER of a range inside one HOST_SHARED region, its size a positive multiple of 64, without a generation word
(all ones; in version 1.0 zero), for an open client with fewer than 256 buffers and fewer than 16,384 in total, lends the range
and replies DONE with a handle that no lent buffer has; the handle's value is open (log entry 10) and its choice uses one free
value. UNMAP_BUFFER of a buffer of the sender's client removes exactly that buffer; with no command holding it the reply is
DONE, else the reply waits for those commands. A handle that is not the client's replies BAD_PARAM. -/
def Obligations.BuffersAreLentAndTakenBack : Prop :=
  (∀ (s : State) (ring : Nat) (pk : Packet) (client : Nat), s.Starts ring 0x40 pk →
    client = (if pk.ring = adminCmd then pk.u 0x28 2 else pk.client) →
    s.mss.inOne tagShared (pk.u 0x10 8) (pk.u 0x18 8) = true → 0 < pk.u 0x18 8 → pk.u 0x18 8 % 64 = 0 →
    (if s.cpx.proto pk.client = 0x100 then pk.u 0x20 8 = 0 else pk.u 0x20 8 = 2 ^ 64 - 1) →
    (s.cpx.client? client).isSome = true → (s.cpx.buffers.filter fun b => b.client = client).length < 256 →
    s.cpx.buffers.length < 16384 →
    exec (.mapBuffer ring) s = .next (((s.markStarted pk).bumpFree.onCpx fun c => { c with buffers := c.buffers ++
      [{ handle := s.newHandle, client := client, addr := pk.u 0x10 8, size := pk.u 0x18 8, gen := none }] }).done
        (s.begun pk) s.newHandle)) ∧
  (∀ (s : State) (ring : Nat) (pk : Packet) (client : Nat), s.Starts ring 0x40 pk →
    client = (if pk.ring = adminCmd then pk.u 0x28 2 else pk.client) → s.cpx.proto pk.client ≠ 0x100 →
    s.mss.inOne tagShared (pk.u 0x10 8) (pk.u 0x18 8) = true → 0 < pk.u 0x18 8 → pk.u 0x18 8 % 64 = 0 →
    pk.u 0x20 8 % 8 = 0 → s.mss.inOne tagShared (pk.u 0x20 8) 8 = true →
    (pk.u 0x20 8 + 8 ≤ pk.u 0x10 8 ∨ pk.u 0x10 8 + pk.u 0x18 8 ≤ pk.u 0x20 8) →
    (s.cpx.client? client).isSome = true → (s.cpx.buffers.filter fun b => b.client = client).length < 256 →
    s.cpx.buffers.length < 16384 →
    exec (.mapBuffer ring) s = .next (((s.markStarted pk).bumpFree.onCpx fun c => { c with buffers := c.buffers ++
      [{ handle := s.newHandle, client := client, addr := pk.u 0x10 8, size := pk.u 0x18 8, gen := some (pk.u 0x20 8) }] }).done
        (s.begun pk) s.newHandle)) ∧
  (∀ (s : State) (ring : Nat) (pk : Packet) (b : Buffer), s.Starts ring 0x41 pk → b ∈ s.cpx.buffers → b.handle = pk.u 0x10 4 →
    b.client = pk.client →
    exec (.unmapBuffer ring) s =
      (let u := (s.markStarted pk).onCpx fun c => { c with buffers := c.buffers.filter fun b => b.handle ≠ pk.u 0x10 4 }
       if s.cpx.holders (pk.u 0x10 4) = [] then .next (u.done (s.begun pk) 0)
       else .next (u.onCpx fun c => { c with unmaps := c.unmaps ++
         [{ pkt := s.begun pk, handle := pk.u 0x10 4, waits := s.cpx.holders (pk.u 0x10 4) }] }))) ∧
  (∀ (s : State) (ring : Nat) (pk : Packet), s.Starts ring 0x41 pk →
    (∀ b ∈ s.cpx.buffers, b.handle = pk.u 0x10 4 → b.client ≠ pk.client) →
    exec (.unmapBuffer ring) s = .next ((s.markStarted pk).bad (s.begun pk) 0x10))

/-! ### Jobs and batches -/

/-- SUBMIT_JOB with FLAGS 0 or 1 and, in cache mode, a 64 MiB-aligned aperture (before version 2.3 both zero) opens a job for
the ring and gives it the ring's later packets; nothing replies yet. JOB_DISPATCH, with QM work allowed, a QM core, no RUNNING
job and no capacity change under way, makes the earliest eligible job RUNNING, clears the QM semaphores, switches the QM cores
to cache mode for a job in cache mode whose banks the contracts leave free, and replies DONE to its SUBMIT_JOB; where the contracts
hold such a bank the SUBMIT_JOB replies NO_RESOURCE and the job is torn down and counted as killed. END_JOB at the
front of a RUNNING job writes back the caches of a job in cache mode, replies DONE with the counts of done and other commands
in RESULT, counts a completed job for the client, and removes the job. -/
def Obligations.JobsOpenRunAndEnd : Prop :=
  (∀ (s : State) (ring : Nat) (pk : Packet), s.Starts ring 0x30 pk → pk.u 0x10 1 ≤ 1 →
    (s.cpx.proto pk.client < 0x203 → pk.u 0x10 1 = 0 ∧ pk.u 0x18 8 = 0) →
    (pk.u 0x10 1 = 1 → pk.u 0x18 8 % 0x4000000 = 0) →
    exec (.submitJob ring) s = .next (((s.markStarted pk).cpx.packets.filter fun p => p.ring = ring && !p.same (s.begun pk)).foldl
      (fun s p => s.enqueue p) ((s.markStarted pk).onCpx fun c =>
        { c with packets := c.packets.filter fun p => p.ring ≠ ring || p.same (s.begun pk), jobs := c.jobs ++ [
          { ring := ring, client := pk.client, state := .opened, submit := s.begun pk, cache := decide (pk.u 0x10 1 = 1),
            aperture := pk.u 0x18 8, cmds := [], fetched := 0, breaks := [], ended := false, since := 0, visible := [],
            okCount := 0, badCount := 0, banks := [], segs := [], pool := none, joined := false, preempts := 0, killed := false }] }))) ∧
  (∀ (s : State) (ring : Nat) (rest : List Nat) (j : Job), s.pins.rstN = true → s.qmOpen = true → s.cpx.running? = none →
    s.cpx.cap = none → s.cpx.qmCores ≠ 0 → s.cpx.eligible = ring :: rest → s.cpx.job? ring = some j →
    (j.cache = true → s.cacheAllowed = true) →
    exec .jobDispatch s = .next ((((s.onCpx fun c => { c.putJob { j with state := .running } with eligible := rest }).onFab fun f =>
        { f with sems := f.sems.filter fun p => decide (p.1 < 0x1000) }).onFab fun f =>
        if j.cache then (List.finRange 8).foldl (fun f c => if s.cpx.qmCores.getLsbD c.val then f.cacheOn c else f) f else f).done
      j.submit 0)) ∧
  (∀ (s : State) (ring : Nat) (rest : List Nat) (j : Job), s.pins.rstN = true → s.qmOpen = true → s.cpx.running? = none →
    s.cpx.cap = none → s.cpx.qmCores ≠ 0 → s.cpx.eligible = ring :: rest → s.cpx.job? ring = some j →
    j.cache = true → s.cacheAllowed = false →
    exec .jobDispatch s = .next ((s.reply j.submit stNoResource 0 0).teardownAs true ring true)) ∧
  (∀ (s : State) (ring : Nat) (j : Job) (pk : Packet), s.pins.rstN = true → s.cpx.cap = none → s.nextCmd ring = some (j, pk) →
    pk.opcode = 0x32 → s.cpx.cplRoom pk.ring = true → s.gate pk = none →
    exec (.endJob ring) s = .next (((((s.onFab fun f => if j.cache then f.cachesOff else f).replyAll (s.begun pk) stDone 0
      (min j.okCount (2 ^ 32 - 1) + 2 ^ 32 * min j.badCount (2 ^ 32 - 1)) 0 0).countJob j.client true).dropJob ring).boundary))

/-- An admitted KILL naming a command ring of its client (the admin client: any command ring). With SCOPE 0 and a command of the
ring's job at the named position: if it is the running QM command and the kill token arrives first, the command is discarded with
every provisional write, what it acquired returns, it replies KILLED, and KILL replies DONE 0; with its commit token first (late),
the kill token stays under way and nothing else happens; if it waits, it replies KILLED and KILL replies DONE 3. With SCOPE 1 (from
version 2.3) the same ends the whole job, running command included. If the position was a job's command that has replied, KILL
replies DONE 2; if it was none, or the scope or the ring is not allowed, BAD_PARAM. -/
def Obligations.KillResolvesByTheTargetsState : Prop :=
  ∀ (s : State) (ring : Nat) (pk : Packet) (r : Ring), s.pins.rstN = true →
    s.cpx.packets.find? (fun p => p.ring = ring && s.cpx.killNow p && p.started.isNone) = some pk → s.cpx.cplRoom ring = true →
    s.gate pk = none →
    (∀ (late : Bool) (j : Job) (t : Packet), s.cpx.ring? (pk.u 0x10 4) = some r → r.kind = .command →
      (r.client = pk.client ∨ pk.client = 0) → s.cpx.job? (pk.u 0x10 4) = some j →
      j.cmds.find? (fun p => p.pos = pk.u 0x14 4) = some t →
      (pk.u 0x18 1 = 0 → (∀ q, s.cpx.qm = some q → q.pkt.ring = t.ring → q.pkt.pos = t.pos →
        exec (.kill ring false) s = .next (((((((s.markStarted pk).discardQm).replyAll q.pkt stKilled 0 0 0 0).closeBatch t.ring).answerKills
          0).boundary).done (s.begun pk) 0) ∧
        exec (.kill ring true) s = .next ((s.markStarted pk).onCpx fun c =>
          { c with kills := c.kills ++ [{ killer := s.begun pk, scope1 := false }] }) ∧
        ((s.markStarted pk).discardQm).cpx.qm = none ∧
        ((s.markStarted pk).discardQm).fab = s.fab.dropProvisional.returnHeld q.run)) ∧
      (pk.u 0x18 1 = 0 → (∀ q, s.cpx.qm = some q → ¬(q.pkt.ring = t.ring ∧ q.pkt.pos = t.pos)) →
        exec (.kill ring late) s = .next (((s.markStarted pk).removeCmd t).done (s.begun pk) 3)) ∧
      (pk.u 0x18 1 = 1 → 0x203 ≤ s.cpx.proto pk.client →
        ((∀ q, s.cpx.qm = some q → q.pkt.ring = t.ring →
          exec (.kill ring false) s = .next ((((((s.markStarted pk).discardQm).teardown t.ring true).answerKills 0).boundary).done
            (s.begun pk) 0) ∧
          exec (.kill ring true) s = .next ((s.markStarted pk).onCpx fun c =>
            { c with kills := c.kills ++ [{ killer := s.begun pk, scope1 := true }] })) ∧
        ((∀ q, s.cpx.qm = some q → q.pkt.ring ≠ t.ring) →
          exec (.kill ring late) s = .next (((s.markStarted pk).teardown t.ring true).done (s.begun pk) 3))))) ∧
    (∀ late : Bool, s.cpx.ring? (pk.u 0x10 4) = some r → r.kind = .command → (r.client = pk.client ∨ pk.client = 0) →
      (pk.u 0x18 1 = 0 ∨ (pk.u 0x18 1 = 1 ∧ 0x203 ≤ s.cpx.proto pk.client)) →
      (∀ j, s.cpx.job? (pk.u 0x10 4) = some j → j.cmds.find? (fun p => p.pos = pk.u 0x14 4) = none) →
      (s.cpx.wasJobCmd r (pk.u 0x14 4) = true → exec (.kill ring late) s = .next ((s.markStarted pk).done (s.begun pk) 2)) ∧
      (s.cpx.wasJobCmd r (pk.u 0x14 4) = false → exec (.kill ring late) s = .next ((s.markStarted pk).bad (s.begun pk) 0x14))) ∧
    (∀ late : Bool, (1 < pk.u 0x18 1 ∨ (pk.u 0x18 1 = 1 ∧ s.cpx.proto pk.client < 0x203)) →
      exec (.kill ring late) s = .next ((s.markStarted pk).bad (s.begun pk) 0x18)) ∧
    (∀ late : Bool, (pk.u 0x18 1 = 0 ∨ (pk.u 0x18 1 = 1 ∧ 0x203 ≤ s.cpx.proto pk.client)) →
      (s.cpx.ring? (pk.u 0x10 4) = none ∨
        (s.cpx.ring? (pk.u 0x10 4) = some r ∧ (r.kind ≠ .command ∨ (r.client ≠ pk.client ∧ pk.client ≠ 0)))) →
      exec (.kill ring late) s = .next ((s.markStarted pk).bad (s.begun pk) 0x10))

/-- SET_CAPACITY asks for the domains that its target's cores lack, after a closing one among theirs has gone off. With no QM command in flight: when every core of the target is in
the set already or is powered and settled, the target is the QM core set at once, no change is pending and DONE is the reply;
otherwise the cores that are neither leave or wait, the set is the rest of the target, and the change stays pending without a
reply. With a QM command in flight the set stays and the change is pending. A SET_CAPACITY that was still pending replies DONE
first. -/
def Obligations.SetCapacityActsAtABoundary : Prop :=
  ∀ (s v u : State) (ring : Nat) (pk : Packet), s.Starts ring 0x34 pk →
    v = (match s.cpx.cap with
      | none => s.markStarted pk
      | some r => ((s.markStarted pk).onCpx fun c => { c with cap := none }).done r.pkt 0) →
    u = v.gateOffEnd (coreDomains (BitVec.ofNat 8 (pk.u 0x10 1)) &&& v.pwr.closing) →
    (∀ q, s.cpx.qm = some q → exec (.setCapacity ring) s = .next
      ((u.onPwr fun p => { p with rising := p.rising ||| (coreDomains (BitVec.ofNat 8 (pk.u 0x10 1)) &&& ~~~p.domains) }).onCpx fun c =>
        { c with cap := some { pkt := s.begun pk, target := BitVec.ofNat 8 (pk.u 0x10 1) } })) ∧
    (s.cpx.qm = none → (∀ c, c < 8 → (BitVec.ofNat 8 (pk.u 0x10 1)).getLsbD c = true → u.coreIn c = true) →
      ∃ t : State, exec (.setCapacity ring) s = .next (t.done (s.begun pk) 0) ∧ t.cpx.qmCores = BitVec.ofNat 8 (pk.u 0x10 1) ∧
        t.cpx.cap = none ∧ t.ctr = u.ctr ∧ t.sec = u.sec ∧ t.saf = u.saf) ∧
    (s.cpx.qm = none → (∃ c, c < 8 ∧ (BitVec.ofNat 8 (pk.u 0x10 1)).getLsbD c = true ∧ u.coreIn c = false) →
      ∃ t, exec (.setCapacity ring) s = .next t ∧
        (∀ c, c < 8 → t.cpx.qmCores.getLsbD c = ((BitVec.ofNat 8 (pk.u 0x10 1)).getLsbD c && u.coreIn c)) ∧
        t.cpx.cap = some { pkt := s.begun pk, target := BitVec.ofNat 8 (pk.u 0x10 1) } ∧ (u.pwr.busy = none → t.hif = u.hif) ∧
        t.ctr = u.ctr)

/-- At the front of a RUNNING job, admitted: the pool declaration (1-4,096 slots, 1-16 pages, a 64 KiB-aligned range inside one
QM region, no pool and no SEQ_JOIN yet) writes the map page of free slots at the base, gives the job the pool and replies DONE; SEQ_JOIN of a
sequence that is not in the pool, with the pool's page count and a source inside one QM region, copies its pages to the lowest
free slot, marks the slot and replies DONE (with no slot free: DEFERRED); SEQ_LEAVE of a sequence in the pool frees its slot and
replies DONE. No byte outside LPDDR5X, and none outside the pool's range, changes. -/
def Obligations.BatchPoolsJoinAndLeave : Prop :=
  (∀ (s : State) (ring : Nat) (j : Job) (pk : Packet), s.pins.rstN = true → s.cpx.cap = none → s.nextCmd ring = some (j, pk) →
    pk.opcode = 0x35 → pk.u 0x10 4 = 0xFFFFFFFF → pk.ring = ring → s.cpx.cplRoom ring = true → s.gate pk = none → j.pool = none →
    j.joined = false →
    1 ≤ pk.u 0x14 4 % 65536 → pk.u 0x14 4 % 65536 ≤ 4096 → 1 ≤ pk.u 0x14 4 / 65536 → pk.u 0x14 4 / 65536 ≤ 16 →
    pk.u 0x18 8 % 65536 = 0 →
    s.mss.inOne tagQm (pk.u 0x18 8) (65536 * (1 + pk.u 0x14 4 / 65536 * (pk.u 0x14 4 % 65536))) = true →
    ∃ t p, p = Pool.mk (pk.u 0x18 8) (pk.u 0x14 4 % 65536) (pk.u 0x14 4 / 65536) [] 0 none ∧
      exec (.seqJoin ring) s = .next t ∧
      t = ((s.putDram p.base p.mapBytes).setPool ring p).replyAll (s.begun pk) stDone 0 0 0 0 ∧
      (∀ sp a, (sp ≠ .dram ∨ a < p.base ∨ p.base + 65536 ≤ a) → t.fab.peek sp a = s.fab.peek sp a)) ∧
  (∀ (s : State) (ring : Nat) (j : Job) (hd pk : Packet) (p : Pool) (i : Nat), s.pins.rstN = true → s.cpx.cap = none →
    s.nextCmd ring = some (j, hd) → hd.inBatch = true → (∀ x ∈ j.batch, x.opcode ≠ 0x36) → j.batch.head? = some pk →
    pk.opcode = 0x35 → pk.ring = ring → s.cpx.cplRoom ring = true → s.gate pk = none → j.pool = some p → p.slots ≤ 4096 →
    (∀ o ∈ p.occupants, o.2 ≠ BitVec.ofNat 32 (pk.u 0x10 4)) → pk.u 0x14 4 = p.pages →
    s.mss.inOne tagQm (pk.u 0x18 8) (65536 * p.pages) = true → p.freeSlot = some i →
    ∃ t, exec (.seqJoin ring) s = .next t ∧
      t = ((((((s.markJoined ring).copyPages p i (pk.u 0x18 8)).setSlot p i 0x7FFFFFFF (pk.u 0x10 4)).setPool ring
        { p with occupants := p.occupants ++ [(i, BitVec.ofNat 32 (pk.u 0x10 4))] }).replyAll
        (s.begun pk) stDone 0 0 0 0).afterSeq ring pk) ∧
      (∀ sp a, (sp ≠ .dram ∨ a < p.base ∨ p.base + 65536 * (1 + p.pages * p.slots) ≤ a) → t.fab.peek sp a = s.fab.peek sp a)) ∧
  (∀ (s : State) (ring : Nat) (j : Job) (hd pk : Packet) (p : Pool), s.pins.rstN = true → s.cpx.cap = none →
    s.nextCmd ring = some (j, hd) → hd.inBatch = true → (∀ x ∈ j.batch, x.opcode ≠ 0x36) → j.batch.head? = some pk →
    pk.opcode = 0x35 → pk.ring = ring → s.cpx.cplRoom ring = true → s.gate pk = none → j.pool = some p →
    (∀ o ∈ p.occupants, o.2 ≠ BitVec.ofNat 32 (pk.u 0x10 4)) → pk.u 0x14 4 = p.pages →
    s.mss.inOne tagQm (pk.u 0x18 8) (65536 * p.pages) = true → p.freeSlot = none →
    exec (.seqJoin ring) s =
      .next (((s.markJoined ring).replyAll (s.begun pk) stDeferred 0 0 0 0).afterSeq ring pk)) ∧
  (∀ (s : State) (ring : Nat) (j : Job) (hd pk : Packet) (p : Pool) (o : Nat × Word), s.pins.rstN = true → s.cpx.cap = none →
    s.nextCmd ring = some (j, hd) → j.batch.find? (fun x => x.opcode = 0x36) = some pk → pk.ring = ring → s.cpx.cplRoom ring = true →
    s.gate pk = none → j.pool = some p → p.slots ≤ 4096 → 1 ≤ p.pages → o.1 < p.slots →
    p.occupants.find? (fun x => x.2 = BitVec.ofNat 32 (pk.u 0x10 4)) = some o →
    ∃ t, exec (.seqLeave ring) s = .next t ∧
      t = ((((s.setSlot p o.1 0 0xFFFFFFFF).setPool ring
        { p with occupants := p.occupants.filter (fun x => x.1 ≠ o.1) }).replyAll
        (s.begun pk) stDone 0 0 0 0).afterSeq ring pk) ∧
      (∀ sp a, (sp ≠ .dram ∨ a < p.base ∨ p.base + 65536 ≤ a) → t.fab.peek sp a = s.fab.peek sp a))

/-! ### Contracts, launches, stopping -/

/-- At most one contract is armed and one staged (each is one optional field). A LOAD_CONTRACT in READY or RUNNING, with debug
locked, its image inside one HOST_SHARED region, whose checks 1 to 18 pass and whose test records all agree, makes the contract
the staged one, whatever was staged before: only the armed and the new contract hold ring numbers afterwards. The armed
contract and the launches stay; the resident part of its checker model is in CKC's SRAM at the slot that the armed contract does
not use, byte for byte from the image (the memories in canonical form, which every step keeps). A LOAD_CONTRACT in the same states that arrives while an ARM_CONTRACT is pending returns
NO_RESOURCE and has no other effect. While the last trailer of an old contract is due, the command waits (the model's choice, log 175). -/
def Obligations.LoadContractStagesTheImage : Prop :=
  (∀ (s : State) (ring : Nat) (pk : Packet) (sigOk : Bool) (d : Draft) (place base neg : Nat), s.Canonical → s.Starts ring 0x20 pk →
    (s.pwr.state = .ready ∨ s.pwr.state = .running) → s.sec.unlocked = false →
    s.mss.inOne tagShared (pk.u 0x10 8) (pk.u 0x18 4) = true → s.ctr.old = none → d = parseImage (fun a n => s.dramLe (pk.u 0x10 8 + a) n) →
    s.check1 d (pk.u 0x18 4) = some (place, base) →
    neg = (match s.cpx.client? pk.client with
      | some c => (match c.versions with | some v => v.contract | none => 0)
      | none => 0) →
    s.bumpFree.loadChecks d (pk.u 0x18 4) neg sigOk = none →
    ∃ t, exec (.loadContract ring sigOk none) s = .next t ∧ t.ctr.staged = some (d.finish place base) ∧
      t.ctr.armed = s.ctr.armed ∧ t.ctr.old = none ∧ t.ctr.placed = s.ctr.placed ∧ t.ctr.prog = s.ctr.prog ∧
      t.ctr.ringRanges = (s.ctr.armed.toList ++ [d.finish place base]).map
        (fun k => (k.ringBase, k.hdr.ringCount)) ∧
      (∀ i, i < d.con.model.resident → t.fab.peek .ckc (modelBase (1 - s.ckc.slotArmed) + i) =
        BitVec.ofNat 8 (s.dramLe (pk.u 0x10 8 + (d.con.model.off + i)) 1))) ∧
  (∀ (s : State) (ring : Nat) (pk : Packet) (sigOk : Bool) (inj : Option Nat), s.Starts ring 0x20 pk →
    (s.pwr.state = .ready ∨ s.pwr.state = .running) → s.sec.unlocked = false →
    s.mss.inOne tagShared (pk.u 0x10 8) (pk.u 0x18 4) = true → s.ctr.old = none → s.ctr.armPending.isSome = true →
    exec (.loadContract ring sigOk inj) s = .next ((s.markStarted pk).noRes (s.begun pk) 0)) ∧
  (∀ (s : State) (ring : Nat) (sigOk : Bool) (inj : Option Nat), s.ctr.old.isSome = true →
    exec (.loadContract ring sigOk inj) s = .next s)

/-- ARM_CONTRACT with a staged contract, of a negotiated tile format and no other ARM pending. With no contract armed: when the staged
one's cores have settled it is the armed one at once, nothing is staged, the model slot changes, DONE names the next frame and the
state is RUNNING; until they have, the swap is pending without a reply. With one armed: an overlap of output storage or
emission (R67) replies CONTRACT_REJECTED 0x10; else the contracts stay and the swap is pending, without a reply. Nothing staged
replies BAD_PARAM, an ARM pending NO_RESOURCE, a format not negotiated VERSION_MISMATCH. LAUNCH_AT, with a contract to run and a
VEHICLE_TIME from now to 10 s ahead: with no launch placed, the launch is placed at the first grid point from it that is not too early
(the points passed over all are), DONE names its count, and nothing else of the contracts changes; with one placed, a point
that is late enough (R366) becomes the grid, the placed launch stays and DONE names its count, and one too early replies
BAD_PARAM, as do a time outside that span and a missing contract. -/
def Obligations.ArmAndLaunchAt : Prop :=
  (∀ (s : State) (ring : Nat) (pk : Packet) (n : Contract), s.Starts ring 0x21 pk → s.ctr.staged = some n →
    s.ctr.armPending = none → s.tileFormatOk n = true →
    (s.ctr.armed = none → s.ctrSettled n = true →
      ∃ u : State, exec (.armContract ring) s = .next ((u.done (s.begun pk) s.ctr.nextFrame).enter .running) ∧ u.ctr.armed = some n ∧
        u.ctr.staged = none ∧ u.ctr.armPending = none ∧ u.ckc.slotArmed = 1 - s.ckc.slotArmed ∧ u.fab = s.fab ∧ u.hif = s.hif) ∧
    (s.ctr.armed = none → s.ctrSettled n = false →
      exec (.armContract ring) s = .next ((s.markStarted pk).onCtr fun c => { c with armPending := some (s.begun pk) })) ∧
    (∀ o, s.ctr.armed = some o → armOverlap o n = false →
      ∃ t, exec (.armContract ring) s = .next t ∧ t.ctr = { s.ctr with armPending := some (s.begun pk) } ∧
        t.hif = s.hif ∧ t.pwr = s.pwr ∧ t.fab.dram = s.fab.dram ∧ t.fab.sb = s.fab.sb ∧ t.fab.spad = s.fab.spad) ∧
    (∀ o, s.ctr.armed = some o → armOverlap o n = true → exec (.armContract ring) s =
      .next ((s.markStarted pk).reply (s.begun pk) stRejected 0x10 (0xFFFFFFFF * 2 ^ 32)))) ∧
  (∀ (s : State) (ring : Nat) (pk : Packet), s.Starts ring 0x21 pk →
    (s.ctr.staged = none → exec (.armContract ring) s = .next ((s.markStarted pk).bad (s.begun pk) 0)) ∧
    (∀ n, s.ctr.staged = some n → s.ctr.armPending.isSome = true →
      exec (.armContract ring) s = .next ((s.markStarted pk).noRes (s.begun pk) 0)) ∧
    (∀ n, s.ctr.staged = some n → s.ctr.armPending = none → s.tileFormatOk n = false →
      exec (.armContract ring) s = .next ((s.markStarted pk).reply (s.begun pk) stVersion 2 0))) ∧
  (∀ (s : State) (ring : Nat) (pk : Packet) (c : Contract), s.Starts ring 0x22 pk → s.launchContract = some c →
    s.vnow ≤ sext 64 (pk.u 0x10 8) → sext 64 (pk.u 0x10 8) ≤ s.vnow + 10000000000 →
    (s.ctr.placed = none → ∃ (u : State) (p : Placed) (k : Nat), exec (.launchAt ring) s = .next (u.done (s.begun pk) p.count) ∧
      u.ctr = { s.ctr with placed := some p } ∧ u.fab = s.fab ∧ u.cpx = (s.markStarted pk).cpx ∧ p.count = countAt s.tim p.vtime ∧
      p.vtime = sext 64 (pk.u 0x10 8) + k * c.hdr.frameCycle ∧
      (∀ j : Nat, j < k → countAt s.tim (sext 64 (pk.u 0x10 8) + j * c.hdr.frameCycle) <
        launchMin s.ctr.past.head? (s.ctr.past.drop 1).head?) ∧
      (launchMin s.ctr.past.head? (s.ctr.past.drop 1).head? ≤ countAt s.tim (sext 64 (pk.u 0x10 8)) → k = 0)) ∧
    (∀ p, s.ctr.placed = some p →
      (launchMin (some (c.pastAt p.count)) s.ctr.past.head? ≤ countAt s.tim (sext 64 (pk.u 0x10 8)) →
        exec (.launchAt ring) s = .next ((((s.markStarted pk).onTim fun m => { m with launchSeen := true }).onCtr fun x =>
          { x with grid := some { next := sext 64 (pk.u 0x10 8) } }).done (s.begun pk) (countAt s.tim (sext 64 (pk.u 0x10 8))))) ∧
      (countAt s.tim (sext 64 (pk.u 0x10 8)) < launchMin (some (c.pastAt p.count)) s.ctr.past.head? →
        exec (.launchAt ring) s = .next ((s.markStarted pk).bad (s.begun pk) 0x10)))) ∧
  (∀ (s : State) (ring : Nat) (pk : Packet), s.Starts ring 0x22 pk →
    (s.launchContract = none → exec (.launchAt ring) s = .next ((s.markStarted pk).bad (s.begun pk) 0)) ∧
    (∀ c, s.launchContract = some c →
      (sext 64 (pk.u 0x10 8) < s.vnow ∨ s.vnow + 10000000000 < sext 64 (pk.u 0x10 8)) →
      exec (.launchAt ring) s = .next ((s.markStarted pk).bad (s.begun pk) 0x10)))

/-- When the placed launch's time arrives (RST_N high, a contract to run): TMB is at or past its count, the running QM command
has been taken off the fabric and the QM window is closed, the frame number rises by one, the frame is EMT's newest with its
number, launch count and grid, no earlier frame leaves EMT, and the next launch is placed. With no program running and no frame waiting, the frame
program of this number runs; with one running, it goes on and the new frame waits behind it. PREEMPTION_KILL_TOKEN, with a
launch placed, no program running and the window open, takes the running QM command off the fabric and closes the window, at or
after 4 µs before the launch. -/
def Obligations.LaunchStartsAFrame : Prop :=
  (∀ (s : State) (p : Placed) (c : Contract), s.pins.rstN = true → s.ctr.placed = some p → s.nextContract = some c →
    p.count < 2 ^ 64 →
    ∃ t, exec .launch s = .next t ∧ p.count ≤ t.now ∧ t.cpx.qm = none ∧ t.cpx.windowOpen = false ∧
      t.ctr.nextFrame = s.ctr.nextFrame + 1 ∧ t.ctr.placed.isSome = true ∧ t.ctr.grid = none ∧ t.tim.launchSeen = true ∧
      t.emt.frames.length = s.emt.frames.length + 1 ∧
      (∃ f, t.emt.frames.getLast? = some f ∧ f.frame = s.ctr.nextFrame ∧ f.launch = p.count ∧ f.tiles = c.hdr.tiles ∧
        f.gridW = c.hdr.gridW ∧ f.nextSlot = 0) ∧
      (s.ctr.prog.running = false → s.ctr.lateStart = [] → t.ctr.prog.running = true ∧ t.ctr.prog.frame = s.ctr.nextFrame ∧
        t.ctr.prog.launch = p.count ∧ t.ctr.prog.committed = []) ∧
      (s.ctr.prog.running = true → t.ctr.prog = s.ctr.prog ∧ t.ctr.lateStart.length = s.ctr.lateStart.length + 1)) ∧
  (∀ (s : State) (p : Placed), s.pins.rstN = true → s.ctr.placed = some p → s.ctr.prog.running = false →
    s.cpx.windowOpen = true → p.count < 2 ^ 64 →
    ∃ t, exec .preemptionKillToken s = .next t ∧ t.cpx.qm = none ∧ t.cpx.windowOpen = false ∧ p.count - 4000 ≤ t.now ∧
      t.ctr.placed = some p)

/-- STOP_FRAMES (ABORT 0, or 1 from version 2.3 on) leaves no launch placed and no grid, and the armed contract, the running program and
the fabric as they were. When no frame was ever launched it replies DONE with 0xFFFF_FFFF. When the last launched frame still has its
trailer to come, or ABORT is 1 and a frame program runs, it waits for that frame, which it names, without a reply; else it replies
DONE with that frame. Another ABORT replies BAD_PARAM. PROGRAM_ABORTED, when a STOP_FRAMES with ABORT waits whose last frame's trailer
is out while its program runs, stops the program: no step of any core or engine is in progress, every core and engine is halted, no
ring is bound, no late frame waits, the QM window is open, and STOP_FRAMES replies DONE with the frame and bit 32 set. -/
def Obligations.StopFramesCancelsAndAborts : Prop :=
  (∀ (s : State) (ring : Nat) (pk : Packet), s.Starts ring 0x23 pk → pk.u 0x10 1 ≤ 1 →
    (pk.u 0x10 1 = 1 → 0x203 ≤ s.cpx.proto pk.client) →
    (s.ctr.nextFrame = 0 → ∃ u : State, exec (.stopFrames ring) s = .next (u.done (s.begun pk) 0xFFFFFFFF) ∧
      u.ctr = { s.ctr with placed := none, grid := none } ∧ u.fab = s.fab) ∧
    (s.ctr.nextFrame ≠ 0 → ((∃ f ∈ s.emt.frames, f.frame = s.ctr.nextFrame - 1) ∨ (pk.u 0x10 1 = 1 ∧ s.ctr.prog.running = true)) →
      ∃ t, exec (.stopFrames ring) s = .next t ∧ t.ctr = { s.ctr with placed := none, grid := none } ∧ t.fab = s.fab ∧
        (s.ckc.split = none → t.hif = s.hif) ∧ t.cpx.stop =
          some { pkt := s.begun pk, abort := decide (pk.u 0x10 1 = 1), frame := s.ctr.nextFrame - 1, stopped := false }) ∧
    (s.ctr.nextFrame ≠ 0 → (∀ f ∈ s.emt.frames, f.frame ≠ s.ctr.nextFrame - 1) → (pk.u 0x10 1 = 0 ∨ s.ctr.prog.running = false) →
      ∃ u : State, exec (.stopFrames ring) s = .next (u.done (s.begun pk) (s.ctr.nextFrame - 1)) ∧
        u.ctr = { s.ctr with placed := none, grid := none } ∧ u.fab = s.fab ∧ u.cpx.stop = none)) ∧
  (∀ (s : State) (ring : Nat) (pk : Packet), s.Starts ring 0x23 pk →
    (1 < pk.u 0x10 1 ∨ (pk.u 0x10 1 = 1 ∧ s.cpx.proto pk.client < 0x203)) →
    exec (.stopFrames ring) s = .next ((s.markStarted pk).bad (s.begun pk) 0x10)) ∧
  (∀ (s : State) (r : StopReq), s.pins.rstN = true → s.cpx.stop = some r → r.abort = true → s.ctr.prog.running = true →
    (∀ f ∈ s.emt.frames, f.frame ≠ r.frame) →
    ∃ u : State, exec .programAborted s = .next (u.done r.pkt (r.frame + 2 ^ 32)) ∧ u.ctr.prog.running = false ∧ u.ctr.prog.rings = [] ∧
      u.ctr.lateStart = [] ∧ u.cpx.windowOpen = true ∧ u.cpx.stop = none ∧
      (∀ k : Fin 8, (u.fab.cores.get k).run = Run.idle ∧ (u.fab.cores.get k).halted = true) ∧
      (∀ k : Fin 4, (u.fab.engines.get k).run = Run.idle ∧ (u.fab.engines.get k).halted = true) ∧ u.ctr.armed = s.ctr.armed)

/-! ### Sensor configuration -/

/-- CAMERA of an index 0-23 whose block (128 or 26,432 bytes in HOST_SHARED) is well formed, on a free port and virtual
channel, within the limits of R198, and of the same shape while a contract names the ring: at an index without a camera the
descriptor is in force at once, else it waits for the camera's next frame start; in both cases the reply is DONE. LIDAR does the
same for 0x80-0x87. CAM_PARAMS of a configured camera with well-formed parameters makes them the camera's next parameters,
leaves those in force and replies DONE. DISABLE of a sensor that no contract names removes its descriptor and any that waits, changes
no other sensor and replies DONE. -/
def Obligations.SensorsAreConfigured : Prop :=
  (∀ (s : State) (ring : Nat) (pk : Packet) (b : List Byte) (p : CamParams) (i : Nat), s.Starts ring 0x50 pk → pk.u 0x10 1 = 0 →
    pk.u 0x11 1 = i → i ≤ 23 → (pk.u 0x14 4 = 128 ∨ pk.u 0x14 4 = 26432) → s.sensorBlock pk = some b →
    (if pk.u 0x14 4 = 26432 then CamParams.parse (b.drop 128)
     else some (((s.sen.cam i).map fun c => c.nextParams.getD c.params).getD CamParams.default)) = some p →
    (Camera.parse b p).ok s.mss b = true →
    (∀ k ∈ s.sen.cams, k.1 ≠ i → k.2.port = (Camera.parse b p).port → k.2.vc ≠ (Camera.parse b p).vc) →
    (s.ctr.names (0x100 + i) = true → ∀ o, s.sen.cam i = some o → o.sameShape (Camera.parse b p) = true) →
    s.sen.camFits i (Camera.parse b p) = true →
    ∃ t, exec (.camera ring) s = .next t ∧ t = ((s.markStarted pk).putCamera i (Camera.parse b p)).done (s.begun pk) 0 ∧
      (s.sen.cam i = none → vget t.sen.cameras i none = some (Camera.parse b p)) ∧
      (∀ o, s.sen.cam i = some o → t.sen.cameras = s.sen.cameras ∧ (vget t.sen.camNext i none).isSome = true) ∧
      (∀ j, j ≠ i → t.sen.cam j = s.sen.cam j) ∧ t.sen.lidars = s.sen.lidars) ∧
  (∀ (s : State) (ring : Nat) (pk : Packet) (b : List Byte) (p : CamParams) (c : Camera), s.Starts ring 0x50 pk → pk.u 0x10 1 = 1 →
    pk.u 0x11 1 ≤ 23 → vget s.sen.cameras (pk.u 0x11 1) none = some c → pk.u 0x14 4 = 26304 → s.sensorBlock pk = some b →
    CamParams.parse b = some p →
    ∃ t : State, exec (.camParams ring) s = .next (t.done (s.begun pk) 0) ∧
      vget t.sen.cameras (pk.u 0x11 1) none = some { c with nextParams := some p } ∧
      (∀ j, j ≠ pk.u 0x11 1 → t.sen.cam j = s.sen.cam j) ∧ t.sen.lidars = s.sen.lidars ∧ t.fab = s.fab ∧ t.hif = s.hif) ∧
  (∀ (s : State) (ring : Nat) (pk : Packet) (b : List Byte) (i : Nat), s.Starts ring 0x50 pk → pk.u 0x10 1 = 2 →
    pk.u 0x11 1 = 0x80 + i → i ≤ 7 → s.sensorBlock pk = some b → 288 ≤ pk.u 0x14 4 →
    pk.u 0x14 4 = 288 + 16 * blk b 0x109 1 + 8 * blk b 0x11C 2 → (Lidar.parse b s.vnow).ok s.mss b = true →
    s.ctr.names (0x200 + i) = false → s.sen.lidFits i (Lidar.parse b s.vnow) = true →
    ∃ t : State, exec (.lidar ring) s = .next (t.done (s.begun pk) 0) ∧
      (vget s.sen.lidars i none = none → vget t.sen.lidars i none = some (Lidar.parse b s.vnow)) ∧
      (∀ o, vget s.sen.lidars i none = some o → vget t.sen.lidars i none = some o ∧
        vget t.sen.lidNext i none = some (Lidar.parse b s.vnow)) ∧ t.sen.cameras = s.sen.cameras ∧ t.ctr = s.ctr) ∧
  (∀ (s : State) (ring : Nat) (pk : Packet) (i : Nat), s.Starts ring 0x50 pk → pk.u 0x10 1 = 5 → pk.u 0x11 1 = i →
    pk.u 0x14 4 = 0 →
    (i ≤ 23 → s.ctr.names (0x100 + i) = false → ∃ t : State, exec (.disable ring) s = .next (t.done (s.begun pk) 0) ∧ t.sen.cam i = none ∧
      vget t.sen.camNext i none = none ∧ (∀ j, j ≠ i → t.sen.cam j = s.sen.cam j) ∧ t.sen.lidars = s.sen.lidars ∧ t.fab = s.fab) ∧
    (0x80 ≤ i → i ≤ 0x87 → s.ctr.names (0x200 + (i - 0x80)) = false → ∃ t : State, exec (.disable ring) s = .next (t.done (s.begun pk) 0) ∧
      vget t.sen.lidars (i - 0x80) none = none ∧ vget t.sen.lidNext (i - 0x80) none = none ∧ t.sen.cameras = s.sen.cameras ∧
      t.fab = s.fab))

/-- MOTION with a 32-byte block in HOST_SHARED whose last 8 bytes are zero adds its motion record to those held (four at most,
the latest kept), hands the block to CKC for agreement (unless CKC is halted) and replies DONE. CCI with a well-formed block appends
the operation, with its target, speed and transfers, to its controller's queue without a reply. When the operation at the front of a
controller ends after `done` transfers, completed or abandoned at a clock-stretch timeout, it leaves the queue, the bytes of those
transfers have gone over the controller's wire, the words of their reads are posted to its destination, and then it replies DONE with
the number of transfers done. -/
def Obligations.MotionAndCameraControl : Prop :=
  (∀ (s : State) (ring : Nat) (pk : Packet) (b : List Byte), s.Starts ring 0x50 pk → pk.u 0x10 1 = 3 → pk.u 0x14 4 = 32 →
    s.sensorBlock pk = some b → blkZero b 0x18 8 = true →
    exec (.motion ring) s = .next ((((s.markStarted pk).onSen fun x =>
      { x with motionOrder := x.motionOrder + 1, motions := keepMotion x.motions (Motion.mk (sext 64 (blk b 0 8))
          (BitVec.ofNat 32 (blk b 8 4)) (BitVec.ofNat 32 (blk b 0xC 4)) (BitVec.ofNat 32 (blk b 0x10 4))
          (BitVec.ofNat 32 (blk b 0x14 4)) s.sen.motionOrder) }).onCkc fun c =>
      if c.mode = .halted then c else { c with inputs := c.inputs ++ [.motion (leNat b)] }).done (s.begun pk) 0)) ∧
  (∀ (s : State) (ring : Nat) (pk : Packet) (b : List Byte), s.Starts ring 0x50 pk → pk.u 0x10 1 = 4 → s.sensorBlock pk = some b →
    pk.u 0x14 4 = 16 + 8 * blk b 3 1 → blk b 0 1 ≤ 3 → blk b 1 1 ≤ 127 → blk b 2 1 ≤ 2 → 1 ≤ blk b 3 1 → blk b 3 1 ≤ 64 →
    blkZero b 4 12 = true → (∀ k, k < blk b 3 1 → cciTransferOk b k = true) → pk.u 0x20 8 % 64 = 0 →
    exec (.cci ring) s = .next ((s.markStarted pk).onSen fun x =>
      { x with i2c := vset x.i2c (blk b 0 1) (vget x.i2c (blk b 0 1) [] ++
          [{ pkt := s.begun pk, target := blk b 1 1, speed := blk b 2 1,
             transfers := (List.range (blk b 3 1)).map (CciTransfer.parse b), dest := pk.u 0x20 8 }]) })) ∧
  (∀ (s : State) (ctl : Fin 4) (done : Nat) (reads : List Word) (op : CciOp) (rest : List CciOp), s.pins.rstN = true →
    vget s.sen.i2c ctl.val [] = op :: rest →
    ∃ u ws, u = s.onSen (fun x =>
        { x with i2c := vset x.i2c ctl.val rest,
                 i2cSent := vset x.i2cSent ctl.val (vget x.i2cSent ctl.val [] ++ (op.transfers.take done).map fun t => t.wire op.target) }) ∧
      ws = cciReads (op.transfers.take done) reads ∧
      exec (.cciOperationComplete ctl done reads) s = .next ((if ws = [] then u else u.post (.block op.dest
        (ws.flatMap fun w => leBytes 4 w.toNat))).done op.pkt (min done op.transfers.length)) ∧
      exec (.i2cClockStretchTimeout ctl done reads) s = exec (.cciOperationComplete ctl done reads) s)

/-- FSYNC_SCHEDULE with every field of its MODE in range replies DONE; MODE 0 is in force at once without placed edges and
drops an entry that waited; MODE 1 and 2 wait as the output's next entry and leave the entry in force. With the servo running,
FSYNC_PLACEMENT appends one placed edge, not before 1 ms ahead of its vehicle time, to the MODE 1 entry whose next edge is the
earlier: the one in force, or the one that waits without a placed edge. FSYNC_EDGE drives the earliest placed edge of the two: TMB is
at or past its count, it leaves the list, and the pin is active; if it is the waiting entry's, that entry is in force from then on and
none waits. -/
def Obligations.FsyncEdgesArePlacedAndDriven : Prop :=
  (∀ (s : State) (ring : Nat) (pk : Packet), s.Starts ring 0x51 pk → pk.u 0x10 1 ≤ 7 → pk.u 0x11 1 ≤ 2 → pk.u 0x12 1 ≤ 1 →
    (pk.u 0x11 1 = 1 → 1000000 ≤ pk.u 0x20 4 ∧ pk.u 0x20 4 ≤ 1000000000 ∧ pk.u 0x24 4 < pk.u 0x20 4) →
    (pk.u 0x11 1 ≠ 0 → 100 ≤ pk.u 0x24 4 ∧ pk.u 0x24 4 ≤ 10000000) →
    (pk.u 0x11 1 = 2 → (sext 32 (pk.u 0x28 4)).natAbs ≤ 49999999) →
    ∃ t : State, exec (.fsyncSchedule ring) s = .next (t.done (s.begun pk) 0) ∧ t.fab = s.fab ∧ t.sen.cameras = s.sen.cameras ∧
      (pk.u 0x11 1 = 0 → (vget t.sen.fsync (pk.u 0x10 1) Fsync.off).mode = 0 ∧
        (vget t.sen.fsync (pk.u 0x10 1) Fsync.off).placed = [] ∧ vget t.sen.fsyncNext (pk.u 0x10 1) none = none) ∧
      (pk.u 0x11 1 ≠ 0 → t.sen.fsync = s.sen.fsync ∧ ∃ f, vget t.sen.fsyncNext (pk.u 0x10 1) none = some f ∧
        f.mode = pk.u 0x11 1 ∧ f.polarity = pk.u 0x12 1 ∧ f.t0 = sext 64 (pk.u 0x18 8) ∧ f.period = pk.u 0x20 4 ∧
        f.width = pk.u 0x24 4 ∧ f.offset = sext 32 (pk.u 0x28 4) ∧ f.placed = [])) ∧
  (∀ (s : State) (out : Fin 8) (f : Fsync), s.servoOn = true → f = vget s.sen.fsync out.val Fsync.off → f.mode = 1 →
    (∀ n, vget s.sen.fsyncNext out.val none = some n → n.mode ≠ 1 ∨ n.placed ≠ [] ∨ f.edgeAt f.nextK < n.edgeAt n.nextK) →
    ∃ t k, exec (.fsyncPlacement out) s = .next t ∧
      (vget t.sen.fsync out.val Fsync.off).placed = f.placed ++ [(k, countAt s.tim (f.edgeAt k))] ∧
      f.nextK ≤ k ∧ (vget t.sen.fsync out.val Fsync.off).nextK = k + 1 ∧ t.sen.fsyncNext = s.sen.fsyncNext ∧
      (countAt s.tim (f.edgeAt k - 1000000) < 2 ^ 64 → countAt s.tim (f.edgeAt k - 1000000) ≤ t.now)) ∧
  (∀ (s : State) (out : Fin 8) (f n : Fsync), s.servoOn = true → f = vget s.sen.fsync out.val Fsync.off →
    vget s.sen.fsyncNext out.val none = some n → n.mode = 1 → n.placed = [] → (f.mode ≠ 1 ∨ n.edgeAt n.nextK ≤ f.edgeAt f.nextK) →
    ∃ t k n', exec (.fsyncPlacement out) s = .next t ∧ vget t.sen.fsyncNext out.val none = some n' ∧
      n'.placed = [(k, countAt s.tim (n.edgeAt k))] ∧ n.nextK ≤ k ∧ n'.nextK = k + 1 ∧
      (countAt s.tim (n.edgeAt k - 1000000) < 2 ^ 64 → countAt s.tim (n.edgeAt k - 1000000) ≤ t.now)) ∧
  (∀ (s : State) (out : Fin 8) (k n : Nat) (rest : List (Nat × Nat)), s.servoOn = true →
    (vget s.sen.fsync out.val Fsync.off).placed = (k, n) :: rest →
    (∀ e b, vget s.sen.fsyncNext out.val none = some e → e.placed.head? = some b → n < b.2) → n < 2 ^ 64 →
    ∃ t, exec (.fsyncEdge out) s = .next t ∧ n ≤ t.now ∧ (vget t.sen.fsync out.val Fsync.off).placed = rest ∧
      (vget t.sen.fsync out.val Fsync.off).lastEdge = some t.now ∧ t.sen.fsyncNext = s.sen.fsyncNext ∧
      t.pins.fsync.getLsbD out.val = decide ((vget s.sen.fsync out.val Fsync.off).polarity = 0)) ∧
  (∀ (s : State) (out : Fin 8) (e : Fsync) (k n : Nat) (rest : List (Nat × Nat)), s.servoOn = true →
    vget s.sen.fsyncNext out.val none = some e → e.placed = (k, n) :: rest →
    (∀ a, (vget s.sen.fsync out.val Fsync.off).placed.head? = some a → n ≤ a.2) → n < 2 ^ 64 →
    ∃ t, exec (.fsyncEdge out) s = .next t ∧ n ≤ t.now ∧ (vget t.sen.fsync out.val Fsync.off).mode = e.mode ∧
      (vget t.sen.fsync out.val Fsync.off).placed = rest ∧ (vget t.sen.fsync out.val Fsync.off).lastEdge = some t.now ∧
      vget t.sen.fsyncNext out.val none = none ∧ t.pins.fsync.getLsbD out.val = decide (e.polarity = 0))

/-! ### Camera and lidar ingest -/

/-- With the port's receiver and CFE on and nothing held back in its input buffer. A frame start latches its count, goes to CKC for
agreement, abandons the stream's open frame, and opens a frame with the camera's next parameters in the free slot committed longest
ago (with none free the frame is dropped and counted); a waiting descriptor is in place from here. A good long packet of the open
frame's data type inside its window, with enough pixels (excess ones are counted), appends the line's window; one of a type outside
Table 8.1 is counted and otherwise ignored. A frame end within the repair limit completes the frame to its height and ends it; beyond
the limit the frame is abandoned, its slot free. While a test frame is in the pipeline, traffic waits in order. When the test frame is
complete without an error, the frame commits: its slot in LPDDR5X holds the 64-byte header and the stages' output, SEQ rises by one,
DROPS is zero, and no other byte of LPDDR5X, the shared buffer or a scratchpad changes; an ECC error abandons it instead, and the
first in succession leaves the fabric as it was. -/
def Obligations.CameraFramesAreReceived : Prop :=
  (∀ (s : State) (port : Fin 8) (vc : Fin 16) (t i : Nat) (c : Camera) (r : DevRing), s.sen.camAt port.val vc.val = some i →
    (∀ k, s.sen.camOpen port.val vc.val = some k → k = i) → s.cameraOn port.val = true → s.sen.csiBusy port.val = false →
    vget s.sen.csiWait port.val [] = [] → vget s.sen.camNext i none = none → vget s.sen.cameras i none = some c → t < 2 ^ 64 →
    r = (match c.frame with
      | some f => match f.slot with | some k => c.ring.abandon (some k) | none => c.ring
      | none => c.ring) →
    ∃ u c' f, exec (.frameStart port vc t) s = .next u ∧ t ≤ u.now ∧ vget u.sen.cameras i none = some c' ∧ c'.frame = some f ∧
      f.slot = r.freeSlot ∧ f.lines = [] ∧ f.ended = false ∧ f.tStart = u.now ∧ c'.params = c.nextParams.getD c.params ∧
      f.params = c'.params ∧ c'.nextParams = none ∧ c'.ring.seq = c.ring.seq ∧
      (r.freeSlot = none → c'.ring.drops = min (r.drops + 1) (2 ^ 16 - 1)) ∧
      (s.ckc.mode ≠ .halted → u.ckc.inputs = s.ckc.inputs ++ [.frameEvent port.val vc.val false u.now]) ∧
      (∀ j, j ≠ i → vget u.sen.cameras j none = vget s.sen.cameras j none) ∧ u.fab = s.fab) ∧
  (∀ (s : State) (port : Fin 8) (vc : Fin 16) (t i : Nat) (n : Camera), s.sen.camAt port.val vc.val = some i →
    s.cameraOn port.val = true → s.sen.csiBusy port.val = false → vget s.sen.csiWait port.val [] = [] →
    vget s.sen.camNext i none = some n → i < 24 → t < 2 ^ 64 →
    ∃ u c', exec (.frameStart port vc t) s = .next u ∧ vget u.sen.camNext i none = none ∧ vget u.sen.cameras i none = some c' ∧
      c'.port = n.port ∧ c'.vc = n.vc ∧ c'.dataType = n.dataType ∧ c'.w = n.w ∧ c'.h = n.h ∧ c'.frame.isSome = true ∧ u.fab = s.fab) ∧
  (∀ (s : State) (port : Fin 8) (vc : Fin 16) (i : Nat) (c : Camera) (f : CamFrame) (p : List Byte),
    s.sen.camOpen port.val vc.val = some i → s.cameraOn port.val = true → s.receiverOn port.val = true →
    s.sen.csiBusy port.val = false → vget s.sen.csiWait port.val [] = [] → p.length ≤ 262144 →
    vget s.sen.cameras i none = some c → c.frame = some f → csiSupported c.dataType = true → c.y0 ≤ f.lineNo →
    f.lineNo < c.y0 + c.h → c.x0 + c.w ≤ (unpackRaw c.dataType p).length →
    ∃ f', f' = { f with lineNo := f.lineNo + 1, lines := f.lines ++ [((unpackRaw c.dataType p).drop c.x0).take c.w] } ∧
      exec (.longPacket port vc c.dataType .good true p) s =
        .next (((if c.x0 + c.w < (unpackRaw c.dataType p).length then s.countCsi port.val 5 else s).setCamera i
          { c with frame := some f' }).onSen fun x => { x with csiWait := vset x.csiWait port.val [] })) ∧
  (∀ (s : State) (port : Fin 8) (vc : Fin 16) (dt : Nat) (p : List Byte), s.receiverOn port.val = true → csiSupported dt = false →
    exec (.longPacket port vc dt .good true p) s = .next (s.countCsi port.val 3)) ∧
  (∀ (s : State) (port : Fin 8) (vc : Fin 16) (dt : Nat) (p : List Byte), s.receiverOn port.val = true → csiSupported dt = true →
    s.sen.csiBusy port.val = true → ((vget s.sen.csiWait port.val []).map CsiItem.size).sum + p.length ≤ 262144 →
    exec (.longPacket port vc dt .good true p) s = .next (s.onSen fun x =>
      { x with csiWait := vset x.csiWait port.val (vget x.csiWait port.val [] ++ [.packet vc.val dt (some p)]) })) ∧
  (∀ (s : State) (port : Fin 8) (vc : Fin 16) (t i k : Nat) (c : Camera) (f : CamFrame), s.sen.camOpen port.val vc.val = some i →
    s.cameraOn port.val = true → s.receiverOn port.val = true → s.sen.csiBusy port.val = false → vget s.sen.csiWait port.val [] = [] →
    vget s.sen.cameras i none = some c → c.frame = some f → f.slot = some k → t < 2 ^ 64 → f.lines.length ≤ c.h →
    (f.repaired + (c.h - f.lines.length) ≤ c.repairLimit → ∃ u f', exec (.frameEnd port vc t) s = .next u ∧ t ≤ u.now ∧
      vget u.sen.cameras i none = some { c with frame := some f' } ∧ f'.ended = true ∧ f'.lines.length = c.h ∧ f'.tEnd = u.now ∧
      f'.pattern = (c.ring.seq + 1) % 4 ∧ f'.repaired = f.repaired + (c.h - f.lines.length) ∧ u.fab = s.fab) ∧
    (c.repairLimit < f.repaired + (c.h - f.lines.length) → ∃ u, exec (.frameEnd port vc t) s = .next u ∧
      vget u.sen.cameras i none = some { c with frame := none, ring := c.ring.abandon (some k) } ∧ u.fab = s.fab)) ∧
  (∀ (s : State) (cam : Fin 24) (c : Camera) (f : CamFrame) (k : Nat), vget s.sen.cameras cam.val none = some c →
    c.frame = some f → f.ended = true → s.cameraOn c.port = true → f.slot = some k → vget s.sen.csiWait c.port [] = [] →
    (∃ u st c', exec (.testFrameComplete cam none none) s = .next u ∧
      u.fab.dram = (s.fab.pokes .dram (c.ring.base + k * c.ring.slotSize)
        (c.header cam.val f st (testSignature cam.val c f.params f.pattern) (testSignature cam.val c f.params f.pattern) ++
          cfePayload (cfeLevels c f.params f.lines))).dram ∧ u.fab.sb = s.fab.sb ∧ u.fab.spad = s.fab.spad ∧
      vget u.sen.cameras cam.val none = some c' ∧ c'.frame = none ∧ c'.ring.last = some k ∧ c'.ring.drops = 0 ∧
      c'.ring.seq = (c.ring.seq + 1) % 2 ^ 32 ∧ c'.ring.status = st ∧ u.evr = s.evr) ∧
    (∀ a, vget s.sen.eccLost (cfeOf c.port) 0 = 0 → ∃ u, exec (.testFrameComplete cam (some a) none) s = .next u ∧ u.fab = s.fab ∧
      vget u.sen.cameras cam.val none = some { c with ring := c.ring.abandon (some k), frame := none } ∧
      vget u.sen.eccLost (cfeOf c.port) 0 = 1))

/-- A datagram belongs to a lidar exactly when port, IP version and source address, destination UDP port and VID (untagged:
0xFFFF) match (R217). With the port's domain on: a frame that the port accepts as a datagram matching no lidar is discarded and
counted; one that matches (the lowest index first), long enough, with room in the input buffer and the LPE on, is taken by that lidar
at the count latched at its start of frame, and no other lidar changes; a frame that the port does not accept, with headers that match
no lidar, is counted with its reason. In each case TMB is at or past that count and no byte of LPDDR5X changes. (The lidar has no
windows left of an earlier descriptor.) -/
def Obligations.LidarDatagramsGoToTheirLidar : Prop :=
  (∀ (l : Lidar) (port : Nat) (f : Datagram), l.takes port f = true ↔ (l.port = port ∧ l.ipVer = f.ipVer ∧ l.srcIp = f.srcIp ∧
    l.udpPort = f.udpPort ∧ l.vid = f.vid.getD 0xFFFF)) ∧
  (∀ (s : State) (port : Fin 4) (frame : List Byte) (full : Bool) (d : Datagram) (t : Nat), s.pins.rstN = true →
    s.pwr.domains.getLsbD 46 = true → (receive frame).pause = false → (receive frame).discard = none →
    (receive frame).datagram = some d → t < 2 ^ 64 →
    ((∀ i l, i < 8 → (vget s.sen.lidars i none = some l ∨ vget s.sen.lidOld i none = some l) → l.takes port.val d = false) →
      ∃ u, exec (.lidarDatagram port ⟨frame, full⟩ t) s = .next u ∧ t ≤ u.now ∧ u = (s.advance t).countEth port.val ethNoLidar ∧
        u.fab = s.fab ∧ u.sen.lidars = s.sen.lidars) ∧
    (∀ i l, i < 8 → vget s.sen.lidars i none = some l → l.takes port.val d = true → vget s.sen.lidOld i none = none →
      (∀ j k, j < i → vget s.sen.lidars j none = some k → k.takes port.val d = false) → s.lpeOn = true →
      l.desc.payloadMin ≤ d.payload.length →
      ∃ u, exec (.lidarDatagram port ⟨frame, false⟩ t) s = .next u ∧ t ≤ u.now ∧
        vget u.sen.lidars i none = some (l.takeDatagram (fun _ => true) d.payload u.vnow u.now) ∧
        (∀ j, j ≠ i → vget u.sen.lidars j none = vget s.sen.lidars j none) ∧ u.fab.dram = s.fab.dram ∧
        u.sen.ethCounts = s.sen.ethCounts)) ∧
  (∀ (s : State) (port : Fin 4) (frame : List Byte) (full : Bool) (n t : Nat), s.pins.rstN = true → s.pwr.domains.getLsbD 46 = true →
    (receive frame).pause = false → (receive frame).discard = some n → t < 2 ^ 64 →
    (∀ d i l, (receive frame).datagram = some d → i < 8 → (vget s.sen.lidars i none = some l ∨ vget s.sen.lidOld i none = some l) →
      l.takes port.val d = false) →
    ∃ u, exec (.lidarDatagram port ⟨frame, full⟩ t) s = .next u ∧ t ≤ u.now ∧ u = (s.advance t).countEth port.val n ∧ u.fab = s.fab)

/-- With the LPE on: LIDAR_WINDOW_OPEN of a configured lidar without a waiting descriptor opens its next window, at or after the
window's start in vehicle time, in the free slot committed longest ago (with none free the window is dropped and counted).
LIDAR_WINDOW_COMMIT of the first open window, with a slot and no ECC error, of the lidar whose windows commit next (one replaced by a
later descriptor while it has windows open) commits it: the slot in LPDDR5X holds a 64-byte header and the scattered grid, SEQ rises
by one, DROPS is zero, the window is gone, and no other memory changes. -/
def Obligations.LidarWindowsOpenAndCommit : Prop :=
  (∀ (s : State) (lid : Fin 8) (l : Lidar), s.lpeOn = true → vget s.sen.lidars lid.val none = some l →
    vget s.sen.lidNext lid.val none = none →
    ∃ u l' w, exec (.lidarWindowOpen lid) s = .next u ∧ vget u.sen.lidars lid.val none = some l' ∧ w ∈ l'.windows ∧
      w.k = l.nextK ∧ w.opened = true ∧ w.slot = l.ring.freeSlot ∧ l'.nextK = l.nextK + 1 ∧
      (l.ring.freeSlot = none → l'.ring.drops = min (l.ring.drops + 1) (2 ^ 16 - 1)) ∧
      (countAt s.tim (l.startOf l.nextK) < 2 ^ 64 → countAt s.tim (l.startOf l.nextK) ≤ u.now) ∧ u.fab = s.fab) ∧
  (∀ (s : State) (lid : Fin 8) (l : Lidar) (old : Bool) (w : Window) (k : Nat), s.lpeOn = true →
    s.sen.committing lid.val = some (l, old) → l.windows.find? (fun w => w.opened) = some w → w.slot = some k →
    ∃ u l' head, exec (.lidarWindowCommit lid none) s = .next u ∧ head.length = 64 ∧
      u.fab = s.fab.pokes .dram (l.ring.base + k * l.ring.slotSize) (head ++
        (l.scatter (l.motionFor s.sen.motions (l.startOf (w.k + 1))) (l.startOf (w.k + 1)) w.points).payload) ∧
      u.sen.lidars = (s.sen.putCommitted lid.val l' old).lidars ∧ u.sen.lidOld = (s.sen.putCommitted lid.val l' old).lidOld ∧
      l'.ring.last = some k ∧ l'.ring.drops = 0 ∧ l'.ring.seq = (l.ring.seq + 1) % 2 ^ 32 ∧ l'.committedK = some w.k ∧
      (∀ x ∈ l'.windows, x.k ≠ w.k))

/-- When the PCIe link goes down, requests stop and nothing else changes. When it comes up (RST_N and PERST_N high, PD45 on), it
carries requests at the trained rate and width, which are of Table 10.1 (1-4, x1, x2 or x4), and nothing else changes. A sensor port's link
going down clears exactly that port's link bit; coming up, with the port's domain on, it sets exactly that bit. -/
def Obligations.LinksGoDownAndUp : Prop :=
  (∀ s : State, exec .pcieLinkDown s = .next (s.onHif fun h => { h with linkUp := false })) ∧
  (∀ (speed width : Nat) (s : State), 1 ≤ speed → speed ≤ 4 → (width = 1 ∨ width = 2 ∨ width = 4) → s.pins.rstN = true → s.pins.perstN = true → s.pwr.domains.getLsbD 45 = true →
    exec (.pcieLinkUp speed width) s = .next (s.onHif fun h =>
      { h with linkUp := true, linkSpeed := speed, linkWidth := width })) ∧
  (∀ (s : State) (k : Fin 8), exec (.sensorLinkDown (.csi k)) s = .next (s.onSen fun x => { x with csiUp := x.csiUp &&& ~~~(1#8 <<< k.val) }) ∧
    (s.pins.rstN = true → s.pwr.domains.getLsbD (47 + cfeOf k.val) = true → exec (.sensorLinkUp (.csi k)) s =
      .next (s.onSen fun x => { x with csiUp := x.csiUp ||| (1#8 <<< k.val) }))) ∧
  (∀ (s : State) (k : Fin 4), exec (.sensorLinkDown (.eth k)) s = .next (s.onSen fun x => { x with ethUp := x.ethUp &&& ~~~(1#4 <<< k.val) }) ∧
    (s.pins.rstN = true → s.pwr.domains.getLsbD 46 = true → exec (.sensorLinkUp (.eth k)) s =
      .next (s.onSen fun x => { x with ethUp := x.ethUp ||| (1#4 <<< k.val) })))

/-! ### Time -/

/-- With the servo on and gPTP in use, SYNC measures e = source time - vehicle time at its instant and latches its count and its
error; JUMP is the newly configured JUMP_NS if there is one. Outside STEP_PENDING: when a measurement or a launch has come and |e|
is at most JUMP, vehicle time is continuous, RATE is the limited sum of the estimate and 32 e, and the eighth consecutive |e| of at
most 4 µs locks a LOCKING servo, an |e| above it unlocks a LOCKED one; when |e| is above JUMP, vehicle time and RATE are kept, e is
pending and the servo is in STEP_PENDING; when neither has come, vehicle time steps by e and the servo locks. In STEP_PENDING
without a master, or against the followed one, e replaces the pending step and nothing else of time changes; the third
consecutive e of another master within 8 µs of its run's first steps vehicle time by e and that master is followed. SYNC with gPTP
out of use changes nothing. TIME_ACCEPT_STEP in STEP_PENDING steps vehicle time by the pending error, answers it in RESULT, leaves
nothing pending and locks again; in another state it replies BAD_PARAM. -/
def Obligations.MeasurementsSlewStepOrRefuse : Prop :=
  (∀ (s : State) (src freq e : Int) (t jump : Nat), s.gptpOn = true → t < 2 ^ 64 → e = src - (s.advance t).vnow →
    jump = s.tim.jumpNext.getD s.tim.jumpNs →
    ∃ u, exec (.sync src freq t) s = .next u ∧ t ≤ u.now ∧ u.tim.lastMeas = u.now ∧
      u.tim.error = clampInt 2147483647 e ∧ u.fab = s.fab ∧ u.cpx = s.cpx ∧ u.ctr = s.ctr ∧
      (s.tim.servo ≠ .stepPending → (s.tim.firstDone = true ∨ s.tim.launchSeen = true) → e.natAbs ≤ jump →
        u.vnow = (s.advance t).vnow ∧ u.tim.rate = clampInt 2000000 (freq + clampInt 1600000 (32 * e)) ∧
        (s.tim.servo = .locking → 7 ≤ s.tim.good → e.natAbs ≤ 4000 → u.tim.servo = .locked) ∧
        (s.tim.servo = .locked → 4000 < e.natAbs → u.tim.servo = .locking)) ∧
      (s.tim.servo ≠ .stepPending → (s.tim.firstDone = true ∨ s.tim.launchSeen = true) → jump < e.natAbs →
        u.vnow = (s.advance t).vnow ∧ u.tim.rate = s.tim.rate ∧ u.tim.servo = .stepPending ∧ u.tim.pending = e) ∧
      (s.tim.servo ≠ .stepPending → s.tim.firstDone = false → s.tim.launchSeen = false →
        u.vnow = (s.advance t).vnow + e ∧ u.tim.servo = .locking) ∧
      (s.tim.servo = .stepPending → (s.tim.master = 0 ∨ s.tim.followed = some s.tim.master) →
        u.vnow = (s.advance t).vnow ∧ u.tim.rate = s.tim.rate ∧ u.tim.servo = .stepPending ∧ u.tim.pending = e) ∧
      (∀ e₀ : Int, s.tim.servo = .stepPending → s.tim.master ≠ 0 → s.tim.followed ≠ some s.tim.master →
        s.tim.run = some (s.tim.master, e₀, 2) → (e - e₀).natAbs ≤ 8000 →
        u.vnow = (s.advance t).vnow + e ∧ u.tim.servo = .locking ∧ u.tim.followed = some s.tim.master)) ∧
  (∀ (s : State) (src freq : Int) (t : Nat), s.gptpOn = false → exec (.sync src freq t) s = .next s) ∧
  (∀ (s : State) (ring : Nat) (pk : Packet), s.Starts ring 0x53 pk →
    (s.tim.servo = .stepPending → ∃ u : State, exec (.timeAcceptStep ring) s = .next (u.done (s.begun pk) (codeOf 64 s.tim.pending)) ∧
      u.vnow = s.vnow + s.tim.pending ∧ u.tim.pending = 0 ∧ u.tim.servo = .locking) ∧
    (s.tim.servo ≠ .stepPending → exec (.timeAcceptStep ring) s = .next ((s.markStarted pk).bad (s.begun pk) 0)))

/-- TIME_CONFIG in range sets JUMP_NS from the next measurement on (0: 50,000), the domain and the three enables, leaves vehicle
time, and replies DONE; a field out of range gives BAD_PARAM. With gPTP in use: Announce sets the master in force; a received
Pdelay_Req is answered with a response and its follow-up at the reception's count; a second after the last a Pdelay_Req goes out
and opens an exchange; the answer to an open exchange sets the peer delay and the rate ratio and closes it. Out of use, each of
these changes nothing. A PPS_IN edge with PPS input on and no accepted edge within the last half second latches its count and
phase; with gPTP on it is no measurement, with gPTP off it is one; a closer edge is ignored and counted. TAKE latches one count, its
vehicle time and the parameter set's number. -/
def Obligations.TimeSourcesAndMessages : Prop :=
  (∀ (s : State) (ring : Nat) (pk : Packet), s.Starts ring 0x52 pk →
    ((pk.u 0x10 4 = 0 ∨ (1000 ≤ pk.u 0x10 4 ∧ pk.u 0x10 4 ≤ 10000000)) → pk.u 0x14 1 ≤ 127 → pk.u 0x15 1 ≤ 7 →
      ∃ t : State, exec (.timeConfig ring) s = .next (t.done (s.begun pk) 0) ∧
        t.tim.jumpNext = some (if pk.u 0x10 4 = 0 then 50000 else pk.u 0x10 4) ∧ t.tim.domain = pk.u 0x14 1 ∧
        t.tim.gptp = (pk.u 0x15 1).testBit 0 ∧ t.tim.ppsInEn = (pk.u 0x15 1).testBit 1 ∧ t.tim.ppsOutEn = (pk.u 0x15 1).testBit 2 ∧
        t.vnow = s.vnow ∧ t.fab = s.fab ∧ t.ctr = s.ctr) ∧
    (¬(pk.u 0x10 4 = 0 ∨ (1000 ≤ pk.u 0x10 4 ∧ pk.u 0x10 4 ≤ 10000000)) →
      exec (.timeConfig ring) s = .next ((s.markStarted pk).bad (s.begun pk) 0x10)) ∧
    ((pk.u 0x10 4 = 0 ∨ (1000 ≤ pk.u 0x10 4 ∧ pk.u 0x10 4 ≤ 10000000)) → 127 < pk.u 0x14 1 →
      exec (.timeConfig ring) s = .next ((s.markStarted pk).bad (s.begun pk) 0x14)) ∧
    ((pk.u 0x10 4 = 0 ∨ (1000 ≤ pk.u 0x10 4 ∧ pk.u 0x10 4 ≤ 10000000)) → pk.u 0x14 1 ≤ 127 → 7 < pk.u 0x15 1 →
      exec (.timeConfig ring) s = .next ((s.markStarted pk).bad (s.begun pk) 0x15))) ∧
  (∀ (s : State) (m : DWord), s.gptpOn = true → exec (.announce m) s = .next (s.onTim fun x => { x with master := m })) ∧
  (∀ (s : State) (t : Nat), s.gptpOn = true → exec (.pdelayReq t) s = .next ((s.advance t).onTim fun m =>
    { m with sent := m.sent ++ [.pdelayResp (s.advance t).now, .pdelayRespFollowUp (s.advance t).now] })) ∧
  (∀ s : State, s.gptpOn = true → exec .pdelayReqInitiate s = .next ((s.advance (s.tim.pdelayAt + 1000000000)).onTim fun m =>
    { m with sent := m.sent ++ [.pdelayReq m.count.toNat], pdelayOpen := true, pdelayAt := m.count.toNat })) ∧
  (∀ (s : State) (d : Nat) (r : Int) (t : Nat), s.gptpOn = true → s.tim.pdelayOpen = true →
    exec (.pdelayResp d r t) s = .next ((s.advance t).onTim fun m =>
      { m with peerDelay := d, ratio := r, asCapable := true, pdelayOpen := false })) ∧
  (∀ (s : State) (m : DWord) (d : Nat) (r : Int) (t : Nat), s.gptpOn = false → exec (.announce m) s = .next s ∧
    exec (.pdelayReq t) s = .next s ∧ exec .pdelayReqInitiate s = .next s ∧ exec (.pdelayResp d r t) s = .next s) ∧
  (∀ (s : State) (freq : Int) (t : Nat), s.servoOn = true → s.tim.ppsInEn = true → t < 2 ^ 64 →
    ((s.tim.ppsSeen = true → s.tim.ppsCount + 500000000 ≤ (s.advance t).now) →
      ∃ u, exec (.ppsIn freq t) s = .next u ∧ t ≤ u.now ∧ u.tim.ppsCount = u.now ∧ u.tim.ppsSeen = true ∧
        u.tim.ppsPhase = nearestSecond (s.advance t).vnow - (s.advance t).vnow ∧
        (s.tim.gptp = true → u.tim.servo = s.tim.servo ∧ u.tim.lastMeas = s.tim.lastMeas ∧ u.vnow = (s.advance t).vnow) ∧
        (s.tim.gptp = false → u.tim.lastMeas = u.now ∧ u.tim.error = clampInt 2147483647 u.tim.ppsPhase)) ∧
    (s.tim.ppsSeen = true → (s.advance t).now < s.tim.ppsCount + 500000000 →
      exec (.ppsIn freq t) s = .next ((s.advance t).onTim fun m => { m with ppsIgnored := m.ppsIgnored + 1 }))) ∧
  (∀ s : State, s.bar0Open = true → exec .take s = .next (s.onTim fun m =>
    { m with snapCount := m.count, snapVtime := s.vnow, snapSeq := m.seq }))

/-- With the servo on and a source in use, LOCKING or LOCKED: at the timeout after the last measurement (375 ms with gPTP, 2 s with
PPS input) the servo holds over at the limited frequency estimate, vehicle time continuous. In HOLDOVER, at 10 s and each 60 s
after, a time event is noted. With PPS_OUT on and none placed, an edge is placed at the next second not yet driven, not before 1 ms
ahead, and the seconds passed over are counted; a placed edge is driven at its count: the pin is high, nothing is placed, and the
pulse falls 10 ms later. With the servo off, each of these changes nothing. -/
def Obligations.HoldoverAndPpsOut : Prop :=
  (∀ s : State, s.servoOn = true → (s.tim.gptp = true ∨ s.tim.ppsInEn = true) → (s.tim.servo = .locking ∨ s.tim.servo = .locked) →
    s.tim.lastMeas + (if s.tim.gptp then 375000000 else 2000000000) < 2 ^ 64 →
    ∃ u, exec .holdoverTimeout s = .next u ∧ u.tim.servo = .holdover ∧
      s.tim.lastMeas + (if s.tim.gptp then 375000000 else 2000000000) ≤ u.now ∧ u.tim.rate = clampInt 2000000 s.tim.freq ∧
      u.vnow = (s.advance (s.tim.lastMeas + if s.tim.gptp then 375000000 else 2000000000)).vnow ∧
      u.tim.holdAt = u.now ∧ u.tim.holdNoted = 0 ∧ u.fab = s.fab) ∧
  (∀ s : State, s.servoOn = true → s.tim.servo = .holdover →
    exec .holdover s = .next (((s.advance (s.tim.holdAt + (10 + 60 * s.tim.holdNoted) * 1000000000)).onTim fun m =>
      { m with holdNoted := m.holdNoted + 1 }).note 0x4004 sevWarning noUnit (10 + 60 * s.tim.holdNoted) 0 0)) ∧
  (∀ s : State, s.servoOn = true → s.tim.ppsOutEn = true → s.tim.ppsPlaced = none →
    ∃ u k, exec .ppsOutPlacement s = .next u ∧ k = s.nextPps ∧ u.tim.ppsPlaced = some (k, countAt s.tim (k * 1000000000)) ∧
      (∀ l, s.tim.ppsOutLast = some l → l < k ∧ u.tim.ppsSkipped = s.tim.ppsSkipped + (k - l - 1).toNat) ∧
      s.vnow ≤ k * 1000000000 ∧
      (countAt s.tim (k * 1000000000 - 1000000) < 2 ^ 64 → countAt s.tim (k * 1000000000 - 1000000) ≤ u.now)) ∧
  (∀ (s : State) (k : Int) (n : Nat), s.servoOn = true → s.tim.ppsOutEn = true → s.tim.ppsPlaced = some (k, n) → n < 2 ^ 64 →
    ∃ u, exec .ppsOut s = .next u ∧ n ≤ u.now ∧ u.pins.ppsOut = true ∧ u.tim.ppsPlaced = none ∧ u.tim.ppsOutLast = some k ∧
      u.tim.ppsFall = u.now + 10000000) ∧
  (∀ s : State, s.servoOn = false → exec .holdoverTimeout s = .next s ∧ exec .holdover s = .next s ∧
    exec .ppsOutPlacement s = .next s ∧ exec .ppsOut s = .next s)

/-! ### Event recorder and statistics -/

/-- With RST_N high: when no flag record or snapshot is being written and the record at the front of the write queue opens no
sector under erase, it moves to the end of the flash log, and starting a sector starts the next erase. The end of an erase keeps
the newest records: at most 1,022 sectors beside the one being filled. When a snapshot's write ends, with no flag record to be written first, it is the newest of the
126 kept, the waiting fault records are in theirs, and a trigger that came meanwhile starts one more. Nothing is reordered. -/
def Obligations.FlashLogKeepsOrder : Prop :=
  (∀ (s : State) (e : EventRec) (r : List EventRec), s.pins.rstN = true → s.evr.queue = e :: r → s.mss.flagWrite = none →
    s.evr.snapWrite = none → (s.flash.logPos % 128 = 0 → s.evr.erasing = false) →
    exec .eventFlashWrite s = .next ((s.onFlash fun f => { f with log := f.log ++ [e], logPos := f.logPos + 1 }).onEvr fun x =>
      { x with queue := r, erasing := x.erasing || decide (s.flash.logPos % 128 = 0) })) ∧
  (∀ s : State, s.pins.rstN = true → s.evr.erasing = true →
    ∃ t k, exec .sectorErase s = .next t ∧ t.flash.log = s.flash.log.drop k ∧ t.evr.erasing = false ∧
      t.flash.log.length ≤ 1022 * 128 + (s.flash.logPos - 1) % 128 + 1 ∧ t.evr.queue = s.evr.queue ∧
      (s.flash.log.length ≤ 1022 * 128 → t.flash.log = s.flash.log)) ∧
  (∀ (s : State) (img : List Byte), s.pins.rstN = true → s.mss.flagWrite = none → s.evr.snapWrite = some img →
    ∃ t, exec .snapshotWriteComplete s = .next t ∧ t.flash.snapshots.getLast? = some img ∧
      t.flash.snapSeq = s.flash.snapSeq + 1 ∧ (s.flash.snapshots.length ≤ 126 → t.flash.snapshots.length ≤ 126) ∧
      t.evr.ringQueue = [] ∧
      t.flash.faultRing = (s.flash.faultRing ++ s.evr.ringQueue).drop ((s.flash.faultRing ++ s.evr.ringQueue).length - 8128) ∧
      (s.evr.snapAgain = none → t.evr.snapWrite = none) ∧ (∀ c, s.evr.snapAgain = some c → t.evr.snapWrite.isSome = true))

/-- With RST_N high: OP_MARK comes 3,600 s of operating time after the last and notes its event; PERIODIC_SNAPSHOT 600 s after the
last, and begins a snapshot with cause 0; HISTOGRAM_TICK one second after the last, and adds one to one bin of each histogram, of each core's
temperature, of the highest VDD_CORE and of each core's rate (a full bin stays). TOKEN_REFILL of a code with fewer tokens than its limit returns one token, 60 s / LIMIT after the
last. A write of MSS_EVENT_RATE0 or 1, with BAR0 open, takes each of its four limits that is from 1 to 60 and keeps the others
as they were.
LOG_READ of 1 to 4,096 records to a 64-byte-aligned address posts the 32-byte records held, flash before queue, from the
requested SEQ on, at most as many as asked for, then replies DONE with their number and the next SEQ; with none to copy it only
replies. STATS_READ of the statistics block (WHAT 0) or the step totals (WHAT 1) into a buffer that is large enough posts the
block and replies DONE with its length; into a smaller buffer, or with more than 1 MiB, it writes nothing and replies NO_RESOURCE
with the length. -/
def Obligations.RecorderTimesLimitsAndReads : Prop :=
  (∀ s : State, s.pins.rstN = true → exec .opMark s = .next (((s.advance (s.opCount (s.evr.lastMark + 3600))).onEvr fun r =>
    { r with lastMark := r.lastMark + 3600 }).note 0x0002 sevInfo noUnit 0 0 0)) ∧
  (∀ s : State, s.pins.rstN = true → exec .periodicSnapshot s = .next (((s.advance (s.opCount (s.evr.lastSnap + 600))).onEvr fun r =>
    { r with lastSnap := r.lastSnap + 600 }).snapshot 0)) ∧
  (∀ s : State, s.pins.rstN = true → ∃ t, exec .histogramTick s = .next t ∧ t.evr.lastTick = s.evr.lastTick + 1 ∧
    t.evr.vddHist = bump s.evr.vddHist (binOf (((max (max (vget s.pwr.supply 16 0) (vget s.pwr.supply 17 0))
      (max (vget s.pwr.supply 18 0) (vget s.pwr.supply 19 0)) : Nat) - 600 : Int) / 10)) ∧
    (∀ c : Fin 8, t.evr.tjHist.get c = bump (s.evr.tjHist.get c) (binOf ((s.pwr.tjOf (.mxc c) + 320) / 40)) ∧
      t.evr.rateHist.get c = bump (s.evr.rateHist.get c) (binOf (((s.pwr.rateOf (.mxc c) : Int) - 600) / 20))) ∧
    (∀ (v : Vector Nat 32) (i j : Nat), i < 32 → vget (bump v i) j 0 =
      if j = i then min (vget v i 0 + 1) (2 ^ 32 - 1) else vget v j 0) ∧ t.evr.errors = s.evr.errors ∧ t.fab = s.fab) ∧
  (∀ (s : State) (code : Nat) (b : Bucket), s.pins.rstN = true → s.evr.buckets.find? (fun b => b.code = code) = some b →
    b.tokens < s.limitOf code → ∃ t, exec (.tokenRefill code) s = .next t ∧ (t.bucket code).tokens = b.tokens + 1 ∧
      (∀ c, c ≠ code → t.evr.buckets.find? (fun b => b.code = c) = s.evr.buckets.find? (fun b => b.code = c)) ∧
      (b.since + 60000000000 / s.limitOf code < 2 ^ 64 → b.since + 60000000000 / s.limitOf code ≤ t.now)) ∧
  (∀ (s : State) (i : Fin 2) (v : Word), s.bar0Open = true → ∃ t, exec (.mssEventRateWrite i v) s = .next t ∧
    (∀ k, k < 4 → vget t.mss.limits (4 * i.val + k) 0 =
      (if 1 ≤ v.toNat / 2 ^ (8 * k) % 64 ∧ v.toNat / 2 ^ (8 * k) % 64 ≤ 60 then v.toNat / 2 ^ (8 * k) % 64
       else vget s.mss.limits (4 * i.val + k) 0)) ∧
    (∀ j, (j < 4 * i.val ∨ 4 * i.val + 4 ≤ j) → vget t.mss.limits j 0 = vget s.mss.limits j 0) ∧ t.fab = s.fab ∧ t.flash = s.flash) ∧
  (∀ (s : State) (ring : Nat) (pk : Packet) (rs : List EventRec), s.Starts ring 0x60 pk → 1 ≤ pk.u 0x14 4 → pk.u 0x14 4 ≤ 4096 →
    pk.u 0x18 8 % 64 = 0 → rs = s.logSlice (pk.u 0x10 4) (pk.u 0x14 4) →
    rs.length ≤ pk.u 0x14 4 ∧ (∀ e ∈ rs, e ∈ s.flash.log ++ s.evr.queue) ∧
    exec (.logRead ring) s = .next ((if rs = [] then s.markStarted pk
        else (s.markStarted pk).post (.block (pk.u 0x18 8) (rs.flatMap EventRec.bytes))).done (s.begun pk)
      (rs.length + 2 ^ 32 * (match rs.getLast? with | some e => (e.seq + 1) % 2 ^ 32 | none => s.evr.nextSeq)))) ∧
  (∀ (s : State) (ring : Nat) (pk : Packet) (b : List Byte), s.Starts ring 0x62 pk → pk.u 0x10 1 ≤ 1 → pk.u 0x18 8 % 64 = 0 →
    b = (if pk.u 0x10 1 = 0 then s.statsBlock else s.totalsBlock) →
    (b.length ≤ pk.u 0x14 4 → b.length ≤ hostWriteMax →
      exec (.statsRead ring) s = .next (((s.markStarted pk).post (.block (pk.u 0x18 8) b)).done (s.begun pk) b.length)) ∧
    ((pk.u 0x14 4 < b.length ∨ hostWriteMax < b.length) → exec (.statsRead ring) s = .next ((s.markStarted pk).noRes (s.begun pk) b.length)))

/-! ### The result stream and the verdicts -/

/-- SLOT_OPEN of the emitting frame's next slot k (below the tile count, no more than 66 slots after the next band's start): at or
after its slot time one 256-byte tile record is emitted, and with CKC running it is the last record on the tap; STREAM_SEQ rises
by one and the CRC chain takes exactly this record; the frame's next slot is k + 1. A tile that is not committed is LATE and owed,
and the first LATE record over the limit latches the safe state; a committed tile leaves the tile storage's full set. No memory,
no host ring and no contract changes. -/
def Obligations.SlotsEmitOneTileRecord : Prop :=
  ∀ (s : State) (f : EmitFrame) (rest : List EmitFrame), s.pins.rstN = true → s.emt.frames = f :: rest → f.nextSlot < f.tiles →
    f.nextSlot ≤ 64 * f.nextBand + 66 → f.slotAt f.nextSlot < 2 ^ 64 →
    ∃ u g b, exec .slotOpen s = .next u ∧ f.slotAt f.nextSlot ≤ u.now ∧ u.emt.frames.head? = some g ∧ g.frame = f.frame ∧
      g.nextSlot = f.nextSlot + 1 ∧ u.emt.frames.length = s.emt.frames.length ∧ b.length = 256 ∧
      u.emt.tile.seq = (s.emt.tile.seq + 1) % 2 ^ 32 ∧
      u.emt.tile.crc = BitVec.ofNat 32 (chainCrc s.emt.tile.crc.toNat b 0xFC) ∧
      (s.ckc.mode ≠ .halted → u.emt.tap.getLast? = some (.tile, b)) ∧
      (s.emt.full.contains (f.parity, f.nextSlot) = true → g.lateTiles = f.lateTiles ∧ g.owed = f.owed ∧
        u.emt.full = s.emt.full.filter fun p => p ≠ (f.parity, f.nextSlot)) ∧
      (s.emt.full.contains (f.parity, f.nextSlot) = false → g.lateTiles = f.nextSlot :: f.lateTiles ∧
        g.owed = f.nextSlot :: f.owed ∧ (f.lateTiles.length = f.lateLimit → u.saf.latched = true)) ∧
      u.fab = s.fab ∧ u.cpx = s.cpx ∧ u.ctr = s.ctr

/-- RECORD_DELIVERY of a stream whose queue is b, then rest, with a ring r that has a free entry beyond those already written, RST_N high and
the link up: b is posted to the address of the next entry; the queue is rest; for a tile record before the eighth, only this is posted and the
ring's tail stays; otherwise the tail passes every entry written, and its index block is posted after the record. Earlier posted
writes stay in front. With no free entry nothing happens, so no entry that the host has not released is written. -/
def Obligations.RecordsAreDeliveredInOrder : Prop :=
  (∀ (s : State) (st : Stream) (b : List Byte) (rest : List (List Byte)) (r : Ring), s.pins.rstN = true → s.hif.linkUp = true →
    (s.emt.get st).queue = b :: rest → s.cpx.streamRing st = some r → r.used + (s.emt.get st).tailPend < r.entries →
    ∃ u, exec (.recordDelivery st) s = .next u ∧ (u.emt.get st).queue = rest ∧ (u.emt.get st).seq = (s.emt.get st).seq ∧
      (st = .tile → (s.emt.get st).tailPend + 1 < 8 → u.cpx = s.cpx ∧ (u.emt.get st).tailPend = (s.emt.get st).tailPend + 1 ∧
        u.hif.posted = s.hif.posted ++ [.record r.id (r.entryAddr (r.tail + (s.emt.get st).tailPend)) b]) ∧
      ((st ≠ .tile ∨ 8 ≤ (s.emt.get st).tailPend + 1) → (u.emt.get st).tailPend = 0 ∧
        ∃ more, u.hif.posted = s.hif.posted ++ [.record r.id (r.entryAddr (r.tail + (s.emt.get st).tailPend)) b,
          .indexBlock r.id r.blockAddr ((r.tail + ((s.emt.get st).tailPend + 1)) % 2 ^ 32) r.error] ++ more ∧ more.length ≤ 1) ∧
      u.fab = s.fab ∧ u.ctr = s.ctr) ∧
  (∀ (s : State) (st : Stream) (r : Ring), s.cpx.streamRing st = some r → r.entries ≤ r.used + (s.emt.get st).tailPend →
    exec (.recordDelivery st) s = .next s)

/-- With RST_N high and CKC not halted: TILE_RECORD_CHECK of a tile record waits until the evidence of its frame, the first that lacks
tiles, is formed; then it takes the record off the tap and adds one tile to that judgement, in its band's REASONS RECORD_CRC when its
chain, number or place is wrong. BAND_VERDICT of a judgement whose next band is complete, once two lanes have agreed on that band's
output, which it uses up, issues it when the frame emitting waits for that band, INVALID exactly when more tiles than
BAND_LIMIT failed, a record's CRC was wrong or the safe state is latched; one that comes too late is only noted. VERDICT_DEADLINE
emits an INVALID band verdict with CHECKER_LATE. FRAME_VERDICT, once its output is agreed, fixes the verdict of a frame still
emitting by R313. Without an agreed output neither does anything (its address is the model's choice, log 171). -/
def Obligations.VerdictsAreIssued : Prop :=
  (∀ (s : State) (b : List Byte) (rest : List (Stream × List Byte)) (j : Judge), s.pins.rstN = true → s.ckc.mode ≠ .halted →
    s.emt.tap = (.tile, b) :: rest → s.ckc.judges.find? (fun j => decide (j.occMeans.length < j.tiles)) = some j →
    (∀ k ∈ s.ckc.judges, k.frame = j.frame → k = j) →
    (j.evidence = none → exec (.tileRecordCheck none) s = .next s) ∧
    (j.evidence.isSome = true →
      ∃ u j', exec (.tileRecordCheck none) s = .next u ∧ u.emt.tap = rest ∧ j' ∈ u.ckc.judges ∧ j'.frame = j.frame ∧
        j'.occMeans = j.occMeans ++ [(recOcc b).sum / 16] ∧
        (recLe b 0xFC 4 ≠ chainCrc s.ckc.expCrc.1.toNat b 0xFC → j.occMeans.length ∈ j'.badCrc ∧
          (j'.bandReasons (j.occMeans.length / 64)).testBit 2 = true) ∧
        u.fab = s.fab ∧ u.saf = s.saf ∧ u.hif = s.hif)) ∧
  (∀ (s : State) (j : Judge), s.pins.rstN = true → s.ckc.mode ≠ .halted → s.ckc.judges.find? Judge.ready = some j →
    (s.ckc.verdicts.contains (verdictAddr j.frame j.bandsIssued) = false → exec .bandVerdict s = .next s) ∧
    (s.ckc.verdicts.contains (verdictAddr j.frame j.bandsIssued) = true → ∀ (f : EmitFrame) (rest : List EmitFrame),
      s.emt.frames = f :: rest →
      (f.frame = j.frame → f.nextBand = j.bandsIssued →
        ∃ u g, exec .bandVerdict s = .next u ∧ u.emt.frames = g :: rest ∧ g.nextBand = f.nextBand + 1 ∧
          g.bandInvalid = f.bandInvalid + (if j.model.bandLimit < (j.mask.filter fun t => t / 64 = f.nextBand).length ∨
            (∃ t ∈ j.badCrc, t / 64 = f.nextBand) ∨ s.saf.latched = true then 1 else 0) ∧
          u.ckc.verdicts = s.ckc.verdicts.erase (verdictAddr j.frame j.bandsIssued) ∧
          u.emt.verdict.seq = (s.emt.verdict.seq + 1) % 2 ^ 32 ∧ u.fab = s.fab) ∧
      (f.frame ≠ j.frame ∨ f.nextBand ≠ j.bandsIssued →
        exec .bandVerdict s = .next ((s.onCkc fun c =>
          { c.onJudge j.frame (fun x => { x with bandsIssued := j.bandsIssued + 1 }) with
            verdicts := c.verdicts.erase (verdictAddr j.frame j.bandsIssued) }).note 0x2007 sevWarning (unitCode .ckc) j.frame
          j.bandsIssued 0)))) ∧
  (∀ (s : State) (f : EmitFrame) (rest : List EmitFrame), s.pins.rstN = true → s.emt.frames = f :: rest → f.nextBand < f.bands →
    64 * (f.nextBand + 1) ≤ f.nextSlot → f.slotAt (64 * f.nextBand + 66) < 2 ^ 64 →
    ∃ u g, exec .verdictDeadline s = .next u ∧ f.slotAt (64 * f.nextBand + 66) ≤ u.now ∧ u.emt.frames = g :: rest ∧
      g.nextBand = f.nextBand + 1 ∧ g.bandInvalid = f.bandInvalid + 1 ∧ g.reasons.testBit 5 = true ∧
      u.emt.verdict.seq = (s.emt.verdict.seq + 1) % 2 ^ 32 ∧ u.fab = s.fab) ∧
  (∀ (s : State) (j : Judge), s.pins.rstN = true → s.ckc.mode ≠ .halted →
    s.ckc.judges.find? (fun j => decide (64 * j.bandsIssued = j.tiles) && j.verdict.isNone) = some j →
    (s.ckc.verdicts.contains (verdictAddr j.frame 0xFFFF) = false → exec .frameVerdict s = .next s) ∧
    (s.ckc.verdicts.contains (verdictAddr j.frame 0xFFFF) = true → ∀ f : EmitFrame,
      s.emt.frames.find? (fun f => f.frame = j.frame) = some f →
      ∃ u, exec .frameVerdict s = .next u ∧ { j with verdict := some (frameVerdict j f) } ∈ u.ckc.judges ∧
        u.ckc.verdicts = s.ckc.verdicts.erase (verdictAddr j.frame 0xFFFF) ∧ u.emt = s.emt ∧
        u.fab = s.fab ∧ u.saf.latched = s.saf.latched))

/-- FRAME_TRAILER of the emitting frame f, every slot and band of it out: the frame leaves EMT, FRAME_ALIVE toggles, the SAF
fields name f, the count of undelivered records starts again (the trailer itself may be one), and the old contract's storage is free if f was its last frame. Without a verdict of CKC the frame is INVALID;
with a VALID verdict, the safe state never latched in it, no object list or tile over its limit and no unreplayed failure, it is
VALID. If the frame is INVALID for more than the safe state, is not before the history's start, and another frame of the last
eight is in the history, the safe state is latched afterwards unless a pending release takes effect with this trailer. -/
def Obligations.TrailersEndFrames : Prop :=
  ∀ (s : State) (f : EmitFrame) (rest : List EmitFrame), s.pins.rstN = true → s.emt.frames = f :: rest → f.nextSlot = f.tiles →
    f.nextBand = f.bands → f.slotAt (f.tiles + 2) < 2 ^ 64 → (f.hasObj = true → f.objDone = true) →
    ∃ u, exec .frameTrailer s = .next u ∧ f.slotAt (f.tiles + 2) ≤ u.now ∧ u.emt.frames.length = rest.length ∧
      u.pins.frameAlive = !s.pins.frameAlive ∧ u.saf.lastFrame = f.frame ∧ u.emt.dropsTrailer ≤ 1 ∧
      (s.ctr.oldFrame = f.frame → u.ctr.old = none) ∧ u.ctr.armed = s.ctr.armed ∧ u.fab = s.fab ∧
      (s.ckc.judges.find? (fun j => j.frame = f.frame) = none → u.saf.lastInvalid = true) ∧
      (∀ j r, s.ckc.judges.find? (fun j => j.frame = f.frame) = some j → j.verdict = some (false, r) →
        f.safeSeen = false → s.saf.latched = false → f.objLate = false → f.lateTiles.length ≤ f.lateLimit → f.unreplayed = false →
        u.saf.lastInvalid = false ∧ u.saf.latched = false) ∧
      (s.ckc.judges.find? (fun j => j.frame = f.frame) = none → s.saf.histFrom ≤ f.frame → s.saf.relPending = false →
        (∃ n ∈ s.saf.history, n < f.frame ∧ f.frame < n + 8) → u.saf.latched = true)

/-! ### The checker cluster and the safety SPI -/

/-- With RST_N high: in TMR a transaction that no lane waits to match is presented; one that matches another lane's presentation in
time completes (an SRAM write stores its word, nothing else of the fabric changes) and gives the third lane 2 us to match; when that
lane's match completes a request for agreed input, the agreed value is the median of the three samples (MOTION: their majority); of a
pair it is the lower count, or the lower-numbered lane's value. An uncorrectable SRAM error halts CKC and latches the safe
state. ODD_LANE_TIMEOUT of a lane that two others have outvoted puts it into RESYNC and counts it odd, unless it rejoined within
10 s; with no two lanes matching it is a checker fault. The copy's end gives the lane the pair's state; the next band boundary
(outside a frame, a multiple of 128 us) returns it to TMR. CKC_ALIVE counts on. CHECKER_SPLIT of a lane 0-2 in TMR with none
pending: with no frame running CKC is SPLIT on that lane at once and its self-test begins; with a frame running the split waits and
nothing else changes. CHECKER_JOIN in SPLIT with none pending: when the self-test has passed the lane is reloaded in RESYNC, else
the join waits. In another mode, or with one pending, each replies BAD_PARAM. A passed LANE_SELFTEST lets a waiting join proceed; a
failed one ends it, makes CKC suspect, latches the safe state and drains a READY or RUNNING part. -/
def Obligations.CheckerClusterModes : Prop :=
  (∀ (s : State) (lane : Fin 3) (kind addr data sample t : Nat) (tx : LaneTx), s.pins.rstN = true → s.ckc.mode = .tmr →
    tx = { lane := lane.val, kind := kind, addr := addr, data := data, sample := sample, time := (s.advance t).now } →
    (s.ckc.await.find? (fun a => a.1.lane = lane.val) = none → s.ckc.pres.any (fun p => p.lane = tx.lane) = false →
      s.ckc.overdue (s.advance t).now = false →
      (s.ckc.pres = [] → exec (.voterTransaction lane kind addr ⟨data, sample⟩ t false) s =
        .next ((s.advance t).onCkc fun c => { c with
          lanes := vset c.lanes lane.val (vget c.lanes lane.val Lane.start).ran, pres := [tx] })) ∧
      (∀ mate, s.ckc.pres.find? (fun p => p.same tx) = some mate →
        s.ckc.pres.any (fun p => p.lane ≠ mate.lane && p.lane = 3 - lane.val - mate.lane) = false →
        ∃ u, exec (.voterTransaction lane kind addr ⟨data, sample⟩ t false) s = .next u ∧ u.ckc.completed = s.ckc.completed ++ [tx] ∧
          u.ckc.mode = .tmr ∧ ({ tx with lane := 3 - lane.val - mate.lane }, u.now + 2000) ∈ u.ckc.await ∧
          u.fab = (if kind = txSramWrite ∧ addr + 8 ≤ 0x800000 then s.fab.pokes .ckc addr (leBytes 8 data) else s.fab) ∧
          (kind = txVerdict → u.ckc.verdicts = s.ckc.verdicts ++ [addr]) ∧ u.saf = s.saf ∧ u.cpx = s.cpx ∧ u.emt = s.emt)) ∧
    (∀ (w : LaneTx) (due : Nat) (p q : Nat × Nat), s.ckc.await.find? (fun a => a.1.lane = lane.val) = some (w, due) →
      w.same tx = true → (s.advance t).now ≤ due → kind = txAgree →
      s.ckc.rounds = [{ addr := addr, data := data, samples := [p, q] }] → p.1 ≠ lane.val → q.1 ≠ lane.val →
      ∃ u, exec (.voterTransaction lane kind addr ⟨data, sample⟩ t false) s = .next u ∧ u.ckc.rounds = [] ∧
        u.ckc.agreed = s.ckc.agreed ++ [(addr, if addr = inMotion then agreeValue [p, q, (lane.val, sample)]
          else agreeCount [p.2, q.2, sample])] ∧ u.fab = s.fab ∧ u.saf = s.saf ∧ u.cpx = s.cpx)) ∧
  (∀ (a b c : Nat) (l : List Nat), a ≤ b → b ≤ c → l.Perm [a, b, c] → agreeCount l = b ∧ agreeCount [a, b] = a ∧ agreeCount [b, a] = a) ∧
  (∀ (i j k v w : Nat), agreeValue [(i, v), (j, v), (k, w)] = v ∧ agreeValue [(i, v), (j, w), (k, v)] = v ∧
    agreeValue [(i, w), (j, v), (k, v)] = v ∧ (i < j → agreeValue [(i, v), (j, w)] = v ∧ agreeValue [(j, w), (i, v)] = v)) ∧
  (∀ (s : State) (lane : Fin 3) (kind addr data sample t : Nat), s.pins.rstN = true → s.ckc.judging lane.val = true →
    ∃ u, exec (.voterTransaction lane kind addr ⟨data, sample⟩ t true) s = .next u ∧ u.ckc.mode = .halted ∧ u.saf.latched = true ∧
      u.ckc.pres = [] ∧ u.ckc.completed = s.ckc.completed) ∧
  (∀ (s : State) (lane : Fin 3) (w : LaneTx) (due : Nat), s.pins.rstN = true → s.ckc.mode = .tmr →
    s.ckc.await.find? (fun a => a.1.lane = lane.val) = some (w, due) →
    ((s.advance due).oddAgain lane.val = false → ∃ u, exec (.oddLaneTimeout lane) s = .next u ∧ u.ckc.mode = .resync ∧
      u.ckc.lane = lane.val ∧ u.ckc.copying = true ∧ u.ckc.odd = vset s.ckc.odd lane.val (satU 8 (vget s.ckc.odd lane.val 0 + 1)) ∧
      u.saf = s.saf ∧ u.fab = s.fab ∧ u.cpx = s.cpx) ∧
    ((s.advance due).oddAgain lane.val = true → ∃ u, exec (.oddLaneTimeout lane) s = .next u ∧ u.ckc.mode = .halted ∧
      u.saf.latched = true)) ∧
  (∀ (s : State) (lane : Fin 3) (p : LaneTx) (rest : List LaneTx), s.pins.rstN = true → s.ckc.mode ≠ .halted →
    s.ckc.judging lane.val = true → s.ckc.await.find? (fun a => a.1.lane = lane.val) = none → s.ckc.pres = p :: rest →
    p.lane ≠ lane.val → ∃ u, exec (.oddLaneTimeout lane) s = .next u ∧ u.ckc.mode = .halted ∧ u.saf.latched = true) ∧
  (∀ s : State, s.pins.rstN = true → s.ckc.mode = .resync → s.ckc.copying = true →
    exec .resyncCopyComplete s = .next (s.onCkc fun c => { c with
      copying := false, copyDone := true, lanes := vset c.lanes c.lane (c.pairState c.lane) })) ∧
  (∀ s : State, s.pins.rstN = true → s.ckc.mode ≠ .halted → s.emt.emitting = false →
    (s.ckc.bandAt / 128000 + 1) * 128000 < 2 ^ 64 →
    ∃ u, exec .bandBoundary s = .next u ∧ (s.ckc.bandAt / 128000 + 1) * 128000 ≤ u.now ∧ u.ckc.bandAt = u.now ∧
      ((s.ckc.mode = .resync ∧ s.ckc.copyDone = true) → (s.ckc.split = none ∨ s.noFrame = false → u.ckc.mode = .tmr) ∧
        u.ckc.join = none ∧ u.ckc.copyDone = false ∧ u.ckc.lanes = Vector.replicate 3 (s.ckc.pairState s.ckc.lane)) ∧
      (¬ (s.ckc.mode = .resync ∧ s.ckc.copyDone = true) → u.ckc = { s.ckc with bandAt := u.now } ∧ u.cpx = s.cpx) ∧
      u.fab = s.fab ∧ u.saf = s.saf ∧ u.emt = s.emt) ∧
  (∀ s : State, s.pins.rstN = true → s.ckc.mode ≠ .halted →
    exec .ckcAlive s = .next ((s.advance ((s.now / 100000 + 1) * 100000)).onSaf fun x => { x with alive := (x.alive + 1) % 2 ^ 16 })) ∧
  (∀ (s : State) (ring : Nat) (pk : Packet), s.Starts ring 0x90 pk →
    (s.ckc.mode = .tmr → s.ckc.split = none → pk.u 0x10 1 ≤ 2 →
      (s.noFrame = true → ∃ u, exec (.checkerSplit ring) s = .next u ∧ u.ckc.mode = .split ∧ u.ckc.lane = pk.u 0x10 1 ∧
        u.ckc.selfBusy = true ∧ u.ckc.split = none ∧ u.fab = s.fab ∧ u.saf = s.saf ∧ u.ctr = s.ctr) ∧
      (s.noFrame = false → exec (.checkerSplit ring) s = .next ((s.markStarted pk).onCkc fun c =>
        { c with split := some (s.begun pk, pk.u 0x10 1) }))) ∧
    ((s.ckc.mode ≠ .tmr ∨ s.ckc.split ≠ none) → exec (.checkerSplit ring) s = .next ((s.markStarted pk).bad (s.begun pk) 0))) ∧
  (∀ (s : State) (ring : Nat) (pk : Packet), s.Starts ring 0x91 pk →
    (s.ckc.mode = .split → s.ckc.join = none →
      (s.ckc.selfBusy = false → s.ckc.selfPassed = true → ∃ u, exec (.checkerJoin ring) s = .next u ∧ u.ckc.mode = .resync ∧
        u.ckc.lane = s.ckc.lane ∧ u.ckc.copying = true ∧ u.ckc.join = some (s.begun pk) ∧ u.fab = s.fab ∧ u.saf = s.saf) ∧
      ((s.ckc.selfBusy = true ∨ s.ckc.selfPassed = false) → exec (.checkerJoin ring) s =
        .next ((s.markStarted pk).onCkc fun c => { c with join := some (s.begun pk) }))) ∧
    ((s.ckc.mode ≠ .split ∨ s.ckc.join ≠ none) → exec (.checkerJoin ring) s = .next ((s.markStarted pk).bad (s.begun pk) 0))) ∧
  (∀ s : State, s.pins.rstN = true → s.ckc.selfBusy = true →
    (∃ u, exec (.laneSelftest true) s = .next u ∧ u.ckc.selfBusy = false ∧ u.ckc.selfPassed = true ∧
      (s.ckc.join = none → u.ckc.mode = s.ckc.mode ∧ u.ckc.copying = s.ckc.copying) ∧
      (s.ckc.join ≠ none → u.ckc.mode = .resync ∧ u.ckc.copying = true) ∧ u.fab = s.fab ∧ u.saf = s.saf ∧ u.cpx = s.cpx) ∧
    (∃ u, exec (.laneSelftest false) s = .next u ∧ u.ckc.selfPassed = false ∧ u.ckc.join = none ∧ u.saf.latched = true ∧
      (s.pwr.state = .ready ∨ s.pwr.state = .running → u.pwr.state = .draining)))

/-- Each transaction with RST_N high returns the first clocks / 8 bytes of the status frame taken at its start. A valid request (256
clocks, right CRC, VERSION 1) takes ALIVE and clears the error flags, then: NOP does no more (an unknown CMD sets REQ_ERROR);
RELEASE sets a pending release exactly when the latch is set, its ID is LATCH_COUNT, the state is READY or RUNNING, CKC is in TMR,
LATE is within its limit and no debug unlock is in force, and otherwise, unless it repeats a pending one, sets REQ_ERROR;
FORCE_SAFE leaves the latch set and SAFE_N low. Any other request is discarded with REQ_ERROR and an RX error. -/
def Obligations.SafetySpiRequests : Prop :=
  (∀ (s : State) (clocks : Nat) (f : BitVec 256), s.pins.rstN = true → spiValid clocks f = true → spiCmd f ≠ 1 → spiCmd f ≠ 2 →
    ∃ u, exec (.nop clocks f) s = .next u ∧ u.saf.spiOut = s.statusFrame.take (clocks / 8) ∧
      u.saf.ctrlAlive = recLe (spiBytes f) 2 2 ∧ u.saf.reqError = decide (spiCmd f ≠ 0) ∧ u.saf.verError = false ∧
      u = { s with saf := u.saf } ∧ u.saf.latched = s.saf.latched ∧ u.saf.relPending = s.saf.relPending) ∧
  (∀ (s : State) (clocks : Nat) (f : BitVec 256), s.pins.rstN = true → spiValid clocks f = true → spiCmd f = 1 →
    ∃ u, exec (.release clocks f) s = .next u ∧ u.saf.spiOut = s.statusFrame.take (clocks / 8) ∧
      u.saf.ctrlAlive = recLe (spiBytes f) 2 2 ∧ u = { s with saf := u.saf } ∧ u.saf.latched = s.saf.latched ∧
      (s.saf.relPending = false → (u.saf.relPending = true ↔
        s.saf.latched = true ∧ recLe (spiBytes f) 4 2 = s.saf.count ∧ (s.pwr.state = .ready ∨ s.pwr.state = .running) ∧
        s.ckc.mode = .tmr ∧ (∀ g rest, s.emt.frames = g :: rest → g.lateTiles.length ≤ g.lateLimit) ∧ s.sec.unlocked = false)) ∧
      (s.saf.relPending = false → u.saf.reqError = !u.saf.relPending) ∧
      (s.saf.relPending = true → recLe (spiBytes f) 4 2 = s.saf.count → u.saf.relPending = true ∧ u.saf.reqError = false)) ∧
  (∀ (s : State) (clocks : Nat) (f : BitVec 256), s.pins.rstN = true → spiValid clocks f = true → spiCmd f = 2 → s.SafePin →
    ∃ u, exec (.forceSafe clocks f) s = .next u ∧ u.saf.latched = true ∧ u.pins.safeN = false ∧
      u.saf.spiOut = s.statusFrame.take (clocks / 8) ∧ u.saf.reqError = false ∧
      (s.saf.latched = false → u.saf.cause = latchVehicle ∧ u.saf.count = (s.saf.count + 1) % 2 ^ 16) ∧
      u.fab = s.fab ∧ u.cpx = s.cpx ∧ u.ctr = s.ctr) ∧
  (∀ (s : State) (clocks : Nat) (f : BitVec 256), s.pins.rstN = true → spiValid clocks f = false →
    exec (.spiRequestDiscarded clocks f) s = .next (s.onSaf fun x =>
      { x with spiOut := s.statusFrame.take (clocks / 8), rxErrors := satU 8 (x.rxErrors + 1), reqError := true,
               verError := x.verError || (decide (clocks = 256) && spiCrcOk f) }))

/-! ### Failures, drains and coppice slices -/

/-- A fault record has 64 bytes, with the TMB count of the detection, the present one unless the detection lies before, at 0x18. With RST_N
high: a failure that a replay follows but no commit unit has leaves only its record and the event ECC_NO_UNIT; one of a
detector that makes a unit suspect at once latches the safe state and drains a READY or RUNNING part. REPLAY of a running command that
failed a check waits for its COMMIT; then it discards what the command wrote and runs it again with the first failure kept; after a
second failure the command is gone and the safe state is latched. FLAG_RECORD_WRITTEN puts the record into the older copy, and when it clears the flag the part is READY and unflagged.
DRAIN_COMPLETE, the flag record written and no frame left, unloads the contracts, enters FLAGGED and sets its cause. COPPICE_SLICE
with no contract armed runs the slice of the rotation's next unit, 33.333 ms after the last; a wrong signature makes it suspect. -/
def Obligations.FailuresReplayDrainAndFlag : Prop :=
  (∀ (s : State) (f : FailReport) (c : FaultCtx), (s.faultBytes f c).length = 64 ∧
    leAt (s.faultBytes f c) 0x18 8 = (match c.seen with | some d => d.count | none => s.now) % 2 ^ 64) ∧
  (∀ (s : State) (u : Cu) (f : FailReport), s.pins.rstN = true →
    (atOnce f.detector = false → replays f.detector = true → s.cuActive u = false →
      exec (.replay u (some f)) s = .next ((s.recordFault f (FaultCtx.none outNoUnit)).note 0x2003 sevError (unitCode f.unit)
        (f.address % 2 ^ 32) (f.address / 2 ^ 32) 0)) ∧
    (atOnce f.detector = true → ∃ t, exec (.replay u (some f)) s = .next t ∧ t.saf.latched = true ∧ t.mss.diagPassed = false ∧
      (s.pwr.state = .ready ∨ s.pwr.state = .running → t.pwr.state = .draining ∧ t.ctr.placed = none ∧ t.saf.flagged = true ∧
        t.saf.faultUnit = unitCode f.unit ∧ ∃ r, t.mss.flagWrite = some r ∧ r.flagged = true ∧ r.unit = unitCode f.unit))) ∧
  (∀ (s : State) (q : QmRun) (f : FailReport), s.pins.rstN = true → s.cpx.qm = some q → q.run.failed = some f →
    (s.cmdEnded q = false → exec (.replay .qm none) s = .next s) ∧
    (s.cmdEnded q = true → q.run.hwFails = 0 → ∃ t, exec (.replay .qm none) s = .next t ∧
      t.cpx = { s.cpx with qm := some { q with run := q.run.countFailure.again } } ∧
      (∀ sp a, t.fab.peek sp a = s.fab.peek sp a) ∧ t.saf = s.saf ∧ t.pwr = s.pwr) ∧
    (∀ g, s.cmdEnded q = true → q.run.hwFails ≠ 0 → q.run.firstFail = some g → ∃ t, exec (.replay .qm none) s = .next t ∧ t.cpx.qm = none ∧
      t.saf.latched = true)) ∧
  (∀ (s : State) (r : FlagRecord), s.pins.rstN = true → s.mss.flagWrite = some r →
    ∃ t, exec .flagRecordWritten s = .next t ∧ t.mss.flagWrite = none ∧ t.mss.flagClear = none ∧ t.fab = s.fab ∧ t.ctr = s.ctr ∧
      ((s.flash.flagA.map fun x => x.seq).getD 0 ≤ (s.flash.flagB.map fun x => x.seq).getD 0 →
        t.flash = { s.flash with flagA := some r }) ∧
      ((s.flash.flagB.map fun x => x.seq).getD 0 < (s.flash.flagA.map fun x => x.seq).getD 0 →
        t.flash = { s.flash with flagB := some r }) ∧
      (s.mss.flagClear = none → t.saf = s.saf ∧ t.pwr = s.pwr ∧ t.cpx = s.cpx) ∧
      (s.mss.flagClear ≠ none → t.saf = { s.saf with flagged := false } ∧ t.pwr.state = .ready)) ∧
  (∀ s : State, s.pins.rstN = true → s.pwr.state = .draining → s.mss.flagWrite = none → s.emt.frames = [] →
    ∃ t, exec .drainComplete s = .next t ∧ t.pwr.state = .flagged ∧ t.ctr.armed = none ∧ t.ctr.staged = none ∧
      t.ctr.armPending = none ∧ t.hif.event.getLsbD causeFlagged = true ∧ t.fab = s.fab ∧ t.saf = s.saf) ∧
  (∀ (s : State) (k : Nat), s.pins.rstN = true → s.cpx.qm = none → (s.pwr.state = .ready ∨ s.pwr.state = .running) →
    s.nextVisit = some k → s.ctr.armed = none →
    (∃ t, exec (.coppiceSlice true none false) s = .next t ∧ t.evr.rotNext = (k + 1) % 12 ∧ t.evr.lastSlice = t.now ∧
      (t.evr.rotation = s.evr.rotation → vget t.evr.sliceDone k 0 = vget s.evr.sliceDone k 0 + 1) ∧ t.fab = s.fab ∧
      t.saf = s.saf ∧ t.cpx = s.cpx) ∧
    (∀ sg, ∃ t, exec (.coppiceSlice true (some sg) false) s = .next t ∧ t.saf.latched = true ∧ t.pwr.state = .draining))

/-! ### Identity, authorisation and updates -/

/-- AUTH_CHALLENGE of purpose 0-3 with an aligned destination makes a new challenge outstanding for its purpose, writes its 64
bytes and answers its ID. CHALLENGE_EXPIRY, 60 s after its issue, ends it. ATTEST (aligned, no unlock in force) writes a block
that begins with the quote body and answers its size. OWNER_PROVISION enrols slot 0 only while all four slots are EMPTY.
DBG_CHALLENGE puts the outstanding challenge of purpose 3 on the port. DBG_RESPONSE with the unlock conditions met and an
authorisation that answers it unlocks, zeroises the key store and leaves the safe state latched; refused, it unlocks nothing. -/
def Obligations.ChallengesQuotesAndUnlock : Prop :=
  (∀ (s : State) (ring : Nat) (pk : Packet), s.Starts ring 0x74 pk → pk.u 0x10 1 ≤ 3 → pk.u 0x18 8 % 64 = 0 →
    ∃ c : Challenge, c.id = (s.sec.nextId + 1) % 2 ^ 32 ∧ c.fwVersion = s.mss.fwVersion ∧ c.issued = s.now ∧
      exec (.authChallenge ring) s = .next ((((s.markStarted pk).onSec fun x =>
        { x with nextId := c.id, challenges := vset x.challenges (pk.u 0x10 1) (some c) }).hostWrite (pk.u 0x18 8)
          (c.bytes (pk.u 0x10 1))).done (s.begun pk) c.id)) ∧
  (∀ (s : State) (p : Fin 4) (c : Challenge), s.pins.rstN = true → s.sec.challenges.get p = some c →
    exec (.challengeExpiry p) s = .next ((s.advance (c.issued + 60000000000)).dropChallenge p.val)) ∧
  (∀ (s : State) (ring : Nat) (pk : Packet), s.Starts ring 0x73 pk → pk.u 0x30 8 % 64 = 0 →
    (s.sec.unlocked = true → exec (.attest ring) s = .next ((s.markStarted pk).notReady (s.begun pk))) ∧
    (s.sec.unlocked = false → ∃ b : List Byte, b.take 256 = s.quoteBody (pk.u 0x10 32) ∧
      exec (.attest ring) s = .next (((s.markStarted pk).hostWrite (pk.u 0x30 8) b).done (s.begun pk)
        (if s.sec.certValid then 47264 else 17344)))) ∧
  (∀ (s : State) (d : BitVec 256), s.pins.rstN = true → d ≠ 0 →
    ((∀ i, i < 4 → (s.sec.slot i).empty = true) → exec (.ownerProvision d) s = .next (s.onSec fun x =>
      { x with slots := vset x.slots 0 { digest := d, revoked := false } })) ∧
    (∀ i, i < 4 → (s.sec.slot i).empty = false → exec (.ownerProvision d) s = .next s)) ∧
  (∀ (s : State) (c : Challenge), s.pins.rstN = true → s.sec.unlocked = false → s.challenge 3 = some c →
    exec .dbgChallenge s = .next (s.onSec fun x => { x with jtagOut := c.bytes 3 })) ∧
  (∀ (s : State) (auth : List Byte) (sigOk : Bool), s.pins.rstN = true → s.sec.unlocked = false →
    (s.unlockOk = true → s.authOk 3 auth.length auth sigOk = true → ∃ u, exec (.dbgResponse auth sigOk) s = .next u ∧
      u.sec.unlocked = true ∧ u.sec.keyZero = true ∧ (∀ p, p < 4 → vget u.sec.challenges p none = none) ∧
      u.sec.slots = s.sec.slots ∧ u.sec.attempts = satU 8 (s.sec.attempts + 1) ∧ u.saf.latched = true ∧ u.fab = s.fab) ∧
    ((s.unlockOk = false ∨ s.authOk 3 auth.length auth sigOk = false) → ∃ u, exec (.dbgResponse auth sigOk) s = .next u ∧
      u.sec.unlocked = false ∧ u.sec.lastRefused = true ∧ u.sec.attempts = satU 8 (s.sec.attempts + 1) ∧
      u.sec.keyZero = s.sec.keyZero ∧ u.saf = s.saf ∧ u.fab = s.fab))

/-- Each of LOG_CLEAR (purpose 0), FLAG_CLEAR (1, in FLAGGED after a passed diagnosis) and DIAG_RUN (2, READY or FLAGGED with
no contract loaded, and in READY no open job), admitted with an aligned authorisation, whatever the authorisation, ends its purpose's
challenge. When it answers that challenge: LOG_CLEAR leaves no fault ring, no recent fault record and a log of at most
LOG_CLEARED; FLAG_CLEAR sends a flag record with FLAGGED 0 to flash, its reply waiting for it; DIAG_RUN writes back the cached
lines and starts. When it does not, the command only notes AUTH_FAILED and replies so. DIAG_RUN_COMPLETE zero-fills what no open
job holds; without a failing unit or repair the diagnosis has passed, with a failing one the passed mark stays as it was. -/
def Obligations.AuthorisedCommandsUseTheirChallenge : Prop :=
  (∀ (s : State) (ring : Nat) (pk : Packet) (auth : List Byte) (sigOk : Bool), s.Starts ring 0x61 pk → pk.u 0x10 8 % 64 = 0 →
    (s.authOk 0 (pk.u 0x18 4) auth sigOk = false → exec (.logClear ring auth sigOk) s =
      .next ((((s.markStarted pk).dropChallenge 0).note 0x5002 sevWarning noUnit 0 0 0).reply (s.begun pk) stAuth 0 0)) ∧
    (s.authOk 0 (pk.u 0x18 4) auth sigOk = true → ∃ u, exec (.logClear ring auth sigOk) s = .next u ∧
      vget u.sec.challenges 0 none = none ∧ u.flash.faultRing = [] ∧ u.evr.faults = [] ∧ u.flash.log.length ≤ 1 ∧
      (∀ e ∈ u.flash.log, e.code = 0x0009) ∧ u.evr.queue = [] ∧ u.flash.image = s.flash.image ∧ u.fab = s.fab ∧ u.saf = s.saf)) ∧
  (∀ (s : State) (ring : Nat) (pk : Packet) (auth : List Byte) (sigOk : Bool), s.Starts ring 0x81 pk → pk.u 0x10 8 % 64 = 0 →
    (s.pwr.state = .ready ∨ s.pwr.state = .flagged) → s.ctr.armed = none → s.ctr.staged = none →
    (s.pwr.state = .ready → s.cpx.jobOpen = false) →
    (s.authOk 2 (pk.u 0x18 4) auth sigOk = false → exec (.diagRun ring auth sigOk) s =
      .next ((((s.markStarted pk).dropChallenge 2).note 0x5002 sevWarning noUnit 2 0 0).reply (s.begun pk) stAuth 0 0)) ∧
    (s.authOk 2 (pk.u 0x18 4) auth sigOk = true → exec (.diagRun ring auth sigOk) s =
      .next ((((s.markStarted pk).dropChallenge 2).onFab Fab.invalidateCaches).onMss fun m => { m with diag := some (s.begun pk) }))) ∧
  (∀ (s : State) (pk : Packet), s.pins.rstN = true → s.mss.diag = some pk →
    (∃ u, exec (.diagRunComplete [] []) s = .next u ∧ u.mss.diag = none ∧ u.mss.diagPassed = true ∧ u.saf = s.saf ∧ u.pwr = s.pwr ∧
      u.fab = s.fab.zeroFree s.cpx.heldBanks (s.cpx.jobs.flatMap fun j => j.segs)) ∧
    (∀ f fs, ∃ u, exec (.diagRunComplete (f :: fs) []) s = .next u ∧ u.mss.diag = none ∧ u.mss.diagPassed = s.mss.diagPassed ∧
      u.flash = s.flash ∧ u.saf = s.saf ∧ u.pwr = s.pwr ∧
      u.fab = s.fab.zeroFree s.cpx.heldBanks (s.cpx.jobs.flatMap fun j => j.segs))) ∧
  (∀ (s : State) (ring : Nat) (pk : Packet) (auth : List Byte) (sigOk : Bool), s.Starts ring 0x82 pk → pk.u 0x10 8 % 64 = 0 →
    s.pwr.state = .flagged → s.mss.diagPassed = true →
    (s.authOk 1 (pk.u 0x18 4) auth sigOk = false → exec (.flagClear ring auth sigOk) s =
      .next ((((s.markStarted pk).dropChallenge 1).note 0x5002 sevWarning noUnit 1 0 0).reply (s.begun pk) stAuth 0 0)) ∧
    (s.authOk 1 (pk.u 0x18 4) auth sigOk = true → ∃ u r, exec (.flagClear ring auth sigOk) s = .next u ∧
      u.mss.flagWrite = some r ∧ r.flagged = false ∧ u.mss.flagClear = some (s.begun pk) ∧ vget u.sec.challenges 1 none = none ∧
      u.flash = s.flash ∧ u.pwr = s.pwr ∧ u.saf = s.saf ∧ u.fab = s.fab))

/-- With no commit under way (and, for UPDATE_DATA, memories in canonical form): UPDATE_BEGIN in range opens a session with nothing written; UPDATE_DATA in the image area stores its
LENGTH bytes at its place in the staging area and changes no other byte of memory, in the pattern area it stores them in the flash
and enters pattern mode; UPDATE_COMMIT of a complete image that passes the checks, with the declared version and valid key operations,
starts the write, the old image gone; one that fails the signature or rollback checks replies AUTH_FAILED and changes nothing else.
IMAGE_AREA_WRITE with at most two mismatches leaves the staged bytes as the image and, in RECOVERY, sets the self-reset
10 ms ahead; with three it leaves no image. RECOVERY_SELF_RESET restarts the part from that image, the memories cleared. -/
def Obligations.UpdatesStageCheckAndWrite : Prop :=
  (∀ (s : State) (ring : Nat) (pk : Packet), s.Starts ring 0x70 pk → s.flash.commit = none → 30432 ≤ pk.u 0x10 4 →
    pk.u 0x10 4 ≤ 0x7000000 → exec (.updateBegin ring) s = .next (((s.markStarted pk).onFlash fun f =>
      { f with session := some { size := pk.u 0x10 4, version := pk.u 0x14 4, written := [] } }).done (s.begun pk) 0)) ∧
  (∀ (s : State) (ring : Nat) (pk : Packet) (src : List Byte) (x : UpdateSession), s.Canonical → s.Starts ring 0x71 pk → s.flash.commit = none →
    s.flash.session = some x → pk.u 0x10 8 % 64 = 0 → 64 ≤ pk.u 0x1C 4 → pk.u 0x1C 4 ≤ 0x100000 → pk.u 0x1C 4 % 64 = 0 →
    pk.u 0x18 4 % 64 = 0 → pk.u 0x18 4 + pk.u 0x1C 4 ≤ x.size →
    (pk.u 0x18 4 + pk.u 0x1C 4 ≤ 0x800000 → ∃ u y, exec (.updateData ring src) s = .next u ∧ u.flash = { s.flash with session := some y } ∧
      y.size = x.size ∧ y.version = x.version ∧
      (∀ n, n ∈ y.written ↔ n ∈ x.written ∨ (pk.u 0x18 4 / 64 ≤ n ∧ n < (pk.u 0x18 4 + pk.u 0x1C 4) / 64)) ∧
      (∀ i, i < pk.u 0x1C 4 → u.fab.peek (s.stagePlace 0).1 ((s.stagePlace (pk.u 0x18 4)).2 + i) = src.getD i 0) ∧
      (∀ sp a, (sp ≠ (s.stagePlace 0).1 ∨ a < (s.stagePlace (pk.u 0x18 4)).2 ∨
        (s.stagePlace (pk.u 0x18 4)).2 + pk.u 0x1C 4 ≤ a) → u.fab.peek sp a = s.fab.peek sp a) ∧ u.saf = s.saf ∧ u.sec = s.sec) ∧
    (0x1000000 ≤ pk.u 0x18 4 → pk.u 0x18 4 + pk.u 0x1C 4 ≤ 0x7000000 → ∃ u, exec (.updateData ring src) s = .next u ∧
      u.flash = { s.flash with pattern := memPut s.flash.pattern (pk.u 0x18 4) ((List.range (pk.u 0x1C 4)).map fun i => src.getD i 0) } ∧
      u.mss = { s.mss with patternMode := true } ∧ u.fab = s.fab ∧ u.saf = s.saf ∧ u.sec = s.sec)) ∧
  (∀ (s : State) (ring : Nat) (pk : Packet) (sigOk : Bool) (x : UpdateSession), s.Starts ring 0x72 pk → s.flash.commit = none →
    s.flash.session = some x → x.complete 64 = true → x.complete (imgSize s.staged) = true → imgVersion s.staged = x.version →
    (s.sec.imageCheck s.staged sigOk = 0 → s.sec.keyOpsValid (imgLe s.staged (imgSig s.staged) 1) (imgKeyOps s.staged) = true →
      exec (.updateCommit ring sigOk) s = .next ((s.markStarted pk).onFlash fun f => { f with image := none, commit := some (s.begun pk) })) ∧
    (2 ≤ s.sec.imageCheck s.staged sigOk → exec (.updateCommit ring sigOk) s = .next ((s.markStarted pk).reply (s.begun pk) stAuth 0 0))) ∧
  (∀ (s : State) (pk : Packet) (n : Nat), s.pins.rstN = true → s.pins.pwrfailN = true → s.flash.commit = some pk →
    ∃ u, exec (.imageAreaWrite n) s = .next u ∧ u.flash.commit = none ∧ u.fab = s.fab ∧ u.saf = s.saf ∧ u.sec = s.sec ∧
      (n < 3 → u.flash.image = some (s.staged.filter fun c => decide (c.1 < imgSize s.staged)) ∧
        (s.pwr.state = .recovery → u.mss.selfReset = some (s.now + 10000000))) ∧
      (3 ≤ n → u.flash.image = none)) ∧
  (∀ (s : State) (t : Nat), s.pins.rstN = true → s.pwr.state = .recovery → s.mss.selfReset = some t →
    ∃ u, exec .recoverySelfReset s = .next u ∧ u = ((s.advance t).afterReset).startFrom s.pins.bootMode true ∧ u.fab = State.reset.fab ∧
      u.pins.rstN = true ∧ u.pwr.state = .boot ∧ u.flash.image = s.flash.image ∧ u.sec.slots = s.sec.slots)

/-! ### Resets, starts and the shut-down test -/

/-- RST_N_ASSERT returns memories, power, host interface's registers and safety block to their reset values and keeps the fuses and the
firmware image. RST_N_RELEASE takes the straps; with straps 2, or an image that fails a check (noted with the check), the start goes
to RECOVERY; otherwise the image's version is taken and the power-cycle count rises. END_OF_START of a recovery start enters
RECOVERY; of another it takes the trained rate, has CKC in TMR and the QM core set 0xFF, lets no fuse fall, and enters READY, or
FLAGGED when the flash holds a record with FLAGGED 1 or a finding cannot be repaired, an array's third graft among them (which
latches the safe state). PERST_N released leaves a part as it is, but for the pin; PERST_N asserted drops the link and wakes a PARKED part
that has cooled: the domains on at READY begin to rise. -/
def Obligations.ResetsAndStarts : Prop :=
  (∀ s : State, s.pins.rstN = true → ∃ u, exec .rstNAssert s = .next u ∧ u = s.shutAdvance.afterReset ∧ u.pins.rstN = false ∧
    u.fab = State.reset.fab ∧ u.pwr = State.reset.pwr ∧ u.saf = State.reset.saf ∧ u.cpx = State.reset.cpx ∧ u.ctr = State.reset.ctr ∧
    u.sec.slots = s.sec.slots ∧ u.sec.rollback = s.sec.rollback ∧ u.flash.image = s.flash.image ∧ u.flash.session = none ∧
    u.pins.perstN = s.pins.perstN) ∧
  (∀ (s : State) (mode : BitVec 2) (sigOk : Bool), s.pins.rstN = false →
    ∃ u, exec (.rstNRelease mode sigOk) s = .next u ∧ u.pins.rstN = true ∧ u.pins.bootMode = mode ∧ u.fab = s.fab ∧ u.saf = s.saf ∧
      u.sec.certValid = s.flash.certOk ∧ u.sec.slots = s.sec.slots ∧
      (mode = 2 → u.mss.bootRecovery = true ∧ u.flash = s.flash) ∧
      (mode ≠ 2 → s.sec.imageCheck (s.flash.image.getD []) sigOk ≠ 0 → u.mss.bootRecovery = true ∧
        u.mss.imageCheck = s.sec.imageCheck (s.flash.image.getD []) sigOk ∧ u.flash = s.flash) ∧
      (mode ≠ 2 → s.sec.imageCheck (s.flash.image.getD []) sigOk = 0 → u.mss.bootRecovery = s.mss.bootRecovery ∧
        u.mss.fwVersion = imgVersion (s.flash.image.getD []) ∧
        u.flash = { s.flash with powerCycle := (s.flash.powerCycle + 1) % 2 ^ 24 })) ∧
  (∀ (s : State) (dense retr : Bool) (rate : Nat) (reps : List Repair) (fail : Option TestFail), s.pins.rstN = true →
    s.pwr.state = .boot →
    (s.mss.bootRecovery = true → ∃ u, exec (.endOfStart dense rate retr reps fail) s = .next u ∧ u.pwr.state = .recovery ∧
      u.mss.bootStep = 0xFF ∧ u.saf = s.saf ∧ u.flash = s.flash ∧ u.sec = s.sec) ∧
    (s.mss.bootRecovery = false → ∃ u, exec (.endOfStart dense rate retr reps fail) s = .next u ∧ u.mss.dataRate = rate ∧
      u.mss.usable = usableBytes dense ∧ u.ckc.mode = .tmr ∧ u.cpx.qmCores = 0xFF#8 ∧ s.sec.FusesStay u.sec ∧
      (fail = none → (fitRepairs [] (if s.mss.bootLong then reps else s.flash.repairs ++ reps)).2 = [] →
        ((∀ r, s.flash.flagRecord = some r → r.flagged = false) → u.pwr.state = .ready) ∧
        (∀ r, s.flash.flagRecord = some r → r.flagged = true → u.pwr.state = .flagged ∧ u.saf.faultUnit = r.unit)) ∧
      (fail = none → ∀ r rest, (fitRepairs [] (if s.mss.bootLong then reps else s.flash.repairs ++ reps)).2 = r :: rest →
        u.pwr.state = .flagged ∧ u.saf.latched = true ∧ u.saf.faultUnit = unitCode (.mxc (coreOf r.unitCode))) ∧
      (∀ t, fail = some t → u.pwr.state = .flagged ∧ u.saf.latched = true ∧ u.saf.faultUnit = unitCode t.unit))) ∧
  (∀ s : State, exec .perstNRelease s = .next (s.onPins fun p => { p with perstN := true })) ∧
  (∀ s : State, s.pins.rstN = true → s.pwr.state = .parked → (s.pwr.tripped = false ∨ s.pwr.coolEnough = true) → s.cpx.cap = none →
    ∃ u, exec .perstNAssert s = .next u ∧ u.pwr.state = .parked ∧ u.pwr.wake = true ∧
      u.pwr.rising = s.pwr.rising ||| ((readyDomains ||| s.sen.mask) &&& ~~~s.pwr.domains) ∧ u.pwr.domains = s.pwr.domains ∧
      u.pins.perstN = false ∧ u.hif.linkUp = false)

/-- PREPARE_OFF in READY, RUNNING or FLAGGED, with no open job, no pending arm and no update being written, latches the safe state,
enters SHUTDOWN_TEST and places no launch; with no frame left to emit its record's header is written and no contract is loaded.
OFF_READY of a test past its third step zeroises the key store, answers, raises its pin, drops the link and leaves every domain off
in OFF_READY. PWRFAIL_N_ASSERT takes the pin low, keeps the device state and latch, and ends a test without a reply: nothing
is prepared any more, and it counts as aborted. -/
def Obligations.ShutDownTestRunsOrBreaksOff : Prop :=
  (∀ (s : State) (ring : Nat) (pk : Packet), s.Starts ring 0x80 pk → s.cpx.jobOpen = false → s.ctr.armPending = none → s.flash.commit = none →
    (s.pwr.state = .ready ∨ s.pwr.state = .running ∨ s.pwr.state = .flagged) →
    ∃ u, exec (.prepareOff ring) s = .next u ∧ u.saf.latched = true ∧ u.pwr.state = .shutdownTest ∧ u.mss.prepare = some (s.begun pk) ∧
      u.ctr.placed = none ∧ u.mss.aborted = false ∧ (s.emt.frames ≠ [] → u.mss.shutStep = 1 ∧ u.fab = s.fab ∧ u.flash = s.flash) ∧
      (s.emt.frames = [] → u.mss.shutStep = 3 ∧ u.ctr.armed = none ∧ u.ctr.staged = none) ∧
      (∀ sp a, u.fab.peek sp a = s.fab.peek sp a)) ∧
  (∀ (s : State) (pk : Packet) (reps : List Repair) (t : Option TestFail), s.pins.rstN = true → s.mss.prepare = some pk →
    s.mss.aborted = false → 3 ≤ s.mss.shutStep →
    ∃ u, exec (.offReady reps t) s = .next u ∧ u.pins.offReady = true ∧ u.pwr.state = .offReady ∧ u.pwr.domains = 0 ∧
      u.hif.linkUp = false ∧ u.mss.prepare = none ∧ u.sec.keyZero = true ∧ u.sec.scanEnabled = true ∧ u.sec.slots = s.sec.slots ∧
      u.fab.dram = s.fab.dram ∧ u.saf.latched = s.saf.latched) ∧
  (∀ (s : State) (step : Nat), s.pins.rstN = true → ∃ u, exec (.pwrfailNAssert step) s = .next u ∧ u.pins.pwrfailN = false ∧
    u.pwr.state = s.pwr.state ∧ u.saf.latched = s.saf.latched ∧ u.mss.prepare = none ∧ (s.mss.prepare ≠ none → u.mss.aborted = true) ∧
    (s.mss.prepare = none → u.hif = s.shutAdvance.hif ∧ u.mss = s.shutAdvance.mss) ∧ (∀ sp a, u.fab.peek sp a = s.fab.peek sp a))

/-! ### Power -/

/-- With BAR0 open and no request under way: DOMAIN_OFF of a switchable domain that is on and that no contract, sensor or cache uses
closes it, and the request stays busy; DOMAIN_ON of one that is off raises it; a domain that is already there is DONE at once; any
other is refused with BAD_PARAM, as is a rate out of range, while a rate in range becomes the host target. PARK, when nothing runs,
unloads the contracts, latches the safe state, switches every domain off and drops the link; else it replies NOT_READY. During a
request a further one is only counted. POWER_GATE_OPEN of a closing domain that is not still rising takes it off, its memory and
the uncommitted writes to it lost; DOMAIN_SWITCH_COMPLETE of a rising one whose unit has settled has it on, its memory zero, and
leaves one that a DOMAIN_OFF waits for closing; each ends the request for it, and the last domain of a wake ends PARKED in READY.
DISCOVER switches the ingest domains on; after 200 ms it switches back what it switched on for itself, posts its report if it fits,
and replies its length. -/
def Obligations.PowerRequestsAndDiscovery : Prop :=
  (∀ (s : State) (d : Nat), s.bar0Open = true → s.pwr.busy = none →
    (pwrSwitchable d = true → (s.pwr.domains ||| s.pwr.rising).getLsbD d = true → s.ctr.holdsDomain d = false →
      s.sen.needsDomain d = false → s.cacheDomain d = false → exec (.domainOff d) s = .next (s.onPwr fun p =>
        { p with closing := p.closing ||| (1#64 <<< d), busy := some d })) ∧
    (pwrSwitchable d = true → (s.pwr.domains ||| s.pwr.rising).getLsbD d = false → s.ctr.holdsDomain d = false →
      s.sen.needsDomain d = false → s.cacheDomain d = false → exec (.domainOff d) s = .next (s.pwrEnd stDone)) ∧
    ((pwrSwitchable d = false ∨ s.ctr.holdsDomain d = true ∨ s.sen.needsDomain d = true ∨ s.cacheDomain d = true) →
      exec (.domainOff d) s = .next (s.pwrEnd stBadParam)) ∧
    (pwrSwitchable d = true → s.pwr.domains.getLsbD d = false → exec (.domainOn d) s = .next (s.onPwr fun p =>
        { p with rising := p.rising ||| (1#64 <<< d), busy := some d })) ∧
    (pwrSwitchable d = true → s.pwr.domains.getLsbD d = true → exec (.domainOn d) s = .next (s.pwrEnd stDone)) ∧
    (pwrSwitchable d = false → exec (.domainOn d) s = .next (s.pwrEnd stBadParam))) ∧
  (∀ (s : State) (c : Instr), s.bar0Open = true → s.pwr.busy ≠ none →
    (c = .park ∨ (∃ d, c = .domainOff d) ∨ (∃ d, c = .domainOn d) ∨ ∃ r, c = .rateTarget r) →
    exec c s = .next (s.onPwr fun p => { p with ignored := satU 8 (p.ignored + 1) })) ∧
  (∀ (s : State) (r : Nat), s.bar0Open = true → s.pwr.busy = none →
    (s.sec.floor ≤ r → r ≤ 1150 → r % 10 = 0 → ∃ u, exec (.rateTarget r) s = .next u ∧ u.pwr.hostRate = r ∧ u.pwr.done = true ∧
      u.pwr.status = stDone ∧ (s.ctr.prog.running = false → u.pwr.effective = max s.sec.floor (min r s.pwr.cap)) ∧
      (s.ctr.prog.running = true → u.pwr.effective = s.pwr.effective) ∧ u.fab = s.fab ∧ u.saf = s.saf) ∧
    ((r < s.sec.floor ∨ 1150 < r ∨ r % 10 ≠ 0) → exec (.rateTarget r) s = .next (s.pwrEnd stBadParam))) ∧
  (∀ s : State, s.bar0Open = true → s.pwr.busy = none →
    (s.parkOk = true → ∃ u, exec .park s = .next u ∧ u.pwr.state = .parked ∧ u.pwr.domains = 0 ∧ u.saf.latched = true ∧
      u.ctr.armed = none ∧ u.ctr.staged = none ∧ u.hif.linkUp = false ∧ u.mss = s.mss ∧ u.sec = s.sec ∧
      ((∀ c : Fin 8, s.fab.caches.get c = none) → u.fab.dram = s.fab.dram)) ∧
    (s.parkOk = false → exec .park s = .next (s.pwrEnd stNotReady))) ∧
  (∀ (s : State) (d : Nat), s.pins.rstN = true → d < 50 →
    (s.pwr.closing.getLsbD d = true → s.pwr.rising.getLsbD d = false →
      ∃ u, exec (.powerGateOpen d) s = .next u ∧ u.pwr.domains = s.pwr.domains &&& ~~~(1#64 <<< d) ∧ u.pwr.closing.getLsbD d = false ∧
        u.fab = (s.loseWrites [d]).fab.clearDomain d ∧ u.cpx.qm = (s.loseWrites [d]).cpx.qm ∧ u.saf = s.saf ∧ u.ctr = s.ctr ∧
        (s.pwr.busy = some d → u.pwr.busy = none ∧ u.pwr.done = true ∧ u.pwr.status = stDone) ∧
        (s.pwr.busy ≠ some d → u.pwr.busy = s.pwr.busy ∧ u.pwr.done = s.pwr.done ∧ u.hif = s.hif)) ∧
    ((s.pwr.closing.getLsbD d = false ∨ s.pwr.rising.getLsbD d = true) → exec (.powerGateOpen d) s = .next s)) ∧
  (∀ (s : State) (d : Nat), s.pins.rstN = true → d < 50 →
    (s.pwr.rising.getLsbD d = true → s.domainSettled d = true → s.pwr.domains.getLsbD d = false → s.cpx.cap = none →
      ∃ u, exec (.domainSwitchComplete d) s = .next u ∧ u.pwr.domains = s.pwr.domains ||| (1#64 <<< d) ∧
        u.pwr.rising = s.pwr.rising &&& ~~~(1#64 <<< d) ∧ u.pwr.closing = s.pwr.closing ∧ u.fab = s.fab.clearDomain d ∧ u.saf = s.saf ∧
        (s.pwr.state ≠ .parked → u.cpx = s.cpx ∧ u.pwr.state = s.pwr.state) ∧
        (s.pwr.state = .parked → s.pwr.wake = true → u.pwr.rising = 0 → u.pwr.state = .ready ∧ u.cpx.qmCores = 0xFF#8 ∧ u.pwr.wake = false) ∧
        (s.pwr.state = .parked → (s.pwr.wake = false ∨ u.pwr.rising ≠ 0) → u.pwr.state = .parked) ∧
        (s.pwr.busy = some d → s.pwr.closing.getLsbD d = false → u.pwr.busy = none ∧ u.pwr.done = true ∧ u.pwr.status = stDone) ∧
        ((s.pwr.busy ≠ some d ∨ s.pwr.closing.getLsbD d = true) → u.pwr.busy = s.pwr.busy ∧ u.pwr.done = s.pwr.done)) ∧
    ((s.pwr.rising.getLsbD d = false ∨ s.domainSettled d = false) → exec (.domainSwitchComplete d) s = .next s)) ∧
  (∀ (s : State) (ring : Nat) (pk : Packet), s.Starts ring 0xA0 pk → pk.u 0x18 8 % 64 = 0 →
    (∀ b, s.phyDesc = some b → s.mss.inOne tagShared s.mss.phyAddr.toNat s.mss.phySize = true ∧ phyOk b = true) →
    ∃ new : BitVec 64, new = BitVec.ofNat 64 (2 ^ 38 + 2 ^ 39 + 2 ^ 47 + 2 ^ 48) &&& ~~~s.pwr.domains ∧
      exec (.discover ring) s = .next (((s.markStarted pk).powerOn new).onMss fun m =>
        { m with discover := some { pkt := s.begun pk, switched := new, desc := s.phyDesc } })) ∧
  (∀ (s : State) (o : Observation) (d : DiscoverReq) (v w : State) (b : List Byte), s.pins.rstN = true → s.mss.discover = some d →
    v = s.advance (d.pkt.started.getD s.now + 200000000) → b = v.discoveryReport d.desc o →
    w = (v.gateOffEnd (d.switched &&& ~~~v.sen.mask)).onMss (fun m => { m with discover := none }) →
    (b.length ≤ d.pkt.u 0x14 4 → exec (.discoverComplete o) s = .next ((w.hostWrite (d.pkt.u 0x18 8) b).done d.pkt b.length)) ∧
    (d.pkt.u 0x14 4 < b.length → exec (.discoverComplete o) s = .next (w.noRes d.pkt b.length)))

/-- With RST_N high: RATE_MONITOR_WINDOW (no swap or join waiting for it) acts on each powered unit's state and on no other, and changes
no memory; a window raises the set point by 2.5 mV when its rate is below the target or a sentinel's flag stands or is owed
(one step for both: log 149), lowers it above 101 % of the target 100 us after the last flag fell, and clamps it; 50 windows within 1 %
settle the unit. SENTINEL_FLAG sets or clears one sentinel's flag, counts a raised one, owes a step for it, and sets the EMT margin,
which EMT_MARGIN_EXPIRY clears 100 us after the last flag fell; BELOW_FLOOR is an event from 10 windows and makes the unit suspect
from 1,000, each once (log 177). SUPPLY_LOOP_EVALUATION raises the supply by at
most 50 mV and not past its target, leaves it within 10 mV above it and else lowers it by at most 5 mV. AVSBUS_TIMEOUT notes its
event. MONITOR_SAMPLE takes the readings and compares the hottest with the thresholds; at the limit the cap is the floor.
THERMAL_CAP_STEP moves the cap by 10 between floor and 1,150. THERMAL_TRIP parks a READY or RUNNING part whatever runs. MR4_READ
takes the hottest reading; its limit puts the cap at the floor. PATROL_SCRUB and ECC_WRITE_BACK count corrected errors; an
uncorrectable one is recorded with its event, a failed write has its event. -/
def Obligations.LoopsMonitorsAndScrubbing : Prop :=
  (∀ (s : State) (rates : List Nat), s.pins.rstN = true → s.cpx.cap = none → (s.ctr.armed ≠ none ∨ s.ctr.armPending = none) →
    ∃ u, exec (.rateMonitorWindow rates) s = .next u ∧ u.fab = s.fab ∧ u.ctr = s.ctr ∧ u.cpx = s.cpx ∧ u.saf.latched = s.saf.latched ∧
      ∀ i : Fin 17, u.pwr.units.get i = if s.pwr.unitOn i.val then
        (s.pwr.units.get i).window i.val (rates.getD i.val 0) s.pwr.effective s.sec.floor s.pwr.vdd u.now else s.pwr.units.get i) ∧
  (∀ (x y : RateUnit) (i rate target floor vdd now top bot : Nat), i < 16 → y = x.window i rate target floor vdd now →
    top = vdd * 1000 - 10000 → bot = vdd * 1000 - 150000 →
    ((rate < target ∨ x.flagged ≠ 0 ∨ x.owed = true) → y.ldo = max bot (min top (x.ldo + 2500))) ∧
    (target * 101 < rate * 100 → x.flagged = 0 → x.owed = false → (∀ t, x.flagClear = some t → t + 100000 ≤ now) →
      y.ldo = max bot (min top (x.ldo - 2500))) ∧
    (target ≤ rate → x.flagged = 0 → x.owed = false → (rate * 100 ≤ target * 101 ∨ ∃ t, x.flagClear = some t ∧ now < t + 100000) →
      y.ldo = max bot (min top x.ldo)) ∧
    (target * 99 ≤ rate * 100 → rate * 100 ≤ target * 101 → y.inBand = x.inBand + 1 ∧ y.settled = (x.settled || decide (49 ≤ x.inBand))) ∧
    ((rate * 100 < target * 99 ∨ target * 101 < rate * 100) → y.inBand = 0 ∧ y.settled = x.settled) ∧
    y.owed = false ∧ y.flagged = x.flagged ∧ y.count = x.count + rate) ∧
  (∀ (s : State) (u : UnitId) (k : Nat) (b : Bool) (i : Nat), s.pins.rstN = true → unitRateIdx u = some i → k < sentinels u →
    ∃ t x y, exec (.sentinelFlag u ⟨k, b⟩) s = .next t ∧ x = vget s.pwr.units i RateUnit.zero ∧ y = vget t.pwr.units i RateUnit.zero ∧
      (∀ j, j < 96 → y.flagged.getLsbD j = if j = k then b else x.flagged.getLsbD j) ∧ y.owed = (x.owed || b) ∧
      y.flagClear = (if y.flagged ≠ 0 then none else if x.flagged ≠ 0 then some s.now else x.flagClear) ∧
      (∀ j, j ≠ i → vget t.pwr.units j RateUnit.zero = vget s.pwr.units j RateUnit.zero) ∧
      t.pwr.emtMargin = (s.pwr.emtMargin || (b && decide (i = 16))) ∧
      t.evr = (if b then (s.countErr (unitErrRow u) colSentinel 1).evr else s.evr) ∧ t.fab = s.fab ∧ t.saf = s.saf) ∧
  (∀ (s : State) (n : Nat), s.pins.rstN = true → s.pwr.emtMargin = true → (vget s.pwr.units 16 RateUnit.zero).flagged = 0 →
    (vget s.pwr.units 16 RateUnit.zero).flagClear = some n →
    exec .emtMarginExpiry s = .next ((s.advance (n + 100000)).onPwr fun p => { p with emtMargin := false })) ∧
  (∀ (s : State) (u : UnitId) (i : Nat) (x : RateUnit), s.pins.rstN = true → unitRateIdx u = some i → x = vget s.pwr.units i RateUnit.zero →
    (10 ≤ x.below → x.below < 1000 → x.noted = 0 → exec (.belowFloor u) s =
      .next ((s.note 0x2002 sevError (unitCode u) (unitCode u) x.rate 0).stageNoted i 1)) ∧
    ((x.below < 10 ∨ x.noted = 2) → exec (.belowFloor u) s = .next s) ∧
    (1000 ≤ x.below → x.noted ≠ 2 → ∃ t, exec (.belowFloor u) s = .next t ∧ t.saf.latched = true ∧
      (vget t.pwr.units i RateUnit.zero).noted = 2 ∧ (s.pwr.state = .ready ∨ s.pwr.state = .running → t.pwr.state = .draining))) ∧
  (∀ (s : State) (r : Option Nat) (alert : Bool), s.pins.rstN = true →
    ∃ u, exec (.supplyLoopEvaluation r alert) s = .next u ∧ u.pwr.alert = alert ∧ 620 ≤ s.pwr.vddTarget ∧ s.pwr.vddTarget ≤ 880 ∧
      (s.pwr.vdd < s.pwr.vddTarget → u.pwr.vdd = min s.pwr.vddTarget (s.pwr.vdd + 50)) ∧
      (s.pwr.vddTarget ≤ s.pwr.vdd → s.pwr.vdd < s.pwr.vddTarget + 10 → u.pwr.vdd = s.pwr.vdd) ∧
      (s.pwr.vddTarget + 10 ≤ s.pwr.vdd → u.pwr.vdd = s.pwr.vdd ∨ u.pwr.vdd = s.pwr.vdd - 5) ∧
      (∀ v, r = some v → u.pwr.vddRead = v ∧ u.pwr.avsLast = u.now) ∧ u.fab = s.fab ∧ u.saf = s.saf) ∧
  (∀ s : State, s.pins.rstN = true → ∃ u, exec .avsbusTimeout s = .next u ∧ u.pwr = { s.pwr with avsLast := u.now } ∧
    (s.pwr.avsLast + 10000000 < 2 ^ 64 → s.pwr.avsLast + 10000000 ≤ u.now) ∧ u.fab = s.fab ∧ u.saf = s.saf) ∧
  (∀ (s : State) (tj : List Int) (sup : List Nat), s.pins.rstN = true →
    ∃ u, exec (.monitorSample tj sup) s = .next u ∧ u.pwr.tj = Vector.ofFn (fun i : Fin 32 => tj.getD i.val 0) ∧
      u.pwr.supply = Vector.ofFn (fun i : Fin 24 => sup.getD i.val 0) ∧ u.pwr.lastSample = u.now ∧
      u.pwr.warnAbove = decide (((8 * s.mss.warn : Nat) : Int) ≤ u.pwr.hottest.2) ∧
      u.pwr.throttleAbove = decide (((8 * s.mss.throttle : Nat) : Int) ≤ u.pwr.hottest.2) ∧
      u.pwr.cap = (if 1000 ≤ u.pwr.hottest.2 then s.sec.floor else s.pwr.cap) ∧
      (1040 ≤ u.pwr.hottest.2 → u.pwr.tripSince.isSome = true) ∧ (u.pwr.hottest.2 < 1040 → u.pwr.tripSince = none) ∧
      u.fab = s.fab ∧ u.saf = s.saf) ∧
  (∀ s : State, s.pins.rstN = true → ∃ u, exec .thermalCapStep s = .next u ∧ u.fab = s.fab ∧ u.saf = s.saf ∧
    (((8 * s.mss.throttle : Nat) : Int) ≤ s.pwr.hottest.2 → u.pwr.cap = max s.sec.floor (s.pwr.cap - 10)) ∧
    (s.pwr.hottest.2 < ((8 * (s.mss.throttle - 5) : Nat) : Int) → s.pwr.mr4Hot = none → u.pwr.cap = min 1150 (s.pwr.cap + 10)) ∧
    (s.pwr.hottest.2 < ((8 * s.mss.throttle : Nat) : Int) → (s.pwr.mr4Hot ≠ none ∨ ((8 * (s.mss.throttle - 5) : Nat) : Int) ≤ s.pwr.hottest.2) →
      u.pwr.cap = s.pwr.cap)) ∧
  (∀ s : State, s.pins.rstN = true → (s.pwr.state = .ready ∨ s.pwr.state = .running) → (s.pwr.tripSince ≠ none ∨ s.pwr.mr4Hot ≠ none) →
    ∃ u, exec .thermalTrip s = .next u ∧ u.pwr.state = .parked ∧ u.pwr.tripped = true ∧ u.pwr.domains = 0 ∧ u.saf.latched = true ∧
      u.ctr.armed = none ∧ u.ctr.placed = none ∧ u.hif.linkUp = false) ∧
  (∀ (s : State) (h c : Nat) (hot : Bool), s.pins.rstN = true → ∃ u, exec (.mr4Read h c hot) s = .next u ∧ u.pwr.mr4 = h ∧
    u.pwr.mr4Hot.isSome = hot ∧ u.pwr.cap = (if hot then s.sec.floor else s.pwr.cap) ∧ u.fab = s.fab ∧ u.saf = s.saf) ∧
  (∀ (s : State) (a : Nat) (v : State), s.pins.rstN = true → s.mss.dataRate ≠ 0 → a < s.mss.usable →
    v = s.onPwr (fun p => { p with patrolled := p.patrolled + 1 }) →
    exec (.patrolScrub a .clean) s = .next v ∧ exec (.patrolScrub a .corrected) s = .next (v.countErr (unitErrRow .dmc) colEcc 1) ∧
    (∀ n d, exec (.patrolScrub a (.uncorrectable n d)) s = .next (v.faultNoUnit
      { detector := 0x03, unit := .dmc, subunit := n, cls := 0xFF, address := a, detail := d }))) ∧
  (∀ s : State, s.pins.rstN = true →
    (∀ u, exec (.eccWriteBack (.corrected u)) s = .next (s.countErr (unitErrRow u) colEcc 1)) ∧
    (∀ ch, exec (.eccWriteBack (.failed ch)) s = .next (s.note 0x2004 sevError (unitCode .dmc) ch 0 0)))

/-! ### Registers -/

/-- A read of EMT_HOST_DROPS, CKC_COPY_DROPS, DBG_STATUS or PWR_REQ_STATUS, reaching BAR0 outside BOOT, returns the word and clears
its read-to-clear count. APPLY with nothing loaded and no job open takes the shadow table; else it is refused with ERR_CODE 4.
The apply ends either with the first faulty entry named and the table in force kept, or with the new table in force and one apply
counted; with no encrypted entry in either table no memory changes. SAFE_RESERVE takes 60 to 90 in steps of 5 and otherwise keeps its
value; the thermal thresholds are both taken or the write is marked rejected. REGISTER_WRITE: scratch is written even in
BOOT; the low half of a 64-bit register is held and takes effect with its high half, a 64-bit write takes effect whole; a write
of another width or alignment changes nothing; a write of PWR_REQUEST is the command its low bits name. -/
def Obligations.Bar0ReadsAndWrites : Prop :=
  (∀ s : State, s.bar0Reads = true → s.pwr.state ≠ .boot →
    exec .emtHostDropsRead s = .next ((s.post (.readData (leBytes 4 (s.regRead 0xC10)))).onEmt fun e => { e with dropsReg := 0 }) ∧
    exec .ckcCopyDropsRead s = .next ((s.post (.readData (leBytes 4 (s.regRead 0x1208)))).onCkc fun c => { c with copyDrops := 0 }) ∧
    exec .dbgStatusRead s = .next ((s.post (.readData (leBytes 4 (s.regRead 0x1E00)))).onSec fun x => { x with attempts := 0 }) ∧
    exec .pwrReqStatusRead s = .next ((s.post (.readData (leBytes 4 (s.regRead 0x141C)))).onPwr fun p => { p with ignored := 0 }) ∧
    s.regRead 0x141C = s.pwr.reqStatus % 2 ^ 32 ∧ (s.pwr.state ≠ .recovery → s.regRead 0xC10 = s.emt.dropsReg % 2 ^ 32)) ∧
  (∀ s : State, s.bar0Open = true → s.mss.applyBusy = none →
    (s.ctr.staged = none → s.ctr.armed = none → s.cpx.jobOpen = false →
      exec .apply s = .next (s.onMss fun m => { m with applyBusy := some m.shadow })) ∧
    ((s.ctr.staged ≠ none ∨ s.ctr.armed ≠ none ∨ s.cpx.jobOpen = true) → exec .apply s =
      .next ((s.onMss fun m => { m with errCode := 4, errEntry := 0 }).note 0x7005 sevWarning noUnit 0 0 0))) ∧
  (∀ (s : State) (t : Vector Word 16), s.pins.rstN = true → s.mss.applyBusy = some t →
    (∀ n c, firstFault s.mss.usable [] (regionsOf t) = some (n, c) → exec .regionApplyComplete s = .next (s.onMss fun m =>
      { m with applyBusy := none, errCode := c, errEntry := n })) ∧
    (firstFault s.mss.usable [] (regionsOf t) = none → ∃ u, exec .regionApplyComplete s = .next u ∧
      u.mss = { s.mss with applyBusy := none, errCode := 0, errEntry := 0, applies := s.mss.applies + 1,
                           regions := ((regionsOf t).filter fun r => decide (r.tag ≠ 0)).map s.mss.keyed } ∧
      (∀ sp a, sp ≠ .dram → u.fab.peek sp a = s.fab.peek sp a) ∧
      ((∀ r ∈ regionsOf t, r.encrypt = false) → (∀ r ∈ s.mss.regions, r.encrypt = false) → u = { s with mss := u.mss }))) ∧
  (∀ (s : State) (v : Word), s.bar0Open = true →
    (60 ≤ v.toNat % 128 → v.toNat % 128 ≤ 90 → v.toNat % 128 % 5 = 0 → exec (.mssSafeReserveWrite v) s = .next (s.onMss fun m =>
      { m with reserve := v.toNat % 128, reserveEff := max (v.toNat % 128) (minReserve m.dataRate) })) ∧
    ((v.toNat % 128 < 60 ∨ 90 < v.toNat % 128 ∨ v.toNat % 128 % 5 ≠ 0) → exec (.mssSafeReserveWrite v) s = .next s) ∧
    (∀ w t, w = v.toNat % 256 → t = v.toNat / 256 % 256 →
      (90 ≤ w → w ≤ 120 → 100 ≤ t → t ≤ 122 → w < t → exec (.mssThermalCfgWrite v) s =
        .next (s.onMss fun m => { m with warn := w, throttle := t, thermalRejected := false })) ∧
      ((w < 90 ∨ 120 < w ∨ t < 100 ∨ 122 < t ∨ t ≤ w) → exec (.mssThermalCfgWrite v) s =
        .next (s.onMss fun m => { m with thermalRejected := true })))) ∧
  (∀ (s : State) (k : Nat) (v : DWord), s.bar0Reads = true → k < 4 → exec (.registerWrite (0x1870 + 4 * k) 32 v) s =
    .next (s.onMss fun m => { m with scratch := vset m.scratch k (BitVec.ofNat 32 v.toNat) })) ∧
  (∀ (s : State) (v w : DWord), s.bar0Reads = true → s.pwr.state ≠ .boot →
    exec (.registerWrite 0x1850 64 v) s = .next (s.onMss fun m => { m with phyAddr := v, heldPhy := none }) ∧
    exec (.registerWrite 0x1850 32 v) s = .next (s.onMss fun m => { m with heldPhy := some (BitVec.ofNat 32 v.toNat) }) ∧
    (∃ u, exec (.registerWrite 0x1850 32 v) s = .next u ∧ exec (.registerWrite 0x1854 32 w) u = .next (s.onMss fun m =>
      { m with phyAddr := BitVec.ofNat 64 (v.toNat % 2 ^ 32 + 2 ^ 32 * (w.toNat % 2 ^ 32)), heldPhy := none })) ∧
    (∀ k, k < 16 → exec (.registerWrite (0x1800 + 4 * k) 32 v) s =
      .next (s.onMss fun m => { m with shadow := vset m.shadow k (BitVec.ofNat 32 v.toNat &&& 0x1FFFFFF#32) }))) ∧
  (∀ (s : State) (off width : Nat) (v : DWord), (width ≠ 32 ∨ off % 4 ≠ 0) → (width ≠ 64 ∨ off % 8 ≠ 0) →
    exec (.registerWrite off width v) s = .next s) ∧
  (∀ (s : State) (v : DWord), s.bar0Open = true →
    (v.toNat % 16 = 0 → exec (.registerWrite 0x1418 32 v) s = exec (.domainOff (bitsOf v.toNat 9 4)) s) ∧
    (v.toNat % 16 = 1 → exec (.registerWrite 0x1418 32 v) s = exec (.domainOn (bitsOf v.toNat 9 4)) s) ∧
    (v.toNat % 16 = 2 → exec (.registerWrite 0x1418 32 v) s = exec (.rateTarget (bitsOf v.toNat 26 16)) s) ∧
    (v.toNat % 16 = 3 → exec (.registerWrite 0x1418 32 v) s = exec .park s))

/-! ### Streams, commits and operators -/

/-- LOADW, MMA, CONV, DRAIN, VOP, SCALAR, DMA_IN, DMA_OUT, GATHER, WAIT, POST and GOLDEN, next in the running command's stream,
or in the frame program's with its rings ready, act on the run of their commit unit as the row says, and where no access ends
the command or waits for a domain that is switching on, that run and fabric stand and a complete instruction moves the core on; with a ring not ready, or
a domain still switching on, nothing changes. No byte of the shared buffer, a scratchpad or CKC's SRAM changes, and none of LPDDR5X but by
the cache of a scalar segment, a flush or a gather (classes 6, 8, 9). HALT halts the core. A custom opcode costs one unit: SEG_END
ends the segment; FCVT puts the converted value into rd, no other register changed, and the segment goes on; past UNITS_MAX it
overruns. WAIT_SATISFIED of the WAIT first at the semaphore takes its count and the core moves on; else nothing changes. A frame's
COPPICE that the MSS selected runs its slice, any other does nothing; a command's stream may hold neither GOLDEN nor COPPICE. -/
def Obligations.StreamsActOnTheirRun : Prop :=
  (∀ (s : State) (c : Fin 8) (w : BitVec 128) (p : Nat × Instr × (RingAt → Cx → Did)), p ∈ ([(0x1, .loadw c w, fun _ x => did (runLoadw c w x)), (0x2, .mma c w, fun _ x => did (runMma c w x)),
       (0x3, .conv c w, fun _ x => did (runConv c w x)), (0x4, .drain c w, fun _ x => did (runDrain c w x)),
       (0x5, .vop c w, fun _ x => did (runVop c w x)),
       (0x6, .scalar c w, fun _ x => { x := (runSegment c (startSegment c w x)).1, done := true,
                                       ovf := (runSegment c (startSegment c w x)).2 }),
       (0x7, .dmaIn c w, fun r x => did (runDmaIn c r w x)), (0x8, .dmaOut c w, fun r x => runDmaOut c r w x),
       (0x9, .gather c w, fun _ x => if x.qm && !x.usable.getLsbD 42 then did (x.stop stNoResource)
                                     else did (x.gather (.mxc c) (some c) (seqGather c w))),
       (0xA, .wait c w, fun _ x =>
         if fld w 97 82 ≤ x.sem (fld w 113 98) && (x.fab.firstWaiter (fld w 113 98)).isNone then did (x.acquire (fld w 113 98) (fld w 97 82))
         else { x := x.join c (fld w 113 98) (fld w 97 82), done := false, ovf := false }),
       (0xB, .post c w, fun _ x => did { x with run := { x.run with posts := x.run.posts ++ [(fld w 113 98, fld w 97 82)] } }),
       (0xD, .golden c w, fun _ x => did { x with run :=
         { x.run with golden := some (spaByte (fld w 113 96), 64 * fld w 95 76) } })] : List (Nat × Instr × (RingAt → Cx → Did))) →
    (∀ q r, s.QmTakes c p.1 w q → r = p.2.2 (fun _ _ _ => none) { s.cxQm q with cls := p.1 } →
      exec p.2.1 s = .next ((s.qmBack q (r.moved c)).overrun c q.run.ident (r.ovf && !r.x.wait)) ∧
      (r.x.wait = true → exec p.2.1 s = .next s) ∧
      (r.x.wait = false → r.x.run.status = none → ∃ t, exec p.2.1 s = .next t ∧ t.fab = (r.moved c).fab ∧
        t.cpx.qm = some { q with run := r.x.run } ∧ (t.fab.cores.get c).csq = (r.x.core c).csq + (if r.done then 1 else 0) ∧
        t.ctr = s.ctr ∧ t.saf = s.saf) ∧
      (s.cpx.cap = none → ∀ sp a, (sp ≠ .dram ∨ (p.1 ≠ 6 ∧ p.1 ≠ 8 ∧ p.1 ≠ 9)) →
        ((s.qmBack q (r.moved c)).overrun c q.run.ident (r.ovf && !r.x.wait)).fab.peek sp a = s.fab.peek sp a)) ∧
    (∀ a e x r g, s.FrameTakes c p.1 w a e → g = (fun wr i o => a.ringAt s.ctr.prog wr i o) → x = s.frameCx c e w → r = p.2.2 g x →
      (s.ringsReady a c.val (seqAcc x.rd c (x.core c) g w) = true →
        exec p.2.1 s = .next (s.frameAfter c e r) ∧
        (r.x.wait = true → exec p.2.1 s = .next s) ∧
        (r.x.wait = false → ∃ t, exec p.2.1 s = .next t ∧ (t.fab.cores.get c).run = r.x.run ∧
          (t.fab.cores.get c).csq = (r.x.core c).csq + (if r.done then 1 else 0) ∧ t.ctr = s.ctr ∧ t.saf = s.saf ∧ t.cpx = s.cpx) ∧
        ∀ sp b, (sp ≠ .dram ∨ (p.1 ≠ 6 ∧ p.1 ≠ 8 ∧ p.1 ≠ 9)) → (s.frameAfter c e r).fab.peek sp b = s.fab.peek sp b) ∧
      (s.ringsReady a c.val (seqAcc x.rd c (x.core c) g w) = false → exec p.2.1 s = .next s))) ∧
  (∀ (s : State) (c : Fin 8) (w : BitVec 128), s.pins.rstN = true → seqClass w = 0 →
    ((∃ q, s.QmTakes c 0 w q) ∨ (s.cpx.qm = none ∧ (s.fab.cores.get c).run.active = false ∧
      (s.fab.cores.get c).free (s.fab.cores.get c).run.waiting c = true ∧
      ∃ a, s.ctr.armed = some a ∧ a.instrAt c.val (s.fab.cores.get c).csq = some w)) →
    exec (.halt c w) s = .next (s.onFab fun f => { f with cores := f.cores.set c { s.fab.cores.get c with halted := true } })) ∧
  (∀ (s : State) (c : Fin 8) (rd rs : Fin 32) (f : Su → Su) (v : Su → Word) (i : Instr), s.pins.rstN = true →
    (s.fab.cores.get c).su.active = true →
    ((i = .segEnd c ∧ f = segEnd) ∨
      (i = .fcvtBf16S c rd rs ∧ f = fcvtTo 2 16 rd rs ∧ v = fun u => BitVec.ofNat 32 (boxed 16 (suRound 2 ((suRm u 7).getD 0) (ieee (u.getF rs.val))).1)) ∨
      (i = .fcvtE4m3S c rd rs ∧ f = fcvtTo 3 8 rd rs ∧ v = fun u => BitVec.ofNat 32 (boxed 8 (suRound 3 ((suRm u 7).getD 0) (ieee (u.getF rs.val))).1)) ∨
      (i = .fcvtSBf16 c rd rs ∧ f = fcvtFrom 2 rd rs ∧ v = fun u => BitVec.ofNat 32 (suRound 0 0 (ieee (BitVec.ofNat 32 ((u.getF rs.val).toNat % 2 ^ 16 * 2 ^ 16)))).1) ∨
      (i = .fcvtSE4m3 c rd rs ∧ f = fcvtFrom 3 rd rs ∧ v = fun u => BitVec.ofNat 32 (suRound 0 0 (fmtValue 3 ((u.getF rs.val).toNat % 2 ^ 8))).1)) →
    (i ≠ .segEnd c → ∀ u : Su, (f u).getF rd.val = v u ∧ (f u).x = u.x ∧ (f u).pc = u.pc ∧ (f u).active = u.active ∧
      ∀ r, r ≠ rd.val → (f u).getF r = u.getF r) ∧
    (∀ (x : Cx) (u : Su) (n : Nat), u = (x.core c).su → n = (if x.le (.spad c) u.pc 2 % 4 = 3 then 4 else 2) →
      (u.unitsMax < u.units + 1 → customOp c f x = (x.putCore c { x.core c with su := Su.idle }, true)) ∧
      (u.units + 1 ≤ u.unitsMax → i = .segEnd c → customOp c f x = (x.putCore c { x.core c with su := Su.idle }, false)) ∧
      (u.units + 1 ≤ u.unitsMax → i ≠ .segEnd c → u.active = true → customOp c f x =
        runSegment c (x.putCore c { x.core c with su := f { u with pc := (u.pc + n) % 2 ^ 32, units := u.units + 1 } }))) ∧
    (∀ q r, s.cpx.qm = some q → r = customOp c f { s.cxQm q with cls := 6 } →
      exec i s = .next ((s.qmBack q r.1).overrun c q.run.ident (r.2 && !r.1.wait)) ∧
      (r.1.wait = false → r.1.run.status = none → ∃ t, exec i s = .next t ∧ t.fab = r.1.fab ∧ t.cpx.qm = some { q with run := r.1.run })) ∧
    (∀ r, s.cpx.qm = none → r = customOp c f { s.cx (s.fab.cores.get c).run with cls := 6 } →
      exec i s = .next ((s.cxBack (r.1.putCore c { r.1.core c with run := r.1.run })).overrun c (s.fab.cores.get c).run.ident (r.2 && !r.1.wait)) ∧
      (r.1.wait = false → ∃ t, exec i s = .next t ∧ t.fab.cores.get c = { r.1.core c with run := r.1.run }))) ∧
  (∀ (s : State) (c : Fin 8) (r : Run), s.pins.rstN = true →
    ((∃ q, s.cpx.qm = some q ∧ r = q.run) ∨ (s.cpx.qm = none ∧ r = (s.fab.cores.get c).run)) →
    (∀ n k, r.status = none → r.waiting.find? (fun p => p.1 = c.val) = some (c.val, n, k) → (∀ p ∈ r.posts, p.1 ≠ n) →
      s.fab.firstWaiter n = some c.val → k ≤ s.fab.sem n → k < 2 ^ 32 → 0 < k →
      ∃ t r', exec (.waitSatisfied c) s = .next t ∧ r'.acquired = (n, k) :: r.acquired ∧ (∀ p ∈ r'.waiting, p.1 ≠ c.val) ∧
        (∀ q, s.cpx.qm = some q → t.cpx.qm = some { q with run := r' }) ∧ (s.cpx.qm = none → (t.fab.cores.get c).run = r') ∧
        t.fab.sem n = s.fab.sem n - k ∧ t.fab.waiters = s.fab.waiters.erase (n, c.val) ∧
        (t.fab.cores.get c).csq = (s.fab.cores.get c).csq + 1 ∧ (∀ sp a, t.fab.peek sp a = s.fab.peek sp a) ∧ t.ctr = s.ctr ∧ t.saf = s.saf) ∧
    (r.waiting.find? (fun p => p.1 = c.val) = none → exec (.waitSatisfied c) s = .next s) ∧
    (∀ d n k, r.waiting.find? (fun p => p.1 = c.val) = some (d, n, k) → s.fab.firstWaiter n ≠ some c.val →
      exec (.waitSatisfied c) s = .next s)) ∧
  (∀ (s : State) (c : Fin 8) (w : BitVec 128) (a : Contract) (e : StepEntry) (b : Bool) (sg : Option DWord) (f : Bool),
    s.FrameTakes c 0xE w a e →
    (s.evr.coppiceStep ≠ some (s.frameCx c e w).run.ident →
      exec (.coppice c w b sg f) s = .next (s.frameAfter c e (did (s.frameCx c e w)))) ∧
    (s.evr.coppiceStep = some (s.frameCx c e w).run.ident →
      exec (.coppice c w b sg f) s = .next ((s.frameAfter c e (did (s.frameCx c e w))).runSlice c.val b sg f))) ∧
  (∀ (cores : BitVec 8) (banks : List Nat) (c : Fin 8) (w : BitVec 128), (seqClass w = 0xD ∨ seqClass w = 0xE) →
    seqAllowedQm cores banks c w = false)

/-- RUN_OP at the front of a RUNNING job, admitted, its units settled, its contract and record in HOST_SHARED: BAD_PARAM when the
record, its scale headers or an instruction of its streams is not valid; NO_RESOURCE when what it needs is not free; else the command
starts with the QM core set, and with streams no byte of memory changes. COMMIT of a command with nothing under way: a changed generation word
runs it again once, the clean cached lines dropped, then ends it with GENERATION_CHANGED; a non-finite amax ends it with NONFINITE; counts over a
limit run it again with the retry scale; otherwise all its effects become visible together, it replies, and no command is
running. COMMIT of a core's or an engine's step whose checks pass and that needs no retry commits the step and leaves its unit at
rest; one that needs a retry goes round again; a golden output that differs leaves the step uncommitted, its check failed. -/
def Obligations.CommitsAreAllOrNothing : Prop :=
  (∀ (s : State) (ring : Nat) (streams : List (Nat × List (BitVec 128))) (banks segs used bs gs : List Nat) (j : Job) (pk : Packet)
      (r : OpRec) (rd : Reader) (allowed : Bool), s.pins.rstN = true →
    s.cpx.cap = none → s.nextCmd ring = some (j, pk) → pk.opcode = 0x31 → s.cpx.cplRoom pk.ring = true →
    s.gate (s.begun pk) = none → s.mss.inOne tagShared (pk.u 0x10 8) 64 = true → s.mss.inOne tagShared (pk.u 0x18 8) 32 = true →
    rd = (fun sp a n => leNat (s.fab.peeks sp a n)) → r = readRec rd .dram (pk.u 0x18 8) → s.mss.inOne tagShared (pk.u 0x18 8) r.size = true →
    s.cmdSettled ((opInfo r.op).map fun k => k.unit) streams = true → used = (if streams.isEmpty then r.holds rd else []) →
    bs = (banks ++ used.filter fun b => decide (b < 64)).eraseDups →
    gs = (segs ++ (used.filter fun b => decide (64 ≤ b)).map fun b => b - 64).eraseDups →
    allowed = (streams.all fun p => p.2.all (seqAllowedQm s.cpx.qmCores (j.banks ++ bs) (coreOf p.1))) →
    ((r.ok false (fun _ _ _ => none) (r.nmsLen rd (fun _ _ _ => none)) = false ∨ r.hdrsOk rd (fun _ _ => true) = false ∨ allowed = false) →
      exec (.runOp ring streams banks segs) s = .next (s.replyAll (s.begun pk) stBadParam 0xFFFF 0 0 0)) ∧
    (r.ok false (fun _ _ _ => none) (r.nmsLen rd (fun _ _ _ => none)) = true → r.hdrsOk rd (fun _ _ => true) = true → allowed = true →
      ((s.canHold bs gs = false ∨ ∃ p ∈ streams, s.cpx.qmCores.getLsbD p.1 = false) →
        exec (.runOp ring streams banks segs) s = .next (s.replyAll (s.begun pk) stNoResource 0 0 0 0)) ∧
      (s.canHold bs gs = true → (∀ p ∈ streams, s.cpx.qmCores.getLsbD p.1 = true) →
        exec (.runOp ring streams banks segs) s = .next (s.startOp (s.begun pk) j streams bs gs) ∧
        (streams ≠ [] → ∃ q t, exec (.runOp ring streams banks segs) s = .next t ∧ t.cpx.qm = some q ∧ q.pkt = s.begun pk ∧
          q.cores = s.cpx.qmCores ∧ q.streams = streams ∧ q.run.active = true ∧ q.run.done = false ∧ q.run.journal = [] ∧
          (∀ c : Fin 8, s.cpx.qmCores.getLsbD c.val = true → (t.fab.cores.get c).csq = 0 ∧ (t.fab.cores.get c).halted = false) ∧
          (∀ sp a, t.fab.peek sp a = s.fab.peek sp a))))) ∧
  (∀ (s : State) (q : QmRun) (w v : List Int), s.QmAtCommit q →
    (s.gensOk q.run = false →
      (q.run.genReplay = true → exec (.commit .qm w v) s = .next (s.endQm q stGeneration 0)) ∧
      (q.run.genReplay = false → exec (.commit .qm w v) s = .next ((s.onFab Fab.dropClean).qmAgain q
        { q.run with genReplay := true, gens := s.readGens (q.run.gens.map fun g => g.1) }))) ∧
    (s.gensOk q.run = true → (∃ r ∈ q.run.recs, r.peak.isFin = false) → exec (.commit .qm w v) s = .next (s.endQm q stNonfinite 0)) ∧
    (s.gensOk q.run = true → (∀ r ∈ q.run.recs, r.peak.isFin = true) →
      ((s.cxQm q).retryScales ≠ [] → exec (.commit .qm w v) s = .next (s.qmAgain q
        { q.run with retry := true, qRetry := (s.cxQm q).retryScales })) ∧
      ((s.cxQm q).retryScales = [] → exec (.commit .qm w v) s = .next (s.commitQm q w) ∧
        (s.cpx.kills = [] → s.cpx.cap = none → ∃ t, exec (.commit .qm w v) s = .next t ∧ t.fab = (s.cxQm q).committed ∧ t.cpx.qm = none))) ∧
    (∀ run sp a, (s.qmAgain q run).fab.peek sp a = s.fab.peek sp a)) ∧
  (∀ (s : State) (c : Fin 8) (a : Contract) (e : StepEntry) (k : Core) (run : Run) (x : Cx) (w v : List Int), s.pins.rstN = true →
    s.ctr.armed = some a → k = s.fab.cores.get c → a.stepOf c.val k.csq = some e → s.ctr.prog.running = true →
    s.coreAtCommit a c = true → run = (if k.run.active then k.run else Run.start 0 e.id s.now s.waveNow) → run.failed = none →
    x = ({ s.cx run with cls := 0xC }).goldenCheck a e c →
    (x.run.failed ≠ none → exec (.commit (.core c) w v) s = .next (s.onFab fun f => { f with cores := f.cores.set c { k with run := x.run } })) ∧
    (x.run.failed = none → x.retryScales = [] → exec (.commit (.core c) w v) s = .next ((s.restCore c (k.csq + 1) Run.idle).commitStep a e
      { x with fab := (s.restCore c (k.csq + 1) Run.idle).fab } w v) ∧
      (s.ctr.prog.committed.length + 1 ≠ a.hdr.stepCount → ∃ t, exec (.commit (.core c) w v) s = .next t ∧
        t.ctr.prog.committed = e.id :: s.ctr.prog.committed ∧ (t.fab.cores.get c).csq = k.csq + 1 ∧ (t.fab.cores.get c).run = Run.idle ∧
        t.fab = Cx.committed { x with fab := (s.restCore c (k.csq + 1) Run.idle).fab })) ∧
    (x.run.failed = none → x.retryScales ≠ [] → exec (.commit (.core c) w v) s =
      .next (s.coreAgain c e { run with retry := true, qRetry := x.retryScales }))) ∧
  (∀ (s : State) (g : Engine) (a : Contract) (e : StepEntry) (k : EngineSt) (x : Cx) (w v : List Int), s.pins.rstN = true → s.ctr.armed = some a →
    k = s.fab.engine g → a.steps.find? (fun e => e.id = k.run.ident && decide (e.unit = unitCode (.eng g))) = some e →
    s.ctr.prog.running = true → k.run.active = true → k.run.done = true → k.run.failed = none → x = s.cx k.run →
    (x.retryScales = [] → exec (.commit (.engine g) w v) s = .next (((s.restEngine g k.next Run.idle).commitStep a e
      { x with fab := (s.restEngine g k.next Run.idle).fab } w v).engineSlice g e true none false) ∧
      (s.ctr.prog.committed.length + 1 ≠ a.hdr.stepCount → e.kind ≠ 2 → ∃ t, exec (.commit (.engine g) w v) s = .next t ∧
        t.ctr.prog.committed = e.id :: s.ctr.prog.committed ∧ (t.fab.engine g).run = Run.idle ∧ (t.fab.engine g).next = k.next ∧
        t.fab = Cx.committed { x with fab := (s.restEngine g k.next Run.idle).fab })) ∧
    (x.retryScales ≠ [] → exec (.commit (.engine g) w v) s = .next ((s.onFab fun f => f.returnHeld k.run).restEngine g e.streamOffset
      (Run.again { k.run with retry := true, qRetry := x.retryScales }))))

/-- For CONV2D, DWCONV2D, POOL, PAD, MATMUL, ELTWISE, ACTIVATION, LAYER_NORM, SOFTMAX, LAYOUT_CONVERT, ATTENTION, SSM_SCAN, EMBED_GATHER,
RESIZE, GRID_SAMPLE, UNDISTORT, BEV_PROJECT, BOX_DECODE, TOPK, NMS, QUANTISE, DEQUANTISE, AMAX, LOSS, SSM_SCAN_BWD, GRAD_NORM, OPT_ADAMW
and OPT_SGD: as the running command's record at the address that the command names, its unit's domain on, the
operator runs on the command's run, which is then done where no access ends it or waits for a domain; as the next record of an engine's
program, its rings ready, it runs on the engine's step, and waits while they are not; a record at another address does nothing. No byte of
any memory changes before the COMMIT. GXE's next descriptor gathers on its step's run once its rings are ready, ends its
step, or at the program's end halts GXE; a record or descriptor of a coppice step does no work. -/
def Obligations.OperatorsRunProvisionally : Prop :=
  (∀ p : Nat × (Cu → Nat → Instr), p ∈ ([(0x0001, .conv2d), (0x0002, .dwconv2d), (0x0003, .pool), (0x0004, .pad), (0x0010, .matmul), (0x0020, .eltwise),
       (0x0021, .activation), (0x0022, .layerNorm), (0x0023, .softmax), (0x0024, .layoutConvert), (0x0030, .attention),
       (0x0031, .ssmScan), (0x0032, .embedGather), (0x0040, .resize), (0x0041, .gridSample), (0x0042, .undistort),
       (0x0043, .bevProject), (0x0050, .boxDecode), (0x0051, .topk), (0x0052, .nms), (0x0060, .quantise), (0x0061, .dequantise),
       (0x0062, .amax), (0x0070, .loss), (0x0071, .ssmScanBwd), (0x0072, .gradNorm), (0x0073, .optAdamw), (0x0074, .optSgd)] : List (Nat × (Cu → Nat → Instr))) →
  (∀ (s : State) (q : QmRun) (k : OpInfo) (x : Cx) (adr : Nat), s.pins.rstN = true →
    s.cpx.qm = some q → q.streams = [] → q.run.done = false → q.pkt.u 0x18 8 = adr → (s.commandRec q).op = p.1 →
    opInfo p.1 = some k → (∀ d, opDomain k.unit = some d → s.pwr.usable.getLsbD d = true) →
    x = (s.cxQm q).runRecord (opUnitOf k.unit (lowestCore q.cores.toNat)) (lowestCore q.cores.toNat) (fun _ _ _ => none) 0 (s.commandRec q) →
    exec (p.2 .qm adr) s = .next (s.qmBack { q with run := { q.run with done := true } } { x with run := { x.run with done := true } }) ∧
    (x.wait = false → x.run.status = none → ∃ t, exec (p.2 .qm adr) s = .next t ∧ t.fab = x.fab ∧
      t.cpx.qm = some { q with run := { x.run with done := true } } ∧ t.ctr = s.ctr ∧ t.saf = s.saf) ∧
    (x.wait = true → exec (p.2 .qm adr) s = .next s) ∧
    (s.cpx.cap = none → ∀ sp a, (s.qmBack { q with run := { q.run with done := true } }
      { x with run := { x.run with done := true } }).fab.peek sp a = s.fab.peek sp a)) ∧
  (∀ (s : State) (e : Engine) (a : Contract) (er : EngRecord) (st : StepEntry) (x y : Cx) (r : OpRec)
      (g : RingAt), s.pins.rstN = true → e ≠ .gxe → s.engineNext e = some (a, er, st) →
    x = s.cx (s.engineRun e st) → r = readRec x.rd .dram (a.imageAddr + er.off) → r.op = p.1 →
    g = (fun wr i o => a.ringAt s.ctr.prog wr i o) → y = x.runRecord (.eng e) 0 g (s.fab.engine e).next r →
    (st.kind = 2 → exec (p.2 (.engine e) (a.imageAddr + er.off)) s = .next (s.engineBack e er x)) ∧
    (st.kind ≠ 2 → s.ringsReady a (unitCode (.eng e)) (r.headAccs g) = true → s.ringsReady a (unitCode (.eng e)) (r.allAccs x.rd g) = true →
      exec (p.2 (.engine e) (a.imageAddr + er.off)) s = .next (s.engineBack e er y) ∧
      (y.wait = false → ∃ t, exec (p.2 (.engine e) (a.imageAddr + er.off)) s = .next t ∧
        (t.fab.engine e).run = { y.run with done := er.isStep } ∧ (t.fab.engine e).next = (s.fab.engine e).next + 1 ∧ t.ctr = s.ctr) ∧
      ∀ sp b, (s.engineBack e er y).fab.peek sp b = s.fab.peek sp b) ∧
    (st.kind ≠ 2 → (s.ringsReady a (unitCode (.eng e)) (r.headAccs g) = false ∨ s.ringsReady a (unitCode (.eng e)) (r.allAccs x.rd g) = false) →
      exec (p.2 (.engine e) (a.imageAddr + er.off)) s = .next s) ∧
    (∀ adr, adr ≠ a.imageAddr + er.off → exec (p.2 (.engine e) adr) s = .next s))) ∧
  (∀ (s : State) (a : Contract) (er : EngRecord) (st : StepEntry) (x y : Cx) (g : Gather), s.pins.rstN = true →
    s.engineNext .gxe = some (a, er, st) → x = s.cx (s.engineRun .gxe st) → g = readDescriptor x.rd (a.imageAddr + er.off) →
    y = x.gather (.eng .gxe) none g →
    (er.isEnd = true → exec .gatherDescriptor s = .next (s.onFab fun f => f.putEngine .gxe { f.engine .gxe with halted := true })) ∧
    (er.isEnd = false → (er.isStep = true ∨ st.kind = 2) → exec .gatherDescriptor s = .next (s.engineBack .gxe er x)) ∧
    (er.isEnd = false → er.isStep = false → st.kind ≠ 2 → s.ringsReady a (unitCode (.eng .gxe)) (g.acc x.rd) = true →
      exec .gatherDescriptor s = .next (s.engineBack .gxe er y) ∧
      (y.wait = false → ∃ t, exec .gatherDescriptor s = .next t ∧ (t.fab.engine .gxe).run = { y.run with done := false } ∧
        (t.fab.engine .gxe).next = (s.fab.engine .gxe).next + 1 ∧ t.ctr = s.ctr) ∧
      ∀ sp b, (s.engineBack .gxe er y).fab.peek sp b = s.fab.peek sp b) ∧
    (er.isEnd = false → er.isStep = false → st.kind ≠ 2 → s.ringsReady a (unitCode (.eng .gxe)) (g.acc x.rd) = false →
      exec .gatherDescriptor s = .next s))

/-! ### Frames over many commands -/

/-- Each command of a list (packets that only manage clients, rings, buffers, jobs' openings, time or records; register writes and
reads of settings; SPI requests; clock, recorder and link events; requests to the power unit) leaves, from every state and on every
path, the whole fabric as it was: every byte of LPDDR5X, of the shared buffer, of the scratchpads and of CKC's SRAM, the cores, the
engines, the caches and the semaphores. Nor does it change the armed or the staged contract, the region table or the
firmware image. -/
def Obligations.ManyCommandsLeaveTheFabric : Prop :=
  ∀ (i : Instr) (s t : State), sparesFabric i = true → exec i s = .next t →
    t.fab = s.fab ∧ t.ctr.armed = s.ctr.armed ∧ t.ctr.staged = s.ctr.staged ∧ t.mss.regions = s.mss.regions ∧
    t.flash.image = s.flash.image
end

