-- ==== Sys2Proof/Laws/Keeps.lean ====
section
/-! SUPPORT. What every command keeps, as one relation between a state and a later one: the queue of commands, the canonical
form of the memories, SAFE_N against the latch, the fuses and the bound of the event queue. One lemma per named operation
says that it keeps them; these files are the only place where the operations are unfolded for it. -/

namespace Sys2Proof.Machine

/-! ### Memories -/

theorem Memory.wfFrom_mono {n n' : Nat} (h : n' ≤ n) : ∀ {m : Memory}, Memory.wfFrom n m = true → Memory.wfFrom n' m = true
  | [], _ => rfl
  | c :: r, hm => by
    simp only [Memory.wfFrom, Bool.and_eq_true, decide_eq_true_eq] at hm ⊢
    exact ⟨⟨by omega, hm.1.2⟩, hm.2⟩

theorem Memory.wfFrom_memSet {x : Nat} {v : Byte} :
    ∀ {m : Memory} {n : Nat}, n ≤ x → Memory.wfFrom n m = true → Memory.wfFrom n (memSet m x v) = true
  | [], n, hx, _ => by
    unfold memSet; split
    · rfl
    · simp_all [Memory.wfFrom]
  | c :: r, n, hx, hm => by
    simp only [Memory.wfFrom, Bool.and_eq_true, decide_eq_true_eq] at hm
    unfold memSet
    split
    · split
      · simp only [Memory.wfFrom, Bool.and_eq_true, decide_eq_true_eq]; exact hm
      · simp only [Memory.wfFrom, Bool.and_eq_true, decide_eq_true_eq]
        exact ⟨⟨hx, by assumption⟩, ⟨by omega, hm.1.2⟩, hm.2⟩
    · split
      · subst x
        split
        · exact Memory.wfFrom_mono (by omega) hm.2
        · simp only [Memory.wfFrom, Bool.and_eq_true, decide_eq_true_eq]
          exact ⟨⟨hx, by assumption⟩, hm.2⟩
      · simp only [Memory.wfFrom, Bool.and_eq_true, decide_eq_true_eq]
        exact ⟨hm.1, Memory.wfFrom_memSet (by omega) hm.2⟩

/-- Writing a byte keeps the canonical form. -/
@[simp] theorem Memory.wf_memSet {m : Memory} {x : Nat} {v : Byte} (h : Memory.wf m = true) : Memory.wf (memSet m x v) = true :=
  Memory.wfFrom_memSet (Nat.zero_le _) h

/-- Writing bytes keeps the canonical form. -/
@[simp] theorem Memory.wf_memPut {m : Memory} {a : Nat} {b : List Byte} (h : Memory.wf m = true) : Memory.wf (memPut m a b) = true := by
  induction b generalizing m a with
  | nil => exact h
  | cons b r ih => exact ih (Memory.wf_memSet h)

theorem Memory.wfFrom_filter {p : Host.Cell → Bool} :
    ∀ {m : Memory} {n : Nat}, Memory.wfFrom n m = true → Memory.wfFrom n (m.filter p) = true
  | [], _, _ => rfl
  | c :: r, n, hm => by
    simp only [Memory.wfFrom, Bool.and_eq_true, decide_eq_true_eq] at hm
    rw [List.filter_cons]
    split
    · simp only [Memory.wfFrom, Bool.and_eq_true, decide_eq_true_eq]
      exact ⟨hm.1, Memory.wfFrom_filter hm.2⟩
    · exact Memory.wfFrom_filter (Memory.wfFrom_mono (by omega) hm.2)

/-- Dropping bytes keeps the canonical form. -/
@[simp] theorem Memory.wf_filter {m : Memory} {p : Host.Cell → Bool} (h : Memory.wf m = true) :
    Memory.wf (m.filter p) = true := Memory.wfFrom_filter h

/-- Zero-filling a range keeps the canonical form. -/
@[simp] theorem Memory.wf_memZero {m : Memory} {lo hi : Nat} (h : Memory.wf m = true) : Memory.wf (memZero m lo hi) = true :=
  Memory.wf_filter h

@[simp] theorem Memory.wf_nil : Memory.wf [] = true := rfl

/-! ### The relation -/

/-- `t` comes after `s`: the queue is the same, no fuse is unset, and the three invariants still hold where they held. -/
structure Keeps (s t : State) : Prop where
  queue : t.pending = s.pending
  canon : s.Canonical → t.Canonical
  pin   : s.SafePin → t.SafePin
  fuses : s.sec.FusesStay t.sec
  bound : s.QueueBounded → t.QueueBounded

theorem Sec.FusesStay.refl (x : Sec) : x.FusesStay x := ⟨fun _ _ => rfl, fun _ h => h, le_refl _, rfl⟩

theorem Sec.FusesStay.trans {x y z : Sec} (h : x.FusesStay y) (k : y.FusesStay z) : x.FusesStay z :=
  ⟨fun i hi => by rw [k.1 i (by rw [h.1 i hi]; exact hi), h.1 i hi], fun i hi => k.2.1 i (h.2.1 i hi),
   h.2.2.1.trans k.2.2.1, k.2.2.2.trans h.2.2.2⟩

/-- A change of SEC that touches neither the slots nor the counter nor the ordering code. -/
theorem Sec.FusesStay.same {x y : Sec} (h : y.slots = x.slots) (r : y.rollback = x.rollback) (o : y.orderQ10 = x.orderQ10) :
    x.FusesStay y := by
  have e : ∀ i, y.slot i = x.slot i := fun i => by unfold Sec.slot; rw [h]
  exact ⟨fun i _ => by rw [e], fun i hi => by rw [e]; exact hi, le_of_eq r.symm, o⟩

theorem Keeps.refl (s : State) : Keeps s s := ⟨rfl, id, id, Sec.FusesStay.refl _, id⟩

theorem Keeps.trans {s t u : State} (h : Keeps s t) (k : Keeps t u) : Keeps s u :=
  ⟨k.queue.trans h.queue, fun x => k.canon (h.canon x), fun x => k.pin (h.pin x), h.fuses.trans k.fuses,
   fun x => k.bound (h.bound x)⟩

section
variable {s₀ s : State}

theorem State.Canonical.congr {s t : State} (h : s.Canonical) (f : t.fab = s.fab) (g : t.flash = s.flash) : t.Canonical :=
  ⟨f ▸ h.fab, g ▸ h.flash⟩

theorem Keeps.onTim {f : Tim → Tim} (h : Keeps s₀ s) : Keeps s₀ (s.onTim f) := ⟨h.queue, fun x => (h.canon x).congr rfl rfl, h.pin, h.fuses, h.bound⟩
theorem Keeps.onHif {f : Hif → Hif} (h : Keeps s₀ s) : Keeps s₀ (s.onHif f) := ⟨h.queue, fun x => (h.canon x).congr rfl rfl, h.pin, h.fuses, h.bound⟩
theorem Keeps.onCpx {f : Cpx → Cpx} (h : Keeps s₀ s) : Keeps s₀ (s.onCpx f) := ⟨h.queue, fun x => (h.canon x).congr rfl rfl, h.pin, h.fuses, h.bound⟩
theorem Keeps.onCtr {f : Ctr → Ctr} (h : Keeps s₀ s) : Keeps s₀ (s.onCtr f) := ⟨h.queue, fun x => (h.canon x).congr rfl rfl, h.pin, h.fuses, h.bound⟩
theorem Keeps.onEmt {f : Emt → Emt} (h : Keeps s₀ s) : Keeps s₀ (s.onEmt f) := ⟨h.queue, fun x => (h.canon x).congr rfl rfl, h.pin, h.fuses, h.bound⟩
theorem Keeps.onCkc {f : Ckc → Ckc} (h : Keeps s₀ s) : Keeps s₀ (s.onCkc f) := ⟨h.queue, fun x => (h.canon x).congr rfl rfl, h.pin, h.fuses, h.bound⟩
theorem Keeps.onPwr {f : Pwr → Pwr} (h : Keeps s₀ s) : Keeps s₀ (s.onPwr f) := ⟨h.queue, fun x => (h.canon x).congr rfl rfl, h.pin, h.fuses, h.bound⟩
theorem Keeps.onMss {f : Mss → Mss} (h : Keeps s₀ s) : Keeps s₀ (s.onMss f) := ⟨h.queue, fun x => (h.canon x).congr rfl rfl, h.pin, h.fuses, h.bound⟩
theorem Keeps.onSen {f : Sen → Sen} (h : Keeps s₀ s) : Keeps s₀ (s.onSen f) := ⟨h.queue, fun x => (h.canon x).congr rfl rfl, h.pin, h.fuses, h.bound⟩
theorem Keeps.onSaf {f : Saf → Saf} (h : Keeps s₀ s) (hf : ∀ x, (f x).latched = x.latched) : Keeps s₀ (s.onSaf f) :=
  ⟨h.queue, fun x => (h.canon x).congr rfl rfl, fun x => by have := h.pin x; simp only [State.SafePin, State.onSaf, hf] at this ⊢; exact this, h.fuses, h.bound⟩
theorem Keeps.onPins {f : Pins → Pins} (h : Keeps s₀ s) (hf : ∀ x, (f x).safeN = x.safeN) : Keeps s₀ (s.onPins f) :=
  ⟨h.queue, fun x => (h.canon x).congr rfl rfl, fun x => by have := h.pin x; simp only [State.SafePin, State.onPins, hf] at this ⊢; exact this, h.fuses, h.bound⟩
theorem Keeps.onSec {f : Sec → Sec} (h : Keeps s₀ s) (hf : s.sec.FusesStay (f s.sec)) : Keeps s₀ (s.onSec f) :=
  ⟨h.queue, fun x => (h.canon x).congr rfl rfl, h.pin, h.fuses.trans hf, h.bound⟩
theorem Keeps.onFlash {f : Flash → Flash} (h : Keeps s₀ s) (hf : s.flash.Canonical → (f s.flash).Canonical) :
    Keeps s₀ (s.onFlash f) :=
  ⟨h.queue, fun x => ⟨(h.canon x).fab, hf (h.canon x).flash⟩, h.pin, h.fuses, h.bound⟩
theorem Keeps.onFab {f : Fab → Fab} (h : Keeps s₀ s) (hf : s.fab.Canonical → (f s.fab).Canonical) : Keeps s₀ (s.onFab f) :=
  ⟨h.queue, fun x => ⟨hf (h.canon x).fab, (h.canon x).flash⟩, h.pin, h.fuses, h.bound⟩
theorem Keeps.onEvr {f : Rec → Rec} (h : Keeps s₀ s) (hf : s.evr.queue.length ≤ 1024 → (f s.evr).queue.length ≤ 1024) :
    Keeps s₀ (s.onEvr f) :=
  ⟨h.queue, fun x => (h.canon x).congr rfl rfl, h.pin, h.fuses, fun x => hf (h.bound x)⟩

theorem Keeps.withFree {n : Nat} (h : Keeps s₀ s) : Keeps s₀ { s with freeCtr := n } :=
  ⟨h.queue, fun x => (h.canon x).congr rfl rfl, h.pin, h.fuses, h.bound⟩

/-- A function applied once per element of a list keeps what it keeps each time. -/
theorem Keeps.foldl {α : Type} {f : State → α → State} {l : List α} (h : Keeps s₀ s)
    (hf : ∀ t a, Keeps s₀ t → Keeps s₀ (f t a)) : Keeps s₀ (l.foldl f s) := by
  induction l generalizing s with
  | nil => exact h
  | cons a r ih => exact ih (hf s a h)

theorem Keeps.foldr {α : Type} {f : α → State → State} {l : List α} (h : Keeps s₀ s)
    (hf : ∀ a t, Keeps s₀ t → Keeps s₀ (f a t)) : Keeps s₀ (l.foldr f s) := by
  induction l with
  | nil => exact h
  | cons a r ih => exact hf a _ ih

theorem Keeps.ofPair {α : Type} {p : α × State} {a : α} {x : State} (e : p = (a, x)) (h : Keeps s₀ p.2) : Keeps s₀ x := by
  subst e; exact h

theorem Keeps.ofTriple {α β : Type} {p : α × β × State} {a : α} {b : β} {x : State} (e : p = (a, b, x)) (h : Keeps s₀ p.2.2) :
    Keeps s₀ x := by subst e; exact h

end

/-! ### Flash and fuses -/

theorem Flash.putRepair_canon {f : Flash} {r : RepairRecord} (h : f.Canonical) : (f.putRepair r).Canonical := by
  unfold Flash.putRepair; dsimp only; split
  · split <;> exact ⟨h.image, h.cert, h.pattern⟩
  · split <;> exact ⟨h.image, h.cert, h.pattern⟩
  · split <;> exact ⟨h.image, h.cert, h.pattern⟩

theorem Flash.putFlag_canon {f : Flash} {r : FlagRecord} (h : f.Canonical) : (f.putFlag r).Canonical := by
  unfold Flash.putFlag; dsimp only; split <;> exact ⟨h.image, h.cert, h.pattern⟩

/-- The slot `i` after slot `k` was written. -/
theorem Sec.slot_vset {x : Sec} {k i : Nat} {o : OwnerSlot} :
    Sec.slot { x with slots := vset x.slots k o } i = if i = k ∧ k < 4 then o else x.slot i := by
  unfold Sec.slot vset vget
  simp only [Vector.toArray_setIfInBounds, Array.getD_eq_getD_getElem?, Array.getElem?_setIfInBounds, Vector.size_toArray]
  by_cases e : k = i
  · subst e
    by_cases l : k < 4
    · simp [l]
    · simp [l]
  · have e' : ¬ i = k := fun h => e h.symm
    simp [e, e']

/-- A key operation that may be carried out unsets nothing (R406). -/
theorem Sec.fuse_stays {x : Sec} {n : Nat} {k : KeyOp} (h : x.keyOpValid n k = true) : x.FusesStay (x.fuse k) := by
  unfold Sec.keyOpValid at h
  simp only [Bool.and_eq_true, Bool.or_eq_true, decide_eq_true_eq] at h
  refine ⟨fun i hi => ?_, fun i hi => ?_, le_refl _, rfl⟩
  · unfold Sec.fuse; dsimp only; rw [Sec.slot_vset]
    split
    · next e =>
      obtain ⟨rfl, _⟩ := e
      split
      · rcases h.2 with h | h
        · simp only [OwnerSlot.empty, Bool.and_eq_true, decide_eq_true_eq] at h
          exact absurd h.1.2.1 hi
        · omega
      · rfl
    · rfl
  · unfold Sec.fuse; dsimp only; rw [Sec.slot_vset]
    split
    · next e =>
      obtain ⟨rfl, _⟩ := e
      split
      · exact hi
      · rfl
    · exact hi

end Sys2Proof.Machine
end

