-- ==== Sys2Proof/Laws/KeepsFab.lean ====
section
/-! SUPPORT. Every operation of the fabric keeps the memories in canonical form. -/

namespace Sys2Proof.Machine

/-- A value carried through a fold keeps a property that each step keeps. -/
theorem foldl_inv {α β : Type} (P : β → Prop) {f : β → α → β} {l : List α} {b : β} (h : P b)
    (hf : ∀ b a, P b → P (f b a)) : P (l.foldl f b) := by
  induction l generalizing b with
  | nil => exact h
  | cons a r ih => exact ih (hf b a h)

theorem Fab.Canonical.foldl {α : Type} {f : Fab → α → Fab} {l : List α} {b : Fab} (h : b.Canonical)
    (hf : ∀ b a, b.Canonical → (f b a).Canonical) : (l.foldl f b).Canonical := foldl_inv Fab.Canonical h hf

/-- A change of one scratchpad. -/
theorem Fab.Canonical.setSpad {f : Fab} {c : Fin 8} {m : Memory} (h : f.Canonical) (hm : Memory.wf m = true) :
    Fab.Canonical { f with spad := f.spad.set c m } := by
  refine ⟨h.dram, h.sb, h.ckc, fun d => ?_⟩
  have := h.spad d
  simp only [Vector.get_eq_getElem, Vector.getElem_set] at this ⊢
  split
  · exact hm
  · exact this

theorem Fab.poke_canon {f : Fab} {sp : Space} {a : Nat} {b : Byte} (h : f.Canonical) : (f.poke sp a b).Canonical := by
  cases sp with
  | dram => exact ⟨Memory.wf_memSet h.dram, h.sb, h.ckc, h.spad⟩
  | sb => exact ⟨h.dram, Memory.wf_memSet h.sb, h.ckc, h.spad⟩
  | spad c => exact h.setSpad (Memory.wf_memSet (h.spad c))
  | ckc => exact ⟨h.dram, h.sb, Memory.wf_memSet h.ckc, h.spad⟩

theorem Fab.pokes_canon {f : Fab} {sp : Space} {a : Nat} {b : List Byte} (h : f.Canonical) : (f.pokes sp a b).Canonical := by
  induction b generalizing f a with
  | nil => exact h
  | cons b r ih => exact ih (Fab.poke_canon h)

theorem Fab.applyJournal_canon {f : Fab} {j : List JWrite} (h : f.Canonical) : (f.applyJournal j).Canonical := by
  induction j with
  | nil => exact h
  | cons w r ih => exact Fab.poke_canon ih

theorem Fab.writeBack_canon {f : Fab} {l : CacheLine} (h : f.Canonical) : (f.writeBack l).Canonical := by
  unfold Fab.writeBack; split
  · exact Fab.pokes_canon h
  · exact h

/-- A change of the caches, cores, engines, semaphores or credits alone. -/
theorem Fab.Canonical.same {f g : Fab} (h : f.Canonical) (d : g.dram = f.dram) (b : g.sb = f.sb) (k : g.ckcRam = f.ckcRam)
    (p : g.spad = f.spad) : g.Canonical := by
  exact ⟨d ▸ h.dram, b ▸ h.sb, k ▸ h.ckc, fun c => by rw [p]; exact h.spad c⟩

theorem Fab.Canonical.mem {f : Fab} {sems waiters : List (Nat × Nat)} {cores : Vector Core 8} {engines : Vector EngineSt 4}
    {caches : Vector (Option Cache) 8} {credits : Vector Nat 32} (h : f.Canonical) :
    Fab.Canonical ⟨f.dram, f.sb, f.spad, f.ckcRam, sems, waiters, cores, engines, caches, credits⟩ := Fab.Canonical.same h rfl rfl rfl rfl

theorem Fab.cacheFill_canon {f : Fab} {c : Fin 8} {line : Nat} (h : f.Canonical) : (f.cacheFill c line).Canonical := by
  unfold Fab.cacheFill
  split
  · exact h
  · split
    · exact h
    · dsimp only
      split
      · exact Fab.Canonical.same (Fab.writeBack_canon h) rfl rfl rfl rfl
      · exact Fab.Canonical.same h rfl rfl rfl rfl

theorem Fab.cacheFlush_canon {f : Fab} {c : Fin 8} {sel : CacheLine → Bool} (h : f.Canonical) :
    (f.cacheFlush c sel).Canonical := by
  unfold Fab.cacheFlush
  split
  · exact h
  · exact Fab.Canonical.same (Fab.Canonical.foldl h fun _ _ hb => Fab.writeBack_canon hb) rfl rfl rfl rfl

theorem Fab.commitCaches_canon {f : Fab} {fl : List (Nat × Nat × Nat)} (h : f.Canonical) : (f.commitCaches fl).Canonical := by
  unfold Fab.commitCaches
  refine Fab.Canonical.foldl h fun b c hb => ?_
  split
  · exact hb
  · exact Fab.cacheFlush_canon (Fab.Canonical.same hb rfl rfl rfl rfl)

theorem Fab.dropProvisional_canon {f : Fab} (h : f.Canonical) : f.dropProvisional.Canonical :=
  Fab.Canonical.same h rfl rfl rfl rfl

theorem Fab.zeroB67_canon {f : Fab} {c : Fin 8} (h : f.Canonical) : (f.zeroB67 c).Canonical :=
  h.setSpad (Memory.wf_memZero (h.spad c))

theorem Fab.cacheOn_canon {f : Fab} {c : Fin 8} (h : f.Canonical) : (f.cacheOn c).Canonical :=
  Fab.Canonical.same (Fab.zeroB67_canon h) rfl rfl rfl rfl

theorem Fab.cacheOff_canon {f : Fab} {c : Fin 8} (h : f.Canonical) : (f.cacheOff c).Canonical := by
  unfold Fab.cacheOff; split
  · exact h
  · exact Fab.Canonical.same (Fab.zeroB67_canon (Fab.cacheFlush_canon h)) rfl rfl rfl rfl

theorem Fab.cachesOff_canon {f : Fab} (h : f.Canonical) : f.cachesOff.Canonical :=
  Fab.Canonical.foldl h fun _ _ hb => Fab.cacheOff_canon hb

theorem Fab.putSem_canon {f : Fab} {n v : Nat} (h : f.Canonical) : (f.putSem n v).Canonical :=
  Fab.Canonical.same h rfl rfl rfl rfl

theorem Fab.returnSems_canon {f : Fab} {l : List (Nat × Nat)} (h : f.Canonical) : (f.returnSems l).Canonical :=
  Fab.Canonical.foldl h fun _ _ hb => Fab.putSem_canon hb

theorem Fab.giveCredit_canon {f : Fab} {l : Nat} (h : f.Canonical) : (f.giveCredit l).Canonical :=
  Fab.Canonical.same h rfl rfl rfl rfl

theorem Fab.returnHeld_canon {r : Run} {f : Fab} (h : f.Canonical) : (f.returnHeld r).Canonical :=
  Fab.Canonical.foldl (Fab.Canonical.same (Fab.returnSems_canon h) rfl rfl rfl rfl) fun _ _ hb => Fab.giveCredit_canon hb

theorem Fab.clearDomain_canon {f : Fab} {d : Nat} (h : f.Canonical) : (f.clearDomain d).Canonical := by
  unfold Fab.clearDomain
  split
  · dsimp only
    split
    · exact h.setSpad (c := ⟨d / 4 % 8, by omega⟩) (Memory.wf_memZero (h.spad _))
    · split
      · exact h.setSpad (c := ⟨d / 4 % 8, by omega⟩) (Memory.wf_memZero (h.spad _))
      · exact h
  · split
    · exact ⟨h.dram, Memory.wf_memZero h.sb, h.ckc, h.spad⟩
    · exact h

theorem Fab.invalidateCaches_canon {f : Fab} (h : f.Canonical) : f.invalidateCaches.Canonical :=
  Fab.Canonical.foldl h fun _ _ hb => Fab.cacheFlush_canon hb

theorem Fab.zeroFree_canon {f : Fab} {b g : List Nat} (h : f.Canonical) : (f.zeroFree b g).Canonical := by
  unfold Fab.zeroFree
  dsimp only
  apply Fab.Canonical.foldl
  · apply Fab.Canonical.foldl h
    intro x c hx
    apply Fab.Canonical.foldl hx
    intro y a hy
    split
    · exact hy
    · exact hy.setSpad (c := c) (Memory.wf_memZero (hy.spad c))
  · intro x a hx
    split
    · exact hx
    · exact ⟨hx.dram, Memory.wf_memZero hx.sb, hx.ckc, hx.spad⟩

theorem Fab.stale_canon {f : Fab} {n : Nat} {r : Region} (h : f.Canonical) : (f.stale n r).Canonical :=
  ⟨foldl_inv (fun m => Memory.wf m = true) h.dram fun _ _ hm => Memory.wf_memSet hm, h.sb, h.ckc, h.spad⟩

theorem Fab.dropClean_canon {f : Fab} (h : f.Canonical) : f.dropClean.Canonical := Fab.Canonical.same h rfl rfl rfl rfl

theorem circPut_canon {base size off : Nat} {b : List Byte} {f : Fab} (h : f.Canonical) : (circPut base size f off b).Canonical := by
  induction b generalizing f off with
  | nil => exact h
  | cons a r ih => exact ih (Fab.poke_canon h)

theorem Fab.putEngine_canon {f : Fab} {e : Engine} {k : EngineSt} (h : f.Canonical) : (f.putEngine e k).Canonical :=
  Fab.Canonical.same h rfl rfl rfl rfl

/-- A run's context over canonical memories. -/
structure Cx.Canonical (x : Cx) : Prop where
  mem : x.fab.Canonical

theorem Cx.Canonical.of {f : Fab} {run : Run} {mss : Mss} {usable rising : BitVec 64} {wait qm : Bool} {bb bs : List Nat}
    {lent : List (Nat × Nat)} {cores : Nat} {ap : Option Nat} {used : List Nat} {free : Nat} {st : List (Nat × Nat × Nat)}
    {p : Pwr} {v : Int} {n cls : Nat} (h : f.Canonical) :
    Cx.Canonical ⟨f, run, mss, usable, rising, wait, qm, bb, bs, lent, cores, ap, used, free, st, p, v, n, cls⟩ := ⟨h⟩

theorem Cx.Canonical.cls {x : Cx} {n : Nat} (h : x.Canonical) : Cx.Canonical { x with cls := n } := ⟨h.mem⟩

theorem Cx.Canonical.fab {x : Cx} (h : x.Canonical) : x.fab.Canonical := h.mem

theorem Cx.Canonical.foldl {α : Type} {f : Cx → α → Cx} {l : List α} {b : Cx} (h : b.Canonical)
    (hf : ∀ b a, b.Canonical → (f b a).Canonical) : (l.foldl f b).Canonical := foldl_inv Cx.Canonical h hf

theorem Cx.Canonical.foldlSnd {α γ : Type} {f : γ × Cx → α → γ × Cx} {l : List α} {p : γ × Cx} (h : p.2.Canonical)
    (hf : ∀ p a, p.2.Canonical → (f p a).2.Canonical) : (l.foldl f p).2.Canonical :=
  foldl_inv (fun p : γ × Cx => p.2.Canonical) h hf

theorem Cx.Canonical.foldlThird {α γ δ : Type} {f : γ × δ × Cx → α → γ × δ × Cx} {l : List α} {p : γ × δ × Cx}
    (h : p.2.2.Canonical) (hf : ∀ p a, p.2.2.Canonical → (f p a).2.2.Canonical) : (l.foldl f p).2.2.Canonical :=
  foldl_inv (fun p : γ × δ × Cx => p.2.2.Canonical) h hf

theorem Cx.Canonical.ofPair {α : Type} {p : α × Cx} {a : α} {x : Cx} (e : p = (a, x)) (h : p.2.Canonical) : x.Canonical := by
  subst e; exact h

theorem Cx.Canonical.ofTriple {α β : Type} {p : α × β × Cx} {a : α} {b : β} {x : Cx} (e : p = (a, b, x)) (h : p.2.2.Canonical) :
    x.Canonical := by subst e; exact h

end Sys2Proof.Machine
end

