-- ==== Sys2Proof/Laws/KeepsCx.lean ====
section
/-! SUPPORT. Every operation of a run (instructions of a stream, operators of a record) leaves the memories it works over in
canonical form. -/

set_option linter.unreachableTactic false
set_option linter.unusedTactic false

namespace Sys2Proof.Machine

theorem Cx.stop_canon {st : ℕ} {x : Cx} (hx : Cx.Canonical x) : Cx.Canonical (Cx.stop st x) := by
  unfold Cx.stop
  repeat' (first
    | (with_reducible apply Cx.Canonical.fab; with_reducible assumption)
    | (with_reducible apply Cx.Canonical.of; first | (with_reducible apply Cx.Canonical.fab; with_reducible assumption) | (with_reducible apply Fab.Canonical.mem; first | with_reducible assumption | (with_reducible apply Cx.Canonical.fab; with_reducible assumption)) | (with_reducible assumption) | split)
    | dsimp only)

theorem Cx.failCheck_canon {r : FailReport} {x : Cx} (hx : Cx.Canonical x) : Cx.Canonical (Cx.failCheck r x) := by
  unfold Cx.failCheck
  repeat' (first
    | (with_reducible apply Cx.Canonical.of; first | (with_reducible apply Cx.Canonical.fab; with_reducible assumption) | (with_reducible apply Fab.Canonical.mem; first | with_reducible assumption | (with_reducible apply Cx.Canonical.fab; with_reducible assumption)) | (with_reducible assumption) | split))

theorem Cx.count_canon {row : ℕ} {col : ℕ} {n : ℕ} {x : Cx} (hx : Cx.Canonical x) : Cx.Canonical (Cx.count row col n x) := by
  unfold Cx.count
  repeat' (first
    | (with_reducible apply Cx.Canonical.fab; with_reducible assumption)
    | (with_reducible apply Cx.Canonical.of; first | (with_reducible apply Cx.Canonical.fab; with_reducible assumption) | (with_reducible apply Fab.Canonical.mem; first | with_reducible assumption | (with_reducible apply Cx.Canonical.fab; with_reducible assumption)) | (with_reducible assumption) | split)
    | dsimp only)

theorem Cx.fresh_canon {x : Cx} (hx : Cx.Canonical x) : Cx.Canonical (Cx.fresh x).2 := by
  unfold Cx.fresh
  repeat' (first
    | (with_reducible apply Cx.Canonical.of; first | (with_reducible apply Cx.Canonical.fab; with_reducible assumption) | (with_reducible apply Fab.Canonical.mem; first | with_reducible assumption | (with_reducible apply Cx.Canonical.fab; with_reducible assumption)) | (with_reducible assumption) | split))

theorem Cx.set_canon {sp : Space} {a : ℕ} {b : Byte} {x : Cx} (hx : Cx.Canonical x) : Cx.Canonical (Cx.set sp a b x) := by
  unfold Cx.set
  repeat' (first
    | (with_reducible apply Cx.Canonical.of; first | (with_reducible apply Cx.Canonical.fab; with_reducible assumption) | (with_reducible apply Fab.Canonical.mem; first | with_reducible assumption | (with_reducible apply Cx.Canonical.fab; with_reducible assumption)) | (with_reducible assumption) | split))

theorem Cx.put_canon {sp : Space} {a : ℕ} {bs : List Byte} {x : Cx} (hx : Cx.Canonical x) : Cx.Canonical (Cx.put sp a bs
    x) := by
  unfold Cx.put
  repeat' (first
    | (with_reducible apply Cx.set_canon) | (with_reducible apply Cx.Canonical.fab; with_reducible apply Cx.set_canon)
    | (with_reducible apply Cx.Canonical.foldlSnd) | (refine fun p a (hp : Cx.Canonical p.2) => ?_)
    | (with_reducible apply Cx.Canonical.of; first | (with_reducible apply Cx.Canonical.fab; with_reducible assumption) | (with_reducible apply Cx.set_canon) | (with_reducible apply Cx.Canonical.fab; with_reducible apply Cx.set_canon) | (with_reducible apply Fab.Canonical.mem; first | with_reducible assumption | (with_reducible apply Cx.Canonical.fab; with_reducible assumption)) | (with_reducible assumption) | split))

theorem Cx.needDomain_canon {d : ℕ} {x : Cx} (hx : Cx.Canonical x) : Cx.Canonical (Cx.needDomain d x) := by
  unfold Cx.needDomain
  repeat' (first
    | (with_reducible apply Cx.stop_canon) | (with_reducible apply Cx.Canonical.fab; with_reducible apply Cx.stop_canon)
    | split
    | (with_reducible apply Cx.Canonical.of; first | (with_reducible apply Cx.Canonical.fab; with_reducible assumption) | (with_reducible apply Cx.stop_canon) | (with_reducible apply Cx.Canonical.fab; with_reducible apply Cx.stop_canon) | (with_reducible apply Fab.Canonical.mem; first | with_reducible assumption | (with_reducible apply Cx.Canonical.fab; with_reducible assumption)) | (with_reducible assumption) | split))

theorem Cx.use_canon {l : List ℕ} {x : Cx} (hx : Cx.Canonical x) : Cx.Canonical (Cx.use l x) := by
  unfold Cx.use
  repeat' (first
    | (with_reducible apply Cx.Canonical.of; first | (with_reducible apply Cx.Canonical.fab; with_reducible assumption) | (with_reducible apply Fab.Canonical.mem; first | with_reducible assumption | (with_reducible apply Cx.Canonical.fab; with_reducible assumption)) | (with_reducible assumption) | split))

theorem Cx.touch_canon {u : UnitId} {sp : Space} {a : ℕ} {n : ℕ} {x : Cx} (hx : Cx.Canonical x) : Cx.Canonical (Cx.touch u
    sp a n x) := by
  unfold Cx.touch
  repeat' (first
    | (with_reducible apply Cx.stop_canon) | (with_reducible apply Cx.Canonical.fab; with_reducible apply Cx.stop_canon)
    | (with_reducible apply Cx.failCheck_canon)
    | (with_reducible apply Cx.Canonical.fab; with_reducible apply Cx.failCheck_canon)
    | (with_reducible apply Cx.needDomain_canon)
    | (with_reducible apply Cx.Canonical.fab; with_reducible apply Cx.needDomain_canon)
    | (with_reducible apply Cx.use_canon) | (with_reducible apply Cx.Canonical.fab; with_reducible apply Cx.use_canon)
    | (with_reducible apply Cx.Canonical.foldl) | (refine fun t a (ht : Cx.Canonical t) => ?_) | split
    | (with_reducible apply Cx.Canonical.of; first | (with_reducible apply Cx.Canonical.fab; with_reducible assumption) | (with_reducible apply Cx.stop_canon) | (with_reducible apply Cx.Canonical.fab; with_reducible apply Cx.stop_canon) | (with_reducible apply Cx.failCheck_canon) | (with_reducible apply Cx.Canonical.fab; with_reducible apply Cx.failCheck_canon) | (with_reducible apply Cx.needDomain_canon) | (with_reducible apply Cx.Canonical.fab; with_reducible apply Cx.needDomain_canon) | (with_reducible apply Cx.use_canon) | (with_reducible apply Cx.Canonical.fab; with_reducible apply Cx.use_canon) | (with_reducible apply Fab.Canonical.mem; first | with_reducible assumption | (with_reducible apply Cx.Canonical.fab; with_reducible assumption)) | (with_reducible assumption) | split))

theorem Cx.read_canon {u : UnitId} {sp : Space} {a : ℕ} {n : ℕ} {x : Cx} (hx : Cx.Canonical x) : Cx.Canonical (Cx.read u
    sp a n x).2 := by
  unfold Cx.read
  repeat' (first
    | (with_reducible apply Cx.touch_canon) | (with_reducible apply Cx.Canonical.fab; with_reducible apply Cx.touch_canon)
    | (with_reducible apply Cx.Canonical.of; first | (with_reducible apply Cx.Canonical.fab; with_reducible assumption) | (with_reducible apply Cx.touch_canon) | (with_reducible apply Cx.Canonical.fab; with_reducible apply Cx.touch_canon) | (with_reducible apply Fab.Canonical.mem; first | with_reducible assumption | (with_reducible apply Cx.Canonical.fab; with_reducible assumption)) | (with_reducible assumption) | split))

theorem Cx.write_canon {u : UnitId} {sp : Space} {a : ℕ} {bs : List Byte} {x : Cx} (hx : Cx.Canonical x) : Cx.Canonical
    (Cx.write u sp a bs x) := by
  unfold Cx.write
  repeat' (first
    | (with_reducible apply Cx.put_canon) | (with_reducible apply Cx.Canonical.fab; with_reducible apply Cx.put_canon)
    | (with_reducible apply Cx.touch_canon) | (with_reducible apply Cx.Canonical.fab; with_reducible apply Cx.touch_canon)
    | (with_reducible apply Cx.Canonical.of; first | (with_reducible apply Cx.Canonical.fab; with_reducible assumption) | (with_reducible apply Cx.put_canon) | (with_reducible apply Cx.Canonical.fab; with_reducible apply Cx.put_canon) | (with_reducible apply Cx.touch_canon) | (with_reducible apply Cx.Canonical.fab; with_reducible apply Cx.touch_canon) | (with_reducible apply Fab.Canonical.mem; first | with_reducible assumption | (with_reducible apply Cx.Canonical.fab; with_reducible assumption)) | (with_reducible assumption) | split))

theorem Cx.cacheRead_canon {c : Fin 8} {a : ℕ} {n : ℕ} {x : Cx} (hx : Cx.Canonical x) : Cx.Canonical (Cx.cacheRead c a n
    x).2 := by
  unfold Cx.cacheRead
  repeat' (first
    | with_reducible assumption | (with_reducible apply Cx.touch_canon)
    | (with_reducible apply Cx.Canonical.fab; with_reducible apply Cx.touch_canon)
    | (with_reducible apply Fab.cacheFill_canon)
    | (with_reducible apply Cx.Canonical.fab; with_reducible apply Fab.cacheFill_canon)
    | (with_reducible apply Cx.Canonical.fab; with_reducible assumption) | (with_reducible apply Fab.Canonical.foldl)
    | (refine fun t a (ht : Fab.Canonical t) => ?_)
    | (intro x; refine (have hx : Cx.Canonical x := ?_; ?_); rotate_left; clear_value x; rotate_right; subst x)
    | (intro x; refine (have hx : Fab.Canonical x := ?_; ?_); rotate_left; clear_value x; rotate_right; subst x)
    | lift_lets
    | (with_reducible apply Cx.Canonical.of; first | (with_reducible apply Cx.Canonical.fab; with_reducible assumption) | (with_reducible apply Cx.touch_canon) | (with_reducible apply Cx.Canonical.fab; with_reducible apply Cx.touch_canon) | (with_reducible apply Fab.cacheFill_canon) | (with_reducible apply Cx.Canonical.fab; with_reducible apply Fab.cacheFill_canon) | (with_reducible apply Fab.Canonical.mem; first | with_reducible assumption | (with_reducible apply Cx.Canonical.fab; with_reducible assumption)) | (with_reducible assumption) | split))

theorem Cx.cacheWriteByte_canon {c : Fin 8} {a : ℕ} {b : Byte} {x : Cx} (hx : Cx.Canonical x) : Cx.Canonical
    (Cx.cacheWriteByte c a b x) := by
  unfold Cx.cacheWriteByte
  repeat' (first
    | with_reducible assumption | (with_reducible apply Fab.cacheFill_canon)
    | (with_reducible apply Cx.Canonical.fab; with_reducible apply Fab.cacheFill_canon)
    | (with_reducible apply Cx.stop_canon) | (with_reducible apply Cx.Canonical.fab; with_reducible apply Cx.stop_canon)
    | (with_reducible apply Fab.writeBack_canon)
    | (with_reducible apply Cx.Canonical.fab; with_reducible apply Fab.writeBack_canon)
    | (with_reducible apply Cx.Canonical.fab; with_reducible assumption)
    | (intro x; refine (have hx : Fab.Canonical x := ?_; ?_); rotate_left; clear_value x; rotate_right; subst x)
    | (intro x; clear_value x) | lift_lets | split
    | (with_reducible apply Cx.Canonical.of; first | (with_reducible apply Cx.Canonical.fab; with_reducible assumption) | (with_reducible apply Fab.cacheFill_canon) | (with_reducible apply Cx.Canonical.fab; with_reducible apply Fab.cacheFill_canon) | (with_reducible apply Cx.stop_canon) | (with_reducible apply Cx.Canonical.fab; with_reducible apply Cx.stop_canon) | (with_reducible apply Fab.writeBack_canon) | (with_reducible apply Cx.Canonical.fab; with_reducible apply Fab.writeBack_canon) | (with_reducible apply Fab.Canonical.mem; first | with_reducible assumption | (with_reducible apply Cx.Canonical.fab; with_reducible assumption)) | (with_reducible assumption) | split))

theorem Cx.cacheWrite_canon {c : Fin 8} {a : ℕ} {bs : List Byte} {x : Cx} (hx : Cx.Canonical x) : Cx.Canonical
    (Cx.cacheWrite c a bs x) := by
  unfold Cx.cacheWrite
  repeat' (first
    | (with_reducible apply Cx.touch_canon) | (with_reducible apply Cx.Canonical.fab; with_reducible apply Cx.touch_canon)
    | (with_reducible apply Cx.cacheWriteByte_canon)
    | (with_reducible apply Cx.Canonical.fab; with_reducible apply Cx.cacheWriteByte_canon)
    | (with_reducible apply Cx.Canonical.fab; with_reducible assumption) | (with_reducible apply Cx.Canonical.foldlSnd)
    | (refine fun p a (hp : Cx.Canonical p.2) => ?_)
    | (with_reducible apply Cx.Canonical.of; first | (with_reducible apply Cx.Canonical.fab; with_reducible assumption) | (with_reducible apply Cx.touch_canon) | (with_reducible apply Cx.Canonical.fab; with_reducible apply Cx.touch_canon) | (with_reducible apply Cx.cacheWriteByte_canon) | (with_reducible apply Cx.Canonical.fab; with_reducible apply Cx.cacheWriteByte_canon) | (with_reducible apply Fab.Canonical.mem; first | with_reducible assumption | (with_reducible apply Cx.Canonical.fab; with_reducible assumption)) | (with_reducible assumption) | split))

theorem Cx.flush_canon {c : Fin 8} {a : ℕ} {size : ℕ} {x : Cx} (hx : Cx.Canonical x) : Cx.Canonical (Cx.flush c a size x)
    := by
  unfold Cx.flush
  repeat' (first
    | (with_reducible apply Fab.cacheFlush_canon)
    | (with_reducible apply Cx.Canonical.fab; with_reducible apply Fab.cacheFlush_canon)
    | (with_reducible apply Cx.Canonical.fab; with_reducible assumption)
    | (with_reducible apply Cx.Canonical.of; first | (with_reducible apply Cx.Canonical.fab; with_reducible assumption) | (with_reducible apply Fab.cacheFlush_canon) | (with_reducible apply Cx.Canonical.fab; with_reducible apply Fab.cacheFlush_canon) | (with_reducible apply Fab.Canonical.mem; first | with_reducible assumption | (with_reducible apply Cx.Canonical.fab; with_reducible assumption)) | (with_reducible assumption) | split))

theorem Cx.readP_canon {u : UnitId} {ps : List Piece} {x : Cx} (hx : Cx.Canonical x) : Cx.Canonical (Cx.readP u ps x).2 := by
  unfold Cx.readP
  repeat' (first
    | (with_reducible apply Cx.read_canon) | (with_reducible apply Cx.Canonical.fab; with_reducible apply Cx.read_canon)
    | (with_reducible apply Cx.Canonical.foldlSnd) | (refine fun p a (hp : Cx.Canonical p.2) => ?_)
    | (with_reducible apply Cx.Canonical.of; first | (with_reducible apply Cx.Canonical.fab; with_reducible assumption) | (with_reducible apply Cx.read_canon) | (with_reducible apply Cx.Canonical.fab; with_reducible apply Cx.read_canon) | (with_reducible apply Fab.Canonical.mem; first | with_reducible assumption | (with_reducible apply Cx.Canonical.fab; with_reducible assumption)) | (with_reducible assumption) | split))

theorem Cx.writeP_canon {u : UnitId} {ps : List Piece} {bs : List Byte} {x : Cx} (hx : Cx.Canonical x) : Cx.Canonical
    (Cx.writeP u ps bs x) := by
  unfold Cx.writeP
  repeat' (first
    | (with_reducible apply Cx.write_canon) | (with_reducible apply Cx.Canonical.fab; with_reducible apply Cx.write_canon)
    | (with_reducible apply Cx.Canonical.foldlSnd) | (refine fun p a (hp : Cx.Canonical p.2) => ?_)
    | (with_reducible apply Cx.Canonical.of; first | (with_reducible apply Cx.Canonical.fab; with_reducible assumption) | (with_reducible apply Cx.write_canon) | (with_reducible apply Cx.Canonical.fab; with_reducible apply Cx.write_canon) | (with_reducible apply Fab.Canonical.mem; first | with_reducible assumption | (with_reducible apply Cx.Canonical.fab; with_reducible assumption)) | (with_reducible assumption) | split))

theorem Cx.qNext_canon {sp : Space} {a : ℕ} {x : Cx} (hx : Cx.Canonical x) : Cx.Canonical (Cx.qNext sp a x).2 := by
  unfold Cx.qNext
  repeat' (first
    | (with_reducible apply Cx.Canonical.fab; with_reducible assumption)
    | (with_reducible apply Cx.Canonical.of; first | (with_reducible apply Cx.Canonical.fab; with_reducible assumption) | (with_reducible apply Fab.Canonical.mem; first | with_reducible assumption | (with_reducible apply Cx.Canonical.fab; with_reducible assumption)) | (with_reducible assumption) | split)
    | dsimp only)

theorem Cx.nameRec_canon {quant : Bool} {blockOut : Bool} {p : Space × ℕ} {x : Cx} (hx : Cx.Canonical x) : Cx.Canonical
    (Cx.nameRec quant blockOut p x).2 := by
  unfold Cx.nameRec
  dsimp only
  exact ⟨(Cx.qNext_canon hx).mem⟩

theorem Cx.report_canon {place : Option (Space × ℕ)} {n : Counts} {x : Cx} (hx : Cx.Canonical x) : Cx.Canonical (Cx.report
    place n x) := by
  unfold Cx.report
  repeat' (first
    | (with_reducible apply Cx.Canonical.of; first | (with_reducible apply Cx.Canonical.fab; with_reducible assumption) | (with_reducible apply Fab.Canonical.mem; first | with_reducible assumption | (with_reducible apply Cx.Canonical.fab; with_reducible assumption)) | (with_reducible assumption) | split))

theorem Cx.nameOut_canon {quant : Bool} {f : Finish} {x : Cx} (hx : Cx.Canonical x) : Cx.Canonical (Cx.nameOut quant f
    x).2 := by
  unfold Cx.nameOut
  repeat' (first
    | (with_reducible apply Cx.nameRec_canon)
    | (with_reducible apply Cx.Canonical.fab; with_reducible apply Cx.nameRec_canon)
    | (with_reducible apply Cx.Canonical.fab; with_reducible assumption)
    | (with_reducible apply Cx.Canonical.of; first | (with_reducible apply Cx.Canonical.fab; with_reducible assumption) | (with_reducible apply Cx.nameRec_canon) | (with_reducible apply Cx.Canonical.fab; with_reducible apply Cx.nameRec_canon) | (with_reducible apply Fab.Canonical.mem; first | with_reducible assumption | (with_reducible apply Cx.Canonical.fab; with_reducible assumption)) | (with_reducible assumption) | split))

theorem Cx.quantise_canon {f : Finish} {ident : ℕ} {elem : ℕ → ℕ} {ys : List Fp} {x : Cx} (hx : Cx.Canonical x) :
    Cx.Canonical (Cx.quantise f ident elem ys x).2.2.2 := by
  unfold Cx.quantise
  repeat' (first
    | (with_reducible apply Cx.nameOut_canon)
    | (with_reducible apply Cx.Canonical.fab; with_reducible apply Cx.nameOut_canon)
    | (with_reducible apply Cx.Canonical.of; first | (with_reducible apply Cx.Canonical.fab; with_reducible assumption) | (with_reducible apply Cx.nameOut_canon) | (with_reducible apply Cx.Canonical.fab; with_reducible apply Cx.nameOut_canon) | (with_reducible apply Fab.Canonical.mem; first | with_reducible assumption | (with_reducible apply Cx.Canonical.fab; with_reducible assumption)) | (with_reducible assumption) | split))

theorem Cx.drainVector_canon {c : Fin 8} {d : DrainCfg} {t : WeightTile} {isInt : Bool} {rows : ℕ} {weight : ℤ} {a : ℕ} {m
    : ℕ} {vecs : ℕ} {rank : ℕ} {ord : ℕ} {vec : List (Option Fp)} {x : Cx} (hx : Cx.Canonical x) : Cx.Canonical
    (Cx.drainVector c d t isInt rows weight a m vecs rank ord vec x) := by
  unfold Cx.drainVector
  repeat' (first
    | (with_reducible apply Cx.count_canon) | (with_reducible apply Cx.Canonical.fab; with_reducible apply Cx.count_canon)
    | (with_reducible apply Cx.failCheck_canon)
    | (with_reducible apply Cx.Canonical.fab; with_reducible apply Cx.failCheck_canon)
    | (with_reducible apply Cx.touch_canon) | (with_reducible apply Cx.Canonical.fab; with_reducible apply Cx.touch_canon)
    | (with_reducible apply Cx.report_canon)
    | (with_reducible apply Cx.Canonical.fab; with_reducible apply Cx.report_canon)
    | (with_reducible apply Cx.nameOut_canon)
    | (with_reducible apply Cx.Canonical.fab; with_reducible apply Cx.nameOut_canon) | (with_reducible apply Cx.put_canon)
    | (with_reducible apply Cx.Canonical.fab; with_reducible apply Cx.put_canon)
    | (with_reducible apply Cx.quantise_canon)
    | (with_reducible apply Cx.Canonical.fab; with_reducible apply Cx.quantise_canon)
    | (intro x; refine (have hx : Cx.Canonical x := ?_; ?_); rotate_left; clear_value x; rotate_right; subst x)
    | (intro x; clear_value x) | lift_lets | split
    | (with_reducible apply Cx.Canonical.of; first | (with_reducible apply Cx.Canonical.fab; with_reducible assumption) | (with_reducible apply Cx.count_canon) | (with_reducible apply Cx.Canonical.fab; with_reducible apply Cx.count_canon) | (with_reducible apply Cx.failCheck_canon) | (with_reducible apply Cx.Canonical.fab; with_reducible apply Cx.failCheck_canon) | (with_reducible apply Cx.touch_canon) | (with_reducible apply Cx.Canonical.fab; with_reducible apply Cx.touch_canon) | (with_reducible apply Cx.report_canon) | (with_reducible apply Cx.Canonical.fab; with_reducible apply Cx.report_canon) | (with_reducible apply Cx.nameOut_canon) | (with_reducible apply Cx.Canonical.fab; with_reducible apply Cx.nameOut_canon) | (with_reducible apply Cx.put_canon) | (with_reducible apply Cx.Canonical.fab; with_reducible apply Cx.put_canon) | (with_reducible apply Cx.quantise_canon) | (with_reducible apply Cx.Canonical.fab; with_reducible apply Cx.quantise_canon) | (with_reducible apply Fab.Canonical.mem; first | with_reducible assumption | (with_reducible apply Cx.Canonical.fab; with_reducible assumption)) | (with_reducible assumption) | split))

theorem Cx.stream_canon {c : Fin 8} {k : Core} {arrays : List ℕ} {buf : ℕ} {fmt : ℕ} {piece : ℕ} {vecs : ℕ} {vector :
    Reader → ℕ → ℕ → ℕ → List (Option Fp)} {x : Cx} (hx : Cx.Canonical x) : Cx.Canonical (Cx.stream c k arrays buf fmt
    piece vecs vector x) := by
  unfold Cx.stream
  repeat' (first
    | (with_reducible apply Cx.stop_canon) | (with_reducible apply Cx.Canonical.fab; with_reducible apply Cx.stop_canon)
    | (with_reducible apply Cx.drainVector_canon)
    | (with_reducible apply Cx.Canonical.fab; with_reducible apply Cx.drainVector_canon)
    | (with_reducible apply Cx.Canonical.foldl) | (refine fun t a (ht : Cx.Canonical t) => ?_) | (intro x; clear_value x)
    | lift_lets | split
    | (with_reducible apply Cx.Canonical.of; first | (with_reducible apply Cx.Canonical.fab; with_reducible assumption) | (with_reducible apply Cx.stop_canon) | (with_reducible apply Cx.Canonical.fab; with_reducible apply Cx.stop_canon) | (with_reducible apply Cx.drainVector_canon) | (with_reducible apply Cx.Canonical.fab; with_reducible apply Cx.drainVector_canon) | (with_reducible apply Fab.Canonical.mem; first | with_reducible assumption | (with_reducible apply Cx.Canonical.fab; with_reducible assumption)) | (with_reducible assumption) | split))

theorem Cx.putCore_canon {c : Fin 8} {k : Core} {x : Cx} (hx : Cx.Canonical x) : Cx.Canonical (Cx.putCore c k x) := by
  unfold Cx.putCore
  repeat' (first
    | (with_reducible apply Cx.Canonical.fab; with_reducible assumption)
    | (intro x; refine (have hx : Fab.Canonical x := ?_; ?_); rotate_left; clear_value x; rotate_right; subst x)
    | (with_reducible apply Cx.Canonical.of; first | (with_reducible apply Cx.Canonical.fab; with_reducible assumption) | (with_reducible apply Fab.Canonical.mem; first | with_reducible assumption | (with_reducible apply Cx.Canonical.fab; with_reducible assumption)) | (with_reducible assumption) | split))

theorem Cx.needHdr_canon {c : Fin 8} {spa : ℕ} {fmt : ℕ} {x : Cx} (hx : Cx.Canonical x) : Cx.Canonical (Cx.needHdr c spa
    fmt x) := by
  unfold Cx.needHdr
  repeat' (first
    | (with_reducible apply Cx.stop_canon) | (with_reducible apply Cx.Canonical.fab; with_reducible apply Cx.stop_canon)
    | (with_reducible apply Cx.Canonical.fab; with_reducible assumption) | (intro x; clear_value x) | lift_lets
    | (with_reducible apply Cx.Canonical.of; first | (with_reducible apply Cx.Canonical.fab; with_reducible assumption) | (with_reducible apply Cx.stop_canon) | (with_reducible apply Cx.Canonical.fab; with_reducible apply Cx.stop_canon) | (with_reducible apply Fab.Canonical.mem; first | with_reducible assumption | (with_reducible apply Cx.Canonical.fab; with_reducible assumption)) | (with_reducible assumption) | split))

theorem runLoadw_canon {c : Fin 8} {w : BitVec 128} {x : Cx} (hx : Cx.Canonical x) : Cx.Canonical (runLoadw c w x) := by
  unfold runLoadw
  repeat' (first
    | (with_reducible apply Cx.touch_canon) | (with_reducible apply Cx.Canonical.fab; with_reducible apply Cx.touch_canon)
    | (with_reducible apply Cx.needHdr_canon)
    | (with_reducible apply Cx.Canonical.fab; with_reducible apply Cx.needHdr_canon)
    | (with_reducible apply Cx.putCore_canon)
    | (with_reducible apply Cx.Canonical.fab; with_reducible apply Cx.putCore_canon)
    | (with_reducible apply Cx.Canonical.foldl) | (refine fun t a (ht : Cx.Canonical t) => ?_)
    | (with_reducible apply Cx.Canonical.of; first | (with_reducible apply Cx.Canonical.fab; with_reducible assumption) | (with_reducible apply Cx.touch_canon) | (with_reducible apply Cx.Canonical.fab; with_reducible apply Cx.touch_canon) | (with_reducible apply Cx.needHdr_canon) | (with_reducible apply Cx.Canonical.fab; with_reducible apply Cx.needHdr_canon) | (with_reducible apply Cx.putCore_canon) | (with_reducible apply Cx.Canonical.fab; with_reducible apply Cx.putCore_canon) | (with_reducible apply Fab.Canonical.mem; first | with_reducible assumption | (with_reducible apply Cx.Canonical.fab; with_reducible assumption)) | (with_reducible assumption) | split))

theorem runMma_canon {c : Fin 8} {w : BitVec 128} {x : Cx} (hx : Cx.Canonical x) : Cx.Canonical (runMma c w x) := by
  unfold runMma
  repeat' (first
    | (with_reducible apply Cx.touch_canon) | (with_reducible apply Cx.Canonical.fab; with_reducible apply Cx.touch_canon)
    | (with_reducible apply Cx.needHdr_canon)
    | (with_reducible apply Cx.Canonical.fab; with_reducible apply Cx.needHdr_canon)
    | (with_reducible apply Cx.stream_canon)
    | (with_reducible apply Cx.Canonical.fab; with_reducible apply Cx.stream_canon)
    | (with_reducible apply Cx.Canonical.foldl) | (refine fun t a (ht : Cx.Canonical t) => ?_)
    | (with_reducible apply Cx.Canonical.of; first | (with_reducible apply Cx.Canonical.fab; with_reducible assumption) | (with_reducible apply Cx.touch_canon) | (with_reducible apply Cx.Canonical.fab; with_reducible apply Cx.touch_canon) | (with_reducible apply Cx.needHdr_canon) | (with_reducible apply Cx.Canonical.fab; with_reducible apply Cx.needHdr_canon) | (with_reducible apply Cx.stream_canon) | (with_reducible apply Cx.Canonical.fab; with_reducible apply Cx.stream_canon) | (with_reducible apply Fab.Canonical.mem; first | with_reducible assumption | (with_reducible apply Cx.Canonical.fab; with_reducible assumption)) | (with_reducible assumption) | split))

theorem runConv_canon {c : Fin 8} {w : BitVec 128} {x : Cx} (hx : Cx.Canonical x) : Cx.Canonical (runConv c w x) := by
  unfold runConv
  repeat' (first
    | (with_reducible apply Cx.touch_canon) | (with_reducible apply Cx.Canonical.fab; with_reducible apply Cx.touch_canon)
    | (with_reducible apply Cx.needHdr_canon)
    | (with_reducible apply Cx.Canonical.fab; with_reducible apply Cx.needHdr_canon)
    | (with_reducible apply Cx.stop_canon) | (with_reducible apply Cx.Canonical.fab; with_reducible apply Cx.stop_canon)
    | (with_reducible apply Cx.stream_canon)
    | (with_reducible apply Cx.Canonical.fab; with_reducible apply Cx.stream_canon)
    | (with_reducible apply Cx.Canonical.foldl) | (refine fun t a (ht : Cx.Canonical t) => ?_)
    | (with_reducible apply Cx.Canonical.of; first | (with_reducible apply Cx.Canonical.fab; with_reducible assumption) | (with_reducible apply Cx.touch_canon) | (with_reducible apply Cx.Canonical.fab; with_reducible apply Cx.touch_canon) | (with_reducible apply Cx.needHdr_canon) | (with_reducible apply Cx.Canonical.fab; with_reducible apply Cx.needHdr_canon) | (with_reducible apply Cx.stop_canon) | (with_reducible apply Cx.Canonical.fab; with_reducible apply Cx.stop_canon) | (with_reducible apply Cx.stream_canon) | (with_reducible apply Cx.Canonical.fab; with_reducible apply Cx.stream_canon) | (with_reducible apply Fab.Canonical.mem; first | with_reducible assumption | (with_reducible apply Cx.Canonical.fab; with_reducible assumption)) | (with_reducible assumption) | split))

theorem runDrain_canon {c : Fin 8} {w : BitVec 128} {x : Cx} (hx : Cx.Canonical x) : Cx.Canonical (runDrain c w x) := by
  unfold runDrain
  repeat' (first
    | (with_reducible apply Cx.putCore_canon)
    | (with_reducible apply Cx.Canonical.fab; with_reducible apply Cx.putCore_canon)
    | (with_reducible apply Cx.Canonical.of; first | (with_reducible apply Cx.Canonical.fab; with_reducible assumption) | (with_reducible apply Cx.putCore_canon) | (with_reducible apply Cx.Canonical.fab; with_reducible apply Cx.putCore_canon) | (with_reducible apply Fab.Canonical.mem; first | with_reducible assumption | (with_reducible apply Cx.Canonical.fab; with_reducible assumption)) | (with_reducible assumption) | split))

theorem runVop_canon {c : Fin 8} {w : BitVec 128} {x : Cx} (hx : Cx.Canonical x) : Cx.Canonical (runVop c w x) := by
  unfold runVop
  repeat' (first
    | (with_reducible apply Cx.touch_canon) | (with_reducible apply Cx.Canonical.fab; with_reducible apply Cx.touch_canon)
    | (with_reducible apply Cx.put_canon) | (with_reducible apply Cx.Canonical.fab; with_reducible apply Cx.put_canon)
    | (with_reducible apply Cx.Canonical.foldl) | (refine fun t a (ht : Cx.Canonical t) => ?_)
    | (intro x; refine (have hx : Cx.Canonical x := ?_; ?_); rotate_left; clear_value x; rotate_right; subst x)
    | (intro x; clear_value x) | lift_lets
    | (with_reducible apply Cx.Canonical.of; first | (with_reducible apply Cx.Canonical.fab; with_reducible assumption) | (with_reducible apply Cx.touch_canon) | (with_reducible apply Cx.Canonical.fab; with_reducible apply Cx.touch_canon) | (with_reducible apply Cx.put_canon) | (with_reducible apply Cx.Canonical.fab; with_reducible apply Cx.put_canon) | (with_reducible apply Fab.Canonical.mem; first | with_reducible assumption | (with_reducible apply Cx.Canonical.fab; with_reducible assumption)) | (with_reducible assumption) | split))

theorem Cx.suLoadPart_canon {c : Fin 8} {s : Su} {a : ℕ} {n : ℕ} {x : Cx} (hx : Cx.Canonical x) : Cx.Canonical
    (Cx.suLoadPart c s a n x).2 := by
  unfold Cx.suLoadPart
  repeat' (first
    | (with_reducible apply Cx.cacheRead_canon)
    | (with_reducible apply Cx.Canonical.fab; with_reducible apply Cx.cacheRead_canon)
    | (with_reducible apply Cx.touch_canon) | (with_reducible apply Cx.Canonical.fab; with_reducible apply Cx.touch_canon)
    | (with_reducible apply Cx.Canonical.foldl) | (refine fun t a (ht : Cx.Canonical t) => ?_) | split
    | (with_reducible apply Cx.Canonical.of; first | (with_reducible apply Cx.Canonical.fab; with_reducible assumption) | (with_reducible apply Cx.cacheRead_canon) | (with_reducible apply Cx.Canonical.fab; with_reducible apply Cx.cacheRead_canon) | (with_reducible apply Cx.touch_canon) | (with_reducible apply Cx.Canonical.fab; with_reducible apply Cx.touch_canon) | (with_reducible apply Fab.Canonical.mem; first | with_reducible assumption | (with_reducible apply Cx.Canonical.fab; with_reducible assumption)) | (with_reducible assumption) | split))

theorem Cx.suLoad_canon {c : Fin 8} {s : Su} {a : ℕ} {n : ℕ} {x : Cx} (hx : Cx.Canonical x) : Cx.Canonical (Cx.suLoad c s
    a n x).2 := by
  unfold Cx.suLoad
  repeat' (first
    | (with_reducible apply Cx.suLoadPart_canon)
    | (with_reducible apply Cx.Canonical.fab; with_reducible apply Cx.suLoadPart_canon)
    | (with_reducible apply Cx.Canonical.fab; with_reducible assumption)
    | (intro x; refine (have hx : Cx.Canonical x.2 := ?_; ?_); rotate_left; clear_value x; rotate_right; subst x)
    | (with_reducible apply Cx.Canonical.of; first | (with_reducible apply Cx.Canonical.fab; with_reducible assumption) | (with_reducible apply Cx.suLoadPart_canon) | (with_reducible apply Cx.Canonical.fab; with_reducible apply Cx.suLoadPart_canon) | (with_reducible apply Fab.Canonical.mem; first | with_reducible assumption | (with_reducible apply Cx.Canonical.fab; with_reducible assumption)) | (with_reducible assumption) | split))

theorem Cx.suStorePart_canon {c : Fin 8} {s : Su} {a : ℕ} {n : ℕ} {v : ℕ} {x : Cx} (hx : Cx.Canonical x) : Cx.Canonical
    (Cx.suStorePart c s a n v x) := by
  unfold Cx.suStorePart
  repeat' (first
    | (with_reducible apply Cx.cacheWrite_canon)
    | (with_reducible apply Cx.Canonical.fab; with_reducible apply Cx.cacheWrite_canon)
    | (with_reducible apply Cx.set_canon) | (with_reducible apply Cx.Canonical.fab; with_reducible apply Cx.set_canon)
    | (with_reducible apply Cx.touch_canon) | (with_reducible apply Cx.Canonical.fab; with_reducible apply Cx.touch_canon)
    | (with_reducible apply Cx.Canonical.foldl) | (refine fun t a (ht : Cx.Canonical t) => ?_) | split
    | (with_reducible apply Cx.Canonical.of; first | (with_reducible apply Cx.Canonical.fab; with_reducible assumption) | (with_reducible apply Cx.cacheWrite_canon) | (with_reducible apply Cx.Canonical.fab; with_reducible apply Cx.cacheWrite_canon) | (with_reducible apply Cx.set_canon) | (with_reducible apply Cx.Canonical.fab; with_reducible apply Cx.set_canon) | (with_reducible apply Cx.touch_canon) | (with_reducible apply Cx.Canonical.fab; with_reducible apply Cx.touch_canon) | (with_reducible apply Fab.Canonical.mem; first | with_reducible assumption | (with_reducible apply Cx.Canonical.fab; with_reducible assumption)) | (with_reducible assumption) | split))

theorem Cx.suStore_canon {c : Fin 8} {s : Su} {a : ℕ} {n : ℕ} {v : ℕ} {x : Cx} (hx : Cx.Canonical x) : Cx.Canonical
    (Cx.suStore c s a n v x) := by
  unfold Cx.suStore
  repeat' (first
    | (with_reducible apply Cx.suStorePart_canon)
    | (with_reducible apply Cx.Canonical.fab; with_reducible apply Cx.suStorePart_canon)
    | (with_reducible apply Cx.Canonical.of; first | (with_reducible apply Cx.Canonical.fab; with_reducible assumption) | (with_reducible apply Cx.suStorePart_canon) | (with_reducible apply Cx.Canonical.fab; with_reducible apply Cx.suStorePart_canon) | (with_reducible apply Fab.Canonical.mem; first | with_reducible assumption | (with_reducible apply Cx.Canonical.fab; with_reducible assumption)) | (with_reducible assumption) | split))

/-- The memories after a scalar-unit instruction, if it has one, are canonical. -/
structure StepCanonical (o : Option SuStep) : Prop where
  all : ∀ r, o = some r → r.x.Canonical

theorem StepCanonical.none : StepCanonical none := ⟨fun _ h => by cases h⟩

theorem StepCanonical.some {su : Su} {x : Cx} {n : Nat} (h : x.Canonical) : StepCanonical (some ⟨su, x, n⟩) :=
  ⟨fun _ e => by cases e; exact h⟩

theorem StepCanonical.bind {α : Type} {o : Option α} {f : α → Option SuStep} (h : ∀ a, StepCanonical (f a)) :
    StepCanonical (o.bind f) := by
  cases o with
  | none => exact StepCanonical.none
  | some a => exact h a

theorem StepCanonical.map {α : Type} {o : Option α} {f : α → Su} {g : α → Nat} {x : Cx} (h : x.Canonical) :
    StepCanonical (o.map fun p => ⟨f p, x, g p⟩) := by
  cases o with
  | none => exact StepCanonical.none
  | some a => exact StepCanonical.some h

theorem suExec_canon {c : Fin 8} {s : Su} {x : Cx} {w len : Nat} (h : x.Canonical) : StepCanonical (suExec c s x w len) := by
  unfold suExec
  dsimp only
  split
  · split
    · exact StepCanonical.some (Cx.suLoad_canon h)
    · exact StepCanonical.some (Cx.suLoad_canon h)
    · exact StepCanonical.some (Cx.suLoad_canon h)
    · exact StepCanonical.some (Cx.suLoad_canon h)
    · exact StepCanonical.some (Cx.suLoad_canon h)
    · exact StepCanonical.none
  · split
    · split
      · exact StepCanonical.none
      · exact StepCanonical.some (Cx.suStore_canon h)
    · split
      · split
        · exact StepCanonical.none
        · exact StepCanonical.some (Cx.suLoad_canon h)
      · split
        · split
          · exact StepCanonical.none
          · exact StepCanonical.some (Cx.suStore_canon h)
        · exact StepCanonical.map h

theorem suFetch_canon {c : Fin 8} {s : Su} {x : Cx} (hx : Cx.Canonical x) : Cx.Canonical (suFetch c s x).2 := by
  unfold suFetch
  dsimp only
  split
  · dsimp only; exact Cx.touch_canon hx
  · dsimp only; exact Cx.touch_canon hx

theorem suRun_canon {c : Fin 8} {n : Nat} {s : Su} {x : Cx} (hx : Cx.Canonical x) : Cx.Canonical (suRun c n s x).2.1 := by
  induction n generalizing s x with
  | zero => exact hx
  | succ n ih =>
    have hf := suFetch_canon (c := c) (s := s) hx
    have he : StepCanonical (suExec c s (suFetch c s x).2 (suFetch c s x).1.1 (suFetch c s x).1.2) := suExec_canon hf
    unfold suRun
    dsimp only
    split
    · exact hf
    · split
      · split
        · exact hf
        · split
          · exact hf
          · split
            · exact hf
            · exact ih hf
      · next r e =>
        split
        · exact hf
        · exact ih (he.all r e)

theorem runSegment_canon {c : Fin 8} {x : Cx} (hx : Cx.Canonical x) : Cx.Canonical (runSegment c x).1 := by
  unfold runSegment
  repeat' (first
    | (with_reducible apply suRun_canon) | (with_reducible apply Cx.Canonical.fab; with_reducible apply suRun_canon)
    | (with_reducible apply Cx.putCore_canon)
    | (with_reducible apply Cx.Canonical.fab; with_reducible apply Cx.putCore_canon)
    | (intro x; refine (have hx : Cx.Canonical x.2.1 := ?_; ?_); rotate_left; clear_value x; rotate_right; subst x)
    | lift_lets
    | (with_reducible apply Cx.Canonical.of; first | (with_reducible apply Cx.Canonical.fab; with_reducible assumption) | (with_reducible apply suRun_canon) | (with_reducible apply Cx.Canonical.fab; with_reducible apply suRun_canon) | (with_reducible apply Cx.putCore_canon) | (with_reducible apply Cx.Canonical.fab; with_reducible apply Cx.putCore_canon) | (with_reducible apply Fab.Canonical.mem; first | with_reducible assumption | (with_reducible apply Cx.Canonical.fab; with_reducible assumption)) | (with_reducible assumption) | split))

theorem startSegment_canon {c : Fin 8} {w : BitVec 128} {x : Cx} (hx : Cx.Canonical x) : Cx.Canonical (startSegment c w x)
    := by
  unfold startSegment
  repeat' (first
    | (with_reducible apply Cx.putCore_canon)
    | (with_reducible apply Cx.Canonical.fab; with_reducible apply Cx.putCore_canon)
    | (with_reducible apply Cx.Canonical.of; first | (with_reducible apply Cx.Canonical.fab; with_reducible assumption) | (with_reducible apply Cx.putCore_canon) | (with_reducible apply Cx.Canonical.fab; with_reducible apply Cx.putCore_canon) | (with_reducible apply Fab.Canonical.mem; first | with_reducible assumption | (with_reducible apply Cx.Canonical.fab; with_reducible assumption)) | (with_reducible assumption) | split))

theorem customOp_canon {c : Fin 8} {body : Su → Su} {x : Cx} (hx : Cx.Canonical x) : Cx.Canonical (customOp c body x).1 := by
  unfold customOp
  repeat' (first
    | (with_reducible apply Cx.putCore_canon)
    | (with_reducible apply Cx.Canonical.fab; with_reducible apply Cx.putCore_canon)
    | (with_reducible apply runSegment_canon)
    | (with_reducible apply Cx.Canonical.fab; with_reducible apply runSegment_canon)
    | (intro x; refine (have hx : Cx.Canonical x := ?_; ?_); rotate_left; clear_value x; rotate_right; subst x)
    | lift_lets | split
    | (with_reducible apply Cx.Canonical.of; first | (with_reducible apply Cx.Canonical.fab; with_reducible assumption) | (with_reducible apply Cx.putCore_canon) | (with_reducible apply Cx.Canonical.fab; with_reducible apply Cx.putCore_canon) | (with_reducible apply runSegment_canon) | (with_reducible apply Cx.Canonical.fab; with_reducible apply runSegment_canon) | (with_reducible apply Fab.Canonical.mem; first | with_reducible assumption | (with_reducible apply Cx.Canonical.fab; with_reducible assumption)) | (with_reducible assumption) | split))

theorem runDmaIn_canon {c : Fin 8} {ringAt : RingAt} {w : BitVec 128} {x : Cx} (hx : Cx.Canonical x) : Cx.Canonical
    (runDmaIn c ringAt w x) := by
  unfold runDmaIn
  repeat' (first
    | (with_reducible apply Cx.readP_canon) | (with_reducible apply Cx.Canonical.fab; with_reducible apply Cx.readP_canon)
    | (with_reducible apply Cx.write_canon) | (with_reducible apply Cx.Canonical.fab; with_reducible apply Cx.write_canon)
    | (with_reducible apply Cx.Canonical.of; first | (with_reducible apply Cx.Canonical.fab; with_reducible assumption) | (with_reducible apply Cx.readP_canon) | (with_reducible apply Cx.Canonical.fab; with_reducible apply Cx.readP_canon) | (with_reducible apply Cx.write_canon) | (with_reducible apply Cx.Canonical.fab; with_reducible apply Cx.write_canon) | (with_reducible apply Fab.Canonical.mem; first | with_reducible assumption | (with_reducible apply Cx.Canonical.fab; with_reducible assumption)) | (with_reducible assumption) | split))

theorem Cx.takeCredit_canon {i : ℕ} {x : Cx} (hx : Cx.Canonical x) : Cx.Canonical (Cx.takeCredit i x) := by
  unfold Cx.takeCredit
  repeat' (first
    | (with_reducible apply Cx.Canonical.fab; with_reducible assumption)
    | (intro x; refine (have hx : Fab.Canonical x := ?_; ?_); rotate_left; clear_value x; rotate_right; subst x)
    | (with_reducible apply Cx.Canonical.of; first | (with_reducible apply Cx.Canonical.fab; with_reducible assumption) | (with_reducible apply Fab.Canonical.mem; first | with_reducible assumption | (with_reducible apply Cx.Canonical.fab; with_reducible assumption)) | (with_reducible assumption) | split))

theorem Cx.giveCredit_canon {i : ℕ} {x : Cx} (hx : Cx.Canonical x) : Cx.Canonical (Cx.giveCredit i x) := by
  unfold Cx.giveCredit
  repeat' (first
    | (with_reducible apply Fab.giveCredit_canon)
    | (with_reducible apply Cx.Canonical.fab; with_reducible apply Fab.giveCredit_canon)
    | (with_reducible apply Cx.Canonical.fab; with_reducible assumption)
    | (with_reducible apply Cx.Canonical.of; first | (with_reducible apply Cx.Canonical.fab; with_reducible assumption) | (with_reducible apply Fab.giveCredit_canon) | (with_reducible apply Cx.Canonical.fab; with_reducible apply Fab.giveCredit_canon) | (with_reducible apply Fab.Canonical.mem; first | with_reducible assumption | (with_reducible apply Cx.Canonical.fab; with_reducible assumption)) | (with_reducible assumption) | split))

theorem Cx.sendPleach_canon {c : Fin 8} {link : ℕ} {far : List Piece} {bs : List Byte} {x : Cx} (hx : Cx.Canonical x) :
    Cx.Canonical (Cx.sendPleach c link far bs x) := by
  unfold Cx.sendPleach
  repeat' (first
    | (with_reducible apply Cx.giveCredit_canon)
    | (with_reducible apply Cx.Canonical.fab; with_reducible apply Cx.giveCredit_canon)
    | (with_reducible apply Cx.writeP_canon)
    | (with_reducible apply Cx.Canonical.fab; with_reducible apply Cx.writeP_canon)
    | (with_reducible apply Cx.takeCredit_canon)
    | (with_reducible apply Cx.Canonical.fab; with_reducible apply Cx.takeCredit_canon)
    | (with_reducible apply Cx.Canonical.fab; with_reducible assumption)
    | (with_reducible apply Cx.Canonical.of; first | (with_reducible apply Cx.Canonical.fab; with_reducible assumption) | (with_reducible apply Cx.giveCredit_canon) | (with_reducible apply Cx.Canonical.fab; with_reducible apply Cx.giveCredit_canon) | (with_reducible apply Cx.writeP_canon) | (with_reducible apply Cx.Canonical.fab; with_reducible apply Cx.writeP_canon) | (with_reducible apply Cx.takeCredit_canon) | (with_reducible apply Cx.Canonical.fab; with_reducible apply Cx.takeCredit_canon) | (with_reducible apply Fab.Canonical.mem; first | with_reducible assumption | (with_reducible apply Cx.Canonical.fab; with_reducible assumption)) | (with_reducible assumption) | split))

theorem Cx.gatherRow_canon {u : UnitId} {cache : Option (Fin 8)} {sp : Space} {a : ℕ} {n : ℕ} {x : Cx} (hx : Cx.Canonical
    x) : Cx.Canonical (Cx.gatherRow u cache sp a n x).2 := by
  unfold Cx.gatherRow
  repeat' (first
    | (with_reducible apply Cx.cacheRead_canon)
    | (with_reducible apply Cx.Canonical.fab; with_reducible apply Cx.cacheRead_canon)
    | (with_reducible apply Cx.read_canon) | (with_reducible apply Cx.Canonical.fab; with_reducible apply Cx.read_canon)
    | split
    | (with_reducible apply Cx.Canonical.of; first | (with_reducible apply Cx.Canonical.fab; with_reducible assumption) | (with_reducible apply Cx.cacheRead_canon) | (with_reducible apply Cx.Canonical.fab; with_reducible apply Cx.cacheRead_canon) | (with_reducible apply Cx.read_canon) | (with_reducible apply Cx.Canonical.fab; with_reducible apply Cx.read_canon) | (with_reducible apply Fab.Canonical.mem; first | with_reducible assumption | (with_reducible apply Cx.Canonical.fab; with_reducible assumption)) | (with_reducible assumption) | split))

theorem Cx.gather_canon {u : UnitId} {cache : Option (Fin 8)} {g : Gather} {x : Cx} (hx : Cx.Canonical x) : Cx.Canonical
    (Cx.gather u cache g x) := by
  unfold Cx.gather
  repeat' (first
    | (with_reducible apply Cx.touch_canon) | (with_reducible apply Cx.Canonical.fab; with_reducible apply Cx.touch_canon)
    | (with_reducible apply Cx.stop_canon) | (with_reducible apply Cx.Canonical.fab; with_reducible apply Cx.stop_canon)
    | (with_reducible apply Cx.write_canon) | (with_reducible apply Cx.Canonical.fab; with_reducible apply Cx.write_canon)
    | (with_reducible apply Cx.count_canon) | (with_reducible apply Cx.Canonical.fab; with_reducible apply Cx.count_canon)
    | (with_reducible apply Cx.gatherRow_canon)
    | (with_reducible apply Cx.Canonical.fab; with_reducible apply Cx.gatherRow_canon)
    | (with_reducible apply Cx.Canonical.foldl) | (refine fun t a (ht : Cx.Canonical t) => ?_)
    | (intro x; refine (have hx : Cx.Canonical x := ?_; ?_); rotate_left; clear_value x; rotate_right; subst x)
    | (intro x; refine (have hx : Cx.Canonical x.2 := ?_; ?_); rotate_left; clear_value x; rotate_right; subst x)
    | (intro x; clear_value x) | lift_lets | split
    | (with_reducible apply Cx.Canonical.of; first | (with_reducible apply Cx.Canonical.fab; with_reducible assumption) | (with_reducible apply Cx.touch_canon) | (with_reducible apply Cx.Canonical.fab; with_reducible apply Cx.touch_canon) | (with_reducible apply Cx.stop_canon) | (with_reducible apply Cx.Canonical.fab; with_reducible apply Cx.stop_canon) | (with_reducible apply Cx.write_canon) | (with_reducible apply Cx.Canonical.fab; with_reducible apply Cx.write_canon) | (with_reducible apply Cx.count_canon) | (with_reducible apply Cx.Canonical.fab; with_reducible apply Cx.count_canon) | (with_reducible apply Cx.gatherRow_canon) | (with_reducible apply Cx.Canonical.fab; with_reducible apply Cx.gatherRow_canon) | (with_reducible apply Fab.Canonical.mem; first | with_reducible assumption | (with_reducible apply Cx.Canonical.fab; with_reducible assumption)) | (with_reducible assumption) | split))

theorem Cx.acquire_canon {n : ℕ} {c : ℕ} {x : Cx} (hx : Cx.Canonical x) : Cx.Canonical (Cx.acquire n c x) := by
  unfold Cx.acquire
  repeat' (first
    | (with_reducible apply Fab.putSem_canon)
    | (with_reducible apply Cx.Canonical.fab; with_reducible apply Fab.putSem_canon)
    | (with_reducible apply Cx.Canonical.fab; with_reducible assumption)
    | (with_reducible apply Cx.Canonical.of; first | (with_reducible apply Cx.Canonical.fab; with_reducible assumption) | (with_reducible apply Fab.putSem_canon) | (with_reducible apply Cx.Canonical.fab; with_reducible apply Fab.putSem_canon) | (with_reducible apply Fab.Canonical.mem; first | with_reducible assumption | (with_reducible apply Cx.Canonical.fab; with_reducible assumption)) | (with_reducible assumption) | split)
    | dsimp only)

theorem Cx.join_canon {c : Fin 8} {n : ℕ} {k : ℕ} {x : Cx} (hx : Cx.Canonical x) : Cx.Canonical (Cx.join c n k x) := by
  unfold Cx.join
  repeat' (first
    | (with_reducible apply Cx.Canonical.fab; with_reducible assumption)
    | (intro x; refine (have hx : Fab.Canonical x := ?_; ?_); rotate_left; clear_value x; rotate_right; subst x)
    | (with_reducible apply Cx.Canonical.of; first | (with_reducible apply Cx.Canonical.fab; with_reducible assumption) | (with_reducible apply Fab.Canonical.mem; first | with_reducible assumption | (with_reducible apply Cx.Canonical.fab; with_reducible assumption)) | (with_reducible assumption) | split))

theorem OpCx.readT_canon {o : OpCx} {t : Tensor} {n : ℕ} {x : Cx} (hx : Cx.Canonical x) : Cx.Canonical (OpCx.readT o t n
    x).2 := by
  unfold OpCx.readT
  repeat' (first
    | (with_reducible apply Cx.readP_canon) | (with_reducible apply Cx.Canonical.fab; with_reducible apply Cx.readP_canon)
    | (with_reducible apply Cx.Canonical.of; first | (with_reducible apply Cx.Canonical.fab; with_reducible assumption) | (with_reducible apply Cx.readP_canon) | (with_reducible apply Cx.Canonical.fab; with_reducible apply Cx.readP_canon) | (with_reducible apply Fab.Canonical.mem; first | with_reducible assumption | (with_reducible apply Cx.Canonical.fab; with_reducible assumption)) | (with_reducible assumption) | split))

theorem OpCx.writeT_canon {o : OpCx} {t : Tensor} {bs : List Byte} {x : Cx} (hx : Cx.Canonical x) : Cx.Canonical
    (OpCx.writeT o t bs x) := by
  unfold OpCx.writeT
  repeat' (first
    | (with_reducible apply Cx.writeP_canon)
    | (with_reducible apply Cx.Canonical.fab; with_reducible apply Cx.writeP_canon)
    | (with_reducible apply Cx.Canonical.of; first | (with_reducible apply Cx.Canonical.fab; with_reducible assumption) | (with_reducible apply Cx.writeP_canon) | (with_reducible apply Cx.Canonical.fab; with_reducible apply Cx.writeP_canon) | (with_reducible apply Fab.Canonical.mem; first | with_reducible assumption | (with_reducible apply Cx.Canonical.fab; with_reducible assumption)) | (with_reducible assumption) | split))

theorem OpCx.load_canon {o : OpCx} {t : Tensor} {x : Cx} (hx : Cx.Canonical x) : Cx.Canonical (OpCx.load o t x).2 := by
  unfold OpCx.load
  repeat' (first
    | (with_reducible apply OpCx.readT_canon)
    | (with_reducible apply Cx.Canonical.fab; with_reducible apply OpCx.readT_canon)
    | (with_reducible apply Cx.touch_canon) | (with_reducible apply Cx.Canonical.fab; with_reducible apply Cx.touch_canon)
    | (intro x; refine (have hx : Cx.Canonical x.2 := ?_; ?_); rotate_left; clear_value x; rotate_right; subst x) | split
    | (with_reducible apply Cx.Canonical.of; first | (with_reducible apply Cx.Canonical.fab; with_reducible assumption) | (with_reducible apply OpCx.readT_canon) | (with_reducible apply Cx.Canonical.fab; with_reducible apply OpCx.readT_canon) | (with_reducible apply Cx.touch_canon) | (with_reducible apply Cx.Canonical.fab; with_reducible apply Cx.touch_canon) | (with_reducible apply Fab.Canonical.mem; first | with_reducible assumption | (with_reducible apply Cx.Canonical.fab; with_reducible assumption)) | (with_reducible assumption) | split))

theorem Cx.storeT_canon {o : OpCx} {block : Bool} {t : Tensor} {f : ℕ → Option Fp} {x : Cx} (hx : Cx.Canonical x) :
    Cx.Canonical (Cx.storeT o block t f x) := by
  unfold Cx.storeT
  repeat' (first
    | (with_reducible apply Cx.touch_canon) | (with_reducible apply Cx.Canonical.fab; with_reducible apply Cx.touch_canon)
    | (with_reducible apply Cx.quantise_canon)
    | (with_reducible apply Cx.Canonical.fab; with_reducible apply Cx.quantise_canon)
    | (with_reducible apply Cx.report_canon)
    | (with_reducible apply Cx.Canonical.fab; with_reducible apply Cx.report_canon)
    | (with_reducible apply OpCx.writeT_canon)
    | (with_reducible apply Cx.Canonical.fab; with_reducible apply OpCx.writeT_canon)
    | (with_reducible apply Cx.write_canon) | (with_reducible apply Cx.Canonical.fab; with_reducible apply Cx.write_canon)
    | (with_reducible apply Cx.Canonical.fab; with_reducible assumption) | (with_reducible apply Cx.Canonical.foldlThird)
    | (refine fun p a (hp : Cx.Canonical p.2.2) => ?_)
    | (intro x; refine (have hx : Cx.Canonical x := ?_; ?_); rotate_left; clear_value x; rotate_right; subst x)
    | (intro x; refine (have hx : Cx.Canonical x.2.2 := ?_; ?_); rotate_left; clear_value x; rotate_right; subst x)
    | (intro x; clear_value x) | lift_lets
    | (with_reducible apply Cx.Canonical.of; first | (with_reducible apply Cx.Canonical.fab; with_reducible assumption) | (with_reducible apply Cx.touch_canon) | (with_reducible apply Cx.Canonical.fab; with_reducible apply Cx.touch_canon) | (with_reducible apply Cx.quantise_canon) | (with_reducible apply Cx.Canonical.fab; with_reducible apply Cx.quantise_canon) | (with_reducible apply Cx.report_canon) | (with_reducible apply Cx.Canonical.fab; with_reducible apply Cx.report_canon) | (with_reducible apply OpCx.writeT_canon) | (with_reducible apply Cx.Canonical.fab; with_reducible apply OpCx.writeT_canon) | (with_reducible apply Cx.write_canon) | (with_reducible apply Cx.Canonical.fab; with_reducible apply Cx.write_canon) | (with_reducible apply Fab.Canonical.mem; first | with_reducible assumption | (with_reducible apply Cx.Canonical.fab; with_reducible assumption)) | (with_reducible assumption) | split))

theorem Cx.storeF32_canon {o : OpCx} {t : Tensor} {vals : List Fp} {x : Cx} (hx : Cx.Canonical x) : Cx.Canonical
    (Cx.storeF32 o t vals x) := by
  unfold Cx.storeF32
  repeat' (first
    | (with_reducible apply OpCx.writeT_canon)
    | (with_reducible apply Cx.Canonical.fab; with_reducible apply OpCx.writeT_canon)
    | (with_reducible apply Cx.Canonical.of; first | (with_reducible apply Cx.Canonical.fab; with_reducible assumption) | (with_reducible apply OpCx.writeT_canon) | (with_reducible apply Cx.Canonical.fab; with_reducible apply OpCx.writeT_canon) | (with_reducible apply Fab.Canonical.mem; first | with_reducible assumption | (with_reducible apply Cx.Canonical.fab; with_reducible assumption)) | (with_reducible assumption) | split))

theorem Cx.arrayPass_canon {c : Fin 8} {isInt : Bool} {rows : ℕ} {vec : List (Option Fp)} {cols : List (List Fp)} {fmt :
    ℕ} {x : Cx} (hx : Cx.Canonical x) : Cx.Canonical (Cx.arrayPass c isInt rows vec cols fmt x).2 := by
  unfold Cx.arrayPass
  repeat' (first
    | (with_reducible apply Cx.count_canon) | (with_reducible apply Cx.Canonical.fab; with_reducible apply Cx.count_canon)
    | (with_reducible apply Cx.Canonical.fab; with_reducible assumption)
    | (with_reducible apply Cx.Canonical.of; first | (with_reducible apply Cx.Canonical.fab; with_reducible assumption) | (with_reducible apply Cx.count_canon) | (with_reducible apply Cx.Canonical.fab; with_reducible apply Cx.count_canon) | (with_reducible apply Fab.Canonical.mem; first | with_reducible assumption | (with_reducible apply Cx.Canonical.fab; with_reducible assumption)) | (with_reducible assumption) | split))

theorem Cx.arrayRow_canon {c : Fin 8} {fa : ℕ} {fw : ℕ} {passes : ℕ} {ncols : ℕ} {act : ℕ → ℕ → List (Option Fp)} {wt : ℕ
    → ℕ → ℕ → List Fp} {x : Cx} (hx : Cx.Canonical x) : Cx.Canonical (Cx.arrayRow c fa fw passes ncols act wt x).2.2 := by
  unfold Cx.arrayRow
  repeat' (first
    | (with_reducible apply Cx.arrayPass_canon)
    | (with_reducible apply Cx.Canonical.fab; with_reducible apply Cx.arrayPass_canon)
    | (with_reducible apply Cx.Canonical.foldlThird) | (with_reducible apply Cx.Canonical.foldlSnd)
    | (refine fun p a (hp : Cx.Canonical p.2) => ?_) | (refine fun p a (hp : Cx.Canonical p.2.2) => ?_)
    | (with_reducible apply Cx.Canonical.of; first | (with_reducible apply Cx.Canonical.fab; with_reducible assumption) | (with_reducible apply Cx.arrayPass_canon) | (with_reducible apply Cx.Canonical.fab; with_reducible apply Cx.arrayPass_canon) | (with_reducible apply Fab.Canonical.mem; first | with_reducible assumption | (with_reducible apply Cx.Canonical.fab; with_reducible assumption)) | (with_reducible assumption) | split))

theorem Cx.countOvf_canon {o : OpCx} {n : ℕ} {x : Cx} (hx : Cx.Canonical x) : Cx.Canonical (Cx.countOvf o n x) := by
  unfold Cx.countOvf
  repeat' (first
    | (with_reducible apply Cx.count_canon) | (with_reducible apply Cx.Canonical.fab; with_reducible apply Cx.count_canon)
    | (with_reducible apply Cx.report_canon)
    | (with_reducible apply Cx.Canonical.fab; with_reducible apply Cx.report_canon)
    | (with_reducible apply Cx.nameOut_canon)
    | (with_reducible apply Cx.Canonical.fab; with_reducible apply Cx.nameOut_canon)
    | (with_reducible apply Cx.Canonical.fab; with_reducible assumption)
    | (intro x; refine (have hx : Cx.Canonical x := ?_; ?_); rotate_left; clear_value x; rotate_right; subst x)
    | (with_reducible apply Cx.Canonical.of; first | (with_reducible apply Cx.Canonical.fab; with_reducible assumption) | (with_reducible apply Cx.count_canon) | (with_reducible apply Cx.Canonical.fab; with_reducible apply Cx.count_canon) | (with_reducible apply Cx.report_canon) | (with_reducible apply Cx.Canonical.fab; with_reducible apply Cx.report_canon) | (with_reducible apply Cx.nameOut_canon) | (with_reducible apply Cx.Canonical.fab; with_reducible apply Cx.nameOut_canon) | (with_reducible apply Fab.Canonical.mem; first | with_reducible assumption | (with_reducible apply Cx.Canonical.fab; with_reducible assumption)) | (with_reducible assumption) | split))

theorem OpCx.view_canon {o : OpCx} {i : ℕ} {x : Cx} (hx : Cx.Canonical x) : Cx.Canonical (OpCx.view o i x).2 := by
  unfold OpCx.view
  repeat' (first
    | (with_reducible apply OpCx.load_canon)
    | (with_reducible apply Cx.Canonical.fab; with_reducible apply OpCx.load_canon)
    | (with_reducible apply Cx.Canonical.of; first | (with_reducible apply Cx.Canonical.fab; with_reducible assumption) | (with_reducible apply OpCx.load_canon) | (with_reducible apply Cx.Canonical.fab; with_reducible apply OpCx.load_canon) | (with_reducible apply Fab.Canonical.mem; first | with_reducible assumption | (with_reducible apply Cx.Canonical.fab; with_reducible assumption)) | (with_reducible assumption) | split))

theorem Cx.needOperand_canon {w : View} {x : Cx} (hx : Cx.Canonical x) : Cx.Canonical (Cx.needOperand w x) := by
  unfold Cx.needOperand
  repeat' (first
    | (with_reducible apply Cx.stop_canon) | (with_reducible apply Cx.Canonical.fab; with_reducible apply Cx.stop_canon)
    | (with_reducible apply Cx.Canonical.fab; with_reducible assumption)
    | (with_reducible apply Cx.Canonical.of; first | (with_reducible apply Cx.Canonical.fab; with_reducible assumption) | (with_reducible apply Cx.stop_canon) | (with_reducible apply Cx.Canonical.fab; with_reducible apply Cx.stop_canon) | (with_reducible apply Fab.Canonical.mem; first | with_reducible assumption | (with_reducible apply Cx.Canonical.fab; with_reducible assumption)) | (with_reducible assumption) | split))

theorem opConv2d_canon {o : OpCx} {x : Cx} (hx : Cx.Canonical x) : Cx.Canonical (opConv2d o x) := by
  unfold opConv2d
  repeat' (first
    | (with_reducible apply Cx.needOperand_canon)
    | (with_reducible apply Cx.Canonical.fab; with_reducible apply Cx.needOperand_canon)
    | (with_reducible apply Cx.arrayRow_canon)
    | (with_reducible apply Cx.Canonical.fab; with_reducible apply Cx.arrayRow_canon)
    | (with_reducible apply Cx.countOvf_canon)
    | (with_reducible apply Cx.Canonical.fab; with_reducible apply Cx.countOvf_canon)
    | (with_reducible apply Cx.storeT_canon)
    | (with_reducible apply Cx.Canonical.fab; with_reducible apply Cx.storeT_canon)
    | (with_reducible apply Cx.Canonical.foldlSnd) | (refine fun p a (hp : Cx.Canonical p.2) => ?_)
    | (with_reducible apply Cx.Canonical.of; first | (with_reducible apply Cx.Canonical.fab; with_reducible assumption) | (with_reducible apply OpCx.view_canon) | (with_reducible apply Cx.Canonical.fab; with_reducible apply OpCx.view_canon) | (with_reducible apply Cx.needOperand_canon) | (with_reducible apply Cx.Canonical.fab; with_reducible apply Cx.needOperand_canon) | (with_reducible apply Cx.arrayRow_canon) | (with_reducible apply Cx.Canonical.fab; with_reducible apply Cx.arrayRow_canon) | (with_reducible apply Cx.countOvf_canon) | (with_reducible apply Cx.Canonical.fab; with_reducible apply Cx.countOvf_canon) | (with_reducible apply Cx.storeT_canon) | (with_reducible apply Cx.Canonical.fab; with_reducible apply Cx.storeT_canon) | (with_reducible apply Fab.Canonical.mem; first | with_reducible assumption | (with_reducible apply Cx.Canonical.fab; with_reducible assumption)) | (with_reducible assumption) | split))

theorem opDwconv2d_canon {o : OpCx} {x : Cx} (hx : Cx.Canonical x) : Cx.Canonical (opDwconv2d o x) := by
  unfold opDwconv2d
  repeat' (first
    | (with_reducible apply Cx.storeT_canon)
    | (with_reducible apply Cx.Canonical.fab; with_reducible apply Cx.storeT_canon)
    | (with_reducible apply Cx.Canonical.of; first | (with_reducible apply Cx.Canonical.fab; with_reducible assumption) | (with_reducible apply OpCx.view_canon) | (with_reducible apply Cx.Canonical.fab; with_reducible apply OpCx.view_canon) | (with_reducible apply Cx.storeT_canon) | (with_reducible apply Cx.Canonical.fab; with_reducible apply Cx.storeT_canon) | (with_reducible apply Fab.Canonical.mem; first | with_reducible assumption | (with_reducible apply Cx.Canonical.fab; with_reducible assumption)) | (with_reducible assumption) | split))

theorem opPool_canon {o : OpCx} {x : Cx} (hx : Cx.Canonical x) : Cx.Canonical (opPool o x) := by
  unfold opPool
  repeat' (first
    | (with_reducible apply Cx.count_canon) | (with_reducible apply Cx.Canonical.fab; with_reducible apply Cx.count_canon)
    | (with_reducible apply Cx.storeT_canon)
    | (with_reducible apply Cx.Canonical.fab; with_reducible apply Cx.storeT_canon)
    | (with_reducible apply Cx.Canonical.of; first | (with_reducible apply Cx.Canonical.fab; with_reducible assumption) | (with_reducible apply OpCx.view_canon) | (with_reducible apply Cx.Canonical.fab; with_reducible apply OpCx.view_canon) | (with_reducible apply Cx.count_canon) | (with_reducible apply Cx.Canonical.fab; with_reducible apply Cx.count_canon) | (with_reducible apply Cx.storeT_canon) | (with_reducible apply Cx.Canonical.fab; with_reducible apply Cx.storeT_canon) | (with_reducible apply Fab.Canonical.mem; first | with_reducible assumption | (with_reducible apply Cx.Canonical.fab; with_reducible assumption)) | (with_reducible assumption) | split))

theorem opPad_canon {o : OpCx} {x : Cx} (hx : Cx.Canonical x) : Cx.Canonical (opPad o x) := by
  unfold opPad
  repeat' (first
    | (with_reducible apply Cx.storeT_canon)
    | (with_reducible apply Cx.Canonical.fab; with_reducible apply Cx.storeT_canon)
    | (with_reducible apply Cx.Canonical.of; first | (with_reducible apply Cx.Canonical.fab; with_reducible assumption) | (with_reducible apply OpCx.view_canon) | (with_reducible apply Cx.Canonical.fab; with_reducible apply OpCx.view_canon) | (with_reducible apply Cx.storeT_canon) | (with_reducible apply Cx.Canonical.fab; with_reducible apply Cx.storeT_canon) | (with_reducible apply Fab.Canonical.mem; first | with_reducible assumption | (with_reducible apply Cx.Canonical.fab; with_reducible assumption)) | (with_reducible assumption) | split))

theorem Cx.dotRow_canon {o : OpCx} {A : View} {W : View} {alongA : Bool} {alongW : Bool} {k : ℕ} {cols : ℕ} {ai : ℕ → ℕ}
    {wi : ℕ → ℕ → ℕ} {x : Cx} (hx : Cx.Canonical x) : Cx.Canonical (Cx.dotRow o A W alongA alongW k cols ai wi x).2 := by
  unfold Cx.dotRow
  repeat' (first
    | (with_reducible apply Cx.arrayRow_canon)
    | (with_reducible apply Cx.Canonical.fab; with_reducible apply Cx.arrayRow_canon)
    | (with_reducible apply Cx.countOvf_canon)
    | (with_reducible apply Cx.Canonical.fab; with_reducible apply Cx.countOvf_canon)
    | (with_reducible apply Cx.Canonical.of; first | (with_reducible apply Cx.Canonical.fab; with_reducible assumption) | (with_reducible apply Cx.arrayRow_canon) | (with_reducible apply Cx.Canonical.fab; with_reducible apply Cx.arrayRow_canon) | (with_reducible apply Cx.countOvf_canon) | (with_reducible apply Cx.Canonical.fab; with_reducible apply Cx.countOvf_canon) | (with_reducible apply Fab.Canonical.mem; first | with_reducible assumption | (with_reducible apply Cx.Canonical.fab; with_reducible assumption)) | (with_reducible assumption) | split))

theorem opMatmul_canon {o : OpCx} {x : Cx} (hx : Cx.Canonical x) : Cx.Canonical (opMatmul o x) := by
  unfold opMatmul
  repeat' (first
    | (with_reducible apply Cx.needOperand_canon)
    | (with_reducible apply Cx.Canonical.fab; with_reducible apply Cx.needOperand_canon)
    | (with_reducible apply Cx.dotRow_canon)
    | (with_reducible apply Cx.Canonical.fab; with_reducible apply Cx.dotRow_canon)
    | (with_reducible apply Cx.storeT_canon)
    | (with_reducible apply Cx.Canonical.fab; with_reducible apply Cx.storeT_canon)
    | (with_reducible apply Cx.Canonical.foldlSnd) | (refine fun p a (hp : Cx.Canonical p.2) => ?_)
    | (with_reducible apply Cx.Canonical.of; first | (with_reducible apply Cx.Canonical.fab; with_reducible assumption) | (with_reducible apply OpCx.view_canon) | (with_reducible apply Cx.Canonical.fab; with_reducible apply OpCx.view_canon) | (with_reducible apply Cx.needOperand_canon) | (with_reducible apply Cx.Canonical.fab; with_reducible apply Cx.needOperand_canon) | (with_reducible apply Cx.dotRow_canon) | (with_reducible apply Cx.Canonical.fab; with_reducible apply Cx.dotRow_canon) | (with_reducible apply Cx.storeT_canon) | (with_reducible apply Cx.Canonical.fab; with_reducible apply Cx.storeT_canon) | (with_reducible apply Fab.Canonical.mem; first | with_reducible assumption | (with_reducible apply Cx.Canonical.fab; with_reducible assumption)) | (with_reducible assumption) | split))

theorem opEltwise_canon {o : OpCx} {x : Cx} (hx : Cx.Canonical x) : Cx.Canonical (opEltwise o x) := by
  unfold opEltwise
  repeat' (first
    | (with_reducible apply Cx.storeT_canon)
    | (with_reducible apply Cx.Canonical.fab; with_reducible apply Cx.storeT_canon)
    | (with_reducible apply Cx.Canonical.of; first | (with_reducible apply Cx.Canonical.fab; with_reducible assumption) | (with_reducible apply OpCx.view_canon) | (with_reducible apply Cx.Canonical.fab; with_reducible apply OpCx.view_canon) | (with_reducible apply Cx.storeT_canon) | (with_reducible apply Cx.Canonical.fab; with_reducible apply Cx.storeT_canon) | (with_reducible apply Fab.Canonical.mem; first | with_reducible assumption | (with_reducible apply Cx.Canonical.fab; with_reducible assumption)) | (with_reducible assumption) | split))

theorem opActivation_canon {o : OpCx} {x : Cx} (hx : Cx.Canonical x) : Cx.Canonical (opActivation o x) := by
  unfold opActivation
  repeat' (first
    | (with_reducible apply Cx.storeT_canon)
    | (with_reducible apply Cx.Canonical.fab; with_reducible apply Cx.storeT_canon)
    | (with_reducible apply Cx.Canonical.of; first | (with_reducible apply Cx.Canonical.fab; with_reducible assumption) | (with_reducible apply OpCx.view_canon) | (with_reducible apply Cx.Canonical.fab; with_reducible apply OpCx.view_canon) | (with_reducible apply Cx.storeT_canon) | (with_reducible apply Cx.Canonical.fab; with_reducible apply Cx.storeT_canon) | (with_reducible apply Fab.Canonical.mem; first | with_reducible assumption | (with_reducible apply Cx.Canonical.fab; with_reducible assumption)) | (with_reducible assumption) | split))

theorem opLayerNorm_canon {o : OpCx} {x : Cx} (hx : Cx.Canonical x) : Cx.Canonical (opLayerNorm o x) := by
  unfold opLayerNorm
  repeat' (first
    | (with_reducible apply Cx.storeT_canon)
    | (with_reducible apply Cx.Canonical.fab; with_reducible apply Cx.storeT_canon)
    | (with_reducible apply Cx.Canonical.of; first | (with_reducible apply Cx.Canonical.fab; with_reducible assumption) | (with_reducible apply OpCx.view_canon) | (with_reducible apply Cx.Canonical.fab; with_reducible apply OpCx.view_canon) | (with_reducible apply Cx.storeT_canon) | (with_reducible apply Cx.Canonical.fab; with_reducible apply Cx.storeT_canon) | (with_reducible apply Fab.Canonical.mem; first | with_reducible assumption | (with_reducible apply Cx.Canonical.fab; with_reducible assumption)) | (with_reducible assumption) | split))

theorem opSoftmax_canon {o : OpCx} {x : Cx} (hx : Cx.Canonical x) : Cx.Canonical (opSoftmax o x) := by
  unfold opSoftmax
  repeat' (first
    | (with_reducible apply Cx.storeT_canon)
    | (with_reducible apply Cx.Canonical.fab; with_reducible apply Cx.storeT_canon)
    | (with_reducible apply Cx.Canonical.of; first | (with_reducible apply Cx.Canonical.fab; with_reducible assumption) | (with_reducible apply OpCx.view_canon) | (with_reducible apply Cx.Canonical.fab; with_reducible apply OpCx.view_canon) | (with_reducible apply Cx.storeT_canon) | (with_reducible apply Cx.Canonical.fab; with_reducible apply Cx.storeT_canon) | (with_reducible apply Fab.Canonical.mem; first | with_reducible assumption | (with_reducible apply Cx.Canonical.fab; with_reducible assumption)) | (with_reducible assumption) | split))

theorem opLayoutConvert_canon {o : OpCx} {x : Cx} (hx : Cx.Canonical x) : Cx.Canonical (opLayoutConvert o x) := by
  unfold opLayoutConvert
  repeat' (first
    | (with_reducible apply OpCx.writeT_canon)
    | (with_reducible apply Cx.Canonical.fab; with_reducible apply OpCx.writeT_canon)
    | (with_reducible apply Cx.Canonical.of; first | (with_reducible apply Cx.Canonical.fab; with_reducible assumption) | (with_reducible apply OpCx.view_canon) | (with_reducible apply Cx.Canonical.fab; with_reducible apply OpCx.view_canon) | (with_reducible apply OpCx.writeT_canon) | (with_reducible apply Cx.Canonical.fab; with_reducible apply OpCx.writeT_canon) | (with_reducible apply Fab.Canonical.mem; first | with_reducible assumption | (with_reducible apply Cx.Canonical.fab; with_reducible assumption)) | (with_reducible assumption) | split))

theorem Cx.pvRow_canon {o : OpCx} {V : View} {p : List Fp} {dv : ℕ} {vi : ℕ → ℕ → ℕ} {x : Cx} (hx : Cx.Canonical x) :
    Cx.Canonical (Cx.pvRow o V p dv vi x).2 := by
  unfold Cx.pvRow
  repeat' (first
    | (with_reducible apply Cx.arrayRow_canon)
    | (with_reducible apply Cx.Canonical.fab; with_reducible apply Cx.arrayRow_canon)
    | (with_reducible apply Cx.Canonical.of; first | (with_reducible apply Cx.Canonical.fab; with_reducible assumption) | (with_reducible apply Cx.arrayRow_canon) | (with_reducible apply Cx.Canonical.fab; with_reducible apply Cx.arrayRow_canon) | (with_reducible apply Fab.Canonical.mem; first | with_reducible assumption | (with_reducible apply Cx.Canonical.fab; with_reducible assumption)) | (with_reducible assumption) | split))

theorem Cx.attnTile_canon {o : OpCx} {V : View} {dv : ℕ} {j0 : ℕ} {s : List Fp} {vi : ℕ → ℕ → ℕ} {p : (Fp × Fp × List Fp)
    × Cx} (hp : Cx.Canonical p.2) : Cx.Canonical (Cx.attnTile o V dv j0 s vi p).2 := by
  unfold Cx.attnTile
  repeat' (first
    | (with_reducible apply Cx.pvRow_canon) | (with_reducible apply Cx.Canonical.fab; with_reducible apply Cx.pvRow_canon)
    | (intro x; clear_value x) | lift_lets | split
    | (with_reducible apply Cx.Canonical.of; first | (with_reducible apply Cx.Canonical.fab; with_reducible assumption) | (with_reducible apply Cx.pvRow_canon) | (with_reducible apply Cx.Canonical.fab; with_reducible apply Cx.pvRow_canon) | (with_reducible apply Fab.Canonical.mem; first | with_reducible assumption | (with_reducible apply Cx.Canonical.fab; with_reducible assumption)) | (with_reducible assumption) | split))

theorem opAttention_canon {o : OpCx} {x : Cx} (hx : Cx.Canonical x) : Cx.Canonical (opAttention o x) := by
  unfold opAttention
  repeat' (first
    | (with_reducible apply Cx.needOperand_canon)
    | (with_reducible apply Cx.Canonical.fab; with_reducible apply Cx.needOperand_canon)
    | (with_reducible apply Cx.dotRow_canon)
    | (with_reducible apply Cx.Canonical.fab; with_reducible apply Cx.dotRow_canon)
    | (with_reducible apply Cx.attnTile_canon)
    | (with_reducible apply Cx.Canonical.fab; with_reducible apply Cx.attnTile_canon)
    | (with_reducible apply Cx.storeT_canon)
    | (with_reducible apply Cx.Canonical.fab; with_reducible apply Cx.storeT_canon)
    | (with_reducible apply Cx.Canonical.foldlSnd) | (refine fun p a (hp : Cx.Canonical p.2) => ?_)
    | (with_reducible apply Cx.Canonical.of; first | (with_reducible apply Cx.Canonical.fab; with_reducible assumption) | (with_reducible apply OpCx.view_canon) | (with_reducible apply Cx.Canonical.fab; with_reducible apply OpCx.view_canon) | (with_reducible apply Cx.needOperand_canon) | (with_reducible apply Cx.Canonical.fab; with_reducible apply Cx.needOperand_canon) | (with_reducible apply Cx.dotRow_canon) | (with_reducible apply Cx.Canonical.fab; with_reducible apply Cx.dotRow_canon) | (with_reducible apply Cx.attnTile_canon) | (with_reducible apply Cx.Canonical.fab; with_reducible apply Cx.attnTile_canon) | (with_reducible apply Cx.storeT_canon) | (with_reducible apply Cx.Canonical.fab; with_reducible apply Cx.storeT_canon) | (with_reducible apply Fab.Canonical.mem; first | with_reducible assumption | (with_reducible apply Cx.Canonical.fab; with_reducible assumption)) | (with_reducible assumption) | split))

theorem OpCx.ssm_canon {o : OpCx} {x : Cx} (hx : Cx.Canonical x) : Cx.Canonical (OpCx.ssm o x).2 := by
  unfold OpCx.ssm
  repeat' (first
    | (with_reducible apply Cx.Canonical.of; first | (with_reducible apply Cx.Canonical.fab; with_reducible assumption) | (with_reducible apply OpCx.view_canon) | (with_reducible apply Cx.Canonical.fab; with_reducible apply OpCx.view_canon) | (with_reducible apply Fab.Canonical.mem; first | with_reducible assumption | (with_reducible apply Cx.Canonical.fab; with_reducible assumption)) | (with_reducible assumption) | split))

theorem opSsmScan_canon {o : OpCx} {x : Cx} (hx : Cx.Canonical x) : Cx.Canonical (opSsmScan o x) := by
  unfold opSsmScan
  repeat' (first
    | (with_reducible apply OpCx.ssm_canon) | (with_reducible apply Cx.Canonical.fab; with_reducible apply OpCx.ssm_canon)
    | (with_reducible apply Cx.storeT_canon)
    | (with_reducible apply Cx.Canonical.fab; with_reducible apply Cx.storeT_canon)
    | (with_reducible apply Cx.storeF32_canon)
    | (with_reducible apply Cx.Canonical.fab; with_reducible apply Cx.storeF32_canon)
    | (with_reducible apply Cx.Canonical.of; first | (with_reducible apply Cx.Canonical.fab; with_reducible assumption) | (with_reducible apply OpCx.ssm_canon) | (with_reducible apply Cx.Canonical.fab; with_reducible apply OpCx.ssm_canon) | (with_reducible apply Cx.storeT_canon) | (with_reducible apply Cx.Canonical.fab; with_reducible apply Cx.storeT_canon) | (with_reducible apply Cx.storeF32_canon) | (with_reducible apply Cx.Canonical.fab; with_reducible apply Cx.storeF32_canon) | (with_reducible apply Fab.Canonical.mem; first | with_reducible assumption | (with_reducible apply Cx.Canonical.fab; with_reducible assumption)) | (with_reducible assumption) | split))

theorem OpCx.codesAt_canon {o : OpCx} {t : Tensor} {k : ℕ} {e : ℕ} {x : Cx} (hx : Cx.Canonical x) : Cx.Canonical
    (OpCx.codesAt o t k e x).2 := by
  unfold OpCx.codesAt
  repeat' (first
    | (with_reducible apply Cx.read_canon) | (with_reducible apply Cx.Canonical.fab; with_reducible apply Cx.read_canon)
    | (with_reducible apply Cx.Canonical.of; first | (with_reducible apply Cx.Canonical.fab; with_reducible assumption) | (with_reducible apply Cx.read_canon) | (with_reducible apply Cx.Canonical.fab; with_reducible apply Cx.read_canon) | (with_reducible apply Fab.Canonical.mem; first | with_reducible assumption | (with_reducible apply Cx.Canonical.fab; with_reducible assumption)) | (with_reducible assumption) | split))

theorem opEmbedGather_canon {o : OpCx} {x : Cx} (hx : Cx.Canonical x) : Cx.Canonical (opEmbedGather o x) := by
  unfold opEmbedGather
  repeat' (first
    | (with_reducible apply Cx.stop_canon) | (with_reducible apply Cx.Canonical.fab; with_reducible apply Cx.stop_canon)
    | (with_reducible apply Cx.count_canon) | (with_reducible apply Cx.Canonical.fab; with_reducible apply Cx.count_canon)
    | (with_reducible apply OpCx.codesAt_canon)
    | (with_reducible apply Cx.Canonical.fab; with_reducible apply OpCx.codesAt_canon)
    | (with_reducible apply OpCx.writeT_canon)
    | (with_reducible apply Cx.Canonical.fab; with_reducible apply OpCx.writeT_canon)
    | (with_reducible apply Cx.Canonical.fab; with_reducible assumption) | (with_reducible apply Cx.Canonical.foldlSnd)
    | (refine fun p a (hp : Cx.Canonical p.2) => ?_) | (intro x; clear_value x) | lift_lets
    | (with_reducible apply Cx.Canonical.of; first | (with_reducible apply Cx.Canonical.fab; with_reducible assumption) | (with_reducible apply Cx.stop_canon) | (with_reducible apply Cx.Canonical.fab; with_reducible apply Cx.stop_canon) | (with_reducible apply OpCx.view_canon) | (with_reducible apply Cx.Canonical.fab; with_reducible apply OpCx.view_canon) | (with_reducible apply Cx.count_canon) | (with_reducible apply Cx.Canonical.fab; with_reducible apply Cx.count_canon) | (with_reducible apply OpCx.codesAt_canon) | (with_reducible apply Cx.Canonical.fab; with_reducible apply OpCx.codesAt_canon) | (with_reducible apply OpCx.writeT_canon) | (with_reducible apply Cx.Canonical.fab; with_reducible apply OpCx.writeT_canon) | (with_reducible apply Fab.Canonical.mem; first | with_reducible assumption | (with_reducible apply Cx.Canonical.fab; with_reducible assumption)) | (with_reducible assumption) | split))

theorem opResize_canon {o : OpCx} {x : Cx} (hx : Cx.Canonical x) : Cx.Canonical (opResize o x) := by
  unfold opResize
  repeat' (first
    | (with_reducible apply Cx.storeT_canon)
    | (with_reducible apply Cx.Canonical.fab; with_reducible apply Cx.storeT_canon)
    | (with_reducible apply Cx.Canonical.of; first | (with_reducible apply Cx.Canonical.fab; with_reducible assumption) | (with_reducible apply OpCx.view_canon) | (with_reducible apply Cx.Canonical.fab; with_reducible apply OpCx.view_canon) | (with_reducible apply Cx.storeT_canon) | (with_reducible apply Cx.Canonical.fab; with_reducible apply Cx.storeT_canon) | (with_reducible apply Fab.Canonical.mem; first | with_reducible assumption | (with_reducible apply Cx.Canonical.fab; with_reducible assumption)) | (with_reducible assumption) | split))

theorem opGridSample_canon {o : OpCx} {x : Cx} (hx : Cx.Canonical x) : Cx.Canonical (opGridSample o x) := by
  unfold opGridSample
  repeat' (first
    | (with_reducible apply Cx.storeT_canon)
    | (with_reducible apply Cx.Canonical.fab; with_reducible apply Cx.storeT_canon)
    | (with_reducible apply Cx.Canonical.of; first | (with_reducible apply Cx.Canonical.fab; with_reducible assumption) | (with_reducible apply OpCx.view_canon) | (with_reducible apply Cx.Canonical.fab; with_reducible apply OpCx.view_canon) | (with_reducible apply Cx.storeT_canon) | (with_reducible apply Cx.Canonical.fab; with_reducible apply Cx.storeT_canon) | (with_reducible apply Fab.Canonical.mem; first | with_reducible assumption | (with_reducible apply Cx.Canonical.fab; with_reducible assumption)) | (with_reducible assumption) | split))

theorem opUndistort_canon {o : OpCx} {x : Cx} (hx : Cx.Canonical x) : Cx.Canonical (opUndistort o x) := by
  unfold opUndistort
  repeat' (first
    | (with_reducible apply Cx.storeT_canon)
    | (with_reducible apply Cx.Canonical.fab; with_reducible apply Cx.storeT_canon)
    | (with_reducible apply Cx.Canonical.of; first | (with_reducible apply Cx.Canonical.fab; with_reducible assumption) | (with_reducible apply OpCx.view_canon) | (with_reducible apply Cx.Canonical.fab; with_reducible apply OpCx.view_canon) | (with_reducible apply Cx.storeT_canon) | (with_reducible apply Cx.Canonical.fab; with_reducible apply Cx.storeT_canon) | (with_reducible apply Fab.Canonical.mem; first | with_reducible assumption | (with_reducible apply Cx.Canonical.fab; with_reducible assumption)) | (with_reducible assumption) | split))

theorem opBevProject_canon {o : OpCx} {x : Cx} (hx : Cx.Canonical x) : Cx.Canonical (opBevProject o x) := by
  unfold opBevProject
  repeat' (first
    | (with_reducible apply OpCx.readT_canon)
    | (with_reducible apply Cx.Canonical.fab; with_reducible apply OpCx.readT_canon)
    | (with_reducible apply Cx.storeT_canon)
    | (with_reducible apply Cx.Canonical.fab; with_reducible apply Cx.storeT_canon)
    | (with_reducible apply Cx.Canonical.of; first | (with_reducible apply Cx.Canonical.fab; with_reducible assumption) | (with_reducible apply OpCx.view_canon) | (with_reducible apply Cx.Canonical.fab; with_reducible apply OpCx.view_canon) | (with_reducible apply OpCx.readT_canon) | (with_reducible apply Cx.Canonical.fab; with_reducible apply OpCx.readT_canon) | (with_reducible apply Cx.storeT_canon) | (with_reducible apply Cx.Canonical.fab; with_reducible apply Cx.storeT_canon) | (with_reducible apply Fab.Canonical.mem; first | with_reducible assumption | (with_reducible apply Cx.Canonical.fab; with_reducible assumption)) | (with_reducible assumption) | split))

theorem Cx.storeList_canon {o : OpCx} {t : Tensor} {k : ℕ} {thr : Fp} {l : List Candidate} {x : Cx} (hx : Cx.Canonical x)
    : Cx.Canonical (Cx.storeList o t k thr l x) := by
  unfold Cx.storeList
  repeat' (first
    | (with_reducible apply OpCx.writeT_canon)
    | (with_reducible apply Cx.Canonical.fab; with_reducible apply OpCx.writeT_canon)
    | (with_reducible apply Cx.Canonical.of; first | (with_reducible apply Cx.Canonical.fab; with_reducible assumption) | (with_reducible apply OpCx.writeT_canon) | (with_reducible apply Cx.Canonical.fab; with_reducible apply OpCx.writeT_canon) | (with_reducible apply Fab.Canonical.mem; first | with_reducible assumption | (with_reducible apply Cx.Canonical.fab; with_reducible assumption)) | (with_reducible assumption) | split))

theorem opBoxDecode_canon {o : OpCx} {x : Cx} (hx : Cx.Canonical x) : Cx.Canonical (opBoxDecode o x) := by
  unfold opBoxDecode
  repeat' (first
    | (with_reducible apply Cx.storeList_canon)
    | (with_reducible apply Cx.Canonical.fab; with_reducible apply Cx.storeList_canon)
    | (with_reducible apply Cx.Canonical.of; first | (with_reducible apply Cx.Canonical.fab; with_reducible assumption) | (with_reducible apply OpCx.view_canon) | (with_reducible apply Cx.Canonical.fab; with_reducible apply OpCx.view_canon) | (with_reducible apply Cx.storeList_canon) | (with_reducible apply Cx.Canonical.fab; with_reducible apply Cx.storeList_canon) | (with_reducible apply Fab.Canonical.mem; first | with_reducible assumption | (with_reducible apply Cx.Canonical.fab; with_reducible assumption)) | (with_reducible assumption) | split))

theorem opTopk_canon {o : OpCx} {x : Cx} (hx : Cx.Canonical x) : Cx.Canonical (opTopk o x) := by
  unfold opTopk
  repeat' (first
    | (with_reducible apply Cx.storeList_canon)
    | (with_reducible apply Cx.Canonical.fab; with_reducible apply Cx.storeList_canon)
    | (with_reducible apply Cx.Canonical.of; first | (with_reducible apply Cx.Canonical.fab; with_reducible assumption) | (with_reducible apply OpCx.view_canon) | (with_reducible apply Cx.Canonical.fab; with_reducible apply OpCx.view_canon) | (with_reducible apply Cx.storeList_canon) | (with_reducible apply Cx.Canonical.fab; with_reducible apply Cx.storeList_canon) | (with_reducible apply Fab.Canonical.mem; first | with_reducible assumption | (with_reducible apply Cx.Canonical.fab; with_reducible assumption)) | (with_reducible assumption) | split))

theorem opNms_canon {o : OpCx} {x : Cx} (hx : Cx.Canonical x) : Cx.Canonical (opNms o x) := by
  unfold opNms
  repeat' (first
    | (with_reducible apply OpCx.readT_canon)
    | (with_reducible apply Cx.Canonical.fab; with_reducible apply OpCx.readT_canon)
    | (with_reducible apply OpCx.writeT_canon)
    | (with_reducible apply Cx.Canonical.fab; with_reducible apply OpCx.writeT_canon)
    | (with_reducible apply Cx.Canonical.of; first | (with_reducible apply Cx.Canonical.fab; with_reducible assumption) | (with_reducible apply OpCx.readT_canon) | (with_reducible apply Cx.Canonical.fab; with_reducible apply OpCx.readT_canon) | (with_reducible apply OpCx.writeT_canon) | (with_reducible apply Cx.Canonical.fab; with_reducible apply OpCx.writeT_canon) | (with_reducible apply Fab.Canonical.mem; first | with_reducible assumption | (with_reducible apply Cx.Canonical.fab; with_reducible assumption)) | (with_reducible assumption) | split))

theorem opQuantise_canon {o : OpCx} {x : Cx} (hx : Cx.Canonical x) : Cx.Canonical (opQuantise o x) := by
  unfold opQuantise
  repeat' (first
    | (with_reducible apply Cx.storeT_canon)
    | (with_reducible apply Cx.Canonical.fab; with_reducible apply Cx.storeT_canon)
    | (with_reducible apply Cx.Canonical.of; first | (with_reducible apply Cx.Canonical.fab; with_reducible assumption) | (with_reducible apply OpCx.view_canon) | (with_reducible apply Cx.Canonical.fab; with_reducible apply OpCx.view_canon) | (with_reducible apply Cx.storeT_canon) | (with_reducible apply Cx.Canonical.fab; with_reducible apply Cx.storeT_canon) | (with_reducible apply Fab.Canonical.mem; first | with_reducible assumption | (with_reducible apply Cx.Canonical.fab; with_reducible assumption)) | (with_reducible assumption) | split))

theorem opDequantise_canon {o : OpCx} {x : Cx} (hx : Cx.Canonical x) : Cx.Canonical (opDequantise o x) := by
  unfold opDequantise
  repeat' (first
    | (with_reducible apply Cx.storeT_canon)
    | (with_reducible apply Cx.Canonical.fab; with_reducible apply Cx.storeT_canon)
    | (with_reducible apply Cx.Canonical.of; first | (with_reducible apply Cx.Canonical.fab; with_reducible assumption) | (with_reducible apply OpCx.view_canon) | (with_reducible apply Cx.Canonical.fab; with_reducible apply OpCx.view_canon) | (with_reducible apply Cx.storeT_canon) | (with_reducible apply Cx.Canonical.fab; with_reducible apply Cx.storeT_canon) | (with_reducible apply Fab.Canonical.mem; first | with_reducible assumption | (with_reducible apply Cx.Canonical.fab; with_reducible assumption)) | (with_reducible assumption) | split))

theorem opAmax_canon {o : OpCx} {x : Cx} (hx : Cx.Canonical x) : Cx.Canonical (opAmax o x) := by
  unfold opAmax
  repeat' (first
    | (with_reducible apply Cx.storeF32_canon)
    | (with_reducible apply Cx.Canonical.fab; with_reducible apply Cx.storeF32_canon)
    | (with_reducible apply Cx.Canonical.of; first | (with_reducible apply Cx.Canonical.fab; with_reducible assumption) | (with_reducible apply OpCx.view_canon) | (with_reducible apply Cx.Canonical.fab; with_reducible apply OpCx.view_canon) | (with_reducible apply Cx.storeF32_canon) | (with_reducible apply Cx.Canonical.fab; with_reducible apply Cx.storeF32_canon) | (with_reducible apply Fab.Canonical.mem; first | with_reducible assumption | (with_reducible apply Cx.Canonical.fab; with_reducible assumption)) | (with_reducible assumption) | split))

theorem opLoss_canon {o : OpCx} {x : Cx} (hx : Cx.Canonical x) : Cx.Canonical (opLoss o x) := by
  unfold opLoss
  repeat' (first
    | (with_reducible apply Cx.storeF32_canon)
    | (with_reducible apply Cx.Canonical.fab; with_reducible apply Cx.storeF32_canon)
    | (with_reducible apply Cx.storeT_canon)
    | (with_reducible apply Cx.Canonical.fab; with_reducible apply Cx.storeT_canon)
    | (with_reducible apply Cx.Canonical.of; first | (with_reducible apply Cx.Canonical.fab; with_reducible assumption) | (with_reducible apply OpCx.view_canon) | (with_reducible apply Cx.Canonical.fab; with_reducible apply OpCx.view_canon) | (with_reducible apply Cx.storeF32_canon) | (with_reducible apply Cx.Canonical.fab; with_reducible apply Cx.storeF32_canon) | (with_reducible apply Cx.storeT_canon) | (with_reducible apply Cx.Canonical.fab; with_reducible apply Cx.storeT_canon) | (with_reducible apply Fab.Canonical.mem; first | with_reducible assumption | (with_reducible apply Cx.Canonical.fab; with_reducible assumption)) | (with_reducible assumption) | split))

theorem opSsmScanBwd_canon {o : OpCx} {x : Cx} (hx : Cx.Canonical x) : Cx.Canonical (opSsmScanBwd o x) := by
  unfold opSsmScanBwd
  repeat' (first
    | (with_reducible apply OpCx.ssm_canon) | (with_reducible apply Cx.Canonical.fab; with_reducible apply OpCx.ssm_canon)
    | (with_reducible apply Cx.storeT_canon)
    | (with_reducible apply Cx.Canonical.fab; with_reducible apply Cx.storeT_canon)
    | (with_reducible apply Cx.Canonical.of; first | (with_reducible apply Cx.Canonical.fab; with_reducible assumption) | (with_reducible apply OpCx.ssm_canon) | (with_reducible apply Cx.Canonical.fab; with_reducible apply OpCx.ssm_canon) | (with_reducible apply OpCx.view_canon) | (with_reducible apply Cx.Canonical.fab; with_reducible apply OpCx.view_canon) | (with_reducible apply Cx.storeT_canon) | (with_reducible apply Cx.Canonical.fab; with_reducible apply Cx.storeT_canon) | (with_reducible apply Fab.Canonical.mem; first | with_reducible assumption | (with_reducible apply Cx.Canonical.fab; with_reducible assumption)) | (with_reducible assumption) | split))

theorem OpCx.views_canon {o : OpCx} {l : List ℕ} {x : Cx} (hx : Cx.Canonical x) : Cx.Canonical (OpCx.views o l x).2 := by
  unfold OpCx.views
  repeat' (first
    | (with_reducible apply Cx.Canonical.foldlSnd) | (refine fun p a (hp : Cx.Canonical p.2) => ?_)
    | (with_reducible apply Cx.Canonical.of; first | (with_reducible apply Cx.Canonical.fab; with_reducible assumption) | (with_reducible apply OpCx.view_canon) | (with_reducible apply Cx.Canonical.fab; with_reducible apply OpCx.view_canon) | (with_reducible apply Fab.Canonical.mem; first | with_reducible assumption | (with_reducible apply Cx.Canonical.fab; with_reducible assumption)) | (with_reducible assumption) | split))

theorem opGradNorm_canon {o : OpCx} {x : Cx} (hx : Cx.Canonical x) : Cx.Canonical (opGradNorm o x) := by
  unfold opGradNorm
  repeat' (first
    | (with_reducible apply OpCx.views_canon)
    | (with_reducible apply Cx.Canonical.fab; with_reducible apply OpCx.views_canon)
    | (with_reducible apply Cx.stop_canon) | (with_reducible apply Cx.Canonical.fab; with_reducible apply Cx.stop_canon)
    | (with_reducible apply OpCx.writeT_canon)
    | (with_reducible apply Cx.Canonical.fab; with_reducible apply OpCx.writeT_canon)
    | (with_reducible apply Cx.Canonical.of; first | (with_reducible apply Cx.Canonical.fab; with_reducible assumption) | (with_reducible apply OpCx.views_canon) | (with_reducible apply Cx.Canonical.fab; with_reducible apply OpCx.views_canon) | (with_reducible apply Cx.stop_canon) | (with_reducible apply Cx.Canonical.fab; with_reducible apply Cx.stop_canon) | (with_reducible apply OpCx.writeT_canon) | (with_reducible apply Cx.Canonical.fab; with_reducible apply OpCx.writeT_canon) | (with_reducible apply Fab.Canonical.mem; first | with_reducible assumption | (with_reducible apply Cx.Canonical.fab; with_reducible assumption)) | (with_reducible assumption) | split))

theorem Cx.storeMoments_canon {o : OpCx} {t : Tensor} {vals : List Fp} {x : Cx} (hx : Cx.Canonical x) : Cx.Canonical
    (Cx.storeMoments o t vals x) := by
  unfold Cx.storeMoments
  repeat' (first
    | (with_reducible apply OpCx.writeT_canon)
    | (with_reducible apply Cx.Canonical.fab; with_reducible apply OpCx.writeT_canon)
    | (with_reducible apply Cx.write_canon) | (with_reducible apply Cx.Canonical.fab; with_reducible apply Cx.write_canon)
    | (with_reducible apply Cx.Canonical.fab; with_reducible assumption)
    | (intro x; refine (have hx : Cx.Canonical x := ?_; ?_); rotate_left; clear_value x; rotate_right; subst x)
    | (with_reducible apply Cx.Canonical.of; first | (with_reducible apply Cx.Canonical.fab; with_reducible assumption) | (with_reducible apply OpCx.writeT_canon) | (with_reducible apply Cx.Canonical.fab; with_reducible apply OpCx.writeT_canon) | (with_reducible apply Cx.write_canon) | (with_reducible apply Cx.Canonical.fab; with_reducible apply Cx.write_canon) | (with_reducible apply Fab.Canonical.mem; first | with_reducible assumption | (with_reducible apply Cx.Canonical.fab; with_reducible assumption)) | (with_reducible assumption) | split))

theorem Cx.storeWeights_canon {o : OpCx} {t : Tensor} {vals : List Fp} {x : Cx} (hx : Cx.Canonical x) : Cx.Canonical
    (Cx.storeWeights o t vals x) := by
  unfold Cx.storeWeights
  repeat' (first
    | (with_reducible apply OpCx.writeT_canon)
    | (with_reducible apply Cx.Canonical.fab; with_reducible apply OpCx.writeT_canon)
    | (with_reducible apply Cx.Canonical.of; first | (with_reducible apply Cx.Canonical.fab; with_reducible assumption) | (with_reducible apply OpCx.writeT_canon) | (with_reducible apply Cx.Canonical.fab; with_reducible apply OpCx.writeT_canon) | (with_reducible apply Fab.Canonical.mem; first | with_reducible assumption | (with_reducible apply Cx.Canonical.fab; with_reducible assumption)) | (with_reducible assumption) | split))

theorem opOptAdamw_canon {o : OpCx} {x : Cx} (hx : Cx.Canonical x) : Cx.Canonical (opOptAdamw o x) := by
  unfold opOptAdamw
  dsimp only
  repeat' (first
    | with_reducible assumption | (with_reducible apply Cx.stop_canon) | (with_reducible apply Cx.storeMoments_canon)
    | (with_reducible apply Cx.storeWeights_canon) | (with_reducible apply OpCx.view_canon) | split)

theorem opOptSgd_canon {o : OpCx} {x : Cx} (hx : Cx.Canonical x) : Cx.Canonical (opOptSgd o x) := by
  unfold opOptSgd
  dsimp only
  repeat' (first
    | with_reducible assumption | (with_reducible apply Cx.stop_canon) | (with_reducible apply Cx.storeMoments_canon)
    | (with_reducible apply Cx.storeWeights_canon) | (with_reducible apply OpCx.view_canon) | split)

theorem opBody_canon {op : ℕ} {y0 : OpCx} {y1 : Cx} (hy1 : Cx.Canonical y1) : Cx.Canonical (opBody op y0 y1) := by
  unfold opBody
  repeat' (first
    | (with_reducible apply opConv2d_canon) | (with_reducible apply Cx.Canonical.fab; with_reducible apply opConv2d_canon)
    | (with_reducible apply opDwconv2d_canon)
    | (with_reducible apply Cx.Canonical.fab; with_reducible apply opDwconv2d_canon) | (with_reducible apply opPool_canon)
    | (with_reducible apply Cx.Canonical.fab; with_reducible apply opPool_canon) | (with_reducible apply opPad_canon)
    | (with_reducible apply Cx.Canonical.fab; with_reducible apply opPad_canon) | (with_reducible apply opMatmul_canon)
    | (with_reducible apply Cx.Canonical.fab; with_reducible apply opMatmul_canon)
    | (with_reducible apply opEltwise_canon)
    | (with_reducible apply Cx.Canonical.fab; with_reducible apply opEltwise_canon)
    | (with_reducible apply opActivation_canon)
    | (with_reducible apply Cx.Canonical.fab; with_reducible apply opActivation_canon)
    | (with_reducible apply opLayerNorm_canon)
    | (with_reducible apply Cx.Canonical.fab; with_reducible apply opLayerNorm_canon)
    | (with_reducible apply opSoftmax_canon)
    | (with_reducible apply Cx.Canonical.fab; with_reducible apply opSoftmax_canon)
    | (with_reducible apply opLayoutConvert_canon)
    | (with_reducible apply Cx.Canonical.fab; with_reducible apply opLayoutConvert_canon)
    | (with_reducible apply opAttention_canon)
    | (with_reducible apply Cx.Canonical.fab; with_reducible apply opAttention_canon)
    | (with_reducible apply opSsmScan_canon)
    | (with_reducible apply Cx.Canonical.fab; with_reducible apply opSsmScan_canon)
    | (with_reducible apply opEmbedGather_canon)
    | (with_reducible apply Cx.Canonical.fab; with_reducible apply opEmbedGather_canon)
    | (with_reducible apply opResize_canon) | (with_reducible apply Cx.Canonical.fab; with_reducible apply opResize_canon)
    | (with_reducible apply opGridSample_canon)
    | (with_reducible apply Cx.Canonical.fab; with_reducible apply opGridSample_canon)
    | (with_reducible apply opUndistort_canon)
    | (with_reducible apply Cx.Canonical.fab; with_reducible apply opUndistort_canon)
    | (with_reducible apply opBevProject_canon)
    | (with_reducible apply Cx.Canonical.fab; with_reducible apply opBevProject_canon)
    | (with_reducible apply opBoxDecode_canon)
    | (with_reducible apply Cx.Canonical.fab; with_reducible apply opBoxDecode_canon)
    | (with_reducible apply opTopk_canon) | (with_reducible apply Cx.Canonical.fab; with_reducible apply opTopk_canon)
    | (with_reducible apply opNms_canon) | (with_reducible apply Cx.Canonical.fab; with_reducible apply opNms_canon)
    | (with_reducible apply opQuantise_canon)
    | (with_reducible apply Cx.Canonical.fab; with_reducible apply opQuantise_canon)
    | (with_reducible apply opDequantise_canon)
    | (with_reducible apply Cx.Canonical.fab; with_reducible apply opDequantise_canon)
    | (with_reducible apply opAmax_canon) | (with_reducible apply Cx.Canonical.fab; with_reducible apply opAmax_canon)
    | (with_reducible apply opLoss_canon) | (with_reducible apply Cx.Canonical.fab; with_reducible apply opLoss_canon)
    | (with_reducible apply opSsmScanBwd_canon)
    | (with_reducible apply Cx.Canonical.fab; with_reducible apply opSsmScanBwd_canon)
    | (with_reducible apply opGradNorm_canon)
    | (with_reducible apply Cx.Canonical.fab; with_reducible apply opGradNorm_canon)
    | (with_reducible apply opOptAdamw_canon)
    | (with_reducible apply Cx.Canonical.fab; with_reducible apply opOptAdamw_canon)
    | (with_reducible apply opOptSgd_canon) | (with_reducible apply Cx.Canonical.fab; with_reducible apply opOptSgd_canon)
    | (with_reducible apply Cx.Canonical.fab; with_reducible assumption)
    | (with_reducible apply Cx.Canonical.of; first | (with_reducible apply Cx.Canonical.fab; with_reducible assumption) | (with_reducible apply opConv2d_canon) | (with_reducible apply Cx.Canonical.fab; with_reducible apply opConv2d_canon) | (with_reducible apply opDwconv2d_canon) | (with_reducible apply Cx.Canonical.fab; with_reducible apply opDwconv2d_canon) | (with_reducible apply opPool_canon) | (with_reducible apply Cx.Canonical.fab; with_reducible apply opPool_canon) | (with_reducible apply opPad_canon) | (with_reducible apply Cx.Canonical.fab; with_reducible apply opPad_canon) | (with_reducible apply opMatmul_canon) | (with_reducible apply Cx.Canonical.fab; with_reducible apply opMatmul_canon) | (with_reducible apply opEltwise_canon) | (with_reducible apply Cx.Canonical.fab; with_reducible apply opEltwise_canon) | (with_reducible apply opActivation_canon) | (with_reducible apply Cx.Canonical.fab; with_reducible apply opActivation_canon) | (with_reducible apply opLayerNorm_canon) | (with_reducible apply Cx.Canonical.fab; with_reducible apply opLayerNorm_canon) | (with_reducible apply opSoftmax_canon) | (with_reducible apply Cx.Canonical.fab; with_reducible apply opSoftmax_canon) | (with_reducible apply opLayoutConvert_canon) | (with_reducible apply Cx.Canonical.fab; with_reducible apply opLayoutConvert_canon) | (with_reducible apply opAttention_canon) | (with_reducible apply Cx.Canonical.fab; with_reducible apply opAttention_canon) | (with_reducible apply opSsmScan_canon) | (with_reducible apply Cx.Canonical.fab; with_reducible apply opSsmScan_canon) | (with_reducible apply opEmbedGather_canon) | (with_reducible apply Cx.Canonical.fab; with_reducible apply opEmbedGather_canon) | (with_reducible apply opResize_canon) | (with_reducible apply Cx.Canonical.fab; with_reducible apply opResize_canon) | (with_reducible apply opGridSample_canon) | (with_reducible apply Cx.Canonical.fab; with_reducible apply opGridSample_canon) | (with_reducible apply opUndistort_canon) | (with_reducible apply Cx.Canonical.fab; with_reducible apply opUndistort_canon) | (with_reducible apply opBevProject_canon) | (with_reducible apply Cx.Canonical.fab; with_reducible apply opBevProject_canon) | (with_reducible apply opBoxDecode_canon) | (with_reducible apply Cx.Canonical.fab; with_reducible apply opBoxDecode_canon) | (with_reducible apply opTopk_canon) | (with_reducible apply Cx.Canonical.fab; with_reducible apply opTopk_canon) | (with_reducible apply opNms_canon) | (with_reducible apply Cx.Canonical.fab; with_reducible apply opNms_canon) | (with_reducible apply opQuantise_canon) | (with_reducible apply Cx.Canonical.fab; with_reducible apply opQuantise_canon) | (with_reducible apply opDequantise_canon) | (with_reducible apply Cx.Canonical.fab; with_reducible apply opDequantise_canon) | (with_reducible apply opAmax_canon) | (with_reducible apply Cx.Canonical.fab; with_reducible apply opAmax_canon) | (with_reducible apply opLoss_canon) | (with_reducible apply Cx.Canonical.fab; with_reducible apply opLoss_canon) | (with_reducible apply opSsmScanBwd_canon) | (with_reducible apply Cx.Canonical.fab; with_reducible apply opSsmScanBwd_canon) | (with_reducible apply opGradNorm_canon) | (with_reducible apply Cx.Canonical.fab; with_reducible apply opGradNorm_canon) | (with_reducible apply opOptAdamw_canon) | (with_reducible apply Cx.Canonical.fab; with_reducible apply opOptAdamw_canon) | (with_reducible apply opOptSgd_canon) | (with_reducible apply Cx.Canonical.fab; with_reducible apply opOptSgd_canon) | (with_reducible apply Fab.Canonical.mem; first | with_reducible assumption | (with_reducible apply Cx.Canonical.fab; with_reducible assumption)) | (with_reducible assumption) | split))

theorem Cx.runRecord_canon {u : UnitId} {c : Fin 8} {ringAt : RingAt} {ord : ℕ} {r : OpRec} {x : Cx} (hx : Cx.Canonical x)
    : Cx.Canonical (Cx.runRecord u c ringAt ord r x) := by
  unfold Cx.runRecord
  repeat' (first
    | (with_reducible apply opBody_canon) | (with_reducible apply Cx.Canonical.fab; with_reducible apply opBody_canon)
    | (with_reducible apply Cx.Canonical.of; first | (with_reducible apply Cx.Canonical.fab; with_reducible assumption) | (with_reducible apply opBody_canon) | (with_reducible apply Cx.Canonical.fab; with_reducible apply opBody_canon) | (with_reducible apply Fab.Canonical.mem; first | with_reducible assumption | (with_reducible apply Cx.Canonical.fab; with_reducible assumption)) | (with_reducible assumption) | split))

theorem Cx.commitRecord_canon {x : Cx} {r : RecTotals} (hx : Cx.Canonical x) : Cx.Canonical (Cx.commitRecord x r) := by
  unfold Cx.commitRecord
  lift_lets
  intro put
  have hp : ∀ o n v {y : Cx}, y.Canonical → Cx.Canonical (put o n v y) := fun _ _ _ _ h => Cx.put_canon h
  clear_value put
  intro len pos flags margin fmt y z
  have hz : Cx.Canonical z := hp _ _ _ (hp _ _ _ (hp _ _ _ (hp _ _ _ hx)))
  clear_value z
  repeat' (first | with_reducible assumption | with_reducible apply hp | split | dsimp only)

theorem Cx.goldenCheck_canon {a : Contract} {e : StepEntry} {c : Fin 8} {x : Cx} (hx : Cx.Canonical x) : Cx.Canonical
    (Cx.goldenCheck a e c x) := by
  unfold Cx.goldenCheck
  split
  · dsimp only
    split
    · exact hx
    · exact Cx.failCheck_canon hx
  · exact hx

end Sys2Proof.Machine
end

