-- ==== Sys2Proof/Laws/KeepsHost.lean ====
section
/-! SUPPORT. Every operation of these parts keeps what `Keeps` says: host interface, protocol, jobs, time, recorder and faults. -/

set_option linter.unreachableTactic false
set_option linter.unusedTactic false

namespace Sys2Proof.Machine

theorem State.settlePulses_keeps {s₀ : State} {s : State} (h : Keeps s₀ s) : Keeps s₀ (State.settlePulses s) := by
  unfold State.settlePulses
  repeat' (first
    | with_reducible assumption | (with_reducible apply Keeps.onSen) | (with_reducible apply Keeps.onPins)
    | (exact (fun _ => rfl : ∀ x, _ = _))
    | (intro x; refine (have hx : Keeps s₀ x := ?_; ?_); rotate_left; clear_value x; rotate_right; subst x) | split
    | dsimp only)

theorem State.advance_keeps {s₀ : State} {t : ℕ} {s : State} (h : Keeps s₀ s) : Keeps s₀ (State.advance t s) := by
  unfold State.advance
  repeat' (first
    | with_reducible assumption | (with_reducible apply State.settlePulses_keeps) | (with_reducible apply Keeps.onTim))

theorem State.bumpFree_keeps {s₀ : State} {s : State} (h : Keeps s₀ s) : Keeps s₀ (State.bumpFree s) := by
  unfold State.bumpFree
  repeat' (first | (with_reducible apply Keeps.withFree; with_reducible assumption))

theorem State.post_keeps {s₀ : State} {p : HostPost} {s : State} (h : Keeps s₀ s) : Keeps s₀ (State.post p s) := by
  unfold State.post
  repeat' (first | with_reducible assumption | (with_reducible apply Keeps.onHif))

theorem State.message_keeps {s₀ : State} {v : ℕ} {s : State} (h : Keeps s₀ s) : Keeps s₀ (State.message v s) := by
  unfold State.message
  repeat' (first
    | with_reducible assumption | (with_reducible apply State.post_keeps) | (with_reducible apply Keeps.onHif) | split)

theorem State.raise_keeps {s₀ : State} {i : ℕ} {s : State} (h : Keeps s₀ s) : Keeps s₀ (State.raise i s) := by
  unfold State.raise
  repeat' (first
    | with_reducible assumption | (with_reducible apply State.message_keeps) | (with_reducible apply Keeps.onHif)
    | (intro x; refine (have hx : Keeps s₀ x := ?_; ?_); rotate_left; clear_value x; rotate_right; subst x) | split
    | dsimp only)

theorem State.note_keeps {s₀ : State} {code : ℕ} {sev : ℕ} {unit : ℕ} {p0 : ℕ} {p1 : ℕ} {p2 : ℕ} {s : State} (h : Keeps s₀
    s) : Keeps s₀ (State.note code sev unit p0 p1 p2 s) := by
  unfold State.note
  lift_lets
  intro t
  have ht : Keeps s₀ t := by
    subst t; split
    · exact State.raise_keeps h
    · exact h
  clear_value t
  intro b free e
  split
  · exact Keeps.onEvr ht id
  · next hc =>
    refine Keeps.onEvr ht fun _ => ?_
    simp only [Bool.or_eq_true, Bool.and_eq_true, decide_eq_true_eq, not_or] at hc
    simp only [List.length_append, List.length_cons, List.length_nil]
    omega

theorem State.noteInt_keeps {s₀ : State} {code : ℕ} {sev : ℕ} {v : ℤ} {s : State} (h : Keeps s₀ s) : Keeps s₀
    (State.noteInt code sev v s) := by
  unfold State.noteInt
  repeat' (first | with_reducible assumption | (with_reducible apply State.note_keeps))

theorem State.countErr_keeps {s₀ : State} {row : ℕ} {col : ℕ} {n : ℕ} {s : State} (h : Keeps s₀ s) : Keeps s₀
    (State.countErr row col n s) := by
  unfold State.countErr
  repeat' (first | with_reducible assumption | (with_reducible apply Keeps.onEvr) | (exact (id : _ ≤ 1024 → _)))

theorem State.enter_keeps {s₀ : State} {d : DevState} {s : State} (h : Keeps s₀ s) : Keeps s₀ (State.enter d s) := by
  unfold State.enter
  repeat' (first
    | with_reducible assumption | (with_reducible apply State.raise_keeps) | (with_reducible apply Keeps.onPwr) | split)

theorem State.ckcInput_keeps {s₀ : State} {i : CkcInput} {s : State} (h : Keeps s₀ s) : Keeps s₀ (State.ckcInput i s) := by
  unfold State.ckcInput
  repeat' (first | with_reducible assumption | (with_reducible apply Keeps.onCkc))

theorem State.putDram_keeps {s₀ : State} {a : ℕ} {b : List Byte} {s : State} (h : Keeps s₀ s) : Keeps s₀ (State.putDram a
    b s) := by
  exact Keeps.onFab h fun hf => Fab.pokes_canon hf
theorem State.snapshot_keeps {s₀ : State} {cause : ℕ} {s : State} (h : Keeps s₀ s) : Keeps s₀ (State.snapshot cause s) := by
  unfold State.snapshot
  repeat' (first | with_reducible assumption | (with_reducible apply Keeps.onEvr) | (exact (id : _ ≤ 1024 → _)) | split)

theorem State.recordFault_keeps {s₀ : State} {f : FailReport} {c : FaultCtx} {s : State} (h : Keeps s₀ s) : Keeps s₀
    (State.recordFault f c s) := by
  unfold State.recordFault
  dsimp only
  exact State.snapshot_keeps (State.note_keeps (Keeps.onEvr (Keeps.onSaf h fun _ => rfl) id))

theorem State.faultNoUnit_keeps {s₀ : State} {f : FailReport} {s : State} (h : Keeps s₀ s) : Keeps s₀ (State.faultNoUnit f
    s) := by
  unfold State.faultNoUnit
  repeat' (first
    | with_reducible assumption | (with_reducible apply State.note_keeps)
    | (with_reducible apply State.recordFault_keeps))

/-- The latch and SAFE_N change together. -/
theorem Keeps.setLatch {s₀ s : State} {f : Saf → Saf} {g : Pins → Pins} {b : Bool} (h : Keeps s₀ s)
    (hf : ∀ x, (f x).latched = b) (hg : ∀ p, (g p).safeN = !b) : Keeps s₀ ((s.onSaf f).onPins g) :=
  ⟨h.queue, fun x => (h.canon x).congr rfl rfl, fun _ => by simp [State.SafePin, State.onSaf, State.onPins, hf, hg], h.fuses, h.bound⟩

theorem State.latch_keeps {s₀ : State} {cause : ℕ} {s : State} (h : Keeps s₀ s) : Keeps s₀ (State.latch cause s) := by
  unfold State.latch
  split
  · dsimp only
    exact State.note_keeps (State.raise_keeps (Keeps.onEmt (Keeps.setLatch (b := true) h (fun _ => rfl) fun _ => rfl)))
  · exact State.note_keeps h

theorem State.unlatch_keeps {s₀ : State} {s : State} (h : Keeps s₀ s) : Keeps s₀ (State.unlatch s) := by
  exact State.note_keeps (State.raise_keeps (Keeps.setLatch (b := false) h (fun _ => rfl) fun _ => rfl))

theorem State.setCkcMode_keeps {s₀ : State} {m : CkcMode} {lane : ℕ} {s : State} (h : Keeps s₀ s) : Keeps s₀
    (State.setCkcMode m lane s) := by
  unfold State.setCkcMode
  repeat' (first
    | with_reducible assumption | (with_reducible apply State.raise_keeps) | (with_reducible apply Keeps.onCkc)
    | (intro x; refine (have hx : Keeps s₀ x := ?_; ?_); rotate_left; clear_value x; rotate_right; subst x) | split
    | dsimp only)

theorem State.ringMessage_keeps {s₀ : State} {id : ℕ} {more : Bool} {s : State} (h : Keeps s₀ s) : Keeps s₀
    (State.ringMessage id more s) := by
  unfold State.ringMessage
  repeat' (first
    | with_reducible assumption | (with_reducible apply State.message_keeps) | (with_reducible apply Keeps.onCpx) | split)

theorem State.pushEntry_keeps {s₀ : State} {id : ℕ} {more : Bool} {entry : ℕ → HostPost} {s : State} (h : Keeps s₀ s) :
    Keeps s₀ (State.pushEntry id more entry s) := by
  unfold State.pushEntry
  repeat' (first
    | with_reducible assumption | (with_reducible apply State.post_keeps) | (with_reducible apply State.ringMessage_keeps)
    | (with_reducible apply Keeps.onCpx)
    | (intro x; refine (have hx : Keeps s₀ x := ?_; ?_); rotate_left; clear_value x; rotate_right; subst x) | split)

theorem State.writeReply_keeps {s₀ : State} {pk : Packet} {more : Bool} {r : Reply} {s : State} (h : Keeps s₀ s) : Keeps
    s₀ (State.writeReply pk more r s) := by
  unfold State.writeReply
  repeat' (first
    | with_reducible assumption | (with_reducible apply State.pushEntry_keeps) | (with_reducible apply Keeps.onCpx)
    | split)

theorem State.drainOwed_keeps {s₀ : State} {s : State} (h : Keeps s₀ s) : Keeps s₀ (State.drainOwed s) := by
  unfold State.drainOwed
  repeat' (first
    | with_reducible assumption | (with_reducible apply State.writeReply_keeps) | (with_reducible apply Keeps.onCpx)
    | (with_reducible apply Keeps.foldl) | (refine fun t a (ht : Keeps s₀ t) => ?_))

theorem State.replyBase_keeps {s₀ : State} {pk : Packet} {more : Bool} {st : ℕ} {dt : ℕ} {res : ℕ} {waves : ℕ} {ns : ℕ} {s
    : State} (h : Keeps s₀ s) : Keeps s₀ (State.replyBase pk more st dt res waves ns s) := by
  unfold State.replyBase
  repeat' (first
    | with_reducible assumption | (with_reducible apply State.writeReply_keeps) | (with_reducible apply Keeps.onCpx))

theorem State.settleUnmaps_keeps {s₀ : State} {s : State} (h : Keeps s₀ s) : Keeps s₀ (State.settleUnmaps s) := by
  unfold State.settleUnmaps
  repeat' (first
    | with_reducible assumption | (with_reducible apply State.replyBase_keeps) | (with_reducible apply Keeps.onCpx)
    | (with_reducible apply Keeps.foldl) | (refine fun t a (ht : Keeps s₀ t) => ?_))

theorem State.hostWrite_keeps {s₀ : State} {addr : ℕ} {b : List Byte} {s : State} (h : Keeps s₀ s) : Keeps s₀
    (State.hostWrite addr b s) := by
  unfold State.hostWrite
  repeat' (first | with_reducible assumption | (with_reducible apply State.post_keeps))

theorem State.answerUndefined_keeps {s₀ : State} {n : ℕ} {s : State} (h : Keeps s₀ s) : Keeps s₀ (State.answerUndefined n
    s) := by
  induction n generalizing s with
  | zero => exact h
  | succ n ih =>
    unfold State.answerUndefined
    split
    · exact h
    · exact ih (State.replyBase_keeps h)

theorem State.settle_keeps {s₀ : State} {s : State} (h : Keeps s₀ s) : Keeps s₀ (State.settle s) := by
  unfold State.settle
  repeat' (first
    | with_reducible assumption | (with_reducible apply State.settleUnmaps_keeps)
    | (with_reducible apply State.answerUndefined_keeps)
    | (intro x; refine (have hx : Keeps s₀ x := ?_; ?_); rotate_left; clear_value x; rotate_right; subst x) | split
    | dsimp only)

theorem State.replyAll_keeps {s₀ : State} {pk : Packet} {st : ℕ} {dt : ℕ} {res : ℕ} {waves : ℕ} {ns : ℕ} {s : State} (h :
    Keeps s₀ s) : Keeps s₀ (State.replyAll pk st dt res waves ns s) := by
  unfold State.replyAll
  repeat' (first
    | with_reducible assumption | (with_reducible apply State.settle_keeps)
    | (with_reducible apply State.replyBase_keeps))

theorem State.reply_keeps {s₀ : State} {pk : Packet} {st : ℕ} {dt : ℕ} {res : ℕ} {s : State} (h : Keeps s₀ s) : Keeps s₀
    (State.reply pk st dt res s) := by
  unfold State.reply
  repeat' (first | with_reducible assumption | (with_reducible apply State.replyAll_keeps))

theorem State.done_keeps {s₀ : State} {pk : Packet} {res : ℕ} {s : State} (h : Keeps s₀ s) : Keeps s₀ (State.done pk res
    s) := by
  unfold State.done
  repeat' (first | with_reducible assumption | (with_reducible apply State.reply_keeps))

theorem State.bad_keeps {s₀ : State} {pk : Packet} {off : ℕ} {s : State} (h : Keeps s₀ s) : Keeps s₀ (State.bad pk off s)
    := by
  unfold State.bad
  repeat' (first | with_reducible assumption | (with_reducible apply State.reply_keeps))

theorem State.noRes_keeps {s₀ : State} {pk : Packet} {res : ℕ} {s : State} (h : Keeps s₀ s) : Keeps s₀ (State.noRes pk res
    s) := by
  unfold State.noRes
  repeat' (first | with_reducible assumption | (with_reducible apply State.reply_keeps))

theorem State.markStarted_keeps {s₀ : State} {pk : Packet} {s : State} (h : Keeps s₀ s) : Keeps s₀ (State.markStarted pk
    s) := by
  unfold State.markStarted
  repeat' (first | with_reducible assumption | (with_reducible apply Keeps.onCpx))

theorem State.runPacket_keeps {s₀ : State} {ring : ℕ} {op : ℕ} {body : Packet → State → State} {s : State} (h : Keeps s₀
    s) (hbody : ∀ x0 t, Keeps s₀ t → Keeps s₀ (body x0 t)) : Keeps s₀ (State.runPacket ring op body s) := by
  unfold State.runPacket
  repeat' (first
    | with_reducible assumption | (with_reducible apply State.reply_keeps)
    | (with_reducible apply State.markStarted_keeps) | (with_reducible apply hbody) | split)

theorem State.loseWrites_keeps {s₀ : State} {ds : List ℕ} {s : State} (h : Keeps s₀ s) : Keeps s₀ (State.loseWrites ds s)
    := by
  unfold State.loseWrites
  repeat' (first
    | with_reducible assumption | (with_reducible apply Keeps.onCpx) | (with_reducible apply Keeps.onFab)
    | (refine fun (hf : Fab.Canonical _) => ?_) | (with_reducible apply Fab.Canonical.mem; with_reducible assumption))

theorem State.gateOff_keeps {s₀ : State} {mask : BitVec 64} {s : State} (h : Keeps s₀ s) : Keeps s₀ (State.gateOff mask s)
    := by
  unfold State.gateOff
  repeat' (first
    | with_reducible assumption | (with_reducible apply State.loseWrites_keeps) | (with_reducible apply Keeps.onPwr)
    | (with_reducible apply Keeps.onFab) | (refine fun (hf : Fab.Canonical _) => ?_)
    | (with_reducible apply Fab.Canonical.foldl) | (with_reducible apply Fab.clearDomain_canon))

theorem State.pwrEnd_keeps {s₀ : State} {st : ℕ} {s : State} (h : Keeps s₀ s) : Keeps s₀ (State.pwrEnd st s) := by
  unfold State.pwrEnd
  repeat' (first | with_reducible assumption | (with_reducible apply State.raise_keeps) | (with_reducible apply Keeps.onPwr))

theorem State.gateOffEnd_keeps {s₀ : State} {mask : BitVec 64} {s : State} (h : Keeps s₀ s) :
    Keeps s₀ (State.gateOffEnd mask s) := by
  unfold State.gateOffEnd
  split
  · exact State.pwrEnd_keeps (State.gateOff_keeps h)
  · exact State.gateOff_keeps h

theorem State.endFetched_keeps {s₀ : State} {j : Job} {s : State} (h : Keeps s₀ s) : Keeps s₀ (State.endFetched j s) := by
  unfold State.endFetched
  repeat' (first | with_reducible assumption | (with_reducible apply Keeps.onCpx) | split)

theorem State.enqueue_keeps {s₀ : State} {pk : Packet} {s : State} (h : Keeps s₀ s) : Keeps s₀ (State.enqueue pk s) := by
  unfold State.enqueue
  repeat' (first
    | with_reducible assumption | (with_reducible apply State.writeReply_keeps)
    | (with_reducible apply State.endFetched_keeps) | (with_reducible apply Keeps.onCpx)
    | (intro x; refine (have hx : Keeps s₀ x := ?_; ?_); rotate_left; clear_value x; rotate_right; subst x) | split
    | dsimp only)

theorem State.fetchPacket_keeps {s₀ : State} {r : Machine.Ring} {bits : BitVec 512} {s : State} (h : Keeps s₀ s) : Keeps
    s₀ (State.fetchPacket r bits s) := by
  unfold State.fetchPacket
  repeat' (first
    | with_reducible assumption | (with_reducible apply State.ringMessage_keeps) | (with_reducible apply State.post_keeps)
    | (with_reducible apply State.settle_keeps) | (with_reducible apply State.enqueue_keeps)
    | (with_reducible apply Keeps.onCpx))

theorem doPacketFetch_keeps {s₀ : State} {ring : ℕ} {bits : BitVec 512} {s : State} (h : Keeps s₀ s) : Keeps s₀
    (doPacketFetch ring bits s) := by
  unfold doPacketFetch
  repeat' (first | with_reducible assumption | (with_reducible apply State.fetchPacket_keeps) | split)

theorem State.discardQm_keeps {s₀ : State} {s : State} (h : Keeps s₀ s) : Keeps s₀ (State.discardQm s) := by
  unfold State.discardQm
  repeat' (first
    | with_reducible assumption | (with_reducible apply State.recordFault_keeps) | (with_reducible apply Keeps.onCpx)
    | (with_reducible apply Keeps.onFab) | (refine fun (hf : Fab.Canonical _) => ?_)
    | (with_reducible apply Fab.returnHeld_canon) | (with_reducible apply Fab.dropProvisional_canon)
    | (intro x; refine (have hx : Keeps s₀ x := ?_; ?_); rotate_left; clear_value x; rotate_right; subst x) | split)

theorem State.countJob_keeps {s₀ : State} {client : ℕ} {ended : Bool} {s : State} (h : Keeps s₀ s) : Keeps s₀
    (State.countJob client ended s) := by
  unfold State.countJob
  repeat' (first | with_reducible assumption | (with_reducible apply Keeps.onCpx))

theorem State.killAll_keeps {s₀ : State} {l : List Packet} {s : State} (h : Keeps s₀ s) : Keeps s₀ (State.killAll l s) := by
  induction l generalizing s with
  | nil => exact h
  | cons p r ih => exact ih (State.replyBase_keeps h)

theorem State.dropJob_keeps {s₀ : State} {ring : ℕ} {s : State} (h : Keeps s₀ s) : Keeps s₀ (State.dropJob ring s) := by
  unfold State.dropJob
  repeat' (first | with_reducible assumption | (with_reducible apply Keeps.onCpx))

theorem State.answerKills_keeps {s₀ : State} {result : ℕ} {s : State} (h : Keeps s₀ s) : Keeps s₀ (State.answerKills
    result s) := by
  unfold State.answerKills
  repeat' (first
    | with_reducible assumption | (with_reducible apply State.reply_keeps) | (with_reducible apply Keeps.onCpx)
    | (with_reducible apply Keeps.foldl) | (refine fun t a (ht : Keeps s₀ t) => ?_))

theorem State.teardownAs_keeps {s₀ : State} {counts : Bool} {ring : ℕ} {replies : Bool} {s : State} (h : Keeps s₀ s) :
    Keeps s₀ (State.teardownAs counts ring replies s) := by
  unfold State.teardownAs
  repeat' (first
    | with_reducible assumption | (with_reducible apply State.discardQm_keeps)
    | (with_reducible apply State.killAll_keeps) | (with_reducible apply State.answerKills_keeps)
    | (with_reducible apply State.countJob_keeps) | (with_reducible apply State.dropJob_keeps)
    | (with_reducible apply State.settle_keeps) | (with_reducible apply Keeps.onCpx) | (with_reducible apply Keeps.onFab)
    | (with_reducible apply Fab.cachesOff_canon)
    | (intro x; refine (have hx : Keeps s₀ x := ?_; ?_); rotate_left; clear_value x; rotate_right; subst x) | split)

theorem State.teardown_keeps {s₀ : State} {ring : ℕ} {replies : Bool} {s : State} (h : Keeps s₀ s) : Keeps s₀
    (State.teardown ring replies s) := by
  unfold State.teardown
  repeat' (first | with_reducible assumption | (with_reducible apply State.teardownAs_keeps))

theorem State.preempt_keeps {s₀ : State} {s : State} (h : Keeps s₀ s) : Keeps s₀ (State.preempt s) := by
  unfold State.preempt
  repeat' (first
    | with_reducible assumption | (with_reducible apply State.discardQm_keeps) | (with_reducible apply State.note_keeps)
    | (with_reducible apply State.answerKills_keeps) | (with_reducible apply State.teardown_keeps)
    | (with_reducible apply State.replyAll_keeps) | (with_reducible apply Keeps.onCpx)
    | (intro x; refine (have hx : Keeps s₀ x := ?_; ?_); rotate_left; clear_value x; rotate_right; subst x) | split
    | dsimp only)

theorem State.capacityBoundary_keeps {s₀ : State} {s : State} (h : Keeps s₀ s) : Keeps s₀ (State.capacityBoundary s) := by
  unfold State.capacityBoundary
  repeat' (first
    | with_reducible assumption | (with_reducible apply State.gateOffEnd_keeps) | (with_reducible apply State.done_keeps)
    | (with_reducible apply Keeps.onCpx) | (with_reducible apply Keeps.onFab) | (refine fun (hf : Fab.Canonical _) => ?_)
    | (with_reducible apply Fab.Canonical.foldl) | (with_reducible apply Fab.cacheOff_canon)
    | (with_reducible apply Fab.cacheOn_canon)
    | (intro x; refine (have hx : Keeps s₀ x := ?_; ?_); rotate_left; clear_value x; rotate_right; subst x) | split
    | dsimp only)

theorem State.boundary_keeps {s₀ : State} {s : State} (h : Keeps s₀ s) : Keeps s₀ (State.boundary s) := by
  unfold State.boundary
  repeat' (first | with_reducible assumption | (with_reducible apply State.capacityBoundary_keeps) | split)

theorem doSubmitJob_keeps {s₀ : State} {ring : ℕ} {s : State} (h : Keeps s₀ s) : Keeps s₀ (doSubmitJob ring s) := by
  unfold doSubmitJob
  repeat' (first
    | with_reducible assumption | (with_reducible apply State.runPacket_keeps) | (with_reducible apply State.bad_keeps)
    | (with_reducible apply State.enqueue_keeps) | (with_reducible apply Keeps.onCpx) | (with_reducible apply Keeps.foldl)
    | (refine fun t a (ht : Keeps s₀ t) => ?_) | (refine fun t (ht : Keeps s₀ t) => ?_) | (intro (x : Packet)) | split
    | dsimp only)

theorem doJobDispatch_keeps {s₀ : State} {s : State} (h : Keeps s₀ s) : Keeps s₀ (doJobDispatch s) := by
  unfold doJobDispatch
  repeat' (first
    | with_reducible assumption | (with_reducible apply State.boundary_keeps)
    | (with_reducible apply State.teardownAs_keeps) | (with_reducible apply State.reply_keeps)
    | (with_reducible apply State.done_keeps) | (with_reducible apply Keeps.onCpx) | (with_reducible apply Keeps.onFab)
    | (refine fun (hf : Fab.Canonical _) => ?_) | (with_reducible apply Fab.Canonical.foldl)
    | (refine fun t a (ht : Fab.Canonical t) => ?_) | (with_reducible apply Fab.cacheOn_canon)
    | (with_reducible apply Fab.Canonical.mem; with_reducible assumption)
    | (intro x; refine (have hx : Keeps s₀ x := ?_; ?_); rotate_left; clear_value x; rotate_right; subst x) | split
    | dsimp only)

theorem State.startCmd_keeps {s₀ : State} {pk : Packet} {body : Packet → State → State} {s : State} (h : Keeps s₀ s)
    (hbody : ∀ x0 t, Keeps s₀ t → Keeps s₀ (body x0 t)) : Keeps s₀ (State.startCmd pk body s) := by
  unfold State.startCmd
  repeat' (first
    | with_reducible assumption | (with_reducible apply State.replyAll_keeps) | (with_reducible apply hbody) | split
    | dsimp only)

theorem State.strayCmd_keeps {s₀ : State} {ring : ℕ} {op : ℕ} {s : State} (h : Keeps s₀ s) : Keeps s₀ (State.strayCmd ring
    op s) := by
  unfold State.strayCmd
  repeat' (first
    | with_reducible assumption | (with_reducible apply State.runPacket_keeps) | (with_reducible apply State.bad_keeps)
    | (intro (x : Packet)) | split)

theorem doEndJob_keeps {s₀ : State} {ring : ℕ} {s : State} (h : Keeps s₀ s) : Keeps s₀ (doEndJob ring s) := by
  unfold doEndJob
  repeat' (first
    | with_reducible assumption | (with_reducible apply State.boundary_keeps)
    | (with_reducible apply State.strayCmd_keeps) | (with_reducible apply State.startCmd_keeps)
    | (with_reducible apply State.replyAll_keeps) | (with_reducible apply State.dropJob_keeps)
    | (with_reducible apply State.countJob_keeps) | (with_reducible apply Keeps.onFab)
    | (with_reducible apply Fab.cachesOff_canon) | (refine fun t (ht : Keeps s₀ t) => ?_)
    | (intro x; refine (have hx : Keeps s₀ x := ?_; ?_); rotate_left; clear_value x; rotate_right; subst x)
    | (intro (x : Packet)) | split | dsimp only)

theorem State.closeBatch_keeps {s₀ : State} {ring : ℕ} {s : State} (h : Keeps s₀ s) : Keeps s₀ (State.closeBatch ring s)
    := by
  unfold State.closeBatch
  repeat' (first
    | with_reducible assumption | (with_reducible apply State.putDram_keeps) | (with_reducible apply Keeps.onCpx)
    | (intro x; refine (have hx : Keeps s₀ x := ?_; ?_); rotate_left; clear_value x; rotate_right; subst x) | split)

theorem State.reopenJob_keeps {s₀ : State} {ring : ℕ} {s : State} (h : Keeps s₀ s) : Keeps s₀ (State.reopenJob ring s) := by
  unfold State.reopenJob
  repeat' (first
    | with_reducible assumption | (with_reducible apply State.enqueue_keeps) | (with_reducible apply Keeps.onCpx)
    | (with_reducible apply Keeps.foldl) | (refine fun t a (ht : Keeps s₀ t) => ?_) | split)

theorem State.removeCmd_keeps {s₀ : State} {t : Packet} {s : State} (h : Keeps s₀ s) : Keeps s₀ (State.removeCmd t s) := by
  unfold State.removeCmd
  repeat' (first
    | with_reducible assumption | (with_reducible apply State.replyAll_keeps)
    | (with_reducible apply State.reopenJob_keeps) | (with_reducible apply State.closeBatch_keeps)
    | (intro x; refine (have hx : Keeps s₀ x := ?_; ?_); rotate_left; clear_value x; rotate_right; subst x) | split)

theorem State.killTarget_keeps {s₀ : State} {pk : Packet} {t : Packet} {late : Bool} {whole : Bool} {s : State} (h : Keeps
    s₀ s) : Keeps s₀ (State.killTarget pk t late whole s) := by
  unfold State.killTarget
  repeat' (first
    | with_reducible assumption | (with_reducible apply State.discardQm_keeps)
    | (with_reducible apply State.teardown_keeps) | (with_reducible apply State.closeBatch_keeps)
    | (with_reducible apply State.replyAll_keeps) | (with_reducible apply State.done_keeps)
    | (with_reducible apply State.boundary_keeps) | (with_reducible apply State.answerKills_keeps)
    | (with_reducible apply State.removeCmd_keeps) | (with_reducible apply Keeps.onCpx)
    | (intro x; refine (have hx : Keeps s₀ x := ?_; ?_); rotate_left; clear_value x; rotate_right; subst x) | split)

theorem State.kill_keeps {s₀ : State} {pk : Packet} {late : Bool} {s : State} (h : Keeps s₀ s) : Keeps s₀ (State.kill pk
    late s) := by
  unfold State.kill
  repeat' (first
    | with_reducible assumption | (with_reducible apply State.bad_keeps) | (with_reducible apply State.killTarget_keeps)
    | (with_reducible apply State.done_keeps) | split | dsimp only)

theorem doKill_keeps {s₀ : State} {ring : ℕ} {late : Bool} {s : State} (h : Keeps s₀ s) : Keeps s₀ (doKill ring late s) := by
  unfold doKill
  repeat' (first
    | with_reducible assumption | (with_reducible apply State.markStarted_keeps)
    | (with_reducible apply State.reply_keeps) | (with_reducible apply State.kill_keeps)
    | (with_reducible apply State.runPacket_keeps) | (with_reducible apply State.bad_keeps)
    | (intro x; refine (have hx : Keeps s₀ x := ?_; ?_); rotate_left; clear_value x; rotate_right; subst x)
    | (intro (x : Packet)) | split | dsimp only)

theorem State.setSlot_keeps {s₀ : State} {p : Pool} {slot : ℕ} {len : ℕ} {seq : ℕ} {s : State} (h : Keeps s₀ s) : Keeps s₀
    (State.setSlot p slot len seq s) := by
  unfold State.setSlot
  repeat' (first | with_reducible assumption | (with_reducible apply State.putDram_keeps))

theorem State.setPool_keeps {s₀ : State} {ring : ℕ} {p : Pool} {s : State} (h : Keeps s₀ s) : Keeps s₀ (State.setPool ring
    p s) := by
  unfold State.setPool
  repeat' (first | with_reducible assumption | (with_reducible apply Keeps.onCpx))

theorem State.declarePool_keeps {s₀ : State} {pk : Packet} {j : Job} {s : State} (h : Keeps s₀ s) : Keeps s₀
    (State.declarePool pk j s) := by
  unfold State.declarePool
  repeat' (first
    | with_reducible assumption | (with_reducible apply State.replyAll_keeps) | (with_reducible apply State.setPool_keeps)
    | (with_reducible apply State.putDram_keeps) | split | dsimp only)

theorem State.copyPages_keeps {s₀ : State} {p : Pool} {slot : ℕ} {src : ℕ} {s : State} (h : Keeps s₀ s) : Keeps s₀
    (State.copyPages p slot src s) := by
  unfold State.copyPages
  repeat' (first
    | with_reducible assumption | (with_reducible apply State.putDram_keeps) | (with_reducible apply Keeps.foldl)
    | (refine fun t a (ht : Keeps s₀ t) => ?_))

theorem State.markJoined_keeps {s₀ : State} {ring : ℕ} {s : State} (h : Keeps s₀ s) : Keeps s₀ (State.markJoined ring s)
    := by
  unfold State.markJoined
  repeat' (first | with_reducible assumption | (with_reducible apply Keeps.onCpx))

theorem State.afterSeq_keeps {s₀ : State} {ring : ℕ} {p : Packet} {s : State} (h : Keeps s₀ s) : Keeps s₀ (State.afterSeq
    ring p s) := by
  unfold State.afterSeq
  repeat' (first
    | with_reducible assumption | (with_reducible apply State.closeBatch_keeps)
    | (with_reducible apply State.setPool_keeps) | split)

theorem State.seqJoin_keeps {s₀ : State} {pk : Packet} {j : Job} {s : State} (h : Keeps s₀ s) : Keeps s₀ (State.seqJoin pk
    j s) := by
  unfold State.seqJoin
  repeat' (first
    | with_reducible assumption | (with_reducible apply State.markJoined_keeps)
    | (with_reducible apply State.replyAll_keeps) | (with_reducible apply State.setPool_keeps)
    | (with_reducible apply State.setSlot_keeps) | (with_reducible apply State.copyPages_keeps)
    | (intro x; refine (have hx : Keeps s₀ x := ?_; ?_); rotate_left; clear_value x; rotate_right; subst x) | split
    | dsimp only)

theorem State.seqLeave_keeps {s₀ : State} {pk : Packet} {j : Job} {s : State} (h : Keeps s₀ s) : Keeps s₀ (State.seqLeave
    pk j s) := by
  unfold State.seqLeave
  repeat' (first
    | with_reducible assumption | (with_reducible apply State.replyAll_keeps) | (with_reducible apply State.setPool_keeps)
    | (with_reducible apply State.setSlot_keeps) | split)

theorem doSeqJoin_keeps {s₀ : State} {ring : ℕ} {s : State} (h : Keeps s₀ s) : Keeps s₀ (doSeqJoin ring s) := by
  unfold doSeqJoin
  repeat' (first
    | with_reducible assumption | (with_reducible apply State.boundary_keeps)
    | (with_reducible apply State.strayCmd_keeps) | (with_reducible apply State.startCmd_keeps)
    | (with_reducible apply State.declarePool_keeps) | (with_reducible apply State.afterSeq_keeps)
    | (with_reducible apply State.seqJoin_keeps)
    | (intro x; refine (have hx : Keeps s₀ x := ?_; ?_); rotate_left; clear_value x; rotate_right; subst x)
    | (intro (x : Packet)) | split | dsimp only)

theorem doSeqLeave_keeps {s₀ : State} {ring : ℕ} {s : State} (h : Keeps s₀ s) : Keeps s₀ (doSeqLeave ring s) := by
  unfold doSeqLeave
  repeat' (first
    | with_reducible assumption | (with_reducible apply State.boundary_keeps)
    | (with_reducible apply State.strayCmd_keeps) | (with_reducible apply State.afterSeq_keeps)
    | (with_reducible apply State.startCmd_keeps) | (with_reducible apply State.seqLeave_keeps)
    | (intro x; refine (have hx : Keeps s₀ x := ?_; ?_); rotate_left; clear_value x; rotate_right; subst x)
    | (intro (x : Packet)) | split | dsimp only)

theorem doSetCapacity_keeps {s₀ : State} {ring : ℕ} {s : State} (h : Keeps s₀ s) : Keeps s₀ (doSetCapacity ring s) := by
  unfold doSetCapacity
  repeat' (first
    | with_reducible assumption | (with_reducible apply State.runPacket_keeps) | (with_reducible apply State.done_keeps)
    | (with_reducible apply State.boundary_keeps) | (with_reducible apply Keeps.onCpx)
    | (with_reducible apply Keeps.onPwr) | (with_reducible apply State.gateOffEnd_keeps) | (refine fun t (ht : Keeps s₀ t) => ?_) | (intro (x : Packet)) | split)

theorem State.badDoorbell_keeps {s₀ : State} {page : ℕ} {ring : ℕ} {s : State} (h : Keeps s₀ s) : Keeps s₀
    (State.badDoorbell page ring s) := by
  unfold State.badDoorbell
  repeat' (first | with_reducible assumption | (with_reducible apply State.note_keeps) | (with_reducible apply Keeps.onHif))

theorem State.ringDoorbell_keeps {s₀ : State} {page : ℕ} {offset : ℕ} {width : ℕ} {value : DWord} {s : State} (h : Keeps
    s₀ s) : Keeps s₀ (State.ringDoorbell page offset width value s) := by
  unfold State.ringDoorbell
  repeat' (first
    | with_reducible assumption | (with_reducible apply State.badDoorbell_keeps)
    | (with_reducible apply State.settle_keeps) | (with_reducible apply State.drainOwed_keeps)
    | (with_reducible apply Keeps.onCpx) | split | dsimp only)

theorem doDoorbell_keeps {s₀ : State} {page : ℕ} {offset : ℕ} {width : ℕ} {value : Option DWord} {s : State} (h : Keeps s₀
    s) : Keeps s₀ (doDoorbell page offset width value s) := by
  unfold doDoorbell
  repeat' (first
    | with_reducible assumption | (with_reducible apply State.ringDoorbell_keeps)
    | (with_reducible apply State.post_keeps) | split)

theorem State.readFailed_keeps {s₀ : State} {ring : ℕ} {header : BitVec 128} {s : State} (h : Keeps s₀ s) : Keeps s₀
    (State.readFailed ring header s) := by
  unfold State.readFailed
  repeat' (first
    | with_reducible assumption | (with_reducible apply State.post_keeps) | (with_reducible apply State.note_keeps)
    | (with_reducible apply State.ringMessage_keeps) | (with_reducible apply Keeps.onCpx)
    | (intro x; refine (have hx : Keeps s₀ x := ?_; ?_); rotate_left; clear_value x; rotate_right; subst x) | split)

theorem doReadError_keeps {s₀ : State} {e : BusEvent} {s : State} (h : Keeps s₀ s) : Keeps s₀ (doReadError e s) := by
  unfold doReadError
  repeat' (first
    | with_reducible assumption | (with_reducible apply State.readFailed_keeps) | (with_reducible apply State.post_keeps)
    | (with_reducible apply Keeps.onHif) | split)

theorem doHello_keeps {s₀ : State} {ring : ℕ} {s : State} (h : Keeps s₀ s) : Keeps s₀ (doHello ring s) := by
  unfold doHello
  repeat' (first
    | with_reducible assumption | (with_reducible apply State.runPacket_keeps) | (with_reducible apply State.bad_keeps)
    | (with_reducible apply State.reply_keeps) | (with_reducible apply State.done_keeps)
    | (with_reducible apply Keeps.onCpx) | (refine fun t (ht : Keeps s₀ t) => ?_) | (intro (x : Packet)) | split)

theorem doQueryCaps_keeps {s₀ : State} {ring : ℕ} {s : State} (h : Keeps s₀ s) : Keeps s₀ (doQueryCaps ring s) := by
  unfold doQueryCaps
  repeat' (first
    | with_reducible assumption | (with_reducible apply State.runPacket_keeps) | (with_reducible apply State.bad_keeps)
    | (with_reducible apply State.done_keeps) | (with_reducible apply State.hostWrite_keeps)
    | (refine fun t (ht : Keeps s₀ t) => ?_) | (intro (x : Packet)) | split | dsimp only)

theorem doOpenClient_keeps {s₀ : State} {ring : ℕ} {s : State} (h : Keeps s₀ s) : Keeps s₀ (doOpenClient ring s) := by
  unfold doOpenClient
  repeat' (first
    | with_reducible assumption | (with_reducible apply State.runPacket_keeps) | (with_reducible apply State.noRes_keeps)
    | (with_reducible apply State.done_keeps) | (with_reducible apply Keeps.onCpx)
    | (refine fun t (ht : Keeps s₀ t) => ?_) | (intro (x : Packet)) | split)

theorem State.loseRings_keeps {s₀ : State} {gone : ℕ → Bool} {s : State} (h : Keeps s₀ s) : Keeps s₀ (State.loseRings gone
    s) := by
  unfold State.loseRings
  repeat' (first
    | with_reducible assumption | (with_reducible apply Keeps.onCpx) | (with_reducible apply Keeps.onCtr)
    | (with_reducible apply Keeps.onCkc) | (with_reducible apply Keeps.onMss) | (with_reducible apply Keeps.onSen)
    | (with_reducible apply Keeps.onFlash)
    | (refine fun hf => ?_; with_reducible apply Flash.putRepair_canon; with_reducible assumption)
    | (refine fun hf => ?_; with_reducible apply Flash.putFlag_canon; with_reducible assumption)
    | (exact fun h => ⟨h.image, h.cert, h.pattern⟩))

theorem State.teardownJobs_keeps {s₀ : State} {gone : ℕ → Bool} {s : State} (h : Keeps s₀ s) : Keeps s₀
    (State.teardownJobs gone s) := by
  unfold State.teardownJobs
  repeat' (first
    | with_reducible assumption | (with_reducible apply State.teardown_keeps) | (with_reducible apply Keeps.foldl)
    | (refine fun t a (ht : Keeps s₀ t) => ?_))

theorem State.dropRings_keeps {s₀ : State} {gone : ℕ → Bool} {s : State} (h : Keeps s₀ s) : Keeps s₀ (State.dropRings gone
    s) := by
  unfold State.dropRings
  repeat' (first
    | with_reducible assumption | (with_reducible apply State.loseRings_keeps)
    | (with_reducible apply State.teardownJobs_keeps) | (with_reducible apply State.settle_keeps)
    | (with_reducible apply State.answerKills_keeps) | split)

theorem State.closeClients_keeps {s₀ : State} {gone : ℕ → Bool} {s : State} (h : Keeps s₀ s) : Keeps s₀
    (State.closeClients gone s) := by
  unfold State.closeClients
  repeat' (first
    | with_reducible assumption | (with_reducible apply State.dropRings_keeps) | (with_reducible apply Keeps.onCpx))

theorem State.closeClient_keeps {s₀ : State} {id : ℕ} {s : State} (h : Keeps s₀ s) : Keeps s₀ (State.closeClient id s) := by
  unfold State.closeClient
  repeat' (first | with_reducible assumption | (with_reducible apply State.closeClients_keeps))

theorem doCloseClient_keeps {s₀ : State} {ring : ℕ} {s : State} (h : Keeps s₀ s) : Keeps s₀ (doCloseClient ring s) := by
  unfold doCloseClient
  repeat' (first
    | with_reducible assumption | (with_reducible apply State.runPacket_keeps) | (with_reducible apply State.bad_keeps)
    | (with_reducible apply State.done_keeps) | (with_reducible apply State.boundary_keeps)
    | (with_reducible apply State.closeClient_keeps) | (refine fun t (ht : Keeps s₀ t) => ?_) | (intro (x : Packet))
    | split | dsimp only)

theorem State.hostTeardown_keeps {s₀ : State} {s : State} (h : Keeps s₀ s) : Keeps s₀ (State.hostTeardown s) := by
  unfold State.hostTeardown
  repeat' (first
    | with_reducible assumption | (with_reducible apply State.closeClients_keeps)
    | (with_reducible apply State.dropRings_keeps) | (with_reducible apply State.boundary_keeps)
    | (with_reducible apply Keeps.onHif) | (with_reducible apply Keeps.onCpx))

theorem doCreateRing_keeps {s₀ : State} {ring : ℕ} {s : State} (h : Keeps s₀ s) : Keeps s₀ (doCreateRing ring s) := by
  unfold doCreateRing
  repeat' (first
    | with_reducible assumption | (with_reducible apply State.runPacket_keeps) | (with_reducible apply State.bad_keeps)
    | (with_reducible apply State.noRes_keeps) | (with_reducible apply State.done_keeps)
    | (with_reducible apply Keeps.onCpx) | (with_reducible apply Keeps.onEmt) | (refine fun t (ht : Keeps s₀ t) => ?_)
    | (intro x; refine (have hx : Keeps s₀ x := ?_; ?_); rotate_left; clear_value x; rotate_right; subst x) | lift_lets
    | (intro (x : Packet)) | split)

theorem doDestroyRing_keeps {s₀ : State} {ring : ℕ} {s : State} (h : Keeps s₀ s) : Keeps s₀ (doDestroyRing ring s) := by
  unfold doDestroyRing
  repeat' (first
    | with_reducible assumption | (with_reducible apply State.runPacket_keeps) | (with_reducible apply State.bad_keeps)
    | (with_reducible apply State.done_keeps) | (with_reducible apply State.boundary_keeps)
    | (with_reducible apply State.dropRings_keeps) | (refine fun t (ht : Keeps s₀ t) => ?_) | (intro (x : Packet)) | split
    | dsimp only)

theorem doMapBuffer_keeps {s₀ : State} {ring : ℕ} {s : State} (h : Keeps s₀ s) : Keeps s₀ (doMapBuffer ring s) := by
  unfold doMapBuffer
  repeat' (first
    | with_reducible assumption | (with_reducible apply State.runPacket_keeps) | (with_reducible apply State.bad_keeps)
    | (with_reducible apply State.noRes_keeps) | (with_reducible apply State.done_keeps)
    | (with_reducible apply State.bumpFree_keeps) | (with_reducible apply Keeps.onCpx)
    | (refine fun t (ht : Keeps s₀ t) => ?_) | (intro (x : Packet)) | split | dsimp only)

theorem doUnmapBuffer_keeps {s₀ : State} {ring : ℕ} {s : State} (h : Keeps s₀ s) : Keeps s₀ (doUnmapBuffer ring s) := by
  unfold doUnmapBuffer
  repeat' (first
    | with_reducible assumption | (with_reducible apply State.runPacket_keeps) | (with_reducible apply State.bad_keeps)
    | (with_reducible apply State.done_keeps) | (with_reducible apply Keeps.onCpx)
    | (refine fun t (ht : Keeps s₀ t) => ?_) | (intro (x : Packet)) | split | dsimp only)

theorem State.resend_keeps {s₀ : State} {s : State} (h : Keeps s₀ s) : Keeps s₀ (State.resend s) := by
  unfold State.resend
  repeat' (first | with_reducible assumption | (with_reducible apply State.message_keeps) | split)

theorem doHifEventWrite_keeps {s₀ : State} {v : Word} {s : State} (h : Keeps s₀ s) : Keeps s₀ (doHifEventWrite v s) := by
  unfold doHifEventWrite
  repeat' (first
    | with_reducible assumption | (with_reducible apply State.resend_keeps) | (with_reducible apply Keeps.onHif) | split)

theorem doHifEventMaskWrite_keeps {s₀ : State} {v : Word} {s : State} (h : Keeps s₀ s) : Keeps s₀ (doHifEventMaskWrite v
    s) := by
  unfold doHifEventMaskWrite
  repeat' (first
    | with_reducible assumption | (with_reducible apply State.resend_keeps) | (with_reducible apply Keeps.onHif) | split)

theorem doHifBar4WindowWrite_keeps {s₀ : State} {v : DWord} {s : State} (h : Keeps s₀ s) : Keeps s₀ (doHifBar4WindowWrite
    v s) := by
  unfold doHifBar4WindowWrite
  repeat' (first | with_reducible assumption | (with_reducible apply Keeps.onHif) | split)

theorem doAdminCtrl_keeps {s₀ : State} {v : Word} {s : State} (h : Keeps s₀ s) : Keeps s₀ (doAdminCtrl v s) := by
  unfold doAdminCtrl
  repeat' (first
    | with_reducible assumption | (with_reducible apply State.note_keeps)
    | (with_reducible apply State.hostTeardown_keeps) | (with_reducible apply State.post_keeps)
    | (with_reducible apply Keeps.onHif) | (with_reducible apply Keeps.onCpx)
    | (intro x; refine (have hx : Keeps s₀ x := ?_; ?_); rotate_left; clear_value x; rotate_right; subst x) | split
    | dsimp only)

theorem doHifDoorbellErrorsRead_keeps {s₀ : State} {s : State} (h : Keeps s₀ s) : Keeps s₀ (doHifDoorbellErrorsRead s) := by
  unfold doHifDoorbellErrorsRead
  repeat' (first
    | with_reducible assumption | (with_reducible apply State.post_keeps) | (with_reducible apply Keeps.onHif) | split)

theorem doBar4Access_keeps {s₀ : State} {offset : ℕ} {write : Option (List Byte)} {size : ℕ} {s : State} (h : Keeps s₀ s)
    : Keeps s₀ (doBar4Access offset write size s) := by
  unfold doBar4Access
  repeat' (first
    | with_reducible assumption | (with_reducible apply State.note_keeps) | (with_reducible apply State.post_keeps)
    | (with_reducible apply Keeps.onFab) | (refine fun (hf : Fab.Canonical _) => ?_)
    | (with_reducible apply Fab.poke_canon)
    | (exact foldl_inv (fun p : Nat × Fab => p.2.Canonical) hf fun p a hp => by dsimp only; split; exact Fab.poke_canon hp; exact hp)
    | (intro x; refine (have hx : Keeps s₀ x := ?_; ?_); rotate_left; clear_value x; rotate_right; subst x)
    | (intro x; clear_value x) | lift_lets | split)

theorem State.attachReset_keeps {s₀ : State} {kind : ℕ} {s : State} (h : Keeps s₀ s) : Keeps s₀ (State.attachReset kind s)
    := by
  unfold State.attachReset
  repeat' (first
    | with_reducible assumption | (with_reducible apply State.note_keeps)
    | (with_reducible apply State.hostTeardown_keeps) | (with_reducible apply Keeps.onHif))

theorem doFunctionLevelReset_keeps {s₀ : State} {s : State} (h : Keeps s₀ s) : Keeps s₀ (doFunctionLevelReset s) := by
  unfold doFunctionLevelReset
  repeat' (first | with_reducible assumption | (with_reducible apply State.attachReset_keeps) | split)

theorem doPcieLinkDown_keeps {s₀ : State} {s : State} (h : Keeps s₀ s) : Keeps s₀ (doPcieLinkDown s) := by
  unfold doPcieLinkDown
  repeat' (first | with_reducible assumption | (with_reducible apply Keeps.onHif))

theorem doPcieLinkUp_keeps {s₀ : State} {speed : ℕ} {width : ℕ} {s : State} (h : Keeps s₀ s) : Keeps s₀ (doPcieLinkUp
    speed width s) := by
  unfold doPcieLinkUp
  repeat' (first | with_reducible assumption | (with_reducible apply Keeps.onHif) | split)

theorem State.enterServo_keeps {s₀ : State} {v : Servo} {s : State} (h : Keeps s₀ s) : Keeps s₀ (State.enterServo v s) := by
  unfold State.enterServo
  repeat' (first
    | with_reducible assumption | (with_reducible apply State.note_keeps) | (with_reducible apply State.raise_keeps)
    | (with_reducible apply Keeps.onTim)
    | (intro x; refine (have hx : Keeps s₀ x := ?_; ?_); rotate_left; clear_value x; rotate_right; subst x) | split)

theorem State.applyStep_keeps {s₀ : State} {e : ℤ} {s : State} (h : Keeps s₀ s) : Keeps s₀ (State.applyStep e s) := by
  unfold State.applyStep
  repeat' (first
    | with_reducible assumption | (with_reducible apply State.enterServo_keeps)
    | (with_reducible apply State.noteInt_keeps) | (with_reducible apply Keeps.onTim))

theorem State.runOfMaster_keeps {s₀ : State} {e : ℤ} {master : Option DWord} {s : State} (h : Keeps s₀ s) : Keeps s₀
    (State.runOfMaster e master s) := by
  unfold State.runOfMaster
  repeat' (first
    | with_reducible assumption | (with_reducible apply State.applyStep_keeps) | (with_reducible apply Keeps.onTim)
    | split | dsimp only)

theorem State.refuseStep_keeps {s₀ : State} {e : ℤ} {master : Option DWord} {s : State} (h : Keeps s₀ s) : Keeps s₀
    (State.refuseStep e master s) := by
  unfold State.refuseStep
  repeat' (first
    | with_reducible assumption | (with_reducible apply State.runOfMaster_keeps)
    | (with_reducible apply State.enterServo_keeps) | (with_reducible apply State.noteInt_keeps)
    | (with_reducible apply Keeps.onTim))

theorem State.slew_keeps {s₀ : State} {e : ℤ} {freq : ℤ} {master : Option DWord} {s : State} (h : Keeps s₀ s) : Keeps s₀
    (State.slew e freq master s) := by
  unfold State.slew
  repeat' (first
    | with_reducible assumption | (with_reducible apply State.enterServo_keeps) | (with_reducible apply Keeps.onTim)
    | (intro x; refine (have hx : Keeps s₀ x := ?_; ?_); rotate_left; clear_value x; rotate_right; subst x) | split
    | dsimp only)

theorem State.measure_keeps {s₀ : State} {e : ℤ} {freq : ℤ} {master : Option DWord} {s : State} (h : Keeps s₀ s) : Keeps
    s₀ (State.measure e freq master s) := by
  unfold State.measure
  repeat' (first
    | with_reducible assumption | (with_reducible apply State.runOfMaster_keeps)
    | (with_reducible apply State.applyStep_keeps) | (with_reducible apply State.refuseStep_keeps)
    | (with_reducible apply State.slew_keeps) | (with_reducible apply Keeps.onTim)
    | (intro x; refine (have hx : Keeps s₀ x := ?_; ?_); rotate_left; clear_value x; rotate_right; subst x) | split
    | dsimp only)

theorem doSync_keeps {s₀ : State} {sourceNs : ℤ} {freq : ℤ} {t : ℕ} {s : State} (h : Keeps s₀ s) : Keeps s₀ (doSync
    sourceNs freq t s) := by
  unfold doSync
  repeat' (first
    | with_reducible assumption | (with_reducible apply State.advance_keeps) | (with_reducible apply State.measure_keeps)
    | (intro x; refine (have hx : Keeps s₀ x := ?_; ?_); rotate_left; clear_value x; rotate_right; subst x) | split)

theorem doAnnounce_keeps {s₀ : State} {master : DWord} {s : State} (h : Keeps s₀ s) : Keeps s₀ (doAnnounce master s) := by
  unfold doAnnounce
  repeat' (first | with_reducible assumption | (with_reducible apply Keeps.onTim) | split)

theorem doPdelayReq_keeps {s₀ : State} {t : ℕ} {s : State} (h : Keeps s₀ s) : Keeps s₀ (doPdelayReq t s) := by
  unfold doPdelayReq
  repeat' (first
    | with_reducible assumption | (with_reducible apply State.advance_keeps) | (with_reducible apply Keeps.onTim)
    | (intro x; refine (have hx : Keeps s₀ x := ?_; ?_); rotate_left; clear_value x; rotate_right; subst x) | split)

theorem doPdelayReqInitiate_keeps {s₀ : State} {s : State} (h : Keeps s₀ s) : Keeps s₀ (doPdelayReqInitiate s) := by
  unfold doPdelayReqInitiate
  repeat' (first
    | with_reducible assumption | (with_reducible apply State.advance_keeps) | (with_reducible apply Keeps.onTim)
    | (intro x; refine (have hx : Keeps s₀ x := ?_; ?_); rotate_left; clear_value x; rotate_right; subst x) | split)

theorem doPdelayResp_keeps {s₀ : State} {delayNs : ℕ} {ratioPpb : ℤ} {t : ℕ} {s : State} (h : Keeps s₀ s) : Keeps s₀
    (doPdelayResp delayNs ratioPpb t s) := by
  unfold doPdelayResp
  repeat' (first
    | with_reducible assumption | (with_reducible apply State.advance_keeps) | (with_reducible apply Keeps.onTim) | split)

theorem doHoldoverTimeout_keeps {s₀ : State} {s : State} (h : Keeps s₀ s) : Keeps s₀ (doHoldoverTimeout s) := by
  unfold doHoldoverTimeout
  repeat' (first
    | with_reducible assumption | (with_reducible apply State.advance_keeps)
    | (with_reducible apply State.enterServo_keeps) | (with_reducible apply Keeps.onTim)
    | (intro x; refine (have hx : Keeps s₀ x := ?_; ?_); rotate_left; clear_value x; rotate_right; subst x) | split)

theorem doHoldover_keeps {s₀ : State} {s : State} (h : Keeps s₀ s) : Keeps s₀ (doHoldover s) := by
  unfold doHoldover
  repeat' (first
    | with_reducible assumption | (with_reducible apply State.advance_keeps) | (with_reducible apply State.note_keeps)
    | (with_reducible apply Keeps.onTim)
    | (intro x; refine (have hx : Keeps s₀ x := ?_; ?_); rotate_left; clear_value x; rotate_right; subst x) | split)

theorem doPpsIn_keeps {s₀ : State} {freq : ℤ} {t : ℕ} {s : State} (h : Keeps s₀ s) : Keeps s₀ (doPpsIn freq t s) := by
  unfold doPpsIn
  repeat' (first
    | with_reducible assumption | (with_reducible apply State.advance_keeps) | (with_reducible apply State.measure_keeps)
    | (with_reducible apply Keeps.onTim)
    | (intro x; refine (have hx : Keeps s₀ x := ?_; ?_); rotate_left; clear_value x; rotate_right; subst x) | split
    | dsimp only)

theorem doPpsOutPlacement_keeps {s₀ : State} {s : State} (h : Keeps s₀ s) : Keeps s₀ (doPpsOutPlacement s) := by
  unfold doPpsOutPlacement
  repeat' (first
    | with_reducible assumption | (with_reducible apply State.advance_keeps) | (with_reducible apply Keeps.onTim)
    | (intro x; refine (have hx : Keeps s₀ x := ?_; ?_); rotate_left; clear_value x; rotate_right; subst x) | split)

theorem doPpsOut_keeps {s₀ : State} {s : State} (h : Keeps s₀ s) : Keeps s₀ (doPpsOut s) := by
  unfold doPpsOut
  repeat' (first
    | with_reducible assumption | (with_reducible apply State.advance_keeps) | (with_reducible apply Keeps.onTim)
    | (with_reducible apply Keeps.onPins) | (exact (fun _ => rfl : ∀ x, _ = _)) | split)

theorem State.setTimeSource_keeps {s₀ : State} {gptp : Bool} {pps : Bool} {s : State} (h : Keeps s₀ s) : Keeps s₀
    (State.setTimeSource gptp pps s) := by
  unfold State.setTimeSource
  repeat' (first
    | with_reducible assumption | (with_reducible apply State.enterServo_keeps) | (with_reducible apply Keeps.onTim)
    | (intro x; refine (have hx : Keeps s₀ x := ?_; ?_); rotate_left; clear_value x; rotate_right; subst x) | split
    | dsimp only)

theorem doTimeConfig_keeps {s₀ : State} {ring : ℕ} {s : State} (h : Keeps s₀ s) : Keeps s₀ (doTimeConfig ring s) := by
  unfold doTimeConfig
  repeat' (first
    | with_reducible assumption | (with_reducible apply State.runPacket_keeps) | (with_reducible apply State.bad_keeps)
    | (with_reducible apply State.setTimeSource_keeps) | (with_reducible apply State.done_keeps)
    | (with_reducible apply Keeps.onTim) | (with_reducible apply Keeps.onPins) | (exact (fun _ => rfl : ∀ x, _ = _))
    | (refine fun t (ht : Keeps s₀ t) => ?_) | (intro (x : Packet)) | split | dsimp only)

theorem doTimeAcceptStep_keeps {s₀ : State} {ring : ℕ} {s : State} (h : Keeps s₀ s) : Keeps s₀ (doTimeAcceptStep ring s)
    := by
  unfold doTimeAcceptStep
  repeat' (first
    | with_reducible assumption | (with_reducible apply State.runPacket_keeps) | (with_reducible apply State.done_keeps)
    | (with_reducible apply State.applyStep_keeps) | (with_reducible apply State.bad_keeps)
    | (refine fun t (ht : Keeps s₀ t) => ?_) | (intro (x : Packet)) | split)

theorem doTake_keeps {s₀ : State} {s : State} (h : Keeps s₀ s) : Keeps s₀ (doTake s) := by
  unfold doTake
  repeat' (first | with_reducible assumption | (with_reducible apply Keeps.onTim) | split)

theorem State.logPut_keeps {s₀ : State} {e : EventRec} {s : State} (h : Keeps s₀ s) : Keeps s₀ (State.logPut e s) := by
  unfold State.logPut
  exact Keeps.onEvr (Keeps.onFlash h fun k => ⟨k.image, k.cert, k.pattern⟩) fun hq => hq

theorem State.logErase_keeps {s₀ : State} {s : State} (h : Keeps s₀ s) : Keeps s₀ (State.logErase s) := by
  unfold State.logErase
  exact Keeps.onEvr (Keeps.onFlash h fun k => ⟨k.image, k.cert, k.pattern⟩) fun hq => hq

theorem State.flushLog_keeps {s₀ : State} {s : State} (h : Keeps s₀ s) : Keeps s₀ (State.flushLog s) := by
  unfold State.flushLog
  refine Keeps.foldl (Keeps.onEvr h fun _ => Nat.zero_le _) fun t e ht => State.logPut_keeps ?_
  split
  · exact State.logErase_keeps ht
  · exact ht

theorem doEventFlashWrite_keeps {s₀ : State} {s : State} (h : Keeps s₀ s) : Keeps s₀ (doEventFlashWrite s) := by
  unfold doEventFlashWrite
  split
  · exact h
  · next e r heq =>
    split
    · exact h
    · refine State.logPut_keeps (Keeps.onEvr h fun hq => ?_)
      rw [heq, List.length_cons] at hq
      show r.length ≤ 1024
      omega

theorem doSectorErase_keeps {s₀ : State} {s : State} (h : Keeps s₀ s) : Keeps s₀ (doSectorErase s) := by
  unfold doSectorErase
  split
  · exact State.logErase_keeps h
  · exact h

theorem doOpMark_keeps {s₀ : State} {s : State} (h : Keeps s₀ s) : Keeps s₀ (doOpMark s) := by
  unfold doOpMark
  repeat' (first
    | with_reducible assumption | (with_reducible apply State.advance_keeps) | (with_reducible apply State.note_keeps)
    | (with_reducible apply Keeps.onEvr) | (exact (id : _ ≤ 1024 → _))
    | (intro x; refine (have hx : Keeps s₀ x := ?_; ?_); rotate_left; clear_value x; rotate_right; subst x) | split)

theorem doPeriodicSnapshot_keeps {s₀ : State} {s : State} (h : Keeps s₀ s) : Keeps s₀ (doPeriodicSnapshot s) := by
  unfold doPeriodicSnapshot
  repeat' (first
    | with_reducible assumption | (with_reducible apply State.advance_keeps) | (with_reducible apply State.snapshot_keeps)
    | (with_reducible apply Keeps.onEvr) | (exact (id : _ ≤ 1024 → _))
    | (intro x; refine (have hx : Keeps s₀ x := ?_; ?_); rotate_left; clear_value x; rotate_right; subst x) | split)

theorem State.snapshotDone_keeps {s₀ : State} {s : State} (h : Keeps s₀ s) : Keeps s₀ s.snapshotDone := by
  unfold State.snapshotDone
  repeat' (first
    | with_reducible assumption | (with_reducible apply State.snapshot_keeps) | (with_reducible apply Keeps.onFlash)
    | (with_reducible apply Keeps.onEvr)
    | (refine fun hf => ?_; with_reducible apply Flash.putRepair_canon; with_reducible assumption)
    | (refine fun hf => ?_; with_reducible apply Flash.putFlag_canon; with_reducible assumption)
    | (exact fun h => ⟨h.image, h.cert, h.pattern⟩) | (exact (id : _ ≤ 1024 → _))
    | (intro x; refine (have hx : Keeps s₀ x := ?_; ?_); rotate_left; clear_value x; rotate_right; subst x) | split
    | dsimp only)

theorem doSnapshotWriteComplete_keeps {s₀ : State} {s : State} (h : Keeps s₀ s) : Keeps s₀ (doSnapshotWriteComplete s) := by
  unfold doSnapshotWriteComplete
  split
  · exact State.snapshotDone_keeps h
  · exact h

theorem doHistogramTick_keeps {s₀ : State} {s : State} (h : Keeps s₀ s) : Keeps s₀ (doHistogramTick s) := by
  unfold doHistogramTick
  repeat' (first
    | with_reducible assumption | (with_reducible apply State.advance_keeps) | (with_reducible apply Keeps.onEvr)
    | (exact (id : _ ≤ 1024 → _))
    | (intro x; refine (have hx : Keeps s₀ x := ?_; ?_); rotate_left; clear_value x; rotate_right; subst x) | split)

theorem doTokenRefill_keeps {s₀ : State} {code : ℕ} {s : State} (h : Keeps s₀ s) : Keeps s₀ (doTokenRefill code s) := by
  unfold doTokenRefill
  repeat' (first
    | with_reducible assumption | (with_reducible apply State.advance_keeps) | (with_reducible apply Keeps.onEvr)
    | (exact (id : _ ≤ 1024 → _))
    | (intro x; refine (have hx : Keeps s₀ x := ?_; ?_); rotate_left; clear_value x; rotate_right; subst x) | split
    | dsimp only)

theorem State.setLimit_keeps {s₀ : State} {cls : ℕ} {v : ℕ} {s : State} (h : Keeps s₀ s) : Keeps s₀ (State.setLimit cls v
    s) := by
  unfold State.setLimit
  repeat' (first
    | with_reducible assumption | (with_reducible apply Keeps.onMss) | (with_reducible apply Keeps.onEvr)
    | (exact (id : _ ≤ 1024 → _))
    | (intro x; refine (have hx : Keeps s₀ x := ?_; ?_); rotate_left; clear_value x; rotate_right; subst x) | split)

theorem doMssEventRateWrite_keeps {s₀ : State} {i : Fin 2} {v : Word} {s : State} (h : Keeps s₀ s) : Keeps s₀
    (doMssEventRateWrite i v s) := by
  unfold doMssEventRateWrite
  repeat' (first
    | with_reducible assumption | (with_reducible apply State.setLimit_keeps) | (with_reducible apply Keeps.foldl)
    | (refine fun t a (ht : Keeps s₀ t) => ?_) | split)

theorem doLogRead_keeps {s₀ : State} {ring : ℕ} {s : State} (h : Keeps s₀ s) : Keeps s₀ (doLogRead ring s) := by
  unfold doLogRead
  repeat' (first
    | with_reducible assumption | (with_reducible apply State.runPacket_keeps) | (with_reducible apply State.bad_keeps)
    | (with_reducible apply State.hostWrite_keeps) | (with_reducible apply State.done_keeps)
    | (refine fun t (ht : Keeps s₀ t) => ?_) | (intro (x : Packet)) | split | dsimp only)

theorem doStatsRead_keeps {s₀ : State} {ring : ℕ} {s : State} (h : Keeps s₀ s) : Keeps s₀ (doStatsRead ring s) := by
  unfold doStatsRead
  repeat' (first
    | with_reducible assumption | (with_reducible apply State.runPacket_keeps) | (with_reducible apply State.bad_keeps)
    | (with_reducible apply State.noRes_keeps) | (with_reducible apply State.done_keeps)
    | (with_reducible apply State.hostWrite_keeps) | (refine fun t (ht : Keeps s₀ t) => ?_) | (intro (x : Packet)) | split
    | dsimp only)

theorem State.releaseIngest_keeps {s₀ : State} {c : Contract} {rs : List RingState} {s : State} (h : Keeps s₀ s) : Keeps
    s₀ (State.releaseIngest c rs s) := by
  unfold State.releaseIngest
  repeat' (first
    | with_reducible assumption | (with_reducible apply Keeps.onSen) | (with_reducible apply Keeps.foldl)
    | (refine fun t a (ht : Keeps s₀ t) => ?_) | split)

theorem State.releaseLate_keeps {s₀ : State} {c : Contract} {s : State} {l : LateStart} (h : Keeps s₀ s) : Keeps s₀
    (State.releaseLate c s l) := by
  unfold State.releaseLate
  repeat' (first | with_reducible assumption | (with_reducible apply State.releaseIngest_keeps) | split)

theorem State.dropStep_keeps {s₀ : State} {r : Run} {s : State} (h : Keeps s₀ s) : Keeps s₀ (State.dropStep r s) := by
  unfold State.dropStep
  repeat' (first | with_reducible assumption | (with_reducible apply State.recordFault_keeps) | split)

theorem State.applyRate_keeps {s₀ : State} {s : State} (h : Keeps s₀ s) : Keeps s₀ (State.applyRate s) := by
  unfold State.applyRate
  repeat' (first | with_reducible assumption | (with_reducible apply Keeps.onPwr) | split | dsimp only)

theorem State.rateChanged_keeps {s₀ : State} {s : State} (h : Keeps s₀ s) : Keeps s₀ (State.rateChanged s) := by
  unfold State.rateChanged
  repeat' (first | with_reducible assumption | (with_reducible apply State.applyRate_keeps) | split)

theorem State.openWindow_keeps {s₀ : State} {s : State} (h : Keeps s₀ s) : Keeps s₀ (State.openWindow s) := by
  unfold State.openWindow
  repeat' (first | with_reducible assumption | (with_reducible apply Keeps.onCpx))

theorem State.afterSlice_keeps {s₀ : State} {k : ℕ} {s : State} (h : Keeps s₀ s) : Keeps s₀ (State.afterSlice k s) := by
  unfold State.afterSlice
  repeat' (first
    | with_reducible assumption | (with_reducible apply State.note_keeps) | (with_reducible apply Keeps.onEvr)
    | (exact (id : _ ≤ 1024 → _))
    | (intro x; refine (have hx : Keeps s₀ x := ?_; ?_); rotate_left; clear_value x; rotate_right; subst x) | split
    | dsimp only)

theorem State.stopProgram_keeps {s₀ : State} {s : State} (h : Keeps s₀ s) : Keeps s₀ (State.stopProgram s) := by
  unfold State.stopProgram
  repeat' (first
    | with_reducible assumption | (with_reducible apply State.dropStep_keeps)
    | (with_reducible apply State.releaseIngest_keeps) | (with_reducible apply State.releaseLate_keeps)
    | (with_reducible apply State.openWindow_keeps) | (with_reducible apply Keeps.onCtr)
    | (with_reducible apply Keeps.onFab) | (with_reducible apply Keeps.foldl) | (refine fun (hf : Fab.Canonical _) => ?_)
    | (with_reducible apply Fab.Canonical.foldl) | (refine fun t a (ht : Fab.Canonical t) => ?_)
    | (with_reducible apply Fab.returnHeld_canon)
    | (intro x; refine (have hx : Fab.Canonical x := ?_; ?_); rotate_left; clear_value x; rotate_right; subst x)
    | (with_reducible apply Fab.Canonical.mem; with_reducible assumption) | (refine fun t a (ht : Keeps s₀ t) => ?_)
    | lift_lets | split)

theorem State.cancelLaunches_keeps {s₀ : State} {s : State} (h : Keeps s₀ s) : Keeps s₀ (State.cancelLaunches s) := by
  unfold State.cancelLaunches
  repeat' (first | with_reducible assumption | (with_reducible apply Keeps.onCtr))

theorem State.unloadContracts_keeps {s₀ : State} {s : State} (h : Keeps s₀ s) : Keeps s₀ (State.unloadContracts s) := by
  unfold State.unloadContracts
  repeat' (first
    | with_reducible assumption | (with_reducible apply State.reply_keeps) | (with_reducible apply Keeps.onCtr)
    | (intro x; refine (have hx : Keeps s₀ x := ?_; ?_); rotate_left; clear_value x; rotate_right; subst x) | split
    | dsimp only)

theorem State.startDrain_keeps {s₀ : State} {f : FailReport} {s : State} (h : Keeps s₀ s) : Keeps s₀ (State.startDrain f
    s) := by
  unfold State.startDrain
  repeat' (first
    | with_reducible assumption | (with_reducible apply State.latch_keeps)
    | (with_reducible apply State.stopProgram_keeps) | (with_reducible apply State.preempt_keeps)
    | (with_reducible apply State.cancelLaunches_keeps) | (with_reducible apply State.enter_keeps)
    | (with_reducible apply Keeps.onMss) | (with_reducible apply Keeps.onSen) | (with_reducible apply Keeps.onSaf)
    | (exact (fun _ => rfl : ∀ x, _ = _))
    | (intro x; refine (have hx : Keeps s₀ x := ?_; ?_); rotate_left; clear_value x; rotate_right; subst x) | split)

theorem State.suspectAs_keeps {s₀ : State} {f : FailReport} {c : FaultCtx} {units : List FailReport} {s : State} (h :
    Keeps s₀ s) : Keeps s₀ (State.suspectAs f c units s) := by
  unfold State.suspectAs
  repeat' (first
    | with_reducible assumption | (with_reducible apply State.countErr_keeps)
    | (with_reducible apply State.recordFault_keeps) | (with_reducible apply State.startDrain_keeps)
    | (with_reducible apply State.latch_keeps) | (with_reducible apply Keeps.onMss) | (with_reducible apply Keeps.foldl)
    | (refine fun t a (ht : Keeps s₀ t) => ?_)
    | (intro x; refine (have hx : Keeps s₀ x := ?_; ?_); rotate_left; clear_value x; rotate_right; subst x) | split
    | dsimp only)

theorem State.suspect_keeps {s₀ : State} {f : FailReport} {c : FaultCtx} {s : State} (h : Keeps s₀ s) : Keeps s₀
    (State.suspect f c s) := by
  unfold State.suspect
  repeat' (first | with_reducible assumption | (with_reducible apply State.suspectAs_keeps))

theorem State.suspectAtOnce_keeps {s₀ : State} {f : FailReport} {s : State} (h : Keeps s₀ s) : Keeps s₀
    (State.suspectAtOnce f s) := by
  unfold State.suspectAtOnce
  repeat' (first | with_reducible assumption | (with_reducible apply State.suspect_keeps))

theorem State.runSlice_keeps {s₀ : State} {k : ℕ} {digestOk : Bool} {signature : Option DWord} {restoreFail : Bool} {s :
    State} (h : Keeps s₀ s) : Keeps s₀ (State.runSlice k digestOk signature restoreFail s) := by
  unfold State.runSlice
  repeat' (first
    | with_reducible assumption | (with_reducible apply State.note_keeps) | (with_reducible apply State.afterSlice_keeps)
    | (with_reducible apply State.suspect_keeps) | (with_reducible apply State.bumpFree_keeps)
    | (with_reducible apply Keeps.onEvr) | (exact (id : _ ≤ 1024 → _))
    | (intro x; refine (have hx : Keeps s₀ x := ?_; ?_); rotate_left; clear_value x; rotate_right; subst x) | split)

theorem doFlagRecordWritten_keeps {s₀ : State} {s : State} (h : Keeps s₀ s) : Keeps s₀ (doFlagRecordWritten s) := by
  unfold doFlagRecordWritten
  repeat' (first
    | with_reducible assumption | (with_reducible apply State.done_keeps) | (with_reducible apply State.enter_keeps)
    | (with_reducible apply Keeps.onMss) | (with_reducible apply Keeps.onSaf) | (with_reducible apply Keeps.onFlash)
    | (exact (fun _ => rfl : ∀ x, _ = _))
    | (refine fun hf => ?_; with_reducible apply Flash.putRepair_canon; with_reducible assumption)
    | (refine fun hf => ?_; with_reducible apply Flash.putFlag_canon; with_reducible assumption)
    | (exact fun h => ⟨h.image, h.cert, h.pattern⟩)
    | (intro x; refine (have hx : Keeps s₀ x := ?_; ?_); rotate_left; clear_value x; rotate_right; subst x) | split
    | dsimp only)

end Sys2Proof.Machine
end

