-- ==== Sys2Proof/Laws/KeepsUnits.lean ====
section
/-! SUPPORT. Every operation of these parts keeps what `Keeps` says: checker, emission, sensors, power, management and registers. -/

set_option linter.unreachableTactic false
set_option linter.unusedTactic false

namespace Sys2Proof.Machine

theorem State.powerOn_keeps {s₀ : State} {mask : BitVec 64} {s : State} (h : Keeps s₀ s) : Keeps s₀ (State.powerOn mask s)
    := by
  unfold State.powerOn
  repeat' (first
    | with_reducible assumption | (with_reducible apply State.gateOff_keeps) | (with_reducible apply State.pwrEnd_keeps)
    | (with_reducible apply Keeps.onPwr) | (with_reducible apply Keeps.onFab) | (refine fun (hf : Fab.Canonical _) => ?_)
    | (with_reducible apply Fab.Canonical.foldl) | (with_reducible apply Fab.clearDomain_canon)
    | (intro x; refine (have hx : Keeps s₀ x := ?_; ?_); rotate_left; clear_value x; rotate_right; subst x) | split
    | dsimp only)

theorem State.runSensor_keeps {s₀ : State} {ring : ℕ} {sel : ℕ → Bool} {body : Packet → State → State} {s : State} (h :
    Keeps s₀ s) (hbody : ∀ x0 t, Keeps s₀ t → Keeps s₀ (body x0 t)) : Keeps s₀ (State.runSensor ring sel body s) := by
  unfold State.runSensor
  repeat' (first
    | with_reducible assumption | (with_reducible apply State.runPacket_keeps) | (with_reducible apply hbody) | split)

theorem State.zeroAbsent_keeps {s₀ : State} {r : DevRing} {s : State} (h : Keeps s₀ s) : Keeps s₀ (State.zeroAbsent r s)
    := by
  unfold State.zeroAbsent
  repeat' (first
    | with_reducible assumption | (with_reducible apply Keeps.onFab) | (refine fun (hf : Fab.Canonical _) => ?_)
    | (exact ⟨Memory.wf_memZero hf.dram, hf.sb, hf.ckc, hf.spad⟩))

theorem State.putCamera_keeps {s₀ : State} {i : ℕ} {c : Camera} {s : State} (h : Keeps s₀ s) : Keeps s₀ (State.putCamera i
    c s) := by
  unfold State.putCamera
  repeat' (first
    | with_reducible assumption | (with_reducible apply State.powerOn_keeps)
    | (with_reducible apply State.zeroAbsent_keeps) | (with_reducible apply Keeps.onSen)
    | (intro x; refine (have hx : Keeps s₀ x := ?_; ?_); rotate_left; clear_value x; rotate_right; subst x) | split
    | dsimp only)

theorem doCamera_keeps {s₀ : State} {ring : ℕ} {s : State} (h : Keeps s₀ s) : Keeps s₀ (doCamera ring s) := by
  unfold doCamera
  repeat' (first
    | with_reducible assumption | (with_reducible apply State.runSensor_keeps) | (with_reducible apply State.bad_keeps)
    | (with_reducible apply State.noRes_keeps) | (with_reducible apply State.done_keeps)
    | (with_reducible apply State.putCamera_keeps) | (refine fun t (ht : Keeps s₀ t) => ?_) | (intro x; clear_value x)
    | (intro (x : Packet)) | split | dsimp only)

theorem doCamParams_keeps {s₀ : State} {ring : ℕ} {s : State} (h : Keeps s₀ s) : Keeps s₀ (doCamParams ring s) := by
  unfold doCamParams
  repeat' (first
    | with_reducible assumption | (with_reducible apply State.runSensor_keeps) | (with_reducible apply State.bad_keeps)
    | (with_reducible apply State.done_keeps) | (with_reducible apply Keeps.onSen)
    | (refine fun t (ht : Keeps s₀ t) => ?_) | (intro (x : Packet)) | split | dsimp only)

theorem doLidar_keeps {s₀ : State} {ring : ℕ} {s : State} (h : Keeps s₀ s) : Keeps s₀ (doLidar ring s) := by
  unfold doLidar
  repeat' (first
    | with_reducible assumption | (with_reducible apply State.runSensor_keeps) | (with_reducible apply State.bad_keeps)
    | (with_reducible apply State.noRes_keeps) | (with_reducible apply State.powerOn_keeps)
    | (with_reducible apply State.done_keeps) | (with_reducible apply State.zeroAbsent_keeps)
    | (with_reducible apply Keeps.onSen) | (refine fun t (ht : Keeps s₀ t) => ?_)
    | (intro x; refine (have hx : Keeps s₀ x := ?_; ?_); rotate_left; clear_value x; rotate_right; subst x)
    | (intro (x : Packet)) | split | dsimp only)

theorem doMotion_keeps {s₀ : State} {ring : ℕ} {s : State} (h : Keeps s₀ s) : Keeps s₀ (doMotion ring s) := by
  unfold doMotion
  repeat' (first
    | with_reducible assumption | (with_reducible apply State.runSensor_keeps) | (with_reducible apply State.bad_keeps)
    | (with_reducible apply State.done_keeps) | (with_reducible apply State.ckcInput_keeps)
    | (with_reducible apply Keeps.onSen) | (refine fun t (ht : Keeps s₀ t) => ?_) | (intro (x : Packet)) | split)

theorem doCci_keeps {s₀ : State} {ring : ℕ} {s : State} (h : Keeps s₀ s) : Keeps s₀ (doCci ring s) := by
  unfold doCci
  repeat' (first
    | with_reducible assumption | (with_reducible apply State.runSensor_keeps) | (with_reducible apply State.bad_keeps)
    | (with_reducible apply Keeps.onSen) | (refine fun t (ht : Keeps s₀ t) => ?_) | (intro (x : Packet)) | split
    | dsimp only)

theorem State.endCci_keeps {s₀ : State} {ctl : Fin 4} {done : ℕ} {reads : List Word} {s : State} (h : Keeps s₀ s) : Keeps
    s₀ (State.endCci ctl done reads s) := by
  unfold State.endCci
  repeat' (first
    | with_reducible assumption | (with_reducible apply State.hostWrite_keeps) | (with_reducible apply State.done_keeps)
    | (with_reducible apply Keeps.onSen) | split)

theorem doDisable_keeps {s₀ : State} {ring : ℕ} {s : State} (h : Keeps s₀ s) : Keeps s₀ (doDisable ring s) := by
  unfold doDisable
  repeat' (first
    | with_reducible assumption | (with_reducible apply State.runSensor_keeps) | (with_reducible apply State.bad_keeps)
    | (with_reducible apply State.noRes_keeps) | (with_reducible apply State.done_keeps)
    | (with_reducible apply Keeps.onSen) | (refine fun t (ht : Keeps s₀ t) => ?_) | (intro (x : Packet)) | split
    | dsimp only)

theorem doFsyncSchedule_keeps {s₀ : State} {ring : ℕ} {s : State} (h : Keeps s₀ s) : Keeps s₀ (doFsyncSchedule ring s) := by
  unfold doFsyncSchedule
  repeat' (first
    | with_reducible assumption | (with_reducible apply State.runPacket_keeps) | (with_reducible apply State.bad_keeps)
    | (with_reducible apply State.done_keeps) | (with_reducible apply Keeps.onSen) | (with_reducible apply Keeps.onPins)
    | (exact (fun _ => rfl : ∀ x, _ = _)) | (refine fun t (ht : Keeps s₀ t) => ?_) | (intro (x : Packet)) | split
    | dsimp only)

theorem State.placeEdge_keeps {s₀ : State} {f : Fsync} {s : State} (h : Keeps s₀ s) : Keeps s₀ ((State.placeEdge f s).2)
    := by
  unfold State.placeEdge
  repeat' (first | with_reducible assumption | (with_reducible apply State.advance_keeps))

theorem doFsyncPlacement_keeps {s₀ : State} {out : Fin 8} {s : State} (h : Keeps s₀ s) : Keeps s₀ (doFsyncPlacement out s)
    := by
  unfold doFsyncPlacement
  repeat' (first
    | with_reducible assumption | (with_reducible apply State.placeEdge_keeps) | (with_reducible apply Keeps.onSen)
    | (refine Keeps.ofTriple ?_ ?_; with_reducible assumption)
    | (intro x; refine (have hx : Keeps s₀ x.2 := ?_; ?_); rotate_left; clear_value x; rotate_right; subst x) | split
    | dsimp only)

theorem State.placeLaunchEdges_keeps {s₀ : State} {launch : ℕ} {cycle : ℕ} {s : State} (h : Keeps s₀ s) : Keeps s₀
    (State.placeLaunchEdges launch cycle s) := by
  unfold State.placeLaunchEdges
  repeat' (first | with_reducible assumption | (with_reducible apply Keeps.onSen))

theorem State.driveEdge_keeps {s₀ : State} {out : ℕ} {f : Fsync} {s : State} (h : Keeps s₀ s) : Keeps s₀ (State.driveEdge
    out f s) := by
  unfold State.driveEdge
  split
  all_goals (
  repeat' (first
    | with_reducible assumption | (with_reducible apply State.advance_keeps) | (with_reducible apply Keeps.onSen)
    | (with_reducible apply Keeps.onPins) | (exact (fun _ => rfl : ∀ x, _ = _)) | dsimp only))

theorem doFsyncEdge_keeps {s₀ : State} {out : Fin 8} {s : State} (h : Keeps s₀ s) : Keeps s₀ (doFsyncEdge out s) := by
  unfold doFsyncEdge
  repeat' (first
    | with_reducible assumption | (with_reducible apply State.driveEdge_keeps) | (with_reducible apply Keeps.onSen)
    | split | dsimp only)

theorem State.pushCopy_keeps {s₀ : State} {slot : ℕ} {m : CkcModel} {l : ℕ} {arrival : ℕ} {payload : List Byte} {s :
    State} (h : Keeps s₀ s) : Keeps s₀ (State.pushCopy slot m l arrival payload s) := by
  unfold State.pushCopy
  repeat' (first
    | with_reducible assumption | (with_reducible apply Keeps.onCkc) | (with_reducible apply Keeps.onFab)
    | (with_reducible apply circPut_canon)
    | (intro x; refine (have hx : Keeps s₀ x := ?_; ?_); rotate_left; clear_value x; rotate_right; subst x) | split
    | dsimp only)

theorem State.pushThumb_keeps {s₀ : State} {slot : ℕ} {m : CkcModel} {cam : ℕ} {w : ℕ} {hh : ℕ} {b : List Byte} {s :
    State} (h : Keeps s₀ s) : Keeps s₀ (State.pushThumb slot m cam w hh b s) := by
  unfold State.pushThumb
  repeat' (first
    | with_reducible assumption | (with_reducible apply Keeps.onCkc) | (with_reducible apply Keeps.onFab)
    | (with_reducible apply Fab.pokes_canon)
    | (intro x; refine (have hx : Keeps s₀ x := ?_; ?_); rotate_left; clear_value x; rotate_right; subst x) | split)

theorem State.takeAgreed_keeps {s₀ : State} {cls : ℕ} {v : ℕ} {s : State} (h : Keeps s₀ s) : Keeps s₀ (State.takeAgreed
    cls v s) := by
  unfold State.takeAgreed
  repeat' (first
    | with_reducible assumption | (with_reducible apply Keeps.onCkc)
    | (intro x; refine (have hx : Keeps s₀ x := ?_; ?_); rotate_left; clear_value x; rotate_right; subst x) | split
    | dsimp only)

theorem State.closeRounds_keeps {s₀ : State} {s : State} (h : Keeps s₀ s) : Keeps s₀ (State.closeRounds s) := by
  unfold State.closeRounds
  repeat' (first
    | with_reducible assumption | (with_reducible apply State.takeAgreed_keeps) | (with_reducible apply Keeps.onCkc)
    | (with_reducible apply Keeps.foldl) | (refine fun t a (ht : Keeps s₀ t) => ?_))

theorem State.failModeChange_keeps {s₀ : State} {s : State} (h : Keeps s₀ s) : Keeps s₀ (State.failModeChange s) := by
  unfold State.failModeChange
  repeat' (first
    | with_reducible assumption | (with_reducible apply State.reply_keeps) | (with_reducible apply Keeps.onCkc)
    | (with_reducible apply Keeps.foldl) | (refine fun t a (ht : Keeps s₀ t) => ?_))

theorem State.checkerFault_keeps {s₀ : State} {lane : ℕ} {rule : ℕ} {s : State} (h : Keeps s₀ s) : Keeps s₀
    (State.checkerFault lane rule s) := by
  unfold State.checkerFault
  repeat' (first
    | with_reducible assumption | (with_reducible apply State.setCkcMode_keeps) | (with_reducible apply State.latch_keeps)
    | (with_reducible apply State.suspectAtOnce_keeps) | (with_reducible apply State.failModeChange_keeps)
    | (with_reducible apply Keeps.onCkc))

theorem State.oddLane_keeps {s₀ : State} {x : ℕ} {s : State} (h : Keeps s₀ s) : Keeps s₀ (State.oddLane x s) := by
  unfold State.oddLane
  repeat' (first
    | with_reducible assumption | (with_reducible apply State.checkerFault_keeps)
    | (with_reducible apply State.note_keeps) | (with_reducible apply State.closeRounds_keeps)
    | (with_reducible apply State.setCkcMode_keeps) | (with_reducible apply Keeps.onCkc)
    | (intro x; refine (have hx : Keeps s₀ x := ?_; ?_); rotate_left; clear_value x; rotate_right; subst x) | split
    | dsimp only)

theorem State.txEffect_keeps {s₀ : State} {t : LaneTx} {mate : LaneTx} {s : State} (h : Keeps s₀ s) : Keeps s₀
    (State.txEffect t mate s) := by
  unfold State.txEffect
  repeat' (first
    | with_reducible assumption | (with_reducible apply State.closeRounds_keeps) | (with_reducible apply Keeps.onCkc)
    | (with_reducible apply Keeps.onFab) | (with_reducible apply Fab.pokes_canon)
    | (intro x; refine (have hx : Keeps s₀ x := ?_; ?_); rotate_left; clear_value x; rotate_right; subst x) | split)

theorem State.txComplete_keeps {s₀ : State} {tx : LaneTx} {mate : LaneTx} {s : State} (h : Keeps s₀ s) : Keeps s₀
    (State.txComplete tx mate s) := by
  unfold State.txComplete
  repeat' (first
    | with_reducible assumption | (with_reducible apply State.txEffect_keeps) | (with_reducible apply State.oddLane_keeps)
    | (with_reducible apply Keeps.onCkc)
    | (intro x; refine (have hx : Keeps s₀ x := ?_; ?_); rotate_left; clear_value x; rotate_right; subst x) | split
    | dsimp only)

theorem State.txPresent_keeps {s₀ : State} {tx : LaneTx} {s : State} (h : Keeps s₀ s) : Keeps s₀ (State.txPresent tx s) := by
  unfold State.txPresent
  repeat' (first
    | with_reducible assumption | (with_reducible apply State.checkerFault_keeps)
    | (with_reducible apply State.txComplete_keeps) | (with_reducible apply Keeps.onCkc) | split | dsimp only)

theorem State.txFollow_keeps {s₀ : State} {w : LaneTx} {due : ℕ} {tx : LaneTx} {s : State} (h : Keeps s₀ s) : Keeps s₀
    (State.txFollow w due tx s) := by
  unfold State.txFollow
  repeat' (first
    | with_reducible assumption | (with_reducible apply State.closeRounds_keeps) | (with_reducible apply Keeps.onCkc))

theorem doVoterTransaction_keeps {s₀ : State} {lane : Fin 3} {kind : ℕ} {addr : ℕ} {data : ℕ} {sample : ℕ} {t : ℕ}
    {eccFail : Bool} {s : State} (h : Keeps s₀ s) : Keeps s₀ (doVoterTransaction lane kind addr data sample t eccFail s)
    := by
  unfold doVoterTransaction
  repeat' (first
    | with_reducible assumption | (with_reducible apply State.advance_keeps)
    | (with_reducible apply State.checkerFault_keeps) | (with_reducible apply State.txFollow_keeps)
    | (with_reducible apply State.oddLane_keeps) | (with_reducible apply State.txPresent_keeps)
    | (with_reducible apply Keeps.onCkc)
    | (intro x; refine (have hx : Keeps s₀ x := ?_; ?_); rotate_left; clear_value x; rotate_right; subst x) | split
    | dsimp only)

theorem doOddLaneTimeout_keeps {s₀ : State} {lane : Fin 3} {s : State} (h : Keeps s₀ s) : Keeps s₀ (doOddLaneTimeout lane
    s) := by
  unfold doOddLaneTimeout
  repeat' (first
    | with_reducible assumption | (with_reducible apply State.oddLane_keeps) | (with_reducible apply State.advance_keeps)
    | (with_reducible apply State.checkerFault_keeps)
    | (intro x; refine (have hx : Keeps s₀ x := ?_; ?_); rotate_left; clear_value x; rotate_right; subst x) | split)

theorem doResyncCopyComplete_keeps {s₀ : State} {s : State} (h : Keeps s₀ s) : Keeps s₀ (doResyncCopyComplete s) := by
  unfold doResyncCopyComplete
  repeat' (first | with_reducible assumption | (with_reducible apply Keeps.onCkc) | split)

theorem State.splitBoundary_keeps {s₀ : State} {s : State} (h : Keeps s₀ s) : Keeps s₀ (State.splitBoundary s) := by
  unfold State.splitBoundary
  repeat' (first
    | with_reducible assumption | (with_reducible apply State.done_keeps) | (with_reducible apply State.closeRounds_keeps)
    | (with_reducible apply State.setCkcMode_keeps) | (with_reducible apply Keeps.onCkc)
    | (intro x; refine (have hx : Keeps s₀ x := ?_; ?_); rotate_left; clear_value x; rotate_right; subst x) | split)

theorem State.bandBoundary_keeps {s₀ : State} {s : State} (h : Keeps s₀ s) : Keeps s₀ (State.bandBoundary s) := by
  unfold State.bandBoundary
  repeat' (first
    | with_reducible assumption | (with_reducible apply State.setCkcMode_keeps) | (with_reducible apply State.done_keeps)
    | (with_reducible apply State.splitBoundary_keeps) | (with_reducible apply Keeps.onCkc)
    | (intro x; refine (have hx : Keeps s₀ x := ?_; ?_); rotate_left; clear_value x; rotate_right; subst x) | split
    | dsimp only)

theorem doBandBoundary_keeps {s₀ : State} {s : State} (h : Keeps s₀ s) : Keeps s₀ (doBandBoundary s) := by
  unfold doBandBoundary
  repeat' (first
    | with_reducible assumption | (with_reducible apply State.advance_keeps)
    | (with_reducible apply State.bandBoundary_keeps) | (with_reducible apply Keeps.onCkc)
    | (intro x; refine (have hx : Keeps s₀ x := ?_; ?_); rotate_left; clear_value x; rotate_right; subst x) | split)

theorem doCheckerSplit_keeps {s₀ : State} {ring : ℕ} {s : State} (h : Keeps s₀ s) : Keeps s₀ (doCheckerSplit ring s) := by
  unfold doCheckerSplit
  repeat' (first
    | with_reducible assumption | (with_reducible apply State.runPacket_keeps) | (with_reducible apply State.bad_keeps)
    | (with_reducible apply State.splitBoundary_keeps) | (with_reducible apply Keeps.onCkc)
    | (refine fun t (ht : Keeps s₀ t) => ?_) | (intro (x : Packet)) | split | dsimp only)

theorem State.startJoin_keeps {s₀ : State} {s : State} (h : Keeps s₀ s) : Keeps s₀ (State.startJoin s) := by
  unfold State.startJoin
  repeat' (first
    | with_reducible assumption | (with_reducible apply State.setCkcMode_keeps) | (with_reducible apply Keeps.onCkc))

theorem doCheckerJoin_keeps {s₀ : State} {ring : ℕ} {s : State} (h : Keeps s₀ s) : Keeps s₀ (doCheckerJoin ring s) := by
  unfold doCheckerJoin
  repeat' (first
    | with_reducible assumption | (with_reducible apply State.runPacket_keeps) | (with_reducible apply State.bad_keeps)
    | (with_reducible apply State.startJoin_keeps) | (with_reducible apply Keeps.onCkc)
    | (refine fun t (ht : Keeps s₀ t) => ?_) | (intro (x : Packet)) | split | dsimp only)

theorem doLaneSelftest_keeps {s₀ : State} {pass : Bool} {s : State} (h : Keeps s₀ s) : Keeps s₀ (doLaneSelftest pass s) := by
  unfold doLaneSelftest
  repeat' (first
    | with_reducible assumption | (with_reducible apply State.note_keeps) | (with_reducible apply State.startJoin_keeps)
    | (with_reducible apply State.failModeChange_keeps) | (with_reducible apply State.suspectAtOnce_keeps) | (with_reducible apply Keeps.onCkc)
    | (intro x; refine (have hx : Keeps s₀ x := ?_; ?_); rotate_left; clear_value x; rotate_right; subst x) | split
    | dsimp only)

theorem doCkcAlive_keeps {s₀ : State} {s : State} (h : Keeps s₀ s) : Keeps s₀ (doCkcAlive s) := by
  unfold doCkcAlive
  repeat' (first
    | with_reducible assumption | (with_reducible apply State.advance_keeps) | (with_reducible apply Keeps.onSaf)
    | (exact (fun _ => rfl : ∀ x, _ = _))
    | (intro x; refine (have hx : Keeps s₀ x := ?_; ?_); rotate_left; clear_value x; rotate_right; subst x) | split)

theorem State.checkTile_keeps {s₀ : State} {b : List Byte} {s : State} (h : Keeps s₀ s) : Keeps s₀ (State.checkTile b s)
    := by
  unfold State.checkTile
  repeat' (first | with_reducible assumption | (with_reducible apply Keeps.onCkc) | split)

theorem State.checkObjects_keeps {s₀ : State} {b : List Byte} {s : State} (h : Keeps s₀ s) : Keeps s₀ (State.checkObjects
    b s) := by
  unfold State.checkObjects
  repeat' (first | with_reducible assumption | (with_reducible apply Keeps.onCkc))

theorem State.checkVerdict_keeps {s₀ : State} {b : List Byte} {s : State} (h : Keeps s₀ s) : Keeps s₀ (State.checkVerdict
    b s) := by
  unfold State.checkVerdict
  repeat' (first
    | with_reducible assumption | (with_reducible apply Keeps.onCkc) | (with_reducible apply State.note_keeps)
    | (intro x; refine (have hx : Keeps s₀ x := ?_; ?_); rotate_left; clear_value x; rotate_right; subst x) | split
    | dsimp only)

theorem doTileRecordCheck_keeps {s₀ : State} {arrived : Option (List Byte)} {s : State} (h : Keeps s₀ s) : Keeps s₀
    (doTileRecordCheck arrived s) := by
  unfold doTileRecordCheck
  split
  all_goals (
  repeat' (first
    | with_reducible assumption | (with_reducible apply State.checkTile_keeps)
    | (with_reducible apply State.checkObjects_keeps) | (with_reducible apply State.checkVerdict_keeps)
    | (with_reducible apply Keeps.onEmt)
    | (intro x; refine (have hx : Keeps s₀ x := ?_; ?_); rotate_left; clear_value x; rotate_right; subst x) | split
    | dsimp only))

theorem State.dropRecord_keeps {s₀ : State} {st : Sys2Proof.Stream} {frame : ℕ} {s : State} (h : Keeps s₀ s) : Keeps s₀
    (State.dropRecord st frame s) := by
  unfold State.dropRecord
  repeat' (first | with_reducible assumption | (with_reducible apply State.note_keeps) | (with_reducible apply Keeps.onEmt))

theorem State.emitRecord_keeps {s₀ : State} {st : Sys2Proof.Stream} {off : ℕ} {frame : ℕ} {b : List Byte} {s : State} (h :
    Keeps s₀ s) : Keeps s₀ (State.emitRecord st off frame b s) := by
  unfold State.emitRecord
  repeat' (first
    | with_reducible assumption | (with_reducible apply State.dropRecord_keeps) | (with_reducible apply Keeps.onEmt)
    | (intro x; refine (have hx : Keeps s₀ x := ?_; ?_); rotate_left; clear_value x; rotate_right; subst x) | split
    | dsimp only)

theorem doRecordDelivery_keeps {s₀ : State} {st : Sys2Proof.Stream} {s : State} (h : Keeps s₀ s) : Keeps s₀
    (doRecordDelivery st s) := by
  unfold doRecordDelivery
  repeat' (first
    | with_reducible assumption | (with_reducible apply State.post_keeps) | (with_reducible apply State.ringMessage_keeps)
    | (with_reducible apply Keeps.onCpx) | (with_reducible apply Keeps.onEmt)
    | (intro x; refine (have hx : Keeps s₀ x := ?_; ?_); rotate_left; clear_value x; rotate_right; subst x) | split
    | dsimp only)

theorem State.emitObjects_keeps {s₀ : State} {f : EmitFrame} {slot : Option (List Byte)} {late : Bool} {s : State} (h :
    Keeps s₀ s) : Keeps s₀ (State.emitObjects f slot late s) := by
  unfold State.emitObjects
  repeat' (first
    | with_reducible assumption | (with_reducible apply State.emitRecord_keeps) | (with_reducible apply Keeps.onEmt))

theorem doSlotOpen_keeps {s₀ : State} {s : State} (h : Keeps s₀ s) : Keeps s₀ (doSlotOpen s) := by
  unfold doSlotOpen
  split
  all_goals (
  repeat' (first
    | with_reducible assumption | (with_reducible apply State.advance_keeps)
    | (with_reducible apply State.emitObjects_keeps) | (with_reducible apply State.latch_keeps)
    | (with_reducible apply State.emitRecord_keeps) | (with_reducible apply Keeps.onEmt)
    | (intro x; refine (have hx : Keeps s₀ x := ?_; ?_); rotate_left; clear_value x; rotate_right; subst x) | split
    | dsimp only))

theorem State.emitBand_keeps {s₀ : State} {f : EmitFrame} {invalid : Bool} {reasons : ℕ} {mask : ℕ} {s : State} (h : Keeps
    s₀ s) : Keeps s₀ (State.emitBand f invalid reasons mask s) := by
  unfold State.emitBand
  repeat' (first
    | with_reducible assumption | (with_reducible apply State.bandBoundary_keeps)
    | (with_reducible apply State.emitRecord_keeps) | (with_reducible apply Keeps.onEmt))

theorem doVerdictDeadline_keeps {s₀ : State} {s : State} (h : Keeps s₀ s) : Keeps s₀ (doVerdictDeadline s) := by
  unfold doVerdictDeadline
  split
  all_goals (
  repeat' (first
    | with_reducible assumption | (with_reducible apply State.advance_keeps) | (with_reducible apply State.emitBand_keeps)
    | (intro x; refine (have hx : Keeps s₀ x := ?_; ?_); rotate_left; clear_value x; rotate_right; subst x) | split
    | dsimp only))

theorem doBandVerdict_keeps {s₀ : State} {s : State} (h : Keeps s₀ s) : Keeps s₀ (doBandVerdict s) := by
  unfold doBandVerdict
  repeat' (first
    | with_reducible assumption | (with_reducible apply State.note_keeps) | (with_reducible apply State.emitBand_keeps)
    | (with_reducible apply Keeps.onCkc)
    | (intro x; refine (have hx : Keeps s₀ x := ?_; ?_); rotate_left; clear_value x; rotate_right; subst x) | split
    | dsimp only)

theorem doFrameVerdict_keeps {s₀ : State} {s : State} (h : Keeps s₀ s) : Keeps s₀ (doFrameVerdict s) := by
  unfold doFrameVerdict
  repeat' (first
    | with_reducible assumption | (with_reducible apply State.note_keeps) | (with_reducible apply Keeps.onCkc)
    | (with_reducible apply Keeps.onSaf) | (exact (fun _ => rfl : ∀ x, _ = _))
    | (exact fun x => by unfold Saf.addHistory; split <;> rfl)
    | (intro x; refine (have hx : Keeps s₀ x := ?_; ?_); rotate_left; clear_value x; rotate_right; subst x) | split
    | dsimp only)

theorem State.afterTrailer_keeps {s₀ : State} {f : EmitFrame} {invalid : Bool} {reasons : ℕ} {s : State} (h : Keeps s₀ s)
    : Keeps s₀ (State.afterTrailer f invalid reasons s) := by
  unfold State.afterTrailer
  repeat' (first
    | with_reducible assumption | (with_reducible apply State.note_keeps) | (with_reducible apply State.latch_keeps)
    | (with_reducible apply State.unlatch_keeps) | (with_reducible apply Keeps.onSaf)
    | (with_reducible apply Keeps.onPins) | (exact (fun _ => rfl : ∀ x, _ = _))
    | (exact fun x => by unfold Saf.addHistory; split <;> rfl)
    | (intro x; refine (have hx : Keeps s₀ x := ?_; ?_); rotate_left; clear_value x; rotate_right; subst x) | split
    | dsimp only)

theorem State.stopReply_keeps {s₀ : State} {s : State} (h : Keeps s₀ s) : Keeps s₀ (State.stopReply s) := by
  unfold State.stopReply
  repeat' (first
    | with_reducible assumption | (with_reducible apply State.done_keeps) | (with_reducible apply Keeps.onCpx) | split)

theorem doFrameTrailer_keeps {s₀ : State} {s : State} (h : Keeps s₀ s) : Keeps s₀ (doFrameTrailer s) := by
  unfold doFrameTrailer
  split
  all_goals (
  repeat' (first
    | with_reducible assumption | (with_reducible apply State.advance_keeps)
    | (with_reducible apply State.emitObjects_keeps) | (with_reducible apply State.emitRecord_keeps)
    | (with_reducible apply State.stopReply_keeps) | (with_reducible apply State.afterTrailer_keeps)
    | (with_reducible apply Keeps.onCtr) | (with_reducible apply Keeps.onEmt) | (with_reducible apply Keeps.onCkc)
    | (intro x; refine (have hx : Keeps s₀ x := ?_; ?_); rotate_left; clear_value x; rotate_right; subst x) | split
    | dsimp only))

theorem State.spiReturn_keeps {s₀ : State} {clocks : ℕ} {s : State} (h : Keeps s₀ s) : Keeps s₀ (State.spiReturn clocks s)
    := by
  unfold State.spiReturn
  repeat' (first | with_reducible assumption | (with_reducible apply Keeps.onSaf) | (exact (fun _ => rfl : ∀ x, _ = _)))

theorem State.spiAccept_keeps {s₀ : State} {f : BitVec 256} {s : State} (h : Keeps s₀ s) : Keeps s₀ (State.spiAccept f s)
    := by
  unfold State.spiAccept
  repeat' (first | with_reducible assumption | (with_reducible apply Keeps.onSaf) | (exact (fun _ => rfl : ∀ x, _ = _)))

theorem State.release_keeps {s₀ : State} {id : ℕ} {s : State} (h : Keeps s₀ s) : Keeps s₀ (State.release id s) := by
  unfold State.release
  repeat' (first
    | with_reducible assumption | (with_reducible apply Keeps.onSaf) | (exact (fun _ => rfl : ∀ x, _ = _)) | split)

theorem doNop_keeps {s₀ : State} {clocks : ℕ} {f : BitVec 256} {s : State} (h : Keeps s₀ s) : Keeps s₀ (doNop clocks f s)
    := by
  unfold doNop
  repeat' (first
    | with_reducible assumption | (with_reducible apply State.spiAccept_keeps)
    | (with_reducible apply State.spiReturn_keeps) | (with_reducible apply Keeps.onSaf)
    | (exact (fun _ => rfl : ∀ x, _ = _))
    | (intro x; refine (have hx : Keeps s₀ x := ?_; ?_); rotate_left; clear_value x; rotate_right; subst x) | split)

theorem doRelease_keeps {s₀ : State} {clocks : ℕ} {f : BitVec 256} {s : State} (h : Keeps s₀ s) : Keeps s₀ (doRelease
    clocks f s) := by
  unfold doRelease
  repeat' (first
    | with_reducible assumption | (with_reducible apply State.release_keeps)
    | (with_reducible apply State.spiAccept_keeps) | (with_reducible apply State.spiReturn_keeps) | split)

theorem doForceSafe_keeps {s₀ : State} {clocks : ℕ} {f : BitVec 256} {s : State} (h : Keeps s₀ s) : Keeps s₀ (doForceSafe
    clocks f s) := by
  unfold doForceSafe
  repeat' (first
    | with_reducible assumption | (with_reducible apply State.latch_keeps) | (with_reducible apply State.spiAccept_keeps)
    | (with_reducible apply State.spiReturn_keeps) | split)

theorem doSpiRequestDiscarded_keeps {s₀ : State} {clocks : ℕ} {f : BitVec 256} {s : State} (h : Keeps s₀ s) : Keeps s₀
    (doSpiRequestDiscarded clocks f s) := by
  unfold doSpiRequestDiscarded
  repeat' (first
    | with_reducible assumption | (with_reducible apply State.spiReturn_keeps) | (with_reducible apply Keeps.onSaf)
    | (exact (fun _ => rfl : ∀ x, _ = _)) | split)

theorem State.bindSensor_keeps {s₀ : State} {i : ℕ} {launch : ℕ} {s : State} (h : Keeps s₀ s) : Keeps s₀
    ((State.bindSensor i launch s).2) := by
  unfold State.bindSensor
  repeat' (first
    | with_reducible assumption | (with_reducible apply State.putDram_keeps) | (with_reducible apply Keeps.onSen)
    | (intro x; refine (have hx : Keeps s₀ x := ?_; ?_); rotate_left; clear_value x; rotate_right; subst x) | split)

theorem State.startRing_keeps {s₀ : State} {launch : ℕ} {r : RingEntry} {s : State} (h : Keeps s₀ s) : Keeps s₀
    ((State.startRing launch r s).2.2) := by
  unfold State.startRing
  repeat' (first
    | with_reducible assumption | (with_reducible apply State.bindSensor_keeps)
    | (refine Keeps.ofTriple ?_ ?_; with_reducible assumption) | split)

theorem State.startRings_keeps {s₀ : State} {launch : ℕ} {l : List RingEntry} {s : State} (h : Keeps s₀ s) :
    Keeps s₀ (State.startRings launch l s).2.2 := by
  induction l generalizing s with
  | nil => exact h
  | cons r rest ih => exact ih (State.startRing_keeps h)

theorem State.startProgram_keeps {s₀ : State} {c : Contract} {l : LateStart} {s : State} (h : Keeps s₀ s) : Keeps s₀
    (State.startProgram c l s) := by
  unfold State.startProgram
  repeat' (first
    | with_reducible assumption | (with_reducible apply Keeps.onCtr) | (with_reducible apply Keeps.onFab)
    | (with_reducible apply Keeps.onEvr) | (refine fun (hf : Fab.Canonical _) => ?_)
    | (with_reducible apply Fab.Canonical.mem; with_reducible assumption) | (exact (id : _ ≤ 1024 → _)))

theorem State.swapContracts_keeps {s₀ : State} {frame : ℕ} {s : State} (h : Keeps s₀ s) : Keeps s₀ (State.swapContracts
    frame s) := by
  unfold State.swapContracts
  repeat' (first
    | with_reducible assumption | (with_reducible apply State.done_keeps) | (with_reducible apply Keeps.onCtr)
    | (with_reducible apply Keeps.onCkc)
    | (intro x; refine (have hx : Keeps s₀ x := ?_; ?_); rotate_left; clear_value x; rotate_right; subst x) | split
    | dsimp only)

theorem State.firstSwap_keeps {s₀ : State} {s : State} (h : Keeps s₀ s) : Keeps s₀ (State.firstSwap s) := by
  unfold State.firstSwap
  repeat' (first
    | with_reducible assumption | (with_reducible apply State.enter_keeps)
    | (with_reducible apply State.swapContracts_keeps) | split)

theorem State.newJudge_keeps {s₀ : State} {c : Contract} {frame : ℕ} {launch : ℕ} {slot : ℕ} {swap : Bool} {bound : List
    (ℕ × Binding)} {s : State} (h : Keeps s₀ s) : Keeps s₀ (State.newJudge c frame launch slot swap bound s) := by
  unfold State.newJudge
  repeat' (first
    | with_reducible assumption | (with_reducible apply State.ckcInput_keeps) | (with_reducible apply Keeps.onCkc)
    | split)

theorem State.rebind_keeps {s₀ : State} {n : Contract} {l : LateStart} {s : State} (h : Keeps s₀ s) : Keeps s₀
    ((State.rebind n l s).2) := by
  unfold State.rebind
  lift_lets
  intro u
  have h1 : Keeps s₀ u := by
    subst u
    split
    · exact State.releaseIngest_keeps h
    · exact h
  clear_value u
  dsimp only
  split
  · exact Keeps.onCkc (Keeps.onEmt (State.startRings_keeps h1))
  · exact State.startRings_keeps h1

theorem State.boundaryStart_keeps {s₀ : State} {l : LateStart} {s : State} (h : Keeps s₀ s) : Keeps s₀
    (State.boundaryStart l s) := by
  have h1 : ∀ p : LateStart × State, p = (match s.swapReady, s.ctr.staged with
      | true, some n => let (l, s) := if l.staged then (l, s) else s.rebind n l; (l, s.swapContracts l.frame)
      | _, _ => (l, s)) → Keeps s₀ p.2 := by
    intro p e
    subst e
    split
    · dsimp only
      refine State.swapContracts_keeps ?_
      split
      · exact h
      · exact State.rebind_keeps h
    · exact h
  unfold State.boundaryStart
  dsimp only
  have h2 := h1 _ rfl
  dsimp only at h2
  split
  · exact State.startProgram_keeps (State.applyRate_keeps (State.splitBoundary_keeps h2))
  · exact h2

theorem State.launchRelease_keeps {s₀ : State} {frame : ℕ} {s : State} (h : Keeps s₀ s) : Keeps s₀ (State.launchRelease
    frame s) := by
  unfold State.launchRelease
  repeat' (first
    | with_reducible assumption | (with_reducible apply State.unlatch_keeps) | (with_reducible apply Keeps.onSaf)
    | (exact (fun _ => rfl : ∀ x, _ = _))
    | (intro x; refine (have hx : Keeps s₀ x := ?_; ?_); rotate_left; clear_value x; rotate_right; subst x) | split
    | dsimp only)

theorem State.placeLaunch_keeps {s₀ : State} {v : ℤ} {cycle : ℕ} {lo : ℕ} {s : State} (h : Keeps s₀ s) : Keeps s₀
    (State.placeLaunch v cycle lo s) := by
  unfold State.placeLaunch
  repeat' (first
    | with_reducible assumption | (with_reducible apply State.note_keeps)
    | (with_reducible apply State.placeLaunchEdges_keeps) | (with_reducible apply Keeps.onCtr) | split)

theorem doLaunch_keeps {s₀ : State} {s : State} (h : Keeps s₀ s) : Keeps s₀ (doLaunch s) := by
  unfold doLaunch
  repeat' (first
    | with_reducible assumption | (with_reducible apply State.advance_keeps) | (with_reducible apply State.preempt_keeps)
    | (with_reducible apply State.launchRelease_keeps) | (with_reducible apply State.startRings_keeps)
    | (with_reducible apply State.newJudge_keeps) | (with_reducible apply State.boundaryStart_keeps)
    | (with_reducible apply State.placeLaunch_keeps) | (with_reducible apply Keeps.onTim)
    | (with_reducible apply Keeps.onCpx) | (with_reducible apply Keeps.onCtr) | (with_reducible apply Keeps.onEmt)
    | (refine Keeps.ofTriple ?_ ?_; with_reducible assumption) | split)

theorem doPreemptionKillToken_keeps {s₀ : State} {s : State} (h : Keeps s₀ s) : Keeps s₀ (doPreemptionKillToken s) := by
  unfold doPreemptionKillToken
  repeat' (first
    | with_reducible assumption | (with_reducible apply State.advance_keeps) | (with_reducible apply State.preempt_keeps)
    | (with_reducible apply Keeps.onCpx)
    | (intro x; refine (have hx : Keeps s₀ x := ?_; ?_); rotate_left; clear_value x; rotate_right; subst x) | split)

theorem State.launchFirst_keeps {s₀ : State} {pk : Packet} {v : ℤ} {c : Contract} {s : State} (h : Keeps s₀ s) : Keeps s₀
    (State.launchFirst pk v c s) := by
  unfold State.launchFirst
  repeat' (first
    | with_reducible assumption | (with_reducible apply State.placeLaunch_keeps) | (with_reducible apply State.done_keeps)
    | (with_reducible apply Keeps.onTim))

theorem doLaunchAt_keeps {s₀ : State} {ring : ℕ} {s : State} (h : Keeps s₀ s) : Keeps s₀ (doLaunchAt ring s) := by
  unfold doLaunchAt
  repeat' (first
    | with_reducible assumption | (with_reducible apply State.runPacket_keeps) | (with_reducible apply State.bad_keeps)
    | (with_reducible apply State.launchFirst_keeps) | (with_reducible apply State.done_keeps)
    | (with_reducible apply Keeps.onTim) | (with_reducible apply Keeps.onCtr) | (refine fun t (ht : Keeps s₀ t) => ?_)
    | (intro (x : Packet)) | split | dsimp only)

theorem State.copyEvidence_keeps {s₀ : State} {o : Contract} {n : Contract} {s : State} (h : Keeps s₀ s) : Keeps s₀
    (State.copyEvidence o n s) := by
  unfold State.copyEvidence
  repeat' (first
    | with_reducible assumption | (with_reducible apply State.pushThumb_keeps)
    | (with_reducible apply State.pushCopy_keeps) | (with_reducible apply Keeps.onCkc)
    | (with_reducible apply Keeps.foldl) | (refine fun t a (ht : Keeps s₀ t) => ?_))

theorem doArmContract_keeps {s₀ : State} {ring : ℕ} {s : State} (h : Keeps s₀ s) : Keeps s₀ (doArmContract ring s) := by
  unfold doArmContract
  repeat' (first
    | with_reducible assumption | (with_reducible apply State.runPacket_keeps) | (with_reducible apply State.bad_keeps)
    | (with_reducible apply State.noRes_keeps) | (with_reducible apply State.reply_keeps)
    | (with_reducible apply State.firstSwap_keeps) | (with_reducible apply State.copyEvidence_keeps)
    | (with_reducible apply Keeps.onCtr) | (refine fun t (ht : Keeps s₀ t) => ?_) | (intro (x : Packet)) | split)

theorem doStopFrames_keeps {s₀ : State} {ring : ℕ} {s : State} (h : Keeps s₀ s) : Keeps s₀ (doStopFrames ring s) := by
  unfold doStopFrames
  repeat' (first
    | with_reducible assumption | (with_reducible apply State.runPacket_keeps) | (with_reducible apply State.bad_keeps)
    | (with_reducible apply State.cancelLaunches_keeps) | (with_reducible apply State.splitBoundary_keeps)
    | (with_reducible apply State.done_keeps) | (with_reducible apply State.stopReply_keeps)
    | (with_reducible apply Keeps.onCpx) | (refine fun t (ht : Keeps s₀ t) => ?_) | (intro (x : Packet)) | split
    | dsimp only)

theorem doProgramAborted_keeps {s₀ : State} {s : State} (h : Keeps s₀ s) : Keeps s₀ (doProgramAborted s) := by
  unfold doProgramAborted
  repeat' (first
    | with_reducible assumption | (with_reducible apply State.note_keeps) | (with_reducible apply State.stopProgram_keeps)
    | (with_reducible apply State.stopReply_keeps) | (with_reducible apply State.splitBoundary_keeps)
    | (with_reducible apply Keeps.onCpx)
    | (intro x; refine (have hx : Keeps s₀ x := ?_; ?_); rotate_left; clear_value x; rotate_right; subst x) | split)

theorem doDrainComplete_keeps {s₀ : State} {s : State} (h : Keeps s₀ s) : Keeps s₀ (doDrainComplete s) := by
  unfold doDrainComplete
  split
  · exact State.raise_keeps (State.enter_keeps (State.snapshot_keeps (State.unloadContracts_keeps (State.splitBoundary_keeps h))))
  · exact h

theorem State.setCamera_keeps {s₀ : State} {i : ℕ} {c : Camera} {s : State} (h : Keeps s₀ s) : Keeps s₀ (State.setCamera i
    c s) := by
  unfold State.setCamera
  repeat' (first | with_reducible assumption | (with_reducible apply Keeps.onSen))

theorem State.countCsi_keeps {s₀ : State} {port : ℕ} {k : ℕ} {s : State} (h : Keeps s₀ s) : Keeps s₀ (State.countCsi port
    k s) := by
  unfold State.countCsi
  repeat' (first | with_reducible assumption | (with_reducible apply Keeps.onSen))

theorem State.engineGood_keeps {s₀ : State} {e : ℕ} {s : State} (h : Keeps s₀ s) : Keeps s₀ (State.engineGood e s) := by
  unfold State.engineGood
  repeat' (first | with_reducible assumption | (with_reducible apply Keeps.onSen))

theorem State.takeCamNext_keeps {s₀ : State} {i : ℕ} {s : State} (h : Keeps s₀ s) : Keeps s₀ (State.takeCamNext i s) := by
  unfold State.takeCamNext
  repeat' (first | with_reducible assumption | (with_reducible apply Keeps.onSen) | split)

theorem State.abandonOpen_keeps {s₀ : State} {i : ℕ} {s : State} (h : Keeps s₀ s) : Keeps s₀ (State.abandonOpen i s) := by
  unfold State.abandonOpen
  repeat' (first
    | with_reducible assumption | (with_reducible apply State.engineGood_keeps)
    | (with_reducible apply State.setCamera_keeps) | split)

theorem State.startFrame_keeps {s₀ : State} {port : ℕ} {vc : ℕ} {t : ℕ} {s : State} (h : Keeps s₀ s) : Keeps s₀
    (State.startFrame port vc t s) := by
  unfold State.startFrame
  repeat' (first
    | with_reducible assumption | (with_reducible apply State.abandonOpen_keeps)
    | (with_reducible apply State.takeCamNext_keeps) | (with_reducible apply State.setCamera_keeps)
    | (intro x; refine (have hx : Keeps s₀ x := ?_; ?_); rotate_left; clear_value x; rotate_right; subst x) | split
    | dsimp only)

theorem State.takePacket_keeps {s₀ : State} {port : ℕ} {vc : ℕ} {dt : ℕ} {p : Option (List Byte)} {s : State} (h : Keeps
    s₀ s) : Keeps s₀ (State.takePacket port vc dt p s) := by
  unfold State.takePacket
  repeat' (first
    | with_reducible assumption | (with_reducible apply State.countCsi_keeps)
    | (with_reducible apply State.setCamera_keeps)
    | (intro x; refine (have hx : Keeps s₀ x := ?_; ?_); rotate_left; clear_value x; rotate_right; subst x) | split)

theorem State.endFrame_keeps {s₀ : State} {port : ℕ} {vc : ℕ} {t : ℕ} {s : State} (h : Keeps s₀ s) : Keeps s₀
    (State.endFrame port vc t s) := by
  unfold State.endFrame
  repeat' (first
    | with_reducible assumption | (with_reducible apply State.setCamera_keeps)
    | (with_reducible apply State.engineGood_keeps) | split | dsimp only)

theorem State.takeItem_keeps {s₀ : State} {port : ℕ} {i : CsiItem} {s : State} (h : Keeps s₀ s) : Keeps s₀ (State.takeItem
    port i s) := by
  unfold State.takeItem
  repeat' (first
    | with_reducible assumption | (with_reducible apply State.startFrame_keeps)
    | (with_reducible apply State.takePacket_keeps) | (with_reducible apply State.endFrame_keeps) | split)

theorem State.drainCsi_keeps {s₀ : State} {port : ℕ} {l : List CsiItem} {s : State} (h : Keeps s₀ s) :
    Keeps s₀ (State.drainCsi port l s) := by
  induction l generalizing s with
  | nil => exact Keeps.onSen h
  | cons i r ih =>
    unfold State.drainCsi
    split
    · exact Keeps.onSen h
    · exact ih (State.takeItem_keeps h)

theorem State.csiArrive_keeps {s₀ : State} {port : ℕ} {i : CsiItem} {s : State} (h : Keeps s₀ s) : Keeps s₀
    (State.csiArrive port i s) := by
  unfold State.csiArrive
  repeat' (first | with_reducible assumption | (with_reducible apply State.drainCsi_keeps))

theorem State.frameEvent_keeps {s₀ : State} {port : ℕ} {vc : ℕ} {isEnd : Bool} {t : ℕ} {s : State} (h : Keeps s₀ s) :
    Keeps s₀ (State.frameEvent port vc isEnd t s) := by
  unfold State.frameEvent
  repeat' (first
    | with_reducible assumption | (with_reducible apply State.advance_keeps)
    | (with_reducible apply State.csiArrive_keeps) | (with_reducible apply State.ckcInput_keeps)
    | (intro x; refine (have hx : Keeps s₀ x := ?_; ?_); rotate_left; clear_value x; rotate_right; subst x) | split)

theorem doFrameStart_keeps {s₀ : State} {port : Fin 8} {vc : Fin 16} {t : ℕ} {s : State} (h : Keeps s₀ s) : Keeps s₀
    (doFrameStart port vc t s) := by
  unfold doFrameStart
  repeat' (first | with_reducible assumption | (with_reducible apply State.frameEvent_keeps))

theorem doFrameEnd_keeps {s₀ : State} {port : Fin 8} {vc : Fin 16} {t : ℕ} {s : State} (h : Keeps s₀ s) : Keeps s₀
    (doFrameEnd port vc t s) := by
  unfold doFrameEnd
  repeat' (first | with_reducible assumption | (with_reducible apply State.frameEvent_keeps))

theorem doLongPacket_keeps {s₀ : State} {port : Fin 8} {vc : Fin 16} {dt : ℕ} {ecc : HeaderEcc} {crcOk : Bool} {p : List
    Byte} {s : State} (h : Keeps s₀ s) : Keeps s₀ (doLongPacket port vc dt ecc crcOk p s) := by
  unfold doLongPacket
  repeat' (first
    | with_reducible assumption | (with_reducible apply State.countCsi_keeps)
    | (with_reducible apply State.csiArrive_keeps)
    | (intro x; refine (have hx : Keeps s₀ x := ?_; ?_); rotate_left; clear_value x; rotate_right; subst x) | split
    | dsimp only)

theorem State.putThumb_keeps {s₀ : State} {cam : ℕ} {w : ℕ} {hh : ℕ} {vals : List ℕ} {s : State} (h : Keeps s₀ s) : Keeps
    s₀ (State.putThumb cam w hh vals s) := by
  unfold State.putThumb
  repeat' (first
    | with_reducible assumption | (with_reducible apply State.pushThumb_keeps) | (with_reducible apply Keeps.foldl)
    | (refine fun t a (ht : Keeps s₀ t) => ?_))

theorem State.ingestEcc_keeps {s₀ : State} {e : ℕ} {u : UnitId} {sensor : ℕ} {addr : ℕ} {s : State} (h : Keeps s₀ s) :
    Keeps s₀ (State.ingestEcc e u sensor addr s) := by
  unfold State.ingestEcc
  repeat' (first
    | with_reducible assumption | (with_reducible apply State.countErr_keeps)
    | (with_reducible apply State.recordFault_keeps) | (with_reducible apply State.suspect_keeps)
    | (with_reducible apply Keeps.onSen)
    | (intro x; refine (have hx : Keeps s₀ x := ?_; ?_); rotate_left; clear_value x; rotate_right; subst x) | split
    | dsimp only)

theorem State.commitCamera_keeps {s₀ : State} {i : ℕ} {c : Camera} {f : CamFrame} {k : ℕ} {measured : Option Word} {s :
    State} (h : Keeps s₀ s) : Keeps s₀ (State.commitCamera i c f k measured s) := by
  unfold State.commitCamera
  repeat' (first
    | with_reducible assumption | (with_reducible apply State.putDram_keeps)
    | (with_reducible apply State.engineGood_keeps) | (with_reducible apply State.setCamera_keeps)
    | (with_reducible apply State.putThumb_keeps) | (with_reducible apply State.note_keeps)
    | (intro x; refine (have hx : Keeps s₀ x := ?_; ?_); rotate_left; clear_value x; rotate_right; subst x) | split
    | dsimp only)

theorem State.loseFrame_keeps {s₀ : State} {i : ℕ} {c : Camera} {f : CamFrame} {addr : ℕ} {s : State} (h : Keeps s₀ s) :
    Keeps s₀ (State.loseFrame i c f addr s) := by
  unfold State.loseFrame
  repeat' (first
    | with_reducible assumption | (with_reducible apply State.ingestEcc_keeps)
    | (with_reducible apply State.setCamera_keeps))

theorem doTestFrameComplete_keeps {s₀ : State} {cam : Fin 24} {ecc : Option ℕ} {measured : Option Word} {s : State} (h :
    Keeps s₀ s) : Keeps s₀ (doTestFrameComplete cam ecc measured s) := by
  unfold doTestFrameComplete
  repeat' (first
    | with_reducible assumption | (with_reducible apply State.loseFrame_keeps)
    | (with_reducible apply State.commitCamera_keeps) | (with_reducible apply State.setCamera_keeps)
    | (with_reducible apply State.drainCsi_keeps)
    | (intro x; refine (have hx : Keeps s₀ x := ?_; ?_); rotate_left; clear_value x; rotate_right; subst x) | split)

theorem State.setSensorLink_keeps {s₀ : State} {p : SensorPort} {up : Bool} {s : State} (h : Keeps s₀ s) : Keeps s₀
    (State.setSensorLink p up s) := by
  unfold State.setSensorLink
  repeat' (first | with_reducible assumption | (with_reducible apply Keeps.onSen) | split)

theorem State.setLidar_keeps {s₀ : State} {i : ℕ} {l : Lidar} {s : State} (h : Keeps s₀ s) : Keeps s₀ (State.setLidar i l
    s) := by
  unfold State.setLidar
  repeat' (first | with_reducible assumption | (with_reducible apply Keeps.onSen))

theorem State.countEth_keeps {s₀ : State} {port : ℕ} {reason : ℕ} {s : State} (h : Keeps s₀ s) : Keeps s₀ (State.countEth
    port reason s) := by
  unfold State.countEth
  repeat' (first | with_reducible assumption | (with_reducible apply Keeps.onSen))

theorem State.copyLidar_keeps {s₀ : State} {l : ℕ} {payload : List Byte} {arrival : ℕ} {s : State} (h : Keeps s₀ s) :
    Keeps s₀ (State.copyLidar l payload arrival s) := by
  unfold State.copyLidar
  repeat' (first
    | with_reducible assumption | (with_reducible apply State.pushCopy_keeps) | (with_reducible apply Keeps.foldl)
    | (refine fun t a (ht : Keeps s₀ t) => ?_))

theorem State.onLidar_keeps {s₀ : State} {i : ℕ} {f : Lidar → Lidar} {s : State} (h : Keeps s₀ s) : Keeps s₀
    (State.onLidar i f s) := by
  unfold State.onLidar
  repeat' (first | with_reducible assumption | (with_reducible apply Keeps.onSen))

theorem State.lidarPoints_keeps {s₀ : State} {i : ℕ} {port : ℕ} {d : Datagram} {s : State} (h : Keeps s₀ s) : Keeps s₀
    (State.lidarPoints i port d s) := by
  unfold State.lidarPoints
  repeat' (first
    | with_reducible assumption | (with_reducible apply State.setLidar_keeps)
    | (with_reducible apply State.countEth_keeps) | (with_reducible apply Keeps.onSen)
    | (intro x; refine (have hx : Keeps s₀ x := ?_; ?_); rotate_left; clear_value x; rotate_right; subst x) | split
    | dsimp only)

theorem doLidarDatagram_keeps {s₀ : State} {port : Fin 4} {frame : List Byte} {full : Bool} {t : ℕ} {s : State} (h : Keeps
    s₀ s) : Keeps s₀ (doLidarDatagram port frame full t s) := by
  unfold doLidarDatagram
  repeat' (first
    | with_reducible assumption | (with_reducible apply State.advance_keeps) | (with_reducible apply State.countEth_keeps)
    | (with_reducible apply State.onLidar_keeps) | (with_reducible apply State.copyLidar_keeps)
    | (with_reducible apply State.lidarPoints_keeps)
    | (intro x; refine (have hx : Keeps s₀ x := ?_; ?_); rotate_left; clear_value x; rotate_right; subst x) | split
    | dsimp only)

theorem State.takeLidNext_keeps {s₀ : State} {i : ℕ} {s : State} (h : Keeps s₀ s) : Keeps s₀ (State.takeLidNext i s) := by
  unfold State.takeLidNext
  repeat' (first | with_reducible assumption | (with_reducible apply Keeps.onSen) | split)

theorem doLidarWindowOpen_keeps {s₀ : State} {i : ℕ} {s : State} (h : Keeps s₀ s) : Keeps s₀ (doLidarWindowOpen i s) := by
  unfold doLidarWindowOpen
  repeat' (first
    | with_reducible assumption | (with_reducible apply State.takeLidNext_keeps)
    | (with_reducible apply State.advance_keeps) | (with_reducible apply State.setLidar_keeps)
    | (intro x; refine (have hx : Keeps s₀ x := ?_; ?_); rotate_left; clear_value x; rotate_right; subst x) | split
    | dsimp only)

theorem State.commitWindow_keeps {s₀ : State} {i : ℕ} {l : Lidar} {old : Bool} {w : Window} {k : ℕ} {s : State} (h : Keeps
    s₀ s) : Keeps s₀ (State.commitWindow i l old w k s) := by
  unfold State.commitWindow
  repeat' (first
    | with_reducible assumption | (with_reducible apply State.putDram_keeps)
    | (with_reducible apply State.engineGood_keeps) | (with_reducible apply Keeps.onSen))

theorem doLidarWindowCommit_keeps {s₀ : State} {i : ℕ} {ecc : Option ℕ} {s : State} (h : Keeps s₀ s) : Keeps s₀
    (doLidarWindowCommit i ecc s) := by
  unfold doLidarWindowCommit
  repeat' (first
    | with_reducible assumption | (with_reducible apply State.advance_keeps)
    | (with_reducible apply State.commitWindow_keeps) | (with_reducible apply State.ingestEcc_keeps)
    | (with_reducible apply Keeps.onSen)
    | (intro x; refine (have hx : Keeps s₀ x := ?_; ?_); rotate_left; clear_value x; rotate_right; subst x) | split)

theorem State.pwrRequest_keeps {s₀ : State} {body : State → State} {s : State} (h : Keeps s₀ s) (hbody : ∀  t, Keeps s₀ t
    → Keeps s₀ (body  t)) : Keeps s₀ (State.pwrRequest body s) := by
  unfold State.pwrRequest
  repeat' (first | with_reducible assumption | (with_reducible apply Keeps.onPwr) | (with_reducible apply hbody) | split)

theorem doDomainOff_keeps {s₀ : State} {d : ℕ} {s : State} (h : Keeps s₀ s) : Keeps s₀ (doDomainOff d s) := by
  unfold doDomainOff
  repeat' (first
    | with_reducible assumption | (with_reducible apply State.pwrRequest_keeps)
    | (with_reducible apply State.pwrEnd_keeps) | (with_reducible apply Keeps.onPwr)
    | (refine fun t (ht : Keeps s₀ t) => ?_) | split)

theorem doDomainOn_keeps {s₀ : State} {d : ℕ} {s : State} (h : Keeps s₀ s) : Keeps s₀ (doDomainOn d s) := by
  unfold doDomainOn
  repeat' (first
    | with_reducible assumption | (with_reducible apply State.pwrRequest_keeps)
    | (with_reducible apply State.pwrEnd_keeps) | (with_reducible apply Keeps.onPwr)
    | (refine fun t (ht : Keeps s₀ t) => ?_) | split)

theorem doPowerGateOpen_keeps {s₀ : State} {d : ℕ} {s : State} (h : Keeps s₀ s) : Keeps s₀ (doPowerGateOpen d s) := by
  unfold doPowerGateOpen
  repeat' (first
    | with_reducible assumption | (with_reducible apply State.gateOff_keeps) | (with_reducible apply State.pwrEnd_keeps)
    | (intro x; refine (have hx : Keeps s₀ x := ?_; ?_); rotate_left; clear_value x; rotate_right; subst x) | split
    | dsimp only)

theorem doRateTarget_keeps {s₀ : State} {rate : ℕ} {s : State} (h : Keeps s₀ s) : Keeps s₀ (doRateTarget rate s) := by
  unfold doRateTarget
  repeat' (first
    | with_reducible assumption | (with_reducible apply State.pwrRequest_keeps)
    | (with_reducible apply State.pwrEnd_keeps) | (with_reducible apply State.rateChanged_keeps)
    | (with_reducible apply Keeps.onPwr) | (refine fun t (ht : Keeps s₀ t) => ?_) | split)

theorem State.enterParked_keeps {s₀ : State} {s : State} (h : Keeps s₀ s) : Keeps s₀ (State.enterParked s) := by
  unfold State.enterParked
  repeat' (first
    | with_reducible assumption | (with_reducible apply State.gateOffEnd_keeps) | (with_reducible apply State.enter_keeps)
    | (with_reducible apply Keeps.onHif) | (with_reducible apply Keeps.onPwr) | (with_reducible apply Keeps.onSen)
    | (with_reducible apply Keeps.onFab) | (with_reducible apply Fab.cachesOff_canon))

theorem doPark_keeps {s₀ : State} {s : State} (h : Keeps s₀ s) : Keeps s₀ (doPark s) := by
  unfold doPark
  repeat' (first
    | with_reducible assumption | (with_reducible apply State.pwrRequest_keeps)
    | (with_reducible apply State.enterParked_keeps) | (with_reducible apply State.pwrEnd_keeps)
    | (with_reducible apply State.unloadContracts_keeps) | (with_reducible apply State.latch_keeps)
    | (refine fun t (ht : Keeps s₀ t) => ?_) | split)

theorem State.leaveParked_keeps {s₀ : State} {s : State} (h : Keeps s₀ s) : Keeps s₀ (State.leaveParked s) := by
  unfold State.leaveParked
  repeat' (first | with_reducible assumption | (with_reducible apply Keeps.onPwr) | split)

theorem State.wakeDone_keeps {s₀ : State} {s : State} (h : Keeps s₀ s) : Keeps s₀ (State.wakeDone s) := by
  unfold State.wakeDone
  repeat' (first
    | with_reducible assumption | (with_reducible apply State.enter_keeps) | (with_reducible apply Keeps.onCpx)
    | (with_reducible apply Keeps.onPwr)
    | (intro x; refine (have hx : Keeps s₀ x := ?_; ?_); rotate_left; clear_value x; rotate_right; subst x) | split)

theorem State.domainUp_keeps {s₀ : State} {d : ℕ} {s : State} (h : Keeps s₀ s) : Keeps s₀ (State.domainUp d s) := by
  unfold State.domainUp
  dsimp only
  split
  · exact State.pwrEnd_keeps (Keeps.onPwr (State.powerOn_keeps (Keeps.onPwr h)))
  · exact Keeps.onPwr (State.powerOn_keeps (Keeps.onPwr h))

theorem doDomainSwitchComplete_keeps {s₀ : State} {d : ℕ} {s : State} (h : Keeps s₀ s) :
    Keeps s₀ (doDomainSwitchComplete d s) := by
  unfold doDomainSwitchComplete
  split
  · exact State.wakeDone_keeps (State.boundary_keeps (State.domainUp_keeps h))
  · exact h

theorem doRateMonitorWindow_keeps {s₀ : State} {rates : List ℕ} {s : State} (h : Keeps s₀ s) : Keeps s₀
    (doRateMonitorWindow rates s) := by
  unfold doRateMonitorWindow
  repeat' (first
    | with_reducible assumption | (with_reducible apply State.advance_keeps)
    | (with_reducible apply State.recordFault_keeps) | (with_reducible apply State.firstSwap_keeps)
    | (with_reducible apply State.boundary_keeps) | (with_reducible apply Keeps.onPwr)
    | (with_reducible apply Keeps.onEvr) | (with_reducible apply Keeps.foldl) | (exact (id : _ ≤ 1024 → _))
    | (refine fun t a (ht : Keeps s₀ t) => ?_)
    | (intro x; refine (have hx : Keeps s₀ x := ?_; ?_); rotate_left; clear_value x; rotate_right; subst x) | split)

theorem doSentinelFlag_keeps {s₀ : State} {u : UnitId} {index : ℕ} {raised : Bool} {s : State} (h : Keeps s₀ s) : Keeps s₀
    (doSentinelFlag u index raised s) := by
  unfold doSentinelFlag
  repeat' (first
    | with_reducible assumption | (with_reducible apply State.countErr_keeps) | (with_reducible apply Keeps.onPwr)
    | (intro x; refine (have hx : Keeps s₀ x := ?_; ?_); rotate_left; clear_value x; rotate_right; subst x) | split)

theorem doEmtMarginExpiry_keeps {s₀ : State} {s : State} (h : Keeps s₀ s) : Keeps s₀ (doEmtMarginExpiry s) := by
  unfold doEmtMarginExpiry
  repeat' (first
    | with_reducible assumption | (with_reducible apply State.advance_keeps) | (with_reducible apply Keeps.onPwr) | split
    | dsimp only)

theorem State.stageNoted_keeps {s₀ : State} {i n : ℕ} {s : State} (h : Keeps s₀ s) : Keeps s₀ (State.stageNoted i n s) :=
  Keeps.onPwr h

theorem doBelowFloor_keeps {s₀ : State} {u : UnitId} {s : State} (h : Keeps s₀ s) : Keeps s₀ (doBelowFloor u s) := by
  unfold doBelowFloor
  repeat' (first
    | with_reducible assumption | (with_reducible apply State.note_keeps) | (with_reducible apply State.suspect_keeps)
    | (with_reducible apply State.stageNoted_keeps)
    | (intro x; refine (have hx : Keeps s₀ x := ?_; ?_); rotate_left; clear_value x; rotate_right; subst x)
    | split | dsimp only)

theorem doSupplyLoopEvaluation_keeps {s₀ : State} {readMv : Option ℕ} {alert : Bool} {s : State} (h : Keeps s₀ s) : Keeps
    s₀ (doSupplyLoopEvaluation readMv alert s) := by
  unfold doSupplyLoopEvaluation
  repeat' (first
    | with_reducible assumption | (with_reducible apply State.advance_keeps) | (with_reducible apply State.note_keeps)
    | (with_reducible apply State.applyRate_keeps) | (with_reducible apply Keeps.onPwr)
    | (intro x; refine (have hx : Keeps s₀ x := ?_; ?_); rotate_left; clear_value x; rotate_right; subst x) | split
    | dsimp only)

theorem doAvsbusTimeout_keeps {s₀ : State} {s : State} (h : Keeps s₀ s) : Keeps s₀ (doAvsbusTimeout s) := by
  unfold doAvsbusTimeout
  repeat' (first
    | with_reducible assumption | (with_reducible apply State.advance_keeps) | (with_reducible apply State.note_keeps)
    | (with_reducible apply Keeps.onPwr)
    | (intro x; refine (have hx : Keeps s₀ x := ?_; ?_); rotate_left; clear_value x; rotate_right; subst x) | split)

theorem State.capToFloor_keeps {s₀ : State} {s : State} (h : Keeps s₀ s) : Keeps s₀ (State.capToFloor s) := by
  unfold State.capToFloor
  repeat' (first
    | with_reducible assumption | (with_reducible apply State.rateChanged_keeps) | (with_reducible apply Keeps.onPwr))

theorem State.thermalEvent_keeps {s₀ : State} {k : ℕ} {sensor : ℕ} {v : ℤ} {s : State} (h : Keeps s₀ s) : Keeps s₀
    (State.thermalEvent k sensor v s) := by
  unfold State.thermalEvent
  repeat' (first
    | with_reducible assumption | (with_reducible apply State.note_keeps) | (with_reducible apply State.raise_keeps))

theorem State.thermalCheck_keeps {s₀ : State} {s : State} (h : Keeps s₀ s) : Keeps s₀ (State.thermalCheck s) := by
  unfold State.thermalCheck
  repeat' (first
    | with_reducible assumption | (with_reducible apply State.thermalEvent_keeps)
    | (with_reducible apply State.capToFloor_keeps) | (with_reducible apply Keeps.onPwr) | split)

theorem doMonitorSample_keeps {s₀ : State} {tj : List ℤ} {supply : List ℕ} {s : State} (h : Keeps s₀ s) : Keeps s₀
    (doMonitorSample tj supply s) := by
  unfold doMonitorSample
  repeat' (first
    | with_reducible assumption | (with_reducible apply State.advance_keeps) | (with_reducible apply State.note_keeps)
    | (with_reducible apply State.leaveParked_keeps) | (with_reducible apply State.thermalCheck_keeps)
    | (with_reducible apply Keeps.onPwr) | (with_reducible apply Keeps.onEvr) | (exact (id : _ ≤ 1024 → _))
    | (intro x; refine (have hx : Keeps s₀ x := ?_; ?_); rotate_left; clear_value x; rotate_right; subst x) | split)

theorem doThermalCapStep_keeps {s₀ : State} {s : State} (h : Keeps s₀ s) : Keeps s₀ (doThermalCapStep s) := by
  unfold doThermalCapStep
  repeat' (first
    | with_reducible assumption | (with_reducible apply State.advance_keeps)
    | (with_reducible apply State.rateChanged_keeps) | (with_reducible apply Keeps.onPwr)
    | (intro x; refine (have hx : Keeps s₀ x := ?_; ?_); rotate_left; clear_value x; rotate_right; subst x) | split)

theorem doThermalTrip_keeps {s₀ : State} {s : State} (h : Keeps s₀ s) : Keeps s₀ (doThermalTrip s) := by
  unfold doThermalTrip
  repeat' (first
    | with_reducible assumption | (with_reducible apply State.advance_keeps)
    | (with_reducible apply State.thermalEvent_keeps) | (with_reducible apply State.unloadContracts_keeps)
    | (with_reducible apply State.splitBoundary_keeps) | (with_reducible apply State.latch_keeps) | (with_reducible apply State.stopProgram_keeps)
    | (with_reducible apply State.preempt_keeps) | (with_reducible apply State.cancelLaunches_keeps)
    | (with_reducible apply State.enterParked_keeps) | (with_reducible apply Keeps.onPwr)
    | (intro x; refine (have hx : Keeps s₀ x := ?_; ?_); rotate_left; clear_value x; rotate_right; subst x) | split)

theorem doMr4Read_keeps {s₀ : State} {hottest : ℕ} {channel : ℕ} {hot : Bool} {s : State} (h : Keeps s₀ s) : Keeps s₀
    (doMr4Read hottest channel hot s) := by
  unfold doMr4Read
  repeat' (first
    | with_reducible assumption | (with_reducible apply State.advance_keeps)
    | (with_reducible apply State.capToFloor_keeps) | (with_reducible apply State.note_keeps)
    | (with_reducible apply Keeps.onPwr)
    | (intro x; refine (have hx : Keeps s₀ x := ?_; ?_); rotate_left; clear_value x; rotate_right; subst x) | split)

theorem doPatrolScrub_keeps {s₀ : State} {addr : ℕ} {found : Scrub} {s : State} (h : Keeps s₀ s) : Keeps s₀ (doPatrolScrub
    addr found s) := by
  unfold doPatrolScrub
  repeat' (first
    | with_reducible assumption | (with_reducible apply State.countErr_keeps)
    | (with_reducible apply State.faultNoUnit_keeps) | (with_reducible apply Keeps.onPwr)
    | (intro x; refine (have hx : Keeps s₀ x := ?_; ?_); rotate_left; clear_value x; rotate_right; subst x) | split)

theorem doEccWriteBack_keeps {s₀ : State} {u : EccWrite} {s : State} (h : Keeps s₀ s) : Keeps s₀ (doEccWriteBack u s) := by
  unfold doEccWriteBack
  repeat' (first
    | with_reducible assumption | (with_reducible apply State.countErr_keeps) | (with_reducible apply State.note_keeps)
    | (intro x; refine (have hx : Keeps s₀ x := ?_; ?_); rotate_left; clear_value x; rotate_right; subst x) | split)

theorem doDiscover_keeps {s₀ : State} {ring : ℕ} {s : State} (h : Keeps s₀ s) : Keeps s₀ (doDiscover ring s) := by
  unfold doDiscover
  repeat' (first
    | with_reducible assumption | (with_reducible apply State.runPacket_keeps) | (with_reducible apply State.bad_keeps)
    | (with_reducible apply State.powerOn_keeps) | (with_reducible apply Keeps.onMss)
    | (refine fun t (ht : Keeps s₀ t) => ?_) | (intro (x : Packet)) | split | dsimp only)

theorem doDiscoverComplete_keeps {s₀ : State} {o : Observation} {s : State} (h : Keeps s₀ s) : Keeps s₀
    (doDiscoverComplete o s) := by
  unfold doDiscoverComplete
  repeat' (first
    | with_reducible assumption | (with_reducible apply State.advance_keeps) | (with_reducible apply State.gateOffEnd_keeps)
    | (with_reducible apply State.noRes_keeps) | (with_reducible apply State.done_keeps)
    | (with_reducible apply State.hostWrite_keeps) | (with_reducible apply Keeps.onMss)
    | (intro x; refine (have hx : Keeps s₀ x := ?_; ?_); rotate_left; clear_value x; rotate_right; subst x) | split
    | dsimp only)

theorem State.dropChallenge_keeps {s₀ : State} {p : ℕ} {s : State} (h : Keeps s₀ s) : Keeps s₀ (State.dropChallenge p s)
    := by
  unfold State.dropChallenge
  repeat' (first | with_reducible assumption | (with_reducible apply Keeps.onSec) | (exact Sec.FusesStay.same rfl rfl rfl))

theorem doAuthChallenge_keeps {s₀ : State} {ring : ℕ} {s : State} (h : Keeps s₀ s) : Keeps s₀ (doAuthChallenge ring s) := by
  unfold doAuthChallenge
  repeat' (first
    | with_reducible assumption | (with_reducible apply State.runPacket_keeps) | (with_reducible apply State.bad_keeps)
    | (with_reducible apply State.done_keeps) | (with_reducible apply State.hostWrite_keeps)
    | (with_reducible apply Keeps.onSec) | (exact Sec.FusesStay.same rfl rfl rfl) | (refine fun t (ht : Keeps s₀ t) => ?_)
    | (intro (x : Packet)) | split | dsimp only)

theorem doChallengeExpiry_keeps {s₀ : State} {p : Fin 4} {s : State} (h : Keeps s₀ s) : Keeps s₀ (doChallengeExpiry p s)
    := by
  unfold doChallengeExpiry
  repeat' (first
    | with_reducible assumption | (with_reducible apply State.dropChallenge_keeps)
    | (with_reducible apply State.advance_keeps) | split)

theorem State.examine_keeps {s₀ : State} {p : ℕ} {size : ℕ} {auth : List Byte} {sigOk : Bool} {s : State} (h : Keeps s₀ s)
    : Keeps s₀ ((State.examine p size auth sigOk s).2) := by
  unfold State.examine
  repeat' (first
    | with_reducible assumption | (with_reducible apply State.dropChallenge_keeps)
    | (with_reducible apply State.note_keeps) | split)

theorem State.authorised_keeps {s₀ : State} {pk : Packet} {p : ℕ} {auth : List Byte} {sigOk : Bool} {body : State → State}
    {s : State} (h : Keeps s₀ s) (hbody : ∀  t, Keeps s₀ t → Keeps s₀ (body  t)) : Keeps s₀ (State.authorised pk p auth
    sigOk body s) := by
  unfold State.authorised
  split
  · exact State.bad_keeps h
  · split
    · next e => exact hbody _ (Keeps.ofPair e (State.examine_keeps h))
    · next e => exact State.reply_keeps (Keeps.ofPair e (State.examine_keeps h))

theorem State.notReady_keeps {s₀ : State} {pk : Packet} {s : State} (h : Keeps s₀ s) : Keeps s₀ (State.notReady pk s) := by
  unfold State.notReady
  repeat' (first | with_reducible assumption | (with_reducible apply State.reply_keeps))

theorem State.flushSnapshots_keeps {s₀ : State} {s : State} (h : Keeps s₀ s) : Keeps s₀ (State.flushSnapshots s) := by
  unfold State.flushSnapshots
  repeat' (first | with_reducible assumption | (with_reducible apply State.snapshotDone_keeps))

theorem State.clearLog_keeps {s₀ : State} {slot : ℕ} {id : ℕ} {s : State} (h : Keeps s₀ s) : Keeps s₀ (State.clearLog slot
    id s) := by
  unfold State.clearLog
  dsimp only
  refine State.flushSnapshots_keeps (State.snapshot_keeps (Keeps.onEvr (Keeps.onFlash (State.note_keeps (Keeps.onFlash
    (Keeps.onEvr (State.flushSnapshots_keeps h) ?_) ?_)) ?_) ?_))
  · exact fun _ => Nat.zero_le _
  · exact fun k => ⟨k.image, k.cert, k.pattern⟩
  · exact fun k => ⟨k.image, k.cert, k.pattern⟩
  · exact fun _ => Nat.zero_le _

theorem doLogClear_keeps {s₀ : State} {ring : ℕ} {auth : List Byte} {sigOk : Bool} {s : State} (h : Keeps s₀ s) : Keeps s₀
    (doLogClear ring auth sigOk s) := by
  unfold doLogClear
  repeat' (first
    | with_reducible assumption | (with_reducible apply State.runPacket_keeps)
    | (with_reducible apply State.authorised_keeps) | (with_reducible apply State.done_keeps)
    | (with_reducible apply State.clearLog_keeps) | (refine fun t (ht : Keeps s₀ t) => ?_) | (intro (x : Packet)))

theorem doDiagRun_keeps {s₀ : State} {ring : ℕ} {auth : List Byte} {sigOk : Bool} {s : State} (h : Keeps s₀ s) : Keeps s₀
    (doDiagRun ring auth sigOk s) := by
  unfold doDiagRun
  repeat' (first
    | with_reducible assumption | (with_reducible apply State.runPacket_keeps)
    | (with_reducible apply State.notReady_keeps) | (with_reducible apply State.authorised_keeps)
    | (with_reducible apply Keeps.onMss) | (with_reducible apply Keeps.onFab)
    | (with_reducible apply Fab.invalidateCaches_canon) | (refine fun t (ht : Keeps s₀ t) => ?_) | (intro (x : Packet))
    | split)

theorem doDiagRunComplete_keeps {s₀ : State} {failing : List UnitId} {repairs : List Repair} {s : State} (h : Keeps s₀ s)
    : Keeps s₀ (doDiagRunComplete failing repairs s) := by
  unfold doDiagRunComplete
  repeat' (first
    | with_reducible assumption | (with_reducible apply State.done_keeps) | (with_reducible apply State.reply_keeps)
    | (with_reducible apply Keeps.onMss) | (with_reducible apply Keeps.onFlash) | (with_reducible apply Keeps.onFab)
    | (refine fun hf => ?_; with_reducible apply Flash.putRepair_canon; with_reducible assumption)
    | (refine fun hf => ?_; with_reducible apply Flash.putFlag_canon; with_reducible assumption)
    | (exact fun h => ⟨h.image, h.cert, h.pattern⟩) | (with_reducible apply Fab.zeroFree_canon)
    | (intro x; refine (have hx : Keeps s₀ x := ?_; ?_); rotate_left; clear_value x; rotate_right; subst x) | split
    | dsimp only)

theorem doFlagClear_keeps {s₀ : State} {ring : ℕ} {auth : List Byte} {sigOk : Bool} {s : State} (h : Keeps s₀ s) : Keeps
    s₀ (doFlagClear ring auth sigOk s) := by
  unfold doFlagClear
  repeat' (first
    | with_reducible assumption | (with_reducible apply State.runPacket_keeps) | (with_reducible apply State.bad_keeps)
    | (with_reducible apply State.notReady_keeps) | (with_reducible apply State.authorised_keeps)
    | (with_reducible apply Keeps.onMss) | (refine fun t (ht : Keeps s₀ t) => ?_) | (intro (x : Packet)) | split)

theorem doAttest_keeps {s₀ : State} {ring : ℕ} {s : State} (h : Keeps s₀ s) : Keeps s₀ (doAttest ring s) := by
  unfold doAttest
  repeat' (first
    | with_reducible assumption | (with_reducible apply State.runPacket_keeps) | (with_reducible apply State.bad_keeps)
    | (with_reducible apply State.notReady_keeps) | (with_reducible apply State.done_keeps)
    | (with_reducible apply State.hostWrite_keeps) | (refine fun t (ht : Keeps s₀ t) => ?_) | (intro (x : Packet)) | split
    | dsimp only)

theorem doUpdateBegin_keeps {s₀ : State} {ring : ℕ} {s : State} (h : Keeps s₀ s) : Keeps s₀ (doUpdateBegin ring s) := by
  unfold doUpdateBegin
  repeat' (first
    | with_reducible assumption | (with_reducible apply State.runPacket_keeps)
    | (with_reducible apply State.notReady_keeps) | (with_reducible apply State.bad_keeps)
    | (with_reducible apply State.done_keeps) | (with_reducible apply Keeps.onFlash)
    | (refine fun hf => ?_; with_reducible apply Flash.putRepair_canon; with_reducible assumption)
    | (refine fun hf => ?_; with_reducible apply Flash.putFlag_canon; with_reducible assumption)
    | (exact fun h => ⟨h.image, h.cert, h.pattern⟩) | (refine fun t (ht : Keeps s₀ t) => ?_) | (intro (x : Packet))
    | split | dsimp only)

theorem doUpdateData_keeps {s₀ : State} {ring : ℕ} {src : List Byte} {s : State} (h : Keeps s₀ s) : Keeps s₀ (doUpdateData
    ring src s) := by
  unfold doUpdateData
  repeat' (first
    | with_reducible assumption | (with_reducible apply State.runPacket_keeps)
    | (with_reducible apply State.notReady_keeps) | (with_reducible apply State.bad_keeps)
    | (with_reducible apply State.done_keeps) | (with_reducible apply State.note_keeps)
    | (with_reducible apply Keeps.onMss) | (with_reducible apply Keeps.onFlash) | (with_reducible apply Keeps.onFab)
    | (with_reducible apply Keeps.onEvr)
    | (refine fun hf => ?_; with_reducible apply Flash.putRepair_canon; with_reducible assumption)
    | (refine fun hf => ?_; with_reducible apply Flash.putFlag_canon; with_reducible assumption)
    | (exact fun h => ⟨h.image, h.cert, h.pattern⟩) | (with_reducible apply Fab.pokes_canon) | (exact (id : _ ≤ 1024 → _))
    | (exact fun k => ⟨k.image, k.cert, Memory.wf_memPut k.pattern⟩) | (refine fun t (ht : Keeps s₀ t) => ?_)
    | (intro (x : Packet)) | split | dsimp only)

theorem doUpdateCommit_keeps {s₀ : State} {ring : ℕ} {sigOk : Bool} {s : State} (h : Keeps s₀ s) : Keeps s₀
    (doUpdateCommit ring sigOk s) := by
  unfold doUpdateCommit
  repeat' (first
    | with_reducible assumption | (with_reducible apply State.runPacket_keeps) | (with_reducible apply State.bad_keeps)
    | (with_reducible apply State.notReady_keeps) | (with_reducible apply State.reply_keeps)
    | (with_reducible apply Keeps.onFlash)
    | (refine fun hf => ?_; with_reducible apply Flash.putRepair_canon; with_reducible assumption)
    | (refine fun hf => ?_; with_reducible apply Flash.putFlag_canon; with_reducible assumption)
    | (exact fun h => ⟨h.image, h.cert, h.pattern⟩) | (exact fun k => ⟨rfl, k.cert, k.pattern⟩)
    | (refine fun t (ht : Keeps s₀ t) => ?_) | (intro (x : Packet)) | split | dsimp only)

theorem State.staged_wf {s : State} : Memory.wf s.staged = true := by
  unfold State.staged
  split
  with_reducible exact Memory.wf_memPut Memory.wf_nil

theorem Flash.setImage_canon {m : Memory} {p : Host.Cell → Bool} {f : Flash} {c : Option Packet} (h : Memory.wf m = true)
    (k : f.Canonical) : Flash.Canonical { f with image := some (m.filter p), commit := c } :=
  ⟨Memory.wf_filter h, k.cert, k.pattern⟩

theorem doImageAreaWrite_keeps {s₀ s : State} {mismatches : ℕ} (h : Keeps s₀ s) : Keeps s₀ (doImageAreaWrite mismatches s)
    := by
  unfold doImageAreaWrite
  split
  · exact h
  · split
    · exact h
    · split
      · have hm : ∀ {t : State}, Keeps s₀ t → Keeps s₀ (t.onFlash fun f =>
            { f with image := some (s.staged.filter fun c => decide (c.1 < imgSize s.staged)), commit := none }) :=
          fun ht => Keeps.onFlash ht fun k => Flash.setImage_canon State.staged_wf k
        lift_lets
        intro m t
        have ht : Keeps s₀ t := hm h
        clear_value t
        intro u
        have hu : Keeps s₀ u := State.done_keeps (State.note_keeps ht)
        clear_value u
        split
        · exact Keeps.onMss hu
        · exact hu
      · exact State.reply_keeps (State.note_keeps (Keeps.onFlash (State.bumpFree_keeps h) fun k => ⟨rfl, k.cert, k.pattern⟩))

theorem doOwnerProvision_keeps {s₀ : State} {d : BitVec 256} {s : State} (h : Keeps s₀ s) : Keeps s₀ (doOwnerProvision d
    s) := by
  unfold doOwnerProvision
  split
  · next hc =>
    simp only [Bool.and_eq_true, List.all_eq_true, List.mem_range, OwnerSlot.empty, decide_eq_true_eq,
      Bool.not_eq_true'] at hc
    have e := hc.1.2 0 (by omega)
    refine Keeps.onSec h ⟨fun i hi => ?_, fun i hi => ?_, le_refl _, rfl⟩
    · rw [Sec.slot_vset]; split
      · next k => rw [k.1, e.1] at hi; exact absurd rfl hi
      · rfl
    · rw [Sec.slot_vset]; split
      · next k => rw [k.1, e.2] at hi; cases hi
      · exact hi
  · exact h

theorem doDbgChallenge_keeps {s₀ : State} {s : State} (h : Keeps s₀ s) : Keeps s₀ (doDbgChallenge s) := by
  unfold doDbgChallenge
  repeat' (first
    | (with_reducible apply Keeps.onSec) | (with_reducible apply Keeps.withFree; with_reducible assumption)
    | (exact Sec.FusesStay.same rfl rfl rfl) | split)

theorem doDbgResponse_keeps {s₀ : State} {auth : List Byte} {sigOk : Bool} {s : State} (h : Keeps s₀ s) : Keeps s₀
    (doDbgResponse auth sigOk s) := by
  unfold doDbgResponse
  have refuse : ∀ {t : State}, Keeps s₀ t → Keeps s₀ (t.onSec fun x => { x with lastRefused := true }) :=
    fun ht => Keeps.onSec ht (Sec.FusesStay.same rfl rfl rfl)
  have h0 : Keeps s₀ (s.onSec fun x => { x with attempts := satU 8 (x.attempts + 1) }) :=
    Keeps.onSec h (Sec.FusesStay.same rfl rfl rfl)
  split
  · exact h
  · dsimp only
    split
    · exact refuse (State.note_keeps h0)
    · split
      · next e => exact refuse (Keeps.ofPair e (State.examine_keeps h0))
      · next e =>
        have h1 := State.note_keeps (code := 0x5006) (sev := sevCritical) (unit := noUnit) (p0 := 0) (p1 := 0) (p2 := 0)
          (Keeps.onSec (f := fun x => { x.zeroise with unlocked := true, lastRefused := false })
            (Keeps.ofPair e (State.examine_keeps h0)) (Sec.FusesStay.same rfl rfl rfl))
        split
        · exact h1
        · exact State.latch_keeps h1
theorem State.afterReset_keeps {s₀ : State} {s : State} (h : Keeps s₀ s) : Keeps s₀ (State.afterReset s) := by
  refine h.trans ⟨rfl, fun c => ⟨⟨rfl, rfl, rfl, fun d => ?_⟩, ⟨c.flash.image, c.flash.cert, c.flash.pattern⟩⟩, fun _ => rfl,
    Sec.FusesStay.same rfl rfl rfl, fun _ => Nat.zero_le _⟩
  simp [State.afterReset, State.reset, Fab.reset, Vector.get_eq_getElem]

theorem State.startCommon_keeps {s₀ : State} {mode : BitVec 2} {s : State} (h : Keeps s₀ s) : Keeps s₀ (State.startCommon
    mode s) := by
  have ha : Keeps s₀ { s with evr := s.flash.startRec } :=
    h.trans ⟨rfl, fun c => c.congr rfl rfl, id, Sec.FusesStay.refl _, fun _ => by
      show (s.flash.startRec).queue.length ≤ 1024
      unfold Flash.startRec; dsimp only; split <;> exact Nat.zero_le _⟩
  have hd : ∀ {t : State}, Keeps s₀ t → Keeps s₀ (if mode = 3 then t.note 0x0004 sevNotice noUnit 0 0 0 else t) := by
    intro t ht; split
    · exact State.note_keeps ht
    · exact ht
  unfold State.startCommon
  dsimp only
  repeat' (first
    | with_reducible exact ha | with_reducible apply State.note_keeps | with_reducible apply hd
    | with_reducible apply State.raise_keeps | with_reducible apply Keeps.onSec | with_reducible apply Keeps.onPins
    | (exact Sec.FusesStay.same rfl rfl rfl) | (exact (fun _ => rfl : ∀ x, _ = _)) | split)

theorem State.startImage_keeps {s₀ : State} {mode : BitVec 2} {s : State} (h : Keeps s₀ s) : Keeps s₀ (State.startImage
    mode s) := by
  unfold State.startImage
  exact Keeps.onPwr (Keeps.onMss (Keeps.onFlash (Keeps.onMss h) fun k => ⟨k.image, k.cert, k.pattern⟩))

theorem State.startFrom_keeps {s₀ : State} {mode : BitVec 2} {sigOk : Bool} {s : State} (h : Keeps s₀ s) : Keeps s₀
    (State.startFrom mode sigOk s) := by
  unfold State.startFrom
  dsimp only
  split
  · exact Keeps.onMss (State.startCommon_keeps h)
  · split
    · exact State.note_keeps (Keeps.onMss (State.startCommon_keeps h))
    · exact State.startImage_keeps (State.startCommon_keeps h)

theorem doRstNRelease_keeps {s₀ : State} {mode : BitVec 2} {sigOk : Bool} {s : State} (h : Keeps s₀ s) : Keeps s₀
    (doRstNRelease mode sigOk s) := by
  unfold doRstNRelease
  repeat' (first | with_reducible assumption | (with_reducible apply State.startFrom_keeps) | split)

theorem State.applyKeyOp_keeps {s₀ : State} {signer : ℕ} {s : State} {k : KeyOp} (h : Keeps s₀ s) : Keeps s₀
    (State.applyKeyOp signer s k) := by
  unfold State.applyKeyOp
  split
  · exact h
  · split
    · next hv => exact Keeps.onSec h (Sec.fuse_stays hv)
    · exact State.note_keeps h

theorem State.applyFuses_keeps {s₀ : State} {s : State} (h : Keeps s₀ s) : Keeps s₀ (State.applyFuses s) := by
  unfold State.applyFuses
  dsimp only
  refine Keeps.onSec (Keeps.foldl h fun t a ht => State.applyKeyOp_keeps ht) ⟨fun _ _ => rfl, fun _ hi => hi, le_max_left _ _, rfl⟩

theorem State.failStart_keeps {s₀ : State} {t : TestFail} {s : State} (h : Keeps s₀ s) : Keeps s₀ (State.failStart t s) := by
  unfold State.failStart
  repeat' (first
    | with_reducible assumption | (with_reducible apply State.suspect_keeps) | (with_reducible apply Keeps.onFlash)
    | (refine fun hf => ?_; with_reducible apply Flash.putRepair_canon; with_reducible assumption)
    | (refine fun hf => ?_; with_reducible apply Flash.putFlag_canon; with_reducible assumption)
    | (exact fun h => ⟨h.image, h.cert, h.pattern⟩))

theorem State.startFlagged_keeps {s₀ : State} {unit : ℕ} {s : State} (h : Keeps s₀ s) : Keeps s₀ (State.startFlagged unit
    s) := by
  unfold State.startFlagged
  repeat' (first
    | with_reducible assumption | (with_reducible apply State.raise_keeps) | (with_reducible apply State.enter_keeps)
    | (with_reducible apply Keeps.onSaf) | (exact (fun _ => rfl : ∀ x, _ = _)))

theorem State.startLanes_keeps {s₀ : State} {s : State} (h : Keeps s₀ s) : Keeps s₀ (State.startLanes s) := by
  unfold State.startLanes
  repeat' (first
    | with_reducible assumption | (with_reducible apply State.setCkcMode_keeps) | (with_reducible apply Keeps.onCkc)
    | (with_reducible apply Keeps.onFab) | (with_reducible apply Fab.pokes_canon) | split)

theorem State.finishStart_keeps {s₀ : State} {dense : Bool} {rate : ℕ} {retrained : Bool} {repairs : List Repair} {fail :
    Option TestFail} {s : State} (h : Keeps s₀ s) : Keeps s₀ (State.finishStart dense rate retrained repairs fail s) := by
  unfold State.finishStart
  repeat' (first
    | with_reducible assumption | (with_reducible apply State.powerOn_keeps)
    | (with_reducible apply State.applyFuses_keeps) | (with_reducible apply State.note_keeps)
    | (with_reducible apply State.startLanes_keeps) | (with_reducible apply State.startFlagged_keeps)
    | (with_reducible apply State.failStart_keeps) | (with_reducible apply State.enter_keeps)
    | (with_reducible apply Keeps.onCpx) | (with_reducible apply Keeps.onPwr) | (with_reducible apply Keeps.onMss)
    | (with_reducible apply Keeps.onFlash)
    | (refine fun hf => ?_; with_reducible apply Flash.putRepair_canon; with_reducible assumption)
    | (refine fun hf => ?_; with_reducible apply Flash.putFlag_canon; with_reducible assumption)
    | (exact fun h => ⟨h.image, h.cert, h.pattern⟩)
    | (intro x; refine (have hx : Keeps s₀ x := ?_; ?_); rotate_left; clear_value x; rotate_right; subst x) | split
    | dsimp only)

theorem doEndOfStart_keeps {s₀ : State} {dense : Bool} {rate : ℕ} {retrained : Bool} {repairs : List Repair} {fail :
    Option TestFail} {s : State} (h : Keeps s₀ s) : Keeps s₀ (doEndOfStart dense rate retrained repairs fail s) := by
  unfold doEndOfStart
  repeat' (first
    | with_reducible assumption | (with_reducible apply State.powerOn_keeps) | (with_reducible apply State.enter_keeps)
    | (with_reducible apply State.note_keeps) | (with_reducible apply State.finishStart_keeps)
    | (with_reducible apply Keeps.onMss)
    | (intro x; refine (have hx : Keeps s₀ x := ?_; ?_); rotate_left; clear_value x; rotate_right; subst x) | split)

theorem State.shutAdvance_keeps {s₀ : State} {s : State} (h : Keeps s₀ s) : Keeps s₀ (State.shutAdvance s) := by
  unfold State.shutAdvance
  repeat' (first
    | with_reducible assumption | (with_reducible apply State.stopProgram_keeps)
    | (with_reducible apply State.flushSnapshots_keeps) | (with_reducible apply State.snapshot_keeps)
    | (with_reducible apply State.splitBoundary_keeps) | (with_reducible apply State.flushLog_keeps)
    | (with_reducible apply State.unloadContracts_keeps) | (with_reducible apply Keeps.onMss)
    | (with_reducible apply Keeps.onFlash)
    | (refine fun hf => ?_; with_reducible apply Flash.putRepair_canon; with_reducible assumption)
    | (refine fun hf => ?_; with_reducible apply Flash.putFlag_canon; with_reducible assumption)
    | (exact fun h => ⟨h.image, h.cert, h.pattern⟩)
    | (intro x; refine (have hx : Keeps s₀ x := ?_; ?_); rotate_left; clear_value x; rotate_right; subst x) | split)

theorem doPrepareOff_keeps {s₀ : State} {ring : ℕ} {s : State} (h : Keeps s₀ s) : Keeps s₀ (doPrepareOff ring s) := by
  unfold doPrepareOff
  repeat' (first
    | with_reducible assumption | (with_reducible apply State.runPacket_keeps)
    | (with_reducible apply State.notReady_keeps) | (with_reducible apply State.enter_keeps)
    | (with_reducible apply State.latch_keeps) | (with_reducible apply State.cancelLaunches_keeps)
    | (with_reducible apply State.shutAdvance_keeps) | (with_reducible apply Keeps.onCpx)
    | (with_reducible apply Keeps.onMss) | (refine fun t (ht : Keeps s₀ t) => ?_) | (intro (x : Packet)) | split)

theorem State.shutFailure_keeps {s₀ : State} {t : TestFail} {s : State} (h : Keeps s₀ s) : Keeps s₀ (State.shutFailure t
    s) := by
  unfold State.shutFailure
  repeat' (first
    | with_reducible assumption | (with_reducible apply State.flushSnapshots_keeps)
    | (with_reducible apply State.recordFault_keeps) | (with_reducible apply Keeps.onFlash)
    | (refine fun hf => ?_; with_reducible apply Flash.putRepair_canon; with_reducible assumption)
    | (refine fun hf => ?_; with_reducible apply Flash.putFlag_canon; with_reducible assumption)
    | (exact fun h => ⟨h.image, h.cert, h.pattern⟩)
    | (intro x; refine (have hx : Keeps s₀ x := ?_; ?_); rotate_left; clear_value x; rotate_right; subst x) | split)

theorem State.allOff_keeps {s₀ : State} {s : State} (h : Keeps s₀ s) : Keeps s₀ (State.allOff s) := by
  unfold State.allOff
  repeat' (first
    | with_reducible assumption | (with_reducible apply State.gateOffEnd_keeps) | (with_reducible apply Keeps.onHif)
    | (with_reducible apply Keeps.onPwr) | (with_reducible apply Keeps.onSen))

theorem doOffReady_keeps {s₀ : State} {repairs : List Repair} {unrepaired : Option TestFail} {s : State} (h : Keeps s₀ s)
    : Keeps s₀ (doOffReady repairs unrepaired s) := by
  unfold doOffReady
  repeat' (first
    | with_reducible assumption | (with_reducible apply State.shutAdvance_keeps)
    | (with_reducible apply State.shutFailure_keeps) | (with_reducible apply State.done_keeps)
    | (with_reducible apply State.enter_keeps) | (with_reducible apply State.allOff_keeps)
    | (with_reducible apply Keeps.onMss) | (with_reducible apply Keeps.onPins) | (with_reducible apply Keeps.onSec)
    | (with_reducible apply Keeps.onFlash) | (exact (fun _ => rfl : ∀ x, _ = _))
    | (refine fun hf => ?_; with_reducible apply Flash.putRepair_canon; with_reducible assumption)
    | (refine fun hf => ?_; with_reducible apply Flash.putFlag_canon; with_reducible assumption)
    | (exact fun h => ⟨h.image, h.cert, h.pattern⟩) | (exact Sec.FusesStay.same rfl rfl rfl)
    | (intro x; refine (have hx : Keeps s₀ x := ?_; ?_); rotate_left; clear_value x; rotate_right; subst x) | split
    | dsimp only)

theorem doRstNAssert_keeps {s₀ : State} {s : State} (h : Keeps s₀ s) : Keeps s₀ (doRstNAssert s) := by
  unfold doRstNAssert
  repeat' (first
    | with_reducible assumption | (with_reducible apply State.afterReset_keeps)
    | (with_reducible apply State.shutAdvance_keeps) | split)

theorem doRecoverySelfReset_keeps {s₀ : State} {s : State} (h : Keeps s₀ s) : Keeps s₀ (doRecoverySelfReset s) := by
  unfold doRecoverySelfReset
  repeat' (first
    | with_reducible assumption | (with_reducible apply State.startFrom_keeps)
    | (with_reducible apply State.afterReset_keeps) | (with_reducible apply State.advance_keeps) | split)

theorem doPerstNAssert_keeps {s₀ : State} {s : State} (h : Keeps s₀ s) : Keeps s₀ (doPerstNAssert s) := by
  unfold doPerstNAssert
  repeat' (first
    | with_reducible assumption | (with_reducible apply State.attachReset_keeps)
    | (with_reducible apply State.leaveParked_keeps) | (with_reducible apply Keeps.onHif)
    | (with_reducible apply Keeps.onPwr) | (with_reducible apply Keeps.onPins) | (exact (fun _ => rfl : ∀ x, _ = _))
    | (intro x; refine (have hx : Keeps s₀ x := ?_; ?_); rotate_left; clear_value x; rotate_right; subst x) | split
    | dsimp only)

theorem doPerstNRelease_keeps {s₀ : State} {s : State} (h : Keeps s₀ s) : Keeps s₀ (doPerstNRelease s) := by
  unfold doPerstNRelease
  repeat' (first | with_reducible assumption | (with_reducible apply Keeps.onPins) | (exact (fun _ => rfl : ∀ x, _ = _)))

theorem doPwrfailNAssert_keeps {s₀ : State} {step : ℕ} {s : State} (h : Keeps s₀ s) : Keeps s₀ (doPwrfailNAssert step s)
    := by
  unfold doPwrfailNAssert
  repeat' (first
    | with_reducible assumption | (with_reducible apply State.shutAdvance_keeps) | (with_reducible apply State.note_keeps)
    | (with_reducible apply State.snapshot_keeps) | (with_reducible apply Keeps.onCpx)
    | (with_reducible apply Keeps.onMss) | (with_reducible apply Keeps.onPins) | (with_reducible apply Keeps.onSec)
    | (exact (fun _ => rfl : ∀ x, _ = _)) | (exact Sec.FusesStay.same rfl rfl rfl)
    | (intro x; refine (have hx : Keeps s₀ x := ?_; ?_); rotate_left; clear_value x; rotate_right; subst x) | split)

theorem State.rocRead_keeps {s₀ : State} {off : ℕ} {clear : State → State} {s : State} (h : Keeps s₀ s) (hclear : ∀  t,
    Keeps s₀ t → Keeps s₀ (clear  t)) : Keeps s₀ (State.rocRead off clear s) := by
  unfold State.rocRead
  repeat' (first
    | with_reducible assumption | (with_reducible apply State.post_keeps) | (with_reducible apply hclear)
    | (intro x; refine (have hx : Keeps s₀ x := ?_; ?_); rotate_left; clear_value x; rotate_right; subst x) | split)

theorem doEmtHostDropsRead_keeps {s₀ : State} {s : State} (h : Keeps s₀ s) : Keeps s₀ (doEmtHostDropsRead s) := by
  unfold doEmtHostDropsRead
  repeat' (first
    | with_reducible assumption | (with_reducible apply State.rocRead_keeps) | (with_reducible apply Keeps.onEmt)
    | (refine fun t (ht : Keeps s₀ t) => ?_))

theorem doCkcCopyDropsRead_keeps {s₀ : State} {s : State} (h : Keeps s₀ s) : Keeps s₀ (doCkcCopyDropsRead s) := by
  unfold doCkcCopyDropsRead
  repeat' (first
    | with_reducible assumption | (with_reducible apply State.rocRead_keeps) | (with_reducible apply Keeps.onCkc)
    | (refine fun t (ht : Keeps s₀ t) => ?_))

theorem doDbgStatusRead_keeps {s₀ : State} {s : State} (h : Keeps s₀ s) : Keeps s₀ (doDbgStatusRead s) := by
  unfold doDbgStatusRead
  repeat' (first
    | with_reducible assumption | (with_reducible apply State.rocRead_keeps) | (with_reducible apply Keeps.onSec)
    | (exact Sec.FusesStay.same rfl rfl rfl) | (refine fun t (ht : Keeps s₀ t) => ?_))

theorem doPwrReqStatusRead_keeps {s₀ : State} {s : State} (h : Keeps s₀ s) : Keeps s₀ (doPwrReqStatusRead s) := by
  unfold doPwrReqStatusRead
  repeat' (first
    | with_reducible assumption | (with_reducible apply State.rocRead_keeps) | (with_reducible apply Keeps.onPwr)
    | (refine fun t (ht : Keeps s₀ t) => ?_))

theorem doApply_keeps {s₀ : State} {s : State} (h : Keeps s₀ s) : Keeps s₀ (doApply s) := by
  unfold doApply
  repeat' (first
    | with_reducible assumption | (with_reducible apply State.note_keeps) | (with_reducible apply Keeps.onMss) | split)

theorem doRegionApplyComplete_keeps {s₀ : State} {s : State} (h : Keeps s₀ s) : Keeps s₀ (doRegionApplyComplete s) := by
  unfold doRegionApplyComplete
  repeat' (first
    | with_reducible assumption | (with_reducible apply Keeps.onMss) | (with_reducible apply Keeps.onSec)
    | (with_reducible apply Keeps.onFab) | (refine fun (hf : Fab.Canonical _) => ?_)
    | (with_reducible apply Fab.Canonical.foldl) | (refine fun t a (ht : Fab.Canonical t) => ?_)
    | (with_reducible apply Fab.stale_canon) | (exact Sec.FusesStay.same rfl rfl rfl)
    | (intro x; refine (have hx : Keeps s₀ x := ?_; ?_); rotate_left; clear_value x; rotate_right; subst x) | split
    | dsimp only)

theorem doMssSafeReserveWrite_keeps {s₀ : State} {v : Word} {s : State} (h : Keeps s₀ s) : Keeps s₀ (doMssSafeReserveWrite
    v s) := by
  unfold doMssSafeReserveWrite
  repeat' (first | with_reducible assumption | (with_reducible apply Keeps.onMss) | split | dsimp only)

theorem doMssThermalCfgWrite_keeps {s₀ : State} {v : Word} {s : State} (h : Keeps s₀ s) : Keeps s₀ (doMssThermalCfgWrite v
    s) := by
  unfold doMssThermalCfgWrite
  repeat' (first | with_reducible assumption | (with_reducible apply Keeps.onMss) | split | dsimp only)

theorem State.writePwrRequest_keeps {s₀ : State} {v : ℕ} {s : State} (h : Keeps s₀ s) : Keeps s₀ (State.writePwrRequest v
    s) := by
  unfold State.writePwrRequest
  repeat' (first
    | with_reducible assumption | (with_reducible apply doDomainOff_keeps) | (with_reducible apply doDomainOn_keeps)
    | (with_reducible apply doRateTarget_keeps) | (with_reducible apply doPark_keeps)
    | (with_reducible apply State.pwrRequest_keeps) | (with_reducible apply State.pwrEnd_keeps) | split)

theorem State.writeMsix_keeps {s₀ : State} {i : ℕ} {v : Word} {s : State} (h : Keeps s₀ s) : Keeps s₀ (State.writeMsix i v
    s) := by
  unfold State.writeMsix
  repeat' (first
    | with_reducible assumption | (with_reducible apply State.message_keeps) | (with_reducible apply Keeps.onHif)
    | (intro x; refine (have hx : Keeps s₀ x := ?_; ?_); rotate_left; clear_value x; rotate_right; subst x) | split
    | dsimp only)

theorem State.writeWhole_keeps {s₀ : State} {off : ℕ} {v : DWord} {s : State} (h : Keeps s₀ s) : Keeps s₀
    (State.writeWhole off v s) := by
  unfold State.writeWhole
  repeat' (first
    | with_reducible assumption | (with_reducible apply doHifBar4WindowWrite_keeps) | (with_reducible apply Keeps.onHif)
    | (with_reducible apply Keeps.onMss) | split)

theorem State.holdLow_keeps {s₀ : State} {off : ℕ} {v : Word} {s : State} (h : Keeps s₀ s) : Keeps s₀ (State.holdLow off v
    s) := by
  unfold State.holdLow
  repeat' (first
    | with_reducible assumption | (with_reducible apply Keeps.onHif) | (with_reducible apply Keeps.onMss) | split)

theorem State.writeHigh_keeps {s₀ : State} {off : ℕ} {v : Word} {s : State} (h : Keeps s₀ s) : Keeps s₀ (State.writeHigh
    off v s) := by
  unfold State.writeHigh
  repeat' (first | with_reducible assumption | (with_reducible apply State.writeWhole_keeps))

theorem State.write32_keeps {s₀ : State} {off : ℕ} {v : Word} {s : State} (h : Keeps s₀ s) : Keeps s₀ (State.write32 off v
    s) := by
  unfold State.write32
  repeat' (first
    | with_reducible assumption | (with_reducible apply State.holdLow_keeps)
    | (with_reducible apply State.writeHigh_keeps) | (with_reducible apply State.writeMsix_keeps)
    | (with_reducible apply doHifEventWrite_keeps) | (with_reducible apply doHifEventMaskWrite_keeps)
    | (with_reducible apply doAdminCtrl_keeps) | (with_reducible apply doTake_keeps)
    | (with_reducible apply State.writePwrRequest_keeps) | (with_reducible apply doApply_keeps)
    | (with_reducible apply doMssSafeReserveWrite_keeps) | (with_reducible apply doMssThermalCfgWrite_keeps)
    | (with_reducible apply doMssEventRateWrite_keeps) | (with_reducible apply Keeps.onHif)
    | (with_reducible apply Keeps.onPwr) | (with_reducible apply Keeps.onMss) | split)

theorem State.writeWord_keeps {s₀ : State} {off : ℕ} {v : Word} {s : State} (h : Keeps s₀ s) : Keeps s₀ (State.writeWord
    off v s) := by
  unfold State.writeWord
  repeat' (first
    | with_reducible assumption | (with_reducible apply State.write32_keeps) | (with_reducible apply Keeps.onMss) | split)

theorem doRegisterWrite_keeps {s₀ : State} {off : ℕ} {width : ℕ} {v : DWord} {s : State} (h : Keeps s₀ s) : Keeps s₀
    (doRegisterWrite off width v s) := by
  unfold doRegisterWrite
  repeat' (first
    | with_reducible assumption | (with_reducible apply State.writeWord_keeps)
    | (with_reducible apply State.writeWhole_keeps) | split)

end Sys2Proof.Machine
end

