-- ==== Sys2Proof/Laws/KeepsRuns.lean ====
section
/-! SUPPORT. Every operation of these parts keeps what `Keeps` says: sequencer, engines, commits and contracts. -/

set_option linter.unreachableTactic false
set_option linter.unusedTactic false

namespace Sys2Proof.Machine

/-- A run's context taken from the state. -/
theorem State.cx_canon {s₀ s : State} {run : Run} (h : Keeps s₀ s) (c : s₀.Canonical) : (s.cx run).Canonical := ⟨(h.canon
    c).fab⟩

theorem State.cxQm_canon {s₀ s : State} {q : QmRun} (h : Keeps s₀ s) (c : s₀.Canonical) : (s.cxQm q).Canonical :=
    ⟨(h.canon c).fab⟩

/-- A fabric put in the place of the state's. -/
theorem Keeps.putFab {s₀ s : State} {g : Fab} {n : Nat} (h : Keeps s₀ s) (hg : s₀.Canonical → g.Canonical) :
    Keeps s₀ { s with fab := g, freeCtr := n } :=
  ⟨h.queue, fun x => ⟨hg x, (h.canon x).flash⟩, h.pin, h.fuses, h.bound⟩

theorem Keeps.onFab' {s₀ s : State} {f : Fab → Fab} (h : Keeps s₀ s) (hf : s₀.Canonical → (f s.fab).Canonical) :
    Keeps s₀ (s.onFab f) :=
  ⟨h.queue, fun x => ⟨hf x, (h.canon x).flash⟩, h.pin, h.fuses, h.bound⟩

theorem State.cxBack_keeps {s₀ s : State} {x : Cx} (h : Keeps s₀ s) (hx : s₀.Canonical → x.Canonical) : Keeps s₀ (s.cxBack
    x) := by
  unfold State.cxBack
  split
  · exact h
  · exact Keeps.foldl (Keeps.putFab h fun c => (hx c).mem) fun t a ht => State.countErr_keeps ht

theorem State.endQm_keeps {s₀ : State} {q : QmRun} {st : ℕ} {dt : ℕ} {s : State} (h : Keeps s₀ s) : Keeps s₀ (State.endQm
    q st dt s) := by
  unfold State.endQm
  repeat' (first
    | with_reducible assumption | (with_reducible apply State.discardQm_keeps)
    | (with_reducible apply State.answerKills_keeps) | (with_reducible apply State.boundary_keeps)
    | (with_reducible apply State.reply_keeps))

theorem State.qmBack_keeps {s₀ s : State} {q : QmRun} {x : Cx} (h : Keeps s₀ s) (hx : s₀.Canonical → x.Canonical) :
    Keeps s₀ (s.qmBack q x) := by
  unfold State.qmBack
  dsimp only
  split
  · exact h
  · split
    · exact State.endQm_keeps (Keeps.onCpx (State.cxBack_keeps h hx))
    · exact Keeps.onCpx (State.cxBack_keeps h hx)

theorem State.overrun_keeps {s₀ : State} {c : Fin 8} {ident : ℕ} {b : Bool} {s : State} (h : Keeps s₀ s) : Keeps s₀
    (State.overrun c ident b s) := by
  unfold State.overrun
  repeat' (first | with_reducible assumption | (with_reducible apply State.note_keeps) | split)

/-- What an instruction's body does leaves canonical memories canonical. -/
def BodyCanon (body : RingAt → Cx → Did) : Prop := ∀ r x, x.Canonical → (body r x).x.Canonical

theorem State.frameInstr_keeps {s₀ s : State} {a : Contract} {c : Fin 8} {w : BitVec 128} {body : RingAt → Cx → Did}
    (h : Keeps s₀ s) (hb : BodyCanon body) : Keeps s₀ (s.frameInstr a c w body) := by
  unfold State.frameInstr
  dsimp only
  split
  · split
    · exact h
    · split
      · split
        · exact h
        · exact State.overrun_keeps (State.cxBack_keeps h fun k =>
            Cx.putCore_canon (hb _ _ (Cx.putCore_canon (State.cx_canon h k)).cls))
      · split
        · exact h
        · exact State.overrun_keeps (State.cxBack_keeps h fun k =>
            Cx.putCore_canon (hb _ _ (Cx.putCore_canon (State.cx_canon h k)).cls))
  · exact h

theorem State.qmInstr_keeps {s₀ s : State} {q : QmRun} {c : Fin 8} {w : BitVec 128} {body : RingAt → Cx → Did}
    (h : Keeps s₀ s) (hb : BodyCanon body) : Keeps s₀ (s.qmInstr q c w body) := by
  unfold State.qmInstr
  dsimp only
  repeat' (first
    | exact h | exact State.overrun_keeps (State.qmBack_keeps h fun k => Cx.putCore_canon (hb _ _ (State.cxQm_canon h k).cls))
    | split)

theorem State.coreInstr_keeps {s₀ s : State} {c : Fin 8} {cls : Nat} {w : BitVec 128} {body : RingAt → Cx → Did}
    (h : Keeps s₀ s) (hb : BodyCanon body) : Keeps s₀ (s.coreInstr c cls w body) := by
  unfold State.coreInstr
  dsimp only
  split
  · exact h
  · split
    · split
      · exact State.qmInstr_keeps h hb
      · exact h
    · split
      · split
        · exact State.frameInstr_keeps h hb
        · exact h
      · exact h

theorem doHalt_keeps {s₀ : State} {c : Fin 8} {w : BitVec 128} {s : State} (h : Keeps s₀ s) : Keeps s₀ (doHalt c w s) := by
  unfold doHalt
  repeat' (first
    | with_reducible assumption | (with_reducible apply Keeps.onFab) | (refine fun (hf : Fab.Canonical _) => ?_)
    | (with_reducible apply Fab.Canonical.mem; with_reducible assumption)
    | (intro x; refine (have hx : Keeps s₀ x := ?_; ?_); rotate_left; clear_value x; rotate_right; subst x) | split
    | dsimp only)

theorem doLoadw_keeps {s₀ : State} {c : Fin 8} {w : BitVec 128} {s : State} (h : Keeps s₀ s) : Keeps s₀ (doLoadw c w s) := by
  unfold doLoadw
  exact State.coreInstr_keeps h (fun _ _ h => runLoadw_canon h)

theorem doMma_keeps {s₀ : State} {c : Fin 8} {w : BitVec 128} {s : State} (h : Keeps s₀ s) : Keeps s₀ (doMma c w s) := by
  unfold doMma
  exact State.coreInstr_keeps h (fun _ _ h => runMma_canon h)

theorem doConv_keeps {s₀ : State} {c : Fin 8} {w : BitVec 128} {s : State} (h : Keeps s₀ s) : Keeps s₀ (doConv c w s) := by
  unfold doConv
  exact State.coreInstr_keeps h (fun _ x h => show (runConv c w x).Canonical from runConv_canon h)

theorem doDrain_keeps {s₀ : State} {c : Fin 8} {w : BitVec 128} {s : State} (h : Keeps s₀ s) : Keeps s₀ (doDrain c w s) := by
  unfold doDrain
  exact State.coreInstr_keeps h (fun _ _ h => runDrain_canon h)

theorem doVop_keeps {s₀ : State} {c : Fin 8} {w : BitVec 128} {s : State} (h : Keeps s₀ s) : Keeps s₀ (doVop c w s) := by
  unfold doVop
  exact State.coreInstr_keeps h (fun _ _ h => runVop_canon h)

theorem doScalar_keeps {s₀ : State} {c : Fin 8} {w : BitVec 128} {s : State} (h : Keeps s₀ s) : Keeps s₀ (doScalar c w s)
    := by
  unfold doScalar
  exact State.coreInstr_keeps h (fun _ _ h => runSegment_canon (startSegment_canon h))

theorem State.customInstr_keeps {s₀ : State} {c : Fin 8} {body : Su → Su} {s : State} (h : Keeps s₀ s) : Keeps s₀
    (State.customInstr c body s) := by
  unfold State.customInstr
  dsimp only
  split
  · exact h
  · split
    · exact State.overrun_keeps (State.qmBack_keeps h fun k => customOp_canon (State.cxQm_canon h k).cls)
    · exact State.overrun_keeps (State.cxBack_keeps h fun k => Cx.putCore_canon (customOp_canon (State.cx_canon h k).cls))

theorem doSegEnd_keeps {s₀ : State} {c : Fin 8} {s : State} (h : Keeps s₀ s) : Keeps s₀ (doSegEnd c s) := by
  unfold doSegEnd
  repeat' (first | with_reducible assumption | (with_reducible apply State.customInstr_keeps))

theorem doFcvtBf16S_keeps {s₀ : State} {c : Fin 8} {rd : Fin 32} {rs : Fin 32} {s : State} (h : Keeps s₀ s) : Keeps s₀
    (doFcvtBf16S c rd rs s) := by
  unfold doFcvtBf16S
  repeat' (first | with_reducible assumption | (with_reducible apply State.customInstr_keeps))

theorem doFcvtSBf16_keeps {s₀ : State} {c : Fin 8} {rd : Fin 32} {rs : Fin 32} {s : State} (h : Keeps s₀ s) : Keeps s₀
    (doFcvtSBf16 c rd rs s) := by
  unfold doFcvtSBf16
  repeat' (first | with_reducible assumption | (with_reducible apply State.customInstr_keeps))

theorem doFcvtE4m3S_keeps {s₀ : State} {c : Fin 8} {rd : Fin 32} {rs : Fin 32} {s : State} (h : Keeps s₀ s) : Keeps s₀
    (doFcvtE4m3S c rd rs s) := by
  unfold doFcvtE4m3S
  repeat' (first | with_reducible assumption | (with_reducible apply State.customInstr_keeps))

theorem doFcvtSE4m3_keeps {s₀ : State} {c : Fin 8} {rd : Fin 32} {rs : Fin 32} {s : State} (h : Keeps s₀ s) : Keeps s₀
    (doFcvtSE4m3 c rd rs s) := by
  unfold doFcvtSE4m3
  repeat' (first | with_reducible assumption | (with_reducible apply State.customInstr_keeps))

theorem doDmaIn_keeps {s₀ : State} {c : Fin 8} {w : BitVec 128} {s : State} (h : Keeps s₀ s) : Keeps s₀ (doDmaIn c w s) := by
  unfold doDmaIn
  exact State.coreInstr_keeps h (fun _ _ h => runDmaIn_canon h)

theorem runDmaOut_canon {c : Fin 8} {r : RingAt} {w : BitVec 128} {x : Cx} (h : x.Canonical) : (runDmaOut c r w
    x).x.Canonical := by
  have hr : ∀ {u sp a n}, (x.read u sp a n).2.Canonical := Cx.read_canon h
  unfold runDmaOut
  dsimp only
  split
  · exact Cx.flush_canon h
  · split
    · exact h
    · split
      · split
        · exact Cx.stop_canon hr
        · exact ⟨hr.mem⟩
      · split
        · exact Cx.sendPleach_canon hr
        · exact Cx.writeP_canon hr

theorem doDmaOut_keeps {s₀ : State} {c : Fin 8} {w : BitVec 128} {s : State} (h : Keeps s₀ s) : Keeps s₀ (doDmaOut c w s) :=
  State.coreInstr_keeps h fun _ _ h => runDmaOut_canon h

theorem doGather_keeps {s₀ : State} {c : Fin 8} {w : BitVec 128} {s : State} (h : Keeps s₀ s) : Keeps s₀ (doGather c w s)
    := by
  refine State.coreInstr_keeps h fun _ x hx => ?_
  split
  · exact Cx.stop_canon hx
  · exact Cx.gather_canon hx

theorem doWait_keeps {s₀ : State} {c : Fin 8} {w : BitVec 128} {s : State} (h : Keeps s₀ s) : Keeps s₀ (doWait c w s) := by
  refine State.coreInstr_keeps h fun _ x hx => ?_
  dsimp only
  split
  · exact Cx.acquire_canon hx
  · exact Cx.join_canon hx

theorem Cx.satisfied_canon {c : Fin 8} {x y : Cx} (h : x.Canonical) (e : x.satisfied c = some y) : y.Canonical := by
  unfold Cx.satisfied at e
  split at e
  · cases e
  · split at e
    · cases e
      exact Cx.putCore_canon (Cx.acquire_canon ⟨Fab.Canonical.same h.mem rfl rfl rfl rfl⟩)
    · cases e

theorem doWaitSatisfied_keeps {s₀ : State} {c : Fin 8} {s : State} (h : Keeps s₀ s) : Keeps s₀ (doWaitSatisfied c s) := by
  unfold doWaitSatisfied
  split
  · exact h
  · split
    · split
      · next e => exact State.qmBack_keeps h fun k => Cx.satisfied_canon (State.cxQm_canon h k) e
      · exact h
    · split
      · next e => exact State.cxBack_keeps h fun k => Cx.putCore_canon (Cx.satisfied_canon (State.cx_canon h k) e)
      · exact h

theorem doPost_keeps {s₀ : State} {c : Fin 8} {w : BitVec 128} {s : State} (h : Keeps s₀ s) : Keeps s₀ (doPost c w s) := by
  unfold doPost
  exact State.coreInstr_keeps h (fun _ _ h => ⟨h.mem⟩)

theorem doGolden_keeps {s₀ : State} {c : Fin 8} {w : BitVec 128} {s : State} (h : Keeps s₀ s) : Keeps s₀ (doGolden c w s)
    := by
  unfold doGolden
  exact State.coreInstr_keeps h (fun _ _ h => ⟨h.mem⟩)

theorem doCoppice_keeps {s₀ : State} {c : Fin 8} {w : BitVec 128} {d : Bool} {g : Option DWord} {r : Bool} {s : State}
    (h : Keeps s₀ s) : Keeps s₀ (doCoppice c w d g r s) := by
  have h1 : Keeps s₀ (s.coreInstr c 0xE w fun _ x => did x) := State.coreInstr_keeps h fun _ _ h => h
  unfold doCoppice
  dsimp only
  split
  · exact State.runSlice_keeps h1
  · exact h1




theorem State.runCommandRec_keeps {s₀ : State} {q : QmRun} {s : State} (h : Keeps s₀ s) : Keeps s₀ (State.runCommandRec q
    s) := by
  unfold State.runCommandRec
  dsimp only
  repeat' (first
    | exact State.endQm_keeps h | exact State.qmBack_keeps h fun k => ⟨(Cx.runRecord_canon (State.cxQm_canon h k)).mem⟩
    | split)

theorem State.engineBack_keeps {s₀ s : State} {e : Engine} {r : EngRecord} {x : Cx} (h : Keeps s₀ s)
    (hx : s₀.Canonical → x.Canonical) : Keeps s₀ (s.engineBack e r x) := by
  unfold State.engineBack; dsimp only
  split
  · exact h
  exact Keeps.onFab (State.cxBack_keeps h hx) fun k => Fab.putEngine_canon k

theorem State.runEngineRec_keeps {s₀ : State} {e : Engine} {rec_ : ℕ} {op : ℕ} {s : State} (h : Keeps s₀ s) : Keeps s₀
    (State.runEngineRec e rec_ op s) := by
  unfold State.runEngineRec
  dsimp only
  split
  · exact h
  · split
    · exact h
    · split
      · exact h
      · split
        · exact State.engineBack_keeps h fun k => State.cx_canon h k
        · split
          · exact h
          · exact State.engineBack_keeps h fun k => Cx.runRecord_canon (State.cx_canon h k)

theorem State.operatorRow_keeps {s₀ : State} {op : ℕ} {u : Cu} {rec_ : ℕ} {s : State} (h : Keeps s₀ s) : Keeps s₀
    (State.operatorRow op u rec_ s) := by
  unfold State.operatorRow
  repeat' (first
    | with_reducible assumption | (with_reducible apply State.runEngineRec_keeps)
    | (with_reducible apply State.runCommandRec_keeps) | split)

theorem doGatherDescriptor_keeps {s₀ : State} {s : State} (h : Keeps s₀ s) : Keeps s₀ (doGatherDescriptor s) := by
  unfold doGatherDescriptor
  dsimp only
  split
  · exact h
  · split
    · exact h
    · split
      · exact Keeps.onFab h fun k => Fab.putEngine_canon k
      · split
        · exact State.engineBack_keeps h fun k => State.cx_canon h k
        · split
          · exact h
          · exact State.engineBack_keeps h fun k => Cx.gather_canon (State.cx_canon h k)
theorem State.releaseSlots_keeps {s₀ : State} {a : Contract} {e : StepEdges} {s : State} (h : Keeps s₀ s) : Keeps s₀
    (State.releaseSlots a e s) := by
  unfold State.releaseSlots
  repeat' (first
    | with_reducible assumption | (with_reducible apply Keeps.onSen) | (with_reducible apply Keeps.foldl)
    | (refine fun t a (ht : Keeps s₀ t) => ?_) | split)

theorem State.commitTiles_keeps {s₀ : State} {e : StepEntry} {s : State} (h : Keeps s₀ s) : Keeps s₀ (State.commitTiles e
    s) := by
  unfold State.commitTiles
  repeat' (first | with_reducible assumption | (with_reducible apply Keeps.onEmt) | split | dsimp only)

theorem State.commitObjects_keeps {s₀ : State} {a : Contract} {e : StepEdges} {s : State} (h : Keeps s₀ s) : Keeps s₀
    (State.commitObjects a e s) := by
  unfold State.commitObjects
  repeat' (first
    | with_reducible assumption | (with_reducible apply State.emitObjects_keeps) | (with_reducible apply Keeps.onEmt)
    | (intro x; refine (have hx : Keeps s₀ x := ?_; ?_); rotate_left; clear_value x; rotate_right; subst x) | split
    | dsimp only)

theorem State.stepTransient_keeps {s₀ : State} {e : StepEntry} {run : Run} {s : State} (h : Keeps s₀ s) : Keeps s₀
    (State.stepTransient e run s) := by
  unfold State.stepTransient
  repeat' (first
    | with_reducible assumption | (with_reducible apply State.countErr_keeps)
    | (with_reducible apply State.recordFault_keeps) | (with_reducible apply Keeps.onEmt) | split)

theorem State.programEnd_keeps {s₀ : State} {a : Contract} {v : List ℤ} {s : State} (h : Keeps s₀ s) : Keeps s₀
    (State.programEnd a v s) := by
  unfold State.programEnd
  repeat' (first
    | with_reducible assumption | (with_reducible apply State.boundaryStart_keeps)
    | (with_reducible apply State.openWindow_keeps) | (with_reducible apply State.splitBoundary_keeps)
    | (with_reducible apply State.stopReply_keeps) | (with_reducible apply Keeps.onCtr)
    | (with_reducible apply Keeps.onEmt)
    | (intro x; refine (have hx : Keeps s₀ x := ?_; ?_); rotate_left; clear_value x; rotate_right; subst x) | split
    | dsimp only)

theorem Cx.committed_canon {x : Cx} (h : x.Canonical) : x.committed.Canonical := by
  unfold Cx.committed
  have h1 : (x.run.recs.foldl Cx.commitRecord x).Canonical := Cx.Canonical.foldl h fun _ _ k => Cx.commitRecord_canon k
  have h2 := Fab.applyJournal_canon (j := (x.run.recs.foldl Cx.commitRecord x).run.journal) h1.mem
  have h3 : ∀ l : List (Nat × Nat), (l.foldl (fun f p => f.putSem p.1 (satU 32 (f.sem p.1 + p.2)))
      ((x.run.recs.foldl Cx.commitRecord x).fab.applyJournal (x.run.recs.foldl Cx.commitRecord x).run.journal)).Canonical :=
    fun l => Fab.Canonical.foldl h2 fun _ _ k => Fab.putSem_canon k
  dsimp only
  split
  · exact Fab.commitCaches_canon (h3 _)
  · exact h3 _

theorem State.commitStep_keeps {s₀ s : State} {a : Contract} {e : StepEntry} {x : Cx} {w v : List ℤ} (h : Keeps s₀ s)
    (hx : s₀.Canonical → x.Canonical) : Keeps s₀ (s.commitStep a e x w v) := by
  unfold State.commitStep
  have h1 : ∀ (l : List RecTotals) (fr : Nat), Keeps s₀ (l.foldl (fun s _ => s.note 0x1008 sevWarning e.unit e.id fr 0) s) :=
    fun l fr => Keeps.foldl h fun _ _ ht => State.note_keeps ht
  have h2 : ∀ (l : List RecTotals) (fr : Nat) (edges : StepEdges) (f : Ctr → Ctr), Keeps s₀ ((((((l.foldl (fun s _ =>
      s.note 0x1008 sevWarning e.unit e.id fr 0) s).onFab fun _ => x.committed).releaseSlots a edges).onCtr f).commitTiles e).commitObjects
        a edges) := fun l fr edges f =>
    State.commitObjects_keeps (State.commitTiles_keeps (Keeps.onCtr (State.releaseSlots_keeps (Keeps.onFab' (h1 l fr)
      fun k => Cx.committed_canon (hx k)))))
  dsimp only
  split
  · exact State.programEnd_keeps (State.stepTransient_keeps (h2 _ _ _ _))
  · exact State.stepTransient_keeps (h2 _ _ _ _)

theorem State.restCore_keeps {s₀ : State} {c : Fin 8} {idx : ℕ} {run : Run} {s : State} (h : Keeps s₀ s) : Keeps s₀
    (State.restCore c idx run s) := by
  unfold State.restCore
  repeat' (first
    | with_reducible assumption | (with_reducible apply Keeps.onFab) | (refine fun (hf : Fab.Canonical _) => ?_)
    | (with_reducible apply Fab.Canonical.mem; with_reducible assumption))

theorem State.coreAgain_keeps {s₀ : State} {c : Fin 8} {e : StepEntry} {run : Run} {s : State} (h : Keeps s₀ s) : Keeps s₀
    (State.coreAgain c e run s) := by
  unfold State.coreAgain
  repeat' (first
    | with_reducible assumption | (with_reducible apply State.restCore_keeps) | (with_reducible apply Keeps.onFab)
    | (with_reducible apply Fab.returnHeld_canon))

theorem State.commitCore_keeps {s₀ : State} {c : Fin 8} {w v : List ℤ} {s : State} (h : Keeps s₀ s) : Keeps s₀
    (State.commitCore c w v s) := by
  have h1 : ∀ i r, Keeps s₀ (s.restCore c i r) := fun _ _ => State.restCore_keeps h
  unfold State.commitCore
  dsimp only
  repeat' (first
    | with_reducible exact h | with_reducible exact State.coreAgain_keeps h | with_reducible apply Keeps.onFab h
    | (refine fun k => ?_; with_reducible exact Fab.Canonical.mem k)
    | (with_reducible refine State.commitStep_keeps (h1 _ _) ?_; exact fun k => ⟨((h1 _ _).canon k).fab⟩) | split)

theorem State.restEngine_keeps {s₀ : State} {g : Engine} {next : ℕ} {run : Run} {s : State} (h : Keeps s₀ s) : Keeps s₀
    (State.restEngine g next run s) := by
  unfold State.restEngine
  repeat' (first
    | with_reducible assumption | (with_reducible apply Keeps.onFab) | (with_reducible apply Fab.putEngine_canon))

theorem State.engineSlice_keeps {s₀ : State} {g : Engine} {e : StepEntry} {digestOk : Bool} {signature : Option DWord}
    {restoreFail : Bool} {s : State} (h : Keeps s₀ s) : Keeps s₀ (State.engineSlice g e digestOk signature restoreFail s)
    := by
  unfold State.engineSlice
  repeat' (first | with_reducible assumption | (with_reducible apply State.runSlice_keeps) | split)

theorem State.commitEngine_keeps {s₀ : State} {g : Engine} {w v : List ℤ} {s : State} (h : Keeps s₀ s) : Keeps s₀
    (State.commitEngine g w v s) := by
  have h1 : ∀ i r, Keeps s₀ (s.restEngine g i r) := fun _ _ => State.restEngine_keeps h
  unfold State.commitEngine
  dsimp only
  split
  · exact h
  · split
    · exact h
    · split
      · exact h
      · split
        · exact State.restEngine_keeps (Keeps.onFab h fun k => Fab.returnHeld_canon k)
        · exact State.engineSlice_keeps (State.commitStep_keeps (h1 _ _) fun k => ⟨((h1 _ _).canon k).fab⟩)

theorem State.freshCores_keeps {s₀ : State} {m : BitVec 8} {s : State} (h : Keeps s₀ s) : Keeps s₀ (State.freshCores m s)
    := by
  unfold State.freshCores
  repeat' (first
    | with_reducible assumption | (with_reducible apply Keeps.onFab) | (refine fun (hf : Fab.Canonical _) => ?_)
    | (with_reducible apply Fab.Canonical.mem; with_reducible assumption))

theorem State.qmAgain_keeps {s₀ : State} {q : QmRun} {run : Run} {s : State} (h : Keeps s₀ s) : Keeps s₀ (State.qmAgain q
    run s) := by
  unfold State.qmAgain
  repeat' (first
    | with_reducible assumption | (with_reducible apply State.freshCores_keeps) | (with_reducible apply Keeps.onCpx)
    | (with_reducible apply Keeps.onFab) | (refine fun (hf : Fab.Canonical _) => ?_)
    | (with_reducible apply Fab.returnHeld_canon) | (with_reducible apply Fab.dropProvisional_canon))

theorem State.commitQm_keeps {s₀ : State} {q : QmRun} {w : List ℤ} {s : State} (h : Keeps s₀ s) : Keeps s₀
    (State.commitQm q w s) := by
  unfold State.commitQm
  lift_lets
  intro x w a
  have ha : Keeps s₀ a := Keeps.onFab' h fun k => Cx.committed_canon (State.cxQm_canon h k)
  clear_value a
  intro b
  have hb : Keeps s₀ b := Keeps.foldl ha fun _ _ ht => State.hostWrite_keeps ht
  clear_value b
  intro c
  have hc : Keeps s₀ c := by
    subst c; split
    · exact State.countErr_keeps (State.recordFault_keeps hb)
    · exact hb
  clear_value c
  dsimp only
  have fin : ∀ {st dt res wv ns : Nat}, Keeps s₀ (((c.onCpx fun c => { c with qm := none }).replyAll q.pkt st dt res wv ns).answerKills 1) :=
    State.answerKills_keeps (State.replyAll_keeps (Keeps.onCpx hc))
  repeat' (first | exact State.boundary_keeps fin | exact State.boundary_keeps (State.teardown_keeps fin) | split)

theorem State.commitCmd_keeps {s₀ : State} {w : List ℤ} {s : State} (h : Keeps s₀ s) : Keeps s₀ (State.commitCmd w s) := by
  unfold State.commitCmd
  repeat' (first
    | with_reducible assumption | (with_reducible apply State.endQm_keeps) | (with_reducible apply State.qmAgain_keeps)
    | (with_reducible apply State.commitQm_keeps) | (with_reducible apply Keeps.onFab)
    | (with_reducible apply Fab.dropClean_canon) | split | dsimp only)

theorem doCommit_keeps {s₀ : State} {u : Cu} {w v : List ℤ} {s : State} (h : Keeps s₀ s) : Keeps s₀ (doCommit u w v s) := by
  unfold doCommit
  repeat' (first
    | with_reducible assumption | (with_reducible apply State.commitCore_keeps)
    | (with_reducible apply State.commitEngine_keeps) | (with_reducible apply State.commitCmd_keeps) | split)

theorem State.stepSuspect_keeps {s₀ : State} {run : Run} {s : State} (h : Keeps s₀ s) : Keeps s₀ (State.stepSuspect run s)
    := by
  unfold State.stepSuspect
  repeat' (first
    | with_reducible assumption | (with_reducible apply State.suspectAs_keeps) | (with_reducible apply Keeps.onEmt)
    | (intro x; refine (have hx : Keeps s₀ x := ?_; ?_); rotate_left; clear_value x; rotate_right; subst x) | split)

theorem State.replayCore_keeps {s₀ : State} {c : Fin 8} {report : Option FailReport} {s : State} (h : Keeps s₀ s) : Keeps
    s₀ (State.replayCore c report s) := by
  unfold State.replayCore
  repeat' (first
    | with_reducible assumption | (with_reducible apply State.coreAgain_keeps)
    | (with_reducible apply State.stepSuspect_keeps) | (with_reducible apply State.restCore_keeps)
    | (with_reducible apply Keeps.onFab) | (refine fun (hf : Fab.Canonical _) => ?_)
    | (with_reducible apply Fab.returnHeld_canon) | (with_reducible apply Fab.Canonical.mem; with_reducible assumption)
    | split | dsimp only)

theorem State.replayEngine_keeps {s₀ : State} {g : Engine} {report : Option FailReport} {s : State} (h : Keeps s₀ s) :
    Keeps s₀ (State.replayEngine g report s) := by
  unfold State.replayEngine
  repeat' (first
    | with_reducible assumption | (with_reducible apply State.restEngine_keeps)
    | (with_reducible apply State.stepSuspect_keeps) | (with_reducible apply Keeps.onFab)
    | (with_reducible apply Fab.returnHeld_canon)
    | (intro x; refine (have hx : Keeps s₀ x := ?_; ?_); rotate_left; clear_value x; rotate_right; subst x) | split
    | dsimp only)

theorem State.cmdSuspect_keeps {s₀ : State} {q : QmRun} {run : Run} {s : State} (h : Keeps s₀ s) : Keeps s₀
    (State.cmdSuspect q run s) := by
  unfold State.cmdSuspect
  repeat' (first
    | with_reducible assumption | (with_reducible apply State.replyAll_keeps)
    | (with_reducible apply State.answerKills_keeps) | (with_reducible apply State.teardown_keeps)
    | (with_reducible apply State.suspectAs_keeps) | (with_reducible apply Keeps.onCpx)
    | (with_reducible apply Keeps.onFab) | (refine fun (hf : Fab.Canonical _) => ?_)
    | (with_reducible apply Fab.returnHeld_canon) | (with_reducible apply Fab.dropProvisional_canon)
    | (intro x; refine (have hx : Keeps s₀ x := ?_; ?_); rotate_left; clear_value x; rotate_right; subst x) | split)

theorem State.replayCmd_keeps {s₀ : State} {report : Option FailReport} {s : State} (h : Keeps s₀ s) : Keeps s₀
    (State.replayCmd report s) := by
  unfold State.replayCmd
  repeat' (first
    | with_reducible assumption | (with_reducible apply State.qmAgain_keeps)
    | (with_reducible apply State.cmdSuspect_keeps) | (with_reducible apply Keeps.onCpx) | split | dsimp only)

theorem doReplay_keeps {s₀ : State} {u : Cu} {report : Option FailReport} {s : State} (h : Keeps s₀ s) : Keeps s₀
    (doReplay u report s) := by
  unfold doReplay
  repeat' (first
    | with_reducible assumption | (with_reducible apply State.suspectAtOnce_keeps)
    | (with_reducible apply State.faultNoUnit_keeps) | (with_reducible apply State.replayCore_keeps)
    | (with_reducible apply State.replayEngine_keeps) | (with_reducible apply State.replayCmd_keeps) | split)

theorem State.startOp_keeps {s₀ : State} {pk : Packet} {j : Job} {streams : List (ℕ × List (BitVec 128))} {banks : List ℕ}
    {segs : List ℕ} {s : State} (h : Keeps s₀ s) : Keeps s₀ (State.startOp pk j streams banks segs s) := by
  unfold State.startOp
  repeat' (first
    | with_reducible assumption | (with_reducible apply State.freshCores_keeps)
    | (with_reducible apply State.runCommandRec_keeps) | (with_reducible apply Keeps.onCpx)
    | (intro x; refine (have hx : Keeps s₀ x := ?_; ?_); rotate_left; clear_value x; rotate_right; subst x) | split)

theorem doRunOp_keeps {s₀ : State} {ring : ℕ} {streams : List (ℕ × List (BitVec 128))} {banks : List ℕ} {segs : List ℕ} {s
    : State} (h : Keeps s₀ s) : Keeps s₀ (doRunOp ring streams banks segs s) := by
  unfold doRunOp
  repeat' (first
    | with_reducible assumption | (with_reducible apply State.boundary_keeps)
    | (with_reducible apply State.strayCmd_keeps) | (with_reducible apply State.startCmd_keeps)
    | (with_reducible apply State.replyAll_keeps) | (with_reducible apply State.startOp_keeps)
    | (refine fun t (ht : Keeps s₀ t) => ?_)
    | (intro x; refine (have hx : Keeps s₀ x := ?_; ?_); rotate_left; clear_value x; rotate_right; subst x)
    | (intro (x : Packet)) | split | dsimp only)

theorem doCoppiceSlice_keeps {s₀ : State} {digestOk : Bool} {signature : Option DWord} {restoreFail : Bool} {s : State} (h
    : Keeps s₀ s) : Keeps s₀ (doCoppiceSlice digestOk signature restoreFail s) := by
  unfold doCoppiceSlice
  repeat' (first
    | with_reducible assumption | (with_reducible apply State.advance_keeps) | (with_reducible apply State.runSlice_keeps)
    | (with_reducible apply Keeps.onCpx) | (with_reducible apply Keeps.onEvr) | (exact (id : _ ≤ 1024 → _))
    | (intro x; refine (have hx : Keeps s₀ x := ?_; ?_); rotate_left; clear_value x; rotate_right; subst x) | split)

theorem State.copyInit_keeps {s₀ : State} {d : Draft} {s : State} (h : Keeps s₀ s) : Keeps s₀ (State.copyInit d s) := by
  unfold State.copyInit
  repeat' (first
    | with_reducible assumption | (with_reducible apply Keeps.onFab) | (with_reducible apply Keeps.foldl)
    | (with_reducible apply Fab.pokes_canon) | (refine fun t a (ht : Keeps s₀ t) => ?_) | split)

theorem State.copyModel_keeps {s₀ : State} {d : Draft} {s : State} (h : Keeps s₀ s) : Keeps s₀ (State.copyModel d s) := by
  unfold State.copyModel
  repeat' (first
    | with_reducible assumption | (with_reducible apply Keeps.onCkc) | (with_reducible apply Keeps.onFab)
    | (refine fun (hf : Fab.Canonical _) => ?_) | (exact ⟨hf.dram, hf.sb, Memory.wf_memPut hf.ckc, hf.spad⟩))

theorem State.stageContract_keeps {s₀ : State} {pk : Packet} {d : Draft} {addr : ℕ} {base : ℕ} {s : State} (h : Keeps s₀
    s) : Keeps s₀ (State.stageContract pk d addr base s) := by
  unfold State.stageContract
  repeat' (first
    | with_reducible assumption | (with_reducible apply State.putDram_keeps) | (with_reducible apply State.powerOn_keeps)
    | (with_reducible apply State.copyModel_keeps) | (with_reducible apply State.copyInit_keeps)
    | (with_reducible apply State.done_keeps) | (with_reducible apply Keeps.onCtr))

theorem doLoadContract_keeps {s₀ : State} {ring : ℕ} {sigOk : Bool} {injFail : Option ℕ} {s : State} (h : Keeps s₀ s) :
    Keeps s₀ (doLoadContract ring sigOk injFail s) := by
  unfold doLoadContract
  repeat' (first
    | with_reducible assumption | (with_reducible apply State.runPacket_keeps)
    | (with_reducible apply State.notReady_keeps) | (with_reducible apply State.bad_keeps)
    | (with_reducible apply State.noRes_keeps) | (with_reducible apply State.bumpFree_keeps)
    | (with_reducible apply State.reply_keeps) | (with_reducible apply State.note_keeps)
    | (with_reducible apply State.stageContract_keeps) | (refine fun t (ht : Keeps s₀ t) => ?_) | (intro (x : Packet))
    | split | dsimp only)

theorem idle_keeps {s₀ : State} {s : State} (h : Keeps s₀ s) : Keeps s₀ (idle s) := by
  unfold idle
  repeat' (first
    | with_reducible assumption | (with_reducible apply State.settlePulses_keeps) | (with_reducible apply Keeps.onTim)
    | (with_reducible apply Keeps.foldl) | (refine fun t a (ht : Keeps s₀ t) => ?_)
    | (refine fun a t (ht : Keeps s₀ t) => ?_) | (refine fun t (ht : Keeps s₀ t) => ?_)
    | (intro x; refine (have hx : Keeps s₀ x := ?_; ?_); rotate_left; clear_value x; rotate_right; subst x)
    | (intro x; refine (have hx : Keeps s₀ x.2 := ?_; ?_); rotate_left; clear_value x; rotate_right; subst x)
    | (intro x; refine (have hx : Keeps s₀ x.2.2 := ?_; ?_); rotate_left; clear_value x; rotate_right; subst x)
    | (intro x; clear_value x) | (intro (x : Nat)) | lift_lets | (intro (x : Packet)) | split | dsimp only)

end Sys2Proof.Machine
end

