-- ==== Sys2Proof/Laws/KeepsExec.lean ====
section
/-! SUPPORT. Every command keeps what `Keeps` says. -/

namespace Sys2Proof.Machine

theorem execDoorbell_keeps {page : ℕ} {offset : ℕ} {width : ℕ} {value : Option DWord} {s : State} {t : State} (h : execDoorbell page offset width value s = .next t) :
    Keeps s t := by
  cases h; exact doDoorbell_keeps (Keeps.refl s)

theorem execPacketFetch_keeps {ring : ℕ} {pkt : BitVec 512} {s : State} {t : State} (h : execPacketFetch ring pkt s = .next t) :
    Keeps s t := by
  cases h; exact doPacketFetch_keeps (Keeps.refl s)

theorem execReadError_keeps {e : BusEvent} {s : State} {t : State} (h : execReadError e s = .next t) :
    Keeps s t := by
  cases h; exact doReadError_keeps (Keeps.refl s)

theorem execHello_keeps {ring : ℕ} {s : State} {t : State} (h : execHello ring s = .next t) :
    Keeps s t := by
  cases h; exact doHello_keeps (Keeps.refl s)

theorem execQueryCaps_keeps {ring : ℕ} {s : State} {t : State} (h : execQueryCaps ring s = .next t) :
    Keeps s t := by
  cases h; exact doQueryCaps_keeps (Keeps.refl s)

theorem execOpenClient_keeps {ring : ℕ} {s : State} {t : State} (h : execOpenClient ring s = .next t) :
    Keeps s t := by
  cases h; exact doOpenClient_keeps (Keeps.refl s)

theorem execCloseClient_keeps {ring : ℕ} {s : State} {t : State} (h : execCloseClient ring s = .next t) :
    Keeps s t := by
  cases h; exact doCloseClient_keeps (Keeps.refl s)

theorem execCreateRing_keeps {ring : ℕ} {s : State} {t : State} (h : execCreateRing ring s = .next t) :
    Keeps s t := by
  cases h; exact doCreateRing_keeps (Keeps.refl s)

theorem execDestroyRing_keeps {ring : ℕ} {s : State} {t : State} (h : execDestroyRing ring s = .next t) :
    Keeps s t := by
  cases h; exact doDestroyRing_keeps (Keeps.refl s)

theorem execLoadContract_keeps {ring : ℕ} {sigOk : Bool} {injFail : Option ℕ} {s : State} {t : State} (h : execLoadContract ring sigOk injFail s = .next t) :
    Keeps s t := by
  cases h; exact doLoadContract_keeps (Keeps.refl s)

theorem execArmContract_keeps {ring : ℕ} {s : State} {t : State} (h : execArmContract ring s = .next t) :
    Keeps s t := by
  cases h; exact doArmContract_keeps (Keeps.refl s)

theorem execLaunchAt_keeps {ring : ℕ} {s : State} {t : State} (h : execLaunchAt ring s = .next t) :
    Keeps s t := by
  cases h; exact doLaunchAt_keeps (Keeps.refl s)

theorem execStopFrames_keeps {ring : ℕ} {s : State} {t : State} (h : execStopFrames ring s = .next t) :
    Keeps s t := by
  cases h; exact doStopFrames_keeps (Keeps.refl s)

theorem execProgramAborted_keeps {s : State} {t : State} (h : execProgramAborted s = .next t) :
    Keeps s t := by
  cases h; exact doProgramAborted_keeps (Keeps.refl s)

theorem execSubmitJob_keeps {ring : ℕ} {s : State} {t : State} (h : execSubmitJob ring s = .next t) :
    Keeps s t := by
  cases h; exact doSubmitJob_keeps (Keeps.refl s)

theorem execJobDispatch_keeps {s : State} {t : State} (h : execJobDispatch s = .next t) :
    Keeps s t := by
  cases h; exact doJobDispatch_keeps (Keeps.refl s)

theorem execRunOp_keeps {ring : ℕ} {streams : List (ℕ × List (BitVec 128))} {banks : List ℕ} {segs : List ℕ} {s : State} {t : State} (h : execRunOp ring streams banks segs s = .next t) :
    Keeps s t := by
  cases h; exact doRunOp_keeps (Keeps.refl s)

theorem execEndJob_keeps {ring : ℕ} {s : State} {t : State} (h : execEndJob ring s = .next t) :
    Keeps s t := by
  cases h; exact doEndJob_keeps (Keeps.refl s)

theorem execKill_keeps {ring : ℕ} {late : Bool} {s : State} {t : State} (h : execKill ring late s = .next t) :
    Keeps s t := by
  cases h; exact doKill_keeps (Keeps.refl s)

theorem execSetCapacity_keeps {ring : ℕ} {s : State} {t : State} (h : execSetCapacity ring s = .next t) :
    Keeps s t := by
  cases h; exact doSetCapacity_keeps (Keeps.refl s)

theorem execSeqJoin_keeps {ring : ℕ} {s : State} {t : State} (h : execSeqJoin ring s = .next t) :
    Keeps s t := by
  cases h; exact doSeqJoin_keeps (Keeps.refl s)

theorem execSeqLeave_keeps {ring : ℕ} {s : State} {t : State} (h : execSeqLeave ring s = .next t) :
    Keeps s t := by
  cases h; exact doSeqLeave_keeps (Keeps.refl s)

theorem execMapBuffer_keeps {ring : ℕ} {s : State} {t : State} (h : execMapBuffer ring s = .next t) :
    Keeps s t := by
  cases h; exact doMapBuffer_keeps (Keeps.refl s)

theorem execUnmapBuffer_keeps {ring : ℕ} {s : State} {t : State} (h : execUnmapBuffer ring s = .next t) :
    Keeps s t := by
  cases h; exact doUnmapBuffer_keeps (Keeps.refl s)

theorem execCamera_keeps {ring : ℕ} {s : State} {t : State} (h : execCamera ring s = .next t) :
    Keeps s t := by
  cases h; exact doCamera_keeps (Keeps.refl s)

theorem execCamParams_keeps {ring : ℕ} {s : State} {t : State} (h : execCamParams ring s = .next t) :
    Keeps s t := by
  cases h; exact doCamParams_keeps (Keeps.refl s)

theorem execLidar_keeps {ring : ℕ} {s : State} {t : State} (h : execLidar ring s = .next t) :
    Keeps s t := by
  cases h; exact doLidar_keeps (Keeps.refl s)

theorem execMotion_keeps {ring : ℕ} {s : State} {t : State} (h : execMotion ring s = .next t) :
    Keeps s t := by
  cases h; exact doMotion_keeps (Keeps.refl s)

theorem execCci_keeps {ring : ℕ} {s : State} {t : State} (h : execCci ring s = .next t) :
    Keeps s t := by
  cases h; exact doCci_keeps (Keeps.refl s)

theorem execDisable_keeps {ring : ℕ} {s : State} {t : State} (h : execDisable ring s = .next t) :
    Keeps s t := by
  cases h; exact doDisable_keeps (Keeps.refl s)

theorem execFsyncSchedule_keeps {ring : ℕ} {s : State} {t : State} (h : execFsyncSchedule ring s = .next t) :
    Keeps s t := by
  cases h; exact doFsyncSchedule_keeps (Keeps.refl s)

theorem execTimeConfig_keeps {ring : ℕ} {s : State} {t : State} (h : execTimeConfig ring s = .next t) :
    Keeps s t := by
  cases h; exact doTimeConfig_keeps (Keeps.refl s)

theorem execTimeAcceptStep_keeps {ring : ℕ} {s : State} {t : State} (h : execTimeAcceptStep ring s = .next t) :
    Keeps s t := by
  cases h; exact doTimeAcceptStep_keeps (Keeps.refl s)

theorem execLogRead_keeps {ring : ℕ} {s : State} {t : State} (h : execLogRead ring s = .next t) :
    Keeps s t := by
  cases h; exact doLogRead_keeps (Keeps.refl s)

theorem execLogClear_keeps {ring : ℕ} {auth : List Byte} {sigOk : Bool} {s : State} {t : State} (h : execLogClear ring auth sigOk s = .next t) :
    Keeps s t := by
  cases h; exact doLogClear_keeps (Keeps.refl s)

theorem execStatsRead_keeps {ring : ℕ} {s : State} {t : State} (h : execStatsRead ring s = .next t) :
    Keeps s t := by
  cases h; exact doStatsRead_keeps (Keeps.refl s)

theorem execUpdateBegin_keeps {ring : ℕ} {s : State} {t : State} (h : execUpdateBegin ring s = .next t) :
    Keeps s t := by
  cases h; exact doUpdateBegin_keeps (Keeps.refl s)

theorem execUpdateData_keeps {ring : ℕ} {src : List Byte} {s : State} {t : State} (h : execUpdateData ring src s = .next t) :
    Keeps s t := by
  cases h; exact doUpdateData_keeps (Keeps.refl s)

theorem execUpdateCommit_keeps {ring : ℕ} {sigOk : Bool} {s : State} {t : State} (h : execUpdateCommit ring sigOk s = .next t) :
    Keeps s t := by
  cases h; exact doUpdateCommit_keeps (Keeps.refl s)

theorem execImageAreaWrite_keeps {mismatches : ℕ} {s : State} {t : State} (h : execImageAreaWrite mismatches s = .next t) :
    Keeps s t := by
  cases h; exact doImageAreaWrite_keeps (Keeps.refl s)

theorem execRecoverySelfReset_keeps {s : State} {t : State} (h : execRecoverySelfReset s = .next t) :
    Keeps s t := by
  cases h; exact doRecoverySelfReset_keeps (Keeps.refl s)

theorem execAttest_keeps {ring : ℕ} {s : State} {t : State} (h : execAttest ring s = .next t) :
    Keeps s t := by
  cases h; exact doAttest_keeps (Keeps.refl s)

theorem execAuthChallenge_keeps {ring : ℕ} {s : State} {t : State} (h : execAuthChallenge ring s = .next t) :
    Keeps s t := by
  cases h; exact doAuthChallenge_keeps (Keeps.refl s)

theorem execChallengeExpiry_keeps {purpose : Fin 4} {s : State} {t : State} (h : execChallengeExpiry purpose s = .next t) :
    Keeps s t := by
  cases h; exact doChallengeExpiry_keeps (Keeps.refl s)

theorem execPrepareOff_keeps {ring : ℕ} {s : State} {t : State} (h : execPrepareOff ring s = .next t) :
    Keeps s t := by
  cases h; exact doPrepareOff_keeps (Keeps.refl s)

theorem execOffReady_keeps {repairs : List Repair} {unrepaired : Option TestFail} {s : State} {t : State} (h : execOffReady repairs unrepaired s = .next t) :
    Keeps s t := by
  cases h; exact doOffReady_keeps (Keeps.refl s)

theorem execDiagRun_keeps {ring : ℕ} {auth : List Byte} {sigOk : Bool} {s : State} {t : State} (h : execDiagRun ring auth sigOk s = .next t) :
    Keeps s t := by
  cases h; exact doDiagRun_keeps (Keeps.refl s)

theorem execFlagClear_keeps {ring : ℕ} {auth : List Byte} {sigOk : Bool} {s : State} {t : State} (h : execFlagClear ring auth sigOk s = .next t) :
    Keeps s t := by
  cases h; exact doFlagClear_keeps (Keeps.refl s)

theorem execCheckerSplit_keeps {ring : ℕ} {s : State} {t : State} (h : execCheckerSplit ring s = .next t) :
    Keeps s t := by
  cases h; exact doCheckerSplit_keeps (Keeps.refl s)

theorem execCheckerJoin_keeps {ring : ℕ} {s : State} {t : State} (h : execCheckerJoin ring s = .next t) :
    Keeps s t := by
  cases h; exact doCheckerJoin_keeps (Keeps.refl s)

theorem execDiscover_keeps {ring : ℕ} {s : State} {t : State} (h : execDiscover ring s = .next t) :
    Keeps s t := by
  cases h; exact doDiscover_keeps (Keeps.refl s)

theorem execHalt_keeps {c : Fin 8} {w : BitVec 128} {s : State} {t : State} (h : execHalt c w s = .next t) :
    Keeps s t := by
  cases h; exact doHalt_keeps (Keeps.refl s)

theorem execLoadw_keeps {c : Fin 8} {w : BitVec 128} {s : State} {t : State} (h : execLoadw c w s = .next t) :
    Keeps s t := by
  cases h; exact doLoadw_keeps (Keeps.refl s)

theorem execMma_keeps {c : Fin 8} {w : BitVec 128} {s : State} {t : State} (h : execMma c w s = .next t) :
    Keeps s t := by
  cases h; exact doMma_keeps (Keeps.refl s)

theorem execConv_keeps {c : Fin 8} {w : BitVec 128} {s : State} {t : State} (h : execConv c w s = .next t) :
    Keeps s t := by
  cases h; exact doConv_keeps (Keeps.refl s)

theorem execDrain_keeps {c : Fin 8} {w : BitVec 128} {s : State} {t : State} (h : execDrain c w s = .next t) :
    Keeps s t := by
  cases h; exact doDrain_keeps (Keeps.refl s)

theorem execVop_keeps {c : Fin 8} {w : BitVec 128} {s : State} {t : State} (h : execVop c w s = .next t) :
    Keeps s t := by
  cases h; exact doVop_keeps (Keeps.refl s)

theorem execScalar_keeps {c : Fin 8} {w : BitVec 128} {s : State} {t : State} (h : execScalar c w s = .next t) :
    Keeps s t := by
  cases h; exact doScalar_keeps (Keeps.refl s)

theorem execSegEnd_keeps {c : Fin 8} {s : State} {t : State} (h : execSegEnd c s = .next t) :
    Keeps s t := by
  cases h; exact doSegEnd_keeps (Keeps.refl s)

theorem execFcvtBf16S_keeps {c : Fin 8} {rd : Fin 32} {rs : Fin 32} {s : State} {t : State} (h : execFcvtBf16S c rd rs s = .next t) :
    Keeps s t := by
  cases h; exact doFcvtBf16S_keeps (Keeps.refl s)

theorem execFcvtSBf16_keeps {c : Fin 8} {rd : Fin 32} {rs : Fin 32} {s : State} {t : State} (h : execFcvtSBf16 c rd rs s = .next t) :
    Keeps s t := by
  cases h; exact doFcvtSBf16_keeps (Keeps.refl s)

theorem execFcvtE4m3S_keeps {c : Fin 8} {rd : Fin 32} {rs : Fin 32} {s : State} {t : State} (h : execFcvtE4m3S c rd rs s = .next t) :
    Keeps s t := by
  cases h; exact doFcvtE4m3S_keeps (Keeps.refl s)

theorem execFcvtSE4m3_keeps {c : Fin 8} {rd : Fin 32} {rs : Fin 32} {s : State} {t : State} (h : execFcvtSE4m3 c rd rs s = .next t) :
    Keeps s t := by
  cases h; exact doFcvtSE4m3_keeps (Keeps.refl s)

theorem execDmaIn_keeps {c : Fin 8} {w : BitVec 128} {s : State} {t : State} (h : execDmaIn c w s = .next t) :
    Keeps s t := by
  cases h; exact doDmaIn_keeps (Keeps.refl s)

theorem execDmaOut_keeps {c : Fin 8} {w : BitVec 128} {s : State} {t : State} (h : execDmaOut c w s = .next t) :
    Keeps s t := by
  cases h; exact doDmaOut_keeps (Keeps.refl s)

theorem execGather_keeps {c : Fin 8} {w : BitVec 128} {s : State} {t : State} (h : execGather c w s = .next t) :
    Keeps s t := by
  cases h; exact doGather_keeps (Keeps.refl s)

theorem execGatherDescriptor_keeps {s : State} {t : State} (h : execGatherDescriptor s = .next t) :
    Keeps s t := by
  cases h; exact doGatherDescriptor_keeps (Keeps.refl s)

theorem execWait_keeps {c : Fin 8} {w : BitVec 128} {s : State} {t : State} (h : execWait c w s = .next t) :
    Keeps s t := by
  cases h; exact doWait_keeps (Keeps.refl s)

theorem execWaitSatisfied_keeps {c : Fin 8} {s : State} {t : State} (h : execWaitSatisfied c s = .next t) :
    Keeps s t := by
  cases h; exact doWaitSatisfied_keeps (Keeps.refl s)

theorem execPost_keeps {c : Fin 8} {w : BitVec 128} {s : State} {t : State} (h : execPost c w s = .next t) :
    Keeps s t := by
  cases h; exact doPost_keeps (Keeps.refl s)

theorem execGolden_keeps {c : Fin 8} {w : BitVec 128} {s : State} {t : State} (h : execGolden c w s = .next t) :
    Keeps s t := by
  cases h; exact doGolden_keeps (Keeps.refl s)

theorem execCoppice_keeps {c : Fin 8} {w : BitVec 128} {digestOk : Bool} {signature : Option DWord} {restoreFail : Bool} {s : State} {t : State} (h : execCoppice c w digestOk signature restoreFail s = .next t) :
    Keeps s t := by
  cases h; exact doCoppice_keeps (Keeps.refl s)

theorem execCommit_keeps {u : Cu} {w v : List ℤ} {s : State} {t : State} (h : execCommit u w v s = .next t) :
    Keeps s t := by
  cases h; exact doCommit_keeps (Keeps.refl s)

theorem execReplay_keeps {u : Cu} {report : Option FailReport} {s : State} {t : State} (h : execReplay u report s = .next t) :
    Keeps s t := by
  cases h; exact doReplay_keeps (Keeps.refl s)

theorem execDrainComplete_keeps {s : State} {t : State} (h : execDrainComplete s = .next t) :
    Keeps s t := by
  cases h; exact doDrainComplete_keeps (Keeps.refl s)

theorem execConv2d_keeps {u : Cu} {rec_ : ℕ} {s : State} {t : State} (h : execConv2d u rec_ s = .next t) :
    Keeps s t := by
  cases h; exact State.operatorRow_keeps (Keeps.refl s)

theorem execDwconv2d_keeps {u : Cu} {rec_ : ℕ} {s : State} {t : State} (h : execDwconv2d u rec_ s = .next t) :
    Keeps s t := by
  cases h; exact State.operatorRow_keeps (Keeps.refl s)

theorem execPool_keeps {u : Cu} {rec_ : ℕ} {s : State} {t : State} (h : execPool u rec_ s = .next t) :
    Keeps s t := by
  cases h; exact State.operatorRow_keeps (Keeps.refl s)

theorem execPad_keeps {u : Cu} {rec_ : ℕ} {s : State} {t : State} (h : execPad u rec_ s = .next t) :
    Keeps s t := by
  cases h; exact State.operatorRow_keeps (Keeps.refl s)

theorem execMatmul_keeps {u : Cu} {rec_ : ℕ} {s : State} {t : State} (h : execMatmul u rec_ s = .next t) :
    Keeps s t := by
  cases h; exact State.operatorRow_keeps (Keeps.refl s)

theorem execEltwise_keeps {u : Cu} {rec_ : ℕ} {s : State} {t : State} (h : execEltwise u rec_ s = .next t) :
    Keeps s t := by
  cases h; exact State.operatorRow_keeps (Keeps.refl s)

theorem execActivation_keeps {u : Cu} {rec_ : ℕ} {s : State} {t : State} (h : execActivation u rec_ s = .next t) :
    Keeps s t := by
  cases h; exact State.operatorRow_keeps (Keeps.refl s)

theorem execLayerNorm_keeps {u : Cu} {rec_ : ℕ} {s : State} {t : State} (h : execLayerNorm u rec_ s = .next t) :
    Keeps s t := by
  cases h; exact State.operatorRow_keeps (Keeps.refl s)

theorem execSoftmax_keeps {u : Cu} {rec_ : ℕ} {s : State} {t : State} (h : execSoftmax u rec_ s = .next t) :
    Keeps s t := by
  cases h; exact State.operatorRow_keeps (Keeps.refl s)

theorem execLayoutConvert_keeps {u : Cu} {rec_ : ℕ} {s : State} {t : State} (h : execLayoutConvert u rec_ s = .next t) :
    Keeps s t := by
  cases h; exact State.operatorRow_keeps (Keeps.refl s)

theorem execAttention_keeps {u : Cu} {rec_ : ℕ} {s : State} {t : State} (h : execAttention u rec_ s = .next t) :
    Keeps s t := by
  cases h; exact State.operatorRow_keeps (Keeps.refl s)

theorem execSsmScan_keeps {u : Cu} {rec_ : ℕ} {s : State} {t : State} (h : execSsmScan u rec_ s = .next t) :
    Keeps s t := by
  cases h; exact State.operatorRow_keeps (Keeps.refl s)

theorem execEmbedGather_keeps {u : Cu} {rec_ : ℕ} {s : State} {t : State} (h : execEmbedGather u rec_ s = .next t) :
    Keeps s t := by
  cases h; exact State.operatorRow_keeps (Keeps.refl s)

theorem execResize_keeps {u : Cu} {rec_ : ℕ} {s : State} {t : State} (h : execResize u rec_ s = .next t) :
    Keeps s t := by
  cases h; exact State.operatorRow_keeps (Keeps.refl s)

theorem execGridSample_keeps {u : Cu} {rec_ : ℕ} {s : State} {t : State} (h : execGridSample u rec_ s = .next t) :
    Keeps s t := by
  cases h; exact State.operatorRow_keeps (Keeps.refl s)

theorem execUndistort_keeps {u : Cu} {rec_ : ℕ} {s : State} {t : State} (h : execUndistort u rec_ s = .next t) :
    Keeps s t := by
  cases h; exact State.operatorRow_keeps (Keeps.refl s)

theorem execBevProject_keeps {u : Cu} {rec_ : ℕ} {s : State} {t : State} (h : execBevProject u rec_ s = .next t) :
    Keeps s t := by
  cases h; exact State.operatorRow_keeps (Keeps.refl s)

theorem execBoxDecode_keeps {u : Cu} {rec_ : ℕ} {s : State} {t : State} (h : execBoxDecode u rec_ s = .next t) :
    Keeps s t := by
  cases h; exact State.operatorRow_keeps (Keeps.refl s)

theorem execTopk_keeps {u : Cu} {rec_ : ℕ} {s : State} {t : State} (h : execTopk u rec_ s = .next t) :
    Keeps s t := by
  cases h; exact State.operatorRow_keeps (Keeps.refl s)

theorem execNms_keeps {u : Cu} {rec_ : ℕ} {s : State} {t : State} (h : execNms u rec_ s = .next t) :
    Keeps s t := by
  cases h; exact State.operatorRow_keeps (Keeps.refl s)

theorem execQuantise_keeps {u : Cu} {rec_ : ℕ} {s : State} {t : State} (h : execQuantise u rec_ s = .next t) :
    Keeps s t := by
  cases h; exact State.operatorRow_keeps (Keeps.refl s)

theorem execDequantise_keeps {u : Cu} {rec_ : ℕ} {s : State} {t : State} (h : execDequantise u rec_ s = .next t) :
    Keeps s t := by
  cases h; exact State.operatorRow_keeps (Keeps.refl s)

theorem execAmax_keeps {u : Cu} {rec_ : ℕ} {s : State} {t : State} (h : execAmax u rec_ s = .next t) :
    Keeps s t := by
  cases h; exact State.operatorRow_keeps (Keeps.refl s)

theorem execLoss_keeps {u : Cu} {rec_ : ℕ} {s : State} {t : State} (h : execLoss u rec_ s = .next t) :
    Keeps s t := by
  cases h; exact State.operatorRow_keeps (Keeps.refl s)

theorem execSsmScanBwd_keeps {u : Cu} {rec_ : ℕ} {s : State} {t : State} (h : execSsmScanBwd u rec_ s = .next t) :
    Keeps s t := by
  cases h; exact State.operatorRow_keeps (Keeps.refl s)

theorem execGradNorm_keeps {u : Cu} {rec_ : ℕ} {s : State} {t : State} (h : execGradNorm u rec_ s = .next t) :
    Keeps s t := by
  cases h; exact State.operatorRow_keeps (Keeps.refl s)

theorem execOptAdamw_keeps {u : Cu} {rec_ : ℕ} {s : State} {t : State} (h : execOptAdamw u rec_ s = .next t) :
    Keeps s t := by
  cases h; exact State.operatorRow_keeps (Keeps.refl s)

theorem execOptSgd_keeps {u : Cu} {rec_ : ℕ} {s : State} {t : State} (h : execOptSgd u rec_ s = .next t) :
    Keeps s t := by
  cases h; exact State.operatorRow_keeps (Keeps.refl s)

theorem execLaunch_keeps {s : State} {t : State} (h : execLaunch s = .next t) :
    Keeps s t := by
  cases h; exact doLaunch_keeps (Keeps.refl s)

theorem execPreemptionKillToken_keeps {s : State} {t : State} (h : execPreemptionKillToken s = .next t) :
    Keeps s t := by
  cases h; exact doPreemptionKillToken_keeps (Keeps.refl s)

theorem execSlotOpen_keeps {s : State} {t : State} (h : execSlotOpen s = .next t) :
    Keeps s t := by
  cases h; exact doSlotOpen_keeps (Keeps.refl s)

theorem execRecordDelivery_keeps {st : Stream} {s : State} {t : State} (h : execRecordDelivery st s = .next t) :
    Keeps s t := by
  cases h; exact doRecordDelivery_keeps (Keeps.refl s)

theorem execVerdictDeadline_keeps {s : State} {t : State} (h : execVerdictDeadline s = .next t) :
    Keeps s t := by
  cases h; exact doVerdictDeadline_keeps (Keeps.refl s)

theorem execFrameTrailer_keeps {s : State} {t : State} (h : execFrameTrailer s = .next t) :
    Keeps s t := by
  cases h; exact doFrameTrailer_keeps (Keeps.refl s)

theorem execTileRecordCheck_keeps {arrived : Option (List Byte)} {s : State} {t : State} (h : execTileRecordCheck arrived s = .next t) :
    Keeps s t := by
  cases h; exact doTileRecordCheck_keeps (Keeps.refl s)

theorem execBandVerdict_keeps {s : State} {t : State} (h : execBandVerdict s = .next t) :
    Keeps s t := by
  cases h; exact doBandVerdict_keeps (Keeps.refl s)

theorem execFrameVerdict_keeps {s : State} {t : State} (h : execFrameVerdict s = .next t) :
    Keeps s t := by
  cases h; exact doFrameVerdict_keeps (Keeps.refl s)

theorem execVoterTransaction_keeps {lane : Fin 3} {kind : ℕ} {addr : ℕ} {data : LaneWord} {t0 : ℕ} {eccFail : Bool} {s : State} {t : State}
    (h : execVoterTransaction lane kind addr data t0 eccFail s = .next t) :
    Keeps s t := by
  cases h; exact doVoterTransaction_keeps (Keeps.refl s)

theorem execOddLaneTimeout_keeps {lane : Fin 3} {s : State} {t : State} (h : execOddLaneTimeout lane s = .next t) :
    Keeps s t := by
  cases h; exact doOddLaneTimeout_keeps (Keeps.refl s)

theorem execResyncCopyComplete_keeps {s : State} {t : State} (h : execResyncCopyComplete s = .next t) :
    Keeps s t := by
  cases h; exact doResyncCopyComplete_keeps (Keeps.refl s)

theorem execBandBoundary_keeps {s : State} {t : State} (h : execBandBoundary s = .next t) :
    Keeps s t := by
  cases h; exact doBandBoundary_keeps (Keeps.refl s)

theorem execLaneSelftest_keeps {pass : Bool} {s : State} {t : State} (h : execLaneSelftest pass s = .next t) :
    Keeps s t := by
  cases h; exact doLaneSelftest_keeps (Keeps.refl s)

theorem execCkcAlive_keeps {s : State} {t : State} (h : execCkcAlive s = .next t) :
    Keeps s t := by
  cases h; exact doCkcAlive_keeps (Keeps.refl s)

theorem execNop_keeps {clocks : ℕ} {frame : BitVec 256} {s : State} {t : State} (h : execNop clocks frame s = .next t) :
    Keeps s t := by
  cases h; exact doNop_keeps (Keeps.refl s)

theorem execRelease_keeps {clocks : ℕ} {frame : BitVec 256} {s : State} {t : State} (h : execRelease clocks frame s = .next t) :
    Keeps s t := by
  cases h; exact doRelease_keeps (Keeps.refl s)

theorem execForceSafe_keeps {clocks : ℕ} {frame : BitVec 256} {s : State} {t : State} (h : execForceSafe clocks frame s = .next t) :
    Keeps s t := by
  cases h; exact doForceSafe_keeps (Keeps.refl s)

theorem execSpiRequestDiscarded_keeps {clocks : ℕ} {frame : BitVec 256} {s : State} {t : State} (h : execSpiRequestDiscarded clocks frame s = .next t) :
    Keeps s t := by
  cases h; exact doSpiRequestDiscarded_keeps (Keeps.refl s)

theorem execFrameStart_keeps {port : Fin 8} {vc : Fin 16} {t0 : ℕ} {s : State} {t : State} (h : execFrameStart port vc t0 s = .next t) :
    Keeps s t := by
  cases h; exact doFrameStart_keeps (Keeps.refl s)

theorem execLongPacket_keeps {port : Fin 8} {vc : Fin 16} {dataType : ℕ} {ecc : HeaderEcc} {crcOk : Bool} {payload : List Byte} {s : State} {t : State} (h : execLongPacket port vc dataType ecc crcOk payload s = .next t) :
    Keeps s t := by
  cases h; exact doLongPacket_keeps (Keeps.refl s)

theorem execFrameEnd_keeps {port : Fin 8} {vc : Fin 16} {t0 : ℕ} {s : State} {t : State} (h : execFrameEnd port vc t0 s = .next t) :
    Keeps s t := by
  cases h; exact doFrameEnd_keeps (Keeps.refl s)

theorem execTestFrameComplete_keeps {cam : Fin 24} {ecc : Option ℕ} {measured : Option Word} {s : State} {t : State} (h : execTestFrameComplete cam ecc measured s = .next t) :
    Keeps s t := by
  cases h; exact doTestFrameComplete_keeps (Keeps.refl s)

theorem execLidarDatagram_keeps {port : Fin 4} {frame : EthArrival} {t0 : ℕ} {s : State} {t : State} (h : execLidarDatagram port frame t0 s = .next t) :
    Keeps s t := by
  cases h; exact doLidarDatagram_keeps (Keeps.refl s)

theorem execLidarWindowCommit_keeps {lid : Fin 8} {ecc : Option ℕ} {s : State} {t : State} (h : execLidarWindowCommit lid ecc s = .next t) :
    Keeps s t := by
  cases h; exact doLidarWindowCommit_keeps (Keeps.refl s)

theorem execI2cClockStretchTimeout_keeps {ctl : Fin 4} {done : ℕ} {reads : List Word} {s : State} {t : State} (h : execI2cClockStretchTimeout ctl done reads s = .next t) :
    Keeps s t := by
  cases h; exact State.endCci_keeps (Keeps.refl s)

theorem execSync_keeps {sourceNs : ℤ} {freq : ℤ} {t0 : ℕ} {s : State} {t : State} (h : execSync sourceNs freq t0 s = .next t) :
    Keeps s t := by
  cases h; exact doSync_keeps (Keeps.refl s)

theorem execAnnounce_keeps {master : DWord} {s : State} {t : State} (h : execAnnounce master s = .next t) :
    Keeps s t := by
  cases h; exact doAnnounce_keeps (Keeps.refl s)

theorem execPdelayReq_keeps {t0 : ℕ} {s : State} {t : State} (h : execPdelayReq t0 s = .next t) :
    Keeps s t := by
  cases h; exact doPdelayReq_keeps (Keeps.refl s)

theorem execPdelayReqInitiate_keeps {s : State} {t : State} (h : execPdelayReqInitiate s = .next t) :
    Keeps s t := by
  cases h; exact doPdelayReqInitiate_keeps (Keeps.refl s)

theorem execPdelayResp_keeps {delayNs : ℕ} {ratioPpb : ℤ} {t0 : ℕ} {s : State} {t : State} (h : execPdelayResp delayNs ratioPpb t0 s = .next t) :
    Keeps s t := by
  cases h; exact doPdelayResp_keeps (Keeps.refl s)

theorem execHoldoverTimeout_keeps {s : State} {t : State} (h : execHoldoverTimeout s = .next t) :
    Keeps s t := by
  cases h; exact doHoldoverTimeout_keeps (Keeps.refl s)

theorem execHoldover_keeps {s : State} {t : State} (h : execHoldover s = .next t) :
    Keeps s t := by
  cases h; exact doHoldover_keeps (Keeps.refl s)

theorem execPpsIn_keeps {freq : ℤ} {t0 : ℕ} {s : State} {t : State} (h : execPpsIn freq t0 s = .next t) :
    Keeps s t := by
  cases h; exact doPpsIn_keeps (Keeps.refl s)

theorem execPpsOutPlacement_keeps {s : State} {t : State} (h : execPpsOutPlacement s = .next t) :
    Keeps s t := by
  cases h; exact doPpsOutPlacement_keeps (Keeps.refl s)

theorem execPpsOut_keeps {s : State} {t : State} (h : execPpsOut s = .next t) :
    Keeps s t := by
  cases h; exact doPpsOut_keeps (Keeps.refl s)

theorem execFsyncPlacement_keeps {out : Fin 8} {s : State} {t : State} (h : execFsyncPlacement out s = .next t) :
    Keeps s t := by
  cases h; exact doFsyncPlacement_keeps (Keeps.refl s)

theorem execFsyncEdge_keeps {out : Fin 8} {s : State} {t : State} (h : execFsyncEdge out s = .next t) :
    Keeps s t := by
  cases h; exact doFsyncEdge_keeps (Keeps.refl s)

theorem execDomainOff_keeps {domain : ℕ} {s : State} {t : State} (h : execDomainOff domain s = .next t) :
    Keeps s t := by
  cases h; exact doDomainOff_keeps (Keeps.refl s)

theorem execDomainOn_keeps {domain : ℕ} {s : State} {t : State} (h : execDomainOn domain s = .next t) :
    Keeps s t := by
  cases h; exact doDomainOn_keeps (Keeps.refl s)

theorem execRateTarget_keeps {rate : ℕ} {s : State} {t : State} (h : execRateTarget rate s = .next t) :
    Keeps s t := by
  cases h; exact doRateTarget_keeps (Keeps.refl s)

theorem execPark_keeps {s : State} {t : State} (h : execPark s = .next t) :
    Keeps s t := by
  cases h; exact doPark_keeps (Keeps.refl s)

theorem execPowerGateOpen_keeps {domain : ℕ} {s : State} {t : State} (h : execPowerGateOpen domain s = .next t) :
    Keeps s t := by
  cases h; exact doPowerGateOpen_keeps (Keeps.refl s)

theorem execDomainSwitchComplete_keeps {domain : ℕ} {s : State} {t : State} (h : execDomainSwitchComplete domain s = .next t) :
    Keeps s t := by
  cases h; exact doDomainSwitchComplete_keeps (Keeps.refl s)

theorem execRateMonitorWindow_keeps {rates : List ℕ} {s : State} {t : State} (h : execRateMonitorWindow rates s = .next t) :
    Keeps s t := by
  cases h; exact doRateMonitorWindow_keeps (Keeps.refl s)

theorem execSentinelFlag_keeps {u : UnitId} {raised : SentinelEdge} {s : State} {t : State} (h : execSentinelFlag u raised s = .next t) :
    Keeps s t := by
  cases h; exact doSentinelFlag_keeps (Keeps.refl s)

theorem execEmtMarginExpiry_keeps {s : State} {t : State} (h : execEmtMarginExpiry s = .next t) :
    Keeps s t := by
  cases h; exact doEmtMarginExpiry_keeps (Keeps.refl s)

theorem execBelowFloor_keeps {u : UnitId} {s : State} {t : State} (h : execBelowFloor u s = .next t) :
    Keeps s t := by
  cases h; exact doBelowFloor_keeps (Keeps.refl s)

theorem execSupplyLoopEvaluation_keeps {readMv : Option ℕ} {alert : Bool} {s : State} {t : State} (h : execSupplyLoopEvaluation readMv alert s = .next t) :
    Keeps s t := by
  cases h; exact doSupplyLoopEvaluation_keeps (Keeps.refl s)

theorem execAvsbusTimeout_keeps {s : State} {t : State} (h : execAvsbusTimeout s = .next t) :
    Keeps s t := by
  cases h; exact doAvsbusTimeout_keeps (Keeps.refl s)

theorem execMonitorSample_keeps {tj : List ℤ} {supply : List ℕ} {s : State} {t : State} (h : execMonitorSample tj supply s = .next t) :
    Keeps s t := by
  cases h; exact doMonitorSample_keeps (Keeps.refl s)

theorem execThermalCapStep_keeps {s : State} {t : State} (h : execThermalCapStep s = .next t) :
    Keeps s t := by
  cases h; exact doThermalCapStep_keeps (Keeps.refl s)

theorem execThermalTrip_keeps {s : State} {t : State} (h : execThermalTrip s = .next t) :
    Keeps s t := by
  cases h; exact doThermalTrip_keeps (Keeps.refl s)

theorem execMr4Read_keeps {hottest : ℕ} {channel : ℕ} {hot : Bool} {s : State} {t : State} (h : execMr4Read hottest channel hot s = .next t) :
    Keeps s t := by
  cases h; exact doMr4Read_keeps (Keeps.refl s)

theorem execPatrolScrub_keeps {addr : ℕ} {found : Scrub} {s : State} {t : State} (h : execPatrolScrub addr found s = .next t) :
    Keeps s t := by
  cases h; exact doPatrolScrub_keeps (Keeps.refl s)

theorem execEccWriteBack_keeps {u : EccWrite} {s : State} {t : State} (h : execEccWriteBack u s = .next t) :
    Keeps s t := by
  cases h; exact doEccWriteBack_keeps (Keeps.refl s)

theorem execCoppiceSlice_keeps {digestOk : Bool} {signature : Option DWord} {restoreFail : Bool} {s : State} {t : State} (h : execCoppiceSlice digestOk signature restoreFail s = .next t) :
    Keeps s t := by
  cases h; exact doCoppiceSlice_keeps (Keeps.refl s)

theorem execRstNAssert_keeps {s : State} {t : State} (h : execRstNAssert s = .next t) :
    Keeps s t := by
  cases h; exact doRstNAssert_keeps (Keeps.refl s)

theorem execRstNRelease_keeps {bootMode : BitVec 2} {imageSigOk : Bool} {s : State} {t : State} (h : execRstNRelease bootMode imageSigOk s = .next t) :
    Keeps s t := by
  cases h; exact doRstNRelease_keeps (Keeps.refl s)

theorem execPerstNAssert_keeps {s : State} {t : State} (h : execPerstNAssert s = .next t) :
    Keeps s t := by
  cases h; exact doPerstNAssert_keeps (Keeps.refl s)

theorem execPerstNRelease_keeps {s : State} {t : State} (h : execPerstNRelease s = .next t) :
    Keeps s t := by
  cases h; exact doPerstNRelease_keeps (Keeps.refl s)

theorem execFunctionLevelReset_keeps {s : State} {t : State} (h : execFunctionLevelReset s = .next t) :
    Keeps s t := by
  cases h; exact doFunctionLevelReset_keeps (Keeps.refl s)

theorem execPwrfailNAssert_keeps {step : ℕ} {s : State} {t : State} (h : execPwrfailNAssert step s = .next t) :
    Keeps s t := by
  cases h; exact doPwrfailNAssert_keeps (Keeps.refl s)

theorem execOwnerProvision_keeps {digest : BitVec 256} {s : State} {t : State} (h : execOwnerProvision digest s = .next t) :
    Keeps s t := by
  cases h; exact doOwnerProvision_keeps (Keeps.refl s)

theorem execDbgChallenge_keeps {s : State} {t : State} (h : execDbgChallenge s = .next t) :
    Keeps s t := by
  cases h; exact doDbgChallenge_keeps (Keeps.refl s)

theorem execDbgResponse_keeps {auth : List Byte} {sigOk : Bool} {s : State} {t : State} (h : execDbgResponse auth sigOk s = .next t) :
    Keeps s t := by
  cases h; exact doDbgResponse_keeps (Keeps.refl s)

theorem execBar4Access_keeps {offset : ℕ} {write : Option (List Byte)} {size : ℕ} {s : State} {t : State} (h : execBar4Access offset write size s = .next t) :
    Keeps s t := by
  cases h; exact doBar4Access_keeps (Keeps.refl s)

theorem execHifEventWrite_keeps {v : Word} {s : State} {t : State} (h : execHifEventWrite v s = .next t) :
    Keeps s t := by
  cases h; exact doHifEventWrite_keeps (Keeps.refl s)

theorem execHifEventMaskWrite_keeps {v : Word} {s : State} {t : State} (h : execHifEventMaskWrite v s = .next t) :
    Keeps s t := by
  cases h; exact doHifEventMaskWrite_keeps (Keeps.refl s)

theorem execHifBar4WindowWrite_keeps {v : DWord} {s : State} {t : State} (h : execHifBar4WindowWrite v s = .next t) :
    Keeps s t := by
  cases h; exact doHifBar4WindowWrite_keeps (Keeps.refl s)

theorem execAdminEnable_keeps {v : Word} {s : State} {t : State} (h : execAdminEnable v s = .next t) :
    Keeps s t := by
  cases h; exact doAdminCtrl_keeps (Keeps.refl s)

theorem execAdminDisable_keeps {v : Word} {s : State} {t : State} (h : execAdminDisable v s = .next t) :
    Keeps s t := by
  cases h; exact doAdminCtrl_keeps (Keeps.refl s)

theorem execTake_keeps {s : State} {t : State} (h : execTake s = .next t) :
    Keeps s t := by
  cases h; exact doTake_keeps (Keeps.refl s)

theorem execApply_keeps {s : State} {t : State} (h : execApply s = .next t) :
    Keeps s t := by
  cases h; exact doApply_keeps (Keeps.refl s)

theorem execRegionApplyComplete_keeps {s : State} {t : State} (h : execRegionApplyComplete s = .next t) :
    Keeps s t := by
  cases h; exact doRegionApplyComplete_keeps (Keeps.refl s)

theorem execMssSafeReserveWrite_keeps {v : Word} {s : State} {t : State} (h : execMssSafeReserveWrite v s = .next t) :
    Keeps s t := by
  cases h; exact doMssSafeReserveWrite_keeps (Keeps.refl s)

theorem execMssThermalCfgWrite_keeps {v : Word} {s : State} {t : State} (h : execMssThermalCfgWrite v s = .next t) :
    Keeps s t := by
  cases h; exact doMssThermalCfgWrite_keeps (Keeps.refl s)

theorem execMssEventRateWrite_keeps {i : Fin 2} {v : Word} {s : State} {t : State} (h : execMssEventRateWrite i v s = .next t) :
    Keeps s t := by
  cases h; exact doMssEventRateWrite_keeps (Keeps.refl s)

theorem execHifDoorbellErrorsRead_keeps {s : State} {t : State} (h : execHifDoorbellErrorsRead s = .next t) :
    Keeps s t := by
  cases h; exact doHifDoorbellErrorsRead_keeps (Keeps.refl s)

theorem execEmtHostDropsRead_keeps {s : State} {t : State} (h : execEmtHostDropsRead s = .next t) :
    Keeps s t := by
  cases h; exact doEmtHostDropsRead_keeps (Keeps.refl s)

theorem execCkcCopyDropsRead_keeps {s : State} {t : State} (h : execCkcCopyDropsRead s = .next t) :
    Keeps s t := by
  cases h; exact doCkcCopyDropsRead_keeps (Keeps.refl s)

theorem execDbgStatusRead_keeps {s : State} {t : State} (h : execDbgStatusRead s = .next t) :
    Keeps s t := by
  cases h; exact doDbgStatusRead_keeps (Keeps.refl s)

theorem execPwrReqStatusRead_keeps {s : State} {t : State} (h : execPwrReqStatusRead s = .next t) :
    Keeps s t := by
  cases h; exact doPwrReqStatusRead_keeps (Keeps.refl s)

theorem execRegisterWrite_keeps {offset : ℕ} {width : ℕ} {value : DWord} {s : State} {t : State} (h : execRegisterWrite offset width value s = .next t) :
    Keeps s t := by
  cases h; exact doRegisterWrite_keeps (Keeps.refl s)

theorem execEventFlashWrite_keeps {s : State} {t : State} (h : execEventFlashWrite s = .next t) :
    Keeps s t := by
  cases h; exact doEventFlashWrite_keeps (Keeps.refl s)

theorem execSectorErase_keeps {s : State} {t : State} (h : execSectorErase s = .next t) :
    Keeps s t := by
  cases h; exact doSectorErase_keeps (Keeps.refl s)

theorem execOpMark_keeps {s : State} {t : State} (h : execOpMark s = .next t) :
    Keeps s t := by
  cases h; exact doOpMark_keeps (Keeps.refl s)

theorem execPeriodicSnapshot_keeps {s : State} {t : State} (h : execPeriodicSnapshot s = .next t) :
    Keeps s t := by
  cases h; exact doPeriodicSnapshot_keeps (Keeps.refl s)

theorem execHistogramTick_keeps {s : State} {t : State} (h : execHistogramTick s = .next t) :
    Keeps s t := by
  cases h; exact doHistogramTick_keeps (Keeps.refl s)

theorem execTokenRefill_keeps {code : ℕ} {s : State} {t : State} (h : execTokenRefill code s = .next t) :
    Keeps s t := by
  cases h; exact doTokenRefill_keeps (Keeps.refl s)

theorem execEndOfStart_keeps {dense : Bool} {trainedRate : ℕ} {retrained : Bool} {repairs : List Repair} {fail : Option TestFail} {s : State} {t : State} (h : execEndOfStart dense trainedRate retrained repairs fail s = .next t) :
    Keeps s t := by
  cases h; exact doEndOfStart_keeps (Keeps.refl s)

theorem execDiscoverComplete_keeps {obs : Observation} {s : State} {t : State} (h : execDiscoverComplete obs s = .next t) :
    Keeps s t := by
  cases h; exact doDiscoverComplete_keeps (Keeps.refl s)

theorem execDiagRunComplete_keeps {failing : List UnitId} {repairs : List Repair} {s : State} {t : State} (h : execDiagRunComplete failing repairs s = .next t) :
    Keeps s t := by
  cases h; exact doDiagRunComplete_keeps (Keeps.refl s)

theorem execCciOperationComplete_keeps {ctl : Fin 4} {done : ℕ} {reads : List Word} {s : State} {t : State} (h : execCciOperationComplete ctl done reads s = .next t) :
    Keeps s t := by
  cases h; exact State.endCci_keeps (Keeps.refl s)

theorem execLidarWindowOpen_keeps {lid : Fin 8} {s : State} {t : State} (h : execLidarWindowOpen lid s = .next t) :
    Keeps s t := by
  cases h; exact doLidarWindowOpen_keeps (Keeps.refl s)

theorem execFlagRecordWritten_keeps {s : State} {t : State} (h : execFlagRecordWritten s = .next t) :
    Keeps s t := by
  cases h; exact doFlagRecordWritten_keeps (Keeps.refl s)

theorem execSnapshotWriteComplete_keeps {s : State} {t : State} (h : execSnapshotWriteComplete s = .next t) :
    Keeps s t := by
  cases h; exact doSnapshotWriteComplete_keeps (Keeps.refl s)

theorem execPcieLinkDown_keeps {s : State} {t : State} (h : execPcieLinkDown s = .next t) :
    Keeps s t := by
  cases h; exact doPcieLinkDown_keeps (Keeps.refl s)

theorem execPcieLinkUp_keeps {speed : ℕ} {width : ℕ} {s : State} {t : State} (h : execPcieLinkUp speed width s = .next t) :
    Keeps s t := by
  cases h; exact doPcieLinkUp_keeps (Keeps.refl s)

theorem execSensorLinkDown_keeps {p : SensorPort} {s : State} {t : State} (h : execSensorLinkDown p s = .next t) :
    Keeps s t := by
  cases h; exact State.setSensorLink_keeps (Keeps.refl s)

theorem execSensorLinkUp_keeps {p : SensorPort} {s : State} {t : State} (h : execSensorLinkUp p s = .next t) :
    Keeps s t := by
  cases h; split
  · exact State.setSensorLink_keeps (Keeps.refl s)
  · exact Keeps.refl s

end Sys2Proof.Machine
end

