-- ==== Sys2Proof/Laws/Memory.lean ====
section
/-! SUPPORT. Reading memory after writing it: one lemma per memory operation, and that canonical memories with the same bytes
are the same memory. -/

namespace Sys2Proof.Machine

/-- Below the first address of a canonical memory every byte reads zero. -/
theorem memGet_below {a : Nat} : ∀ {m : Memory} {n : Nat}, Memory.wfFrom n m = true → a < n → memGet m a = 0
  | [], _, _, _ => rfl
  | c :: r, n, h, ha => by
    simp only [Memory.wfFrom, Bool.and_eq_true, decide_eq_true_eq] at h
    rw [memGet, if_neg (by omega)]
    exact memGet_below h.2 (by omega)

theorem memGet_memSet_from {x y : Nat} {v : Byte} :
    ∀ {m : Memory} {n : Nat}, Memory.wfFrom n m = true → memGet (memSet m x v) y = if y = x then v else memGet m y
  | [], n, _ => by
    unfold memSet
    by_cases hv : v = 0
    · subst hv; simp [memGet]
    · rw [if_neg hv, memGet, memGet, memGet]; simp only [eq_comm]
  | c :: r, n, h => by
    simp only [Memory.wfFrom, Bool.and_eq_true, decide_eq_true_eq] at h
    have z : ∀ {b}, b < c.1 + 1 → memGet r b = 0 := fun hb => memGet_below h.2 hb
    unfold memSet
    split
    · by_cases hy : y = x
      · subst y
        split <;> simp [memGet, *, z (show x < c.1 + 1 by omega)]
        omega
      · have hx : ¬x = y := fun e => hy e.symm
        split <;> simp [memGet, hx]
    · split
      · subst x
        by_cases hy : y = c.1
        · subst y; split <;> simp [memGet, *, z (show c.1 < c.1 + 1 by omega)]
        · have hx : ¬c.1 = y := fun e => hy e.symm
          split <;> simp [memGet, hx]
      · rw [memGet, memGet, memGet_memSet_from h.2]
        by_cases hy : y = x <;> simp [hy]
        omega

/-- A byte that was written reads back, and every other byte is as before. -/
theorem memGet_memSet {m : Memory} {x y : Nat} {v : Byte} (h : Memory.wf m = true) :
    memGet (memSet m x v) y = if y = x then v else memGet m y := memGet_memSet_from h

/-- Bytes that were written read back, and every other byte is as before. -/
theorem memGet_memPut {m : Memory} {a y : Nat} {b : List Byte} (h : Memory.wf m = true) :
    memGet (memPut m a b) y = if a ≤ y ∧ y < a + b.length then b.getD (y - a) 0 else memGet m y := by
  induction b generalizing m a with
  | nil => simp [memPut]
  | cons v r ih =>
    rw [memPut, ih (Memory.wf_memSet h), memGet_memSet h]
    by_cases h1 : y = a
    · subst h1; simp
    · by_cases h2 : a ≤ y ∧ y < a + (v :: r).length
      · have h3 : a + 1 ≤ y ∧ y < a + 1 + r.length := by simp at h2; omega
        rw [if_pos h3, if_pos h2, show y - a = (y - (a + 1)) + 1 by omega]
        simp
      · have h3 : ¬(a + 1 ≤ y ∧ y < a + 1 + r.length) := by simp at h2; omega
        rw [if_neg h3, if_neg h2, if_neg h1]

theorem memGet_memZero_from {lo hi y : Nat} : ∀ {m : Memory} {n : Nat}, Memory.wfFrom n m = true →
    memGet (memZero m lo hi) y = if lo ≤ y ∧ y < hi then 0 else memGet m y
  | [], n, _ => by simp [memZero, memGet]
  | c :: r, n, h => by
    simp only [Memory.wfFrom, Bool.and_eq_true, decide_eq_true_eq] at h
    have ih := memGet_memZero_from (lo := lo) (hi := hi) (y := y) h.2
    unfold memZero at ih ⊢
    rw [List.filter_cons]
    split
    · rename_i hc
      rw [memGet, memGet, ih]
      by_cases hy : c.1 = y
      · subst hy; simp at hc ⊢; omega
      · simp [hy]
    · rename_i hc
      rw [ih, memGet]
      by_cases hy : c.1 = y
      · subst hy; simp at hc; simp [hc.1, hc.2]
      · simp [hy]

/-- A zero-filled range reads zero, and every other byte is as before. -/
theorem memGet_memZero {m : Memory} {lo hi y : Nat} (h : Memory.wf m = true) :
    memGet (memZero m lo hi) y = if lo ≤ y ∧ y < hi then 0 else memGet m y := memGet_memZero_from h

theorem Memory.eq_from : ∀ {m k : Memory} {n : Nat}, Memory.wfFrom n m = true → Memory.wfFrom n k = true →
    (∀ a, memGet m a = memGet k a) → m = k
  | [], [], _, _, _, _ => rfl
  | [], d :: k, n, _, hk, e => by
    simp only [Memory.wfFrom, Bool.and_eq_true, decide_eq_true_eq] at hk
    have := e d.1
    simp [memGet] at this
    exact absurd this.symm hk.1.2
  | c :: m, [], n, hm, _, e => by
    simp only [Memory.wfFrom, Bool.and_eq_true, decide_eq_true_eq] at hm
    have := e c.1
    simp [memGet] at this
    exact absurd this hm.1.2
  | c :: m, d :: k, n, hm, hk, e => by
    simp only [Memory.wfFrom, Bool.and_eq_true, decide_eq_true_eq] at hm hk
    have h1 := e c.1
    have h2 := e d.1
    simp only [memGet, if_true] at h1 h2
    have hcd : c.1 = d.1 := by
      rcases Nat.lt_trichotomy c.1 d.1 with h | h | h
      · rw [if_neg (by omega), memGet_below hk.2 (by omega)] at h1
        exact absurd h1 hm.1.2
      · exact h
      · rw [if_neg (by omega), memGet_below hm.2 (by omega)] at h2
        exact absurd h2.symm hk.1.2
    have hv : c.2 = d.2 := by rw [if_pos hcd.symm] at h1; exact h1
    have hh : c = d := Prod.ext hcd hv
    subst hh
    refine congrArg _ (Memory.eq_from hm.2 hk.2 fun a => ?_)
    by_cases ha : a < c.1 + 1
    · rw [memGet_below hm.2 ha, memGet_below hk.2 ha]
    · have := e a
      simp only [memGet] at this
      rwa [if_neg (by omega), if_neg (by omega)] at this

/-- Canonical memories with the same bytes are equal. -/
theorem Memory.eq_of_get {m k : Memory} (hm : Memory.wf m = true) (hk : Memory.wf k = true) (e : ∀ a, memGet m a = memGet k a) :
    m = k := Memory.eq_from hm hk e

/-! ### Byte strings -/

@[simp] theorem memBytes_length (m : Memory) (a n : Nat) : (memBytes m a n).length = n := by
  induction n generalizing a with
  | zero => rfl
  | succ n ih => simp [memBytes, ih]

theorem memBytes_getD (m : Memory) (a n i : Nat) (h : i < n) : (memBytes m a n).getD i 0 = memGet m (a + i) := by
  induction n generalizing a i with
  | zero => omega
  | succ n ih =>
    cases i with
    | zero => simp [memBytes]
    | succ i =>
      have := ih (a + 1) i (by omega)
      rw [show a + (i + 1) = a + 1 + i by omega, ← this]
      simp [memBytes]

@[simp] theorem Fab.peeks_length (f : Fab) (sp : Space) (a n : Nat) : (f.peeks sp a n).length = n := by
  induction n generalizing a with
  | zero => rfl
  | succ n ih => simp [Fab.peeks, ih]

theorem Fab.peeks_getD (f : Fab) (sp : Space) (a n i : Nat) (h : i < n) : (f.peeks sp a n).getD i 0 = f.peek sp (a + i) := by
  induction n generalizing a i with
  | zero => omega
  | succ n ih =>
    cases i with
    | zero => simp [Fab.peeks]
    | succ i =>
      have := ih (a + 1) i (by omega)
      rw [show a + (i + 1) = a + 1 + i by omega, ← this]
      simp [Fab.peeks]

/-! ### Spaces -/

/-- A byte that was written into a space reads back, and every other byte of every space is as before. -/
theorem Fab.peek_poke {f : Fab} {sp sq : Space} {a b : Nat} {v : Byte} (h : f.Canonical) :
    (f.poke sp a v).peek sq b = if sq = sp ∧ b = a then v else f.peek sq b := by
  have hs : ∀ c : Fin 8, Memory.wf (f.spad.get c) = true := h.spad
  cases sp with
  | dram => cases sq <;> simp [Fab.poke, Fab.peek, memGet_memSet h.dram]
  | sb => cases sq <;> simp [Fab.poke, Fab.peek, memGet_memSet h.sb]
  | ckc => cases sq <;> simp [Fab.poke, Fab.peek, memGet_memSet h.ckc]
  | spad c =>
    cases sq with
    | spad d =>
      have e : (f.spad.set c.val (memSet (f.spad.get c) a v)).get d =
          if d = c then memSet (f.spad.get c) a v else f.spad.get d := by
        rw [show (f.spad.set c.val (memSet (f.spad.get c) a v)).get d =
          (f.spad.set c.val (memSet (f.spad.get c) a v))[d.val] from rfl, Vector.getElem_set]
        by_cases hd : d = c
        · simp [hd]
        · rw [if_neg (fun h => hd (Fin.ext h.symm)), if_neg hd]; rfl
      simp only [Fab.poke, Fab.peek]
      rw [show (f.spad.set c (memSet (f.spad.get c) a v)).get d = _ from e]
      by_cases hd : d = c
      · subst hd; simp [memGet_memSet (hs d)]
      · simp [hd]
    | dram => simp [Fab.poke, Fab.peek]
    | sb => simp [Fab.poke, Fab.peek]
    | ckc => simp [Fab.poke, Fab.peek]

/-- Bytes that were written into a space read back, and every other byte of every space is as before. -/
theorem Fab.peek_pokes {f : Fab} {sp sq : Space} {a b : Nat} {l : List Byte} (h : f.Canonical) :
    (f.pokes sp a l).peek sq b = if sq = sp ∧ a ≤ b ∧ b < a + l.length then l.getD (b - a) 0 else f.peek sq b := by
  induction l generalizing f a with
  | nil => simp [Fab.pokes]
  | cons v r ih =>
    rw [Fab.pokes, ih (Fab.poke_canon h), Fab.peek_poke h]
    by_cases hs : sq = sp
    · subst hs
      by_cases h1 : b = a
      · subst h1; simp
      · by_cases h2 : a ≤ b ∧ b < a + (v :: r).length
        · have h3 : a + 1 ≤ b ∧ b < a + 1 + r.length := by simp at h2; omega
          rw [if_pos ⟨rfl, h3⟩, if_pos ⟨rfl, h2⟩, show b - a = (b - (a + 1)) + 1 by omega]
          simp
        · have h3 : ¬(a + 1 ≤ b ∧ b < a + 1 + r.length) := by simp at h2; omega
          rw [if_neg (fun h => h3 h.2), if_neg (fun h => h1 h.2), if_neg (fun h => h2 h.2)]
    · rw [if_neg (fun h => hs h.1), if_neg (fun h => hs h.1), if_neg (fun h => hs h.1)]

end Sys2Proof.Machine
end

