-- ==== Sys2Proof/Laws/State.lean ====
section
/-! SUPPORT. One lemma per block per update of one block, and what each shared operation leaves as it was. -/

namespace Sys2Proof.Machine

/-! ### Updating one block -/

section
variable (f : Tim → Tim) (s : State)
@[simp] theorem State.onTim_tim : (s.onTim f).tim = f s.tim := rfl
@[simp] theorem State.onTim_hif : (s.onTim f).hif = s.hif := rfl
@[simp] theorem State.onTim_cpx : (s.onTim f).cpx = s.cpx := rfl
@[simp] theorem State.onTim_ctr : (s.onTim f).ctr = s.ctr := rfl
@[simp] theorem State.onTim_emt : (s.onTim f).emt = s.emt := rfl
@[simp] theorem State.onTim_ckc : (s.onTim f).ckc = s.ckc := rfl
@[simp] theorem State.onTim_saf : (s.onTim f).saf = s.saf := rfl
@[simp] theorem State.onTim_pwr : (s.onTim f).pwr = s.pwr := rfl
@[simp] theorem State.onTim_mss : (s.onTim f).mss = s.mss := rfl
@[simp] theorem State.onTim_sec : (s.onTim f).sec = s.sec := rfl
@[simp] theorem State.onTim_flash : (s.onTim f).flash = s.flash := rfl
@[simp] theorem State.onTim_evr : (s.onTim f).evr = s.evr := rfl
@[simp] theorem State.onTim_sen : (s.onTim f).sen = s.sen := rfl
@[simp] theorem State.onTim_fab : (s.onTim f).fab = s.fab := rfl
@[simp] theorem State.onTim_pins : (s.onTim f).pins = s.pins := rfl
@[simp] theorem State.onTim_freeCtr : (s.onTim f).freeCtr = s.freeCtr := rfl
@[simp] theorem State.onTim_pending : (s.onTim f).pending = s.pending := rfl
end

section
variable (f : Hif → Hif) (s : State)
@[simp] theorem State.onHif_tim : (s.onHif f).tim = s.tim := rfl
@[simp] theorem State.onHif_hif : (s.onHif f).hif = f s.hif := rfl
@[simp] theorem State.onHif_cpx : (s.onHif f).cpx = s.cpx := rfl
@[simp] theorem State.onHif_ctr : (s.onHif f).ctr = s.ctr := rfl
@[simp] theorem State.onHif_emt : (s.onHif f).emt = s.emt := rfl
@[simp] theorem State.onHif_ckc : (s.onHif f).ckc = s.ckc := rfl
@[simp] theorem State.onHif_saf : (s.onHif f).saf = s.saf := rfl
@[simp] theorem State.onHif_pwr : (s.onHif f).pwr = s.pwr := rfl
@[simp] theorem State.onHif_mss : (s.onHif f).mss = s.mss := rfl
@[simp] theorem State.onHif_sec : (s.onHif f).sec = s.sec := rfl
@[simp] theorem State.onHif_flash : (s.onHif f).flash = s.flash := rfl
@[simp] theorem State.onHif_evr : (s.onHif f).evr = s.evr := rfl
@[simp] theorem State.onHif_sen : (s.onHif f).sen = s.sen := rfl
@[simp] theorem State.onHif_fab : (s.onHif f).fab = s.fab := rfl
@[simp] theorem State.onHif_pins : (s.onHif f).pins = s.pins := rfl
@[simp] theorem State.onHif_freeCtr : (s.onHif f).freeCtr = s.freeCtr := rfl
@[simp] theorem State.onHif_pending : (s.onHif f).pending = s.pending := rfl
end

section
variable (f : Cpx → Cpx) (s : State)
@[simp] theorem State.onCpx_tim : (s.onCpx f).tim = s.tim := rfl
@[simp] theorem State.onCpx_hif : (s.onCpx f).hif = s.hif := rfl
@[simp] theorem State.onCpx_cpx : (s.onCpx f).cpx = f s.cpx := rfl
@[simp] theorem State.onCpx_ctr : (s.onCpx f).ctr = s.ctr := rfl
@[simp] theorem State.onCpx_emt : (s.onCpx f).emt = s.emt := rfl
@[simp] theorem State.onCpx_ckc : (s.onCpx f).ckc = s.ckc := rfl
@[simp] theorem State.onCpx_saf : (s.onCpx f).saf = s.saf := rfl
@[simp] theorem State.onCpx_pwr : (s.onCpx f).pwr = s.pwr := rfl
@[simp] theorem State.onCpx_mss : (s.onCpx f).mss = s.mss := rfl
@[simp] theorem State.onCpx_sec : (s.onCpx f).sec = s.sec := rfl
@[simp] theorem State.onCpx_flash : (s.onCpx f).flash = s.flash := rfl
@[simp] theorem State.onCpx_evr : (s.onCpx f).evr = s.evr := rfl
@[simp] theorem State.onCpx_sen : (s.onCpx f).sen = s.sen := rfl
@[simp] theorem State.onCpx_fab : (s.onCpx f).fab = s.fab := rfl
@[simp] theorem State.onCpx_pins : (s.onCpx f).pins = s.pins := rfl
@[simp] theorem State.onCpx_freeCtr : (s.onCpx f).freeCtr = s.freeCtr := rfl
@[simp] theorem State.onCpx_pending : (s.onCpx f).pending = s.pending := rfl
end

section
variable (f : Ctr → Ctr) (s : State)
@[simp] theorem State.onCtr_tim : (s.onCtr f).tim = s.tim := rfl
@[simp] theorem State.onCtr_hif : (s.onCtr f).hif = s.hif := rfl
@[simp] theorem State.onCtr_cpx : (s.onCtr f).cpx = s.cpx := rfl
@[simp] theorem State.onCtr_ctr : (s.onCtr f).ctr = f s.ctr := rfl
@[simp] theorem State.onCtr_emt : (s.onCtr f).emt = s.emt := rfl
@[simp] theorem State.onCtr_ckc : (s.onCtr f).ckc = s.ckc := rfl
@[simp] theorem State.onCtr_saf : (s.onCtr f).saf = s.saf := rfl
@[simp] theorem State.onCtr_pwr : (s.onCtr f).pwr = s.pwr := rfl
@[simp] theorem State.onCtr_mss : (s.onCtr f).mss = s.mss := rfl
@[simp] theorem State.onCtr_sec : (s.onCtr f).sec = s.sec := rfl
@[simp] theorem State.onCtr_flash : (s.onCtr f).flash = s.flash := rfl
@[simp] theorem State.onCtr_evr : (s.onCtr f).evr = s.evr := rfl
@[simp] theorem State.onCtr_sen : (s.onCtr f).sen = s.sen := rfl
@[simp] theorem State.onCtr_fab : (s.onCtr f).fab = s.fab := rfl
@[simp] theorem State.onCtr_pins : (s.onCtr f).pins = s.pins := rfl
@[simp] theorem State.onCtr_freeCtr : (s.onCtr f).freeCtr = s.freeCtr := rfl
@[simp] theorem State.onCtr_pending : (s.onCtr f).pending = s.pending := rfl
end

section
variable (f : Emt → Emt) (s : State)
@[simp] theorem State.onEmt_tim : (s.onEmt f).tim = s.tim := rfl
@[simp] theorem State.onEmt_hif : (s.onEmt f).hif = s.hif := rfl
@[simp] theorem State.onEmt_cpx : (s.onEmt f).cpx = s.cpx := rfl
@[simp] theorem State.onEmt_ctr : (s.onEmt f).ctr = s.ctr := rfl
@[simp] theorem State.onEmt_emt : (s.onEmt f).emt = f s.emt := rfl
@[simp] theorem State.onEmt_ckc : (s.onEmt f).ckc = s.ckc := rfl
@[simp] theorem State.onEmt_saf : (s.onEmt f).saf = s.saf := rfl
@[simp] theorem State.onEmt_pwr : (s.onEmt f).pwr = s.pwr := rfl
@[simp] theorem State.onEmt_mss : (s.onEmt f).mss = s.mss := rfl
@[simp] theorem State.onEmt_sec : (s.onEmt f).sec = s.sec := rfl
@[simp] theorem State.onEmt_flash : (s.onEmt f).flash = s.flash := rfl
@[simp] theorem State.onEmt_evr : (s.onEmt f).evr = s.evr := rfl
@[simp] theorem State.onEmt_sen : (s.onEmt f).sen = s.sen := rfl
@[simp] theorem State.onEmt_fab : (s.onEmt f).fab = s.fab := rfl
@[simp] theorem State.onEmt_pins : (s.onEmt f).pins = s.pins := rfl
@[simp] theorem State.onEmt_freeCtr : (s.onEmt f).freeCtr = s.freeCtr := rfl
@[simp] theorem State.onEmt_pending : (s.onEmt f).pending = s.pending := rfl
end

section
variable (f : Ckc → Ckc) (s : State)
@[simp] theorem State.onCkc_tim : (s.onCkc f).tim = s.tim := rfl
@[simp] theorem State.onCkc_hif : (s.onCkc f).hif = s.hif := rfl
@[simp] theorem State.onCkc_cpx : (s.onCkc f).cpx = s.cpx := rfl
@[simp] theorem State.onCkc_ctr : (s.onCkc f).ctr = s.ctr := rfl
@[simp] theorem State.onCkc_emt : (s.onCkc f).emt = s.emt := rfl
@[simp] theorem State.onCkc_ckc : (s.onCkc f).ckc = f s.ckc := rfl
@[simp] theorem State.onCkc_saf : (s.onCkc f).saf = s.saf := rfl
@[simp] theorem State.onCkc_pwr : (s.onCkc f).pwr = s.pwr := rfl
@[simp] theorem State.onCkc_mss : (s.onCkc f).mss = s.mss := rfl
@[simp] theorem State.onCkc_sec : (s.onCkc f).sec = s.sec := rfl
@[simp] theorem State.onCkc_flash : (s.onCkc f).flash = s.flash := rfl
@[simp] theorem State.onCkc_evr : (s.onCkc f).evr = s.evr := rfl
@[simp] theorem State.onCkc_sen : (s.onCkc f).sen = s.sen := rfl
@[simp] theorem State.onCkc_fab : (s.onCkc f).fab = s.fab := rfl
@[simp] theorem State.onCkc_pins : (s.onCkc f).pins = s.pins := rfl
@[simp] theorem State.onCkc_freeCtr : (s.onCkc f).freeCtr = s.freeCtr := rfl
@[simp] theorem State.onCkc_pending : (s.onCkc f).pending = s.pending := rfl
end

section
variable (f : Saf → Saf) (s : State)
@[simp] theorem State.onSaf_tim : (s.onSaf f).tim = s.tim := rfl
@[simp] theorem State.onSaf_hif : (s.onSaf f).hif = s.hif := rfl
@[simp] theorem State.onSaf_cpx : (s.onSaf f).cpx = s.cpx := rfl
@[simp] theorem State.onSaf_ctr : (s.onSaf f).ctr = s.ctr := rfl
@[simp] theorem State.onSaf_emt : (s.onSaf f).emt = s.emt := rfl
@[simp] theorem State.onSaf_ckc : (s.onSaf f).ckc = s.ckc := rfl
@[simp] theorem State.onSaf_saf : (s.onSaf f).saf = f s.saf := rfl
@[simp] theorem State.onSaf_pwr : (s.onSaf f).pwr = s.pwr := rfl
@[simp] theorem State.onSaf_mss : (s.onSaf f).mss = s.mss := rfl
@[simp] theorem State.onSaf_sec : (s.onSaf f).sec = s.sec := rfl
@[simp] theorem State.onSaf_flash : (s.onSaf f).flash = s.flash := rfl
@[simp] theorem State.onSaf_evr : (s.onSaf f).evr = s.evr := rfl
@[simp] theorem State.onSaf_sen : (s.onSaf f).sen = s.sen := rfl
@[simp] theorem State.onSaf_fab : (s.onSaf f).fab = s.fab := rfl
@[simp] theorem State.onSaf_pins : (s.onSaf f).pins = s.pins := rfl
@[simp] theorem State.onSaf_freeCtr : (s.onSaf f).freeCtr = s.freeCtr := rfl
@[simp] theorem State.onSaf_pending : (s.onSaf f).pending = s.pending := rfl
end

section
variable (f : Pwr → Pwr) (s : State)
@[simp] theorem State.onPwr_tim : (s.onPwr f).tim = s.tim := rfl
@[simp] theorem State.onPwr_hif : (s.onPwr f).hif = s.hif := rfl
@[simp] theorem State.onPwr_cpx : (s.onPwr f).cpx = s.cpx := rfl
@[simp] theorem State.onPwr_ctr : (s.onPwr f).ctr = s.ctr := rfl
@[simp] theorem State.onPwr_emt : (s.onPwr f).emt = s.emt := rfl
@[simp] theorem State.onPwr_ckc : (s.onPwr f).ckc = s.ckc := rfl
@[simp] theorem State.onPwr_saf : (s.onPwr f).saf = s.saf := rfl
@[simp] theorem State.onPwr_pwr : (s.onPwr f).pwr = f s.pwr := rfl
@[simp] theorem State.onPwr_mss : (s.onPwr f).mss = s.mss := rfl
@[simp] theorem State.onPwr_sec : (s.onPwr f).sec = s.sec := rfl
@[simp] theorem State.onPwr_flash : (s.onPwr f).flash = s.flash := rfl
@[simp] theorem State.onPwr_evr : (s.onPwr f).evr = s.evr := rfl
@[simp] theorem State.onPwr_sen : (s.onPwr f).sen = s.sen := rfl
@[simp] theorem State.onPwr_fab : (s.onPwr f).fab = s.fab := rfl
@[simp] theorem State.onPwr_pins : (s.onPwr f).pins = s.pins := rfl
@[simp] theorem State.onPwr_freeCtr : (s.onPwr f).freeCtr = s.freeCtr := rfl
@[simp] theorem State.onPwr_pending : (s.onPwr f).pending = s.pending := rfl
end

section
variable (f : Mss → Mss) (s : State)
@[simp] theorem State.onMss_tim : (s.onMss f).tim = s.tim := rfl
@[simp] theorem State.onMss_hif : (s.onMss f).hif = s.hif := rfl
@[simp] theorem State.onMss_cpx : (s.onMss f).cpx = s.cpx := rfl
@[simp] theorem State.onMss_ctr : (s.onMss f).ctr = s.ctr := rfl
@[simp] theorem State.onMss_emt : (s.onMss f).emt = s.emt := rfl
@[simp] theorem State.onMss_ckc : (s.onMss f).ckc = s.ckc := rfl
@[simp] theorem State.onMss_saf : (s.onMss f).saf = s.saf := rfl
@[simp] theorem State.onMss_pwr : (s.onMss f).pwr = s.pwr := rfl
@[simp] theorem State.onMss_mss : (s.onMss f).mss = f s.mss := rfl
@[simp] theorem State.onMss_sec : (s.onMss f).sec = s.sec := rfl
@[simp] theorem State.onMss_flash : (s.onMss f).flash = s.flash := rfl
@[simp] theorem State.onMss_evr : (s.onMss f).evr = s.evr := rfl
@[simp] theorem State.onMss_sen : (s.onMss f).sen = s.sen := rfl
@[simp] theorem State.onMss_fab : (s.onMss f).fab = s.fab := rfl
@[simp] theorem State.onMss_pins : (s.onMss f).pins = s.pins := rfl
@[simp] theorem State.onMss_freeCtr : (s.onMss f).freeCtr = s.freeCtr := rfl
@[simp] theorem State.onMss_pending : (s.onMss f).pending = s.pending := rfl
end

section
variable (f : Sec → Sec) (s : State)
@[simp] theorem State.onSec_tim : (s.onSec f).tim = s.tim := rfl
@[simp] theorem State.onSec_hif : (s.onSec f).hif = s.hif := rfl
@[simp] theorem State.onSec_cpx : (s.onSec f).cpx = s.cpx := rfl
@[simp] theorem State.onSec_ctr : (s.onSec f).ctr = s.ctr := rfl
@[simp] theorem State.onSec_emt : (s.onSec f).emt = s.emt := rfl
@[simp] theorem State.onSec_ckc : (s.onSec f).ckc = s.ckc := rfl
@[simp] theorem State.onSec_saf : (s.onSec f).saf = s.saf := rfl
@[simp] theorem State.onSec_pwr : (s.onSec f).pwr = s.pwr := rfl
@[simp] theorem State.onSec_mss : (s.onSec f).mss = s.mss := rfl
@[simp] theorem State.onSec_sec : (s.onSec f).sec = f s.sec := rfl
@[simp] theorem State.onSec_flash : (s.onSec f).flash = s.flash := rfl
@[simp] theorem State.onSec_evr : (s.onSec f).evr = s.evr := rfl
@[simp] theorem State.onSec_sen : (s.onSec f).sen = s.sen := rfl
@[simp] theorem State.onSec_fab : (s.onSec f).fab = s.fab := rfl
@[simp] theorem State.onSec_pins : (s.onSec f).pins = s.pins := rfl
@[simp] theorem State.onSec_freeCtr : (s.onSec f).freeCtr = s.freeCtr := rfl
@[simp] theorem State.onSec_pending : (s.onSec f).pending = s.pending := rfl
end

section
variable (f : Flash → Flash) (s : State)
@[simp] theorem State.onFlash_tim : (s.onFlash f).tim = s.tim := rfl
@[simp] theorem State.onFlash_hif : (s.onFlash f).hif = s.hif := rfl
@[simp] theorem State.onFlash_cpx : (s.onFlash f).cpx = s.cpx := rfl
@[simp] theorem State.onFlash_ctr : (s.onFlash f).ctr = s.ctr := rfl
@[simp] theorem State.onFlash_emt : (s.onFlash f).emt = s.emt := rfl
@[simp] theorem State.onFlash_ckc : (s.onFlash f).ckc = s.ckc := rfl
@[simp] theorem State.onFlash_saf : (s.onFlash f).saf = s.saf := rfl
@[simp] theorem State.onFlash_pwr : (s.onFlash f).pwr = s.pwr := rfl
@[simp] theorem State.onFlash_mss : (s.onFlash f).mss = s.mss := rfl
@[simp] theorem State.onFlash_sec : (s.onFlash f).sec = s.sec := rfl
@[simp] theorem State.onFlash_flash : (s.onFlash f).flash = f s.flash := rfl
@[simp] theorem State.onFlash_evr : (s.onFlash f).evr = s.evr := rfl
@[simp] theorem State.onFlash_sen : (s.onFlash f).sen = s.sen := rfl
@[simp] theorem State.onFlash_fab : (s.onFlash f).fab = s.fab := rfl
@[simp] theorem State.onFlash_pins : (s.onFlash f).pins = s.pins := rfl
@[simp] theorem State.onFlash_freeCtr : (s.onFlash f).freeCtr = s.freeCtr := rfl
@[simp] theorem State.onFlash_pending : (s.onFlash f).pending = s.pending := rfl
end

section
variable (f : Rec → Rec) (s : State)
@[simp] theorem State.onEvr_tim : (s.onEvr f).tim = s.tim := rfl
@[simp] theorem State.onEvr_hif : (s.onEvr f).hif = s.hif := rfl
@[simp] theorem State.onEvr_cpx : (s.onEvr f).cpx = s.cpx := rfl
@[simp] theorem State.onEvr_ctr : (s.onEvr f).ctr = s.ctr := rfl
@[simp] theorem State.onEvr_emt : (s.onEvr f).emt = s.emt := rfl
@[simp] theorem State.onEvr_ckc : (s.onEvr f).ckc = s.ckc := rfl
@[simp] theorem State.onEvr_saf : (s.onEvr f).saf = s.saf := rfl
@[simp] theorem State.onEvr_pwr : (s.onEvr f).pwr = s.pwr := rfl
@[simp] theorem State.onEvr_mss : (s.onEvr f).mss = s.mss := rfl
@[simp] theorem State.onEvr_sec : (s.onEvr f).sec = s.sec := rfl
@[simp] theorem State.onEvr_flash : (s.onEvr f).flash = s.flash := rfl
@[simp] theorem State.onEvr_evr : (s.onEvr f).evr = f s.evr := rfl
@[simp] theorem State.onEvr_sen : (s.onEvr f).sen = s.sen := rfl
@[simp] theorem State.onEvr_fab : (s.onEvr f).fab = s.fab := rfl
@[simp] theorem State.onEvr_pins : (s.onEvr f).pins = s.pins := rfl
@[simp] theorem State.onEvr_freeCtr : (s.onEvr f).freeCtr = s.freeCtr := rfl
@[simp] theorem State.onEvr_pending : (s.onEvr f).pending = s.pending := rfl
end

section
variable (f : Sen → Sen) (s : State)
@[simp] theorem State.onSen_tim : (s.onSen f).tim = s.tim := rfl
@[simp] theorem State.onSen_hif : (s.onSen f).hif = s.hif := rfl
@[simp] theorem State.onSen_cpx : (s.onSen f).cpx = s.cpx := rfl
@[simp] theorem State.onSen_ctr : (s.onSen f).ctr = s.ctr := rfl
@[simp] theorem State.onSen_emt : (s.onSen f).emt = s.emt := rfl
@[simp] theorem State.onSen_ckc : (s.onSen f).ckc = s.ckc := rfl
@[simp] theorem State.onSen_saf : (s.onSen f).saf = s.saf := rfl
@[simp] theorem State.onSen_pwr : (s.onSen f).pwr = s.pwr := rfl
@[simp] theorem State.onSen_mss : (s.onSen f).mss = s.mss := rfl
@[simp] theorem State.onSen_sec : (s.onSen f).sec = s.sec := rfl
@[simp] theorem State.onSen_flash : (s.onSen f).flash = s.flash := rfl
@[simp] theorem State.onSen_evr : (s.onSen f).evr = s.evr := rfl
@[simp] theorem State.onSen_sen : (s.onSen f).sen = f s.sen := rfl
@[simp] theorem State.onSen_fab : (s.onSen f).fab = s.fab := rfl
@[simp] theorem State.onSen_pins : (s.onSen f).pins = s.pins := rfl
@[simp] theorem State.onSen_freeCtr : (s.onSen f).freeCtr = s.freeCtr := rfl
@[simp] theorem State.onSen_pending : (s.onSen f).pending = s.pending := rfl
end

section
variable (f : Fab → Fab) (s : State)
@[simp] theorem State.onFab_tim : (s.onFab f).tim = s.tim := rfl
@[simp] theorem State.onFab_hif : (s.onFab f).hif = s.hif := rfl
@[simp] theorem State.onFab_cpx : (s.onFab f).cpx = s.cpx := rfl
@[simp] theorem State.onFab_ctr : (s.onFab f).ctr = s.ctr := rfl
@[simp] theorem State.onFab_emt : (s.onFab f).emt = s.emt := rfl
@[simp] theorem State.onFab_ckc : (s.onFab f).ckc = s.ckc := rfl
@[simp] theorem State.onFab_saf : (s.onFab f).saf = s.saf := rfl
@[simp] theorem State.onFab_pwr : (s.onFab f).pwr = s.pwr := rfl
@[simp] theorem State.onFab_mss : (s.onFab f).mss = s.mss := rfl
@[simp] theorem State.onFab_sec : (s.onFab f).sec = s.sec := rfl
@[simp] theorem State.onFab_flash : (s.onFab f).flash = s.flash := rfl
@[simp] theorem State.onFab_evr : (s.onFab f).evr = s.evr := rfl
@[simp] theorem State.onFab_sen : (s.onFab f).sen = s.sen := rfl
@[simp] theorem State.onFab_fab : (s.onFab f).fab = f s.fab := rfl
@[simp] theorem State.onFab_pins : (s.onFab f).pins = s.pins := rfl
@[simp] theorem State.onFab_freeCtr : (s.onFab f).freeCtr = s.freeCtr := rfl
@[simp] theorem State.onFab_pending : (s.onFab f).pending = s.pending := rfl
end

section
variable (f : Pins → Pins) (s : State)
@[simp] theorem State.onPins_tim : (s.onPins f).tim = s.tim := rfl
@[simp] theorem State.onPins_hif : (s.onPins f).hif = s.hif := rfl
@[simp] theorem State.onPins_cpx : (s.onPins f).cpx = s.cpx := rfl
@[simp] theorem State.onPins_ctr : (s.onPins f).ctr = s.ctr := rfl
@[simp] theorem State.onPins_emt : (s.onPins f).emt = s.emt := rfl
@[simp] theorem State.onPins_ckc : (s.onPins f).ckc = s.ckc := rfl
@[simp] theorem State.onPins_saf : (s.onPins f).saf = s.saf := rfl
@[simp] theorem State.onPins_pwr : (s.onPins f).pwr = s.pwr := rfl
@[simp] theorem State.onPins_mss : (s.onPins f).mss = s.mss := rfl
@[simp] theorem State.onPins_sec : (s.onPins f).sec = s.sec := rfl
@[simp] theorem State.onPins_flash : (s.onPins f).flash = s.flash := rfl
@[simp] theorem State.onPins_evr : (s.onPins f).evr = s.evr := rfl
@[simp] theorem State.onPins_sen : (s.onPins f).sen = s.sen := rfl
@[simp] theorem State.onPins_fab : (s.onPins f).fab = s.fab := rfl
@[simp] theorem State.onPins_pins : (s.onPins f).pins = f s.pins := rfl
@[simp] theorem State.onPins_freeCtr : (s.onPins f).freeCtr = s.freeCtr := rfl
@[simp] theorem State.onPins_pending : (s.onPins f).pending = s.pending := rfl
end

section
variable (s : State)
@[simp] theorem State.bumpFree_tim : s.bumpFree.tim = s.tim := rfl
@[simp] theorem State.bumpFree_hif : s.bumpFree.hif = s.hif := rfl
@[simp] theorem State.bumpFree_cpx : s.bumpFree.cpx = s.cpx := rfl
@[simp] theorem State.bumpFree_ctr : s.bumpFree.ctr = s.ctr := rfl
@[simp] theorem State.bumpFree_emt : s.bumpFree.emt = s.emt := rfl
@[simp] theorem State.bumpFree_ckc : s.bumpFree.ckc = s.ckc := rfl
@[simp] theorem State.bumpFree_saf : s.bumpFree.saf = s.saf := rfl
@[simp] theorem State.bumpFree_pwr : s.bumpFree.pwr = s.pwr := rfl
@[simp] theorem State.bumpFree_mss : s.bumpFree.mss = s.mss := rfl
@[simp] theorem State.bumpFree_sec : s.bumpFree.sec = s.sec := rfl
@[simp] theorem State.bumpFree_flash : s.bumpFree.flash = s.flash := rfl
@[simp] theorem State.bumpFree_evr : s.bumpFree.evr = s.evr := rfl
@[simp] theorem State.bumpFree_sen : s.bumpFree.sen = s.sen := rfl
@[simp] theorem State.bumpFree_fab : s.bumpFree.fab = s.fab := rfl
@[simp] theorem State.bumpFree_pins : s.bumpFree.pins = s.pins := rfl
@[simp] theorem State.bumpFree_freeCtr : s.bumpFree.freeCtr = s.freeCtr + 1 := rfl
@[simp] theorem State.bumpFree_pending : s.bumpFree.pending = s.pending := rfl
end

section
variable (s : State)
@[simp] theorem State.settlePulses_tim : (s.settlePulses).tim = s.tim := by simp only [State.settlePulses]; split <;> (split <;> simp)
@[simp] theorem State.settlePulses_hif : (s.settlePulses).hif = s.hif := by simp only [State.settlePulses]; split <;> (split <;> simp)
@[simp] theorem State.settlePulses_cpx : (s.settlePulses).cpx = s.cpx := by simp only [State.settlePulses]; split <;> (split <;> simp)
@[simp] theorem State.settlePulses_ctr : (s.settlePulses).ctr = s.ctr := by simp only [State.settlePulses]; split <;> (split <;> simp)
@[simp] theorem State.settlePulses_emt : (s.settlePulses).emt = s.emt := by simp only [State.settlePulses]; split <;> (split <;> simp)
@[simp] theorem State.settlePulses_ckc : (s.settlePulses).ckc = s.ckc := by simp only [State.settlePulses]; split <;> (split <;> simp)
@[simp] theorem State.settlePulses_saf : (s.settlePulses).saf = s.saf := by simp only [State.settlePulses]; split <;> (split <;> simp)
@[simp] theorem State.settlePulses_pwr : (s.settlePulses).pwr = s.pwr := by simp only [State.settlePulses]; split <;> (split <;> simp)
@[simp] theorem State.settlePulses_mss : (s.settlePulses).mss = s.mss := by simp only [State.settlePulses]; split <;> (split <;> simp)
@[simp] theorem State.settlePulses_sec : (s.settlePulses).sec = s.sec := by simp only [State.settlePulses]; split <;> (split <;> simp)
@[simp] theorem State.settlePulses_flash : (s.settlePulses).flash = s.flash := by simp only [State.settlePulses]; split <;> (split <;> simp)
@[simp] theorem State.settlePulses_evr : (s.settlePulses).evr = s.evr := by simp only [State.settlePulses]; split <;> (split <;> simp)
@[simp] theorem State.settlePulses_fab : (s.settlePulses).fab = s.fab := by simp only [State.settlePulses]; split <;> (split <;> simp)
@[simp] theorem State.settlePulses_freeCtr : (s.settlePulses).freeCtr = s.freeCtr := by simp only [State.settlePulses]; split <;> (split <;> simp)
@[simp] theorem State.settlePulses_pending : (s.settlePulses).pending = s.pending := by simp only [State.settlePulses]; split <;> (split <;> simp)
end

section
variable (n : Nat) (s : State)
@[simp] theorem State.advance_hif : (s.advance n).hif = s.hif := by simp [State.advance]
@[simp] theorem State.advance_cpx : (s.advance n).cpx = s.cpx := by simp [State.advance]
@[simp] theorem State.advance_ctr : (s.advance n).ctr = s.ctr := by simp [State.advance]
@[simp] theorem State.advance_emt : (s.advance n).emt = s.emt := by simp [State.advance]
@[simp] theorem State.advance_ckc : (s.advance n).ckc = s.ckc := by simp [State.advance]
@[simp] theorem State.advance_saf : (s.advance n).saf = s.saf := by simp [State.advance]
@[simp] theorem State.advance_pwr : (s.advance n).pwr = s.pwr := by simp [State.advance]
@[simp] theorem State.advance_mss : (s.advance n).mss = s.mss := by simp [State.advance]
@[simp] theorem State.advance_sec : (s.advance n).sec = s.sec := by simp [State.advance]
@[simp] theorem State.advance_flash : (s.advance n).flash = s.flash := by simp [State.advance]
@[simp] theorem State.advance_evr : (s.advance n).evr = s.evr := by simp [State.advance]
@[simp] theorem State.advance_fab : (s.advance n).fab = s.fab := by simp [State.advance]
@[simp] theorem State.advance_freeCtr : (s.advance n).freeCtr = s.freeCtr := by simp [State.advance]
@[simp] theorem State.advance_pending : (s.advance n).pending = s.pending := by simp [State.advance]
end

section
variable (p : HostPost) (s : State)
@[simp] theorem State.post_tim : (s.post p).tim = s.tim := rfl
@[simp] theorem State.post_cpx : (s.post p).cpx = s.cpx := rfl
@[simp] theorem State.post_ctr : (s.post p).ctr = s.ctr := rfl
@[simp] theorem State.post_emt : (s.post p).emt = s.emt := rfl
@[simp] theorem State.post_ckc : (s.post p).ckc = s.ckc := rfl
@[simp] theorem State.post_saf : (s.post p).saf = s.saf := rfl
@[simp] theorem State.post_pwr : (s.post p).pwr = s.pwr := rfl
@[simp] theorem State.post_mss : (s.post p).mss = s.mss := rfl
@[simp] theorem State.post_sec : (s.post p).sec = s.sec := rfl
@[simp] theorem State.post_flash : (s.post p).flash = s.flash := rfl
@[simp] theorem State.post_evr : (s.post p).evr = s.evr := rfl
@[simp] theorem State.post_sen : (s.post p).sen = s.sen := rfl
@[simp] theorem State.post_fab : (s.post p).fab = s.fab := rfl
@[simp] theorem State.post_pins : (s.post p).pins = s.pins := rfl
@[simp] theorem State.post_freeCtr : (s.post p).freeCtr = s.freeCtr := rfl
@[simp] theorem State.post_pending : (s.post p).pending = s.pending := rfl
end

section
variable (v : Nat) (s : State)
@[simp] theorem State.message_tim : (s.message v).tim = s.tim := by unfold State.message; split <;> simp
@[simp] theorem State.message_cpx : (s.message v).cpx = s.cpx := by unfold State.message; split <;> simp
@[simp] theorem State.message_ctr : (s.message v).ctr = s.ctr := by unfold State.message; split <;> simp
@[simp] theorem State.message_emt : (s.message v).emt = s.emt := by unfold State.message; split <;> simp
@[simp] theorem State.message_ckc : (s.message v).ckc = s.ckc := by unfold State.message; split <;> simp
@[simp] theorem State.message_saf : (s.message v).saf = s.saf := by unfold State.message; split <;> simp
@[simp] theorem State.message_pwr : (s.message v).pwr = s.pwr := by unfold State.message; split <;> simp
@[simp] theorem State.message_mss : (s.message v).mss = s.mss := by unfold State.message; split <;> simp
@[simp] theorem State.message_sec : (s.message v).sec = s.sec := by unfold State.message; split <;> simp
@[simp] theorem State.message_flash : (s.message v).flash = s.flash := by unfold State.message; split <;> simp
@[simp] theorem State.message_evr : (s.message v).evr = s.evr := by unfold State.message; split <;> simp
@[simp] theorem State.message_sen : (s.message v).sen = s.sen := by unfold State.message; split <;> simp
@[simp] theorem State.message_fab : (s.message v).fab = s.fab := by unfold State.message; split <;> simp
@[simp] theorem State.message_pins : (s.message v).pins = s.pins := by unfold State.message; split <;> simp
@[simp] theorem State.message_freeCtr : (s.message v).freeCtr = s.freeCtr := by unfold State.message; split <;> simp
@[simp] theorem State.message_pending : (s.message v).pending = s.pending := by unfold State.message; split <;> simp
end

section
variable (i : Nat) (s : State)
@[simp] theorem State.raise_tim : (s.raise i).tim = s.tim := by simp only [State.raise]; split <;> simp
@[simp] theorem State.raise_cpx : (s.raise i).cpx = s.cpx := by simp only [State.raise]; split <;> simp
@[simp] theorem State.raise_ctr : (s.raise i).ctr = s.ctr := by simp only [State.raise]; split <;> simp
@[simp] theorem State.raise_emt : (s.raise i).emt = s.emt := by simp only [State.raise]; split <;> simp
@[simp] theorem State.raise_ckc : (s.raise i).ckc = s.ckc := by simp only [State.raise]; split <;> simp
@[simp] theorem State.raise_saf : (s.raise i).saf = s.saf := by simp only [State.raise]; split <;> simp
@[simp] theorem State.raise_pwr : (s.raise i).pwr = s.pwr := by simp only [State.raise]; split <;> simp
@[simp] theorem State.raise_mss : (s.raise i).mss = s.mss := by simp only [State.raise]; split <;> simp
@[simp] theorem State.raise_sec : (s.raise i).sec = s.sec := by simp only [State.raise]; split <;> simp
@[simp] theorem State.raise_flash : (s.raise i).flash = s.flash := by simp only [State.raise]; split <;> simp
@[simp] theorem State.raise_evr : (s.raise i).evr = s.evr := by simp only [State.raise]; split <;> simp
@[simp] theorem State.raise_sen : (s.raise i).sen = s.sen := by simp only [State.raise]; split <;> simp
@[simp] theorem State.raise_fab : (s.raise i).fab = s.fab := by simp only [State.raise]; split <;> simp
@[simp] theorem State.raise_pins : (s.raise i).pins = s.pins := by simp only [State.raise]; split <;> simp
@[simp] theorem State.raise_freeCtr : (s.raise i).freeCtr = s.freeCtr := by simp only [State.raise]; split <;> simp
@[simp] theorem State.raise_pending : (s.raise i).pending = s.pending := by simp only [State.raise]; split <;> simp
end

section
variable (code sev unit p0 p1 p2 : Nat) (s : State)
@[simp] theorem State.note_tim : (s.note code sev unit p0 p1 p2).tim = s.tim := by simp only [State.note]; split <;> (split <;> simp)
@[simp] theorem State.note_cpx : (s.note code sev unit p0 p1 p2).cpx = s.cpx := by simp only [State.note]; split <;> (split <;> simp)
@[simp] theorem State.note_ctr : (s.note code sev unit p0 p1 p2).ctr = s.ctr := by simp only [State.note]; split <;> (split <;> simp)
@[simp] theorem State.note_emt : (s.note code sev unit p0 p1 p2).emt = s.emt := by simp only [State.note]; split <;> (split <;> simp)
@[simp] theorem State.note_ckc : (s.note code sev unit p0 p1 p2).ckc = s.ckc := by simp only [State.note]; split <;> (split <;> simp)
@[simp] theorem State.note_saf : (s.note code sev unit p0 p1 p2).saf = s.saf := by simp only [State.note]; split <;> (split <;> simp)
@[simp] theorem State.note_pwr : (s.note code sev unit p0 p1 p2).pwr = s.pwr := by simp only [State.note]; split <;> (split <;> simp)
@[simp] theorem State.note_mss : (s.note code sev unit p0 p1 p2).mss = s.mss := by simp only [State.note]; split <;> (split <;> simp)
@[simp] theorem State.note_sec : (s.note code sev unit p0 p1 p2).sec = s.sec := by simp only [State.note]; split <;> (split <;> simp)
@[simp] theorem State.note_flash : (s.note code sev unit p0 p1 p2).flash = s.flash := by simp only [State.note]; split <;> (split <;> simp)
@[simp] theorem State.note_sen : (s.note code sev unit p0 p1 p2).sen = s.sen := by simp only [State.note]; split <;> (split <;> simp)
@[simp] theorem State.note_fab : (s.note code sev unit p0 p1 p2).fab = s.fab := by simp only [State.note]; split <;> (split <;> simp)
@[simp] theorem State.note_pins : (s.note code sev unit p0 p1 p2).pins = s.pins := by simp only [State.note]; split <;> (split <;> simp)
@[simp] theorem State.note_freeCtr : (s.note code sev unit p0 p1 p2).freeCtr = s.freeCtr := by simp only [State.note]; split <;> (split <;> simp)
@[simp] theorem State.note_pending : (s.note code sev unit p0 p1 p2).pending = s.pending := by simp only [State.note]; split <;> (split <;> simp)
end

section
variable (code sev : Nat) (v : Int) (s : State)
@[simp] theorem State.noteInt_tim : (s.noteInt code sev v).tim = s.tim := by simp [State.noteInt]
@[simp] theorem State.noteInt_cpx : (s.noteInt code sev v).cpx = s.cpx := by simp [State.noteInt]
@[simp] theorem State.noteInt_ctr : (s.noteInt code sev v).ctr = s.ctr := by simp [State.noteInt]
@[simp] theorem State.noteInt_emt : (s.noteInt code sev v).emt = s.emt := by simp [State.noteInt]
@[simp] theorem State.noteInt_ckc : (s.noteInt code sev v).ckc = s.ckc := by simp [State.noteInt]
@[simp] theorem State.noteInt_saf : (s.noteInt code sev v).saf = s.saf := by simp [State.noteInt]
@[simp] theorem State.noteInt_pwr : (s.noteInt code sev v).pwr = s.pwr := by simp [State.noteInt]
@[simp] theorem State.noteInt_mss : (s.noteInt code sev v).mss = s.mss := by simp [State.noteInt]
@[simp] theorem State.noteInt_sec : (s.noteInt code sev v).sec = s.sec := by simp [State.noteInt]
@[simp] theorem State.noteInt_flash : (s.noteInt code sev v).flash = s.flash := by simp [State.noteInt]
@[simp] theorem State.noteInt_sen : (s.noteInt code sev v).sen = s.sen := by simp [State.noteInt]
@[simp] theorem State.noteInt_fab : (s.noteInt code sev v).fab = s.fab := by simp [State.noteInt]
@[simp] theorem State.noteInt_pins : (s.noteInt code sev v).pins = s.pins := by simp [State.noteInt]
@[simp] theorem State.noteInt_freeCtr : (s.noteInt code sev v).freeCtr = s.freeCtr := by simp [State.noteInt]
@[simp] theorem State.noteInt_pending : (s.noteInt code sev v).pending = s.pending := by simp [State.noteInt]
end

section
variable (row col n : Nat) (s : State)
@[simp] theorem State.countErr_tim : (s.countErr row col n).tim = s.tim := rfl
@[simp] theorem State.countErr_hif : (s.countErr row col n).hif = s.hif := rfl
@[simp] theorem State.countErr_cpx : (s.countErr row col n).cpx = s.cpx := rfl
@[simp] theorem State.countErr_ctr : (s.countErr row col n).ctr = s.ctr := rfl
@[simp] theorem State.countErr_emt : (s.countErr row col n).emt = s.emt := rfl
@[simp] theorem State.countErr_ckc : (s.countErr row col n).ckc = s.ckc := rfl
@[simp] theorem State.countErr_saf : (s.countErr row col n).saf = s.saf := rfl
@[simp] theorem State.countErr_pwr : (s.countErr row col n).pwr = s.pwr := rfl
@[simp] theorem State.countErr_mss : (s.countErr row col n).mss = s.mss := rfl
@[simp] theorem State.countErr_sec : (s.countErr row col n).sec = s.sec := rfl
@[simp] theorem State.countErr_flash : (s.countErr row col n).flash = s.flash := rfl
@[simp] theorem State.countErr_sen : (s.countErr row col n).sen = s.sen := rfl
@[simp] theorem State.countErr_fab : (s.countErr row col n).fab = s.fab := rfl
@[simp] theorem State.countErr_pins : (s.countErr row col n).pins = s.pins := rfl
@[simp] theorem State.countErr_freeCtr : (s.countErr row col n).freeCtr = s.freeCtr := rfl
@[simp] theorem State.countErr_pending : (s.countErr row col n).pending = s.pending := rfl
end

section
variable (d : DevState) (s : State)
@[simp] theorem State.enter_tim : (s.enter d).tim = s.tim := by unfold State.enter; split <;> simp
@[simp] theorem State.enter_cpx : (s.enter d).cpx = s.cpx := by unfold State.enter; split <;> simp
@[simp] theorem State.enter_ctr : (s.enter d).ctr = s.ctr := by unfold State.enter; split <;> simp
@[simp] theorem State.enter_emt : (s.enter d).emt = s.emt := by unfold State.enter; split <;> simp
@[simp] theorem State.enter_ckc : (s.enter d).ckc = s.ckc := by unfold State.enter; split <;> simp
@[simp] theorem State.enter_saf : (s.enter d).saf = s.saf := by unfold State.enter; split <;> simp
@[simp] theorem State.enter_mss : (s.enter d).mss = s.mss := by unfold State.enter; split <;> simp
@[simp] theorem State.enter_sec : (s.enter d).sec = s.sec := by unfold State.enter; split <;> simp
@[simp] theorem State.enter_flash : (s.enter d).flash = s.flash := by unfold State.enter; split <;> simp
@[simp] theorem State.enter_evr : (s.enter d).evr = s.evr := by unfold State.enter; split <;> simp
@[simp] theorem State.enter_sen : (s.enter d).sen = s.sen := by unfold State.enter; split <;> simp
@[simp] theorem State.enter_fab : (s.enter d).fab = s.fab := by unfold State.enter; split <;> simp
@[simp] theorem State.enter_pins : (s.enter d).pins = s.pins := by unfold State.enter; split <;> simp
@[simp] theorem State.enter_freeCtr : (s.enter d).freeCtr = s.freeCtr := by unfold State.enter; split <;> simp
@[simp] theorem State.enter_pending : (s.enter d).pending = s.pending := by unfold State.enter; split <;> simp
end

section
variable (a : Nat) (b : List Byte) (s : State)
@[simp] theorem State.putDram_tim : (s.putDram a b).tim = s.tim := rfl
@[simp] theorem State.putDram_hif : (s.putDram a b).hif = s.hif := rfl
@[simp] theorem State.putDram_cpx : (s.putDram a b).cpx = s.cpx := rfl
@[simp] theorem State.putDram_ctr : (s.putDram a b).ctr = s.ctr := rfl
@[simp] theorem State.putDram_emt : (s.putDram a b).emt = s.emt := rfl
@[simp] theorem State.putDram_ckc : (s.putDram a b).ckc = s.ckc := rfl
@[simp] theorem State.putDram_saf : (s.putDram a b).saf = s.saf := rfl
@[simp] theorem State.putDram_pwr : (s.putDram a b).pwr = s.pwr := rfl
@[simp] theorem State.putDram_mss : (s.putDram a b).mss = s.mss := rfl
@[simp] theorem State.putDram_sec : (s.putDram a b).sec = s.sec := rfl
@[simp] theorem State.putDram_flash : (s.putDram a b).flash = s.flash := rfl
@[simp] theorem State.putDram_evr : (s.putDram a b).evr = s.evr := rfl
@[simp] theorem State.putDram_sen : (s.putDram a b).sen = s.sen := rfl
@[simp] theorem State.putDram_pins : (s.putDram a b).pins = s.pins := rfl
@[simp] theorem State.putDram_freeCtr : (s.putDram a b).freeCtr = s.freeCtr := rfl
@[simp] theorem State.putDram_pending : (s.putDram a b).pending = s.pending := rfl
end

section
variable (id : Nat) (more : Bool) (s : State)
@[simp] theorem State.ringMessage_tim : (s.ringMessage id more).tim = s.tim := by unfold State.ringMessage; (split; rfl); split <;> simp
@[simp] theorem State.ringMessage_ctr : (s.ringMessage id more).ctr = s.ctr := by unfold State.ringMessage; (split; rfl); split <;> simp
@[simp] theorem State.ringMessage_emt : (s.ringMessage id more).emt = s.emt := by unfold State.ringMessage; (split; rfl); split <;> simp
@[simp] theorem State.ringMessage_ckc : (s.ringMessage id more).ckc = s.ckc := by unfold State.ringMessage; (split; rfl); split <;> simp
@[simp] theorem State.ringMessage_saf : (s.ringMessage id more).saf = s.saf := by unfold State.ringMessage; (split; rfl); split <;> simp
@[simp] theorem State.ringMessage_pwr : (s.ringMessage id more).pwr = s.pwr := by unfold State.ringMessage; (split; rfl); split <;> simp
@[simp] theorem State.ringMessage_mss : (s.ringMessage id more).mss = s.mss := by unfold State.ringMessage; (split; rfl); split <;> simp
@[simp] theorem State.ringMessage_sec : (s.ringMessage id more).sec = s.sec := by unfold State.ringMessage; (split; rfl); split <;> simp
@[simp] theorem State.ringMessage_flash : (s.ringMessage id more).flash = s.flash := by unfold State.ringMessage; (split; rfl); split <;> simp
@[simp] theorem State.ringMessage_evr : (s.ringMessage id more).evr = s.evr := by unfold State.ringMessage; (split; rfl); split <;> simp
@[simp] theorem State.ringMessage_sen : (s.ringMessage id more).sen = s.sen := by unfold State.ringMessage; (split; rfl); split <;> simp
@[simp] theorem State.ringMessage_fab : (s.ringMessage id more).fab = s.fab := by unfold State.ringMessage; (split; rfl); split <;> simp
@[simp] theorem State.ringMessage_pins : (s.ringMessage id more).pins = s.pins := by unfold State.ringMessage; (split; rfl); split <;> simp
@[simp] theorem State.ringMessage_freeCtr : (s.ringMessage id more).freeCtr = s.freeCtr := by unfold State.ringMessage; (split; rfl); split <;> simp
@[simp] theorem State.ringMessage_pending : (s.ringMessage id more).pending = s.pending := by unfold State.ringMessage; (split; rfl); split <;> simp
end

section
variable (id : Nat) (more : Bool) (e : Nat → HostPost) (s : State)
@[simp] theorem State.pushEntry_tim : (s.pushEntry id more e).tim = s.tim := by simp only [State.pushEntry]; split; (· rfl); split <;> simp
@[simp] theorem State.pushEntry_ctr : (s.pushEntry id more e).ctr = s.ctr := by simp only [State.pushEntry]; split; (· rfl); split <;> simp
@[simp] theorem State.pushEntry_emt : (s.pushEntry id more e).emt = s.emt := by simp only [State.pushEntry]; split; (· rfl); split <;> simp
@[simp] theorem State.pushEntry_ckc : (s.pushEntry id more e).ckc = s.ckc := by simp only [State.pushEntry]; split; (· rfl); split <;> simp
@[simp] theorem State.pushEntry_saf : (s.pushEntry id more e).saf = s.saf := by simp only [State.pushEntry]; split; (· rfl); split <;> simp
@[simp] theorem State.pushEntry_pwr : (s.pushEntry id more e).pwr = s.pwr := by simp only [State.pushEntry]; split; (· rfl); split <;> simp
@[simp] theorem State.pushEntry_mss : (s.pushEntry id more e).mss = s.mss := by simp only [State.pushEntry]; split; (· rfl); split <;> simp
@[simp] theorem State.pushEntry_sec : (s.pushEntry id more e).sec = s.sec := by simp only [State.pushEntry]; split; (· rfl); split <;> simp
@[simp] theorem State.pushEntry_flash : (s.pushEntry id more e).flash = s.flash := by simp only [State.pushEntry]; split; (· rfl); split <;> simp
@[simp] theorem State.pushEntry_evr : (s.pushEntry id more e).evr = s.evr := by simp only [State.pushEntry]; split; (· rfl); split <;> simp
@[simp] theorem State.pushEntry_sen : (s.pushEntry id more e).sen = s.sen := by simp only [State.pushEntry]; split; (· rfl); split <;> simp
@[simp] theorem State.pushEntry_fab : (s.pushEntry id more e).fab = s.fab := by simp only [State.pushEntry]; split; (· rfl); split <;> simp
@[simp] theorem State.pushEntry_pins : (s.pushEntry id more e).pins = s.pins := by simp only [State.pushEntry]; split; (· rfl); split <;> simp
@[simp] theorem State.pushEntry_freeCtr : (s.pushEntry id more e).freeCtr = s.freeCtr := by simp only [State.pushEntry]; split; (· rfl); split <;> simp
@[simp] theorem State.pushEntry_pending : (s.pushEntry id more e).pending = s.pending := by simp only [State.pushEntry]; split; (· rfl); split <;> simp
end

section
variable (pk : Packet) (more : Bool) (r : Reply) (s : State)
@[simp] theorem State.writeReply_tim : (s.writeReply pk more r).tim = s.tim := by unfold State.writeReply; split; (· rfl); split <;> simp
@[simp] theorem State.writeReply_ctr : (s.writeReply pk more r).ctr = s.ctr := by unfold State.writeReply; split; (· rfl); split <;> simp
@[simp] theorem State.writeReply_emt : (s.writeReply pk more r).emt = s.emt := by unfold State.writeReply; split; (· rfl); split <;> simp
@[simp] theorem State.writeReply_ckc : (s.writeReply pk more r).ckc = s.ckc := by unfold State.writeReply; split; (· rfl); split <;> simp
@[simp] theorem State.writeReply_saf : (s.writeReply pk more r).saf = s.saf := by unfold State.writeReply; split; (· rfl); split <;> simp
@[simp] theorem State.writeReply_pwr : (s.writeReply pk more r).pwr = s.pwr := by unfold State.writeReply; split; (· rfl); split <;> simp
@[simp] theorem State.writeReply_mss : (s.writeReply pk more r).mss = s.mss := by unfold State.writeReply; split; (· rfl); split <;> simp
@[simp] theorem State.writeReply_sec : (s.writeReply pk more r).sec = s.sec := by unfold State.writeReply; split; (· rfl); split <;> simp
@[simp] theorem State.writeReply_flash : (s.writeReply pk more r).flash = s.flash := by unfold State.writeReply; split; (· rfl); split <;> simp
@[simp] theorem State.writeReply_evr : (s.writeReply pk more r).evr = s.evr := by unfold State.writeReply; split; (· rfl); split <;> simp
@[simp] theorem State.writeReply_sen : (s.writeReply pk more r).sen = s.sen := by unfold State.writeReply; split; (· rfl); split <;> simp
@[simp] theorem State.writeReply_fab : (s.writeReply pk more r).fab = s.fab := by unfold State.writeReply; split; (· rfl); split <;> simp
@[simp] theorem State.writeReply_pins : (s.writeReply pk more r).pins = s.pins := by unfold State.writeReply; split; (· rfl); split <;> simp
@[simp] theorem State.writeReply_freeCtr : (s.writeReply pk more r).freeCtr = s.freeCtr := by unfold State.writeReply; split; (· rfl); split <;> simp
@[simp] theorem State.writeReply_pending : (s.writeReply pk more r).pending = s.pending := by unfold State.writeReply; split; (· rfl); split <;> simp
end

section
variable (pk : Packet) (more : Bool) (st dt res waves ns : Nat) (s : State)
@[simp] theorem State.replyBase_tim : (s.replyBase pk more st dt res waves ns).tim = s.tim := by simp [State.replyBase]
@[simp] theorem State.replyBase_ctr : (s.replyBase pk more st dt res waves ns).ctr = s.ctr := by simp [State.replyBase]
@[simp] theorem State.replyBase_emt : (s.replyBase pk more st dt res waves ns).emt = s.emt := by simp [State.replyBase]
@[simp] theorem State.replyBase_ckc : (s.replyBase pk more st dt res waves ns).ckc = s.ckc := by simp [State.replyBase]
@[simp] theorem State.replyBase_saf : (s.replyBase pk more st dt res waves ns).saf = s.saf := by simp [State.replyBase]
@[simp] theorem State.replyBase_pwr : (s.replyBase pk more st dt res waves ns).pwr = s.pwr := by simp [State.replyBase]
@[simp] theorem State.replyBase_mss : (s.replyBase pk more st dt res waves ns).mss = s.mss := by simp [State.replyBase]
@[simp] theorem State.replyBase_sec : (s.replyBase pk more st dt res waves ns).sec = s.sec := by simp [State.replyBase]
@[simp] theorem State.replyBase_flash : (s.replyBase pk more st dt res waves ns).flash = s.flash := by simp [State.replyBase]
@[simp] theorem State.replyBase_evr : (s.replyBase pk more st dt res waves ns).evr = s.evr := by simp [State.replyBase]
@[simp] theorem State.replyBase_sen : (s.replyBase pk more st dt res waves ns).sen = s.sen := by simp [State.replyBase]
@[simp] theorem State.replyBase_fab : (s.replyBase pk more st dt res waves ns).fab = s.fab := by simp [State.replyBase]
@[simp] theorem State.replyBase_pins : (s.replyBase pk more st dt res waves ns).pins = s.pins := by simp [State.replyBase]
@[simp] theorem State.replyBase_freeCtr : (s.replyBase pk more st dt res waves ns).freeCtr = s.freeCtr := by simp [State.replyBase]
@[simp] theorem State.replyBase_pending : (s.replyBase pk more st dt res waves ns).pending = s.pending := by simp [State.replyBase]
end

section
theorem State.foldReply_tim (l : List UnmapReq) (g : State → UnmapReq → Nat) (s : State) :
    (l.foldl (fun s u => s.replyBase u.pkt false stDone 0 0 0 (g s u)) s).tim = s.tim := by
  induction l generalizing s with
  | nil => rfl
  | cons u r ih => simp [ih]
@[simp] theorem State.settleUnmaps_tim (s : State) : s.settleUnmaps.tim = s.tim := by
  simp only [State.settleUnmaps]; rw [State.foldReply_tim]; rfl
theorem State.foldReply_ctr (l : List UnmapReq) (g : State → UnmapReq → Nat) (s : State) :
    (l.foldl (fun s u => s.replyBase u.pkt false stDone 0 0 0 (g s u)) s).ctr = s.ctr := by
  induction l generalizing s with
  | nil => rfl
  | cons u r ih => simp [ih]
@[simp] theorem State.settleUnmaps_ctr (s : State) : s.settleUnmaps.ctr = s.ctr := by
  simp only [State.settleUnmaps]; rw [State.foldReply_ctr]; rfl
theorem State.foldReply_emt (l : List UnmapReq) (g : State → UnmapReq → Nat) (s : State) :
    (l.foldl (fun s u => s.replyBase u.pkt false stDone 0 0 0 (g s u)) s).emt = s.emt := by
  induction l generalizing s with
  | nil => rfl
  | cons u r ih => simp [ih]
@[simp] theorem State.settleUnmaps_emt (s : State) : s.settleUnmaps.emt = s.emt := by
  simp only [State.settleUnmaps]; rw [State.foldReply_emt]; rfl
theorem State.foldReply_ckc (l : List UnmapReq) (g : State → UnmapReq → Nat) (s : State) :
    (l.foldl (fun s u => s.replyBase u.pkt false stDone 0 0 0 (g s u)) s).ckc = s.ckc := by
  induction l generalizing s with
  | nil => rfl
  | cons u r ih => simp [ih]
@[simp] theorem State.settleUnmaps_ckc (s : State) : s.settleUnmaps.ckc = s.ckc := by
  simp only [State.settleUnmaps]; rw [State.foldReply_ckc]; rfl
theorem State.foldReply_saf (l : List UnmapReq) (g : State → UnmapReq → Nat) (s : State) :
    (l.foldl (fun s u => s.replyBase u.pkt false stDone 0 0 0 (g s u)) s).saf = s.saf := by
  induction l generalizing s with
  | nil => rfl
  | cons u r ih => simp [ih]
@[simp] theorem State.settleUnmaps_saf (s : State) : s.settleUnmaps.saf = s.saf := by
  simp only [State.settleUnmaps]; rw [State.foldReply_saf]; rfl
theorem State.foldReply_pwr (l : List UnmapReq) (g : State → UnmapReq → Nat) (s : State) :
    (l.foldl (fun s u => s.replyBase u.pkt false stDone 0 0 0 (g s u)) s).pwr = s.pwr := by
  induction l generalizing s with
  | nil => rfl
  | cons u r ih => simp [ih]
@[simp] theorem State.settleUnmaps_pwr (s : State) : s.settleUnmaps.pwr = s.pwr := by
  simp only [State.settleUnmaps]; rw [State.foldReply_pwr]; rfl
theorem State.foldReply_mss (l : List UnmapReq) (g : State → UnmapReq → Nat) (s : State) :
    (l.foldl (fun s u => s.replyBase u.pkt false stDone 0 0 0 (g s u)) s).mss = s.mss := by
  induction l generalizing s with
  | nil => rfl
  | cons u r ih => simp [ih]
@[simp] theorem State.settleUnmaps_mss (s : State) : s.settleUnmaps.mss = s.mss := by
  simp only [State.settleUnmaps]; rw [State.foldReply_mss]; rfl
theorem State.foldReply_sec (l : List UnmapReq) (g : State → UnmapReq → Nat) (s : State) :
    (l.foldl (fun s u => s.replyBase u.pkt false stDone 0 0 0 (g s u)) s).sec = s.sec := by
  induction l generalizing s with
  | nil => rfl
  | cons u r ih => simp [ih]
@[simp] theorem State.settleUnmaps_sec (s : State) : s.settleUnmaps.sec = s.sec := by
  simp only [State.settleUnmaps]; rw [State.foldReply_sec]; rfl
theorem State.foldReply_flash (l : List UnmapReq) (g : State → UnmapReq → Nat) (s : State) :
    (l.foldl (fun s u => s.replyBase u.pkt false stDone 0 0 0 (g s u)) s).flash = s.flash := by
  induction l generalizing s with
  | nil => rfl
  | cons u r ih => simp [ih]
@[simp] theorem State.settleUnmaps_flash (s : State) : s.settleUnmaps.flash = s.flash := by
  simp only [State.settleUnmaps]; rw [State.foldReply_flash]; rfl
theorem State.foldReply_evr (l : List UnmapReq) (g : State → UnmapReq → Nat) (s : State) :
    (l.foldl (fun s u => s.replyBase u.pkt false stDone 0 0 0 (g s u)) s).evr = s.evr := by
  induction l generalizing s with
  | nil => rfl
  | cons u r ih => simp [ih]
@[simp] theorem State.settleUnmaps_evr (s : State) : s.settleUnmaps.evr = s.evr := by
  simp only [State.settleUnmaps]; rw [State.foldReply_evr]; rfl
theorem State.foldReply_sen (l : List UnmapReq) (g : State → UnmapReq → Nat) (s : State) :
    (l.foldl (fun s u => s.replyBase u.pkt false stDone 0 0 0 (g s u)) s).sen = s.sen := by
  induction l generalizing s with
  | nil => rfl
  | cons u r ih => simp [ih]
@[simp] theorem State.settleUnmaps_sen (s : State) : s.settleUnmaps.sen = s.sen := by
  simp only [State.settleUnmaps]; rw [State.foldReply_sen]; rfl
theorem State.foldReply_fab (l : List UnmapReq) (g : State → UnmapReq → Nat) (s : State) :
    (l.foldl (fun s u => s.replyBase u.pkt false stDone 0 0 0 (g s u)) s).fab = s.fab := by
  induction l generalizing s with
  | nil => rfl
  | cons u r ih => simp [ih]
@[simp] theorem State.settleUnmaps_fab (s : State) : s.settleUnmaps.fab = s.fab := by
  simp only [State.settleUnmaps]; rw [State.foldReply_fab]; rfl
theorem State.foldReply_pins (l : List UnmapReq) (g : State → UnmapReq → Nat) (s : State) :
    (l.foldl (fun s u => s.replyBase u.pkt false stDone 0 0 0 (g s u)) s).pins = s.pins := by
  induction l generalizing s with
  | nil => rfl
  | cons u r ih => simp [ih]
@[simp] theorem State.settleUnmaps_pins (s : State) : s.settleUnmaps.pins = s.pins := by
  simp only [State.settleUnmaps]; rw [State.foldReply_pins]; rfl
theorem State.foldReply_freeCtr (l : List UnmapReq) (g : State → UnmapReq → Nat) (s : State) :
    (l.foldl (fun s u => s.replyBase u.pkt false stDone 0 0 0 (g s u)) s).freeCtr = s.freeCtr := by
  induction l generalizing s with
  | nil => rfl
  | cons u r ih => simp [ih]
@[simp] theorem State.settleUnmaps_freeCtr (s : State) : s.settleUnmaps.freeCtr = s.freeCtr := by
  simp only [State.settleUnmaps]; rw [State.foldReply_freeCtr]; rfl
theorem State.foldReply_pending (l : List UnmapReq) (g : State → UnmapReq → Nat) (s : State) :
    (l.foldl (fun s u => s.replyBase u.pkt false stDone 0 0 0 (g s u)) s).pending = s.pending := by
  induction l generalizing s with
  | nil => rfl
  | cons u r ih => simp [ih]
@[simp] theorem State.settleUnmaps_pending (s : State) : s.settleUnmaps.pending = s.pending := by
  simp only [State.settleUnmaps]; rw [State.foldReply_pending]; rfl
end

section
@[simp] theorem State.answerUndefined_tim (n : Nat) (s : State) : (s.answerUndefined n).tim = s.tim := by
  induction n generalizing s with
  | zero => rfl
  | succ n ih => unfold State.answerUndefined; split <;> simp [ih]
@[simp] theorem State.settle_tim (s : State) : s.settle.tim = s.tim := by simp only [State.settle]; split <;> simp
@[simp] theorem State.answerUndefined_ctr (n : Nat) (s : State) : (s.answerUndefined n).ctr = s.ctr := by
  induction n generalizing s with
  | zero => rfl
  | succ n ih => unfold State.answerUndefined; split <;> simp [ih]
@[simp] theorem State.settle_ctr (s : State) : s.settle.ctr = s.ctr := by simp only [State.settle]; split <;> simp
@[simp] theorem State.answerUndefined_emt (n : Nat) (s : State) : (s.answerUndefined n).emt = s.emt := by
  induction n generalizing s with
  | zero => rfl
  | succ n ih => unfold State.answerUndefined; split <;> simp [ih]
@[simp] theorem State.settle_emt (s : State) : s.settle.emt = s.emt := by simp only [State.settle]; split <;> simp
@[simp] theorem State.answerUndefined_ckc (n : Nat) (s : State) : (s.answerUndefined n).ckc = s.ckc := by
  induction n generalizing s with
  | zero => rfl
  | succ n ih => unfold State.answerUndefined; split <;> simp [ih]
@[simp] theorem State.settle_ckc (s : State) : s.settle.ckc = s.ckc := by simp only [State.settle]; split <;> simp
@[simp] theorem State.answerUndefined_saf (n : Nat) (s : State) : (s.answerUndefined n).saf = s.saf := by
  induction n generalizing s with
  | zero => rfl
  | succ n ih => unfold State.answerUndefined; split <;> simp [ih]
@[simp] theorem State.settle_saf (s : State) : s.settle.saf = s.saf := by simp only [State.settle]; split <;> simp
@[simp] theorem State.answerUndefined_pwr (n : Nat) (s : State) : (s.answerUndefined n).pwr = s.pwr := by
  induction n generalizing s with
  | zero => rfl
  | succ n ih => unfold State.answerUndefined; split <;> simp [ih]
@[simp] theorem State.settle_pwr (s : State) : s.settle.pwr = s.pwr := by simp only [State.settle]; split <;> simp
@[simp] theorem State.answerUndefined_mss (n : Nat) (s : State) : (s.answerUndefined n).mss = s.mss := by
  induction n generalizing s with
  | zero => rfl
  | succ n ih => unfold State.answerUndefined; split <;> simp [ih]
@[simp] theorem State.settle_mss (s : State) : s.settle.mss = s.mss := by simp only [State.settle]; split <;> simp
@[simp] theorem State.answerUndefined_sec (n : Nat) (s : State) : (s.answerUndefined n).sec = s.sec := by
  induction n generalizing s with
  | zero => rfl
  | succ n ih => unfold State.answerUndefined; split <;> simp [ih]
@[simp] theorem State.settle_sec (s : State) : s.settle.sec = s.sec := by simp only [State.settle]; split <;> simp
@[simp] theorem State.answerUndefined_flash (n : Nat) (s : State) : (s.answerUndefined n).flash = s.flash := by
  induction n generalizing s with
  | zero => rfl
  | succ n ih => unfold State.answerUndefined; split <;> simp [ih]
@[simp] theorem State.settle_flash (s : State) : s.settle.flash = s.flash := by simp only [State.settle]; split <;> simp
@[simp] theorem State.answerUndefined_evr (n : Nat) (s : State) : (s.answerUndefined n).evr = s.evr := by
  induction n generalizing s with
  | zero => rfl
  | succ n ih => unfold State.answerUndefined; split <;> simp [ih]
@[simp] theorem State.settle_evr (s : State) : s.settle.evr = s.evr := by simp only [State.settle]; split <;> simp
@[simp] theorem State.answerUndefined_sen (n : Nat) (s : State) : (s.answerUndefined n).sen = s.sen := by
  induction n generalizing s with
  | zero => rfl
  | succ n ih => unfold State.answerUndefined; split <;> simp [ih]
@[simp] theorem State.settle_sen (s : State) : s.settle.sen = s.sen := by simp only [State.settle]; split <;> simp
@[simp] theorem State.answerUndefined_fab (n : Nat) (s : State) : (s.answerUndefined n).fab = s.fab := by
  induction n generalizing s with
  | zero => rfl
  | succ n ih => unfold State.answerUndefined; split <;> simp [ih]
@[simp] theorem State.settle_fab (s : State) : s.settle.fab = s.fab := by simp only [State.settle]; split <;> simp
@[simp] theorem State.answerUndefined_pins (n : Nat) (s : State) : (s.answerUndefined n).pins = s.pins := by
  induction n generalizing s with
  | zero => rfl
  | succ n ih => unfold State.answerUndefined; split <;> simp [ih]
@[simp] theorem State.settle_pins (s : State) : s.settle.pins = s.pins := by simp only [State.settle]; split <;> simp
@[simp] theorem State.answerUndefined_freeCtr (n : Nat) (s : State) : (s.answerUndefined n).freeCtr = s.freeCtr := by
  induction n generalizing s with
  | zero => rfl
  | succ n ih => unfold State.answerUndefined; split <;> simp [ih]
@[simp] theorem State.settle_freeCtr (s : State) : s.settle.freeCtr = s.freeCtr := by simp only [State.settle]; split <;> simp
@[simp] theorem State.answerUndefined_pending (n : Nat) (s : State) : (s.answerUndefined n).pending = s.pending := by
  induction n generalizing s with
  | zero => rfl
  | succ n ih => unfold State.answerUndefined; split <;> simp [ih]
@[simp] theorem State.settle_pending (s : State) : s.settle.pending = s.pending := by simp only [State.settle]; split <;> simp
end

section
variable (pk : Packet) (st dt res waves ns : Nat) (s : State)
@[simp] theorem State.replyAll_tim : (s.replyAll pk st dt res waves ns).tim = s.tim := by simp [State.replyAll]
@[simp] theorem State.replyAll_ctr : (s.replyAll pk st dt res waves ns).ctr = s.ctr := by simp [State.replyAll]
@[simp] theorem State.replyAll_emt : (s.replyAll pk st dt res waves ns).emt = s.emt := by simp [State.replyAll]
@[simp] theorem State.replyAll_ckc : (s.replyAll pk st dt res waves ns).ckc = s.ckc := by simp [State.replyAll]
@[simp] theorem State.replyAll_saf : (s.replyAll pk st dt res waves ns).saf = s.saf := by simp [State.replyAll]
@[simp] theorem State.replyAll_pwr : (s.replyAll pk st dt res waves ns).pwr = s.pwr := by simp [State.replyAll]
@[simp] theorem State.replyAll_mss : (s.replyAll pk st dt res waves ns).mss = s.mss := by simp [State.replyAll]
@[simp] theorem State.replyAll_sec : (s.replyAll pk st dt res waves ns).sec = s.sec := by simp [State.replyAll]
@[simp] theorem State.replyAll_flash : (s.replyAll pk st dt res waves ns).flash = s.flash := by simp [State.replyAll]
@[simp] theorem State.replyAll_evr : (s.replyAll pk st dt res waves ns).evr = s.evr := by simp [State.replyAll]
@[simp] theorem State.replyAll_sen : (s.replyAll pk st dt res waves ns).sen = s.sen := by simp [State.replyAll]
@[simp] theorem State.replyAll_fab : (s.replyAll pk st dt res waves ns).fab = s.fab := by simp [State.replyAll]
@[simp] theorem State.replyAll_pins : (s.replyAll pk st dt res waves ns).pins = s.pins := by simp [State.replyAll]
@[simp] theorem State.replyAll_freeCtr : (s.replyAll pk st dt res waves ns).freeCtr = s.freeCtr := by simp [State.replyAll]
@[simp] theorem State.replyAll_pending : (s.replyAll pk st dt res waves ns).pending = s.pending := by simp [State.replyAll]
end

section
variable (pk : Packet) (st dt res : Nat) (s : State)
@[simp] theorem State.reply_tim : (s.reply pk st dt res).tim = s.tim := by simp [State.reply]
@[simp] theorem State.reply_ctr : (s.reply pk st dt res).ctr = s.ctr := by simp [State.reply]
@[simp] theorem State.reply_emt : (s.reply pk st dt res).emt = s.emt := by simp [State.reply]
@[simp] theorem State.reply_ckc : (s.reply pk st dt res).ckc = s.ckc := by simp [State.reply]
@[simp] theorem State.reply_saf : (s.reply pk st dt res).saf = s.saf := by simp [State.reply]
@[simp] theorem State.reply_pwr : (s.reply pk st dt res).pwr = s.pwr := by simp [State.reply]
@[simp] theorem State.reply_mss : (s.reply pk st dt res).mss = s.mss := by simp [State.reply]
@[simp] theorem State.reply_sec : (s.reply pk st dt res).sec = s.sec := by simp [State.reply]
@[simp] theorem State.reply_flash : (s.reply pk st dt res).flash = s.flash := by simp [State.reply]
@[simp] theorem State.reply_evr : (s.reply pk st dt res).evr = s.evr := by simp [State.reply]
@[simp] theorem State.reply_sen : (s.reply pk st dt res).sen = s.sen := by simp [State.reply]
@[simp] theorem State.reply_fab : (s.reply pk st dt res).fab = s.fab := by simp [State.reply]
@[simp] theorem State.reply_pins : (s.reply pk st dt res).pins = s.pins := by simp [State.reply]
@[simp] theorem State.reply_freeCtr : (s.reply pk st dt res).freeCtr = s.freeCtr := by simp [State.reply]
@[simp] theorem State.reply_pending : (s.reply pk st dt res).pending = s.pending := by simp [State.reply]
end

section
variable (pk : Packet) (res : Nat) (s : State)
@[simp] theorem State.done_tim : (s.done pk res).tim = s.tim := by simp [State.done]
@[simp] theorem State.done_ctr : (s.done pk res).ctr = s.ctr := by simp [State.done]
@[simp] theorem State.done_emt : (s.done pk res).emt = s.emt := by simp [State.done]
@[simp] theorem State.done_ckc : (s.done pk res).ckc = s.ckc := by simp [State.done]
@[simp] theorem State.done_saf : (s.done pk res).saf = s.saf := by simp [State.done]
@[simp] theorem State.done_pwr : (s.done pk res).pwr = s.pwr := by simp [State.done]
@[simp] theorem State.done_mss : (s.done pk res).mss = s.mss := by simp [State.done]
@[simp] theorem State.done_sec : (s.done pk res).sec = s.sec := by simp [State.done]
@[simp] theorem State.done_flash : (s.done pk res).flash = s.flash := by simp [State.done]
@[simp] theorem State.done_evr : (s.done pk res).evr = s.evr := by simp [State.done]
@[simp] theorem State.done_sen : (s.done pk res).sen = s.sen := by simp [State.done]
@[simp] theorem State.done_fab : (s.done pk res).fab = s.fab := by simp [State.done]
@[simp] theorem State.done_pins : (s.done pk res).pins = s.pins := by simp [State.done]
@[simp] theorem State.done_freeCtr : (s.done pk res).freeCtr = s.freeCtr := by simp [State.done]
@[simp] theorem State.done_pending : (s.done pk res).pending = s.pending := by simp [State.done]
end

section
variable (pk : Packet) (off : Nat) (s : State)
@[simp] theorem State.bad_tim : (s.bad pk off).tim = s.tim := by simp [State.bad]
@[simp] theorem State.bad_ctr : (s.bad pk off).ctr = s.ctr := by simp [State.bad]
@[simp] theorem State.bad_emt : (s.bad pk off).emt = s.emt := by simp [State.bad]
@[simp] theorem State.bad_ckc : (s.bad pk off).ckc = s.ckc := by simp [State.bad]
@[simp] theorem State.bad_saf : (s.bad pk off).saf = s.saf := by simp [State.bad]
@[simp] theorem State.bad_pwr : (s.bad pk off).pwr = s.pwr := by simp [State.bad]
@[simp] theorem State.bad_mss : (s.bad pk off).mss = s.mss := by simp [State.bad]
@[simp] theorem State.bad_sec : (s.bad pk off).sec = s.sec := by simp [State.bad]
@[simp] theorem State.bad_flash : (s.bad pk off).flash = s.flash := by simp [State.bad]
@[simp] theorem State.bad_evr : (s.bad pk off).evr = s.evr := by simp [State.bad]
@[simp] theorem State.bad_sen : (s.bad pk off).sen = s.sen := by simp [State.bad]
@[simp] theorem State.bad_fab : (s.bad pk off).fab = s.fab := by simp [State.bad]
@[simp] theorem State.bad_pins : (s.bad pk off).pins = s.pins := by simp [State.bad]
@[simp] theorem State.bad_freeCtr : (s.bad pk off).freeCtr = s.freeCtr := by simp [State.bad]
@[simp] theorem State.bad_pending : (s.bad pk off).pending = s.pending := by simp [State.bad]
end

section
variable (pk : Packet) (res : Nat) (s : State)
@[simp] theorem State.noRes_tim : (s.noRes pk res).tim = s.tim := by simp [State.noRes]
@[simp] theorem State.noRes_ctr : (s.noRes pk res).ctr = s.ctr := by simp [State.noRes]
@[simp] theorem State.noRes_emt : (s.noRes pk res).emt = s.emt := by simp [State.noRes]
@[simp] theorem State.noRes_ckc : (s.noRes pk res).ckc = s.ckc := by simp [State.noRes]
@[simp] theorem State.noRes_saf : (s.noRes pk res).saf = s.saf := by simp [State.noRes]
@[simp] theorem State.noRes_pwr : (s.noRes pk res).pwr = s.pwr := by simp [State.noRes]
@[simp] theorem State.noRes_mss : (s.noRes pk res).mss = s.mss := by simp [State.noRes]
@[simp] theorem State.noRes_sec : (s.noRes pk res).sec = s.sec := by simp [State.noRes]
@[simp] theorem State.noRes_flash : (s.noRes pk res).flash = s.flash := by simp [State.noRes]
@[simp] theorem State.noRes_evr : (s.noRes pk res).evr = s.evr := by simp [State.noRes]
@[simp] theorem State.noRes_sen : (s.noRes pk res).sen = s.sen := by simp [State.noRes]
@[simp] theorem State.noRes_fab : (s.noRes pk res).fab = s.fab := by simp [State.noRes]
@[simp] theorem State.noRes_pins : (s.noRes pk res).pins = s.pins := by simp [State.noRes]
@[simp] theorem State.noRes_freeCtr : (s.noRes pk res).freeCtr = s.freeCtr := by simp [State.noRes]
@[simp] theorem State.noRes_pending : (s.noRes pk res).pending = s.pending := by simp [State.noRes]
end

section
variable (i : CkcInput) (s : State)
@[simp] theorem State.ckcInput_tim : (s.ckcInput i).tim = s.tim := rfl
@[simp] theorem State.ckcInput_hif : (s.ckcInput i).hif = s.hif := rfl
@[simp] theorem State.ckcInput_cpx : (s.ckcInput i).cpx = s.cpx := rfl
@[simp] theorem State.ckcInput_ctr : (s.ckcInput i).ctr = s.ctr := rfl
@[simp] theorem State.ckcInput_emt : (s.ckcInput i).emt = s.emt := rfl
@[simp] theorem State.ckcInput_saf : (s.ckcInput i).saf = s.saf := rfl
@[simp] theorem State.ckcInput_pwr : (s.ckcInput i).pwr = s.pwr := rfl
@[simp] theorem State.ckcInput_mss : (s.ckcInput i).mss = s.mss := rfl
@[simp] theorem State.ckcInput_sec : (s.ckcInput i).sec = s.sec := rfl
@[simp] theorem State.ckcInput_flash : (s.ckcInput i).flash = s.flash := rfl
@[simp] theorem State.ckcInput_evr : (s.ckcInput i).evr = s.evr := rfl
@[simp] theorem State.ckcInput_sen : (s.ckcInput i).sen = s.sen := rfl
@[simp] theorem State.ckcInput_fab : (s.ckcInput i).fab = s.fab := rfl
@[simp] theorem State.ckcInput_pins : (s.ckcInput i).pins = s.pins := rfl
@[simp] theorem State.ckcInput_freeCtr : (s.ckcInput i).freeCtr = s.freeCtr := rfl
@[simp] theorem State.ckcInput_pending : (s.ckcInput i).pending = s.pending := rfl
end

section
variable (a : Nat) (b : List Byte) (s : State)
@[simp] theorem State.hostWrite_tim : (s.hostWrite a b).tim = s.tim := by simp [State.hostWrite]
@[simp] theorem State.hostWrite_cpx : (s.hostWrite a b).cpx = s.cpx := by simp [State.hostWrite]
@[simp] theorem State.hostWrite_ctr : (s.hostWrite a b).ctr = s.ctr := by simp [State.hostWrite]
@[simp] theorem State.hostWrite_emt : (s.hostWrite a b).emt = s.emt := by simp [State.hostWrite]
@[simp] theorem State.hostWrite_ckc : (s.hostWrite a b).ckc = s.ckc := by simp [State.hostWrite]
@[simp] theorem State.hostWrite_saf : (s.hostWrite a b).saf = s.saf := by simp [State.hostWrite]
@[simp] theorem State.hostWrite_pwr : (s.hostWrite a b).pwr = s.pwr := by simp [State.hostWrite]
@[simp] theorem State.hostWrite_mss : (s.hostWrite a b).mss = s.mss := by simp [State.hostWrite]
@[simp] theorem State.hostWrite_sec : (s.hostWrite a b).sec = s.sec := by simp [State.hostWrite]
@[simp] theorem State.hostWrite_flash : (s.hostWrite a b).flash = s.flash := by simp [State.hostWrite]
@[simp] theorem State.hostWrite_evr : (s.hostWrite a b).evr = s.evr := by simp [State.hostWrite]
@[simp] theorem State.hostWrite_sen : (s.hostWrite a b).sen = s.sen := by simp [State.hostWrite]
@[simp] theorem State.hostWrite_fab : (s.hostWrite a b).fab = s.fab := by simp [State.hostWrite]
@[simp] theorem State.hostWrite_pins : (s.hostWrite a b).pins = s.pins := by simp [State.hostWrite]
@[simp] theorem State.hostWrite_freeCtr : (s.hostWrite a b).freeCtr = s.freeCtr := by simp [State.hostWrite]
@[simp] theorem State.hostWrite_pending : (s.hostWrite a b).pending = s.pending := by simp [State.hostWrite]
end

section
variable (pk : Packet) (s : State)
@[simp] theorem State.markStarted_tim : (s.markStarted pk).tim = s.tim := rfl
@[simp] theorem State.markStarted_hif : (s.markStarted pk).hif = s.hif := rfl
@[simp] theorem State.markStarted_ctr : (s.markStarted pk).ctr = s.ctr := rfl
@[simp] theorem State.markStarted_emt : (s.markStarted pk).emt = s.emt := rfl
@[simp] theorem State.markStarted_ckc : (s.markStarted pk).ckc = s.ckc := rfl
@[simp] theorem State.markStarted_saf : (s.markStarted pk).saf = s.saf := rfl
@[simp] theorem State.markStarted_pwr : (s.markStarted pk).pwr = s.pwr := rfl
@[simp] theorem State.markStarted_mss : (s.markStarted pk).mss = s.mss := rfl
@[simp] theorem State.markStarted_sec : (s.markStarted pk).sec = s.sec := rfl
@[simp] theorem State.markStarted_flash : (s.markStarted pk).flash = s.flash := rfl
@[simp] theorem State.markStarted_evr : (s.markStarted pk).evr = s.evr := rfl
@[simp] theorem State.markStarted_sen : (s.markStarted pk).sen = s.sen := rfl
@[simp] theorem State.markStarted_fab : (s.markStarted pk).fab = s.fab := rfl
@[simp] theorem State.markStarted_pins : (s.markStarted pk).pins = s.pins := rfl
@[simp] theorem State.markStarted_freeCtr : (s.markStarted pk).freeCtr = s.freeCtr := rfl
@[simp] theorem State.markStarted_pending : (s.markStarted pk).pending = s.pending := rfl
end

section
variable (c : Nat) (s : State)
@[simp] theorem State.latch_tim : (s.latch c).tim = s.tim := by simp only [State.latch]; split <;> simp
@[simp] theorem State.latch_cpx : (s.latch c).cpx = s.cpx := by simp only [State.latch]; split <;> simp
@[simp] theorem State.latch_ctr : (s.latch c).ctr = s.ctr := by simp only [State.latch]; split <;> simp
@[simp] theorem State.latch_ckc : (s.latch c).ckc = s.ckc := by simp only [State.latch]; split <;> simp
@[simp] theorem State.latch_pwr : (s.latch c).pwr = s.pwr := by simp only [State.latch]; split <;> simp
@[simp] theorem State.latch_mss : (s.latch c).mss = s.mss := by simp only [State.latch]; split <;> simp
@[simp] theorem State.latch_sec : (s.latch c).sec = s.sec := by simp only [State.latch]; split <;> simp
@[simp] theorem State.latch_flash : (s.latch c).flash = s.flash := by simp only [State.latch]; split <;> simp
@[simp] theorem State.latch_sen : (s.latch c).sen = s.sen := by simp only [State.latch]; split <;> simp
@[simp] theorem State.latch_fab : (s.latch c).fab = s.fab := by simp only [State.latch]; split <;> simp
@[simp] theorem State.latch_freeCtr : (s.latch c).freeCtr = s.freeCtr := by simp only [State.latch]; split <;> simp
@[simp] theorem State.latch_pending : (s.latch c).pending = s.pending := by simp only [State.latch]; split <;> simp
end

section
variable (s : State)
@[simp] theorem State.unlatch_tim : (s.unlatch).tim = s.tim := by simp [State.unlatch]
@[simp] theorem State.unlatch_cpx : (s.unlatch).cpx = s.cpx := by simp [State.unlatch]
@[simp] theorem State.unlatch_ctr : (s.unlatch).ctr = s.ctr := by simp [State.unlatch]
@[simp] theorem State.unlatch_emt : (s.unlatch).emt = s.emt := by simp [State.unlatch]
@[simp] theorem State.unlatch_ckc : (s.unlatch).ckc = s.ckc := by simp [State.unlatch]
@[simp] theorem State.unlatch_pwr : (s.unlatch).pwr = s.pwr := by simp [State.unlatch]
@[simp] theorem State.unlatch_mss : (s.unlatch).mss = s.mss := by simp [State.unlatch]
@[simp] theorem State.unlatch_sec : (s.unlatch).sec = s.sec := by simp [State.unlatch]
@[simp] theorem State.unlatch_flash : (s.unlatch).flash = s.flash := by simp [State.unlatch]
@[simp] theorem State.unlatch_sen : (s.unlatch).sen = s.sen := by simp [State.unlatch]
@[simp] theorem State.unlatch_fab : (s.unlatch).fab = s.fab := by simp [State.unlatch]
@[simp] theorem State.unlatch_freeCtr : (s.unlatch).freeCtr = s.freeCtr := by simp [State.unlatch]
@[simp] theorem State.unlatch_pending : (s.unlatch).pending = s.pending := by simp [State.unlatch]
end

section
variable (m : CkcMode) (lane : Nat) (s : State)
@[simp] theorem State.setCkcMode_tim : (s.setCkcMode m lane).tim = s.tim := by unfold State.setCkcMode; simp only; split <;> simp
@[simp] theorem State.setCkcMode_cpx : (s.setCkcMode m lane).cpx = s.cpx := by unfold State.setCkcMode; simp only; split <;> simp
@[simp] theorem State.setCkcMode_ctr : (s.setCkcMode m lane).ctr = s.ctr := by unfold State.setCkcMode; simp only; split <;> simp
@[simp] theorem State.setCkcMode_emt : (s.setCkcMode m lane).emt = s.emt := by unfold State.setCkcMode; simp only; split <;> simp
@[simp] theorem State.setCkcMode_saf : (s.setCkcMode m lane).saf = s.saf := by unfold State.setCkcMode; simp only; split <;> simp
@[simp] theorem State.setCkcMode_pwr : (s.setCkcMode m lane).pwr = s.pwr := by unfold State.setCkcMode; simp only; split <;> simp
@[simp] theorem State.setCkcMode_mss : (s.setCkcMode m lane).mss = s.mss := by unfold State.setCkcMode; simp only; split <;> simp
@[simp] theorem State.setCkcMode_sec : (s.setCkcMode m lane).sec = s.sec := by unfold State.setCkcMode; simp only; split <;> simp
@[simp] theorem State.setCkcMode_flash : (s.setCkcMode m lane).flash = s.flash := by unfold State.setCkcMode; simp only; split <;> simp
@[simp] theorem State.setCkcMode_evr : (s.setCkcMode m lane).evr = s.evr := by unfold State.setCkcMode; simp only; split <;> simp
@[simp] theorem State.setCkcMode_sen : (s.setCkcMode m lane).sen = s.sen := by unfold State.setCkcMode; simp only; split <;> simp
@[simp] theorem State.setCkcMode_fab : (s.setCkcMode m lane).fab = s.fab := by unfold State.setCkcMode; simp only; split <;> simp
@[simp] theorem State.setCkcMode_pins : (s.setCkcMode m lane).pins = s.pins := by unfold State.setCkcMode; simp only; split <;> simp
@[simp] theorem State.setCkcMode_freeCtr : (s.setCkcMode m lane).freeCtr = s.freeCtr := by unfold State.setCkcMode; simp only; split <;> simp
@[simp] theorem State.setCkcMode_pending : (s.setCkcMode m lane).pending = s.pending := by unfold State.setCkcMode; simp only; split <;> simp
end

/-! ### The host interface under a post -/

section
variable (s : State)
@[simp] theorem State.post_event (p : HostPost) : (s.post p).hif.event = s.hif.event := by
  simp only [State.post, State.onHif_hif]; split <;> rfl
@[simp] theorem State.post_eventMask (p : HostPost) : (s.post p).hif.eventMask = s.hif.eventMask := by
  simp only [State.post, State.onHif_hif]; split <;> rfl
@[simp] theorem State.post_linkUp (p : HostPost) : (s.post p).hif.linkUp = s.hif.linkUp := by
  simp only [State.post, State.onHif_hif]; split <;> rfl
@[simp] theorem State.post_doorbellErrors (p : HostPost) : (s.post p).hif.doorbellErrors = s.hif.doorbellErrors := by
  simp only [State.post, State.onHif_hif]; split <;> rfl
@[simp] theorem State.post_adminEnable (p : HostPost) : (s.post p).hif.adminEnable = s.hif.adminEnable := by
  simp only [State.post, State.onHif_hif]; split <;> rfl
@[simp] theorem State.message_event (v : Nat) : (s.message v).hif.event = s.hif.event := by
  simp only [State.message]; split <;> simp
@[simp] theorem State.message_eventMask (v : Nat) : (s.message v).hif.eventMask = s.hif.eventMask := by
  simp only [State.message]; split <;> simp
@[simp] theorem State.message_linkUp (v : Nat) : (s.message v).hif.linkUp = s.hif.linkUp := by
  simp only [State.message]; split <;> simp
@[simp] theorem State.message_doorbellErrors (v : Nat) : (s.message v).hif.doorbellErrors = s.hif.doorbellErrors := by
  simp only [State.message]; split <;> simp
/-- An event sets its cause bit and keeps the others. -/
@[simp] theorem State.raise_event (i : Nat) : (s.raise i).hif.event = s.hif.event ||| (1#32 <<< i) := by
  simp only [State.raise]; split <;> simp
@[simp] theorem State.raise_linkUp (i : Nat) : (s.raise i).hif.linkUp = s.hif.linkUp := by
  simp only [State.raise]; split <;> simp
@[simp] theorem State.raise_doorbellErrors (i : Nat) : (s.raise i).hif.doorbellErrors = s.hif.doorbellErrors := by
  simp only [State.raise]; split <;> simp
/-- Recording an event of class 7 sets HOST_ERROR; any other leaves HIF as it was. -/
@[simp] theorem State.note_hif (code sev unit p0 p1 p2 : Nat) :
    (s.note code sev unit p0 p1 p2).hif = (if code / 4096 = 7 then s.raise causeHost else s).hif := by
  simp only [State.note]; split <;> (split <;> simp_all)
end

end Sys2Proof.Machine
end

