-- ==== Sys2Proof/Laws/Start.lean ====
section
/-! SUPPORT. Starting a packet: what `runPacket` does when the ring's next packet starts, or a common rule refuses it. -/

namespace Sys2Proof.Machine

section
variable (s : State) (pk : Packet)

@[simp] theorem State.markStarted_rings : (s.markStarted pk).cpx.rings = s.cpx.rings := rfl
@[simp] theorem State.markStarted_clients : (s.markStarted pk).cpx.clients = s.cpx.clients := rfl
@[simp] theorem State.markStarted_buffers : (s.markStarted pk).cpx.buffers = s.cpx.buffers := rfl
@[simp] theorem State.markStarted_jobs : (s.markStarted pk).cpx.jobs = s.cpx.jobs := rfl
@[simp] theorem State.markStarted_qm : (s.markStarted pk).cpx.qm = s.cpx.qm := rfl
@[simp] theorem State.markStarted_qmCores : (s.markStarted pk).cpx.qmCores = s.cpx.qmCores := rfl
@[simp] theorem State.markStarted_client? (i : Nat) : (s.markStarted pk).cpx.client? i = s.cpx.client? i := rfl
@[simp] theorem State.markStarted_ring? (i : Nat) : (s.markStarted pk).cpx.ring? i = s.cpx.ring? i := rfl
@[simp] theorem State.markStarted_job? (i : Nat) : (s.markStarted pk).cpx.job? i = s.cpx.job? i := rfl
@[simp] theorem State.markStarted_proto (i : Nat) : (s.markStarted pk).cpx.proto i = s.cpx.proto i := rfl
@[simp] theorem State.markStarted_holders (h : Nat) : (s.markStarted pk).cpx.holders h = s.cpx.holders h := rfl
@[simp] theorem State.markStarted_freeRing : (s.markStarted pk).freeRing = s.freeRing := rfl
@[simp] theorem State.markStarted_newHandle : (s.markStarted pk).newHandle = s.newHandle := rfl
@[simp] theorem State.markStarted_now : (s.markStarted pk).now = s.now := rfl
@[simp] theorem State.markStarted_capsBlock : (s.markStarted pk).capsBlock = s.capsBlock := rfl
@[simp] theorem State.markStarted_gate (q : Packet) : (s.markStarted pk).gate q = s.gate q := rfl

/-- Marking a packet as started does not change whether its client is busy. -/
@[simp] theorem State.markStarted_clientBusy (q : Packet) : (s.markStarted pk).cpx.clientBusy q = s.cpx.clientBusy q := by
  have key : ∀ l : List Packet,
      ((l.map fun p => if p.same pk then { p with started := some s.now } else p).takeWhile fun p => !p.same q).any
        (fun p => p.client = q.client) = ((l.takeWhile fun p => !p.same q).any fun p => p.client = q.client) := by
    intro l
    induction l with
    | nil => rfl
    | cons a r ih =>
      have e : (if a.same pk then { a with started := some s.now } else a).same q = a.same q := by split <;> rfl
      have e' : (if a.same pk then { a with started := some s.now } else a).client = a.client := by split <;> rfl
      simp only [List.map_cons, List.takeWhile_cons, e]
      split <;> simp_all
  have rest : ∀ l : List Packet,
      ((l.map fun p => if p.same pk then { p with started := some s.now } else p).filter fun p =>
        p.client = q.client && decide (p.ring ≠ q.ring)).length =
      (l.filter fun p => p.client = q.client && decide (p.ring ≠ q.ring)).length := by
    intro l
    induction l with
    | nil => rfl
    | cons a r ih =>
      have e : (if a.same pk then { a with started := some s.now } else a).ring = a.ring := by split <;> rfl
      have e' : (if a.same pk then { a with started := some s.now } else a).client = a.client := by split <;> rfl
      simp only [List.map_cons, List.filter_cons, e, e']
      split
      · rw [List.length_cons, List.length_cons, ih]
      · exact ih
  unfold Cpx.clientBusy Cpx.unrepliedAll
  rw [show (s.markStarted pk).cpx.packets = s.cpx.packets.map _ from rfl, key]
  simp only [List.filter_append, List.length_append, rest]
  rfl

end

/-- The front packet starts: its command's body runs on the started packet. -/
theorem State.Starts.run {s : State} {ring op : Nat} {pk : Packet} (h : s.Starts ring op pk)
    (body : Packet → State → State) : s.runPacket ring op body = body (s.begun pk) (s.markStarted pk) := by
  have h4 := h.free
  simp only [Bool.and_eq_false_iff] at h4
  simp only [State.runPacket, h.on, h.front, h.code, h.room, h.gate, State.begun]
  rcases h4 with h4 | h4 <;> simp [h4]

/-- A common rule refuses the front packet: its command only replies. -/
theorem State.Refuses.run {s : State} {ring op : Nat} {pk : Packet} {st dt : Nat} (h : s.Refuses ring op pk st dt)
    (body : Packet → State → State) : s.runPacket ring op body = (s.markStarted pk).reply (s.begun pk) st dt 0 := by
  simp only [State.runPacket, h.on, h.front, h.code, h.room, h.gate, State.begun]
  simp

@[simp] theorem State.begun_u (s : State) (pk : Packet) (o n : Nat) : (s.begun pk).u o n = pk.u o n := rfl
@[simp] theorem State.begun_ring (s : State) (pk : Packet) : (s.begun pk).ring = pk.ring := rfl
@[simp] theorem State.begun_client (s : State) (pk : Packet) : (s.begun pk).client = pk.client := rfl
@[simp] theorem State.begun_pos (s : State) (pk : Packet) : (s.begun pk).pos = pk.pos := rfl
@[simp] theorem State.begun_opcode (s : State) (pk : Packet) : (s.begun pk).opcode = pk.opcode := rfl
@[simp] theorem State.begun_cmdIdx (s : State) (pk : Packet) : (s.begun pk).cmdIdx = pk.cmdIdx := rfl

end Sys2Proof.Machine
end

