-- ==== Sys2Proof/Machine/Package.lean ====
section
/-! DEFINITION. The package's ball map (R444-R449): which signal or rail each of the 2,236 balls carries. No command reads it. -/

namespace Sys2Proof.Machine

/-- What a ball carries: a rail of Table 19.5, or a signal by its name. -/
inductive Ball where
  | vddCore | vddqDdr | vddPhy | vddaPhy | vddIo | vddaPll | vss
  | signal (name : String)
  deriving DecidableEq, Repr

/-- The letters of a group of nineteen rows (R444). -/
def rowLetters : List String := ["A", "B", "C", "D", "E", "F", "G", "H", "J", "K", "L", "M", "N", "P", "T", "U", "V", "W", "Y"]
/-- The letters of row number `r`, 1 to 48 (R444). -/
def rowName (r : Nat) : String := ["", "A", "B"].getD ((r - 1) / 19) "" ++ rowLetters.getD ((r - 1) % 19) ""

/-- The signals of one LPDDR5X channel block, row by row (Table 19.1). -/
def ddrBlock : List String :=
  ["DQ0", "DQ1", "DQ2", "DQ3", "DQ4", "DQ5", "DQ6", "DQ7", "RDQS0_T", "RDQS0_C", "WCK0_T", "WCK0_C",
   "DMI0", "CK_T", "CK_C", "CS", "CA0", "CA1", "CA2", "CA3", "CA4", "CA5", "CA6", "DMI1",
   "RDQS1_T", "RDQS1_C", "WCK1_T", "WCK1_C", "DQ8", "DQ9", "DQ10", "DQ11", "DQ12", "DQ13", "DQ14", "DQ15"]

/-- A number in two digits. -/
def two (n : Nat) : String := toString (n / 10) ++ toString (n % 10)

/-- A ball of the top or bottom band (R445): `r` and `c` count from 0 within the band. -/
def ddrBall (bottom : Bool) (r c : Nat) : Ball :=
  let package := c / 24 + if bottom then 2 else 0
  let j := 4 * (r / 6) + c % 24 / 6
  .signal ("DDR" ++ two (8 * package + j) ++ "_" ++ ddrBlock.getD (6 * (r % 6) + c % 6) "")

/-- A ball of a CSI port (R446): `r` counts from row N. -/
def csiBall (r c : Nat) : Ball :=
  match [["D0_P", "D0_N", "D1_P", "D1_N"], ["CLK_P", "CLK_N"], ["D2_P", "D2_N", "D3_P", "D3_N"]].getD (r % 3) [] |>.drop (c - 1) with
  | n :: _ => .signal ("CSI" ++ toString (r / 3) ++ "_" ++ n)
  | [] => .vss

/-- A ball of one serial lane's two rows (R447). -/
def laneBall (name : String) (idx second col : Nat) : Ball :=
  match second, col with
  | 0, 45 => .signal (name ++ "_TX" ++ toString idx ++ "_P")
  | 0, 46 => .signal (name ++ "_TX" ++ toString idx ++ "_N")
  | 1, 47 => .signal (name ++ "_RX" ++ toString idx ++ "_P")
  | 1, 48 => .signal (name ++ "_RX" ++ toString idx ++ "_N")
  | _, _ => .vss

/-- A ball of one lidar Ethernet port's two rows (R447): its port number stands in the name. -/
def ethBall (port second col : Nat) : Ball :=
  match second, col with
  | 0, 45 => .signal ("ETH" ++ toString port ++ "_TX_P")
  | 0, 46 => .signal ("ETH" ++ toString port ++ "_TX_N")
  | 1, 47 => .signal ("ETH" ++ toString port ++ "_RX_P")
  | 1, 48 => .signal ("ETH" ++ toString port ++ "_RX_N")
  | _, _ => .vss

/-- Columns 45-48 of rows N-AV (R447). -/
def serialBall (row col : Nat) : Ball :=
  if row < 21 then laneBall "PCIE" ((row - 13) / 2) ((row - 13) % 2) col
  else if row = 21 then (if col = 45 then .signal "PCIE_REFCLK_P" else if col = 46 then .signal "PCIE_REFCLK_N" else .vss)
  else if 27 ≤ row ∧ row < 35 then ethBall ((row - 27) / 2) ((row - 27) % 2) col
  else .vss

/-- The signals at P5-P44 (Table 19.3). -/
def rowP : List String :=
  ["FLASH_CS_N", "FLASH_SCK", "FLASH_DQS", "FLASH_DQ0", "FLASH_DQ1", "FLASH_DQ2", "FLASH_DQ3", "FLASH_DQ4", "FLASH_DQ5", "FLASH_DQ6",
   "FLASH_DQ7", "FLASH_RESET_N", "RGMII_TXC", "RGMII_TX_CTL", "RGMII_TXD0", "RGMII_TXD1", "RGMII_TXD2", "RGMII_TXD3", "RGMII_RXC",
   "RGMII_RX_CTL", "RGMII_RXD0", "RGMII_RXD1", "RGMII_RXD2", "RGMII_RXD3", "MDC", "MDIO"] ++
  ["I2C0_SCL", "I2C0_SDA", "I2C1_SCL", "I2C1_SDA", "I2C2_SCL", "I2C2_SDA", "I2C3_SCL", "I2C3_SDA", "SSPI_CS_N", "SSPI_SCK",
   "SSPI_MOSI", "SSPI_MISO", "AVS_CLK", "AVS_MDATA"]
/-- The signals at T5-T44 (Table 19.3). -/
def rowT : List String :=
  ["AVS_SDATA", "SAFE_N", "FRAME_ALIVE", "FSYNC0", "FSYNC1", "FSYNC2", "FSYNC3", "FSYNC4", "FSYNC5", "FSYNC6", "FSYNC7", "PPS_IN",
   "PPS_OUT", "PWRFAIL_N", "OFF_READY", "BOOT_MODE0", "BOOT_MODE1", "RST_N", "PERST_N", "TCK", "TMS", "TDI", "TDO", "TRST_N", "TEST_MODE"] ++
  ["DDR_RESET_N0", "DDR_RESET_N1", "DDR_RESET_N2", "DDR_RESET_N3", "XTAL_IN", "XTAL_OUT", "VDD_CORE_SENSE", "VSS_SENSE", "DDR_RCAL0",
   "DDR_RCAL1", "DDR_RCAL2", "DDR_RCAL3", "PCIE_RCAL", "CSI_RCAL_A", "CSI_RCAL_B"]

/-- A ball of rows N-AV, columns 5-44 (R448, R449). -/
def fieldBall (row col : Nat) : Ball :=
  if row = 13 ∨ row = 36 then (if col % 5 = 0 ∧ col ≤ 40 then .vss else .vddqDdr)
  else if row = 14 then .signal (rowP.getD (col - 5) "")
  else if row = 15 then .signal (rowT.getD (col - 5) "")
  else if row = 16 then
    if col = 5 then .signal "ETH_RCAL" else if 6 ≤ col ∧ col ≤ 19 then .vddIo else if col = 34 ∨ col = 35 then .vddaPll else .vss
  else if row ≤ 33 then
    if row = 17 ∧ col ∈ [5, 7, 9, 39, 41, 43] then .vss else if (row + col) % 2 = 0 then .vddCore else .vss
  else if row = 34 then (if col ≤ 40 then .vddPhy else .vss)
  else (if col ≤ 16 then .vddaPhy else .vss)

/-- The ball at a row and a column, both from 1 to 48; none at the positions that carry no ball (R444). -/
def ballAt (row col : Nat) : Option Ball :=
  if row < 1 ∨ 48 < row ∨ col < 1 ∨ 48 < col then none
  else if 23 ≤ row ∧ row ≤ 26 ∧ 16 ≤ col ∧ col ≤ 32 then none
  else if row ≤ 12 then some (ddrBall false (row - 1) (col - 1))
  else if 37 ≤ row then some (ddrBall true (row - 37) (col - 1))
  else if col ≤ 4 then some (csiBall (row - 13) col)
  else if 45 ≤ col then some (serialBall row col)
  else some (fieldBall row col)

/-- How many balls of the package satisfy a test. -/
def ballCount (p : Ball → Bool) : Nat :=
  ((List.range 48).map fun r => ((List.range 48).filter fun c => match ballAt (r + 1) (c + 1) with | some b => p b | none => false).length).sum

end Sys2Proof.Machine
end

