-- ==== Sys2Proof/Tests/Slice0.lean ====
section
/-! SUPPORT. Tests of the model: for every statement a small concrete state that meets its hypotheses, and single steps whose
results are worked out from the manual. -/

namespace Sys2Proof.Machine

set_option Elab.async false

/-! ### Small states -/

/-- A region entry of the demonstration map. -/
def region (i base size tag : Nat) : Region :=
  { index := i, base := base, size := size, tag := tag, encrypt := false, keyCount := 0 }

/-- A part after a start: READY, the link up, client 0 open with the newest versions, the admin rings in service, and
one region of each tag. -/
def ready : State :=
  let s := State.reset
  { s with
    pins := { s.pins with rstN := true, perstN := true }
    pwr := { s.pwr with state := .ready, domains := readyDomains }
    hif := { s.hif with linkUp := true, adminEnable := true, adminActive := true }
    mss := { s.mss with regions := [region 0 0 0x4000000 tagSafe, region 1 0x4000000 0x4000000 tagQm,
                                    region 2 0x8000000 0x4000000 tagShared], dataRate := 1, usable := 0x40000000 }
    cpx := { s.cpx with
      clients := [{ id := 0, versions := some { proto := 0x203, contract := 4, tile := 2 }, completed := 0, killed := 0 }]
      rings := [{ id := adminCmd, kind := .command, irq := true, error := false, client := 0, entries := 8, base := 0x1000#64,
                  head := 0, tail := 1, link := adminCpl, vector := 1, coalesce := 0, sinceMsg := 0, spans := [] },
                { id := adminCpl, kind := .completion, irq := true, error := false, client := 0, entries := 8, base := 0x2000#64,
                  head := 0, tail := 0, link := 0, vector := 1, coalesce := 0, sinceMsg := 0, spans := [] }] } }

/-- A packet at position 0 of the admin command ring: its opcode, and its fields as (byte offset, value). -/
def packet (op : Nat) (fields : List (Nat × Nat)) : Packet :=
  { ring := adminCmd, pos := 0, bits := BitVec.ofNat 512 (op + (fields.map fun f => f.2 * 256 ^ f.1).sum), cmdIdx := none,
    client := 0, started := none }

/-- The state with a packet waiting at the admin command ring. -/
def State.waits (s : State) (pk : Packet) : State := s.onCpx fun c => { c with packets := [pk] }

/-- `State.Starts` as a test. -/
def State.starts (s : State) (ring op : Nat) (pk : Packet) : Bool :=
  s.pins.rstN && decide (s.cpx.front ring = some pk) && decide (pk.opcode = op) && s.cpx.cplRoom ring &&
    !(opFirmware op && s.mssBusy) && decide (s.gate pk = none)

theorem starts_of {s : State} {ring op : Nat} {pk : Packet} (h : s.starts ring op pk = true) : s.Starts ring op pk := by
  simp only [State.starts, Bool.and_eq_true, decide_eq_true_eq, Bool.not_eq_true'] at h
  exact ⟨h.1.1.1.1.1, h.1.1.1.1.2, h.1.1.1.2, h.1.1.2, h.1.2, h.2⟩

theorem ready_canonical : ready.Canonical :=
  ⟨⟨by decide +kernel, by decide +kernel, by decide +kernel, by decide +kernel⟩,
   ⟨by decide +kernel, by decide +kernel, by decide +kernel⟩⟩

/-- An optional value with a property, from a test. -/
theorem some_of {α : Type} {o : Option α} {P : α → Prop} [DecidablePred P] (h : (o.any fun x => decide (P x)) = true) :
    ∃ x, o = some x ∧ P x := by
  cases o with
  | none => simp at h
  | some x => exact ⟨x, rfl, by simpa using h⟩

/-! ### The whole machine: witnesses of the hypotheses -/

theorem test_idle_hypotheses : ready.pending = [] ∧ ready.pins.rstN = true ∧ ready.now + 1 < 2 ^ 64 := by decide +kernel

theorem test_queue_hypothesis : ∃ t, exec .pcieLinkDown ready = .next t := ⟨_, rfl⟩

theorem test_canonical_step : ready.Canonical ∧ ∃ t, step ready = .next t := ⟨ready_canonical, _, rfl⟩

theorem test_safe_pin_step : State.reset.SafePin ∧ ready.SafePin ∧ ∃ t, step ready = .next t :=
  ⟨by unfold State.SafePin; decide +kernel, by unfold State.SafePin; decide +kernel, _, rfl⟩

theorem test_fuses_step : ∃ t, step { ready with pending := [.readError (.fetch 0 0)] } = .next t := ⟨_, rfl⟩

theorem test_event_queue_bounded : ready.QueueBounded ∧ ∃ t, step ready = .next t := ⟨by unfold State.QueueBounded; decide +kernel, _, rfl⟩

/-- An event record. -/
def someEvent : EventRec :=
  { code := 1, severity := 0, unit := 0, seq := 0, opSeconds := 0, powerCycle := 0, suppressed := 0, p0 := 0, p1 := 0, p2 := 0 }

/-- An event queue at its bound takes no further record (R418). -/
theorem test_event_queue_full : (match exec (.readError (.fetch adminCmd 0)) (ready.onEvr fun r => { r with queue := List.replicate 1024 someEvent }) with
    | .next t => t.evr.queue.length | _ => 0) = 1024 := by decide +kernel

/-! ### The host attachment: witnesses of the hypotheses -/

theorem test_bar0_open : ready.bar0Open = true ∧ ready.pins.rstN = true ∧ ready.hif.linkUp = true ∧ ready.pwr.state ≠ .boot ∧
    ready.pwr.state ≠ .parked := by decide +kernel

/-- HIF_EVENT is write-1-to-clear. -/
theorem test_event_w1c : (match exec (.hifEventWrite 0x5#32) (ready.onHif fun h => { h with event := 0xF#32 }) with
    | .next t => t.hif.event | _ => 0) = 0xA#32 := by decide +kernel

/-- A BAR4 write and read of 8 bytes whose last 4 lie past HOST_SHARED, with the window at the region's last 64 MiB. -/
theorem test_bar4_hypotheses :
    ready.Canonical ∧ ready.pins.rstN = true ∧ ready.hif.linkUp = true ∧ 0x3FFFFFC + 8 ≤ 0x40000000 ∧
    (let s := ready.onHif fun h => { h with bar4Window := 0x8000000#64 }
     s.mss.tagAt (64 * ((s.hif.bar4Window.toNat + 0x3FFFFFC + 3) / 64)) = tagShared ∧
     s.mss.tagAt (64 * ((s.hif.bar4Window.toNat + 0x3FFFFFC + 4) / 64)) ≠ tagShared) :=
  ⟨ready_canonical, by decide +kernel⟩

/-- The access itself: the first four bytes land, the others are discarded. -/
theorem test_bar4_write : (match exec (.bar4Access 0x3FFFFFC (some [1, 2, 3, 4, 5, 6, 7, 8]) 0)
      (ready.onHif fun h => { h with bar4Window := 0x8000000#64 }) with
    | .next t => t.fab.dram | _ => []) =
    [(0xBFFFFFC, 1#8), (0xBFFFFFD, 2#8), (0xBFFFFFE, 3#8), (0xBFFFFFF, 4#8)] := by decide +kernel

/-- The part before its admin rings are in service, with bases and entries written. -/
def unattached : State :=
  { ready with hif := { ready.hif with adminEnable := false, adminActive := false, adminCmdBase := 0x1000#64,
                                       adminCplBase := 0x2000#64, adminEntries := 8#32 }
               cpx := { ready.cpx with clients := [], rings := [] } }

theorem test_admin_hypotheses :
    unattached.bar0Open = true ∧ unattached.hif.adminEnable = false ∧ unattached.adminAccepts (0x100#32 ||| 1#32) = true ∧
    unattached.adminAccepts (0#32 ||| 1#32) = false ∧ ready.bar0Open = true ∧ ready.hif.adminEnable = true ∧
    ready.pins.rstN = true ∧ ready.hif.linkUp = true := by decide +kernel

theorem test_doorbell_hypotheses :
    (let v : DWord := 0x0000000300000FFE#64
     ∃ r, ready.pins.rstN = true ∧ ready.hif.linkUp = true ∧ (ready.cpx.client? 0).isSome = true ∧ v.toNat / 2 ^ 20 % 2 ^ 12 = 0 ∧
      ready.cpx.ring? (v.toNat % 2 ^ 20) = some r ∧ r.client = 0 ∧ r.accepts (v.toNat / 2 ^ 32) = true) ∧
    (ready.cpx.client? 7 = none ∧ ready.cpx.ring? 5 = none) ∧
    (∃ r, ready.cpx.ring? 0xFFE = some r ∧ r.accepts 9 = false ∧ r.accepts 8 = true ∧ r.accepts 0 = false) := by
  refine ⟨⟨_, ?_, ?_, ?_, ?_, rfl, ?_⟩, ?_, ⟨_, rfl, ?_⟩⟩ <;> decide +kernel

/-- A doorbell of a ring that the KM880 produces, with nothing owed: its head may move up to its tail. -/
theorem test_doorbell_produced :
    (let s := ready.onCpx fun c => { c with rings := c.rings.map fun r => { r with tail := 3 } }
     ∃ r, s.cpx.ring? adminCpl = some r ∧ r.kind ≠ .command ∧ r.accepts 3 = true ∧ r.accepts 4 = false ∧ s.cpx.owed = [] ∧ s.Quiet) :=
  ⟨_, rfl, by decide +kernel, by decide +kernel, by decide +kernel, rfl, by decide +kernel, by decide +kernel⟩

/-- Index 3 in bits 63:32 becomes the admin command ring's tail. -/
theorem test_doorbell : (match exec (.doorbell 0 0 64 (some 0x0000000300000FFE#64)) ready with
    | .next t => (t.cpx.ring? 0xFFE).map (·.tail) | _ => none) = some 3 := by decide +kernel

theorem test_fetch_hypotheses :
    ∃ r, ready.cpx.ring? adminCmd = some r ∧ r.kind = .command ∧ r.error = false ∧ r.head ≠ r.tail ∧
      (ready.cpx.unreplied adminCmd).length < 1025 ∧ ready.cpx.unrepliedAll.length < 65536 ∧ ready.cpx.job? adminCmd = none ∧
      opKnown ((1#512).toNat % 256) = true := by
  refine ⟨_, rfl, ?_⟩; decide +kernel

theorem test_quiet : ready.Quiet := ⟨by decide +kernel, by decide +kernel⟩

theorem test_reply_hypotheses : ready.hif.linkUp = true ∧ (packet 1 []).cmdIdx = none ∧ ready.cpx.unmaps = [] ∧
    ready.cpx.unrepliedAll = [] ∧ ready.cpx.cplRoom adminCmd = true ∧
    ((ready.onCpx fun c => { c with rings := c.rings.map fun r => { r with tail := 8 } }).cpx.retire (packet 1 []) 0).cplRoom adminCmd = false ∧
    ∃ q, ready.cpx.cplOf adminCmd = some q ∧ ready.cpx.ring? q.id = some q := by
  refine ⟨by decide +kernel, by decide +kernel, by decide +kernel, by decide +kernel, by decide +kernel, by decide +kernel, _, rfl, by decide +kernel⟩

/-- `State.Refuses` as a test. -/
def State.refuses (s : State) (ring op : Nat) (pk : Packet) (r : Nat × Nat) : Bool :=
  s.pins.rstN && decide (s.cpx.front ring = some pk) && decide (pk.opcode = op) && s.cpx.cplRoom ring && decide (s.gate pk = some r)

theorem refuses_of {s : State} {ring op : Nat} {pk : Packet} {st dt : Nat} (h : s.refuses ring op pk (st, dt) = true) :
    s.Refuses ring op pk st dt := by
  simp only [State.refuses, Bool.and_eq_true, decide_eq_true_eq] at h
  exact ⟨h.1.1.1.1, h.1.1.1.2, h.1.1.2, h.1.2, h.2⟩

/-- FLAGS beyond [0], and a parameter byte that OPEN_CLIENT does not use, refuse the packet; without them it is admitted. -/
theorem test_stray_bytes :
    ready.gate (packet 0x10 [(1, 2)]) = some (stBadParam, 1) ∧ ready.gate (packet 0x10 [(0x20, 5)]) = some (stBadParam, 0x20) ∧
      ready.gate (packet 0x10 [(1, 1)]) = none := by decide +kernel

/-- A packet with CMD_INDEX 1 outside a job: BAD_PARAM at its offset 8. -/
theorem test_refused_packet : (ready.waits (packet 1 [(8, 1)])).Refuses adminCmd 1 (packet 1 [(8, 1)]) stBadParam 8 :=
  refuses_of (by decide +kernel)

/-! ### Clients, rings, buffers: witnesses of the hypotheses -/

/-- HELLO 1.0 to 2.3, contract 3 to 4, tile 1 to 2. -/
def helloPacket : Packet := packet 0x01 [(0x10, 0x100), (0x12, 0x203), (0x14, 3), (0x15, 4), (0x16, 1), (0x17, 2)]
/-- HELLO of protocol versions that the part does not have. -/
def helloNew : Packet := packet 0x01 [(0x10, 0x300), (0x12, 0x400), (0x14, 3), (0x15, 4), (0x16, 1), (0x17, 2)]

/-- No best version: none of the list lies in the range. -/
theorem noBest {l : List Nat} {lo hi : Nat} (h : ∀ v ∈ l, ¬(lo ≤ v ∧ v ≤ hi)) : ¬ ∃ v, BestVersion l lo hi v :=
  fun ⟨v, b⟩ => h v b.1.1 b.1.2

theorem test_hello_hypotheses :
    (ready.waits helloPacket).Starts adminCmd 0x01 helloPacket ∧ (ready.waits helloPacket).cpx.clientBusy helloPacket = false ∧
    ((ready.waits helloPacket).cpx.client? helloPacket.client).isSome = true ∧
    BestVersion [0x100, 0x200, 0x201, 0x202, 0x203] (helloPacket.u 0x10 2) (helloPacket.u 0x12 2) 0x203 ∧
    BestVersion [3, 4] (helloPacket.u 0x14 1) (helloPacket.u 0x15 1) 4 ∧ BestVersion [1, 2] (helloPacket.u 0x16 1) (helloPacket.u 0x17 1) 2 :=
  ⟨starts_of (by decide +kernel), by decide +kernel, by decide +kernel, by unfold BestVersion; decide +kernel,
   by unfold BestVersion; decide +kernel, by unfold BestVersion; decide +kernel⟩

/-- HELLO of contract versions, and of tile versions, that the part does not have. -/
def helloCtr : Packet := packet 0x01 [(0x10, 0x100), (0x12, 0x1FF), (0x14, 5), (0x15, 9), (0x16, 1), (0x17, 2)]
/-- Likewise for tile versions. -/
def helloTile : Packet := packet 0x01 [(0x10, 0x100), (0x12, 0x203), (0x14, 0), (0x15, 3), (0x16, 3), (0x17, 9)]

theorem test_hello_refusals :
    ((ready.waits helloNew).Starts adminCmd 0x01 helloNew ∧ (ready.waits helloNew).cpx.clientBusy helloNew = false ∧
      ¬ ∃ p, BestVersion [0x100, 0x200, 0x201, 0x202, 0x203] (helloNew.u 0x10 2) (helloNew.u 0x12 2) p) ∧
    ((ready.waits helloCtr).Starts adminCmd 0x01 helloCtr ∧ BestVersion [0x100, 0x200, 0x201, 0x202, 0x203] (helloCtr.u 0x10 2) (helloCtr.u 0x12 2) 0x100 ∧
      ¬ ∃ c, BestVersion [3, 4] (helloCtr.u 0x14 1) (helloCtr.u 0x15 1) c) ∧
    ((ready.waits helloTile).Starts adminCmd 0x01 helloTile ∧ BestVersion [3, 4] (helloTile.u 0x14 1) (helloTile.u 0x15 1) 3 ∧
      ¬ ∃ v, BestVersion [1, 2] (helloTile.u 0x16 1) (helloTile.u 0x17 1) v) ∧
    (let s := (ready.waits helloPacket).onCpx fun c => { c with packets := { packet 0x82 [] with pos := 7, ring := 5 } :: c.packets }
     s.Starts adminCmd 0x01 helloPacket ∧ s.cpx.clientBusy helloPacket = true) :=
  ⟨⟨starts_of (by decide +kernel), by decide +kernel, noBest (by decide +kernel)⟩,
   ⟨starts_of (by decide +kernel), by unfold BestVersion; decide +kernel, noBest (by decide +kernel)⟩,
   ⟨starts_of (by decide +kernel), by unfold BestVersion; decide +kernel, noBest (by decide +kernel)⟩,
   starts_of (by decide +kernel), by decide +kernel⟩

/-- HELLO chooses 2.3, 4 and 2 (R266): RESULT is 2.3, 4 and 2 in the layout of Table 10.9. -/
theorem test_hello_chooses : (match exec (.hello adminCmd) (ready.waits helloPacket) with
    | .next t => t.hif.posted.head? | _ => none) = some (.reply adminCpl 0x2000 { opcode := 1, status := stDone, detail := 0, tag := 0, position := 0, waves := 0, ns := 0, result := 0x02040203#64 }) := by
  decide +kernel

theorem test_caps_hypotheses : (ready.waits (packet 0x02 [(0x18, 0x40)])).Starts adminCmd 0x02 (packet 0x02 [(0x18, 0x40)]) ∧
    (packet 0x02 [(0x18, 0x40)]).u 0x18 8 % 64 = 0 := ⟨starts_of (by decide +kernel), by decide +kernel⟩

/-- Clients 0 and 1 are open. -/
def twoClients : State :=
  ready.onCpx fun c => { c with clients := c.clients ++ [{ id := 1, versions := none, completed := 0, killed := 0 }] }

/-- Every client number is open. -/
def allClients : State :=
  ready.onCpx fun c => { c with clients := c.clients ++ (List.range 4095).map fun i => { id := i + 1, versions := none, completed := 0, killed := 0 } }

theorem allClients_open (j : Nat) (h : j < 4095) : (allClients.cpx.client? (j + 1)).isSome = true := by
  simp only [Cpx.client?, List.find?_isSome, allClients, State.onCpx, ready, List.mem_append, List.mem_map, List.mem_range]
  exact ⟨_, Or.inr ⟨j, h, rfl⟩, by simp⟩

theorem test_client_hypotheses :
    ((twoClients.waits (packet 0x10 [])).Starts adminCmd 0x10 (packet 0x10 []) ∧ (1 : Nat) < 4095 ∧
      (twoClients.waits (packet 0x10 [])).cpx.client? 2 = none ∧
      ∀ j, j < 1 → ((twoClients.waits (packet 0x10 [])).cpx.client? (j + 1)).isSome = true) ∧
    ((allClients.waits (packet 0x10 [])).Starts adminCmd 0x10 (packet 0x10 []) ∧
      ∀ j, j < 4095 → ((allClients.waits (packet 0x10 [])).cpx.client? (j + 1)).isSome = true) ∧
    ((twoClients.waits (packet 0x11 [(0x10, 1)])).Starts adminCmd 0x11 (packet 0x11 [(0x10, 1)]) ∧
      ((twoClients.waits (packet 0x11 [(0x10, 1)])).cpx.client? ((packet 0x11 [(0x10, 1)]).u 0x10 2)).isSome = true) ∧
    ((ready.waits (packet 0x11 [(0x10, 0)])).Starts adminCmd 0x11 (packet 0x11 [(0x10, 0)]) ∧
      (packet 0x11 [(0x10, 0)]).u 0x10 2 < 1 ∧ 4095 < (packet 0x11 [(0x10, 4096)]).u 0x10 2 ∧ ready.cpx.client? 9 = none) :=
  ⟨⟨starts_of (by decide +kernel), by decide, by decide +kernel, by decide +kernel⟩,
   ⟨starts_of (by decide +kernel), fun j h => allClients_open j h⟩,
   ⟨starts_of (by decide +kernel), by decide +kernel⟩, starts_of (by decide +kernel), by decide +kernel⟩

/-- A CREATE_RING for client 0. -/
def createPacket (kind irq client entries base link vector : Nat) : Packet :=
  packet 0x12 [(0x10, kind), (0x11, irq), (0x12, client), (0x14, entries), (0x18, base), (0x20, link), (0x24, vector)]

/-- The creation of a command ring of 8 entries at 0x10000 that replies to the admin completion ring. -/
def createCommand : Packet := createPacket 1 1 0 8 0x10000 adminCpl 63

theorem test_create_hypotheses :
    (ready.waits createCommand).Starts adminCmd 0x12 createCommand ∧ ringKindOf (createCommand.u 0x10 1) = some .command ∧
    createCommand.u 0x11 1 ≤ 1 ∧ ((ready.waits createCommand).cpx.client? (createCommand.u 0x12 2)).isSome = true ∧
    goodEntries (createCommand.u 0x14 4) = true ∧ createCommand.u 0x18 8 % 4096 = 0 ∧
    (∃ q, (ready.waits createCommand).cpx.ring? (createCommand.u 0x20 4) = some q ∧ q.kind = .completion ∧ q.client = createCommand.u 0x12 2) ∧
    1 ≤ createCommand.u 0x24 1 ∧ createCommand.u 0x24 1 ≤ 63 ∧ (ready.waits createCommand).freeRing = some 0x1000 :=
  ⟨starts_of (by decide +kernel), by decide +kernel, by decide +kernel, by decide +kernel, by decide +kernel, by decide +kernel,
   some_of (by decide +kernel), by decide +kernel, by decide +kernel, by decide +kernel⟩

/-- A ring of 8 entries of client 0. -/
def someRing (id : Nat) (kind : RingKind) (link index : Nat) : Ring :=
  { id := id, kind := kind, irq := false, error := false, client := 0, entries := 8, base := 0x3000#64, head := index,
    tail := index, link := link, vector := 1, coalesce := 0, sinceMsg := 0, spans := [] }

/-- A stream ring of client 0 is there already. -/
def withStream : State := ready.onCpx fun c => { c with rings := c.rings ++ [someRing 0x1000 .tileStream 0 0] }

theorem test_create_stream_hypotheses :
    (let p := createPacket 4 0 0 65536 0x1000 0 1
     (withStream.waits p).Starts adminCmd 0x12 p ∧ ringKindOf (p.u 0x10 1) = some .objectStream ∧ goodEntries (p.u 0x14 4) = true ∧
     (∀ r ∈ (withStream.waits p).cpx.rings, r.kind ≠ .objectStream) ∧ (withStream.waits p).freeRing = some 0x1001) ∧
    (let p := createPacket 3 0 0 8 0x1000 0 1
     (withStream.waits p).Starts adminCmd 0x12 p ∧ ringKindOf (p.u 0x10 1) = some .tileStream ∧
     ∃ r ∈ (withStream.waits p).cpx.rings, r.kind = .tileStream) :=
  ⟨⟨starts_of (by decide +kernel), by decide +kernel, by decide +kernel, by decide +kernel, by decide +kernel⟩,
   starts_of (by decide +kernel), by decide +kernel, _, by simp [withStream, State.waits, State.onCpx]; exact Or.inr rfl, rfl⟩

theorem test_create_errors :
    (let p := createPacket 6 0 0 8 0 0 1; (ready.waits p).Starts adminCmd 0x12 p ∧ ringKindOf (p.u 0x10 1) = none) ∧
    (let p := createPacket 2 2 0 8 0 0 1; (ready.waits p).Starts adminCmd 0x12 p ∧ 1 < p.u 0x11 1) ∧
    (let p := createPacket 2 1 5 8 0 0 1; (ready.waits p).Starts adminCmd 0x12 p ∧ (ready.waits p).cpx.client? 5 = none) ∧
    (let p := createPacket 2 1 0 7 0 0 1; (ready.waits p).Starts adminCmd 0x12 p ∧ goodEntries (p.u 0x14 4) = false) ∧
    (let p := createPacket 2 1 0 8 64 0 1; (ready.waits p).Starts adminCmd 0x12 p ∧ p.u 0x18 8 % 4096 ≠ 0) ∧
    (let p := createPacket 1 1 0 8 0 9 1; (ready.waits p).Starts adminCmd 0x12 p ∧ (ready.waits p).cpx.ring? (p.u 0x20 4) = none) ∧
    (let p := createPacket 2 1 0 8 0 0 64; (ready.waits p).Starts adminCmd 0x12 p ∧ 63 < p.u 0x24 1) :=
  ⟨⟨starts_of (by decide +kernel), by decide +kernel⟩, ⟨starts_of (by decide +kernel), by decide +kernel⟩,
   ⟨starts_of (by decide +kernel), by decide +kernel⟩, ⟨starts_of (by decide +kernel), by decide +kernel⟩,
   ⟨starts_of (by decide +kernel), by decide +kernel⟩, ⟨starts_of (by decide +kernel), by decide +kernel⟩,
   starts_of (by decide +kernel), by decide +kernel⟩

/-- A command ring 0x1001 of client 0 with its completion ring 0x1000. -/
def withRings : State :=
  ready.onCpx fun c => { c with rings := c.rings ++ [someRing 0x1000 .completion 0 0, someRing 0x1001 .command 0x1000 3] }

theorem test_destroy_hypotheses :
    (let p := packet 0x13 [(0x10, 0x1001)]
     (withRings.waits p).Starts adminCmd 0x13 p ∧ ∃ r, (withRings.waits p).cpx.ring? (p.u 0x10 4) = some r ∧ 0x1000 ≤ p.u 0x10 4 ∧
      r.client = p.client ∧ r.kind = .command) ∧
    (let p := packet 0x13 [(0x10, 0x1000)]
     (withRings.waits p).Starts adminCmd 0x13 p ∧ ∃ r, (withRings.waits p).cpx.ring? (p.u 0x10 4) = some r ∧ r.kind = .completion ∧
      ∃ q ∈ (withRings.waits p).cpx.rings, q.kind = .command ∧ q.link = p.u 0x10 4) ∧
    (let p := packet 0x13 [(0x10, 0xFFE)]
     (withRings.waits p).Starts adminCmd 0x13 p ∧ ∃ r, (withRings.waits p).cpx.ring? (p.u 0x10 4) = some r ∧ p.u 0x10 4 < 0x1000) ∧
    (let p := packet 0x13 [(0x10, 0x5000)]
     (withRings.waits p).Starts adminCmd 0x13 p ∧ (withRings.waits p).cpx.ring? (p.u 0x10 4) = none) :=
  ⟨⟨starts_of (by decide +kernel), some_of (by decide +kernel)⟩, ⟨starts_of (by decide +kernel), some_of (by decide +kernel)⟩,
   ⟨starts_of (by decide +kernel), some_of (by decide +kernel)⟩, starts_of (by decide +kernel), by decide +kernel⟩

/-- MAP_BUFFER of 64 bytes, the last of the HOST_SHARED region, without a generation word. -/
def mapLast : Packet := packet 0x40 [(0x10, 0xBFFFFC0), (0x18, 64), (0x20, 2 ^ 64 - 1)]
/-- MAP_BUFFER with a generation word right after the range. -/
def mapGen : Packet := packet 0x40 [(0x10, 0x8000000), (0x18, 64), (0x20, 0x8000040)]
/-- One buffer of client 0 is lent under handle 5. -/
def withBuffer : State :=
  ready.onCpx fun c => { c with buffers := [{ handle := 5, client := 0, addr := 0x8000000, size := 64, gen := none }] }

theorem test_buffer_hypotheses :
    ((ready.waits mapLast).Starts adminCmd 0x40 mapLast ∧ (ready.waits mapLast).mss.inOne tagShared (mapLast.u 0x10 8) (mapLast.u 0x18 8) = true ∧
      0 < mapLast.u 0x18 8 ∧ mapLast.u 0x18 8 % 64 = 0 ∧ ready.cpx.proto mapLast.client ≠ 0x100 ∧ mapLast.u 0x20 8 = 2 ^ 64 - 1 ∧
      (ready.cpx.client? (mapLast.u 0x28 2)).isSome = true ∧ ready.cpx.buffers.length < 256) ∧
    ((ready.waits mapGen).Starts adminCmd 0x40 mapGen ∧ (ready.waits mapGen).mss.inOne tagShared (mapGen.u 0x10 8) (mapGen.u 0x18 8) = true ∧
      mapGen.u 0x20 8 % 8 = 0 ∧ ready.mss.inOne tagShared (mapGen.u 0x20 8) 8 = true ∧
      mapGen.u 0x10 8 + mapGen.u 0x18 8 ≤ mapGen.u 0x20 8) ∧
    (let p := packet 0x41 [(0x10, 5)]
     (withBuffer.waits p).Starts adminCmd 0x41 p ∧ ∃ b ∈ (withBuffer.waits p).cpx.buffers, b.handle = p.u 0x10 4 ∧ b.client = p.client) ∧
    (let p := packet 0x41 [(0x10, 6)]
     (withBuffer.waits p).Starts adminCmd 0x41 p ∧ ∀ b ∈ (withBuffer.waits p).cpx.buffers, b.handle = p.u 0x10 4 → b.client ≠ p.client) :=
  ⟨⟨starts_of (by decide +kernel), by decide +kernel⟩, ⟨starts_of (by decide +kernel), by decide +kernel⟩,
   ⟨starts_of (by decide +kernel), _, List.mem_singleton.mpr rfl, by decide +kernel⟩, starts_of (by decide +kernel), by decide +kernel⟩

/-! ### Jobs and batches: witnesses of the hypotheses -/

/-- A packet of ring 0x1001 at place `idx` of its job. -/
def jobPacket (op idx : Nat) (fields : List (Nat × Nat)) : Packet :=
  { packet op ((8, idx) :: fields) with ring := 0x1001, pos := idx, cmdIdx := some idx }

/-- A RUNNING job of ring 0x1001 with its waiting commands. -/
def aJob (cmds : List Packet) : Job :=
  { ring := 0x1001, client := 0, state := .running, submit := { packet 0x30 [] with ring := 0x1001, started := some 0 }, cache := false,
    aperture := 0, cmds := cmds, fetched := cmds.length, breaks := [], ended := false, since := 0, visible := [], okCount := 0, badCount := 0, banks := [],
    segs := [], pool := none, joined := false, preempts := 0, killed := false }

/-- The part with the QM window open and one job. -/
def withJob (j : Job) : State := withRings.onCpx fun c => { c with jobs := [j], windowOpen := true }

/-- A header of a 2 x 1 grid, one core, cadence 1 µs, frame cycle 33.333 ms. -/
def tinyHeader : CtrHeader :=
  { format := 3, tileFormat := 1, floor := 760, cadence := 8, coreSet := 1, frameCycle := 33333000, emitOffset := 1000000, gridW := 2,
    gridH := 1, cellSize := 1, engineSet := 0, stepCount := 1, ringCount := 0, semBase := 0, semCount := 0, imageSize := 4096, buildId := 0 }

/-- A contract with one step on core 0 whose stream is given, and a buffer in bank 6 of core 0. -/
def tiny (stream : List (BitVec 128)) : Contract :=
  { hdr := tinyHeader, imageAddr := 0, ringBase := 0x1100,
    steps := [{ id := 0, unit := 0, kind := 0, tileCount := 2, firstTile := 0, streamOffset := 0 }], rings := [],
    buffers := [{ kind := 0, location := 6, cls := 1, access := 0, owner := 0, offset := 0, size := 64, init := 0 }], bounds := [(0, 1000)],
    golden := [], coppice := [], streams := [(0, stream)], programs := [], edges := [{ fills := [], releases := [] }],
    model := CkcModel.none, modelSize := 0, sigOff := 0, digest := 0, modelDigest := 0 }

theorem test_submit_hypotheses :
    (let p := packet 0x30 [(0x10, 1), (0x18, 0x4000000)]
     (ready.waits p).Starts adminCmd 0x30 p ∧ p.u 0x10 1 ≤ 1 ∧ ¬ ready.cpx.proto p.client < 0x203 ∧ p.u 0x10 1 = 1 ∧
      p.u 0x18 8 % 0x4000000 = 0) := ⟨starts_of (by decide +kernel), by decide +kernel⟩

/-- An eligible job waits; `cached`: it asks for cache mode. -/
def withEligible (cached : Bool) : State :=
  (withJob { aJob [] with state := .eligible, cache := cached }).onCpx fun c => { c with eligible := [0x1001] }

theorem test_dispatch_hypotheses :
    ((withEligible true).pins.rstN = true ∧ (withEligible true).qmOpen = true ∧ (withEligible true).cpx.running? = none ∧
      (withEligible true).cpx.cap = none ∧ (withEligible true).cpx.qmCores ≠ 0 ∧ (withEligible true).cpx.eligible = [0x1001]) ∧
    (∃ j, (withEligible true).cpx.job? 0x1001 = some j ∧ j.cache = true) ∧ (withEligible true).cacheAllowed = true ∧
    ((withEligible true).onCtr fun c => { c with armed := some (tiny []) }).cacheAllowed = false :=
  ⟨by decide +kernel, some_of (by decide +kernel), by decide +kernel, by decide +kernel⟩


theorem test_end_hypotheses :
    (let p := jobPacket 0x32 0 []; let j := aJob [p]; let s := withJob j
     s.pins.rstN = true ∧ s.cpx.cap = none ∧ s.nextCmd 0x1001 = some (j, p) ∧ p.opcode = 0x32 ∧ s.cpx.cplRoom p.ring = true ∧
      s.gate p = none) := by decide +kernel

/-- KILL of position 0 of ring 0x1001, command scope, from the admin ring. -/
def killPacket : Packet := packet 0x33 [(0x10, 0x1001)]

/-- The run of a QM command of a stream on core 0. -/
def aRun : Run := { Run.idle with active := true, kind := 1 }

/-- The running QM command: a RUN_OP packet of the job. -/
def aQm (streams : List (Nat × List (BitVec 128))) (run : Run) : QmRun :=
  { pkt := { jobPacket 0x31 0 [] with started := some 0 }, cores := 1#8, streams := streams, banks := [], segs := [], lent := [], run := run }

/-- Every unit is settled, and a QM command runs. -/
def withQm (streams : List (Nat × List (BitVec 128))) (run : Run) : State :=
  ((withJob (aJob [jobPacket 0x31 0 []])).onCpx fun c => { c with qm := some (aQm streams run) }).onPwr fun p =>
    { p with units := p.units.map fun u => { u with settled := true } }

/-- What a KILL of position 0 meets before its target is looked at. -/
def killMeets (s : State) (pk : Packet) : Bool :=
  s.pins.rstN && decide (s.cpx.packets.find? (fun p => p.ring = adminCmd && s.cpx.killNow p && p.started.isNone) = some pk) &&
    s.cpx.cplRoom adminCmd && decide (s.gate pk = none)

theorem test_kill_running : ∃ r q t,
    (let s := (withQm [(0, [])] aRun).waits killPacket
     killMeets s killPacket = true ∧ s.cpx.ring? (killPacket.u 0x10 4) = some r ∧ r.kind = .command ∧ r.client = killPacket.client ∧
      s.cpx.job? (killPacket.u 0x10 4) = some (aJob [t]) ∧ (aJob [t]).cmds.find? (fun p => p.pos = killPacket.u 0x14 4) = some t ∧
      killPacket.u 0x18 1 = 0 ∧ s.cpx.qm = some q ∧ q.pkt.ring = t.ring ∧ q.pkt.pos = t.pos) :=
  ⟨someRing 0x1001 .command 0x1000 3, aQm [(0, [])] aRun, jobPacket 0x31 0 [], by decide +kernel⟩

/-- KILL with job scope. -/
def killJob : Packet := packet 0x33 [(0x10, 0x1001), (0x18, 1)]

theorem test_kill_waiting : ∃ t,
    (let s := (withJob (aJob [t])).waits killPacket
     killMeets s killPacket = true ∧ s.cpx.qm = none ∧ s.cpx.job? (killPacket.u 0x10 4) = some (aJob [t]) ∧
      (aJob [t]).cmds.find? (fun p => p.pos = killPacket.u 0x14 4) = some t) ∧
    (let s := (withJob (aJob [t])).waits killJob
     killMeets s killJob = true ∧ killJob.u 0x18 1 = 1 ∧ 0x203 ≤ s.cpx.proto killJob.client) := ⟨jobPacket 0x31 0 [], by decide +kernel⟩

/-- Ring 0x1001 had a job whose commands were at positions 0 to 2. -/
def afterJob : State :=
  (ready.onCpx fun c => { c with rings := c.rings ++ [{ someRing 0x1001 .command 0x1000 3 with spans := [(0, 3)] }] }).waits killPacket

theorem test_kill_refused :
    (∃ r, afterJob.cpx.ring? (killPacket.u 0x10 4) = some r ∧ killMeets afterJob killPacket = true ∧
      afterJob.cpx.job? (killPacket.u 0x10 4) = none ∧ afterJob.cpx.wasJobCmd r (killPacket.u 0x14 4) = true ∧
      afterJob.cpx.wasJobCmd r 7 = false) ∧
    (let p := packet 0x33 [(0x10, 0x1001), (0x18, 2)]; killMeets (withRings.waits p) p = true ∧ 1 < p.u 0x18 1) ∧
    (let p := packet 0x33 [(0x10, 0x1000)]; killMeets (withRings.waits p) p = true ∧
      (withRings.cpx.ring? (p.u 0x10 4)).all (fun r => decide (r.kind ≠ .command)) = true) ∧
    (let p := packet 0x33 [(0x10, 0x1005)]; killMeets (withRings.waits p) p = true ∧ withRings.cpx.ring? (p.u 0x10 4) = none) :=
  ⟨⟨{ someRing 0x1001 .command 0x1000 3 with spans := [(0, 3)] }, by decide +kernel⟩, by decide +kernel⟩

theorem test_capacity_hypotheses :
    (let p := packet 0x34 [(0x10, 0x0F)]
     (ready.waits p).Starts adminCmd 0x34 p ∧ (ready.waits p).cpx.cap = none ∧ (ready.waits p).cpx.qm = none ∧
      ∀ c, c < 8 → (BitVec.ofNat 8 (p.u 0x10 1)).getLsbD c = true → ((ready.waits p).markStarted p).coreIn c = true) ∧
    (let p := packet 0x34 [(0x10, 0x0F)]; let s := (ready.onCpx fun c => { c with qmCores := 1 }).waits p
     s.Starts adminCmd 0x34 p ∧ s.cpx.qm = none ∧ (BitVec.ofNat 8 (p.u 0x10 1)).getLsbD 1 = true ∧ (s.markStarted p).coreIn 1 = false) ∧
    (let p := packet 0x34 [(0x10, 0x0F)]
     ((withQm [(0, [])] aRun).waits p).Starts adminCmd 0x34 p ∧ ∃ q, ((withQm [(0, [])] aRun).waits p).cpx.qm = some q) :=
  ⟨⟨starts_of (by decide +kernel), by decide +kernel⟩, ⟨starts_of (by decide +kernel), by decide +kernel⟩, starts_of (by decide +kernel), _, rfl⟩

/-- The pool of two slots of one page at 0x4000000. -/
def aPool (occ : List (Nat × Word)) : Pool :=
  { base := 0x4000000, slots := 2, pages := 1, occupants := occ, boundaries := 0, open_ := none }

/-- The declaration of that pool. -/
def declarePacket : Packet := jobPacket 0x35 0 [(0x10, 0xFFFFFFFF), (0x14, 0x10002), (0x18, 0x4000000)]
/-- SEQ_JOIN of sequence 9 with its page at 0x4800000. -/
def joinPacket : Packet := jobPacket 0x35 0 [(0x10, 9), (0x14, 1), (0x18, 0x4800000)]
/-- SEQ_LEAVE of sequence 9. -/
def leavePacket : Packet := jobPacket 0x36 0 [(0x10, 9)]

theorem test_pool_hypotheses :
    (let j := aJob [declarePacket]; let s := withJob j
     s.pins.rstN = true ∧ s.cpx.cap = none ∧ s.nextCmd 0x1001 = some (j, declarePacket) ∧ declarePacket.opcode = 0x35 ∧
      declarePacket.u 0x10 4 = 0xFFFFFFFF ∧ s.cpx.cplRoom 0x1001 = true ∧ s.gate declarePacket = none ∧ j.pool = none ∧
      declarePacket.u 0x14 4 % 65536 = 2 ∧ declarePacket.u 0x14 4 / 65536 = 1 ∧ declarePacket.u 0x18 8 % 65536 = 0 ∧
      s.mss.inOne tagQm (declarePacket.u 0x18 8) (65536 * (1 + 1 * 2)) = true) ∧
    (let j := { aJob [joinPacket] with pool := some (aPool [(0, 7)]) }; let s := withJob j
     s.nextCmd 0x1001 = some (j, joinPacket) ∧ joinPacket.inBatch = true ∧ (∀ x ∈ j.batch, x.opcode ≠ 0x36) ∧
      j.batch.head? = some joinPacket ∧ s.gate joinPacket = none ∧ (∀ o ∈ (aPool [(0, 7)]).occupants, o.2 ≠ BitVec.ofNat 32 (joinPacket.u 0x10 4)) ∧
      joinPacket.u 0x14 4 = 1 ∧ s.mss.inOne tagQm (joinPacket.u 0x18 8) 65536 = true ∧ (aPool [(0, 7)]).freeSlot = some 1) ∧
    (aPool [(0, 7), (1, 8)]).freeSlot = none ∧
    (let j := { aJob [leavePacket] with pool := some (aPool [(1, 9)]) }; let s := withJob j
     s.nextCmd 0x1001 = some (j, leavePacket) ∧ j.batch.find? (fun x => x.opcode = 0x36) = some leavePacket ∧ s.gate leavePacket = none ∧
      (aPool [(1, 9)]).occupants.find? (fun x => x.2 = BitVec.ofNat 32 (leavePacket.u 0x10 4)) = some (1, 9#32)) := by
  decide +kernel

/-! ### Contracts, launches, stopping: witnesses of the hypotheses -/

/-- A contract is staged. -/
def staged : State := ready.onCtr fun c => { c with staged := some (tiny []) }
/-- Every unit has settled. -/
def State.allSettled (s : State) : State := s.onPwr fun p => { p with units := p.units.map fun u => { u with settled := true } }
/-- A contract is armed, and its launch is placed at count 5,000,000. -/
def armed (stream : List (BitVec 128)) : State :=
  (ready.onCtr fun c => { c with armed := some (tiny stream), placed := some { count := 5000000, vtime := 5000000 } }).onPwr fun p =>
    { p with state := .running, units := p.units.map fun u => { u with settled := true } }

theorem test_load_pending :
    (let p := packet 0x20 [(0x10, 0x8000000), (0x18, 4096)]
     let s := (staged.onCtr fun c => { c with armPending := some (packet 0x21 []) }).waits p
     s.Starts adminCmd 0x20 p ∧ s.pwr.state = .ready ∧ s.sec.unlocked = false ∧ s.mss.inOne tagShared (p.u 0x10 8) (p.u 0x18 4) = true ∧
      s.ctr.old = none ∧ s.ctr.armPending.isSome = true) ∧
    (staged.onCtr fun c => { c with old := some (tiny []) }).ctr.old.isSome = true :=
  ⟨⟨starts_of (by decide +kernel), by decide +kernel⟩, by decide +kernel⟩

theorem test_arm_hypotheses :
    (let p := packet 0x21 []
     (staged.waits p).Starts adminCmd 0x21 p ∧ (staged.waits p).ctr.staged = some (tiny []) ∧ (staged.waits p).ctr.armPending = none ∧
      (staged.waits p).tileFormatOk (tiny []) = true ∧ (staged.waits p).ctr.armed = none ∧
      (staged.waits p).ctrSettled (tiny []) = false ∧ (staged.allSettled.waits p).ctrSettled (tiny []) = true ∧
      armOverlap (tiny []) (tiny []) = false ∧
      armOverlap { tiny [] with hdr := { tinyHeader with cadence := 100000000 } } (tiny []) = true) ∧
    (let p := packet 0x21 []
     (ready.waits p).Starts adminCmd 0x21 p ∧ (ready.waits p).ctr.staged = none) :=
  ⟨⟨starts_of (by decide +kernel), by decide +kernel⟩, starts_of (by decide +kernel), by decide +kernel⟩

/-- LAUNCH_AT of a vehicle time. -/
def launchPacket (t : Nat) : Packet := packet 0x22 [(0x10, t)]

theorem test_launch_at_hypotheses :
    (let p := launchPacket 10000000000
     let s := (staged.onCtr fun c => { c with armed := some (tiny []) }).waits p
     s.Starts adminCmd 0x22 p ∧ s.launchContract = some (tiny []) ∧ s.vnow ≤ sext 64 (p.u 0x10 8) ∧
      sext 64 (p.u 0x10 8) ≤ s.vnow + 10000000000 ∧ s.ctr.placed = none) ∧
    (let p := launchPacket 9000000000
     let s := (armed []).waits p
     s.Starts adminCmd 0x22 p ∧ s.launchContract = some (tiny []) ∧ s.ctr.placed = some ⟨5000000, 5000000⟩ ∧
      launchMin (some ((tiny []).pastAt 5000000)) s.ctr.past.head? ≤ countAt s.tim (sext 64 (p.u 0x10 8))) ∧
    (let p := launchPacket 10000000001
     ((armed []).waits p).Starts adminCmd 0x22 p ∧ ((armed []).waits p).vnow + 10000000000 < sext 64 (p.u 0x10 8) ∧ ((armed []).waits p).launchContract = some (tiny [])) ∧
    (let p := launchPacket 5000000
     let s := (armed []).waits p
     s.Starts adminCmd 0x22 p ∧ countAt s.tim (sext 64 (p.u 0x10 8)) < launchMin (some ((tiny []).pastAt 5000000)) s.ctr.past.head?) ∧
    (let p := launchPacket 0
     (ready.waits p).Starts adminCmd 0x22 p ∧ (ready.waits p).launchContract = none) :=
  ⟨⟨starts_of (by decide +kernel), by decide +kernel⟩, ⟨starts_of (by decide +kernel), by decide +kernel⟩,
   ⟨starts_of (by decide +kernel), by decide +kernel⟩, ⟨starts_of (by decide +kernel), by decide +kernel⟩, starts_of (by decide +kernel), by decide +kernel⟩

theorem test_launch_hypotheses :
    (armed []).pins.rstN = true ∧ (armed []).ctr.placed = some ⟨5000000, 5000000⟩ ∧ (armed []).nextContract = some (tiny []) ∧
    (5000000 : Nat) < 2 ^ 64 ∧ (armed []).ctr.prog.running = false ∧ (armed []).ctr.lateStart = [] ∧
    ((armed []).onCpx fun c => { c with windowOpen := true }).cpx.windowOpen = true ∧
    ((armed []).onCtr fun c => { c with prog := { c.prog with running := true } }).ctr.prog.running = true := by decide +kernel

theorem test_stop_hypotheses :
    (let p := packet 0x23 [(0x10, 1)]
     ((armed []).waits p).Starts adminCmd 0x23 p ∧ p.u 0x10 1 = 1 ∧ 0x203 ≤ (armed []).cpx.proto p.client ∧ (armed []).ctr.nextFrame = 0) ∧
    (let p := packet 0x23 []
     let s := ((armed []).onCtr fun c => { c with nextFrame := 3 }).waits p
     s.Starts adminCmd 0x23 p ∧ s.ctr.nextFrame ≠ 0 ∧ p.u 0x10 1 = 0 ∧ s.emt.frames = []) ∧
    (let p := packet 0x23 [(0x10, 1)]
     let s := ((armed []).onCtr fun c => { c with nextFrame := 3, prog := { c.prog with running := true } }).waits p
     s.Starts adminCmd 0x23 p ∧ s.ctr.nextFrame ≠ 0 ∧ s.ctr.prog.running = true) ∧
    (let p := packet 0x23 [(0x10, 2)]
     ((armed []).waits p).Starts adminCmd 0x23 p ∧ 1 < p.u 0x10 1) ∧
    (let r : StopReq := { pkt := packet 0x23 [], abort := true, frame := 0, stopped := false }
     let s := ((armed []).onCtr fun c => { c with prog := { c.prog with running := true } }).onCpx fun c => { c with stop := some r }
     s.pins.rstN = true ∧ s.cpx.stop = some r ∧ r.abort = true ∧ s.ctr.prog.running = true ∧ ∀ f ∈ s.emt.frames, f.frame ≠ r.frame) :=
  ⟨⟨starts_of (by decide +kernel), by decide +kernel⟩, ⟨starts_of (by decide +kernel), by decide +kernel⟩,
   ⟨starts_of (by decide +kernel), by decide +kernel⟩, ⟨starts_of (by decide +kernel), by decide +kernel⟩, by decide +kernel⟩

/-- A launch makes the frame EMT's newest, with the grid of Table 3.1. -/
theorem test_launch : (match exec .launch (armed []) with
    | .next t => (t.now, t.ctr.nextFrame, t.emt.frames.map fun f => (f.frame, f.launch, f.tiles)) | _ => (0, 0, [])) =
    (5000000, 1, [(0, 5000000, 2)]) := by decide +kernel

/-! ### Sensor configuration: witnesses of the hypotheses -/

/-- `n` bytes with little-endian fields at the given offsets. -/
def block (n : Nat) (fields : List (Nat × Nat)) : List Byte := leBytes n (fields.map fun f => f.2 * 256 ^ f.1).sum

/-- A CAMERA block: port 0, RAW8, one lane of 4,500 Mb/s, 16 x 16 pixels, 500 ns lines, 1 ms frames, two slots of 896 bytes. -/
def cameraBlock : List Byte :=
  block 128 [(2, 0x2A), (3, 1), (4, 4500), (0xC, 16), (0xE, 16), (0x10, 500), (0x14, 1000000), (0x1D, 2), (0x1E, 1), (0x1F, 0xA),
    (0x21, 0xFF), (0x28, 0x1000), (0x30, 896), (0x36, 1)]
/-- Its descriptor. -/
def aCamera : Camera := Camera.parse cameraBlock CamParams.default

/-- A SENSOR_CONFIG whose block lies at the start of HOST_SHARED. -/
def sensorPacket (op id len : Nat) : Packet := packet 0x50 [(0x10, op), (0x11, id), (0x14, len), (0x18, 0x8000000)]

/-- The part with a block of bytes at the start of HOST_SHARED. -/
def withBlock (b : List Byte) : State := ready.putDram 0x8000000 b

/-- Camera 0 is configured and runs: every domain is on. -/
def withCamera : State :=
  (ready.onSen fun x => { x with cameras := vset x.cameras 0 (some aCamera) }).onPwr fun p => { p with domains := BitVec.allOnes 64 }

theorem test_camera_hypotheses :
    (let p := sensorPacket 0 23 128; let s := (withBlock cameraBlock).waits p
     s.Starts adminCmd 0x50 p ∧ p.u 0x10 1 = 0 ∧ p.u 0x11 1 = 23 ∧ p.u 0x14 4 = 128 ∧ s.sensorBlock p = some cameraBlock ∧ s.sen.cam 23 = none ∧
      aCamera.ok s.mss cameraBlock = true ∧ s.ctr.names (0x100 + 23) = false) ∧
    ready.sen.cams = [] ∧ ready.sen.camFits 23 aCamera = true :=
  ⟨⟨starts_of (by decide +kernel), by decide +kernel⟩, by decide +kernel, by decide +kernel⟩

theorem memBytes_nil (a n : Nat) : memBytes [] a n = List.replicate n 0#8 := by
  induction n generalizing a with
  | zero => rfl
  | succ n ih => simp [memBytes, memGet, ih, List.replicate_succ]

theorem leNat_replicate (n : Nat) : leNat (List.replicate n 0#8) = 0 := by
  induction n with
  | zero => rfl
  | succ n ih => simp [List.replicate_succ, leNat, ih]

theorem blkZero_replicate (m o n : Nat) : blkZero (List.replicate m 0#8) o n = true := by simp [blkZero]

/-- The 26,304 zero bytes of a memory in which nothing lies are well-formed parameters. -/
theorem test_cam_params_hypotheses :
    (let p := sensorPacket 1 0 26304; let s := withCamera.waits p
     s.Starts adminCmd 0x50 p ∧ p.u 0x10 1 = 1 ∧ p.u 0x11 1 ≤ 23 ∧ (vget s.sen.cameras (p.u 0x11 1) none).isSome = true ∧ p.u 0x14 4 = 26304 ∧
      s.sensorBlock p = some (List.replicate 26304 0#8) ∧ (CamParams.parse (List.replicate 26304 0#8)).isSome = true) := by
  refine ⟨starts_of (by decide +kernel), by decide +kernel, by decide +kernel, by decide +kernel, by decide +kernel, ?_, ?_⟩
  · have h : (withCamera.waits (sensorPacket 1 0 26304)).mss.inOne tagShared ((sensorPacket 1 0 26304).u 0x18 8)
        ((sensorPacket 1 0 26304).u 0x14 4) = true := by decide +kernel
    have n : (sensorPacket 1 0 26304).u 0x14 4 = 26304 := by decide +kernel
    have d : (withCamera.waits (sensorPacket 1 0 26304)).fab.dram = [] := rfl
    rw [n] at h
    simp only [State.sensorBlock, n, d, memBytes_nil]
    exact if_pos h
  · have e : (blkList (List.replicate 26304 0#8) 44 4 3).all (fun v => decide (sext 32 v = sext 24 v)) = true := by
      have h : ∀ o n, blk (List.replicate 26304 0#8) o n = 0 := fun o n => by
        simp only [blk, recLe, List.drop_replicate, List.take_replicate, leNat_replicate]
      simp only [blkList, h, List.all_eq_true, List.mem_map]
      rintro v ⟨k, _, rfl⟩; decide +kernel
    simp only [CamParams.parse, blkZero_replicate, Bool.and_self, if_true, e, Bool.not_true, Bool.false_eq_true, if_false, Option.isSome_some]

/-- A LIDAR block: port 0, IPv4, 20 ms, one cell of one point, X, Y and Z fields. -/
def lidarBlock : List Byte :=
  block 336 [(1, 4), (2, 0xFFFF), (4, 2368), (6, 2), (7, 0), (8, 0x0100000A), (0x18, 20000000), (0x30, 0x1000), (0x38, 256), (0x4C, 1),
    (0x94, 1), (0x96, 1), (0x98, 1), (0x99, 1), (0x9A, 1), (0x104, 16), (0x106, 1), (0x109, 3),
    (0x120, 0), (0x124, 4), (0x126, 32), (0x130, 1), (0x134, 4), (0x136, 32), (0x140, 2), (0x144, 4), (0x146, 32)]
/-- Its descriptor at vehicle time 0. -/
def aLidar : Lidar := Lidar.parse lidarBlock 0

theorem test_lidar_hypotheses :
    (let p := sensorPacket 2 0x87 336; let s := (withBlock lidarBlock).waits p
     s.Starts adminCmd 0x50 p ∧ p.u 0x10 1 = 2 ∧ p.u 0x11 1 = 0x80 + 7 ∧ s.sensorBlock p = some lidarBlock ∧
      p.u 0x14 4 = 288 + 16 * blk lidarBlock 0x109 1 + 8 * blk lidarBlock 0x11C 2 ∧ s.vnow = 0 ∧ aLidar.ok s.mss lidarBlock = true ∧
      s.ctr.names (0x200 + 7) = false) ∧ ready.sen.lidFits 7 aLidar = true :=
  ⟨⟨starts_of (by decide +kernel), by decide +kernel⟩, by decide +kernel⟩

theorem test_disable_hypotheses :
    (let p := sensorPacket 5 0 0
     (withCamera.waits p).Starts adminCmd 0x50 p ∧ p.u 0x10 1 = 5 ∧ p.u 0x14 4 = 0 ∧ p.u 0x11 1 ≤ 23 ∧ withCamera.ctr.names 0x100 = false) ∧
    (let p := sensorPacket 5 0x87 0
     (ready.waits p).Starts adminCmd 0x50 p ∧ 0x80 ≤ p.u 0x11 1 ∧ p.u 0x11 1 ≤ 0x87 ∧ ready.ctr.names (0x200 + 7) = false) :=
  ⟨⟨starts_of (by decide +kernel), by decide +kernel⟩, starts_of (by decide +kernel), by decide +kernel⟩

theorem test_motion_hypotheses :
    (let p := sensorPacket 3 0 32; let s := ready.waits p
     s.Starts adminCmd 0x50 p ∧ p.u 0x10 1 = 3 ∧ p.u 0x14 4 = 32 ∧ s.sensorBlock p = some (List.replicate 32 0) ∧
      blkZero (List.replicate 32 0) 0x18 8 = true) := ⟨starts_of (by decide +kernel), by decide +kernel⟩

/-- One write of a camera-control block to device 0x10 of controller 3. -/
def cciBlock : List Byte := block 24 [(0, 3), (1, 0x10), (2, 2), (3, 1)]

/-- A queued camera-control operation. -/
def aCci : CciOp :=
  { pkt := { sensorPacket 4 0 24 with started := some 0 }, target := 0x10, speed := 2, dest := 0x40,
    transfers := [CciTransfer.parse cciBlock 0, { read := true, regSize := 2, dataSize := 4, reg := 0x100, data := 0 }] }

theorem test_cci_hypotheses :
    (let p := sensorPacket 4 0 24; let s := (withBlock cciBlock).waits p
     s.Starts adminCmd 0x50 p ∧ p.u 0x10 1 = 4 ∧ s.sensorBlock p = some cciBlock ∧ p.u 0x14 4 = 16 + 8 * blk cciBlock 3 1 ∧ blk cciBlock 0 1 ≤ 3 ∧
      blk cciBlock 1 1 ≤ 127 ∧ blk cciBlock 2 1 ≤ 2 ∧ blk cciBlock 3 1 = 1 ∧ blkZero cciBlock 4 12 = true ∧ cciTransferOk cciBlock 0 = true ∧
      p.u 0x20 8 % 64 = 0) ∧
    vget (ready.onSen fun x => { x with i2c := vset x.i2c 3 [aCci] }).sen.i2c 3 [] = [aCci] :=
  ⟨⟨starts_of (by decide +kernel), by decide +kernel⟩, by decide +kernel⟩

/-- FSYNC_SCHEDULE. -/
def fsyncPacket (out mode period width offset : Nat) : Packet :=
  packet 0x51 [(0x10, out), (0x11, mode), (0x20, period), (0x24, width), (0x28, offset)]

/-- Output 7 is scheduled freely each millisecond, with edge 0 placed when `placed`. -/
def withFsync (placed : Bool) : State :=
  ready.onSen fun x => { x with fsync := vset x.fsync 7 { Fsync.off with
    mode := 1, period := 1000000, width := 100, nextK := if placed then 1 else 0, placed := if placed then [(0, 5000)] else [] } }

theorem test_fsync_hypotheses :
    (let p := fsyncPacket 7 1 1000000 100 0
     (ready.waits p).Starts adminCmd 0x51 p ∧ p.u 0x11 1 = 1 ∧ p.u 0x20 4 = 1000000 ∧ p.u 0x24 4 = 100) ∧
    (let p := fsyncPacket 0 2 0 10000000 (2 ^ 32 - 49999999)
     (ready.waits p).Starts adminCmd 0x51 p ∧ p.u 0x11 1 = 2 ∧ p.u 0x24 4 ≤ 10000000 ∧ (sext 32 (p.u 0x28 4)).natAbs = 49999999) ∧
    (let p := fsyncPacket 0 0 0 0 0
     (ready.waits p).Starts adminCmd 0x51 p ∧ p.u 0x11 1 = 0) ∧
    ((withFsync false).servoOn = true ∧ (vget (withFsync false).sen.fsync 7 Fsync.off).mode = 1 ∧ vget (withFsync false).sen.fsyncNext 7 none = none) ∧
    ((withFsync true).servoOn = true ∧ (vget (withFsync true).sen.fsync 7 Fsync.off).placed = [(0, 5000)] ∧
      vget (withFsync true).sen.fsyncNext 7 none = none ∧ (5000 : Nat) < 2 ^ 64) :=
  ⟨⟨starts_of (by decide +kernel), by decide +kernel⟩, ⟨starts_of (by decide +kernel), by decide +kernel⟩,
   ⟨starts_of (by decide +kernel), by decide +kernel⟩, by decide +kernel, by decide +kernel⟩

/-- FSYNC output 7 rises at its edge's count (R214). -/
theorem test_fsync_edge : (match exec (.fsyncEdge 7) (withFsync true) with
    | .next t => (t.pins.fsync, t.now) | _ => (0, 0)) = (0x80#8, 5000) := by decide +kernel

/-- A write and a read of a camera-control operation on the wire (R213), and the word that the read posts. -/
theorem test_cci_end : (match exec (.cciOperationComplete 3 2 [0xA1B2C3D4#32]) (ready.onSen fun x => { x with i2c := vset x.i2c 3 [aCci] }) with
    | .next t => (vget t.sen.i2cSent 3 [], t.hif.posted.head?) | _ => ([], none)) =
    ([[0x20#8, 0#8, 0#8], [0x20#8, 0x01#8, 0x00#8, 0x21#8]], some (.block 0x40 [0xD4#8, 0xC3#8, 0xB2#8, 0xA1#8])) := by decide +kernel

/-- Output 7 is off, and a free-running entry waits, with edge 0 placed when `placed`. -/
def withNextFsync (placed : Bool) : State :=
  ready.onSen fun x => { x with fsyncNext := vset x.fsyncNext 7 (some { Fsync.off with
    mode := 1, period := 1000000, width := 100, nextK := if placed then 1 else 0, placed := if placed then [(0, 5000)] else [] }) }

theorem test_fsync_next_hypotheses :
    (∃ n, (withNextFsync false).servoOn = true ∧ vget (withNextFsync false).sen.fsyncNext 7 none = some n ∧ n.mode = 1 ∧ n.placed = [] ∧
      (vget (withNextFsync false).sen.fsync 7 Fsync.off).mode ≠ 1) ∧
    (∃ n, (withNextFsync true).servoOn = true ∧ vget (withNextFsync true).sen.fsyncNext 7 none = some n ∧ n.placed = [(0, 5000)] ∧
      (vget (withNextFsync true).sen.fsync 7 Fsync.off).placed.head? = none) :=
  ⟨⟨_, by decide +kernel, rfl, rfl, rfl, by decide +kernel⟩, _, by decide +kernel, rfl, rfl, by decide +kernel⟩

/-! ### Camera and lidar ingest: witnesses of the hypotheses -/

/-- An open frame of camera 0 in slot 0. -/
def openFrame (ended : Bool) : CamFrame :=
  { slot := some 0, tStart := 0, tEnd := 0, ended := ended, lines := [], repaired := 0, lineNo := 0, embSeen := 0, embOk := none,
    counterBad := false, syncLate := false, pattern := 0, params := CamParams.default }

/-- Camera 0 has an open frame. -/
def withFrame (ended : Bool) : State :=
  withCamera.onSen fun x => { x with cameras := vset x.cameras 0 (some { aCamera with frame := some (openFrame ended) }) }

/-- Camera 0 runs, with a descriptor waiting. -/
def withNextCamera : State := withCamera.onSen fun x => { x with camNext := vset x.camNext 0 (some { aCamera with y0 := 2 }) }

theorem test_frame_start_hypotheses :
    (withCamera.sen.camAt 0 0 = some 0 ∧ withCamera.sen.camOpen 0 0 = none ∧ withCamera.cameraOn 0 = true ∧ withCamera.sen.csiBusy 0 = false ∧
      vget withCamera.sen.csiWait 0 [] = [] ∧ vget withCamera.sen.camNext 0 none = none ∧
      vget withCamera.sen.cameras 0 none = some aCamera ∧ aCamera.frame = none ∧ aCamera.ring.freeSlot.isSome = true ∧
      (withCamera.onCkc fun c => { c with mode := .tmr }).ckc.mode ≠ .halted) ∧
    (withNextCamera.sen.camAt 0 0 = some 0 ∧ withNextCamera.cameraOn 0 = true ∧ withNextCamera.sen.csiBusy 0 = false ∧
      vget withNextCamera.sen.csiWait 0 [] = [] ∧ vget withNextCamera.sen.camNext 0 none = some { aCamera with y0 := 2 }) ∧
    -- a second frame start finds the first frame open
    (withFrame false).sen.camAt 0 0 = some 0 ∧ (withFrame false).sen.camOpen 0 0 = some 0 ∧ (withFrame false).sen.csiBusy 0 = false := by
  exact ⟨⟨by decide +kernel, by decide +kernel, by decide +kernel, by decide +kernel, by decide +kernel, by decide +kernel, rfl, rfl, by decide +kernel, by decide +kernel⟩, ⟨by decide +kernel, by decide +kernel, by decide +kernel, by decide +kernel, rfl⟩, by decide +kernel⟩

theorem test_line_hypotheses :
    ((withFrame false).sen.camOpen 0 0 = some 0 ∧ (withFrame false).cameraOn 0 = true ∧ (withFrame false).receiverOn 0 = true ∧
      (withFrame false).sen.csiBusy 0 = false ∧ vget (withFrame false).sen.csiWait 0 [] = [] ∧
      vget (withFrame false).sen.cameras 0 none = some { aCamera with frame := some (openFrame false) } ∧
      csiSupported aCamera.dataType = true ∧ aCamera.y0 ≤ (openFrame false).lineNo ∧ (openFrame false).lineNo < aCamera.y0 + aCamera.h ∧
      aCamera.x0 + aCamera.w ≤ (unpackRaw aCamera.dataType (List.replicate 16 7#8)).length) ∧
    csiSupported 0x30 = false ∧
    -- a test frame in the pipeline holds the port's traffic back
    (withFrame true).receiverOn 0 = true ∧ (withFrame true).sen.csiBusy 0 = true ∧
      ((vget (withFrame true).sen.csiWait 0 []).map CsiItem.size).sum + 16 ≤ 262144 :=
  ⟨⟨by decide +kernel, by decide +kernel, by decide +kernel, by decide +kernel, by decide +kernel, rfl, by decide +kernel⟩, by decide +kernel⟩

theorem test_frame_end_hypotheses :
    (openFrame false).slot = some 0 ∧ (openFrame false).lines.length ≤ aCamera.h ∧
    0 + (aCamera.h - (List.replicate 16 ([] : List Nat)).length) ≤ aCamera.repairLimit ∧
    aCamera.repairLimit < 0 + (aCamera.h - (openFrame false).lines.length) ∧ (openFrame true).ended = true ∧
    vget (withFrame true).sen.cameras 0 none = some { aCamera with frame := some (openFrame true) } ∧
    (withFrame true).cameraOn aCamera.port = true ∧ vget (withFrame true).sen.csiWait aCamera.port [] = [] ∧
    vget (withFrame true).sen.eccLost (cfeOf aCamera.port) 0 = 0 :=
  ⟨by decide +kernel, by decide +kernel, by decide +kernel, by decide +kernel, by decide +kernel, rfl, by decide +kernel⟩

/-- Eight pixels of RAW10 in ten bytes (Table 8.1): the low bits of four pixels lie in the fifth byte. -/
theorem test_raw10 : unpackRaw 0x2B [1, 2, 3, 4, 0xE4, 0, 0, 0, 0xFF, 0xC0] = [4, 9, 14, 19, 0, 0, 0, 1023] := by decide +kernel

/-- An untagged frame: 18 zero bytes in a UDP datagram from 10.0.0.1 to port 2368 of 10.0.0.2, its FCS last. -/
def ethFrame : List Byte :=
  List.replicate 12 0 ++ [8, 0] ++ [0x45, 0, 0, 46, 0, 0, 0, 0, 64, 17, 102, 189, 10, 0, 0, 1, 10, 0, 0, 2] ++
    [3, 232, 9, 64, 0, 26, 0, 0] ++ List.replicate 18 0 ++ [10, 57, 229, 166]

/-- Its datagram. -/
def aDatagram : Datagram :=
  { vid := none, ipVer := 4, srcIp := 0x0100000A#128, udpPort := 2368, payload := List.replicate 18 0 }

theorem test_frame_received : receive ethFrame = { pause := false, datagram := some aDatagram, discard := none } := by decide +kernel

/-- With a bit of its last byte turned over the frame's FCS is bad, and its headers read as before (R216, R224). -/
theorem test_frame_fcs : receive (ethFrame.dropLast ++ [167]) = { pause := false, datagram := some aDatagram, discard := some ethFcs } := by
  decide +kernel

/-- Lidar 0 is configured; `w` are its windows. -/
def withLidar (w : List Window) : State :=
  (ready.onSen fun x => { x with lidars := vset x.lidars 0 (some { aLidar with windows := w }) }).onPwr fun p =>
    { p with domains := BitVec.allOnes 64 }

theorem test_datagram_hypotheses :
    (withLidar []).pins.rstN = true ∧ (withLidar []).pwr.domains.getLsbD 46 = true ∧ (receive ethFrame).pause = false ∧
    (receive ethFrame).discard = none ∧ (receive ethFrame).datagram = some aDatagram ∧ vget (withLidar []).sen.lidars 0 none = some aLidar ∧
    aLidar.takes 0 aDatagram = true ∧ aLidar.takes 1 aDatagram = false ∧ (withLidar []).lpeOn = true ∧
    vget (withLidar []).sen.lidOld 0 none = none ∧ aLidar.desc.payloadMin ≤ aDatagram.payload.length ∧
    aLidar.takes 0 { aDatagram with vid := some 5 } = false ∧
    (∀ i : Fin 8, vget ready.sen.lidars i.val none = none ∧ vget ready.sen.lidOld i.val none = none) := by decide +kernel

/-- The datagram goes to lidar 0 on its port; on another port it is counted (R217). -/
theorem test_datagram :
    (match exec (.lidarDatagram 1 ⟨ethFrame, false⟩ 5) (withLidar []) with
      | .next t => (t.now, (vget t.sen.ethCounts 1 []).head?) | _ => (0, none)) = (5, some (ethNoLidar, 1)) := by decide +kernel

/-- An open window of lidar 0 in slot 1. -/
def aWindow : Window := { k := 0, slot := some 1, opened := true, points := [], lost := 0, seqGap := false, first := none, lastPkt := 0 }

/-- The lidar with an open window. -/
def openLidar : Lidar := { aLidar with windows := [aWindow] }

theorem test_window_hypotheses :
    ((withLidar []).lpeOn = true ∧ vget (withLidar []).sen.lidars 0 none = some aLidar ∧ vget (withLidar []).sen.lidNext 0 none = none ∧
      countAt (withLidar []).tim (aLidar.startOf aLidar.nextK) < 2 ^ 64) ∧
    (withLidar [aWindow]).lpeOn = true ∧ (withLidar [aWindow]).sen.committing 0 = some (openLidar, false) ∧
      openLidar.windows.find? (fun w => w.opened) = some aWindow ∧ aWindow.slot = some 1 := by
  decide +kernel

/-- A replaced lidar with its window still open beside the present one commits first (R225). -/
theorem test_old_window_hypotheses :
    ((withLidar []).onSen fun x => { x with lidOld := vset x.lidOld 0 (some openLidar) }).sen.committing 0 = some (openLidar, true) := by
  decide +kernel

theorem test_link_hypotheses : ready.pins.rstN = true ∧ ready.pins.perstN = true ∧ ready.pwr.domains.getLsbD 45 = true ∧
    withCamera.pwr.domains.getLsbD (47 + cfeOf 3) = true ∧
    withCamera.pins.rstN = true ∧ ready.pwr.domains.getLsbD 46 = true := by decide +kernel

/-- A sensor link that comes up sets its own bit. -/
theorem test_sensor_link : (match exec (.sensorLinkUp (.csi 3)) withCamera with | .next t => t.sen.csiUp | _ => 0) = 8#8 := by decide +kernel

/-! ### Time: witnesses of the hypotheses -/

/-- gPTP and PPS output in use, in a servo state, at count 1 s. -/
def timed (m : Servo) (first : Bool) : State :=
  ready.onTim fun t => { t with count := 1000000000#64, gptp := true, ppsInEn := true, ppsOutEn := true, servo := m, firstDone := first,
                                pdelayOpen := true, ppsPlaced := none }

theorem test_sync_hypotheses :
    (timed .locked true).gptpOn = true ∧ (2000000000 : Nat) < 2 ^ 64 ∧ (timed .locked true).tim.servo ≠ .stepPending ∧
    (timed .locked true).tim.firstDone = true ∧
    (2000050000 - ((timed .locked true).advance 2000000000).vnow).natAbs ≤ (timed .locked true).tim.jumpNext.getD (timed .locked true).tim.jumpNs ∧
    (timed .locked true).tim.jumpNext.getD (timed .locked true).tim.jumpNs < (2000050001 - ((timed .locked true).advance 2000000000).vnow).natAbs ∧
    (timed .freeRun false).tim.firstDone = false ∧ (timed .freeRun false).tim.launchSeen = false ∧ (timed .freeRun false).gptpOn = true := by
  decide +kernel

/-- An error of 50,001 ns, one above JUMP_NS, is pending and not applied (R360). -/
theorem test_sync_above_jump : (match exec (.sync 2000050001 0 2000000000) (timed .locked true) with
    | .next t => (t.tim.servo, t.tim.pending, t.vnow) | _ => (.freeRun, 0, 0)) = (.stepPending, 50001, 2000000000) := by decide +kernel

theorem test_accept_step_hypotheses :
    (let p := packet 0x53 []
     ((timed .stepPending true).waits p).Starts adminCmd 0x53 p ∧ (timed .stepPending true).tim.servo = .stepPending) ∧
    (let p := packet 0x53 []
     ((timed .locked true).waits p).Starts adminCmd 0x53 p ∧ (timed .locked true).tim.servo ≠ .stepPending) :=
  ⟨⟨starts_of (by decide +kernel), by decide +kernel⟩, starts_of (by decide +kernel), by decide +kernel⟩

theorem test_time_source_hypotheses :
    (let p := packet 0x52 [(0x10, 10000000), (0x14, 127), (0x15, 7)]
     (ready.waits p).Starts adminCmd 0x52 p ∧ p.u 0x10 4 = 10000000 ∧ p.u 0x14 1 = 127 ∧ p.u 0x15 1 = 7) ∧
    (timed .locked true).gptpOn = true ∧ (timed .locked true).tim.pdelayOpen = true ∧ (timed .locked true).servoOn = true ∧
    (timed .locked true).tim.ppsInEn = true ∧ (timed .locked true).tim.ppsSeen = false ∧ (timed .locked true).tim.gptp = true ∧
    ((timed .locked true).onTim fun m => { m with gptp := false }).tim.gptp = false ∧ (timed .locked true).bar0Open = true :=
  ⟨⟨starts_of (by decide +kernel), by decide +kernel⟩, by decide +kernel⟩

theorem test_holdover_hypotheses :
    (timed .locked true).servoOn = true ∧ (timed .locked true).tim.gptp = true ∧
    (timed .locked true).tim.lastMeas + (timed .locked true).tim.timeout < 2 ^ 64 ∧ (timed .holdover true).servoOn = true ∧
    (timed .holdover true).tim.servo = .holdover ∧ (timed .locked true).tim.ppsOutEn = true ∧ (timed .locked true).tim.ppsPlaced = none ∧
    ((timed .locked true).onTim fun m => { m with ppsPlaced := some (2, 2000000000) }).tim.ppsPlaced = some (2, 2000000000) := by
  decide +kernel

/-- The third consecutive measurement against a new master, in STEP_PENDING (R361). -/
def newMaster : State := (timed .stepPending true).onTim fun m => { m with master := 5, followed := some 4, run := some (5, 3000, 2) }

theorem test_new_master_hypotheses :
    newMaster.gptpOn = true ∧ newMaster.tim.servo = .stepPending ∧ newMaster.tim.master ≠ 0 ∧
    newMaster.tim.followed ≠ some newMaster.tim.master ∧ newMaster.tim.run = some (newMaster.tim.master, 3000, 2) ∧
    ((11000 : Int) - 3000).natAbs ≤ 8000 ∧
    -- without a master
    (timed .stepPending true).tim.master = 0 ∧ (timed .stepPending true).tim.servo = .stepPending ∧
    -- gPTP out of use, and the servo off
    ((timed .locked true).onTim fun m => { m with gptp := false }).gptpOn = false ∧ State.reset.servoOn = false := by decide +kernel

theorem test_new_master : (match exec (.sync 2000011000 0 2000000000) newMaster with
    | .next t => (t.tim.servo, t.tim.followed, t.vnow) | _ => (.freeRun, none, 0)) = (.locking, some 5, 2000011000) := by decide +kernel

/-- PPS_IN 0.4 s after the last accepted edge is too close, at half a second it is not (R363). -/
theorem test_pps_hypotheses :
    (let s := (timed .locked true).onTim fun m => { m with ppsSeen := true, ppsCount := 1000000000 }
     s.servoOn = true ∧ s.tim.ppsInEn = true ∧ s.tim.ppsSeen = true ∧ (s.advance 1400000000).now < s.tim.ppsCount + 500000000 ∧
      s.tim.ppsCount + 500000000 ≤ (s.advance 1500000000).now) := by decide +kernel
/-! ### The recorder: witnesses of the hypotheses -/

/-- One record waits, an erase and a snapshot write are under way as told. -/
def recording (erasing : Bool) (snap : Option (List Byte)) : State :=
  ready.onEvr fun r => { r with queue := [someEvent], erasing := erasing, snapWrite := snap }

theorem test_recorder_hypotheses :
    (recording false none).pins.rstN = true ∧ (recording false none).evr.queue = [someEvent] ∧ (recording false none).mss.flagWrite = none ∧
    (recording false none).evr.snapWrite = none ∧ (recording false none).flash.logPos % 128 = 0 ∧ (recording false none).evr.erasing = false ∧
    (recording true none).evr.erasing = true ∧ (recording false (some [1])).evr.snapWrite = some [1] ∧
    (recording false (some [1])).mss.flagWrite = none := by decide +kernel

/-- The bucket of code 0x6001 has lost a token. -/
def spent : State := ready.onEvr fun r => { r with buckets := [{ code := 0x6001, tokens := 3, suppressed := 0, since := 0 }] }

theorem test_refill_hypotheses :
    spent.evr.buckets.find? (fun b => b.code = 0x6001) = some ⟨0x6001, 3, 0, 0⟩ ∧ (3 : Nat) < spent.limitOf 0x6001 ∧ spent.pins.rstN = true ∧
    spent.bar0Open = true := by decide +kernel

theorem test_log_read_hypotheses :
    (let p := packet 0x60 [(0x14, 4096), (0x18, 64)]; let s := (recording false none).waits p
     s.Starts adminCmd 0x60 p ∧ p.u 0x14 4 = 4096 ∧ p.u 0x18 8 % 64 = 0 ∧ s.logSlice (p.u 0x10 4) (p.u 0x14 4) = [someEvent]) ∧
    (let p := packet 0x60 [(0x14, 1)]
     (ready.waits p).Starts adminCmd 0x60 p ∧ (ready.waits p).logSlice 0 1 = []) :=
  ⟨⟨starts_of (by decide +kernel), by decide +kernel⟩, starts_of (by decide +kernel), by decide +kernel⟩

theorem test_stats_read_hypotheses :
    (let p := packet 0x62 [(0x10, 1), (0x14, 0x10000)]; let s := ready.waits p
     s.Starts adminCmd 0x62 p ∧ p.u 0x10 1 = 1 ∧ p.u 0x18 8 % 64 = 0 ∧ s.totalsBlock.length ≤ p.u 0x14 4 ∧ s.totalsBlock.length ≤ hostWriteMax) ∧
    (let p := packet 0x62 [(0x10, 0), (0x14, 0)]; let s := ready.waits p
     s.Starts adminCmd 0x62 p ∧ p.u 0x10 1 = 0 ∧ p.u 0x14 4 < s.statsBlock.length) :=
  ⟨⟨starts_of (by decide +kernel), by decide +kernel⟩, starts_of (by decide +kernel), by decide +kernel⟩

/-! ### The result stream and the verdicts: witnesses of the hypotheses -/

/-- A frame of 64 tiles in emission: slots of 1 µs from count 1,000,000 on. -/
def aFrame (nextSlot nextBand : Nat) : EmitFrame :=
  { frame := 4, launch := 0, launchVt := 0, offset := 1000000, cadNs := 1000, gridW := 8, tiles := 64, format := 1, buildId := 0,
    model := CkcModel.none, modelAddr := 0, swap := false, hasObj := false, tileAt := (.sb, 0), objAt := none, nextSlot := nextSlot,
    owed := [], lateTiles := [], lateCommits := 0, degraded := [], firstSeq := 0, bandSeqs := [], nextBand := nextBand, bandInvalid := 0,
    objDone := false, objLate := false, objCount := 0, objOwed := false, sensors := [], replays := 0, hwBands := [], hwFault := false,
    unreplayed := false, progDone := none, safeSeen := false, reasons := 0 }

/-- The part with CKC in TMR and a frame in emission. -/
def emitting (nextSlot nextBand : Nat) : State :=
  (ready.onEmt fun e => { e with frames := [aFrame nextSlot nextBand] }).onCkc fun c => { c with mode := .tmr }

theorem test_slot_hypotheses :
    (emitting 0 0).pins.rstN = true ∧ (emitting 0 0).emt.frames = [aFrame 0 0] ∧ (aFrame 63 0).nextSlot < (aFrame 63 0).tiles ∧
    (aFrame 63 0).nextSlot ≤ 64 * (aFrame 63 0).nextBand + 66 ∧ (aFrame 63 0).slotAt 63 < 2 ^ 64 ∧ (emitting 0 0).ckc.mode ≠ .halted ∧
    (emitting 0 0).emt.full.contains ((aFrame 0 0).parity, 0) = false ∧
    ((emitting 0 0).onEmt fun e => { e with full := [(0, 0)] }).emt.full.contains ((aFrame 0 0).parity, 0) = true := by decide +kernel

/-- The CRC-32C of R238 over the digits 1 to 9 is E3069283H, the check value of its parameters. -/
theorem test_crc32c : crc32c [0x31, 0x32, 0x33, 0x34, 0x35, 0x36, 0x37, 0x38, 0x39] = 0xE3069283 := by decide +kernel

/-- A stream ring with room, a record waiting, and `pend` records written before its tail moves. -/
def delivering (pend used : Nat) : State :=
  (withStream.onEmt fun e => { e with tile := { e.tile with queue := [[1]], tailPend := pend } }).onCpx fun c =>
    c.putRing { someRing 0x1000 .tileStream 0 0 with tail := used }

theorem test_delivery_hypotheses :
    ((delivering 0 0).pins.rstN = true ∧ (delivering 0 0).hif.linkUp = true ∧ ((delivering 0 0).emt.get .tile).queue = [[1]] ∧
      (∃ r, (delivering 0 0).cpx.streamRing .tile = some r ∧ r.used + ((delivering 0 0).emt.get .tile).tailPend < r.entries)) ∧
    (∃ r, (delivering 7 0).cpx.streamRing .tile = some r ∧ r.used + ((delivering 7 0).emt.get .tile).tailPend < r.entries ∧
      8 ≤ ((delivering 7 0).emt.get .tile).tailPend + 1) ∧
    (∃ r, (delivering 0 8).cpx.streamRing .tile = some r ∧ r.entries ≤ r.used + ((delivering 0 8).emt.get .tile).tailPend) :=
  ⟨⟨by decide +kernel, by decide +kernel, by decide +kernel, some_of (by decide +kernel)⟩, some_of (by decide +kernel),
   some_of (by decide +kernel)⟩

/-- CKC's judgement of that frame after `n` tiles and `b` bands. -/
def aJudge (n b : Nat) : Judge :=
  { frame := 4, launch := 0, cycle := 0, slot := 0, bound := [], format := 1, tiles := 64, gridW := 8, model := CkcModel.none, modelAddr := 0, mask := [], reasons := [], badCrc := [],
    objBad := false, chainBad := false, bandsIssued := b, verdict := none, occMeans := List.replicate n 0, hasPrev := false,
    evidence := some { ground := [], obst := [], prior := [], failed := 0, patternFail := false, shiftX := 0, shiftY := 0 } }

/-- That judgement before its evidence is formed. -/
def earlyJudge (n b : Nat) : Judge := { aJudge n b with evidence := none }

/-- A frame in emission with its judgement; its first band's output and its own are agreed. -/
def judged (nextSlot nextBand n b : Nat) : State :=
  (emitting nextSlot nextBand).onCkc fun c => { c with judges := [aJudge n b], verdicts := [verdictAddr 4 0, verdictAddr 4 0xFFFF] }

theorem test_verdict_hypotheses :
    (let b : List Byte := List.replicate 256 0
     let s := (judged 1 0 63 0).onEmt fun e => { e with tap := [(.tile, b)] }
     s.emt.tap = [(.tile, b)] ∧ s.ckc.judges.find? (fun j => decide (j.occMeans.length < j.tiles)) = some (aJudge 63 0) ∧
      (∀ k ∈ s.ckc.judges, k.frame = (aJudge 63 0).frame → k = aJudge 63 0) ∧ (aJudge 63 0).evidence.isSome = true ∧
      (earlyJudge 63 0).evidence = none) ∧
    ((judged 64 0 64 0).ckc.judges.find? Judge.ready = some (aJudge 64 0) ∧ (judged 64 0 64 0).emt.frames = [aFrame 64 0] ∧
      (judged 64 0 64 0).pins.rstN = true ∧ (judged 64 0 64 0).ckc.mode ≠ .halted ∧
      (judged 64 0 64 0).ckc.verdicts.contains (verdictAddr 4 0) = true ∧ (judged 64 0 64 0).ckc.verdicts.contains (verdictAddr 4 1) = false ∧
      (aFrame 64 0).frame = (aJudge 64 0).frame ∧ (aFrame 64 0).nextBand = (aJudge 64 0).bandsIssued) ∧
    ((judged 64 1 64 0).ckc.judges.find? Judge.ready = some (aJudge 64 0) ∧ (aFrame 64 1).nextBand ≠ (aJudge 64 0).bandsIssued) ∧
    ((aFrame 64 0).nextBand < (aFrame 64 0).bands ∧ 64 * ((aFrame 64 0).nextBand + 1) ≤ (aFrame 64 0).nextSlot ∧
      (aFrame 64 0).slotAt (64 * 0 + 66) < 2 ^ 64) ∧
    ((judged 64 1 64 1).ckc.judges.find? (fun j => decide (64 * j.bandsIssued = j.tiles) && j.verdict.isNone) = some (aJudge 64 1) ∧
      (judged 64 1 64 1).ckc.verdicts.contains (verdictAddr 4 0xFFFF) = true ∧
      (emitting 64 1).ckc.verdicts.contains (verdictAddr 4 0xFFFF) = false ∧ (judged 64 1 64 1).emt.frames.find? (fun f => f.frame = (aJudge 64 1).frame) = some (aFrame 64 1)) := by decide +kernel

theorem test_trailer_hypotheses :
    (emitting 64 1).pins.rstN = true ∧ (emitting 64 1).emt.frames = [aFrame 64 1] ∧ (aFrame 64 1).nextSlot = (aFrame 64 1).tiles ∧
    (aFrame 64 1).nextBand = (aFrame 64 1).bands ∧ (aFrame 64 1).slotAt ((aFrame 64 1).tiles + 2) < 2 ^ 64 ∧ (aFrame 64 1).hasObj = false ∧
    (emitting 64 1).ckc.judges.find? (fun j => j.frame = (aFrame 64 1).frame) = none ∧
    (let s := ((judged 64 1 64 1).onCkc fun c => { c with judges := [{ aJudge 64 1 with verdict := some (false, 0) }] }).onSaf fun x =>
       { x with latched := false }
     s.ckc.judges.find? (fun j => j.frame = (aFrame 64 1).frame) = some { aJudge 64 1 with verdict := some (false, 0) } ∧
      s.saf.latched = false ∧ (aFrame 64 1).safeSeen = false ∧ (aFrame 64 1).objLate = false ∧
      (aFrame 64 1).lateTiles.length ≤ (aFrame 64 1).lateLimit) ∧
    (let s := (emitting 64 1).onSaf fun x => { x with history := [3] }
     s.saf.histFrom ≤ (aFrame 64 1).frame ∧ s.saf.relPending = false ∧ ∃ n ∈ s.saf.history, n < (aFrame 64 1).frame ∧
      (aFrame 64 1).frame < n + 8) := by decide +kernel

/-! ### The checker cluster and the safety SPI: witnesses of the hypotheses -/

/-- The part with CKC in a mode. -/
def checking (m : CkcMode) : State := ready.onCkc fun c => { c with mode := m }

/-- The write of 7 to SRAM address 64 by a lane, at count 0. -/
def aTx (lane : Nat) : LaneTx := { lane := lane, kind := txSramWrite, addr := 64, data := 7, sample := 0, time := 0 }

theorem test_voter_hypotheses :
    ((checking .tmr).ckc.await.find? (fun a => a.1.lane = 0) = none ∧ (checking .tmr).ckc.pres = [] ∧
      (checking .tmr).ckc.overdue ((checking .tmr).advance 0).now = false ∧ ((checking .tmr).advance 0).now = 0) ∧
    (let s := (checking .tmr).onCkc fun c => { c with pres := [aTx 1] }
     s.ckc.pres.any (fun p => p.lane = 0) = false ∧ s.ckc.overdue (s.advance 0).now = false ∧
      s.ckc.pres.find? (fun p => p.same (aTx 0)) = some (aTx 1) ∧
      s.ckc.pres.any (fun p => p.lane ≠ 1 && p.lane = 3 - 0 - 1) = false) ∧
    (checking .tmr).ckc.judging 0 = true := by decide +kernel

theorem test_odd_lane_hypotheses :
    (let s := (checking .tmr).onCkc fun c => { c with await := [(aTx 2, 2000)] }
     s.ckc.await.find? (fun a => a.1.lane = 2) = some (aTx 2, 2000) ∧ (s.advance 2000).oddAgain 2 = false) ∧
    (let s := (checking .tmr).onCkc fun c => { c with await := [(aTx 2, 2000)], rejoined := vset c.rejoined 2 (some 0) }
     (s.advance 2000).oddAgain 2 = true) ∧
    (let s := (checking .tmr).onCkc fun c => { c with pres := [aTx 1] }
     s.ckc.judging 0 = true ∧ s.ckc.await.find? (fun a => a.1.lane = 0) = none ∧ s.ckc.pres = [aTx 1] ∧ (aTx 1).lane ≠ 0) := by
  decide +kernel

/-- A request of lane 2 for agreed input 0 that the lanes 0 and 1 have matched, with samples 10 and 30. -/
def anAsk : LaneTx := { lane := 2, kind := txAgree, addr := inFrameEvent, data := 0, sample := 20, time := 0 }

def asking : State := (checking .tmr).onCkc fun c =>
  { c with await := [(anAsk, 2000)], rounds := [{ addr := inFrameEvent, data := 0, samples := [(0, 10), (1, 30)] }] }

theorem test_agreement_hypotheses :
    asking.pins.rstN = true ∧ asking.ckc.mode = .tmr ∧ asking.ckc.await.find? (fun a => a.1.lane = 2) = some (anAsk, 2000) ∧
    anAsk.same { anAsk with time := 5 } = true ∧ (asking.advance 5).now ≤ 2000 ∧
    asking.ckc.rounds = [{ addr := inFrameEvent, data := 0, samples := [(0, 10), (1, 30)] }] := by decide +kernel

/-- The third sample makes 20 the median; without it the lower of two counts as agreed (R302). -/
theorem test_agreement : (match exec (.voterTransaction 2 txAgree inFrameEvent ⟨0, 20⟩ 5 false) asking with
    | .next t => t.ckc.agreed | _ => []) = [(inFrameEvent, 20)] ∧ agreeCount [10, 30] = 10 := by decide +kernel

theorem test_selftest_hypotheses :
    (let s := (checking .split).onCkc fun c => { c with selfBusy := true }
     s.pins.rstN = true ∧ s.ckc.selfBusy = true ∧ s.ckc.join = none ∧ (s.pwr.state = .ready ∨ s.pwr.state = .running)) ∧
    (let s := (checking .split).onCkc fun c => { c with selfBusy := true, join := some (packet 0x91 []) }
     s.ckc.selfBusy = true ∧ s.ckc.join ≠ none) := by decide +kernel

theorem test_resync_hypotheses :
    ((checking .resync).onCkc fun c => { c with copying := true }).ckc.copying = true ∧ (checking .resync).ckc.mode = .resync ∧
    (checking .resync).emt.emitting = false ∧ ((checking .resync).ckc.bandAt / 128000 + 1) * 128000 < 2 ^ 64 ∧
    ((checking .resync).onCkc fun c => { c with copyDone := true }).ckc.copyDone = true ∧ (checking .tmr).ckc.mode ≠ .halted := by
  decide +kernel

theorem test_split_hypotheses :
    (let p := packet 0x90 [(0x10, 2)]
     ((checking .tmr).waits p).Starts adminCmd 0x90 p ∧ (checking .tmr).ckc.mode = .tmr ∧ (checking .tmr).ckc.split = none ∧ p.u 0x10 1 = 2 ∧
      (checking .tmr).noFrame = true ∧ ((checking .tmr).onCtr fun c => { c with placed := some ⟨1, 1⟩ }).noFrame = false) ∧
    (let p := packet 0x91 []
     ((checking .split).waits p).Starts adminCmd 0x91 p ∧ (checking .split).ckc.mode = .split ∧ (checking .split).ckc.join = none ∧
      (checking .split).ckc.selfBusy = false ∧ (checking .split).ckc.selfPassed = false ∧
      ((checking .split).onCkc fun c => { c with selfPassed := true }).ckc.selfPassed = true ∧ (checking .tmr).ckc.mode ≠ .split ∧
      ((checking .split).onCkc fun c => { c with selfBusy := true }).ckc.selfBusy = true) :=
  ⟨⟨starts_of (by decide +kernel), by decide +kernel⟩, starts_of (by decide +kernel), by decide +kernel⟩

/-- A safety SPI request (Table 12.10). -/
def spiFrame (version cmd alive id : Nat) : BitVec 256 :=
  let b := leBytes 1 version ++ leBytes 1 cmd ++ leBytes 2 alive ++ leBytes 2 id ++ leBytes 22 0
  BitVec.ofNat 256 (leNat (b ++ leBytes 4 (crc32c b)))

theorem test_spi_hypotheses :
    (spiValid 256 (spiFrame 1 0 5 0) = true ∧ spiCmd (spiFrame 1 0 5 0) ≠ 1 ∧ spiCmd (spiFrame 1 0 5 0) ≠ 2) ∧
    (spiValid 256 (spiFrame 1 1 5 1) = true ∧ spiCmd (spiFrame 1 1 5 1) = 1 ∧ recLe (spiBytes (spiFrame 1 1 5 1)) 4 2 = ready.saf.count ∧
      ready.saf.latched = true ∧ ready.saf.relPending = false ∧ ready.sec.unlocked = false) ∧
    (spiValid 256 (spiFrame 1 2 5 0) = true ∧ spiCmd (spiFrame 1 2 5 0) = 2 ∧ ready.pins.safeN = !ready.saf.latched) ∧
    spiValid 255 (spiFrame 1 0 5 0) = false ∧ spiValid 256 (spiFrame 2 0 5 0) = false ∧ spiValid 256 0 = false := by decide +kernel

/-- RELEASE with the right LATCH_COUNT is pending afterwards; with another it sets REQ_ERROR (R320). -/
theorem test_release : (match exec (.release 256 (spiFrame 1 1 5 1)) (checking .tmr), exec (.release 256 (spiFrame 1 1 5 2)) (checking .tmr) with
    | .next t, .next u => (t.saf.relPending, t.saf.reqError, u.saf.relPending, u.saf.reqError) | _, _ => (false, false, false, false)) =
    (true, false, false, true) := by decide +kernel

/-! ### Failures, drains and coppice slices: witnesses of the hypotheses -/

/-- A failure that a detector reports of core 0. -/
def aFailure (d : Nat) : FailReport := { detector := d, unit := .mxc 0, subunit := 0, cls := 0, address := 0, detail := 0 }

/-- A flag record. -/
def aFlag (flagged : Bool) : FlagRecord :=
  { seq := 1, flagged := flagged, unit := 0, subunit := 0, detector := 1, powerCycle := 0, opSeconds := 0, diagPasses := 0, fault := [] }

theorem test_failure_hypotheses :
    (atOnce (aFailure 1).detector = false ∧ replays (aFailure 1).detector = true ∧ ready.cuActive (.core 0) = false) ∧
    atOnce (aFailure 9).detector = true ∧
    (ready.pwr.state = .ready ∨ ready.pwr.state = .running) := by decide +kernel

/-- The running command of a record whose failure is reported, before and at its end, and after a first failure. -/
theorem test_replay_hypotheses :
    (let r : Run := { aRun with failed := some (aFailure 1) }
     (withQm [] r).cpx.qm = some (aQm [] r) ∧ (withQm [] r).cmdEnded (aQm [] r) = false) ∧
    (let r : Run := { aRun with failed := some (aFailure 1), done := true }
     (withQm [] r).cpx.qm = some (aQm [] r) ∧ (withQm [] r).cmdEnded (aQm [] r) = true ∧ r.hwFails = 0) ∧
    (let r : Run := { aRun with failed := some (aFailure 1), done := true, hwFails := 1, firstFail := some (aFailure 1) }
     (withQm [] r).cmdEnded (aQm [] r) = true ∧ r.hwFails ≠ 0 ∧ r.firstFail = some (aFailure 1)) :=
  ⟨⟨rfl, by decide +kernel⟩, ⟨rfl, by decide +kernel⟩, by decide +kernel⟩

theorem test_drain_hypotheses :
    (let s := ready.onMss fun m => { m with flagWrite := some (aFlag true) }
     s.mss.flagWrite = some (aFlag true) ∧ s.pins.rstN = true ∧ s.flash.flagA = none ∧ s.flash.flagB = none ∧ s.mss.flagClear = none) ∧
    ((ready.onFlash fun f => { f with flagA := some (aFlag true) }).flash.flagB.map fun x => x.seq).getD 0 <
      ((ready.onFlash fun f => { f with flagA := some (aFlag true) }).flash.flagA.map fun x => x.seq).getD 0 ∧
    ((ready.onMss fun m => { m with flagWrite := some (aFlag false), flagClear := some (packet 0x82 []) }).mss.flagClear ≠ none) ∧
    (let s := ready.onPwr fun p => { p with state := .draining }
     s.pwr.state = .draining ∧ s.mss.flagWrite = none ∧ s.emt.frames = []) := by decide +kernel

theorem test_slice_hypotheses :
    (let s := ready.onPwr fun p => { p with units := p.units.map fun u => { u with settled := true }, domains := BitVec.allOnes 64 }
     s.cpx.qm = none ∧ s.nextVisit = some 0 ∧ s.ctr.armed = none ∧ (s.pwr.state = .ready ∨ s.pwr.state = .running)) := by decide +kernel

/-! ### Identity, authorisation and updates: witnesses of the hypotheses -/

/-- A challenge issued at count 0. -/
def aChallenge : Challenge := { id := 1, fwVersion := 1, issued := 0, nonce := 0 }

/-- The owner key of 64 zero bytes is enrolled in slot 0, and a challenge of every purpose is outstanding. -/
def keyed : State :=
  ready.onSec fun x => { x with slots := vset x.slots 0 { digest := digest256 (List.replicate 64 0), revoked := false },
                                challenges := Vector.replicate 4 (some aChallenge) }

theorem keyed_slot : keyed.sec.slotOk 0 (List.replicate 64 0) = true := by decide +kernel

@[simp] theorem leBytes_length (n v : Nat) : (leBytes n v).length = n := by
  induction n generalizing v with
  | zero => rfl
  | succ n ih => simp [leBytes, ih]

/-- An authorisation that answers a challenge of purpose `p`. -/
def anAuth (p : Nat) : List Byte := aChallenge.bytes p ++ List.replicate (authSize - 64) 0

theorem anAuth_ok {s : State} {p : Nat} (h : s.challenge p = some aChallenge) (k : s.sec.slotOk 0 (List.replicate 64 0) = true) :
    s.authOk p authSize (anAuth p) true = true := by
  have l : (aChallenge.bytes p).length = 64 := by simp [Challenge.bytes]
  have t : (anAuth p).take 64 = aChallenge.bytes p := by rw [anAuth, ← l, List.take_left]
  have g : (anAuth p).getD 64 0 = 0 := by
    rw [anAuth, List.getD_append_right _ _ _ _ (by omega), l]; rfl
  have d : ((anAuth p).drop 128).take 64 = List.replicate 64 0 := by
    rw [anAuth, List.drop_append, l, List.drop_eq_nil_of_le (by omega), List.nil_append, List.drop_replicate, List.take_replicate]; rfl
  simp only [State.authOk, h, t, g, d, decide_true, Bool.true_and, Bool.and_true]
  exact k

theorem test_challenge_hypotheses :
    (let p := packet 0x74 [(0x10, 3), (0x18, 64)]
     (ready.waits p).Starts adminCmd 0x74 p ∧ p.u 0x10 1 = 3 ∧ p.u 0x18 8 % 64 = 0) ∧
    keyed.sec.challenges.get 3 = some aChallenge ∧ keyed.challenge 3 = some aChallenge ∧
    (let p := packet 0x73 [(0x30, 64)]
     (ready.waits p).Starts adminCmd 0x73 p ∧ p.u 0x30 8 % 64 = 0 ∧ ready.sec.unlocked = false ∧
      ((ready.onSec fun x => { x with unlocked := true }).waits p).Starts adminCmd 0x73 p) ∧
    (∀ i, i < 4 → (ready.sec.slot i).empty = true) ∧ (keyed.sec.slot 0).empty = false ∧ (1 : BitVec 256) ≠ 0 :=
  ⟨⟨starts_of (by decide +kernel), by decide +kernel⟩, by decide +kernel, by decide +kernel,
   ⟨starts_of (by decide +kernel), by decide +kernel, by decide +kernel, starts_of (by decide +kernel)⟩, by decide +kernel,
   by decide +kernel, by decide +kernel⟩

theorem test_unlock_hypotheses :
    keyed.unlockOk = true ∧ keyed.sec.unlocked = false ∧ keyed.authOk 3 (anAuth 3).length (anAuth 3) true = true ∧
    keyed.authOk 3 0 [] true = false ∧ (staged.unlockOk = false ∧ staged.sec.unlocked = false) := by
  refine ⟨by decide +kernel, by decide +kernel, ?_, by decide +kernel, by decide +kernel⟩
  have l : (anAuth 3).length = authSize := by
    rw [anAuth, List.length_append, List.length_replicate, show (aChallenge.bytes 3).length = 64 by simp [Challenge.bytes]]
    decide
  rw [l]
  exact anAuth_ok (by decide +kernel) keyed_slot

/-- A command with an authorisation at 0x40. -/
def authPacket (op : Nat) : Packet := packet op [(0x10, 0x40), (0x18, authSize)]

/-- Flagged, the diagnosis passed. -/
def flaggedPart : State := (keyed.onPwr fun p => { p with state := .flagged }).onMss fun m => { m with diagPassed := true }

theorem test_authorised_hypotheses :
    ((keyed.waits (authPacket 0x61)).Starts adminCmd 0x61 (authPacket 0x61) ∧ (authPacket 0x61).u 0x10 8 % 64 = 0 ∧
      (keyed.waits (authPacket 0x61)).authOk 0 ((authPacket 0x61).u 0x18 4) (anAuth 0) true = true ∧
      (ready.waits (authPacket 0x61)).Starts adminCmd 0x61 (authPacket 0x61) ∧
      (ready.waits (authPacket 0x61)).authOk 0 ((authPacket 0x61).u 0x18 4) [] true = false) ∧
    ((keyed.waits (authPacket 0x81)).Starts adminCmd 0x81 (authPacket 0x81) ∧ (keyed.waits (authPacket 0x81)).pwr.state = .ready ∧
      keyed.ctr.armed = none ∧ keyed.ctr.staged = none ∧ (keyed.waits (authPacket 0x81)).cpx.jobOpen = false ∧
      (keyed.waits (authPacket 0x81)).authOk 2 ((authPacket 0x81).u 0x18 4) (anAuth 2) true = true) ∧
    (ready.onMss fun m => { m with diag := some (authPacket 0x81) }).mss.diag = some (authPacket 0x81) ∧
    ((flaggedPart.waits (authPacket 0x82)).Starts adminCmd 0x82 (authPacket 0x82) ∧ flaggedPart.pwr.state = .flagged ∧
      flaggedPart.mss.diagPassed = true ∧
      (flaggedPart.waits (authPacket 0x82)).authOk 1 ((authPacket 0x82).u 0x18 4) (anAuth 1) true = true ∧
      (flaggedPart.waits (authPacket 0x82)).authOk 1 ((authPacket 0x82).u 0x18 4) [] true = false) := by
  have n : ∀ op, op < 256 → (authPacket op).u 0x18 4 = authSize := by decide +kernel
  refine ⟨⟨starts_of (by decide +kernel), by decide +kernel, ?_, starts_of (by decide +kernel), by decide +kernel⟩,
    ⟨starts_of (by decide +kernel), by decide +kernel, by decide +kernel, by decide +kernel, by decide +kernel, ?_⟩, by decide +kernel,
    ⟨starts_of (by decide +kernel), by decide +kernel, by decide +kernel, ?_, by decide +kernel⟩⟩
  · rw [n _ (by decide)]; exact anAuth_ok (by decide +kernel) keyed_slot
  · rw [n _ (by decide)]; exact anAuth_ok (by decide +kernel) keyed_slot
  · rw [n _ (by decide)]; exact anAuth_ok (by decide +kernel) keyed_slot

/-- An update session of 30,464 bytes; `units` of 64 bytes are written. -/
def aSession (units : Nat) : UpdateSession := { size := 30464, version := 1, written := List.range units }

/-- UPDATE_DATA of 64 bytes at an offset. -/
def dataPacket (off : Nat) : Packet := packet 0x71 [(0x10, 64), (0x18, off), (0x1C, 64)]

theorem session_canonical {x : UpdateSession} {p : Packet} :
    ((ready.onFlash fun f => { f with session := some x }).waits p).Canonical :=
  ⟨ready_canonical.fab, ready_canonical.flash.image, ready_canonical.flash.cert, ready_canonical.flash.pattern⟩

theorem test_update_hypotheses :
    (let p := packet 0x70 [(0x10, 0x7000000), (0x14, 1)]
     (ready.waits p).Starts adminCmd 0x70 p ∧ (ready.waits p).flash.commit = none ∧ p.u 0x10 4 = 0x7000000) ∧
    (let p := dataPacket 0x76C0; let s := (ready.onFlash fun f => { f with session := some (aSession 0) }).waits p
     s.Canonical ∧ s.Starts adminCmd 0x71 p ∧ s.flash.commit = none ∧ s.flash.session = some (aSession 0) ∧ p.u 0x10 8 % 64 = 0 ∧
      p.u 0x1C 4 = 64 ∧ p.u 0x18 4 % 64 = 0 ∧ p.u 0x18 4 + p.u 0x1C 4 = (aSession 0).size ∧ p.u 0x18 4 + p.u 0x1C 4 ≤ 0x800000) ∧
    (let x := { aSession 0 with size := 0x7000000 }
     let p := dataPacket 0x6FFFFC0; let s := (ready.onFlash fun f => { f with session := some x }).waits p
     s.Canonical ∧ s.Starts adminCmd 0x71 p ∧ s.flash.session = some x ∧ 0x1000000 ≤ p.u 0x18 4 ∧ p.u 0x18 4 + p.u 0x1C 4 = 0x7000000) :=
  ⟨⟨starts_of (by decide +kernel), by decide +kernel⟩,
   ⟨session_canonical, starts_of (by decide +kernel), by decide +kernel⟩,
   session_canonical, starts_of (by decide +kernel), by decide +kernel⟩

/-- An image header (Table 16.3): the four identification fields, VERSION 1, IMAGE_SIZE 30,464; every other byte is zero. -/
def anImage : Memory :=
  [(0, 0x4B#8), (1, 0x46#8), (2, 0x57#8), (3, 0x4D#8), (4, 1#8), (6, 0x80#8), (7, 8#8), (8, 1#8), (0xF, 0xA1#8), (0x11, 0x77#8)]

/-- RECOVERY with that image staged in CKC's SRAM. -/
def recovering : State :=
  ((keyed.onPwr fun p => { p with state := .recovery }).onFab fun f => { f with ckcRam := anImage }).onFlash fun f =>
    { f with session := some (aSession 476) }

/-- What is staged in RECOVERY is what the first 8 MiB of CKC's SRAM hold. -/
theorem staged_of {s : State} {m : Memory} (h : s.pwr.state = .recovery) (w : Memory.wf s.fab.ckcRam = true) (e : s.fab.ckcRam = m)
    (b : ∀ a, 0x800000 ≤ a → memGet m a = 0) : s.staged = m := by
  have p : s.stagePlace 0 = (.ckc, 0) := by simp [State.stagePlace, h]
  rw [State.staged, p]
  refine Memory.eq_of_get (Memory.wf_memPut Memory.wf_nil) (e ▸ w) fun a => ?_
  rw [memGet_memPut Memory.wf_nil]
  split
  · rename_i ha
    rw [Fab.peeks_length] at ha
    rw [Fab.peeks_getD _ _ _ _ _ (by omega)]
    simp [Fab.peek, e]
  · rename_i ha
    rw [Fab.peeks_length] at ha
    rw [b a (by omega)]; rfl

theorem recovering_staged (pk : Packet) : (recovering.waits pk).staged = anImage :=
  staged_of rfl (show Memory.wf anImage = true by decide +kernel) rfl fun a h => by
    simp only [anImage, memGet]
    repeat rw [if_neg (by omega)]

theorem test_commit_hypotheses :
    (let p := packet 0x72 []; let s := recovering.waits p
     s.Starts adminCmd 0x72 p ∧ s.flash.commit = none ∧ s.flash.session = some (aSession 476) ∧ (aSession 476).complete 64 = true ∧
      (aSession 476).complete (imgSize s.staged) = true ∧ imgVersion s.staged = (aSession 476).version ∧
      s.sec.imageCheck s.staged true = 0 ∧
      s.sec.keyOpsValid (imgLe s.staged (imgSig s.staged) 1) (imgKeyOps s.staged) = true ∧ 2 ≤ s.sec.imageCheck s.staged false) := by
  simp only [recovering_staged]
  exact ⟨starts_of (by decide +kernel), by decide +kernel⟩

theorem test_image_write_hypotheses :
    (let s := recovering.onFlash fun f => { f with commit := some (packet 0x72 []) }
     s.pins.rstN = true ∧ s.pins.pwrfailN = true ∧ s.flash.commit = some (packet 0x72 [])) ∧
    (let s := recovering.onMss fun m => { m with selfReset := some 10000000 }
     s.pins.rstN = true ∧ s.pwr.state = .recovery ∧ s.mss.selfReset = some 10000000) := by decide +kernel

/-! ### Resets, starts and the shut-down test: witnesses of the hypotheses -/

/-- RST_N is high, the start runs, for recovery or not. -/
def starting (recovery : Bool) : State :=
  { State.reset with pins := { State.reset.pins with rstN := true }, mss := { State.reset.mss with bootRecovery := recovery } }

theorem test_reset_hypotheses :
    ready.pins.rstN = true ∧ State.reset.pins.rstN = false ∧ State.reset.sec.imageCheck (State.reset.flash.image.getD []) true ≠ 0 ∧
    (let s := (State.reset.onFlash fun f => { f with image := some anImage }).onSec fun x => { x with slots := keyed.sec.slots }
     s.pins.rstN = false ∧ s.sec.imageCheck (s.flash.image.getD []) true = 0) ∧
    ((starting true).pins.rstN = true ∧ (starting true).pwr.state = .boot ∧ (starting true).mss.bootRecovery = true) ∧
    ((starting false).mss.bootRecovery = false ∧ (starting false).flash.flagRecord = none) ∧
    ((starting false).onFlash fun f => { f with flagA := some (aFlag true) }).flash.flagRecord = some (aFlag true) ∧ (aFlag true).flagged = true ∧
    ready.pwr.state ≠ .parked ∧
    (let s := ready.onPwr fun p => { p with state := .parked, wake := true }
     s.pwr.state = .parked ∧ s.pwr.wake = true ∧ s.pwr.tripped = false ∧ s.cpx.cap = none) := by decide +kernel

/-- A graft of a row of array 0 of core 0. -/
def aGraft (row : Nat) : Repair := { unitCode := 0, sub := 0, row := row, graft := true, column := false }

/-- An array has two grafts: a third has no spare left, one already held is none (R84). -/
theorem test_third_graft :
    fitRepairs [] [aGraft 1, aGraft 2, aGraft 3] = ([aGraft 1, aGraft 2], [aGraft 3]) ∧
    fitRepairs [] [aGraft 1, aGraft 2, aGraft 1] = ([aGraft 1, aGraft 2], []) := by decide +kernel

/-- A start without an image goes to RECOVERY (R388). -/
theorem test_start_without_image : (match exec (.rstNRelease 0 true) State.reset with
    | .next t => (t.mss.bootRecovery, t.mss.imageCheck) | _ => (false, 0)) = (true, 1) := by decide +kernel

theorem test_shut_down_hypotheses :
    (let p := packet 0x80 []
     (ready.waits p).Starts adminCmd 0x80 p ∧ (ready.waits p).cpx.jobOpen = false ∧ (ready.waits p).ctr.armPending = none ∧
      (ready.waits p).flash.commit = none ∧ (ready.waits p).pwr.state = .ready ∧ (ready.waits p).emt.frames = []) ∧
    (let p := packet 0x80 []
     ((emitting 0 0).waits p).Starts adminCmd 0x80 p ∧ ((emitting 0 0).waits p).emt.frames ≠ []) ∧
    (let s := ready.onMss fun m => { m with prepare := some (packet 0x80 []), shutStep := 3 }
     s.mss.prepare = some (packet 0x80 []) ∧ s.mss.aborted = false ∧ 3 ≤ s.mss.shutStep ∧ s.mss.prepare ≠ none ∧ s.pins.rstN = true) :=
  ⟨⟨starts_of (by decide +kernel), by decide +kernel⟩, ⟨starts_of (by decide +kernel), by decide +kernel⟩, by decide +kernel⟩

/-! ### Power: witnesses of the hypotheses -/

/-- Every domain is on but PD3, which rises or closes as told. -/
def power (closing rising : BitVec 64) (busy : Option Nat) : State :=
  ready.onPwr fun p => { p with domains := BitVec.allOnes 64 &&& ~~~8#64, closing := closing, rising := rising, busy := busy }

theorem test_domain_hypotheses :
    (power 0 0 none).bar0Open = true ∧ (power 0 0 none).pwr.busy = none ∧
    (pwrSwitchable 7 = true ∧ (power 0 0 none).pwr.domains.getLsbD 7 = true ∧ (power 0 0 none).ctr.holdsDomain 7 = false ∧
      (power 0 0 none).sen.needsDomain 7 = false ∧ (power 0 0 none).cacheDomain 7 = false) ∧
    pwrSwitchable 0 = false ∧ withCamera.sen.needsDomain 47 = true ∧ pwrSwitchable 47 = true ∧ (pwrSwitchable 3 = true ∧
      (power 0 0 none).pwr.domains.getLsbD 3 = false) ∧
    (power 0 0 (some 3)).pwr.busy ≠ none ∧ (power 0 0 (some 3)).bar0Open = true ∧
    (ready.sec.floor ≤ 760 ∧ 760 % 10 = 0) ∧ 750 < ready.sec.floor ∧ 1150 < 1160 ∧ 765 % 10 ≠ 0 ∧ ready.ctr.prog.running = false ∧
    (power 0 0 none).parkOk = true ∧ (∀ c : Fin 8, (power 0 0 none).fab.caches.get c = none) ∧ (emitting 0 0).parkOk = false := by
  decide +kernel

theorem test_switch_hypotheses :
    ((power 0x80 0 (some 7)).pins.rstN = true ∧ (power 0x80 0 (some 7)).pwr.closing.getLsbD 7 = true ∧
      (power 0x80 0 (some 7)).pwr.rising.getLsbD 7 = false ∧ (power 0x80 0 (some 7)).pwr.busy = some 7 ∧ (power 0x80 0 none).pwr.busy ≠ some 7) ∧
    -- a domain that both rises and closes first comes on
    ((power 8 8 (some 3)).pwr.closing.getLsbD 3 = true ∧ (power 8 8 (some 3)).pwr.rising.getLsbD 3 = true) ∧
    ((power 0 8 (some 3)).pwr.rising.getLsbD 3 = true ∧ (power 0 8 (some 3)).pwr.domains.getLsbD 3 = false ∧
      (power 0 8 (some 3)).allSettled.domainSettled 3 = true ∧ (power 0 8 (some 3)).domainSettled 2 = false ∧ (power 0 8 (some 3)).pwr.state ≠ .parked ∧
      (power 0 8 (some 3)).pwr.closing.getLsbD 3 = false ∧ (power 0 8 (some 3)).cpx.cap = none) ∧
    (let s := (power 0 8 none).allSettled.onPwr fun p => { p with state := .parked, wake := true }
     s.pwr.state = .parked ∧ s.pwr.wake = true ∧ s.domainSettled 3 = true ∧ s.pwr.rising &&& ~~~(1#64 <<< 3) = 0) := by decide +kernel

/-- What DISCOVER saw: nothing. -/
def nothingSeen : Observation :=
  { lenStatus := List.replicate 8 0, lenRaw := List.replicate 8 0, datagrams := List.replicate 4 0, matched := List.replicate 4 0,
    partner := List.replicate 4 0, cameras := [], i2cAcks := [] }

theorem test_discover_hypotheses :
    (let p := packet 0xA0 [(0x14, 4096), (0x18, 64)]
     (ready.waits p).Starts adminCmd 0xA0 p ∧ p.u 0x18 8 % 64 = 0 ∧ (ready.waits p).phyDesc = none) ∧
    (let d : DiscoverReq := { pkt := { packet 0xA0 [(0x14, 65536), (0x18, 64)] with started := some 0 }, switched := 0, desc := none }
     let s := ready.onMss fun m => { m with discover := some d }
     s.pins.rstN = true ∧ s.mss.discover = some d ∧ ((s.advance 200000000).discoveryReport d.desc nothingSeen).length ≤ d.pkt.u 0x14 4 ∧
      0 < ((s.advance 200000000).discoveryReport d.desc nothingSeen).length) :=
  ⟨⟨starts_of (by decide +kernel), by decide +kernel⟩, by decide +kernel⟩

theorem test_loop_hypotheses :
    ready.cpx.cap = none ∧ ready.ctr.armPending = none ∧ unitRateIdx .emt = some 16 ∧ unitRateIdx (.mxc 0) = some 0 ∧ 95 < sentinels (.mxc 0) ∧
    (let s := ready.onPwr fun p => { p with emtMargin := true, units := vset p.units 16 { RateUnit.zero with flagClear := some 5 } }
     s.pwr.emtMargin = true ∧ (vget s.pwr.units 16 RateUnit.zero).flagged = 0 ∧ (vget s.pwr.units 16 RateUnit.zero).flagClear = some 5) ∧
    (let u := vget (ready.onPwr fun p => { p with units := vset p.units 0 { RateUnit.zero with below := 999 } }).pwr.units 0 RateUnit.zero
     u.below = 999 ∧ u.noted = 0) ∧
    (let u := vget (ready.onPwr fun p => { p with units := vset p.units 0 { RateUnit.zero with below := 1000, noted := 1 } }).pwr.units 0 RateUnit.zero
     u.below = 1000 ∧ u.noted ≠ 2) ∧
    (ready.pwr.state ≠ .parked ∧ ready.mss.dataRate ≠ 0 ∧ 0 < ready.mss.usable) ∧
    (ready.onPwr fun p => { p with tripSince := some 0 }).pwr.tripSince ≠ none ∧ ready.pwr.mr4Hot = none := by decide +kernel

/-- A sentinel that is flagged and clear again before the window still raises the set point once (R25). -/
theorem test_waves_of_cut_windows :
    ((ready.onPwr fun p => { p with units := vset (vset p.units 0 { RateUnit.zero with count := 5000 }) 1 { RateUnit.zero with count := 4800 } }).wavesSince
      [3000, 2800] [0, 1] [-100, 7]) = 2007 := by decide +kernel

theorem test_owed_step : ({ RateUnit.zero with ldo := 600000, owed := true }.window 0 1000 1000 600 700 0).ldo = 602500 := by decide +kernel

/-- The thermal cap steps down by 10 points at the throttle threshold of 118 °C, 944 eighths (R380). -/
theorem test_thermal_cap : (match exec .thermalCapStep (ready.onPwr fun p => { p with tj := vset p.tj 31 944 }) with
    | .next t => t.pwr.cap | _ => 0) = 1140 := by decide +kernel

/-! ### Registers: witnesses of the hypotheses -/

/-- A shadow table of one entry: 64 MiB units from `base`, `size` of them, with a tag. -/
def shadowOf (base size tag : Nat) : Vector Word 16 :=
  vset (Vector.replicate 16 0) 0 (BitVec.ofNat 32 (base + size * 2 ^ 11 + tag * 2 ^ 22))

theorem test_register_hypotheses :
    ready.bar0Reads = true ∧ ready.pwr.state ≠ .boot ∧ ready.pwr.state ≠ .recovery ∧ ready.bar0Open = true ∧ ready.mss.applyBusy = none ∧
    ready.ctr.staged = none ∧ ready.ctr.armed = none ∧ ready.cpx.jobOpen = false ∧ staged.ctr.staged ≠ none := by decide +kernel

theorem test_apply_hypotheses :
    firstFault ready.mss.usable [] (regionsOf (shadowOf 0 1 1)) = none ∧
    (∃ p, firstFault ready.mss.usable [] (regionsOf (shadowOf 0 0 1)) = some p ∧ p.1 = 0 ∧ p.2 = 1) ∧
    (∀ r ∈ regionsOf (shadowOf 0 1 1), r.encrypt = false) ∧ (∀ r ∈ ready.mss.regions, r.encrypt = false) ∧
    (ready.onMss fun m => { m with applyBusy := some (shadowOf 0 1 1) }).mss.applyBusy = some (shadowOf 0 1 1) :=
  ⟨by decide +kernel, some_of (by decide +kernel), by decide +kernel, by decide +kernel, by decide +kernel⟩

/-- SAFE_RESERVE takes 65, not 66 (R140); the thermal thresholds 120 and 122 are in range, 120 and 120 are not (R441). -/
theorem test_settings : (match exec (.mssSafeReserveWrite 65) ready, exec (.mssSafeReserveWrite 66) ready,
      exec (.mssThermalCfgWrite 0x7A78#32) ready, exec (.mssThermalCfgWrite 0x7878#32) ready with
    | .next a, .next b, .next c, .next d => (a.mss.reserve, b.mss.reserve, c.mss.warn, c.mss.throttle, d.mss.warn, d.mss.thermalRejected)
    | _, _, _, _ => (0, 0, 0, 0, 0, false)) = (65, 60, 120, 122, 110, true) := by decide +kernel

/-- The command codes of PWR_REQUEST. -/
theorem test_pwr_request : (3 : DWord).toNat % 16 = 3 ∧ (0x32#64).toNat % 16 = 2 ∧ (0x71#64).toNat % 16 = 1 ∧ (0x70#64).toNat % 16 = 0 ∧
    bitsOf (0x70#64).toNat 9 4 = 7 := by decide +kernel

/-! ### Streams, commits and operators: witnesses of the hypotheses -/

/-- An instruction word: its class, and its fields as (lowest bit, value). -/
def word (cls : Nat) (fields : List (Nat × Nat)) : BitVec 128 :=
  BitVec.ofNat 128 (cls * 2 ^ 124 + (fields.map fun f => f.2 * 2 ^ f.1).sum)

/-- A check of every member of a list. -/
theorem forall_of {α : Type} {l : List α} {p : α → Prop} [DecidablePred p] (h : l.all (fun x => decide (p x)) = true) : ∀ x ∈ l, p x :=
  fun x m => of_decide_eq_true (List.all_eq_true.mp h x m)

/-- One legal instruction of each class that a command's stream may hold (Table 4.8). -/
def streamWords : List (BitVec 128) :=
  [word 1 [(56, 1), (54, 1)], word 2 [(26, 1), (36, 1)], word 3 [(15, 1)], word 4 [], word 5 [(40, 1), (88, 0), (70, 0x3FFFF)], word 6 [(60, 1)],
   word 7 [(20, 0xFFFFF)], word 8 [(20, 0xFFFFF)], word 9 [(76, 1), (64, 1)], word 0xA [(98, 0x1000), (82, 1)],
   word 0xB [(98, 0x1000), (82, 1)]]

/-- A command's stream of one instruction runs on core 0. -/
def streaming (w : BitVec 128) (run : Run) : State :=
  (withQm [(0, [w])] run).onFab fun f => { f with cores := f.cores.map fun k => { k with halted := false } }

/-- `State.QmTakes` as a test, on core 0. -/
def takesQm (s : State) (cls : Nat) (w : BitVec 128) (q : QmRun) : Bool :=
  s.pins.rstN && decide (seqClass w = cls) && decide (s.cpx.qm = some q) && decide (s.qmAt q 0 = some w) && q.cores.getLsbD 0 &&
    !q.run.done && (s.fab.cores.get 0).free q.run.waiting 0

theorem takesQm_of {s : State} {cls : Nat} {w : BitVec 128} {q : QmRun} (h : takesQm s cls w q = true) : s.QmTakes 0 cls w q := by
  simp only [takesQm, Bool.and_eq_true, decide_eq_true_eq, Bool.not_eq_true'] at h
  exact ⟨h.1.1.1.1.1.1, h.1.1.1.1.1.2, h.1.1.1.1.2, h.1.1.1.2, h.1.1.2, h.1.2, h.2⟩

/-- GOLDEN over 64 bytes from the start of bank 6. -/
def readBank6 : BitVec 128 := word 0xD [(96, 6 * bankSize / 64), (76, 1)]

theorem test_stream_hypotheses :
    (∀ w ∈ readBank6 :: streamWords, (streaming w aRun).QmTakes 0 (seqClass w) w (aQm [(0, [w])] aRun)) ∧
    (streamWords ++ [readBank6]).map seqClass = [1, 2, 3, 4, 5, 6, 7, 8, 9, 0xA, 0xB, 0xD] ∧
    (∀ w ∈ streamWords, seqAllowedQm 0xFF#8 [] 0 w = true) ∧
    (streaming (word 0 []) aRun).QmTakes 0 0 (word 0 []) (aQm [(0, [word 0 []])] aRun) ∧
    seqClass (word 0xE []) = 0xE ∧ (streaming (word 0 []) aRun).cpx.cap = none := by
  have h : ∀ w ∈ readBank6 :: streamWords, takesQm (streaming w aRun) (seqClass w) w (aQm [(0, [w])] aRun) = true :=
    forall_of (by decide +kernel)
  exact ⟨fun w m => takesQm_of (h w m), by decide +kernel, forall_of (by decide +kernel), takesQm_of (by decide +kernel), by decide +kernel⟩

/-- A POST completes; a DMA_OUT from bank 6 waits while that bank's domain is switching on (R137). -/
theorem test_stream_outcomes :
    (let s := streaming (word 0xB [(98, 0x1000), (82, 1)]) aRun
     let x := { s.cxQm (aQm [(0, [word 0xB [(98, 0x1000), (82, 1)]])] aRun) with cls := 0xB }
     x.wait = false ∧ x.run.status = none) ∧
    (let w := word 8 [(96, 6 * bankSize / 64), (20, 0xFFFFF), (0, 1)]
     let s := (streaming w aRun).onPwr fun p => { p with domains := BitVec.allOnes 64 &&& ~~~8#64, rising := 8#64 }
     takesQm s 8 w (aQm [(0, [w])] aRun) = true ∧ (runDmaOut 0 (fun _ _ _ => none) w { s.cxQm (aQm [(0, [w])] aRun) with cls := 8 }).x.wait = true) := by
  decide +kernel

/-- A contract with a ring of one slot, from core 1 to core 0, at the start of bank 6 of core 0. -/
def ringed (stream : List (BitVec 128)) : Contract :=
  { tiny stream with rings := [{ kind := 0, producer := 1, consumer := 0, cls := 1, slotCount := 1, deviceRing := 0, slotSize := 64,
                                 buffer := 0, bufferOffset := 0, fills := 1 }] }

/-- Its frame program runs; the ring's slot is full or empty. -/
def framing (w : BitVec 128) (full : Bool) : State :=
  ((armed []).onCtr fun c => { c with
    armed := some (ringed [w])
    prog := { c.prog with running := true, rings := [{ full := [full], nextFill := 0, nextRel := 0, bound := none }] } }).onFab fun f =>
      { f with cores := f.cores.map fun k => { k with halted := false } }

/-- The step of that contract. -/
def aStep : StepEntry := { id := 0, unit := 0, kind := 0, tileCount := 2, firstTile := 0, streamOffset := 0 }

/-- `State.FrameTakes` as a test, on core 0. -/
def takesFrame (s : State) (cls : Nat) (w : BitVec 128) (a : Contract) (e : StepEntry) : Bool :=
  s.pins.rstN && decide (seqClass w = cls) && decide (s.cpx.qm = none) && decide (s.ctr.armed = some a) && s.ctr.prog.running &&
    (s.fab.cores.get 0).free (s.fab.cores.get 0).run.waiting 0 && decide (a.instrAt 0 (s.fab.cores.get 0).csq = some w) &&
    decide (a.stepOf 0 (s.fab.cores.get 0).csq = some e) && s.unitReady (.mxc 0)

theorem takesFrame_of {s : State} {cls : Nat} {w : BitVec 128} {a : Contract} {e : StepEntry} (h : takesFrame s cls w a e = true) :
    s.FrameTakes 0 cls w a e := by
  simp only [takesFrame, Bool.and_eq_true, decide_eq_true_eq] at h
  exact ⟨h.1.1.1.1.1.1.1.1, h.1.1.1.1.1.1.1.2, h.1.1.1.1.1.1.2, h.1.1.1.1.1.2, h.1.1.1.1.2, h.1.1.1.2, h.1.1.2, h.1.2, Or.inr h.2⟩

/-- The accesses of a word on core 0 before its first instruction. -/
def accessesOf (s : State) (w : BitVec 128) : List Acc :=
  let x := s.frameCx 0 aStep w
  seqAcc x.rd 0 (x.core 0) (fun wr g o => (ringed [w]).ringAt s.ctr.prog wr g o) w

theorem test_frame_instruction_hypotheses :
    (∀ w ∈ streamWords, (framing w true).FrameTakes 0 (seqClass w) w (ringed [w]) aStep ∧
      (framing w true).ringsReady (ringed [w]) 0 (accessesOf (framing w true) w) = true) ∧
    ((framing readBank6 true).FrameTakes 0 0xD readBank6 (ringed [readBank6]) aStep ∧
      (framing readBank6 true).ringsReady (ringed [readBank6]) 0 (accessesOf (framing readBank6 true) readBank6) = true) ∧
    ((framing readBank6 false).FrameTakes 0 0xD readBank6 (ringed [readBank6]) aStep ∧
      (framing readBank6 false).ringsReady (ringed [readBank6]) 0 (accessesOf (framing readBank6 false) readBank6) = false) ∧
    ((framing (word 0 []) true).FrameTakes 0 0 (word 0 []) (ringed [word 0 []]) aStep ∧
      ((framing (word 0 []) true).fab.cores.get 0).run.active = false) ∧
    ((framing (word 0xE []) true).FrameTakes 0 0xE (word 0xE []) (ringed [word 0xE []]) aStep ∧
      (framing (word 0xE []) true).evr.coppiceStep ≠ some ((framing (word 0xE []) true).frameCx 0 aStep (word 0xE [])).run.ident ∧
      ((framing (word 0xE []) true).frameCx 0 aStep (word 0xE [])).run.ident = 0) := by
  have h : ∀ w ∈ streamWords, takesFrame (framing w true) (seqClass w) w (ringed [w]) aStep = true ∧
      (framing w true).ringsReady (ringed [w]) 0 (accessesOf (framing w true) w) = true := forall_of (by decide +kernel)
  exact ⟨fun w m => ⟨takesFrame_of (h w m).1, (h w m).2⟩, ⟨takesFrame_of (by decide +kernel), by decide +kernel⟩,
    ⟨takesFrame_of (by decide +kernel), by decide +kernel⟩, ⟨takesFrame_of (by decide +kernel), by decide +kernel⟩,
    takesFrame_of (by decide +kernel), by decide +kernel⟩

/-- A scalar segment is under way on core 0. -/
def scalar (s : State) : State := s.onFab fun f => { f with cores := f.cores.map fun k => { k with su := { k.su with active := true } } }

theorem test_custom_hypotheses :
    ((scalar (streaming 0 aRun)).fab.cores.get 0).su.active = true ∧ (scalar (streaming 0 aRun)).cpx.qm = some (aQm [(0, [0])] aRun) ∧
    ((scalar (framing 0 true)).fab.cores.get 0).su.active = true ∧ (scalar (framing 0 true)).cpx.qm = none :=
  ⟨by decide +kernel, rfl, by decide +kernel, by decide +kernel⟩

/-- A run that waits on core 0 at a semaphore. -/
def waitingRun : Run := { aRun with waiting := [(0, 0x1000, 1)] }

theorem test_wait_hypotheses :
    (let s := (streaming 0 waitingRun).onFab fun f => { f with sems := [(0x1000, 2)], waiters := [(0x1000, 0), (0x1000, 1)] }
     s.cpx.qm = some (aQm [(0, [0])] waitingRun) ∧ waitingRun.status = none ∧
      waitingRun.waiting.find? (fun p => p.1 = 0) = some (0, 0x1000, 1) ∧ (∀ p ∈ waitingRun.posts, p.1 ≠ 0x1000) ∧
      s.fab.firstWaiter 0x1000 = some 0 ∧ 1 ≤ s.fab.sem 0x1000) ∧
    (let s := (framing 0 true).onFab fun f => { f with
       sems := [(0x1000, 2)], waiters := [(0x1000, 1), (0x1000, 0)], cores := f.cores.map fun k => { k with run := waitingRun } }
     s.cpx.qm = none ∧ (s.fab.cores.get 0).run = waitingRun ∧ s.fab.firstWaiter 0x1000 ≠ some 0) := by decide +kernel

/-- An ACTIVATION record of four FP32 elements (Tables 7.1, 7.2): input at 0x8001000, output at an address. -/
def aRecord (out : Nat) : List Byte :=
  block 176 [(0, 0x21), (2, 1), (3, 2), (4, 16), (32, 0x8001000), (32 + 0xB, 1), (32 + 0x10, ones64), (32 + 0x18, 4),
    (96, out), (96 + 0xB, 1), (96 + 0x10, ones64), (96 + 0x18, 4)]

/-- RUN_OP of the record at 0x8000100, with its contract at 0x8000000. -/
def runPacketOp : Packet := jobPacket 0x31 0 [(0x10, 0x8000000), (0x18, 0x8000100)]

/-- A RUNNING job at that command, the record in place and every unit settled. -/
def atRunOp : State :=
  ((withJob (aJob [runPacketOp])).putDram 0x8000100 (aRecord 0x8002000)).onPwr fun p =>
    { p with units := p.units.map fun u => { u with settled := true } }

/-- The record that such a command names. -/
def recordOf (s : State) : OpRec := readRec (fun sp a n => leNat (s.fab.peeks sp a n)) .dram (runPacketOp.u 0x18 8)

/-- The record is valid, with its scale headers. -/
def recordOk (s : State) : Bool :=
  (recordOf s).ok false (fun _ _ _ => none) ((recordOf s).nmsLen (fun sp a n => leNat (s.fab.peeks sp a n)) (fun _ _ _ => none)) &&
    (recordOf s).hdrsOk (fun sp a n => leNat (s.fab.peeks sp a n)) fun _ _ => true

theorem test_run_op_hypotheses :
    (atRunOp.cpx.cap = none ∧ atRunOp.nextCmd 0x1001 = some (aJob [runPacketOp], runPacketOp) ∧ runPacketOp.opcode = 0x31 ∧
      atRunOp.cpx.cplRoom runPacketOp.ring = true ∧ atRunOp.gate (atRunOp.begun runPacketOp) = none ∧
      atRunOp.mss.inOne tagShared (runPacketOp.u 0x10 8) 64 = true ∧ atRunOp.mss.inOne tagShared (runPacketOp.u 0x18 8) 32 = true ∧
      atRunOp.mss.inOne tagShared (runPacketOp.u 0x18 8) (recordOf atRunOp).size = true) ∧
    (recordOk atRunOp = true ∧ atRunOp.cmdSettled ((opInfo (recordOf atRunOp).op).map fun k => k.unit) [] = true ∧
      atRunOp.canHold [0] [0] = true ∧ atRunOp.canHold [64] [] = false ∧ atRunOp.canHold [] [6] = false) ∧
    -- a stream of the command's core set, and one that it may not hold
    (let l : List (Nat × List (BitVec 128)) := [(0, [word 0xC []])]
     atRunOp.cmdSettled ((opInfo (recordOf atRunOp).op).map fun k => k.unit) l = true ∧
      (l.all fun p => p.2.all (seqAllowedQm atRunOp.cpx.qmCores [] (coreOf p.1))) = true ∧ (∀ p ∈ l, atRunOp.cpx.qmCores.getLsbD p.1 = true)) ∧
    (let l : List (Nat × List (BitVec 128)) := [(0, [word 0xD []])]
     atRunOp.cmdSettled ((opInfo (recordOf atRunOp).op).map fun k => k.unit) l = true ∧
      (l.all fun p => p.2.all (seqAllowedQm atRunOp.cpx.qmCores [] (coreOf p.1))) = false) := by decide +kernel

/-- A record of no operator is not valid (R158). -/
theorem test_bad_record :
    recordOk (atRunOp.putDram 0x8000100 (leBytes 2 0)) = false ∧
    (atRunOp.putDram 0x8000100 (leBytes 2 0)).cmdSettled ((opInfo (recordOf (atRunOp.putDram 0x8000100 (leBytes 2 0))).op).map fun k => k.unit) [] = true := by
  decide +kernel

/-- Totals of a record at 0x8003000 with two saturations in one element, and an amax. -/
def someTotals (amax : Word) : RecTotals :=
  { space := .dram, addr := 0x8003000, qNext := 0, used := true, amax := amax, sats := 2, unders := 0, nonZeros := 1, elements := 1,
    retryable := true }

/-- `State.QmAtCommit` as a test. -/
def atCommit (s : State) (q : QmRun) : Bool :=
  s.pins.rstN && decide (s.cpx.qm = some q) && q.run.active && s.cmdEnded q && decide (q.run.failed = none)

theorem atCommit_of {s : State} {q : QmRun} (h : atCommit s q = true) : s.QmAtCommit q := by
  simp only [atCommit, Bool.and_eq_true, decide_eq_true_eq] at h
  exact ⟨h.1.1.1.1, h.1.1.1.2, h.1.1.2, h.1.2, h.2⟩

/-- A command whose one instruction is COMMIT, and its state. -/
def commitQm (run : Run) : QmRun := aQm [(0, [word 0xC []])] run
def commitState (run : Run) : State := streaming (word 0xC []) run

theorem test_commit_hypotheses_qm :
    ((commitState aRun).QmAtCommit (commitQm aRun) ∧ (commitState aRun).gensOk aRun = true ∧
      ((commitState aRun).cxQm (commitQm aRun)).retryScales = [] ∧ (commitState aRun).cpx.kills = [] ∧ (commitState aRun).cpx.cap = none) ∧
    (∀ b, let r := { aRun with gens := [(0x8000000, 2#64)], genReplay := b }
      (commitState r).QmAtCommit (commitQm r) ∧ (commitState r).gensOk r = false) ∧
    (let r := { aRun with recs := [someTotals 0x7F800000#32] }
     (commitState r).QmAtCommit (commitQm r) ∧ (commitState r).gensOk r = true ∧ ∃ t ∈ r.recs, t.peak.isFin = false) ∧
    (let r := { aRun with recs := [someTotals 0x3F800000#32] }
     let s := (commitState r).putDram 0x8003000 (block 16 [(0xB, 1)])
     s.QmAtCommit (commitQm r) ∧ s.gensOk r = true ∧ (∀ t ∈ r.recs, t.peak.isFin = true) ∧ (s.cxQm (commitQm r)).retryScales ≠ []) := by
  refine ⟨⟨atCommit_of (by decide +kernel), by decide +kernel⟩, fun b => ?_, ⟨atCommit_of (by decide +kernel), by decide +kernel⟩,
    atCommit_of (by decide +kernel), by decide +kernel⟩
  cases b <;> exact ⟨atCommit_of (by decide +kernel), by decide +kernel⟩

/-- The frame program is at core 0's COMMIT, with the totals of its run. -/
def atCoreCommit (recs : List RecTotals) : State :=
  ((framing (word 0xC []) true).onFab fun f =>
    { f with cores := f.cores.map fun k => { k with run := { Run.start 0 0 0 [] with recs := recs } } }).putDram 0x8003000 (block 16 [(0xB, 1)])

/-- The run of that step after its golden check. -/
def coreCheck (recs : List RecTotals) : Cx :=
  ({ (atCoreCommit recs).cx { Run.start 0 0 0 [] with recs := recs } with cls := 0xC }).goldenCheck (ringed [word 0xC []]) aStep 0

theorem test_commit_hypotheses_core :
    (atCoreCommit []).ctr.armed = some (ringed [word 0xC []]) ∧
    (ringed [word 0xC []]).stepOf 0 ((atCoreCommit []).fab.cores.get 0).csq = some aStep ∧ (atCoreCommit []).ctr.prog.running = true ∧
    (atCoreCommit []).coreAtCommit (ringed [word 0xC []]) 0 = true ∧ ((atCoreCommit []).fab.cores.get 0).run = Run.start 0 0 0 [] ∧
    (coreCheck []).run.failed = none ∧ (coreCheck []).retryScales = [] ∧
    (coreCheck [someTotals 0x3F800000#32]).run.failed = none ∧ (coreCheck [someTotals 0x3F800000#32]).retryScales ≠ [] := by decide +kernel

/-- A contract whose one step runs on an engine, with one record of 176 bytes at 0x8000100 and a ring at 0x8002000. -/
def onEngine (unit kind : Nat) (isStep isEnd : Bool) : Contract :=
  { tiny [] with
    imageAddr := 0x8000000
    steps := [{ aStep with unit := unit, kind := kind }]
    rings := [{ kind := 0, producer := unit, consumer := 0, cls := 1, slotCount := 1, deviceRing := 0, slotSize := 64, buffer := 0,
                bufferOffset := 0, fills := 1 }]
    buffers := [{ kind := 2, location := 0, cls := 1, access := 0, owner := 0, offset := 0x8002000, size := 64, init := 0 }]
    programs := [(unit, [{ off := 0x100, size := 176, isStep := isStep, isEnd := isEnd }])] }

/-- The frame program runs on that contract with bytes at 0x8000100; the ring's slot is full or empty. -/
def engineState (a : Contract) (full : Bool) (b : List Byte) : State :=
  (((armed []).onCtr fun c => { c with
    armed := some a
    prog := { c.prog with running := true, rings := [{ full := [full], nextFill := 0, nextRel := 0, bound := none }] } }).onFab fun f =>
      { f with engines := f.engines.map fun k => { k with halted := false } }).putDram 0x8000100 b

/-- The accesses of the record in place on the warp engine. -/
def recordAccesses (a : Contract) (s : State) : List Acc :=
  let x := s.cx (s.engineRun .wre { aStep with unit := 0x10 })
  let r := readRec x.rd .dram 0x8000100
  r.allAccs x.rd fun wr i o => a.ringAt s.ctr.prog wr i o

/-- The operator codes of Table 7.5. -/
def operatorCodes : List Nat :=
  [0x01, 0x02, 0x03, 0x04, 0x10, 0x20, 0x21, 0x22, 0x23, 0x24, 0x30, 0x31, 0x32, 0x40, 0x41, 0x42, 0x43, 0x50, 0x51, 0x52, 0x60, 0x61, 0x62,
   0x70, 0x71, 0x72, 0x73, 0x74]

theorem test_operator_hypotheses :
    (∀ op ∈ operatorCodes,
      (let q := { aQm [] aRun with pkt := { runPacketOp with started := some 0 } }
       let s := (((withQm [] aRun).onCpx fun c => { c with qm := some q }).onPwr fun p => { p with domains := BitVec.allOnes 64 }).putDram
         0x8000100 (leBytes 2 op)
       s.cpx.qm = some q ∧ q.streams = [] ∧ q.run.done = false ∧ q.pkt.u 0x18 8 = 0x8000100 ∧ (s.commandRec q).op = op ∧
        (opInfo op).isSome = true ∧ ∀ d < 64, s.pwr.usable.getLsbD d = true)) ∧
    (∀ op ∈ operatorCodes, ∀ kind ∈ [0, 2],
      (let a := onEngine 0x10 kind false false; let s := engineState a true (leBytes 2 op)
       ((s.engineNext .wre).map fun x => (x.1, x.2.2)) = some (a, { aStep with unit := 0x10, kind := kind }) ∧
        (readRec (s.cx (s.engineRun .wre { aStep with unit := 0x10 })).rd .dram 0x8000100).op = op ∧
        s.ringsReady a 0x10 (recordAccesses a s) = true)) ∧
    (let a := onEngine 0x10 0 false false; let s := engineState a true (aRecord 0x8002000)
     (s.engineNext .wre).isSome = true ∧ s.ringsReady a 0x10 (recordAccesses a s) = false) := by decide +kernel

/-- A gather of one row of four bytes into LPDDR5X at 0x8002000 (Table 6.7). -/
def aDescriptor : List Byte := block 32 [(2, 2), (4, 4), (6, 1), (0x18, 0x8002000)]

theorem test_gather_hypotheses :
    (∀ l ∈ [(false, true), (true, false), (false, false)],
      (let a := onEngine 0x11 0 l.1 l.2; let s := engineState a false aDescriptor
       (s.engineNext .gxe).map (fun x => (x.2.1.isStep, x.2.1.isEnd)) = some l)) ∧
    (∀ full : Bool, let a := onEngine 0x11 0 false false; let s := engineState a full aDescriptor
      let x := s.cx (s.engineRun .gxe { aStep with unit := 0x11 })
      s.ringsReady a (unitCode (.eng .gxe)) ((readDescriptor x.rd 0x8000100).acc x.rd) = !full) ∧
    ((engineState (onEngine 0x11 2 false false) false aDescriptor).engineNext .gxe).map (fun x => x.2.2.kind) = some 2 := by decide +kernel

theorem test_commit_hypotheses_engine :
    (let a := onEngine 0x10 0 true false
     let s := (engineState a true []).onFab fun f => { f with engines := f.engines.map fun k =>
       { k with run := { Run.start 0 0 0 [] with done := true } } }
     s.ctr.armed = some a ∧ (s.fab.engine .wre).run.active = true ∧ (s.fab.engine .wre).run.done = true ∧
      a.steps.find? (fun e => e.id = (s.fab.engine .wre).run.ident && decide (e.unit = unitCode (.eng .wre))) = some { aStep with unit := 0x10 } ∧
      (s.cx (s.fab.engine .wre).run).retryScales = []) := by decide +kernel

/-! ### Frames over many commands: witnesses of the hypotheses -/

theorem test_spare_hypotheses : sparesFabric (.timeConfig 0) = true ∧ (∃ t, exec (.timeConfig 0) ready = .next t) ∧
    sparesFabric .ckcAlive = true ∧ (∃ t, exec .ckcAlive ready = .next t) ∧ sparesFabric .launch = false :=
  ⟨rfl, ⟨_, rfl⟩, rfl, ⟨_, rfl⟩, rfl⟩

/-! ### Ill-formed operands are refused -/

theorem test_wf_host :
    (Instr.doorbell 4095 4095 32 (some 0)).wf = true ∧ (Instr.doorbell 4096 0 32 none).wf = false ∧ (Instr.doorbell 0 4096 32 none).wf = false ∧
    (Instr.doorbell 0 0 24 (some 0)).wf = false ∧ (Instr.hello 0xFFFFF).wf = true ∧ (Instr.hello 0x100000).wf = false ∧
    (Instr.loadContract 1 true (some 311)).wf = true ∧ (Instr.loadContract 1 true (some 312)).wf = false ∧
    (Instr.runOp 1 [(7, [])] [63] [5]).wf = true ∧ (Instr.runOp 1 [(8, [])] [] []).wf = false ∧ (Instr.runOp 1 [] [64] []).wf = false ∧
    (Instr.runOp 1 [] [] [6]).wf = false ∧
    (Instr.updateData 1 (List.replicate 64 0)).wf = true ∧ (Instr.updateData 1 [0]).wf = false ∧
    (Instr.offReady [{ unitCode := 255, sub := 0, row := 0, graft := false, column := false }] none).wf = true ∧
    (Instr.offReady [{ unitCode := 256, sub := 0, row := 0, graft := false, column := false }] none).wf = false ∧
    (Instr.diagRunComplete [] [{ unitCode := 0, sub := 256, row := 0, graft := false, column := false }]).wf = false ∧
    (Instr.endOfStart false 8533 false [{ unitCode := 0, sub := 0, row := 65536, graft := false, column := false }] none).wf = false ∧
    (Instr.endOfStart false 7500 false [] none).wf = true ∧ (Instr.endOfStart false 8000 false [] none).wf = false := by decide +kernel

/-- An instruction word belongs to the row of its class, and to no other. -/
theorem test_wf_class : (List.range 15).map (fun k => [Instr.halt 0 (word k []), .loadw 0 (word k []), .mma 0 (word k []), .conv 0 (word k []),
      .drain 0 (word k []), .vop 0 (word k []), .scalar 0 (word k []), .dmaIn 0 (word k []), .dmaOut 0 (word k []), .gather 0 (word k []),
      .wait 0 (word k []), .post 0 (word k []), .golden 0 (word k []), .coppice 0 (word k []) true none false].countP Instr.wf) =
    [1, 1, 1, 1, 1, 1, 1, 1, 1, 1, 1, 1, 0, 1, 1] := by decide +kernel

theorem test_wf_events :
    (Instr.voterTransaction 0 4 0xFFFFFFFFFFFF ⟨0, 0⟩ 0 false).wf = true ∧ (Instr.voterTransaction 0 5 0 ⟨0, 0⟩ 0 false).wf = false ∧
    (Instr.voterTransaction 0 0 0x1000000000000 ⟨0, 0⟩ 0 false).wf = false ∧
    (Instr.longPacket 0 0 0x3F .good true []).wf = true ∧ (Instr.longPacket 0 0 0x40 .good true []).wf = false ∧
    (Instr.lidarDatagram 0 ⟨ethFrame, true⟩ 0).wf = true ∧ (Instr.sentinelFlag .emt ⟨7, true⟩).wf = true ∧ (Instr.sentinelFlag .emt ⟨8, true⟩).wf = false ∧
    (Instr.patrolScrub 0 (.uncorrectable 16 0)).wf = false ∧ (Instr.eccWriteBack (.failed 32)).wf = false ∧ (Instr.i2cClockStretchTimeout 0 1 [0]).wf = true ∧
    (Instr.i2cClockStretchTimeout 0 0 [0]).wf = false ∧ (Instr.cciOperationComplete 0 0 [0]).wf = false ∧
    (Instr.commit .qm (List.replicate 17 (-65535)) (List.replicate 17 0)).wf = true ∧ (Instr.commit .qm [] (List.replicate 17 0)).wf = false ∧
    (Instr.commit .qm (List.replicate 17 0) (List.replicate 17 65536)).wf = false ∧ (Instr.domainOff 49).wf = true ∧ [Instr.domainOff 50, .domainOn 50, .powerGateOpen 50, .domainSwitchComplete 50].all (fun i => !i.wf) = true ∧
    (Instr.rateTarget 65536).wf = false ∧ (Instr.rateMonitorWindow (List.replicate 17 0)).wf = true ∧ (Instr.rateMonitorWindow []).wf = false ∧
    (Instr.monitorSample (List.replicate 32 0) (List.replicate 24 0)).wf = true ∧ (Instr.monitorSample [] (List.replicate 24 0)).wf = false ∧
    (Instr.monitorSample (List.replicate 32 0) []).wf = false ∧ (Instr.rstNRelease 3#2 true).wf = true := by decide +kernel

theorem test_wf_registers :
    (Instr.bar4Access 0x3FFFFFC0 none 64).wf = true ∧ (Instr.bar4Access 0x3FFFFFC1 none 64).wf = false ∧
    (Instr.bar4Access 0 (some [0]) 1).wf = true ∧ (Instr.bar4Access 0 (some [0]) 2).wf = false ∧
    (Instr.registerWrite 65535 8 0).wf = true ∧ (Instr.registerWrite 65536 8 0).wf = false ∧ (Instr.registerWrite 0 12 0).wf = false ∧
    (Instr.tokenRefill 65535).wf = true ∧ (Instr.tokenRefill 65536).wf = false ∧
    (Instr.pcieLinkUp 4 4).wf = true ∧ (Instr.pcieLinkUp 0 4).wf = false ∧ (Instr.pcieLinkUp 5 4).wf = false ∧ (Instr.pcieLinkUp 4 3).wf = false ∧
    (Instr.discoverComplete nothingSeen).wf = true ∧ (Instr.discoverComplete { nothingSeen with lenStatus := [] }).wf = false ∧
    (Instr.discoverComplete { nothingSeen with partner := [] }).wf = false ∧ (Instr.discoverComplete { nothingSeen with i2cAcks := [512] }).wf = false ∧
    (Instr.discoverComplete { nothingSeen with cameras := [SeenCamera.mk 8 0 0 0 0 0 0 0 0 0] }).wf = false := by decide +kernel

/-- The table gives its rows no bits. -/
theorem test_no_bits (n w : Nat) : decodeTableWord n w = none ∧ ready.withFetchWord n w = ready := ⟨rfl, rfl⟩

/-! ### A contract image that passes every check -/

/-- An image of format 3 at 0x8000000, written out from Tables 3.1 to 3.6: 37,024 bytes, of which these are not zero. One core runs a
golden step (GOLDEN, VOP ADDI, COMMIT) and a step that sends 64 tiles with one DMA_OUT; the checker's model has one layer. -/
def contractImage : Memory :=
  [(0x8000000, 0x4B#8), (0x8000001, 0x4D#8), (0x8000002, 0x43#8), (0x8000003, 0x54#8), (0x8000004, 0x3#8), (0x8000007, 0x1#8),
   (0x8000008, 0x80#8), (0x8000009, 0x8#8), (0x800000A, 0xA1#8), (0x800000B, 0x1#8), (0x800000C, 0xF8#8), (0x800000D, 0x2#8),
   (0x800000E, 0x10#8), (0x800000F, 0x1#8), (0x8000010, 0x8#8), (0x8000011, 0x9F#8), (0x8000012, 0xFC#8), (0x8000013, 0x1#8),
   (0x8000015, 0xE2#8), (0x8000016, 0x4#8), (0x8000018, 0x8#8), (0x800001A, 0x8#8), (0x800001C, 0xFA#8), (0x8000020, 0x2#8), (0x8000024,
   0x1#8), (0x800002C, 0xA0#8), (0x800002D, 0x90#8), (0x8000030, 0x34#8), (0x8000031, 0x12#8), (0x8000038, 0x9#8), (0x8000100, 0x1#8),
   (0x8000104, 0xC0#8), (0x8000105, 0x1#8), (0x8000108, 0x64#8), (0x800010C, 0x1#8), (0x8000110, 0x3#8), (0x8000114, 0x40#8),
   (0x8000115, 0x2#8), (0x8000118, 0x20#8), (0x800011C, 0x1#8), (0x8000120, 0x4#8), (0x8000124, 0x80#8), (0x8000125, 0x2#8), (0x8000128,
   0x80#8), (0x800012C, 0x4#8), (0x8000130, 0x5#8), (0x8000135, 0x3#8), (0x8000138, 0x20#8), (0x800013C, 0x2#8), (0x8000140, 0x6#8),
   (0x8000144, 0x40#8), (0x8000145, 0x3#8), (0x8000148, 0x20#8), (0x800014C, 0x1#8), (0x8000150, 0x7#8), (0x8000154, 0x80#8),
   (0x8000155, 0x3#8), (0x8000158, 0x10#8), (0x800015C, 0x2#8), (0x8000160, 0x9#8), (0x8000164, 0xC0#8), (0x8000165, 0x3#8), (0x8000169,
   0x10#8), (0x8000170, 0xA#8)] ++
  [(0x8000174, 0xC0#8), (0x8000175, 0x13#8), (0x8000179, 0x8#8), (0x8000180, 0xF#8), (0x8000184, 0xC0#8), (0x8000185, 0x1B#8),
   (0x8000188, 0xE0#8), (0x8000189, 0x74#8), (0x80001C0, 0x6#8), (0x80001CE, 0x1#8), (0x80001D2, 0x1#8), (0x80001D3, 0xD0#8),
   (0x80001D9, 0x1#8), (0x80001DC, 0xD0#8), (0x80001DD, 0xFF#8), (0x80001DE, 0xFF#8), (0x80001E0, 0x80#8), (0x80001E1, 0x24#8),
   (0x80001E3, 0x50#8), (0x80001F3, 0xC0#8), (0x80001F5, 0x1#8), (0x8000203, 0x80#8), (0x8000213, 0xC0#8), (0x8000240, 0x3#8),
   (0x8000242, 0x1F#8), (0x8000243, 0x1#8), (0x8000280, 0x1#8), (0x8000282, 0x1#8), (0x8000283, 0x3#8), (0x8000284, 0xFF#8), (0x8000291,
   0x80#8), (0x8000298, 0xFF#8), (0x8000299, 0xFF#8), (0x800029A, 0xFF#8), (0x800029B, 0xFF#8), (0x80002A2, 0x1#8), (0x80002A3, 0x3#8),
   (0x80002B2, 0x1#8), (0x80002B8, 0xFF#8), (0x80002B9, 0xFF#8), (0x80002BA, 0xFF#8), (0x80002BB, 0xFF#8), (0x80002C1, 0x1#8),
   (0x80002C2, 0x1#8), (0x80002C3, 0x3#8), (0x80002D1, 0x8#8), (0x80002E1, 0x2#8), (0x80002E2, 0x1#8), (0x80002E3, 0x3#8), (0x80002F2,
   0x1#8), (0x80002F8, 0xFF#8), (0x80002F9, 0xFF#8), (0x80002FA, 0xFF#8), (0x80002FB, 0xFF#8), (0x8000305, 0x1#8), (0x8000310, 0x1#8),
   (0x8000316, 0x40#8), (0x800031C, 0x3#8), (0x800034D, 0x4#8), (0x8000350, 0x1#8), (0x8000354, 0x1#8), (0x8000380, 0xD8#8), (0x8000381,
   0xE#8), (0x8000384, 0xD8#8)] ++
  [(0x8000385, 0xE#8), (0x8000388, 0xC0#8), (0x8000389, 0x51#8), (0x800038A, 0x2#8), (0x800038C, 0x98#8), (0x800038D, 0x60#8),
   (0x800038E, 0x2#8), (0x80003C0, 0x43#8), (0x80003C1, 0x4D#8), (0x80003C2, 0x44#8), (0x80003C3, 0x4C#8), (0x80003C4, 0x1#8),
   (0x80003C9, 0x10#8), (0x80003CC, 0x80#8), (0x80003D0, 0x80#8), (0x80003D4, 0x80#8), (0x80003D9, 0x4#8), (0x80003DD, 0x8#8),
   (0x80003E0, 0x64#8), (0x80003E4, 0x64#8), (0x80003E8, 0x64#8), (0x80003EE, 0x1#8), (0x80003EF, 0x1#8), (0x80003F0, 0x1#8),
   (0x80003F2, 0x1#8), (0x80003F3, 0x1#8), (0x80003F4, 0x1#8), (0x80003F6, 0x1#8), (0x80003F8, 0x1#8), (0x80003F9, 0x1#8), (0x80003FA,
   0x1#8), (0x80003FC, 0x9C#8), (0x80003FD, 0xFF#8), (0x80003FE, 0x64#8), (0x8000408, 0x20#8), (0x8000409, 0x4E#8), (0x8000440, 0x1#8),
   (0x8000442, 0x4#8), (0x8000444, 0x3#8), (0x8000445, 0x1#8), (0x8000446, 0x9#8), (0x8000447, 0x1#8), (0x8000448, 0xB8#8), (0x8000449,
   0xB#8), (0x800044C, 0x7F#8), (0x8000452, 0x80#8), (0x8000453, 0x3F#8), (0x8000454, 0xFF#8), (0x8000455, 0xFF#8), (0x8000456, 0xFF#8),
   (0x8000457, 0xFF#8)]

/-- LOAD_CONTRACT of that image. -/
def loadPacket : Packet := packet 0x20 [(0x10, 0x8000000), (0x18, 37024)]

/-- The image in HOST_SHARED, and the packet waiting. -/
def loadState : State := (keyed.onFab fun f => { f with dram := contractImage }).waits loadPacket

/-- The image as parsed. -/
def theDraft : Draft := parseImage fun a n => loadState.dramLe (0x8000000 + a) n

/-- Check 1 finds a place when one range of places is free. -/
theorem check1_of {s : State} {d : Draft} {z a n b : Nat} (h0 : imgReadable d.img z = true) (h1 : s.ctr.armPending.isSome = false)
    (h2 : ((d.seenRanges z).any fun x => s.occupied.any fun o => rangesMeet x o) = false)
    (h3 : s.imagePlaces (s.occupied ++ d.seenRanges z) d.con.hdr.imageSize = [(a, n)]) (hn : 0 < n)
    (h4 : s.ringRange d.con.hdr.ringCount = some b) : ∃ p, s.check1 d z = some (p, b) := by
  refine ⟨a + 64 * (s.freeWord.toNat % n), ?_⟩
  have m : max 1 n = n := by omega
  simp [State.check1, h0, h1, h2, h3, h4, placeAt, m, Nat.mod_lt _ hn]

theorem image_checks_hdr : check2 theDraft.img 37024 = none ∧ check3 theDraft.con.hdr 4 = none ∧ check5 theDraft.img = none ∧
    check6 theDraft.con.hdr loadState.bumpFree.sec.floor = none ∧ check7 theDraft.img theDraft.con.hdr = none := by decide +kernel

theorem image_check4 : loadState.bumpFree.check4 theDraft true = none := by
  have h : imgBytes theDraft.img (theDraft.con.sigOff + 64) 64 = List.replicate 64 0 ∧ theDraft.img theDraft.con.sigOff 1 = 0 := by decide +kernel
  have k : loadState.bumpFree.sec.slotOk 0 (List.replicate 64 0) = true := keyed_slot
  show need (loadState.bumpFree.sec.slotOk (theDraft.img theDraft.con.sigOff 1) (imgBytes theDraft.img (theDraft.con.sigOff + 64) 64) && true) _ = none
  rw [h.1, h.2, k]; rfl

theorem image_check8 : theDraft.check8 = none := by decide +kernel

theorem image_checks_flow : theDraft.check9 loadState.bumpFree.sen.ringUnits theDraft.flows = none ∧ theDraft.check10 theDraft.flows = none ∧
    theDraft.check11 theDraft.flows = none ∧ theDraft.check12 loadState.bumpFree.mss loadState.bumpFree.qmBanks loadState.bumpFree.qmSegs = none ∧
    theDraft.check14 theDraft.flows = none ∧ theDraft.check15 theDraft.flows = none ∧ theDraft.check16 theDraft.flows = none := by decide +kernel

theorem image_check17 : theDraft.check17 = none := by decide +kernel
theorem image_check18 : theDraft.check18 = none := by decide +kernel

/-- All checks passing one by one is the load passing. -/
theorem loadChecks_none {s : State} {d : Draft} {z n : Nat} {ok : Bool} (h2 : check2 d.img z = none) (h3 : check3 d.con.hdr n = none)
    (h4 : s.check4 d ok = none) (h5 : check5 d.img = none) (h6 : check6 d.con.hdr s.sec.floor = none) (h7 : check7 d.img d.con.hdr = none)
    (h8 : d.check8 = none) (h9 : d.check9 s.sen.ringUnits d.flows = none) (h10 : d.check10 d.flows = none) (h11 : d.check11 d.flows = none)
    (h12 : d.check12 s.mss s.qmBanks s.qmSegs = none) (h14 : d.check14 d.flows = none) (h15 : d.check15 d.flows = none)
    (h16 : d.check16 d.flows = none) (h17 : d.check17 = none) (h18 : d.check18 = none) : s.loadChecks d z n ok = none := by
  simp [State.loadChecks, h2, h3, h4, h5, h6, h7, h8, h9, h10, h11, h12, h14, h15, h16, h17, h18]

theorem test_load_contract_hypotheses :
    loadState.Canonical ∧ loadState.Starts adminCmd 0x20 loadPacket ∧ loadState.pwr.state = .ready ∧ loadState.sec.unlocked = false ∧
    loadState.mss.inOne tagShared (loadPacket.u 0x10 8) (loadPacket.u 0x18 4) = true ∧
    theDraft = parseImage (fun a n => loadState.dramLe (loadPacket.u 0x10 8 + a) n) ∧
    (∃ place base, loadState.check1 theDraft (loadPacket.u 0x18 4) = some (place, base)) ∧
    (4 = match loadState.cpx.client? loadPacket.client with
      | some c => (match c.versions with | some v => v.contract | none => 0)
      | none => 0) ∧
    loadState.bumpFree.loadChecks theDraft (loadPacket.u 0x18 4) 4 true = none := by
  have a : loadPacket.u 0x10 8 = 0x8000000 := by decide +kernel
  have z : loadPacket.u 0x18 4 = 37024 := by decide +kernel
  rw [a, z]
  refine ⟨⟨⟨by decide +kernel, by decide +kernel, by decide +kernel, by decide +kernel⟩,
      ⟨by decide +kernel, by decide +kernel, by decide +kernel⟩⟩, starts_of (by decide +kernel), by decide +kernel, by decide +kernel,
    by decide +kernel, rfl, ?_, by decide +kernel, ?_⟩
  · obtain ⟨p, h⟩ := check1_of (s := loadState) (d := theDraft) (z := 37024) (a := 0) (n := 1047998) (b := 0x1000) (by decide +kernel) (by decide +kernel) (by decide +kernel)
      (by decide +kernel) (by decide) (by decide +kernel)
    exact ⟨p, _, h⟩
  · obtain ⟨h2, h3, h5, h6, h7⟩ := image_checks_hdr
    obtain ⟨h9, h10, h11, h12, h14, h15, h16⟩ := image_checks_flow
    exact loadChecks_none h2 h3 image_check4 h5 h6 h7 image_check8 h9 h10 h11 h12 h14 h15 h16 image_check17 image_check18
/-! ### The ball map -/

/-- The rails have the ball counts of Table 19.5. -/
theorem test_ball_counts :
    [Ball.vddCore, .vddqDdr, .vddPhy, .vddaPhy, .vddIo, .vddaPll, .vss].map (fun b => ballCount (fun x => decide (x = b))) =
      [300, 64, 36, 12, 14, 2, 461] ∧ ballCount (fun _ => true) = 2236 := by decide +kernel

/-- Ball K32 is DDR13_CA3 (R445), AD16 carries no ball, and row 48 is BK (R444). -/
theorem test_ball_ddr : ballAt 10 32 = some (.signal "DDR13_CA3") ∧ ballAt 23 16 = none ∧ ([10, 23, 48].map rowName) = ["K", "AD", "BK"] := by
  decide +kernel

end Sys2Proof.Machine
end

section
/-! REFUTATION of the statement about BAR0. The words of SAF_FAULT_RECORD stand before those of the PWR registers in
`State.regs`, one for every four bytes of `Saf.faultRecord`. The part writes that record with 64 bytes (Table 18.1, R437), but the
statement speaks of every state, also of one whose record is so long that its words reach the offset of PWR_REQ_STATUS. -/

namespace Sys2Proof.Machine

/-- Every entry of `regBytes` is one of the list's whole words. -/
theorem mem_regBytes {off : Nat} {b : List Byte} {r : Nat × Nat} (h : r ∈ regBytes off b) :
    ∃ i, i < b.length / 4 ∧ r = (off + 4 * i, leAt b (4 * i) 4) := by
  simp only [regBytes, List.mem_map, List.mem_range] at h
  obtain ⟨i, hi, rfl⟩ := h
  exact ⟨i, hi, rfl⟩

/-- The entry that `regBytes` holds at the offset of word `i`. -/
theorem find?_regBytes (off i : Nat) (b : List Byte) :
    (regBytes off b).find? (fun r => r.1 = off + 4 * i) = if i < b.length / 4 then some (off + 4 * i, leAt b (4 * i) 4) else none := by
  split
  next h =>
    have first : ∀ j < i, j ≠ i := fun j hj => hj.ne
    simpa [regBytes, List.find?_map, List.find?_range_eq_some, h] using first
  next h =>
    refine List.find?_eq_none.mpr fun r hr => ?_
    obtain ⟨j, hj, rfl⟩ := mem_regBytes hr
    simp only [decide_eq_true_eq]
    omega

/-- Outside BOOT the word at 0x141C is PWR_REQ_STATUS, unless the fault record has a 248th word, which lies at the same offset. -/
theorem regRead_pwrReqStatus {s : State} (notBoot : s.pwr.state ≠ .boot) : s.regRead 0x141C =
    (if 247 < s.saf.faultRecord.length / 4 then leAt s.saf.faultRecord 988 4 else s.pwr.reqStatus) % 2 ^ 32 := by
  have word247 : (regBytes 0x1040 s.saf.faultRecord).find? (fun r => r.1 = 0x141C) =
      if 247 < s.saf.faultRecord.length / 4 then some (0x141C, leAt s.saf.faultRecord 988 4) else none :=
    find?_regBytes 0x1040 247 s.saf.faultRecord
  by_cases long : 247 < s.saf.faultRecord.length / 4 <;>
    simp [State.regRead, notBoot, State.regs, State.regsHost, State.regsTime, State.regsFrame, State.regsSafe, State.regsPower,
      reg64, word247, long]

/-- A part in READY with the link up and DONE set in PWR_REQ_STATUS, its fault record 248 zero words long. -/
def longRecordState : State :=
  { State.reset with
    pins := { Pins.reset with rstN := true }
    hif := { Hif.reset with linkUp := true }
    pwr := { Pwr.reset with state := .ready, done := true }
    saf := { Saf.reset with faultRecord := List.replicate 992 0 } }

/-- There the read of PWR_REQ_STATUS shows a zero word of the record. -/
theorem longRecordState_regRead : longRecordState.regRead 0x141C = 0 := by
  rw [regRead_pwrReqStatus (by decide)]
  decide +kernel

/-- The register itself has DONE set. -/
theorem longRecordState_reqStatus : longRecordState.pwr.reqStatus = 2 := by decide

/-- Refutes O56: in `longRecordState`, which meets the premises of the first clause, 0x141C reads 0 and PWR_REQ_STATUS holds 2.
With a fault record of 64 bytes, the only length that the part writes, that equation holds (`regRead_pwrReqStatus`); the
statement lacks this premise. -/
theorem not_bar0ReadsAndWrites : ¬ Obligations.Bar0ReadsAndWrites := by
  rintro ⟨reads, -⟩
  obtain ⟨-, -, -, -, word, -⟩ := reads longRecordState (by decide) (by decide)
  rw [longRecordState_regRead, longRecordState_reqStatus] at word
  exact absurd word (by decide)

end Sys2Proof.Machine
end

section
/-! SUPPORT. What most commands leave alone: one projection of the state, and one lemma per operation that keeps it. -/

namespace Sys2Proof.Machine

/-- What computes and what it computes from: the fabric, the contracts with the running program, the region table and the
firmware image. -/
def State.machinery (s : State) : Fab × Ctr × List Region × Option Memory := (s.fab, s.ctr, s.mss.regions, s.flash.image)

/-- A fold of operations that keep a projection keeps it. -/
theorem foldl_keeps {α β γ : Type} (proj : β → γ) {f : β → α → β} (h : ∀ b a, proj (f b a) = proj b) (l : List α) (b : β) :
    proj (l.foldl f b) = proj b := foldl_inv (fun t => proj t = proj b) rfl fun t a kept => (h t a).trans kept

/-! ### Updating one block -/

section
variable (s : State)

@[simp] theorem State.onTim_machinery (f : Tim → Tim) : (s.onTim f).machinery = s.machinery := rfl
@[simp] theorem State.onHif_machinery (f : Hif → Hif) : (s.onHif f).machinery = s.machinery := rfl
@[simp] theorem State.onCpx_machinery (f : Cpx → Cpx) : (s.onCpx f).machinery = s.machinery := rfl
@[simp] theorem State.onEmt_machinery (f : Emt → Emt) : (s.onEmt f).machinery = s.machinery := rfl
@[simp] theorem State.onCkc_machinery (f : Ckc → Ckc) : (s.onCkc f).machinery = s.machinery := rfl
@[simp] theorem State.onSaf_machinery (f : Saf → Saf) : (s.onSaf f).machinery = s.machinery := rfl
@[simp] theorem State.onPwr_machinery (f : Pwr → Pwr) : (s.onPwr f).machinery = s.machinery := rfl
@[simp] theorem State.onSec_machinery (f : Sec → Sec) : (s.onSec f).machinery = s.machinery := rfl
@[simp] theorem State.onEvr_machinery (f : Rec → Rec) : (s.onEvr f).machinery = s.machinery := rfl
@[simp] theorem State.onSen_machinery (f : Sen → Sen) : (s.onSen f).machinery = s.machinery := rfl
@[simp] theorem State.onPins_machinery (f : Pins → Pins) : (s.onPins f).machinery = s.machinery := rfl

@[simp] theorem State.onMss_machinery (f : Mss → Mss) (h : (f s.mss).regions = s.mss.regions) :
    (s.onMss f).machinery = s.machinery := by simp [State.machinery, h]

@[simp] theorem State.onFlash_machinery (f : Flash → Flash) (h : (f s.flash).image = s.flash.image) :
    (s.onFlash f).machinery = s.machinery := by simp [State.machinery, h]

@[simp] theorem State.ite_machinery {c : Prop} [Decidable c] (t : State) :
    (if c then s else t).machinery = if c then s.machinery else t.machinery := apply_ite State.machinery c s t

/-! ### Events, replies and the host interface -/

@[simp] theorem State.post_machinery (p : HostPost) : (s.post p).machinery = s.machinery := rfl
@[simp] theorem State.hostWrite_machinery (a : Nat) (b : List Byte) : (s.hostWrite a b).machinery = s.machinery := rfl
@[simp] theorem State.bumpFree_machinery : s.bumpFree.machinery = s.machinery := rfl
@[simp] theorem State.markStarted_machinery (pk : Packet) : (s.markStarted pk).machinery = s.machinery := rfl
@[simp] theorem State.countErr_machinery (row col n : Nat) : (s.countErr row col n).machinery = s.machinery := rfl
@[simp] theorem State.ckcInput_machinery (i : CkcInput) : (s.ckcInput i).machinery = s.machinery := rfl
@[simp] theorem State.advance_machinery (t : Nat) : (s.advance t).machinery = s.machinery := by simp [State.machinery]
@[simp] theorem State.message_machinery (v : Nat) : (s.message v).machinery = s.machinery := by simp [State.machinery]
@[simp] theorem State.raise_machinery (i : Nat) : (s.raise i).machinery = s.machinery := by simp [State.machinery]
@[simp] theorem State.note_machinery (c v u p q r : Nat) : (s.note c v u p q r).machinery = s.machinery := by simp [State.machinery]
@[simp] theorem State.noteInt_machinery (c v : Nat) (i : Int) : (s.noteInt c v i).machinery = s.machinery := by simp [State.machinery]
@[simp] theorem State.enter_machinery (d : DevState) : (s.enter d).machinery = s.machinery := by simp [State.machinery]
@[simp] theorem State.latch_machinery (c : Nat) : (s.latch c).machinery = s.machinery := by simp [State.machinery]
@[simp] theorem State.setCkcMode_machinery (m : CkcMode) (x : Nat) :
    (s.setCkcMode m x).machinery = s.machinery := by simp [State.machinery]
@[simp] theorem State.ringMessage_machinery (i : Nat) (more : Bool) :
    (s.ringMessage i more).machinery = s.machinery := by simp [State.machinery]
@[simp] theorem State.pushEntry_machinery (i : Nat) (more : Bool) (e : Nat → HostPost) :
    (s.pushEntry i more e).machinery = s.machinery := by
  simp [State.machinery]
@[simp] theorem State.writeReply_machinery (pk : Packet) (more : Bool) (r : Reply) :
    (s.writeReply pk more r).machinery = s.machinery := by
  simp [State.machinery]
@[simp] theorem State.replyBase_machinery (pk : Packet) (more : Bool) (st dt res waves ns : Nat) :
    (s.replyBase pk more st dt res waves ns).machinery = s.machinery := by simp [State.machinery]
@[simp] theorem State.settle_machinery : s.settle.machinery = s.machinery := by simp [State.machinery]
@[simp] theorem State.replyAll_machinery (pk : Packet) (st dt res waves ns : Nat) :
    (s.replyAll pk st dt res waves ns).machinery = s.machinery := by simp [State.machinery]
@[simp] theorem State.reply_machinery (pk : Packet) (st dt res : Nat) : (s.reply pk st dt res).machinery = s.machinery := by
  simp [State.machinery]
@[simp] theorem State.done_machinery (pk : Packet) (res : Nat) : (s.done pk res).machinery = s.machinery := by simp [State.machinery]
@[simp] theorem State.bad_machinery (pk : Packet) (off : Nat) : (s.bad pk off).machinery = s.machinery := by simp [State.machinery]
@[simp] theorem State.noRes_machinery (pk : Packet) (res : Nat) : (s.noRes pk res).machinery = s.machinery := by simp [State.machinery]
@[simp] theorem State.notReady_machinery (pk : Packet) : (s.notReady pk).machinery = s.machinery := by simp [State.notReady]

/-- A packet's command keeps the machinery when its body does. -/
theorem State.runPacket_machinery {body : Packet → State → State} (h : ∀ pk t, (body pk t).machinery = t.machinery)
    (ring op : Nat) : (s.runPacket ring op body).machinery = s.machinery := by
  unfold State.runPacket
  repeat' split
  all_goals simp [h]

@[simp] theorem State.drainOwed_machinery : s.drainOwed.machinery = s.machinery :=
  foldl_keeps State.machinery (fun t (o : OwedReply) => t.writeReply_machinery o.pkt false o.reply) _ _

@[simp] theorem State.badDoorbell_machinery (page ring : Nat) : (s.badDoorbell page ring).machinery = s.machinery := by
  simp [State.badDoorbell]

@[simp] theorem State.ringDoorbell_machinery (page offset width : Nat) (v : DWord) :
    (s.ringDoorbell page offset width v).machinery = s.machinery := by
  simp only [State.ringDoorbell]
  repeat' split
  all_goals simp

@[simp] theorem State.endFetched_machinery (j : Job) : (s.endFetched j).machinery = s.machinery := by
  unfold State.endFetched
  split <;> simp

@[simp] theorem State.enqueue_machinery (pk : Packet) : (s.enqueue pk).machinery = s.machinery := by
  unfold State.enqueue
  repeat' split
  all_goals simp

@[simp] theorem State.fetchPacket_machinery (r : Ring) (bits : BitVec 512) : (s.fetchPacket r bits).machinery = s.machinery := by
  simp [State.fetchPacket]

@[simp] theorem State.readFailed_machinery (ring : Nat) (header : BitVec 128) : (s.readFailed ring header).machinery = s.machinery := by
  unfold State.readFailed
  repeat' split
  all_goals simp

/-! ### The recorder, faults and authorisation -/

@[simp] theorem State.snapshot_machinery (cause : Nat) : (s.snapshot cause).machinery = s.machinery := by
  unfold State.snapshot
  split <;> simp

@[simp] theorem State.recordFault_machinery (f : FailReport) (c : FaultCtx) : (s.recordFault f c).machinery = s.machinery := by
  simp [State.recordFault]

@[simp] theorem State.faultNoUnit_machinery (f : FailReport) : (s.faultNoUnit f).machinery = s.machinery := by simp [State.faultNoUnit]

@[simp] theorem State.snapshotDone_machinery : s.snapshotDone.machinery = s.machinery := by
  simp only [State.snapshotDone]
  repeat' split
  all_goals simp

@[simp] theorem State.flushSnapshots_machinery : s.flushSnapshots.machinery = s.machinery := by simp [State.flushSnapshots]

@[simp] theorem State.clearLog_machinery (slot id : Nat) : (s.clearLog slot id).machinery = s.machinery := by
  simp only [State.clearLog, State.flushSnapshots_machinery, State.snapshot_machinery, State.onEvr_machinery, State.onFlash_machinery,
    State.note_machinery]

@[simp] theorem State.logPut_machinery (e : EventRec) : (s.logPut e).machinery = s.machinery := by simp [State.logPut]

@[simp] theorem State.logErase_machinery : s.logErase.machinery = s.machinery := by simp [State.logErase]

@[simp] theorem State.dropChallenge_machinery (p : Nat) : (s.dropChallenge p).machinery = s.machinery := rfl

@[simp] theorem State.examine_machinery (p size : Nat) (auth : List Byte) (sigOk : Bool) :
    (s.examine p size auth sigOk).2.machinery = s.machinery := by
  unfold State.examine
  split <;> simp

/-- An authorised command keeps the machinery when its body does. -/
theorem State.authorised_machinery {body : State → State} (h : ∀ t, (body t).machinery = t.machinery) (pk : Packet) (p : Nat)
    (auth : List Byte) (sigOk : Bool) : (s.authorised pk p auth sigOk body).machinery = s.machinery := by
  have examined := s.examine_machinery p (pk.u 0x18 4) auth sigOk
  unfold State.authorised
  split
  · simp
  · split <;> simp_all

@[simp] theorem State.setLimit_machinery (cls v : Nat) : (s.setLimit cls v).machinery = s.machinery := by
  unfold State.setLimit
  split <;> simp

/-! ### The checker, the emitter and the safety SPI -/

@[simp] theorem State.takeAgreed_machinery (cls v : Nat) : (s.takeAgreed cls v).machinery = s.machinery := by
  simp only [State.takeAgreed]
  split <;> simp

@[simp] theorem State.closeRounds_machinery : s.closeRounds.machinery = s.machinery :=
  foldl_keeps State.machinery (fun t (r : Round) => t.takeAgreed_machinery r.addr r.result) _ _

@[simp] theorem State.splitBoundary_machinery : s.splitBoundary.machinery = s.machinery := by
  unfold State.splitBoundary
  split
  · rfl
  · split <;> simp

@[simp] theorem State.bandBoundary_machinery : s.bandBoundary.machinery = s.machinery := by
  simp only [State.bandBoundary]
  repeat' split
  all_goals simp

@[simp] theorem State.startJoin_machinery : s.startJoin.machinery = s.machinery := by simp [State.startJoin]

@[simp] theorem State.dropRecord_machinery (st : Stream) (frame : Nat) : (s.dropRecord st frame).machinery = s.machinery := by
  simp [State.dropRecord]

@[simp] theorem State.emitRecord_machinery (st : Stream) (off frame : Nat) (b : List Byte) :
    (s.emitRecord st off frame b).machinery = s.machinery := by
  simp only [State.emitRecord]
  split <;> simp

@[simp] theorem State.emitBand_machinery (f : EmitFrame) (invalid : Bool) (reasons mask : Nat) :
    (s.emitBand f invalid reasons mask).machinery = s.machinery := by simp [State.emitBand]

@[simp] theorem State.checkTile_machinery (b : List Byte) : (s.checkTile b).machinery = s.machinery := by
  unfold State.checkTile
  split
  · rfl
  · exact State.onCkc_machinery _ _

@[simp] theorem State.checkObjects_machinery (b : List Byte) : (s.checkObjects b).machinery = s.machinery := by
  exact State.onCkc_machinery _ _

@[simp] theorem State.checkVerdict_machinery (b : List Byte) : (s.checkVerdict b).machinery = s.machinery := by
  simp only [State.checkVerdict, State.onCkc_machinery]
  split <;> simp

@[simp] theorem State.spiReturn_machinery (clocks : Nat) : (s.spiReturn clocks).machinery = s.machinery := rfl

@[simp] theorem State.spiAccept_machinery (f : BitVec 256) : (s.spiAccept f).machinery = s.machinery := rfl

@[simp] theorem State.release_machinery (id : Nat) : (s.release id).machinery = s.machinery := by simp [State.release]

/-! ### The clock and the sensors -/

@[simp] theorem State.enterServo_machinery (v : Servo) : (s.enterServo v).machinery = s.machinery := by
  unfold State.enterServo
  split <;> simp

@[simp] theorem State.setTimeSource_machinery (gptp pps : Bool) : (s.setTimeSource gptp pps).machinery = s.machinery := by
  simp [State.setTimeSource]

@[simp] theorem State.applyStep_machinery (e : Int) : (s.applyStep e).machinery = s.machinery := by simp [State.applyStep]

@[simp] theorem State.runOfMaster_machinery (e : Int) (master : Option DWord) : (s.runOfMaster e master).machinery = s.machinery := by
  simp only [State.runOfMaster]
  repeat' split
  all_goals simp

@[simp] theorem State.refuseStep_machinery (e : Int) (master : Option DWord) : (s.refuseStep e master).machinery = s.machinery := by
  simp [State.refuseStep]

@[simp] theorem State.slew_machinery (e freq : Int) (master : Option DWord) : (s.slew e freq master).machinery = s.machinery := by
  unfold State.slew
  extract_lets rate near set begun counted unlocked
  have hset : set.machinery = s.machinery := rfl
  have hbegun : begun.machinery = set.machinery := by unfold begun; split <;> simp
  have hcounted : counted.machinery = begun.machinery := rfl
  have hunlocked : unlocked.machinery = counted.machinery := by unfold unlocked; split <;> simp
  split <;> simp [hunlocked, hcounted, hbegun, hset]

@[simp] theorem State.measure_machinery (e freq : Int) (master : Option DWord) : (s.measure e freq master).machinery = s.machinery := by
  simp only [State.measure]
  repeat' split
  all_goals simp

@[simp] theorem State.placeEdge_machinery (f : Fsync) : (s.placeEdge f).2.machinery = s.machinery := by simp [State.placeEdge]

@[simp] theorem State.driveEdge_machinery (out : Nat) (f : Fsync) : (s.driveEdge out f).machinery = s.machinery := by
  unfold State.driveEdge
  split <;> simp

@[simp] theorem State.setSensorLink_machinery (p : SensorPort) (up : Bool) : (s.setSensorLink p up).machinery = s.machinery := by
  cases p <;> rfl

/-- A sensor's command keeps the machinery when its body does. -/
theorem State.runSensor_machinery {body : Packet → State → State} (h : ∀ pk t, (body pk t).machinery = t.machinery) (ring : Nat)
    (sel : Nat → Bool) : (s.runSensor ring sel body).machinery = s.machinery := by
  unfold State.runSensor
  repeat' split
  all_goals simp [State.runPacket_machinery _ h]

/-! ### Power and registers -/

@[simp] theorem State.pwrEnd_machinery (st : Nat) : (s.pwrEnd st).machinery = s.machinery := by simp [State.pwrEnd]

@[simp] theorem State.applyRate_machinery : s.applyRate.machinery = s.machinery := by simp [State.applyRate]

@[simp] theorem State.rateChanged_machinery : s.rateChanged.machinery = s.machinery := by simp [State.rateChanged]

@[simp] theorem State.capToFloor_machinery : s.capToFloor.machinery = s.machinery := by simp [State.capToFloor]

/-- A request to the power unit keeps the machinery when its body does. -/
theorem State.pwrRequest_machinery {body : State → State} (h : ∀ t, (body t).machinery = t.machinery) :
    (s.pwrRequest body).machinery = s.machinery := by
  simp [State.pwrRequest, h]

@[simp] theorem State.resend_machinery : s.resend.machinery = s.machinery := by simp [State.resend]

/-- A register that clears when it is read keeps the machinery when its clearing does. -/
theorem State.rocRead_machinery {clear : State → State} (h : ∀ t, (clear t).machinery = t.machinery) (off : Nat) :
    (s.rocRead off clear).machinery = s.machinery := by
  simp [State.rocRead, h]

/-! ### The commands -/

@[simp] theorem doDoorbell_machinery (page offset width : Nat) (value : Option DWord) :
    (doDoorbell page offset width value s).machinery = s.machinery := by
  unfold doDoorbell
  repeat' split
  all_goals simp

@[simp] theorem doPacketFetch_machinery (ring : Nat) (bits : BitVec 512) : (doPacketFetch ring bits s).machinery = s.machinery := by
  unfold doPacketFetch
  repeat' split
  all_goals simp

@[simp] theorem doReadError_machinery (e : BusEvent) : (doReadError e s).machinery = s.machinery := by
  unfold doReadError
  repeat' split
  all_goals simp

@[simp] theorem doHello_machinery (ring : Nat) : (doHello ring s).machinery = s.machinery := by
  refine State.runPacket_machinery s (fun pk t => ?_) _ _
  repeat' split
  all_goals simp

@[simp] theorem doQueryCaps_machinery (ring : Nat) : (doQueryCaps ring s).machinery = s.machinery :=
  State.runPacket_machinery s (fun pk t => by simp) _ _

@[simp] theorem doOpenClient_machinery (ring : Nat) : (doOpenClient ring s).machinery = s.machinery := by
  refine State.runPacket_machinery s (fun pk t => ?_) _ _
  split <;> simp

@[simp] theorem doCreateRing_machinery (ring : Nat) : (doCreateRing ring s).machinery = s.machinery := by
  refine State.runPacket_machinery s (fun pk t => ?_) _ _
  dsimp only
  repeat' split
  all_goals simp

@[simp] theorem doMapBuffer_machinery (ring : Nat) : (doMapBuffer ring s).machinery = s.machinery :=
  State.runPacket_machinery s (fun pk t => by simp) _ _

@[simp] theorem doUnmapBuffer_machinery (ring : Nat) : (doUnmapBuffer ring s).machinery = s.machinery :=
  State.runPacket_machinery s (fun pk t => by simp) _ _

@[simp] theorem doSubmitJob_machinery (ring : Nat) : (doSubmitJob ring s).machinery = s.machinery := by
  refine State.runPacket_machinery s (fun pk t => ?_) _ _
  dsimp only
  repeat' split
  · simp
  · simp
  · rw [foldl_keeps State.machinery fun u p => u.enqueue_machinery p]
    simp

@[simp] theorem doMotion_machinery (ring : Nat) : (doMotion ring s).machinery = s.machinery := by
  refine State.runSensor_machinery s (fun pk t => ?_) _ _
  dsimp only
  repeat' split
  all_goals simp

@[simp] theorem doFsyncSchedule_machinery (ring : Nat) : (doFsyncSchedule ring s).machinery = s.machinery :=
  State.runPacket_machinery s (fun pk t => by simp) _ _

@[simp] theorem doTimeConfig_machinery (ring : Nat) : (doTimeConfig ring s).machinery = s.machinery :=
  State.runPacket_machinery s (fun pk t => by simp) _ _

@[simp] theorem doTimeAcceptStep_machinery (ring : Nat) : (doTimeAcceptStep ring s).machinery = s.machinery :=
  State.runPacket_machinery s (fun pk t => by simp) _ _

@[simp] theorem doLogRead_machinery (ring : Nat) : (doLogRead ring s).machinery = s.machinery :=
  State.runPacket_machinery s (fun pk t => by simp) _ _

@[simp] theorem doStatsRead_machinery (ring : Nat) : (doStatsRead ring s).machinery = s.machinery :=
  State.runPacket_machinery s (fun pk t => by simp) _ _

@[simp] theorem doLogClear_machinery (ring : Nat) (auth : List Byte) (sigOk : Bool) :
    (doLogClear ring auth sigOk s).machinery = s.machinery :=
  State.runPacket_machinery s (fun pk t => by simp [State.authorised_machinery]) _ _

@[simp] theorem doAttest_machinery (ring : Nat) : (doAttest ring s).machinery = s.machinery :=
  State.runPacket_machinery s (fun pk t => by simp) _ _

@[simp] theorem doAuthChallenge_machinery (ring : Nat) : (doAuthChallenge ring s).machinery = s.machinery :=
  State.runPacket_machinery s (fun pk t => by simp) _ _

@[simp] theorem doChallengeExpiry_machinery (p : Fin 4) : (doChallengeExpiry p s).machinery = s.machinery := by
  unfold doChallengeExpiry
  repeat' split
  all_goals simp

@[simp] theorem doFlagClear_machinery (ring : Nat) (auth : List Byte) (sigOk : Bool) :
    (doFlagClear ring auth sigOk s).machinery = s.machinery :=
  State.runPacket_machinery s (fun pk t => by simp [State.authorised_machinery]) _ _

@[simp] theorem doCheckerSplit_machinery (ring : Nat) : (doCheckerSplit ring s).machinery = s.machinery :=
  State.runPacket_machinery s (fun pk t => by simp) _ _

@[simp] theorem doCheckerJoin_machinery (ring : Nat) : (doCheckerJoin ring s).machinery = s.machinery :=
  State.runPacket_machinery s (fun pk t => by simp) _ _

@[simp] theorem doRecordDelivery_machinery (st : Stream) : (doRecordDelivery st s).machinery = s.machinery := by
  simp only [doRecordDelivery]
  repeat' split
  all_goals simp

@[simp] theorem doVerdictDeadline_machinery : (doVerdictDeadline s).machinery = s.machinery := by
  simp only [doVerdictDeadline]
  repeat' split
  all_goals simp

@[simp] theorem doTileRecordCheck_machinery (arrived : Option (List Byte)) : (doTileRecordCheck arrived s).machinery = s.machinery := by
  unfold doTileRecordCheck
  repeat' split
  all_goals simp

@[simp] theorem doBandVerdict_machinery : (doBandVerdict s).machinery = s.machinery := by
  simp only [doBandVerdict]
  repeat' split
  all_goals simp

@[simp] theorem doFrameVerdict_machinery : (doFrameVerdict s).machinery = s.machinery := by
  simp only [doFrameVerdict]
  repeat' split
  all_goals simp

@[simp] theorem doResyncCopyComplete_machinery : (doResyncCopyComplete s).machinery = s.machinery := by simp [doResyncCopyComplete]

@[simp] theorem doBandBoundary_machinery : (doBandBoundary s).machinery = s.machinery := by simp [doBandBoundary]

@[simp] theorem doCkcAlive_machinery : (doCkcAlive s).machinery = s.machinery := by simp [doCkcAlive]

@[simp] theorem doNop_machinery (clocks : Nat) (f : BitVec 256) : (doNop clocks f s).machinery = s.machinery := by simp [doNop]

@[simp] theorem doRelease_machinery (clocks : Nat) (f : BitVec 256) : (doRelease clocks f s).machinery = s.machinery := by
  simp [doRelease]

@[simp] theorem doForceSafe_machinery (clocks : Nat) (f : BitVec 256) : (doForceSafe clocks f s).machinery = s.machinery := by
  simp [doForceSafe]

@[simp] theorem doSpiRequestDiscarded_machinery (clocks : Nat) (f : BitVec 256) :
    (doSpiRequestDiscarded clocks f s).machinery = s.machinery := by
  simp [doSpiRequestDiscarded]

@[simp] theorem doSync_machinery (sourceNs : Int) (freq : Int) (t : Nat) : (doSync sourceNs freq t s).machinery = s.machinery := by
  simp [doSync]

@[simp] theorem doAnnounce_machinery (master : DWord) : (doAnnounce master s).machinery = s.machinery := by simp [doAnnounce]

@[simp] theorem doPdelayReq_machinery (t : Nat) : (doPdelayReq t s).machinery = s.machinery := by simp [doPdelayReq]

@[simp] theorem doPdelayReqInitiate_machinery : (doPdelayReqInitiate s).machinery = s.machinery := by simp [doPdelayReqInitiate]

@[simp] theorem doPdelayResp_machinery (delayNs : Nat) (ratioPpb : Int) (t : Nat) :
    (doPdelayResp delayNs ratioPpb t s).machinery = s.machinery := by
  simp [doPdelayResp]

@[simp] theorem doHoldoverTimeout_machinery : (doHoldoverTimeout s).machinery = s.machinery := by simp [doHoldoverTimeout]

@[simp] theorem doHoldover_machinery : (doHoldover s).machinery = s.machinery := by simp [doHoldover]

@[simp] theorem doPpsIn_machinery (freq : Int) (t : Nat) : (doPpsIn freq t s).machinery = s.machinery := by
  simp only [doPpsIn]
  repeat' split
  all_goals simp

@[simp] theorem doPpsOutPlacement_machinery : (doPpsOutPlacement s).machinery = s.machinery := by simp [doPpsOutPlacement]

@[simp] theorem doPpsOut_machinery : (doPpsOut s).machinery = s.machinery := by
  unfold doPpsOut
  repeat' split
  all_goals simp

@[simp] theorem doFsyncPlacement_machinery (out : Fin 8) : (doFsyncPlacement out s).machinery = s.machinery := by
  simp only [doFsyncPlacement]
  repeat' split
  all_goals simp

@[simp] theorem doFsyncEdge_machinery (out : Fin 8) : (doFsyncEdge out s).machinery = s.machinery := by
  simp only [doFsyncEdge]
  repeat' split
  all_goals simp

@[simp] theorem doDomainOff_machinery (d : Nat) : (doDomainOff d s).machinery = s.machinery :=
  State.pwrRequest_machinery s (fun t => by simp)

@[simp] theorem doDomainOn_machinery (d : Nat) : (doDomainOn d s).machinery = s.machinery :=
  State.pwrRequest_machinery s (fun t => by simp)

@[simp] theorem doRateTarget_machinery (rate : Nat) : (doRateTarget rate s).machinery = s.machinery :=
  State.pwrRequest_machinery s (fun t => by simp)

@[simp] theorem doSentinelFlag_machinery (u : UnitId) (index : Nat) (raised : Bool) :
    (doSentinelFlag u index raised s).machinery = s.machinery := by
  unfold doSentinelFlag
  repeat' split
  all_goals simp

@[simp] theorem doEmtMarginExpiry_machinery : (doEmtMarginExpiry s).machinery = s.machinery := by
  simp only [doEmtMarginExpiry]
  repeat' split
  all_goals simp

@[simp] theorem doSupplyLoopEvaluation_machinery (readMv : Option Nat) (alert : Bool) :
    (doSupplyLoopEvaluation readMv alert s).machinery = s.machinery := by
  simp only [doSupplyLoopEvaluation]
  repeat' split
  all_goals simp

@[simp] theorem doAvsbusTimeout_machinery : (doAvsbusTimeout s).machinery = s.machinery := by simp [doAvsbusTimeout]

@[simp] theorem doThermalCapStep_machinery : (doThermalCapStep s).machinery = s.machinery := by simp [doThermalCapStep]

@[simp] theorem doMr4Read_machinery (hottest channel : Nat) (hot : Bool) :
    (doMr4Read hottest channel hot s).machinery = s.machinery := by
  simp [doMr4Read]

@[simp] theorem doPatrolScrub_machinery (addr : Nat) (found : Scrub) : (doPatrolScrub addr found s).machinery = s.machinery := by
  unfold doPatrolScrub
  repeat' split
  all_goals simp

@[simp] theorem doEccWriteBack_machinery (u : EccWrite) : (doEccWriteBack u s).machinery = s.machinery := by
  unfold doEccWriteBack
  repeat' split
  all_goals simp

@[simp] theorem doOwnerProvision_machinery (d : BitVec 256) : (doOwnerProvision d s).machinery = s.machinery := by
  simp [doOwnerProvision]

@[simp] theorem doDbgChallenge_machinery : (doDbgChallenge s).machinery = s.machinery := by
  simp only [doDbgChallenge]
  repeat' split
  all_goals rfl

@[simp] theorem doDbgResponse_machinery (auth : List Byte) (sigOk : Bool) : (doDbgResponse auth sigOk s).machinery = s.machinery := by
  have examined := (s.onSec fun x => { x with attempts := satU 8 (x.attempts + 1) }).examine_machinery 3 auth.length auth sigOk
  simp only [doDbgResponse]
  repeat' split
  all_goals simp_all

@[simp] theorem doHifEventWrite_machinery (v : Word) : (doHifEventWrite v s).machinery = s.machinery := by simp [doHifEventWrite]

@[simp] theorem doHifEventMaskWrite_machinery (v : Word) : (doHifEventMaskWrite v s).machinery = s.machinery := by
  simp [doHifEventMaskWrite]

@[simp] theorem doHifBar4WindowWrite_machinery (v : DWord) : (doHifBar4WindowWrite v s).machinery = s.machinery := by
  simp [doHifBar4WindowWrite]

/-- A write of ADMIN_CTRL with ENABLE set keeps the machinery: it opens the admin rings or changes nothing. -/
theorem doAdminCtrl_machinery (v : Word) (enable : v.getLsbD 0 = true) : (doAdminCtrl v s).machinery = s.machinery := by
  simp [doAdminCtrl, enable]

@[simp] theorem doTake_machinery : (doTake s).machinery = s.machinery := by simp [doTake]

@[simp] theorem doApply_machinery : (doApply s).machinery = s.machinery := by simp [doApply]

@[simp] theorem doMssSafeReserveWrite_machinery (v : Word) : (doMssSafeReserveWrite v s).machinery = s.machinery := by
  simp [doMssSafeReserveWrite]

@[simp] theorem doMssThermalCfgWrite_machinery (v : Word) : (doMssThermalCfgWrite v s).machinery = s.machinery := by
  simp [doMssThermalCfgWrite]

@[simp] theorem doMssEventRateWrite_machinery (i : Fin 2) (v : Word) : (doMssEventRateWrite i v s).machinery = s.machinery := by
  unfold doMssEventRateWrite
  split
  · exact foldl_keeps State.machinery (fun t k => t.setLimit_machinery (4 * i.val + k) (v.toNat / 2 ^ (8 * k) % 64)) _ s
  · rfl

@[simp] theorem doHifDoorbellErrorsRead_machinery : (doHifDoorbellErrorsRead s).machinery = s.machinery := by
  simp [doHifDoorbellErrorsRead]

@[simp] theorem doEmtHostDropsRead_machinery : (doEmtHostDropsRead s).machinery = s.machinery :=
  State.rocRead_machinery s (fun t => by simp) _

@[simp] theorem doCkcCopyDropsRead_machinery : (doCkcCopyDropsRead s).machinery = s.machinery :=
  State.rocRead_machinery s (fun t => by simp) _

@[simp] theorem doDbgStatusRead_machinery : (doDbgStatusRead s).machinery = s.machinery :=
  State.rocRead_machinery s (fun t => by simp) _

@[simp] theorem doPwrReqStatusRead_machinery : (doPwrReqStatusRead s).machinery = s.machinery :=
  State.rocRead_machinery s (fun t => by simp) _

@[simp] theorem doEventFlashWrite_machinery : (doEventFlashWrite s).machinery = s.machinery := by
  unfold doEventFlashWrite
  repeat' split
  all_goals simp

@[simp] theorem doSectorErase_machinery : (doSectorErase s).machinery = s.machinery := by simp [doSectorErase]

@[simp] theorem doOpMark_machinery : (doOpMark s).machinery = s.machinery := by simp [doOpMark]

@[simp] theorem doPeriodicSnapshot_machinery : (doPeriodicSnapshot s).machinery = s.machinery := by simp [doPeriodicSnapshot]

@[simp] theorem doHistogramTick_machinery : (doHistogramTick s).machinery = s.machinery := by simp [doHistogramTick]

@[simp] theorem doTokenRefill_machinery (code : Nat) : (doTokenRefill code s).machinery = s.machinery := by
  simp only [doTokenRefill]
  repeat' split
  all_goals simp

@[simp] theorem doFlagRecordWritten_machinery : (doFlagRecordWritten s).machinery = s.machinery := by
  simp only [doFlagRecordWritten]
  repeat' split
  all_goals simp [State.machinery]

@[simp] theorem doSnapshotWriteComplete_machinery : (doSnapshotWriteComplete s).machinery = s.machinery := by
  simp [doSnapshotWriteComplete]

@[simp] theorem doPcieLinkDown_machinery : (doPcieLinkDown s).machinery = s.machinery := rfl

@[simp] theorem doPcieLinkUp_machinery (speed width : Nat) : (doPcieLinkUp speed width s).machinery = s.machinery := by
  simp [doPcieLinkUp]

end

/-- Every command of the list keeps the machinery. -/
theorem exec_machinery {i : Instr} {s t : State} (listed : sparesFabric i = true) (run : exec i s = .next t) :
    t.machinery = s.machinery := by
  cases i <;> try contradiction
  all_goals cases run
  all_goals simp [doAdminCtrl_machinery]

/-- Settles O60: none of the listed commands reaches an operation on the fabric, the contracts, the regions or the image. -/
theorem manyCommandsLeaveTheFabric : Obligations.ManyCommandsLeaveTheFabric := by
  intro i s t listed run
  have kept := exec_machinery listed run
  simp only [State.machinery, Prod.mk.injEq] at kept
  obtain ⟨fab, ctr, regions, image⟩ := kept
  exact ⟨fab, by rw [ctr], by rw [ctr], regions, image⟩

end Sys2Proof.Machine
end

section
/-! SUPPORT. The QM's side of the command processor: its running command, its pending capacity change and its window, which
replies, kills and a job's end leave alone. -/

namespace Sys2Proof.Machine

/-- The running QM command, the pending capacity change and the QM window (R15, R286). -/
def Cpx.qmSide (c : Cpx) : Option QmRun × Option CapReq × Bool := (c.qm, c.cap, c.windowOpen)

section
variable (c : Cpx)

@[simp] theorem Cpx.putRing_qmSide (r : Ring) : (c.putRing r).qmSide = c.qmSide := rfl
@[simp] theorem Cpx.putJob_qmSide (j : Job) : (c.putJob j).qmSide = c.qmSide := rfl
@[simp] theorem Cpx.putClient_qmSide (x : Client) : (c.putClient x).qmSide = c.qmSide := rfl

@[simp] theorem Cpx.dropJob_qmSide (ring : Nat) : (c.dropJob ring).qmSide = c.qmSide := by
  simp only [Cpx.dropJob]
  split <;> rfl

@[simp] theorem Cpx.retire_qmSide (pk : Packet) (st : Nat) : (c.retire pk st).qmSide = c.qmSide := by
  unfold Cpx.retire
  split <;> rfl

end

section
variable (s : State)

@[simp] theorem State.ringMessage_qmSide (id : Nat) (more : Bool) : (s.ringMessage id more).cpx.qmSide = s.cpx.qmSide := by
  unfold State.ringMessage
  repeat' split
  all_goals simp

@[simp] theorem State.pushEntry_qmSide (id : Nat) (more : Bool) (e : Nat → HostPost) : (s.pushEntry id more e).cpx.qmSide = s.cpx.qmSide := by
  simp only [State.pushEntry]
  repeat' split
  all_goals simp

@[simp] theorem State.writeReply_qmSide (pk : Packet) (more : Bool) (r : Reply) : (s.writeReply pk more r).cpx.qmSide = s.cpx.qmSide := by
  unfold State.writeReply
  repeat' split
  · rfl
  · simp
  · rfl

@[simp] theorem State.replyBase_qmSide (pk : Packet) (more : Bool) (st dt res waves ns : Nat) :
    (s.replyBase pk more st dt res waves ns).cpx.qmSide = s.cpx.qmSide := by simp [State.replyBase]

@[simp] theorem State.settleUnmaps_qmSide : s.settleUnmaps.cpx.qmSide = s.cpx.qmSide :=
  foldl_keeps (fun t : State => t.cpx.qmSide) (fun t (u : UnmapReq) => t.replyBase_qmSide u.pkt false stDone 0 0 0 (t.now - u.pkt.started.getD t.now)) _ _

@[simp] theorem State.answerUndefined_qmSide (n : Nat) : (State.answerUndefined n s).cpx.qmSide = s.cpx.qmSide := by
  induction n generalizing s with
  | zero => rfl
  | succ n ih =>
    unfold State.answerUndefined
    split <;> simp [ih]

@[simp] theorem State.settle_qmSide : s.settle.cpx.qmSide = s.cpx.qmSide := by
  simp only [State.settle]
  split <;> simp

@[simp] theorem State.replyAll_qmSide (pk : Packet) (st dt res waves ns : Nat) :
    (s.replyAll pk st dt res waves ns).cpx.qmSide = s.cpx.qmSide := by simp [State.replyAll]

@[simp] theorem State.reply_qmSide (pk : Packet) (st dt res : Nat) : (s.reply pk st dt res).cpx.qmSide = s.cpx.qmSide := by
  simp [State.reply]

@[simp] theorem State.done_qmSide (pk : Packet) (res : Nat) : (s.done pk res).cpx.qmSide = s.cpx.qmSide := by simp [State.done]

@[simp] theorem State.answerKills_qmSide (res : Nat) : (s.answerKills res).cpx.qmSide = s.cpx.qmSide :=
  foldl_keeps (fun t : State => t.cpx.qmSide) (fun t (k : KillToken) => t.reply_qmSide k.killer stDone 0 res) _ _

@[simp] theorem State.killAll_qmSide (l : List Packet) : (State.killAll l s).cpx.qmSide = s.cpx.qmSide := by
  induction l generalizing s with
  | nil => rfl
  | cons p r ih => simp [State.killAll, ih]

@[simp] theorem State.countJob_qmSide (client : Nat) (ended : Bool) : (s.countJob client ended).cpx.qmSide = s.cpx.qmSide := by
  simp only [State.countJob, State.onCpx_cpx]
  split <;> rfl

@[simp] theorem State.dropJob_qmSide (ring : Nat) : (s.dropJob ring).cpx.qmSide = s.cpx.qmSide := by simp [State.dropJob]

end

end Sys2Proof.Machine
end

section
/-! PROOF of the statement about launches. A launch opens its frame, starts or queues the frame program and places the next
launch (`doLaunch_eq`); what it is placed by and counted with is the schedule, which the operations in between leave alone. -/

namespace Sys2Proof.Machine

section
variable (s : State)

/-! ### The launch schedule -/

/-- TMB, the contracts with the running program, EMT's frames and the power unit: what a launch is placed by and counted with. -/
def State.schedule (s : State) : Tim × Ctr × Emt × Pwr := (s.tim, s.ctr, s.emt, s.pwr)

@[simp] theorem State.onCpx_schedule (f : Cpx → Cpx) : (s.onCpx f).schedule = s.schedule := rfl
@[simp] theorem State.onFab_schedule (f : Fab → Fab) : (s.onFab f).schedule = s.schedule := rfl
@[simp] theorem State.onCkc_schedule (f : Ckc → Ckc) : (s.onCkc f).schedule = s.schedule := rfl
@[simp] theorem State.onSaf_schedule (f : Saf → Saf) : (s.onSaf f).schedule = s.schedule := rfl
@[simp] theorem State.onSen_schedule (f : Sen → Sen) : (s.onSen f).schedule = s.schedule := rfl
@[simp] theorem State.onEvr_schedule (f : Rec → Rec) : (s.onEvr f).schedule = s.schedule := rfl
@[simp] theorem State.onPins_schedule (f : Pins → Pins) : (s.onPins f).schedule = s.schedule := rfl
@[simp] theorem State.putDram_schedule (a : Nat) (b : List Byte) : (s.putDram a b).schedule = s.schedule := rfl
@[simp] theorem State.ckcInput_schedule (i : CkcInput) : (s.ckcInput i).schedule = s.schedule := rfl
@[simp] theorem State.raise_schedule (i : Nat) : (s.raise i).schedule = s.schedule := by simp [State.schedule]
@[simp] theorem State.note_schedule (c v u p q r : Nat) : (s.note c v u p q r).schedule = s.schedule := by simp [State.schedule]
@[simp] theorem State.setCkcMode_schedule (m : CkcMode) (x : Nat) : (s.setCkcMode m x).schedule = s.schedule := by simp [State.schedule]
@[simp] theorem State.replyBase_schedule (pk : Packet) (more : Bool) (st dt res waves ns : Nat) :
    (s.replyBase pk more st dt res waves ns).schedule = s.schedule := by simp [State.schedule]
@[simp] theorem State.settle_schedule : s.settle.schedule = s.schedule := by simp [State.schedule]
@[simp] theorem State.replyAll_schedule (pk : Packet) (st dt res waves ns : Nat) :
    (s.replyAll pk st dt res waves ns).schedule = s.schedule := by simp [State.schedule]
@[simp] theorem State.reply_schedule (pk : Packet) (st dt res : Nat) : (s.reply pk st dt res).schedule = s.schedule := by simp [State.schedule]
@[simp] theorem State.done_schedule (pk : Packet) (res : Nat) : (s.done pk res).schedule = s.schedule := by simp [State.schedule]

@[simp] theorem State.ite_schedule {c : Prop} [Decidable c] (t : State) :
    (if c then s else t).schedule = if c then s.schedule else t.schedule := apply_ite State.schedule c s t

@[simp] theorem State.answerKills_schedule (res : Nat) : (s.answerKills res).schedule = s.schedule :=
  foldl_keeps State.schedule (fun t (k : KillToken) => t.reply_schedule k.killer stDone 0 res) _ _

@[simp] theorem State.killAll_schedule (l : List Packet) : (State.killAll l s).schedule = s.schedule := by
  induction l generalizing s with
  | nil => rfl
  | cons p r ih => simp [State.killAll, ih]

@[simp] theorem State.countJob_schedule (client : Nat) (ended : Bool) : (s.countJob client ended).schedule = s.schedule := rfl

@[simp] theorem State.dropJob_schedule (ring : Nat) : (s.dropJob ring).schedule = s.schedule := rfl

@[simp] theorem State.snapshot_schedule (cause : Nat) : (s.snapshot cause).schedule = s.schedule := by
  unfold State.snapshot
  split <;> simp

@[simp] theorem State.recordFault_schedule (f : FailReport) (c : FaultCtx) : (s.recordFault f c).schedule = s.schedule := by
  simp [State.recordFault]

/-! ### Taking the running QM command off the fabric -/

@[simp] theorem State.snapshot_cpx (cause : Nat) : (s.snapshot cause).cpx = s.cpx := by
  unfold State.snapshot
  split <;> simp

@[simp] theorem State.recordFault_cpx (f : FailReport) (c : FaultCtx) : (s.recordFault f c).cpx = s.cpx := by
  simp [State.recordFault]

@[simp] theorem State.discardQm_schedule : s.discardQm.schedule = s.schedule := by
  simp only [State.discardQm]
  split
  · rfl
  · split <;> simp

/-- Discarding the running QM command changes nothing else of the command processor. -/
theorem State.discardQm_cpx : s.discardQm.cpx = { s.cpx with qm := none } := by
  unfold State.discardQm
  split
  next off => rw [← off]
  next => dsimp only; split <;> simp

@[simp] theorem State.teardownAs_schedule (counts : Bool) (ring : Nat) (replies : Bool) :
    (s.teardownAs counts ring replies).schedule = s.schedule := by
  unfold State.teardownAs
  split <;> simp

@[simp] theorem State.teardown_schedule (ring : Nat) (replies : Bool) : (s.teardown ring replies).schedule = s.schedule := by
  simp [State.teardown]

@[simp] theorem State.preempt_schedule : s.preempt.schedule = s.schedule := by
  simp only [State.preempt]
  repeat' split
  all_goals simp

@[simp] theorem State.ite_qmSide {c : Prop} [Decidable c] (t : State) :
    (if c then s else t).cpx.qmSide = if c then s.cpx.qmSide else t.cpx.qmSide := apply_ite (fun u => u.cpx.qmSide) c s t

/-- Tearing a job down while no QM command runs leaves the QM's side as it is. -/
theorem State.teardownAs_qmSide (off : s.cpx.qm = none) (counts : Bool) (ring : Nat) (replies : Bool) :
    (s.teardownAs counts ring replies).cpx.qmSide = s.cpx.qmSide := by
  unfold State.teardownAs
  split
  · rfl
  · extract_lets mine spared uncached waiting killed answered counted dropped
    have hspared : spared = s := by simp [spared, mine, off]
    have huncached : uncached.cpx.qmSide = spared.cpx.qmSide := by unfold uncached; split <;> simp only [State.onFab_cpx]
    have hkilled : killed.cpx.qmSide = uncached.cpx.qmSide := by unfold killed; split <;> simp only [State.killAll_qmSide]
    have hanswered : answered.cpx.qmSide = killed.cpx.qmSide := by unfold answered; split <;> simp only [State.answerKills_qmSide]
    have hcounted : counted.cpx.qmSide = answered.cpx.qmSide := by unfold counted; split <;> simp only [State.countJob_qmSide]
    have hdropped : dropped.cpx.qmSide = counted.cpx.qmSide := by
      unfold dropped
      split
      · rfl
      · exact counted.dropJob_qmSide ring
    clear_value spared uncached killed answered counted dropped
    split <;> simp only [State.settle_qmSide, hdropped, hcounted, hanswered, hkilled, huncached, hspared]

/-- A preemption leaves no QM command on the fabric (R15). -/
theorem State.preempt_qm : s.preempt.cpx.qm = none := by
  have discarded : s.discardQm.cpx.qm = none := by rw [State.discardQm_cpx]
  unfold State.preempt
  split
  next off => exact off
  next q _ =>
    split
    · dsimp only
      split
      · exact discarded
      · split <;> simp [discarded, Cpx.putJob]
    · dsimp only
      have torn : (s.discardQm.teardown q.pkt.ring true).cpx.qmSide = s.discardQm.cpx.qmSide :=
        s.discardQm.teardownAs_qmSide discarded _ _ _
      have answered : (s.discardQm.replyAll q.pkt stKilled 0 0 0 0).cpx.qmSide = s.discardQm.cpx.qmSide := by simp
      split
      · exact (congrArg Prod.fst ((State.answerKills_qmSide _ _).trans torn)).trans discarded
      · exact (congrArg Prod.fst ((State.answerKills_qmSide _ _).trans answered)).trans discarded

/-! ### Starting a frame -/

@[simp] theorem State.onHif_schedule (f : Hif → Hif) : (s.onHif f).schedule = s.schedule := rfl

@[simp] theorem State.unlatch_schedule : s.unlatch.schedule = s.schedule := by simp [State.unlatch]

@[simp] theorem State.launchRelease_schedule (frame : Nat) : (s.launchRelease frame).schedule = s.schedule := by
  simp only [State.launchRelease]
  repeat' split
  all_goals simp

@[simp] theorem State.launchRelease_cpx (frame : Nat) : (s.launchRelease frame).cpx = s.cpx := by
  simp only [State.launchRelease]
  repeat' split
  all_goals simp

@[simp] theorem State.bindSensor_schedule (i launch : Nat) : (s.bindSensor i launch).2.schedule = s.schedule := by
  unfold State.bindSensor
  repeat' split
  all_goals simp

@[simp] theorem State.bindSensor_cpx (i launch : Nat) : (s.bindSensor i launch).2.cpx = s.cpx := by
  unfold State.bindSensor
  repeat' split
  all_goals simp

@[simp] theorem State.startRing_schedule (launch : Nat) (r : RingEntry) : (s.startRing launch r).2.2.schedule = s.schedule := by
  unfold State.startRing
  split
  · split
    next i _ => exact s.bindSensor_schedule i launch
    next => rfl
  · rfl

@[simp] theorem State.startRing_cpx (launch : Nat) (r : RingEntry) : (s.startRing launch r).2.2.cpx = s.cpx := by
  unfold State.startRing
  split
  · split
    next i _ => exact s.bindSensor_cpx i launch
    next => rfl
  · rfl

@[simp] theorem State.startRings_schedule (launch : Nat) (l : List RingEntry) : (State.startRings launch l s).2.2.schedule = s.schedule := by
  induction l generalizing s with
  | nil => rfl
  | cons r rest ih => simp [State.startRings, ih]

@[simp] theorem State.startRings_cpx (launch : Nat) (l : List RingEntry) : (State.startRings launch l s).2.2.cpx = s.cpx := by
  induction l generalizing s with
  | nil => rfl
  | cons r rest ih => simp [State.startRings, ih]

@[simp] theorem State.newJudge_schedule (c : Contract) (frame launch slot : Nat) (swap : Bool) (bound : List (Nat × Binding)) :
    (s.newJudge c frame launch slot swap bound).schedule = s.schedule := by
  unfold State.newJudge
  split <;> simp

@[simp] theorem State.newJudge_cpx (c : Contract) (frame launch slot : Nat) (swap : Bool) (bound : List (Nat × Binding)) :
    (s.newJudge c frame launch slot swap bound).cpx = s.cpx := by
  unfold State.newJudge
  split <;> simp

@[simp] theorem State.preempt_ctr : s.preempt.ctr = s.ctr := congrArg (fun x => x.2.1) s.preempt_schedule

/-- Whether a swap waits depends on the contracts and the power unit alone. -/
theorem State.swapReady_congr {t : State} (ctr : t.ctr = s.ctr) (pwr : t.pwr = s.pwr) : t.swapReady = s.swapReady := by
  have ready : ∀ u, t.unitReady u = s.unitReady u := fun u => by simp [State.unitReady, pwr]
  simp [State.swapReady, State.ctrSettled, ctr, ready]

theorem State.nextContract_congr {t : State} (ctr : t.ctr = s.ctr) (pwr : t.pwr = s.pwr) : t.nextContract = s.nextContract := by
  simp [State.nextContract, ctr, State.swapReady_congr s ctr pwr]

/-- TMB has reached the count to which it advances. -/
theorem State.le_now_advance {n : Nat} (word : n < 2 ^ 64) : n ≤ (s.advance n).now := by
  have count := s.tim.count.isLt
  simp only [State.now, State.advance, State.settlePulses_tim, State.onTim_tim, BitVec.toNat_ofNat]
  rw [Nat.mod_eq_of_lt (by omega)]
  exact le_max_right _ _

/-- A launch up to its frame: the QM command leaves the fabric and the window closes (R15), a pending release is judged, the
ingest slots are bound and the frame's judge is opened. It gives the frame's start record and the frame as EMT will hold it. -/
def State.openFrame (p : Placed) (c : Contract) (s : State) : LateStart × EmitFrame × State :=
  let s := (s.advance p.count).preempt.onCpx fun x => { x with windowOpen := false }
  let frame := s.ctr.nextFrame
  let slot := if s.swapReady then 1 - s.ckc.slotArmed else s.ckc.slotArmed
  let first := (s.swapReady && !s.ctr.lateStart.any fun l => l.staged) || s.ctr.swapFrame = some frame
  let l : LateStart := { frame := frame, launch := p.count, waves0 := s.waveNow, staged := s.swapReady, rings := [] }
  let r := State.startRings p.count c.rings (s.launchRelease frame)
  ({ l with rings := r.1 }, c.emitFrame frame p.count p.vtime slot first r.2.1, r.2.2.newJudge c frame p.count slot first r.2.1)

/-- The launch up to where EMT holds the frame (R230). -/
def State.emitOpened (p : Placed) (c : Contract) (s : State) : State :=
  (s.openFrame p c).2.2.onEmt fun e => { e with frames := e.frames ++ [(s.openFrame p c).2.1], launchLast := p.count }

/-- The frame program starts, or waits behind the one that runs (R17). -/
def State.startOrQueue (l : LateStart) (s : State) : State :=
  if s.ctr.prog.running then s.onCtr fun x => { x with lateStart := x.lateStart ++ [l] } else s.boundaryStart l

/-- The end of a launch: the frame is counted and the next launch is placed (R365). -/
def State.closeLaunch (p : Placed) (c : Contract) (frame : Nat) (s : State) : State :=
  let s := s.onTim fun m => { m with launchSeen := true }
  let lo := launchMin (some (c.pastAt p.count)) s.ctr.past.head?
  let next := match s.ctr.grid with | some g => g.next | none => p.vtime + c.hdr.frameCycle
  let s := s.onCtr fun x =>
    { x with nextFrame := frame + 1, placed := none, grid := none, past := (c.pastAt p.count :: x.past).take 2 }
  s.placeLaunch next c.hdr.frameCycle lo

/-- A launch opens its frame, starts or queues the frame program and places the next launch. -/
theorem doLaunch_eq {p : Placed} {c : Contract} (on : s.pins.rstN = true) (placed : s.ctr.placed = some p)
    (next : s.nextContract = some c) :
    doLaunch s = ((s.emitOpened p c).startOrQueue (s.openFrame p c).1).closeLaunch p c (s.openFrame p c).1.frame := by
  simp only [doLaunch, placed, next, on]
  rfl

section
variable (p : Placed) (c : Contract)

@[simp] theorem State.openFrame_schedule : (s.openFrame p c).2.2.schedule = (s.advance p.count).schedule := by
  simp [State.openFrame]

theorem State.openFrame_qm : (s.openFrame p c).2.2.cpx.qm = none := by simp [State.openFrame, State.preempt_qm]

theorem State.openFrame_window : (s.openFrame p c).2.2.cpx.windowOpen = false := by simp [State.openFrame]

theorem State.openFrame_startFrame : (s.openFrame p c).1.frame = s.ctr.nextFrame := by simp [State.openFrame]

theorem State.openFrame_startLaunch : (s.openFrame p c).1.launch = p.count := by simp [State.openFrame]

theorem State.openFrame_startStaged : (s.openFrame p c).1.staged = s.swapReady := by
  have pwr : (s.advance p.count).preempt.pwr = (s.advance p.count).pwr := congrArg (fun x => x.2.2.2) (State.preempt_schedule _)
  exact State.swapReady_congr s (by simp) (by simp [pwr])

theorem State.emitOpened_tim : (s.emitOpened p c).tim = (s.advance p.count).tim :=
  congrArg (fun x => x.1) (s.openFrame_schedule p c)

theorem State.emitOpened_ctr : (s.emitOpened p c).ctr = s.ctr :=
  (congrArg (fun x => x.2.1) (s.openFrame_schedule p c)).trans (s.advance_ctr p.count)

theorem State.emitOpened_pwr : (s.emitOpened p c).pwr = s.pwr :=
  (congrArg (fun x => x.2.2.2) (s.openFrame_schedule p c)).trans (s.advance_pwr p.count)

theorem State.emitOpened_frames : (s.emitOpened p c).emt.frames = s.emt.frames ++ [(s.openFrame p c).2.1] := by
  have emt : (s.openFrame p c).2.2.emt = s.emt :=
    (congrArg (fun x => x.2.2.1) (s.openFrame_schedule p c)).trans (s.advance_emt p.count)
  simp [State.emitOpened, emt]

theorem State.emitOpened_qm : (s.emitOpened p c).cpx.qm = none := s.openFrame_qm p c

theorem State.emitOpened_window : (s.emitOpened p c).cpx.windowOpen = false := s.openFrame_window p c

theorem State.emitOpened_staged : (s.openFrame p c).1.staged = (s.emitOpened p c).swapReady :=
  (s.openFrame_startStaged p c).trans (s.swapReady_congr (s.emitOpened_ctr p c) (s.emitOpened_pwr p c)).symm

theorem State.emitOpened_next : (s.emitOpened p c).nextContract = s.nextContract :=
  s.nextContract_congr (s.emitOpened_ctr p c) (s.emitOpened_pwr p c)

theorem State.openFrame_emitFrame : ∃ slot swap bound, (s.openFrame p c).2.1 = c.emitFrame s.ctr.nextFrame p.count p.vtime slot swap bound :=
  ⟨_, _, _, by simp only [State.openFrame, State.onCpx_ctr, State.preempt_ctr, State.advance_ctr]; rfl⟩

end

section
variable (v : Int) (cycle lo : Nat)
@[simp] theorem State.placeLaunch_tim : (s.placeLaunch v cycle lo).tim = s.tim := by
  simp [State.placeLaunch, State.placeLaunchEdges, apply_ite State.tim]
@[simp] theorem State.placeLaunch_emt : (s.placeLaunch v cycle lo).emt = s.emt := by
  simp [State.placeLaunch, State.placeLaunchEdges, apply_ite State.emt]
@[simp] theorem State.placeLaunch_cpx : (s.placeLaunch v cycle lo).cpx = s.cpx := by
  simp [State.placeLaunch, State.placeLaunchEdges, apply_ite State.cpx]
theorem State.placeLaunch_ctr : ∃ q, (s.placeLaunch v cycle lo).ctr = { s.ctr with placed := some q } := by
  simp only [State.placeLaunch, State.placeLaunchEdges, State.onSen_ctr, apply_ite State.ctr, State.note_ctr, ite_self, State.onCtr_ctr]
  exact ⟨_, rfl⟩
end

section
variable (p : Placed) (c : Contract) (frame : Nat)
@[simp] theorem State.closeLaunch_emt : (s.closeLaunch p c frame).emt = s.emt := by simp [State.closeLaunch]
@[simp] theorem State.closeLaunch_cpx : (s.closeLaunch p c frame).cpx = s.cpx := by simp [State.closeLaunch]
@[simp] theorem State.closeLaunch_tim : (s.closeLaunch p c frame).tim = { s.tim with launchSeen := true } := by simp [State.closeLaunch]
theorem State.closeLaunch_ctr : ∃ q, (s.closeLaunch p c frame).ctr =
    { s.ctr with nextFrame := frame + 1, placed := some q, grid := none, past := (c.pastAt p.count :: s.ctr.past).take 2 } := by
  obtain ⟨q, hq⟩ := State.placeLaunch_ctr
    (((s.onTim fun m => { m with launchSeen := true })).onCtr fun x =>
      { x with nextFrame := frame + 1, placed := none, grid := none, past := (c.pastAt p.count :: x.past).take 2 })
    (match s.ctr.grid with | some g => g.next | none => p.vtime + c.hdr.frameCycle) c.hdr.frameCycle
    (launchMin (some (c.pastAt p.count)) s.ctr.past.head?)
  exact ⟨q, hq⟩
end

/-! ### The frame program's start -/

@[simp] theorem State.takeAgreed_schedule (cls v : Nat) : (s.takeAgreed cls v).schedule = s.schedule := by
  simp only [State.takeAgreed]
  split <;> simp

@[simp] theorem State.takeAgreed_cpx (cls v : Nat) : (s.takeAgreed cls v).cpx = s.cpx := by
  simp only [State.takeAgreed]
  split <;> simp

@[simp] theorem State.closeRounds_schedule : s.closeRounds.schedule = s.schedule :=
  foldl_keeps State.schedule (fun t (r : Round) => t.takeAgreed_schedule r.addr r.result) _ _

@[simp] theorem State.closeRounds_qmSide : s.closeRounds.cpx.qmSide = s.cpx.qmSide :=
  foldl_keeps (fun t : State => t.cpx.qmSide) (fun t (r : Round) => by simp) _ _

@[simp] theorem State.splitBoundary_schedule : s.splitBoundary.schedule = s.schedule := by
  unfold State.splitBoundary
  split
  · rfl
  · split <;> simp

@[simp] theorem State.splitBoundary_qmSide : s.splitBoundary.cpx.qmSide = s.cpx.qmSide := by
  unfold State.splitBoundary
  split
  · rfl
  · split <;> simp

@[simp] theorem State.applyRate_tim : s.applyRate.tim = s.tim := by simp [State.applyRate, apply_ite State.tim]
@[simp] theorem State.applyRate_emt : s.applyRate.emt = s.emt := by simp [State.applyRate, apply_ite State.emt]
@[simp] theorem State.applyRate_cpx : s.applyRate.cpx = s.cpx := by simp [State.applyRate, apply_ite State.cpx]

@[simp] theorem State.swapContracts_tim (frame : Nat) : (s.swapContracts frame).tim = s.tim := by
  simp only [State.swapContracts]
  repeat' split
  all_goals simp

@[simp] theorem State.swapContracts_emt (frame : Nat) : (s.swapContracts frame).emt = s.emt := by
  simp only [State.swapContracts]
  repeat' split
  all_goals simp

@[simp] theorem State.swapContracts_qmSide (frame : Nat) : (s.swapContracts frame).cpx.qmSide = s.cpx.qmSide := by
  simp only [State.swapContracts]
  repeat' split
  all_goals simp

/-- A swap arms the staged contract (R66). -/
theorem State.swapContracts_armed {n : Contract} (staged : s.ctr.staged = some n) (frame : Nat) : (s.swapContracts frame).ctr.armed = some n := by
  simp only [State.swapContracts, staged]
  split <;> simp

/-- A frame whose slots were bound for the contract that the boundary arms starts with that contract. -/
theorem State.boundaryStart_eq {l : LateStart} {c : Contract} (staged : l.staged = s.swapReady) (next : s.nextContract = some c) :
    s.boundaryStart l = ((if s.swapReady then s.swapContracts l.frame else s).splitBoundary.applyRate).startProgram c l := by
  unfold State.nextContract at next
  cases ready : s.swapReady with
  | true =>
    rw [ready] at staged next
    simp only [if_true] at next
    simp [State.boundaryStart, ready, next, staged, s.swapContracts_armed next]
  | false =>
    rw [ready] at next
    simp only [Bool.false_eq_true, if_false] at next
    simp [State.boundaryStart, ready, next]

section
variable {l : LateStart} {c : Contract} (staged : l.staged = s.swapReady) (next : s.nextContract = some c)
include staged next

theorem State.boundaryStart_tim : (s.boundaryStart l).tim = s.tim := by
  rw [s.boundaryStart_eq staged next]
  have split := congrArg Prod.fst (State.splitBoundary_schedule (if s.swapReady then s.swapContracts l.frame else s))
  simp only [State.schedule] at split
  simp [State.startProgram, split, apply_ite State.tim]

theorem State.boundaryStart_emt : (s.boundaryStart l).emt = s.emt := by
  rw [s.boundaryStart_eq staged next]
  have split := congrArg (fun x => x.2.2.1) (State.splitBoundary_schedule (if s.swapReady then s.swapContracts l.frame else s))
  simp only [State.schedule] at split
  simp [State.startProgram, split, apply_ite State.emt]

theorem State.boundaryStart_qmSide : (s.boundaryStart l).cpx.qmSide = s.cpx.qmSide := by
  rw [s.boundaryStart_eq staged next]
  simp [State.startProgram]

theorem State.boundaryStart_prog : (s.boundaryStart l).ctr.prog =
    { running := true, frame := l.frame, launch := l.launch, waves0 := l.waves0, committed := [], rings := l.rings, totals := [] } := by
  rw [s.boundaryStart_eq staged next]
  simp [State.startProgram]

theorem State.startOrQueue_tim : (s.startOrQueue l).tim = s.tim := by
  simp [State.startOrQueue, apply_ite State.tim, s.boundaryStart_tim staged next]

theorem State.startOrQueue_emt : (s.startOrQueue l).emt = s.emt := by
  simp [State.startOrQueue, apply_ite State.emt, s.boundaryStart_emt staged next]

theorem State.startOrQueue_qmSide : (s.startOrQueue l).cpx.qmSide = s.cpx.qmSide := by
  simp [State.startOrQueue, s.boundaryStart_qmSide staged next]

end

theorem State.startOrQueue_idle {l : LateStart} (idle : s.ctr.prog.running = false) : s.startOrQueue l = s.boundaryStart l := by
  simp [State.startOrQueue, idle]

theorem State.startOrQueue_running {l : LateStart} (run : s.ctr.prog.running = true) :
    s.startOrQueue l = s.onCtr fun x => { x with lateStart := x.lateStart ++ [l] } := by
  simp [State.startOrQueue, run]

end

/-- What a launch does when its time arrives (R15, R16, R365). -/
theorem doLaunch_starts {s : State} {p : Placed} {c : Contract} (on : s.pins.rstN = true) (placed : s.ctr.placed = some p)
    (next : s.nextContract = some c) (word : p.count < 2 ^ 64) {t : State} (run : doLaunch s = t) :
    p.count ≤ t.now ∧ t.cpx.qm = none ∧ t.cpx.windowOpen = false ∧
      t.ctr.nextFrame = s.ctr.nextFrame + 1 ∧ t.ctr.placed.isSome = true ∧ t.ctr.grid = none ∧ t.tim.launchSeen = true ∧
      t.emt.frames = s.emt.frames ++ [(s.openFrame p c).2.1] ∧
      t.ctr.prog = ((s.emitOpened p c).startOrQueue (s.openFrame p c).1).ctr.prog ∧
      t.ctr.lateStart = ((s.emitOpened p c).startOrQueue (s.openFrame p c).1).ctr.lateStart := by
  have staged := s.emitOpened_staged p c
  have next' := (s.emitOpened_next p c).trans next
  have side := State.startOrQueue_qmSide _ staged next'
  simp only [Cpx.qmSide, Prod.mk.injEq] at side
  obtain ⟨qm, -, window⟩ := side
  obtain ⟨q, ctr⟩ := State.closeLaunch_ctr ((s.emitOpened p c).startOrQueue (s.openFrame p c).1) p c (s.openFrame p c).1.frame
  rw [doLaunch_eq s on placed next] at run
  subst run
  refine ⟨?_, ?_, ?_, ?_, ?_, ?_, ?_, ?_, ?_, ?_⟩
  · have count := s.le_now_advance word
    simpa [State.now, State.startOrQueue_tim _ staged next', s.emitOpened_tim p c] using count
  · simp [qm, s.emitOpened_qm p c]
  · simp [window, s.emitOpened_window p c]
  · rw [ctr]
    exact congrArg (· + 1) (s.openFrame_startFrame p c)
  · simp [ctr]
  · simp [ctr]
  · simp
  · simp [State.startOrQueue_emt _ staged next', s.emitOpened_frames p c]
  · simp [ctr]
  · simp [ctr]

/-- PREEMPTION_KILL_TOKEN closes the window with no QM command left, 4 µs before the launch at the earliest (R15). -/
theorem doPreemptionKillToken_closes {s : State} {p : Placed} (on : s.pins.rstN = true) (placed : s.ctr.placed = some p)
    (idle : s.ctr.prog.running = false) (window : s.cpx.windowOpen = true) (word : p.count < 2 ^ 64) :
    (doPreemptionKillToken s).cpx.qm = none ∧ (doPreemptionKillToken s).cpx.windowOpen = false ∧
      p.count - 4000 ≤ (doPreemptionKillToken s).now ∧ (doPreemptionKillToken s).ctr.placed = some p := by
  have tim : ∀ u : State, u.preempt.tim = u.tim := fun u => congrArg Prod.fst u.preempt_schedule
  have count : p.count - 4000 ≤ (s.advance (p.count - 4000)).now := s.le_now_advance (by omega)
  simp only [doPreemptionKillToken, placed, on, idle, window]
  refine ⟨by simp [State.preempt_qm], by simp, ?_, by simp [placed]⟩
  simpa [State.now, tim] using count

/-- Settles O28: the launch is followed through its three parts (`doLaunch_eq`), none of which loses what an earlier one did. -/
theorem launchStartsAFrame : Obligations.LaunchStartsAFrame := by
  refine ⟨fun s p c on placed next word => ?_, fun s p on placed idle window word => ?_⟩
  · obtain ⟨now, qm, window, nextFrame, placed', grid, seen, frames, prog, late⟩ := doLaunch_starts on placed next word rfl
    have staged := s.emitOpened_staged p c
    have next' := (s.emitOpened_next p c).trans next
    have ctr := s.emitOpened_ctr p c
    obtain ⟨slot, swap, bound, frame⟩ := s.openFrame_emitFrame p c
    refine ⟨_, rfl, now, qm, window, nextFrame, placed', grid, seen, by simp [frames], ⟨_, by rw [frames]; simp; rfl, ?_⟩, ?_, ?_⟩
    · rw [frame]
      exact ⟨rfl, rfl, rfl, rfl, rfl⟩
    · intro idle _
      rw [prog, State.startOrQueue_idle _ (by rw [ctr, idle]), State.boundaryStart_prog _ staged next']
      exact ⟨rfl, s.openFrame_startFrame p c, s.openFrame_startLaunch p c, rfl⟩
    · intro run
      rw [prog, late, State.startOrQueue_running _ (by rw [ctr, run])]
      simp [ctr]
  · obtain ⟨qm, window', now, placed'⟩ := doPreemptionKillToken_closes on placed idle window word
    exact ⟨_, rfl, qm, window', now, placed'⟩

end Sys2Proof.Machine
end

section
/-! PROOF of the statement about RUN_OP and COMMIT. What a commit makes visible is `Cx.committed`; every operation around it (its
events, host writes, replies and the emitter's records) leaves the machinery alone. -/

namespace Sys2Proof.Machine

/-! ### The fabric under a commit -/

/-- The cores and the engines. -/
def Fab.units (f : Fab) : Vector Core 8 × Vector EngineSt 4 := (f.cores, f.engines)

/-- The bytes of every memory. -/
def Fab.bytes (f : Fab) : Memory × Memory × Vector Memory 8 × Memory := (f.dram, f.sb, f.spad, f.ckcRam)

section
variable (f : Fab)

@[simp] theorem Fab.poke_units (sp : Space) (a : Nat) (b : Byte) : (f.poke sp a b).units = f.units := by cases sp <;> rfl

@[simp] theorem Fab.pokes_units (sp : Space) (a : Nat) (l : List Byte) : (f.pokes sp a l).units = f.units := by
  induction l generalizing f a with
  | nil => rfl
  | cons b r ih => simp [Fab.pokes, ih]

@[simp] theorem Fab.applyJournal_units (l : List JWrite) : (f.applyJournal l).units = f.units := by
  induction l with
  | nil => rfl
  | cons w r ih => simp [Fab.applyJournal, ih]

@[simp] theorem Fab.putSem_units (n v : Nat) : (f.putSem n v).units = f.units := rfl

@[simp] theorem Fab.writeBack_units (l : CacheLine) : (f.writeBack l).units = f.units := by
  unfold Fab.writeBack
  split <;> simp

@[simp] theorem Fab.cacheFlush_units (c : Fin 8) (sel : CacheLine → Bool) : (f.cacheFlush c sel).units = f.units := by
  unfold Fab.cacheFlush
  split
  · rfl
  · exact foldl_keeps Fab.units Fab.writeBack_units _ f

@[simp] theorem Fab.commitCaches_units (flushes : List (Nat × Nat × Nat)) : (f.commitCaches flushes).units = f.units := by
  refine foldl_keeps Fab.units (fun g c => ?_) _ f
  split
  · rfl
  · exact Fab.cacheFlush_units _ c _

@[simp] theorem Fab.returnHeld_bytes (r : Run) : (f.returnHeld r).bytes = f.bytes :=
  (foldl_keeps Fab.bytes (fun (g : Fab) (i : Nat) => (rfl : (g.giveCredit i).bytes = g.bytes)) r.credits _).trans
    (foldl_keeps Fab.bytes (fun (g : Fab) (p : Nat × Nat) => (rfl : (g.putSem p.1 (satU 32 (g.sem p.1 + p.2))).bytes = g.bytes)) r.acquired f)

theorem Fab.peek_congr {f g : Fab} (h : f.bytes = g.bytes) (sp : Space) (a : Nat) : f.peek sp a = g.peek sp a := by
  simp only [Fab.bytes, Prod.mk.injEq] at h
  obtain ⟨dram, sb, spad, ckc⟩ := h
  cases sp <;> simp [Fab.peek, dram, sb, spad, ckc]

/-- An engine's state reads back. -/
@[simp] theorem Fab.engine_putEngine (g : Engine) (k : EngineSt) : (f.putEngine g k).engine g = k := by
  cases g <;> simp [Fab.putEngine, Fab.engine, vset, vget, engIdx]

end

section
variable (x : Cx)

@[simp] theorem Cx.put_fab (sp : Space) (a : Nat) (l : List Byte) : (x.put sp a l).fab = x.fab :=
  foldl_keeps (f := fun (p : Nat × Cx) b => (p.1 + 1, p.2.set sp p.1 b)) (fun p => p.2.fab) (fun _ _ => rfl) l (a, x)

@[simp] theorem Cx.commitRecord_fab (r : RecTotals) : (x.commitRecord r).fab = x.fab := by
  simp only [Cx.commitRecord]
  repeat' split
  all_goals simp

/-- A commit changes no core and no engine. -/
theorem Cx.committed_units : x.committed.units = x.fab.units := by
  have recs : (x.run.recs.foldl Cx.commitRecord x).fab = x.fab := foldl_keeps Cx.fab Cx.commitRecord_fab _ x
  have posts : ∀ (l : List (Nat × Nat)) (f : Fab), (l.foldl (fun f p => f.putSem p.1 (satU 32 (f.sem p.1 + p.2))) f).units = f.units :=
    foldl_keeps Fab.units fun _ _ => rfl
  simp only [Cx.committed]
  split <;> simp [posts, recs]

end

/-! ### RUN_OP -/

section
variable {s : State}

/-- Without a pending capacity change, a job boundary changes nothing. -/
theorem State.boundary_of_noCap (cap : s.cpx.cap = none) : s.boundary = s := by
  simp [State.boundary, State.capacityBoundary, cap]

/-- The command `pk` of the job `j` is an admitted RUN_OP at the front of `ring`, its units settled, its contract and its record `r` in
HOST_SHARED. -/
structure State.RunOpAdmitted (s : State) (ring : Nat) (streams : List (Nat × List (BitVec 128))) (j : Job) (pk : Packet) (r : OpRec) : Prop where
  on : s.pins.rstN = true
  cap : s.cpx.cap = none
  next : s.nextCmd ring = some (j, pk)
  code : pk.opcode = 0x31
  room : s.cpx.cplRoom pk.ring = true
  gate : s.gate (s.begun pk) = none
  read : r = readRec (fun sp a n => leNat (s.fab.peeks sp a n)) .dram (pk.u 0x18 8)
  settled : s.cmdSettled ((opInfo r.op).map fun k => k.unit) streams = true
  contract : s.mss.inOne tagShared (pk.u 0x10 8) 64 = true
  head : s.mss.inOne tagShared (pk.u 0x18 8) 32 = true
  whole : s.mss.inOne tagShared (pk.u 0x18 8) r.size = true

/-- An admitted RUN_OP is refused for its record or its streams, or for what it needs, or it starts. -/
theorem doRunOp_admitted {ring : Nat} {streams : List (Nat × List (BitVec 128))} {j : Job} {pk : Packet} {r : OpRec}
    (h : s.RunOpAdmitted ring streams j pk r) {rd : Reader} (reader : rd = fun sp a n => leNat (s.fab.peeks sp a n))
    {banks segs used bs gs : List Nat} (uses : used = if streams.isEmpty then r.holds rd else [])
    (banks' : bs = (banks ++ used.filter fun b => decide (b < 64)).eraseDups)
    (segs' : gs = (segs ++ (used.filter fun b => decide (64 ≤ b)).map fun b => b - 64).eraseDups) :
    doRunOp ring streams banks segs s =
      if !(r.ok false (fun _ _ _ => none) (r.nmsLen rd (fun _ _ _ => none)) && r.hdrsOk rd (fun _ _ => true) &&
          streams.all fun p => p.2.all (seqAllowedQm s.cpx.qmCores (j.banks ++ bs) (coreOf p.1))) then
        s.replyAll (s.begun pk) stBadParam 0xFFFF 0 0 0
      else if !s.canHold bs gs || !(streams.all fun p => s.cpx.qmCores.getLsbD p.1) then s.replyAll (s.begun pk) stNoResource 0 0 0 0
      else s.startOp (s.begun pk) j streams bs gs := by
  obtain ⟨on, cap, next, code, room, gate, read, settled, contract, head, whole⟩ := h
  subst banks' segs' uses reader
  have starts : ∀ body, s.startCmd pk body = body (s.begun pk) s := fun body => by
    unfold State.begun at gate ⊢
    simp only [State.startCmd, room, gate, Bool.not_true, Bool.false_eq_true, if_false]
  have u : ∀ off n, (s.begun pk).u off n = pk.u off n := fun _ _ => rfl
  unfold doRunOp
  rw [if_neg (by simp [on]), State.boundary_of_noCap cap]
  simp only [next, code, ← read, settled, starts, u, contract, head, whole]
  rfl

variable (pk : Packet) (j : Job) {streams : List (Nat × List (BitVec 128))} (banks segs : List Nat)

/-- A command with streams runs from its start with nothing done, on the QM core set. -/
theorem State.startOp_qm (some_ : streams ≠ []) : ∃ q, (s.startOp pk j streams banks segs).cpx.qm = some q ∧ q.pkt = pk ∧
    q.cores = s.cpx.qmCores ∧ q.streams = streams ∧ q.run.active = true ∧ q.run.done = false ∧ q.run.journal = [] := by
  have more : streams.isEmpty = false := by simpa using some_
  simp only [State.startOp, more]
  exact ⟨_, rfl, rfl, rfl, rfl, rfl, rfl, rfl⟩

/-- A command with streams starts by resetting the cores of the QM core set. -/
theorem State.startOp_fab (some_ : streams ≠ []) : (s.startOp pk j streams banks segs).fab = (s.freshCores s.cpx.qmCores).fab := by
  have more : streams.isEmpty = false := by simpa using some_
  simp [State.startOp, more, State.freshCores]

end

section
variable (s : State)

@[simp] theorem State.freshCores_bytes (m : BitVec 8) : (s.freshCores m).fab.bytes = s.fab.bytes := rfl

/-- A core of the set starts at its stream's first instruction. -/
theorem State.freshCores_core {m : BitVec 8} {c : Fin 8} (member : m.getLsbD c.val = true) :
    ((s.freshCores m).fab.cores.get c).csq = 0 ∧ ((s.freshCores m).fab.cores.get c).halted = false := by
  simp [State.freshCores, Vector.get_ofFn, member]

/-- Running a command again changes no byte of any memory. -/
theorem State.qmAgain_bytes (q : QmRun) (run : Run) : (s.qmAgain q run).fab.bytes = s.fab.bytes := by
  simp only [State.qmAgain, State.onCpx_fab, State.freshCores_bytes, State.onFab_fab, Fab.returnHeld_bytes]
  rfl

end

theorem Cx.committed_cores (x : Cx) : x.committed.cores = x.fab.cores := congrArg Prod.fst x.committed_units

theorem Cx.committed_engine (x : Cx) (g : Engine) : x.committed.engine g = x.fab.engine g := by
  have engines : x.committed.engines = x.fab.engines := congrArg Prod.snd x.committed_units
  cases g <;> simp only [Fab.engine, engines]

/-! ### What happens around a commit -/

section
variable (s : State)

@[simp] theorem State.answerKills_machinery (res : Nat) : (s.answerKills res).machinery = s.machinery :=
  foldl_keeps State.machinery (fun t (k : KillToken) => t.reply_machinery k.killer stDone 0 res) _ _

@[simp] theorem State.emitObjects_machinery (f : EmitFrame) (slot : Option (List Byte)) (late : Bool) :
    (s.emitObjects f slot late).machinery = s.machinery := by simp [State.emitObjects]

@[simp] theorem State.releaseSlots_machinery (a : Contract) (e : StepEdges) : (s.releaseSlots a e).machinery = s.machinery := by
  refine foldl_keeps State.machinery (fun t p => ?_) _ s
  repeat' split
  all_goals simp

@[simp] theorem State.commitTiles_machinery (e : StepEntry) : (s.commitTiles e).machinery = s.machinery := by
  simp only [State.commitTiles]
  split <;> simp

@[simp] theorem State.commitObjects_machinery (a : Contract) (e : StepEdges) : (s.commitObjects a e).machinery = s.machinery := by
  simp only [State.commitObjects]
  repeat' split
  all_goals simp

@[simp] theorem State.stepTransient_machinery (e : StepEntry) (run : Run) : (s.stepTransient e run).machinery = s.machinery := by
  unfold State.stepTransient
  split <;> simp

/-- The host writes and the fault record of the command that commits. -/
def State.tellQm (q : QmRun) : State :=
  let s := q.run.hostWrites.foldl (fun s w => s.hostWrite w.1 w.2) s
  match q.run.firstFail with
  | some f => (s.recordFault f (q.pkt.faultCtx q.run.firstSeen outTransient q.run.firstFails 1 0)).countErr (unitErrRow f.unit) colTransient 1
  | none => s

@[simp] theorem State.tellQm_machinery (q : QmRun) : (s.tellQm q).machinery = s.machinery := by
  have writes : ∀ (l : List (Nat × List Byte)) (t : State), (l.foldl (fun s w => s.hostWrite w.1 w.2) t).machinery = t.machinery :=
    foldl_keeps State.machinery fun t w => t.hostWrite_machinery w.1 w.2
  simp only [State.tellQm]
  split <;> simp [writes]

@[simp] theorem State.tellQm_cpx (q : QmRun) : (s.tellQm q).cpx = s.cpx := by
  have writes : ∀ (l : List (Nat × List Byte)) (t : State), (l.foldl (fun s w => s.hostWrite w.1 w.2) t).cpx = t.cpx :=
    foldl_keeps State.cpx fun t w => t.hostWrite_cpx w.1 w.2
  simp only [State.tellQm]
  split <;> simp [writes]

end

/-! ### A command's commit -/

section
variable {s : State} {q : QmRun}

/-- The end of a command that committed, with no kill of its job: it replies and is gone. -/
def State.leaveQm (pk : Packet) (st dt res waves ns : Nat) (s : State) : State :=
  ((s.onCpx fun c => { c with qm := none }).replyAll pk st dt res waves ns).answerKills 1

/-- With no capacity change pending, a command that leaves changes no machinery and none runs. -/
theorem State.leaveQm_boundary {t : State} (cap : t.cpx.cap = none) (pk : Packet) (st dt res waves ns : Nat) :
    (t.leaveQm pk st dt res waves ns).boundary.fab = t.fab ∧ (t.leaveQm pk st dt res waves ns).boundary.cpx.qm = none := by
  have side : (t.leaveQm pk st dt res waves ns).cpx.qmSide = (none, none, t.cpx.windowOpen) := by
    rw [State.leaveQm, State.answerKills_qmSide, State.replyAll_qmSide, ← cap]
    rfl
  have fab : (t.leaveQm pk st dt res waves ns).fab = t.fab :=
    congrArg Prod.fst (show (t.leaveQm pk st dt res waves ns).machinery = t.machinery by simp [State.leaveQm])
  rw [State.boundary_of_noCap (congrArg (fun x => x.2.1) side)]
  exact ⟨fab, congrArg Prod.fst side⟩

/-- With no kill waiting and no capacity change, a command's commit makes all its effects visible and ends it (R18). -/
theorem State.commitQm_unkilled (kills : s.cpx.kills = []) (cap : s.cpx.cap = none) (w : List Int) :
    (s.commitQm q w).fab = (s.cxQm q).committed ∧ (s.commitQm q w).cpx.qm = none := by
  unfold State.commitQm
  extract_lets x waves s1 s2 s3 kills' whole
  have cpx : s3.cpx = s.cpx := s1.tellQm_cpx q
  have fab : s3.fab = x.committed := congrArg Prod.fst (s1.tellQm_machinery q)
  have none_ : kills' = [] := (congrArg Cpx.kills cpx).trans kills
  have left := State.leaveQm_boundary (cpx ▸ cap) q.pkt
  rw [← fab]
  clear_value s3
  clear fab cpx
  simp only [whole, none_, List.any_nil, Bool.false_eq_true, if_false]
  exact left _ _ _ _ _

/-- What the COMMIT of a command with nothing under way does (R70, R119, R120, R280). -/
theorem State.commitCmd_atCommit (h : s.QmAtCommit q) (w : List Int) : s.commitCmd w =
    if !s.gensOk q.run then
      if q.run.genReplay then s.endQm q stGeneration 0
      else (s.onFab Fab.dropClean).qmAgain q { q.run with genReplay := true, gens := s.readGens (q.run.gens.map fun g => g.1) }
    else if q.run.recs.any fun r => !r.peak.isFin then s.endQm q stNonfinite 0
    else if !(s.cxQm q).retryScales.isEmpty then s.qmAgain q { q.run with retry := true, qRetry := (s.cxQm q).retryScales }
    else s.commitQm q w := by
  obtain ⟨-, run, active, ended, good⟩ := h
  simp [State.commitCmd, run, active, ended, good]

end

/-! ### A step's commit -/

section
variable {s : State}

section
variable {a : Contract} {e : StepEntry} {x : Cx} (armed : s.ctr.armed = some a)
include armed

/-- What the COMMIT at the end of a core's step does (R70, R120, R156). -/
theorem State.commitCore_atCommit {c : Fin 8} {k : Core} {run : Run} (core : k = s.fab.cores.get c) (step : a.stepOf c.val k.csq = some e)
    (running : s.ctr.prog.running = true) (atCommit : s.coreAtCommit a c = true)
    (current : run = if k.run.active then k.run else Run.start 0 e.id s.now s.waveNow) (good : run.failed = none)
    (checked : x = ({ s.cx run with cls := 0xC }).goldenCheck a e c) (w v : List Int) :
    s.commitCore c w v =
      if x.run.failed.isSome then s.onFab fun f => { f with cores := f.cores.set c { k with run := x.run } }
      else if !x.retryScales.isEmpty then s.coreAgain c e { run with retry := true, qRetry := x.retryScales }
      else (s.restCore c (k.csq + 1) Run.idle).commitStep a e { x with fab := (s.restCore c (k.csq + 1) Run.idle).fab } w v := by
  simp only [State.commitCore, armed, ← core, step, running, atCommit, ← current, good, ← checked]
  rfl

/-- What the COMMIT at the end of an engine's step does (R70, R120, R156). -/
theorem State.commitEngine_atCommit {g : Engine} {k : EngineSt} (engine : k = s.fab.engine g)
    (found : a.steps.find? (fun e => e.id = k.run.ident && decide (e.unit = unitCode (.eng g))) = some e)
    (running : s.ctr.prog.running = true) (active : k.run.active = true) (done : k.run.done = true) (good : k.run.failed = none)
    (current : x = s.cx k.run) (w v : List Int) :
    s.commitEngine g w v =
      if !x.retryScales.isEmpty then (s.onFab fun f => f.returnHeld k.run).restEngine g e.streamOffset
        (Run.again { k.run with retry := true, qRetry := x.retryScales })
      else ((s.restEngine g k.next Run.idle).commitStep a e { x with fab := (s.restEngine g k.next Run.idle).fab } w v).engineSlice g e true none
        false := by
  simp only [State.commitEngine, armed, ← engine, found, running, active, done, good, ← current]
  rfl

end

/-- A core that rests stands where its commit left it. -/
theorem State.restCore_core (c : Fin 8) (idx : Nat) (run : Run) :
    ((s.restCore c idx run).fab.cores.get c).csq = idx ∧ ((s.restCore c idx run).fab.cores.get c).run = run := by
  simp [State.restCore, Vector.get_eq_getElem]

/-- An engine that rests stands where its commit left it. -/
theorem State.restEngine_engine (g : Engine) (next : Nat) (run : Run) :
    ((s.restEngine g next run).fab.engine g).next = next ∧ ((s.restEngine g next run).fab.engine g).run = run := by
  simp [State.restEngine]

/-- A commit of a step that is not the program's last makes the step's effects visible and notes it as committed. -/
theorem State.commitStep_unfinished {a : Contract} {e : StepEntry} {x : Cx} (more : s.ctr.prog.committed.length + 1 ≠ a.hdr.stepCount)
    (w v : List Int) : (s.commitStep a e x w v).fab = x.committed ∧
      (s.commitStep a e x w v).ctr.prog.committed = e.id :: s.ctr.prog.committed := by
  unfold State.commitStep
  extract_lets edges fr s1 s2 s3 s4 s5
  have reports : s1.machinery = s.machinery := foldl_keeps State.machinery (fun t _ => t.note_machinery ..) _ _
  have slots : s3.machinery = s2.machinery := s2.releaseSlots_machinery a edges
  have records : s5.machinery = s4.machinery := by simp [s5]
  have prog : s3.ctr.prog = s.ctr.prog := (congrArg (fun m => m.2.1.prog) slots).trans (congrArg (fun m => m.2.1.prog) reports)
  have fab : s5.fab = x.committed := (congrArg Prod.fst records).trans (congrArg Prod.fst slots)
  have noted : s5.ctr.prog.committed = e.id :: s.ctr.prog.committed :=
    (congrArg (fun m => m.2.1.prog.committed) records).trans (congrArg (fun p => e.id :: p.committed) prog)
  rw [if_neg (by rw [noted]; exact more)]
  exact ⟨fab, noted⟩

end

/-- Settles O58: one equation for each command (`doRunOp_admitted`, `State.commitCmd_atCommit`, `State.commitCore_atCommit`,
`State.commitEngine_atCommit`), whose branches are the statement's cases. -/
theorem commitsAreAllOrNothing : Obligations.CommitsAreAllOrNothing := by
  refine ⟨?_, ?_, ?_, ?_⟩
  · intro s ring streams banks segs used bs gs j pk r rd allowed on cap next code room gate contract head reader read whole settled uses
      banks' segs' allowed'
    have run : exec (.runOp ring streams banks segs) s = .next (doRunOp ring streams banks segs s) := rfl
    rw [run, doRunOp_admitted ⟨on, cap, next, code, room, gate, reader ▸ read, settled, contract, head, whole⟩ reader uses banks' segs', ← allowed']
    refine ⟨fun bad => ?_, fun ok hdrs good => ⟨fun short => ?_, fun hold cores => ?_⟩⟩
    · rw [if_pos (by rcases bad with bad | bad | bad <;> simp [bad])]
    · rw [if_neg (by simp [ok, hdrs, good]), if_pos]
      simpa using short
    · have member : (streams.all fun p => s.cpx.qmCores.getLsbD p.1) = true := List.all_eq_true.2 cores
      rw [if_neg (by simp [ok, hdrs, good]), if_neg (by simp [hold, member])]
      refine ⟨rfl, fun some_ => ?_⟩
      obtain ⟨q, qm, pkt, set, strs, active, done, journal⟩ := State.startOp_qm (s := s) (s.begun pk) j bs gs some_
      have fab := State.startOp_fab (s := s) (s.begun pk) j bs gs some_
      refine ⟨q, _, rfl, qm, pkt, set, strs, active, done, journal, fun c member => ?_, fun sp b => ?_⟩
      · rw [fab]
        exact s.freshCores_core member
      · rw [fab]
        exact Fab.peek_congr (s.freshCores_bytes _) sp b
  · intro s q w v h
    have run : exec (.commit .qm w v) s = .next (s.commitCmd w) := congrArg Host.Outcome.next (if_neg (by simp [h.on]))
    rw [run, State.commitCmd_atCommit h]
    refine ⟨fun gens => ⟨fun again => ?_, fun first => ?_⟩, fun gens bad => ?_, fun gens fin => ⟨fun excess => ?_, fun settled => ?_⟩,
      fun r sp b => Fab.peek_congr (s.qmAgain_bytes q r) sp b⟩
    · simp [gens, again]
    · simp [gens, first]
    · have bad' : (q.run.recs.any fun r => !r.peak.isFin) = true := by simpa using bad
      simp [gens, bad']
    · have fin' : (q.run.recs.any fun r => !r.peak.isFin) = false := by simpa using fin
      simp [gens, fin', excess]
    · have fin' : (q.run.recs.any fun r => !r.peak.isFin) = false := by simpa using fin
      rw [if_neg (by simp [gens]), if_neg (by simp [fin']), if_neg (by simp [settled])]
      exact ⟨rfl, fun kills cap => ⟨_, rfl, State.commitQm_unkilled kills cap w⟩⟩
  · intro s c a e k run x w v on armed kdef step running atCommit rdef good xdef
    have body : exec (.commit (.core c) w v) s = .next (s.commitCore c w v) := congrArg Host.Outcome.next (if_neg (by simp [on]))
    rw [body, State.commitCore_atCommit armed kdef step running atCommit rdef good xdef]
    refine ⟨fun failed => ?_, fun passed settled => ?_, fun passed excess => ?_⟩
    · rw [if_pos (Option.isSome_iff_ne_none.2 failed)]
    · rw [if_neg (by simp [passed]), if_neg (by simp [settled])]
      refine ⟨rfl, fun more => ?_⟩
      obtain ⟨fab, noted⟩ := State.commitStep_unfinished (s := s.restCore c (k.csq + 1) Run.idle) (e := e)
        (x := { x with fab := (s.restCore c (k.csq + 1) Run.idle).fab }) more w v
      obtain ⟨csq, idle⟩ := State.restCore_core (s := s) c (k.csq + 1) Run.idle
      exact ⟨_, rfl, noted, by rw [fab, Cx.committed_cores, csq], by rw [fab, Cx.committed_cores, idle], fab⟩
    · rw [if_neg (by simp [passed]), if_pos (by simpa using excess)]
  · intro s g a e k x w v on armed kdef found running active done good xdef
    have body : exec (.commit (.engine g) w v) s = .next (s.commitEngine g w v) := congrArg Host.Outcome.next (if_neg (by simp [on]))
    rw [body, State.commitEngine_atCommit armed kdef found running active done good xdef]
    refine ⟨fun settled => ?_, fun excess => ?_⟩
    · rw [if_neg (by simp [settled])]
      refine ⟨rfl, fun more plain => ?_⟩
      obtain ⟨fab, noted⟩ := State.commitStep_unfinished (s := s.restEngine g k.next Run.idle) (e := e)
        (x := { x with fab := (s.restEngine g k.next Run.idle).fab }) more w v
      have slice : ∀ t : State, t.engineSlice g e true none false = t := fun t => by simp [State.engineSlice, plain]
      rw [slice]
      obtain ⟨next, idle⟩ := State.restEngine_engine (s := s) g k.next Run.idle
      exact ⟨_, rfl, noted, by rw [fab, Cx.committed_engine, idle], by rw [fab, Cx.committed_engine, next], fab⟩
    · rw [if_pos (by simpa using excess)]

end Sys2Proof.Machine
end

section
/-! SUPPORT. What faults and stops leave alone (`State.standing`), what the power unit's own work leaves alone
(`State.outsidePower`), and what a drain, a changed rate target and PARKED make of the power unit. -/

namespace Sys2Proof.Machine

/-! ### Entries of a vector -/

/-- An entry reads back after it was set, and every other entry is as before. -/
theorem vget_vset {α : Type} {n : Nat} (v : Vector α n) (i j : Nat) (x d : α) :
    vget (vset v i x) j d = if j = i ∧ i < n then x else vget v j d := by
  simp only [vget, vset, Vector.toArray_setIfInBounds, Array.getD_eq_getD_getElem?, Array.getElem?_setIfInBounds, Vector.size_toArray]
  by_cases same : i = j
  · subst same
    by_cases inside : i < n <;> simp [inside]
  · have other : j ≠ i := fun h => same h.symm
    simp [same, other]

theorem unitRateIdx_lt {u : UnitId} {i : Nat} (h : unitRateIdx u = some i) : i < 17 := by
  unfold unitRateIdx at h
  split at h <;> simp only [Option.some.injEq, reduceCtorEq] at h <;> omega

/-! ### What faults and drains leave alone -/

section
variable (s : State)

/-- TMB, the contracts, EMT's frames and the power unit, and whether the safe state is latched. -/
def State.standing (s : State) : (Tim × Ctr × Emt × Pwr) × Bool := (s.schedule, s.saf.latched)

@[simp] theorem State.onSen_standing (f : Sen → Sen) : (s.onSen f).standing = s.standing := rfl

@[simp] theorem State.snapshot_saf (cause : Nat) : (s.snapshot cause).saf = s.saf := by
  unfold State.snapshot
  split <;> simp

@[simp] theorem State.recordFault_latched (f : FailReport) (c : FaultCtx) : (s.recordFault f c).saf.latched = s.saf.latched := by
  simp [State.recordFault]

@[simp] theorem State.recordFault_standing (f : FailReport) (c : FaultCtx) : (s.recordFault f c).standing = s.standing := by
  simp [State.standing]

/-! ### Stopping what runs -/

@[simp] theorem State.ite_latched {c : Prop} [Decidable c] (t : State) :
    (if c then s else t).saf.latched = if c then s.saf.latched else t.saf.latched := apply_ite (fun u => u.saf.latched) c s t

@[simp] theorem State.discardQm_latched : s.discardQm.saf.latched = s.saf.latched := by
  simp only [State.discardQm]
  split
  · rfl
  · split <;> simp

@[simp] theorem State.answerKills_saf (res : Nat) : (s.answerKills res).saf = s.saf :=
  foldl_keeps State.saf (fun t (k : KillToken) => t.reply_saf k.killer stDone 0 res) _ _

@[simp] theorem State.killAll_saf (l : List Packet) : (State.killAll l s).saf = s.saf := by
  induction l generalizing s with
  | nil => rfl
  | cons p r ih => simp [State.killAll, ih]

@[simp] theorem State.countJob_saf (client : Nat) (ended : Bool) : (s.countJob client ended).saf = s.saf := rfl

@[simp] theorem State.dropJob_saf (ring : Nat) : (s.dropJob ring).saf = s.saf := rfl

@[simp] theorem State.teardownAs_latched (counts : Bool) (ring : Nat) (replies : Bool) :
    (s.teardownAs counts ring replies).saf.latched = s.saf.latched := by
  unfold State.teardownAs
  split <;> simp

@[simp] theorem State.teardown_latched (ring : Nat) (replies : Bool) : (s.teardown ring replies).saf.latched = s.saf.latched := by
  simp [State.teardown]

@[simp] theorem State.preempt_latched : s.preempt.saf.latched = s.saf.latched := by
  simp only [State.preempt]
  repeat' split
  all_goals simp

@[simp] theorem State.preempt_pwr : s.preempt.pwr = s.pwr := congrArg (fun x => x.2.2.2) s.preempt_schedule

@[simp] theorem State.splitBoundary_ctr : s.splitBoundary.ctr = s.ctr := congrArg (fun x => x.2.1) s.splitBoundary_schedule

@[simp] theorem State.dropStep_standing (r : Run) : (s.dropStep r).standing = s.standing := by
  unfold State.dropStep
  split <;> simp

@[simp] theorem State.releaseIngest_standing (c : Contract) (rs : List RingState) : (s.releaseIngest c rs).standing = s.standing := by
  refine foldl_keeps State.standing (fun t p => ?_) _ _
  split <;> simp

@[simp] theorem State.releaseLate_standing (c : Contract) (l : LateStart) : (State.releaseLate c s l).standing = s.standing := by
  unfold State.releaseLate
  split <;> simp

/-- Stopping the program leaves the power unit, the placed launch and the latch as they are. -/
theorem State.stopProgram_spec : s.stopProgram.pwr = s.pwr ∧ s.stopProgram.ctr.placed = s.ctr.placed ∧
    s.stopProgram.saf.latched = s.saf.latched := by
  unfold State.stopProgram
  extract_lets runs dropped released halted stopped
  have hdropped : dropped.standing = s.standing := foldl_keeps State.standing (fun t r => t.dropStep_standing r) _ _
  have hreleased : released.standing = dropped.standing := by
    unfold released
    split
    next c _ =>
      extract_lets bound
      have hbound : bound.standing = dropped.standing := by unfold bound; split <;> simp
      exact (foldl_keeps State.standing (fun t l => t.releaseLate_standing c l) _ _).trans hbound
    next => rfl
  have kept := hreleased.trans hdropped
  simp only [State.standing, State.schedule, Prod.mk.injEq] at kept
  obtain ⟨⟨-, ctr, -, pwr⟩, latched⟩ := kept
  have placed : released.ctr.placed = s.ctr.placed := congrArg Ctr.placed ctr
  exact ⟨pwr, placed, latched⟩

@[simp] theorem State.stopProgram_pwr : s.stopProgram.pwr = s.pwr := s.stopProgram_spec.1
@[simp] theorem State.stopProgram_placed : s.stopProgram.ctr.placed = s.ctr.placed := s.stopProgram_spec.2.1
@[simp] theorem State.stopProgram_latched : s.stopProgram.saf.latched = s.saf.latched := s.stopProgram_spec.2.2

@[simp] theorem State.cancelLaunches_pwr : s.cancelLaunches.pwr = s.pwr := rfl
@[simp] theorem State.cancelLaunches_saf : s.cancelLaunches.saf = s.saf := rfl
@[simp] theorem State.cancelLaunches_placed : s.cancelLaunches.ctr.placed = none := rfl

/-! ### The latch and the drain -/

/-- However the latch stood, it stands after a cause (R318). -/
@[simp] theorem State.latch_latched (cause : Nat) : (s.latch cause).saf.latched = true := by
  simp only [State.latch]
  split
  next => simp
  next stale =>
    have latched : s.saf.latched = true := by simp_all [Saf.fresh]
    simp [latched]

@[simp] theorem State.enter_state (d : DevState) : (s.enter d).pwr.state = d := by
  unfold State.enter
  split
  next same => exact same
  next => simp

@[simp] theorem State.enter_units (d : DevState) : (s.enter d).pwr.units = s.pwr.units := by
  unfold State.enter
  split <;> simp

@[simp] theorem State.enter_domains (d : DevState) : (s.enter d).pwr.domains = s.pwr.domains := by
  unfold State.enter
  split <;> simp

@[simp] theorem State.enter_tripped (d : DevState) : (s.enter d).pwr.tripped = s.pwr.tripped := by
  unfold State.enter
  split <;> simp

/-- A drain latches the safe state and leaves the units' monitors as they are (R339). -/
theorem State.startDrain_spec (f : FailReport) : (s.startDrain f).saf.latched = true ∧ (s.startDrain f).pwr.state = .draining ∧
    (s.startDrain f).pwr.units = s.pwr.units := by
  unfold State.startDrain
  extract_lets latched named stopped record written
  have state : stopped.pwr.state = .draining := by simp [stopped]
  have units : stopped.pwr.units = s.pwr.units := by simp [stopped, named, latched]
  have holds : stopped.saf.latched = true := by simp [stopped, named, latched]
  clear_value stopped
  split <;> simp [written, state, units, holds]

/-- A suspect unit latches the safe state, and drains a part that is READY or RUNNING (R334, R339). -/
theorem State.suspect_spec (f : FailReport) (c : FaultCtx) : (s.suspect f c).saf.latched = true ∧
    (s.suspect f c).pwr.units = s.pwr.units ∧
    (s.pwr.state = .ready ∨ s.pwr.state = .running → (s.suspect f c).pwr.state = .draining) := by
  unfold State.suspect State.suspectAs
  extract_lets counted cleared unit
  have kept : (s.recordFault f c).pwr = s.pwr := congrArg (fun x => x.2.2.2) (s.recordFault_schedule f c)
  have pwr : cleared.pwr = s.pwr := by simp [cleared, counted, kept]
  have drained := cleared.startDrain_spec unit
  rw [pwr] at drained
  clear_value cleared
  obtain ⟨latched, state, units⟩ := drained
  split
  · exact ⟨latched, units, fun _ => state⟩
  · exact ⟨latched, units, fun _ => state⟩
  next notReady notRunning => exact ⟨by simp, by simp [pwr], fun runs => absurd (pwr ▸ runs) (not_or.2 ⟨notReady, notRunning⟩)⟩

end

/-! ### What the power unit's own work leaves alone -/

section
variable (s : State)

/-- TMB, the contracts, the MSS's registers, the fuses, the safety block and the fabric. -/
def State.outsidePower (s : State) : Tim × Ctr × Mss × Sec × Saf × Fab := (s.tim, s.ctr, s.mss, s.sec, s.saf, s.fab)

@[simp] theorem State.onPwr_outsidePower (f : Pwr → Pwr) : (s.onPwr f).outsidePower = s.outsidePower := rfl
@[simp] theorem State.onEvr_outsidePower (f : Rec → Rec) : (s.onEvr f).outsidePower = s.outsidePower := rfl
@[simp] theorem State.raise_outsidePower (i : Nat) : (s.raise i).outsidePower = s.outsidePower := by simp [State.outsidePower]
@[simp] theorem State.note_outsidePower (c v u p q r : Nat) : (s.note c v u p q r).outsidePower = s.outsidePower := by
  simp [State.outsidePower]

@[simp] theorem State.ite_outsidePower {c : Prop} [Decidable c] (t : State) :
    (if c then s else t).outsidePower = if c then s.outsidePower else t.outsidePower := apply_ite State.outsidePower c s t

@[simp] theorem State.applyRate_outsidePower : s.applyRate.outsidePower = s.outsidePower := by simp [State.applyRate]
@[simp] theorem State.rateChanged_outsidePower : s.rateChanged.outsidePower = s.outsidePower := by simp [State.rateChanged]
@[simp] theorem State.capToFloor_outsidePower : s.capToFloor.outsidePower = s.outsidePower := by simp [State.capToFloor]
@[simp] theorem State.thermalEvent_outsidePower (k sensor : Nat) (v : Int) : (s.thermalEvent k sensor v).outsidePower = s.outsidePower := by
  simp [State.thermalEvent]
@[simp] theorem State.leaveParked_outsidePower : s.leaveParked.outsidePower = s.outsidePower := by simp [State.leaveParked]
@[simp] theorem State.thermalCheck_outsidePower : s.thermalCheck.outsidePower = s.outsidePower := by simp [State.thermalCheck]

theorem State.outsidePower_parts {s t : State} (h : t.outsidePower = s.outsidePower) :
    t.now = s.now ∧ t.mss = s.mss ∧ t.sec = s.sec ∧ t.fab = s.fab ∧ t.saf = s.saf := by
  simp only [State.outsidePower, Prod.mk.injEq] at h
  obtain ⟨tim, -, mss, sec, saf, fab⟩ := h
  exact ⟨by simp [State.now, tim], mss, sec, fab, saf⟩

/-! ### The rate target under a change -/

/-- The rate that reaches the LDOs, and with it the units' settling, are all that a new target changes (R28, R30). -/
theorem State.applyRate_pwr : ∃ rate units, s.applyRate.pwr = { s.pwr with effective := rate, units := units } := by
  unfold State.applyRate
  extract_lets target
  split
  · exact ⟨_, _, rfl⟩
  · exact ⟨_, _, rfl⟩

theorem State.rateChanged_pwr : ∃ rate units, s.rateChanged.pwr = { s.pwr with effective := rate, units := units } := by
  unfold State.rateChanged
  split
  · exact ⟨_, _, rfl⟩
  · exact s.applyRate_pwr

theorem State.capToFloor_pwr : ∃ rate units,
    s.capToFloor.pwr = { s.pwr with cap := s.sec.floor, effective := rate, units := units } :=
  State.rateChanged_pwr _

@[simp] theorem State.thermalEvent_pwr (k sensor : Nat) (v : Int) : (s.thermalEvent k sensor v).pwr = s.pwr := by simp [State.thermalEvent]

theorem State.leaveParked_pwr : ∃ rising, s.leaveParked.pwr = { s.pwr with rising := rising } := by
  unfold State.leaveParked
  split
  · exact ⟨_, rfl⟩
  · exact ⟨_, rfl⟩

end

/-! ### Parking -/

section
variable (s : State)

@[simp] theorem State.unloadContracts_saf : s.unloadContracts.saf = s.saf := by
  simp only [State.unloadContracts]
  split <;> simp

/-- Unloading takes every contract away and leaves the launches and the program (R375). -/
theorem State.unloadContracts_ctr : s.unloadContracts.ctr =
    { s.ctr with armed := none, staged := none, old := none, armPending := none, swapFrame := none } := by
  simp only [State.unloadContracts]
  split <;> simp

@[simp] theorem State.pwrEnd_ctr (st : Nat) : (s.pwrEnd st).ctr = s.ctr := by simp [State.pwrEnd]
@[simp] theorem State.pwrEnd_saf (st : Nat) : (s.pwrEnd st).saf = s.saf := by simp [State.pwrEnd]
@[simp] theorem State.pwrEnd_pwr (st : Nat) : (s.pwrEnd st).pwr = { s.pwr with busy := none, done := true, status := st } := by
  simp [State.pwrEnd]

@[simp] theorem State.gateOffEnd_ctr (mask : BitVec 64) : (s.gateOffEnd mask).ctr = s.ctr := by
  unfold State.gateOffEnd
  split <;> simp [State.gateOff, State.loseWrites]

@[simp] theorem State.gateOffEnd_saf (mask : BitVec 64) : (s.gateOffEnd mask).saf = s.saf := by
  unfold State.gateOffEnd
  split <;> simp [State.gateOff, State.loseWrites]

@[simp] theorem State.gateOffEnd_domains (mask : BitVec 64) : (s.gateOffEnd mask).pwr.domains = s.pwr.domains &&& ~~~mask := by
  unfold State.gateOffEnd
  split <;> simp [State.gateOff, State.loseWrites]

@[simp] theorem State.gateOffEnd_tripped (mask : BitVec 64) : (s.gateOffEnd mask).pwr.tripped = s.pwr.tripped := by
  unfold State.gateOffEnd
  split <;> simp [State.gateOff, State.loseWrites]

/-- A part that enters PARKED has every domain off and its link down (R375). -/
theorem State.enterParked_spec : s.enterParked.pwr.state = .parked ∧ s.enterParked.pwr.domains = 0 ∧
    s.enterParked.pwr.tripped = s.pwr.tripped ∧ s.enterParked.saf = s.saf ∧ s.enterParked.ctr = s.ctr ∧
    s.enterParked.hif.linkUp = false := by
  have off : s.pwr.domains &&& ~~~(s.pwr.domains ||| s.pwr.rising) = 0 := by
    ext i
    by_cases powered : s.pwr.domains[i] = true <;> simp [powered]
  simp [State.enterParked, off]

end

end Sys2Proof.Machine
end

section
/-! PROOF of the statement about the rate loop, the supply loop, the monitors and scrubbing: one lemma for each command. -/

namespace Sys2Proof.Machine

/-! ### The rate loop -/

/-- A window acts on the powered units' monitors: the report of a unit that is back above the floor (R31) keeps what stands, and
neither a join nor a swap is waiting. -/
theorem doRateMonitorWindow_spec {s : State} (on : s.pins.rstN = true) (idle : s.cpx.cap = none)
    (noSwap : s.ctr.armed ≠ none ∨ s.ctr.armPending = none) (rates : List Nat) {t : State} (run : doRateMonitorWindow rates s = t) :
    t.fab = s.fab ∧ t.ctr = s.ctr ∧ t.cpx = s.cpx ∧ t.saf.latched = s.saf.latched ∧
      ∀ i : Fin 17, t.pwr.units.get i = if s.pwr.unitOn i.val then
        (s.pwr.units.get i).window i.val (rates.getD i.val 0) s.pwr.effective s.sec.floor s.pwr.vdd t.now else s.pwr.units.get i := by
  unfold doRateMonitorWindow at run
  rw [if_neg (by simp [on])] at run
  extract_lets moved floor n was stepped seen back reported at run
  have schedule : reported.schedule = seen.schedule := foldl_keeps State.schedule (fun t _ => t.recordFault_schedule _ _) _ _
  have machinery : reported.machinery = seen.machinery := foldl_keeps State.machinery (fun t _ => t.recordFault_machinery _ _) _ _
  have cpx : reported.cpx = s.cpx :=
    (foldl_keeps State.cpx (fun t _ => t.recordFault_cpx _ _) back seen).trans (by simp [seen, stepped, moved])
  have latched : reported.saf.latched = s.saf.latched :=
    (foldl_keeps (fun u => u.saf.latched) (fun t _ => t.recordFault_latched _ _) back seen).trans (by simp [seen, stepped, moved])
  simp only [State.schedule, Prod.mk.injEq] at schedule
  obtain ⟨tim, ctr, -, pwr⟩ := schedule
  have ctr' : reported.ctr = s.ctr := ctr.trans (by simp [seen, stepped, moved])
  have fab : reported.fab = s.fab := (congrArg Prod.fst machinery).trans (by simp [State.machinery, seen, stepped, moved])
  have now : reported.now = n := by simp only [State.now, tim]; simp [seen, stepped, n, State.now]
  have noBoundary : reported.boundary = reported := reported.boundary_of_noCap (by rw [cpx, idle])
  have stays : t = reported := by
    rw [← run, noBoundary, State.firstSwap, if_neg]
    rw [State.swapReady, ctr']
    rcases noSwap with armed | pending
    · simp [Option.isNone_iff_eq_none, armed]
    · simp [pending]
  rw [stays, now, pwr]
  refine ⟨fab, ctr', cpx, latched, fun i => ?_⟩
  simp [seen, stepped, floor, moved]

/-- Where the set point of a rate-locked unit goes in one window (R25, R28), in microvolts and before it is clamped. -/
def RateUnit.aim (x : RateUnit) (rate target now : Nat) : Nat :=
  if rate < target ∨ x.flagged ≠ 0 ∨ x.owed = true then x.ldo + 2500
  else if target * 101 < rate * 100 ∧ ∀ t, x.flagClear = some t → t + 100000 ≤ now then x.ldo - 2500
  else x.ldo

section
variable (x : RateUnit) (i rate target floor vdd now : Nat)

/-- A rate-locked unit's set point is its aim, between 150 mV and 10 mV below the supply (R28). -/
theorem RateUnit.window_ldo (locked : i < 16) : (x.window i rate target floor vdd now).ldo =
    max (vdd * 1000 - 150000) (min (vdd * 1000 - 10000) (x.aim rate target now)) := by
  have notEmt : i ≠ 16 := by omega
  simp only [RateUnit.window, if_neg notEmt]
  congr 2
  unfold RateUnit.aim
  by_cases up : rate < target ∨ x.flagged ≠ 0 ∨ x.owed = true
  · rw [if_pos up, if_pos (by simpa [or_assoc] using up)]
  · rw [if_neg up, if_neg (by simpa [or_assoc] using up)]
    have quiet : x.flagged = 0 := by simp_all
    congr 1
    cases x.flagClear <;> simp [quiet]

/-- 50 windows in succession within 1 % of the target settle a unit (R28). -/
theorem RateUnit.window_inBand : (x.window i rate target floor vdd now).inBand =
    if target * 99 ≤ rate * 100 ∧ rate * 100 ≤ target * 101 then x.inBand + 1 else 0 := by
  simp [RateUnit.window]

theorem RateUnit.window_settled : (x.window i rate target floor vdd now).settled =
    (x.settled || decide (50 ≤ (x.window i rate target floor vdd now).inBand)) := rfl

variable {x rate target now}

/-- With a rate above 101 % of the target and no flag, the set point falls once the last flag has been gone for 100 µs. -/
theorem RateUnit.aim_down (fast : target * 101 < rate * 100) (calm : x.flagged = 0) (paid : x.owed = false)
    (quiet : ∀ t, x.flagClear = some t → t + 100000 ≤ now) : x.aim rate target now = x.ldo - 2500 := by
  have notUp : ¬(rate < target ∨ x.flagged ≠ 0 ∨ x.owed = true) := by simp [calm, paid]; omega
  rw [RateUnit.aim, if_neg notUp, if_pos ⟨fast, quiet⟩]

/-- With a rate at the target and no flag, the set point stays while the rate is not too high or a flag fell less than 100 µs ago. -/
theorem RateUnit.aim_hold (enough : target ≤ rate) (calm : x.flagged = 0) (paid : x.owed = false)
    (held : rate * 100 ≤ target * 101 ∨ ∃ t, x.flagClear = some t ∧ now < t + 100000) : x.aim rate target now = x.ldo := by
  have notUp : ¬(rate < target ∨ x.flagged ≠ 0 ∨ x.owed = true) := by simp [calm, paid, enough]
  rw [RateUnit.aim, if_neg notUp, if_neg]
  rintro ⟨fast, quiet⟩
  rcases held with near | ⟨t, fell, soon⟩
  · omega
  · exact absurd (quiet t fell) (by omega)

end

/-! ### Sentinels and the speed floor -/

theorem getLsbD_sentinelBit {j : Nat} (inside : j < 96) (k : Nat) : (1#96 <<< k).getLsbD j = decide (j = k) := by
  rw [Bool.eq_iff_iff]
  simp [inside]
  omega

/-- The flag of one sentinel is set or cleared, and no other (R24). -/
theorem RateUnit.flag_getLsbD (x : RateUnit) {k j : Nat} (inside : j < 96) (raised : Bool) (now : Nat) :
    (x.flag k raised now).flagged.getLsbD j = if j = k then raised else x.flagged.getLsbD j := by
  cases raised with
  | true =>
    have added : (x.flag k true now).flagged = x.flagged ||| (1#96 <<< k) := rfl
    rw [added, BitVec.getLsbD_or, getLsbD_sentinelBit inside]
    by_cases same : j = k <;> simp [same]
  | false =>
    have cleared : (x.flag k false now).flagged = x.flagged &&& ~~~(1#96 <<< k) := rfl
    rw [cleared, BitVec.getLsbD_and, BitVec.getLsbD_not, getLsbD_sentinelBit inside]
    by_cases same : j = k <;> simp [same, inside]

/-- A sentinel's flag acts on the monitor of its unit and on no other (R24, R25). -/
theorem doSentinelFlag_spec {s : State} (on : s.pins.rstN = true) {u : UnitId} {k i : Nat} (b : Bool) (idx : unitRateIdx u = some i)
    (inside : k < sentinels u) {t : State} (run : doSentinelFlag u k b s = t) :
    vget t.pwr.units i RateUnit.zero = (vget s.pwr.units i RateUnit.zero).flag k b s.now ∧
      (∀ j, j ≠ i → vget t.pwr.units j RateUnit.zero = vget s.pwr.units j RateUnit.zero) ∧
      t.pwr.emtMargin = (s.pwr.emtMargin || (b && decide (i = 16))) ∧
      t.evr = (if b then (s.countErr (unitErrRow u) colSentinel 1).evr else s.evr) ∧ t.fab = s.fab ∧ t.saf = s.saf := by
  have lt := unitRateIdx_lt idx
  simp only [doSentinelFlag, idx, on, inside, decide_true, Bool.not_true, Bool.or_self, Bool.false_eq_true, if_false] at run
  subst run
  cases b
  · exact ⟨by simp [vget_vset, lt], fun j other => by simp [vget_vset, other], by simp, rfl, rfl, rfl⟩
  · exact ⟨by simp [vget_vset, lt], fun j other => by simp [vget_vset, other], by simp, rfl, rfl, rfl⟩

/-- Taking a stage of R31 changes that mark of the unit's monitor. -/
theorem State.stageNoted_noted (s : State) {i : Nat} (lt : i < 17) (n : Nat) :
    (vget (s.stageNoted i n).pwr.units i RateUnit.zero).noted = n := by
  simp [State.stageNoted, vget_vset, lt]

@[simp] theorem State.stageNoted_state (s : State) (i n : Nat) : (s.stageNoted i n).pwr.state = s.pwr.state := rfl

/-- BELOW_FLOOR takes the stage that is due, once (R31, log 177). -/
theorem doBelowFloor_spec {s : State} (on : s.pins.rstN = true) {u : UnitId} {i : Nat} (idx : unitRateIdx u = some i) {x : RateUnit}
    (xdef : x = vget s.pwr.units i RateUnit.zero) :
    (10 ≤ x.below → x.below < 1000 → x.noted = 0 → doBelowFloor u s =
      (s.note 0x2002 sevError (unitCode u) (unitCode u) x.rate 0).stageNoted i 1) ∧
    ((x.below < 10 ∨ x.noted = 2) → doBelowFloor u s = s) ∧
    (1000 ≤ x.below → x.noted ≠ 2 → (doBelowFloor u s).saf.latched = true ∧
      (vget (doBelowFloor u s).pwr.units i RateUnit.zero).noted = 2 ∧
      (s.pwr.state = .ready ∨ s.pwr.state = .running → (doBelowFloor u s).pwr.state = .draining)) := by
  have lt := unitRateIdx_lt idx
  simp only [doBelowFloor, idx, on, ← xdef]
  refine ⟨fun ten short first => ?_, fun settled => ?_, fun long unmade => ?_⟩
  · have due : ¬ x.below < 10 := by omega
    simp [due, short, first]
  · rcases settled with few | made
    · simp [few]
    · simp [made]
  · have due : ¬ x.below < 10 := by omega
    have second : ¬ x.below < 1000 := by omega
    simp only [due, unmade, second, decide_false, Bool.not_true, Bool.or_self, Bool.false_eq_true, if_false]
    have state : (if x.noted = 0 then s.note 0x2002 sevError (unitCode u) (unitCode u) x.rate 0 else s).pwr.state = s.pwr.state := by
      split <;> simp
    generalize (if x.noted = 0 then s.note 0x2002 sevError (unitCode u) (unitCode u) x.rate 0 else s) = noted at state ⊢
    obtain ⟨latched, units, drains⟩ := (noted.stageNoted i 2).suspect_spec
      { detector := 0x08, unit := u, subunit := 0xFF, cls := 0xFF, address := 0, detail := BitVec.ofNat 32 x.rate } (FaultCtx.none outSuspect)
    refine ⟨latched, ?_, fun runs => drains (by rwa [State.stageNoted_state, state])⟩
    rw [units, noted.stageNoted_noted lt]

/-! ### The supply loop -/

/-- VDD_CORE is commanded within 0.62 V to 0.88 V (R29). -/
theorem Pwr.vddTarget_bounds (p : Pwr) : 620 ≤ p.vddTarget ∧ p.vddTarget ≤ 880 := by
  simp only [Pwr.vddTarget]
  omega

/-- The supply's next command (R378); nothing else of the power unit moves but the time since which the supply is high. -/
theorem Pwr.steer_spec (p : Pwr) (now : Nat) : ∃ since v, p.steer now = { p with lowSince := since, vdd := v } ∧
    (p.vdd < p.vddTarget → v = min p.vddTarget (p.vdd + 50)) ∧
    (p.vddTarget ≤ p.vdd → p.vdd < p.vddTarget + 10 → v = p.vdd) ∧
    (p.vddTarget + 10 ≤ p.vdd → v = p.vdd ∨ v = p.vdd - 5) := by
  unfold Pwr.steer
  extract_lets target since
  split
  next low => exact ⟨_, _, rfl, fun _ => rfl, fun h => by omega, fun h => by omega⟩
  next notLow =>
    split
    next high => exact ⟨_, _, rfl, fun h => absurd h notLow, fun _ h => by omega, fun _ => by split <;> simp⟩
    next near => exact ⟨_, p.vdd, rfl, fun h => absurd h notLow, fun _ _ => rfl, fun h => absurd h near⟩

/-- The AVSBus read of an evaluation (R379). -/
def State.takeVoltage (readMv : Option Nat) (s : State) : State :=
  match readMv with
  | none => s
  | some v =>
    let n := if decide (s.pwr.vdd + 25 < v ∨ v + 25 < s.pwr.vdd) then s.pwr.mismatches + 1 else 0
    let s := s.onPwr fun p => { p with vddRead := v, avsLast := s.now, mismatches := n }
    if n = 3 then s.note 0x6002 sevError noUnit 1 0 v else s

theorem State.takeVoltage_outsidePower (s : State) (r : Option Nat) : (s.takeVoltage r).outsidePower = s.outsidePower := by
  unfold State.takeVoltage
  split
  · rfl
  · dsimp only; split <;> simp

/-- A read that succeeded is kept with its time; the command and the units stand. -/
theorem State.takeVoltage_pwr (s : State) (r : Option Nat) : ∃ read last n,
    (s.takeVoltage r).pwr = { s.pwr with vddRead := read, avsLast := last, mismatches := n } ∧
      ∀ v, r = some v → read = v ∧ last = s.now := by
  cases r with
  | none => exact ⟨_, _, _, rfl, by simp⟩
  | some v =>
    refine ⟨v, s.now, if decide (s.pwr.vdd + 25 < v ∨ v + 25 < s.pwr.vdd) then s.pwr.mismatches + 1 else 0, ?_, by simp⟩
    simp only [State.takeVoltage]
    rw [apply_ite State.pwr, State.note_pwr, ite_self]
    rfl

/-- An evaluation steers the supply from the command that stood, and keeps what it read (R378, R379). -/
theorem doSupplyLoopEvaluation_spec {s : State} (on : s.pins.rstN = true) (r : Option Nat) (alert : Bool) {t : State}
    (run : doSupplyLoopEvaluation r alert s = t) :
    t.pwr.alert = alert ∧
      (s.pwr.vdd < s.pwr.vddTarget → t.pwr.vdd = min s.pwr.vddTarget (s.pwr.vdd + 50)) ∧
      (s.pwr.vddTarget ≤ s.pwr.vdd → s.pwr.vdd < s.pwr.vddTarget + 10 → t.pwr.vdd = s.pwr.vdd) ∧
      (s.pwr.vddTarget + 10 ≤ s.pwr.vdd → t.pwr.vdd = s.pwr.vdd ∨ t.pwr.vdd = s.pwr.vdd - 5) ∧
      (∀ v, r = some v → t.pwr.vddRead = v ∧ t.pwr.avsLast = t.now) ∧ t.fab = s.fab ∧ t.saf = s.saf := by
  unfold doSupplyLoopEvaluation at run
  rw [if_neg (by simp [on])] at run
  extract_lets moved cmd taken was steered told at run
  have takes : taken = moved.takeVoltage r := rfl
  obtain ⟨read, last, n, takenPwr, reads⟩ := moved.takeVoltage_pwr r
  obtain ⟨since, v, steers, low, near, high⟩ := taken.pwr.steer_spec taken.now
  have told_pwr : told.pwr = { taken.pwr.steer taken.now with alert := alert } := by unfold told; split <;> simp [steered]
  have outside : told.outsidePower = moved.outsidePower := by
    rw [← moved.takeVoltage_outsidePower r, ← takes]
    unfold told
    split <;> simp [steered]
  have ends : ∃ rate units, t.pwr = { told.pwr with effective := rate, units := units } := by
    rw [← run]
    split
    · exact ⟨_, _, rfl⟩
    · exact told.applyRate_pwr
  have stays : t.outsidePower = moved.outsidePower := by
    rw [← run]
    split <;> simp [outside]
  obtain ⟨rate, units, pwr⟩ := ends
  obtain ⟨now, -, -, fab, saf⟩ := State.outsidePower_parts stays
  have vdd : taken.pwr.vdd = s.pwr.vdd := by rw [takes, takenPwr]; simp [moved]
  have target : taken.pwr.vddTarget = s.pwr.vddTarget := by rw [takes, takenPwr]; simp [moved, Pwr.vddTarget, Pwr.unitOn]
  rw [vdd, target] at low near high
  rw [pwr, told_pwr, steers, takes, takenPwr, now]
  exact ⟨rfl, low, near, high, reads, fab.trans (by simp [moved]), saf.trans (by simp [moved])⟩

/-- AVSBUS_TIMEOUT restarts its own clock, 10 ms after the last transaction at the earliest (R379). -/
theorem doAvsbusTimeout_spec {s : State} (on : s.pins.rstN = true) {t : State} (run : doAvsbusTimeout s = t) :
    t.pwr = { s.pwr with avsLast := t.now } ∧ (s.pwr.avsLast + 10000000 < 2 ^ 64 → s.pwr.avsLast + 10000000 ≤ t.now) ∧
      t.fab = s.fab ∧ t.saf = s.saf := by
  simp only [doAvsbusTimeout, on, if_true] at run
  have now : t.now = (s.advance (s.pwr.avsLast + 10000000)).now := by rw [← run]; simp [State.now]
  refine ⟨?_, fun word => ?_, ?_, ?_⟩
  · rw [now, ← run]; simp
  · rw [now]; exact s.le_now_advance word
  · rw [← run]; simp
  · rw [← run]; simp

/-! ### Monitors and thermal limits -/

/-- The events of the thresholds of Table 15.9 that a sample has crossed. -/
def State.thermalEvents (s : State) : State :=
  let (i, v) := s.pwr.hottest
  let m := s.mss
  let p0 := s.pwr
  let s := if decide ((8 * m.warn : Nat) ≤ v) && !p0.warnAbove then s.thermalEvent 0 i v else s
  let s := if decide ((8 * m.throttle : Nat) ≤ v) && !p0.throttleAbove then s.thermalEvent 1 i v else s
  if decide (1000 ≤ v) && !p0.limitAbove then s.thermalEvent 2 i v else s

@[simp] theorem State.thermalEvents_outsidePower (s : State) : s.thermalEvents.outsidePower = s.outsidePower := by
  simp [State.thermalEvents]

@[simp] theorem State.thermalEvents_pwr (s : State) : s.thermalEvents.pwr = s.pwr := by
  simp [State.thermalEvents, apply_ite State.pwr]

/-- A sample at the limit puts the cap at the floor (R380). -/
def State.thermalCapped (s : State) : State :=
  if decide (1000 ≤ s.pwr.hottest.2) then s.thermalEvents.capToFloor else s.thermalEvents

@[simp] theorem State.thermalCapped_outsidePower (s : State) : s.thermalCapped.outsidePower = s.outsidePower := by
  simp [State.thermalCapped]

theorem State.thermalCapped_pwr (s : State) : ∃ rate units, s.thermalCapped.pwr =
    { s.pwr with cap := if 1000 ≤ s.pwr.hottest.2 then s.sec.floor else s.pwr.cap, effective := rate, units := units } := by
  obtain ⟨-, -, sec, -, -⟩ := State.outsidePower_parts s.thermalEvents_outsidePower
  unfold State.thermalCapped
  by_cases limit : 1000 ≤ s.pwr.hottest.2
  · obtain ⟨rate, units, pwr⟩ := s.thermalEvents.capToFloor_pwr
    rw [if_pos (decide_eq_true limit), if_pos limit]
    exact ⟨rate, units, by rw [pwr, State.thermalEvents_pwr, sec]⟩
  · rw [if_neg (by simpa using limit), if_neg limit]
    exact ⟨_, _, s.thermalEvents_pwr⟩

/-- A check of the thresholds: its events, the cap at the limit, and which thresholds the hottest reading is at. -/
theorem State.thermalCheck_eq (s : State) : s.thermalCheck = s.thermalCapped.onPwr fun p =>
    { p with warnAbove := decide (((8 * s.mss.warn : Nat) : Int) ≤ s.pwr.hottest.2),
             throttleAbove := decide (((8 * s.mss.throttle : Nat) : Int) ≤ s.pwr.hottest.2),
             limitAbove := decide (1000 ≤ s.pwr.hottest.2),
             tripSince := if 1040 ≤ s.pwr.hottest.2 then some (p.tripSince.getD s.thermalCapped.now) else none } := by
  unfold State.thermalCheck State.thermalCapped State.thermalEvents
  generalize s.pwr.hottest = reading
  obtain ⟨sensor, v⟩ := reading
  rfl

/-- Which reading is the hottest depends on the temperatures alone. -/
theorem Pwr.hottest_congr {p q : Pwr} (tj : p.tj = q.tj) : p.hottest = q.hottest := by simp only [Pwr.hottest, tj]

/-- After a sample's check the readings stand, and the marks, the cap and the trip's clock follow the hottest (R380). -/
theorem State.thermalCheck_leaveParked {s t : State} (run : s.thermalCheck.leaveParked = t) :
    t.pwr.tj = s.pwr.tj ∧ t.pwr.supply = s.pwr.supply ∧ t.pwr.lastSample = s.pwr.lastSample ∧
      t.pwr.warnAbove = decide (((8 * s.mss.warn : Nat) : Int) ≤ s.pwr.hottest.2) ∧
      t.pwr.throttleAbove = decide (((8 * s.mss.throttle : Nat) : Int) ≤ s.pwr.hottest.2) ∧
      t.pwr.cap = (if 1000 ≤ s.pwr.hottest.2 then s.sec.floor else s.pwr.cap) ∧
      t.pwr.tripSince.isSome = decide (1040 ≤ s.pwr.hottest.2) := by
  obtain ⟨rising, left⟩ := s.thermalCheck.leaveParked_pwr
  obtain ⟨rate, units, capped⟩ := s.thermalCapped_pwr
  rw [run, s.thermalCheck_eq, State.onPwr_pwr, capped] at left
  rw [left]
  refine ⟨rfl, rfl, rfl, rfl, rfl, rfl, ?_⟩
  dsimp only
  split <;> simp [*]

/-- The readings of a sample, and what they are compared with (R380, R381). -/
theorem doMonitorSample_spec {s : State} (on : s.pins.rstN = true) (tj : List Int) (sup : List Nat) {t : State}
    (run : doMonitorSample tj sup s = t) :
    t.pwr.tj = Vector.ofFn (fun i : Fin 32 => tj.getD i.val 0) ∧
      t.pwr.supply = Vector.ofFn (fun i : Fin 24 => sup.getD i.val 0) ∧ t.pwr.lastSample = t.now ∧
      t.pwr.warnAbove = decide (((8 * s.mss.warn : Nat) : Int) ≤ t.pwr.hottest.2) ∧
      t.pwr.throttleAbove = decide (((8 * s.mss.throttle : Nat) : Int) ≤ t.pwr.hottest.2) ∧
      t.pwr.cap = (if 1000 ≤ t.pwr.hottest.2 then s.sec.floor else s.pwr.cap) ∧
      t.pwr.tripSince.isSome = decide (1040 ≤ t.pwr.hottest.2) ∧ t.fab = s.fab ∧ t.saf = s.saf := by
  unfold doMonitorSample at run
  rw [if_neg (by simp [on])] at run
  extract_lets moved sampled seconds seen bad noted at run
  clear_value bad
  have noted_pwr : noted.pwr = sampled.pwr := by unfold noted; split <;> simp [seen]
  have noted_outside : noted.outsidePower = moved.outsidePower := by unfold noted; split <;> simp [seen, sampled]
  obtain ⟨-, mss, sec, -, -⟩ := State.outsidePower_parts noted_outside
  obtain ⟨now, -, -, fab, saf⟩ := State.outsidePower_parts (s := moved) (t := t) (by rw [← run]; simp [noted_outside])
  obtain ⟨tj', sup', last, warn, throttle, cap, trip⟩ := State.thermalCheck_leaveParked run
  rw [← Pwr.hottest_congr tj'] at warn throttle cap trip
  refine ⟨?_, ?_, ?_, ?_, ?_, ?_, trip, fab.trans (by simp [moved]), saf.trans (by simp [moved])⟩
  · rw [tj', noted_pwr]
    rfl
  · rw [sup', noted_pwr]
    rfl
  · rw [last, noted_pwr, now]
    rfl
  · simp [warn, mss, moved]
  · simp [throttle, mss, moved]
  · simp [cap, sec, noted_pwr, sampled, moved]

/-- The cap that THERMAL_CAP_STEP sets (R380). -/
def State.nextCap (s : State) : Nat :=
  if ((8 * s.mss.throttle : Nat) : Int) ≤ s.pwr.hottest.2 then max s.sec.floor (s.pwr.cap - 10)
  else if s.pwr.hottest.2 < ((8 * (s.mss.throttle - 5) : Nat) : Int) ∧ s.pwr.mr4Hot.isNone then min 1150 (s.pwr.cap + 10)
  else s.pwr.cap

/-- THERMAL_CAP_STEP sets the cap and passes the rate on (R380). -/
theorem doThermalCapStep_spec {s : State} (on : s.pins.rstN = true) {t : State} (run : doThermalCapStep s = t) :
    t.pwr.cap = s.nextCap ∧ t.fab = s.fab ∧ t.saf = s.saf := by
  have whole : t = ((s.advance ((s.now / 10000000 + 1) * 10000000)).onPwr fun p =>
      { p with cap := (s.advance ((s.now / 10000000 + 1) * 10000000)).nextCap }).rateChanged := by
    rw [← run, doThermalCapStep, if_neg (by simp [on])]
    rfl
  generalize moved_eq : s.advance ((s.now / 10000000 + 1) * 10000000) = moved at whole
  obtain ⟨rate, units, pwr⟩ := State.rateChanged_pwr (moved.onPwr fun p => { p with cap := moved.nextCap })
  rw [← whole] at pwr
  have stays : t.outsidePower = moved.outsidePower := by rw [whole]; simp
  obtain ⟨-, -, -, fab, saf⟩ := State.outsidePower_parts stays
  refine ⟨?_, fab.trans (by simp [← moved_eq]), saf.trans (by simp [← moved_eq])⟩
  rw [pwr]
  simp [← moved_eq, State.nextCap]

/-- MR4_READ takes the reading; at the high-temperature limit the cap is the floor (R143, R380). -/
theorem doMr4Read_spec {s : State} (on : s.pins.rstN = true) (h c : Nat) (hot : Bool) {t : State} (run : doMr4Read h c hot s = t) :
    t.pwr.mr4 = h ∧ t.pwr.mr4Hot.isSome = hot ∧ t.pwr.cap = (if hot then s.sec.floor else s.pwr.cap) ∧ t.fab = s.fab ∧ t.saf = s.saf := by
  unfold doMr4Read at run
  rw [if_neg (by simp [on])] at run
  extract_lets moved was read at run
  cases hot
  · subst run
    exact ⟨rfl, rfl, by simp [read, moved], by simp [read, moved], by simp [read, moved]⟩
  · rw [if_pos rfl] at run
    generalize noted_eq : (if was = true then read else read.note 0x6003 sevError noUnit c 0 0) = noted at run
    have noted_pwr : noted.pwr = read.pwr := by rw [← noted_eq]; split <;> simp
    have noted_outside : noted.outsidePower = moved.outsidePower := by rw [← noted_eq]; split <;> simp [read]
    obtain ⟨rate, units, pwr⟩ := noted.capToFloor_pwr
    obtain ⟨-, -, sec, -, -⟩ := State.outsidePower_parts noted_outside
    obtain ⟨-, -, -, fab, saf⟩ := State.outsidePower_parts (noted.capToFloor_outsidePower.trans noted_outside)
    subst run
    rw [pwr, noted_pwr, sec, fab, saf]
    exact ⟨rfl, rfl, by simp [moved], by simp [moved], by simp [moved]⟩

/-! ### The thermal trip -/

/-- The moment at which the trip is due: the earlier of its two clocks' ends (R380). -/
def Pwr.tripDue (p : Pwr) : Option Nat :=
  match p.tripSince, p.mr4Hot with
  | some a, some b => some (min (a + 1000000) (b + 100000000))
  | some a, none => some (a + 1000000)
  | none, some b => some (b + 100000000)
  | none, none => none

/-- Either clock of the trip gives a moment at which it is due. -/
theorem Pwr.tripDue_isSome {p : Pwr} (due : p.tripSince ≠ none ∨ p.mr4Hot ≠ none) : ∃ n, p.tripDue = some n := by
  unfold Pwr.tripDue
  split
  next => exact ⟨_, rfl⟩
  next => exact ⟨_, rfl⟩
  next => exact ⟨_, rfl⟩
  next cool slow => exact absurd due (by simp [cool, slow])

/-- A trip that is due ends what runs and parks the part (R380). -/
theorem doThermalTrip_eq {s : State} (on : s.pins.rstN = true) (runs : s.pwr.state = .ready ∨ s.pwr.state = .running) {n : Nat}
    (due : s.pwr.tripDue = some n) : ∃ sensor v, doThermalTrip s =
      ((((((s.advance n).thermalEvent 3 sensor v).cancelLaunches.preempt.stopProgram.splitBoundary.latch latchPower).unloadContracts).onPwr
        fun p => { p with tripped := true }).enterParked) := by
  have active : (!s.pins.rstN || !(s.pwr.state = .ready || s.pwr.state = .running)) = false := by
    rcases runs with ready | running
    · simp [on, ready]
    · simp [on, running]
  unfold doThermalTrip
  extract_lets moment
  have atDue : moment = some n := due
  clear_value moment
  subst atDue
  dsimp only
  rw [if_neg (by rw [active]; simp)]
  generalize (s.advance n).pwr.hottest = reading
  obtain ⟨sensor, v⟩ := reading
  exact ⟨sensor, v, rfl⟩

/-- A trip that is due parks the part, the safe state latched and no contract left (R375, R380). -/
theorem doThermalTrip_parks {s : State} (on : s.pins.rstN = true) (runs : s.pwr.state = .ready ∨ s.pwr.state = .running)
    (due : s.pwr.tripSince ≠ none ∨ s.pwr.mr4Hot ≠ none) {t : State} (run : doThermalTrip s = t) :
    t.pwr.state = .parked ∧ t.pwr.tripped = true ∧ t.pwr.domains = 0 ∧ t.saf.latched = true ∧ t.ctr.armed = none ∧ t.ctr.placed = none ∧
      t.hif.linkUp = false := by
  obtain ⟨n, moment⟩ := Pwr.tripDue_isSome due
  obtain ⟨sensor, v, parks⟩ := doThermalTrip_eq on runs moment
  obtain ⟨state, domains, tripped, saf, ctr, link⟩ := State.enterParked_spec
    ((((s.advance n).thermalEvent 3 sensor v).cancelLaunches.preempt.stopProgram.splitBoundary.latch latchPower).unloadContracts.onPwr
      fun p => { p with tripped := true })
  rw [← parks, run] at state domains tripped saf ctr link
  refine ⟨state, tripped, domains, ?_, ?_, ?_, link⟩
  · simp [saf]
  · simp [ctr, State.unloadContracts_ctr]
  · simp [ctr, State.unloadContracts_ctr]

/-- Settles O55: each command's lemma gives its clause, and `RateUnit.aim` says where a window takes the set point. -/
theorem loopsMonitorsAndScrubbing : Obligations.LoopsMonitorsAndScrubbing := by
  refine ⟨?window, ?unit, ?sentinel, ?margin, ?below, ?supply, ?avs, ?sample, ?capStep, ?trip, ?mr4, ?patrol, ?writeBack⟩
  case window =>
    intro s rates on idle noSwap
    exact ⟨_, rfl, doRateMonitorWindow_spec on idle noSwap rates rfl⟩
  case unit =>
    intro x y i rate target floor vdd now top bot locked ydef topdef botdef
    rw [ydef, topdef, botdef, x.window_ldo _ _ _ _ _ _ locked, RateUnit.window_settled, RateUnit.window_inBand]
    refine ⟨fun up => ?_, fun fast calm paid quiet => ?_, fun enough calm paid held => ?_, fun low high => ?_, fun out => ?_, ?_⟩
    · rw [RateUnit.aim, if_pos up]
    · rw [RateUnit.aim_down fast calm paid quiet]
    · rw [RateUnit.aim_hold enough calm paid held]
    · simp [low, high]
    · have outside : ¬(target * 99 ≤ rate * 100 ∧ rate * 100 ≤ target * 101) := by omega
      simp [outside]
    · exact ⟨rfl, rfl, rfl⟩
  case sentinel =>
    intro s u k b i on idx inside
    obtain ⟨flagged, rest⟩ := doSentinelFlag_spec on b idx inside rfl
    refine ⟨_, _, _, rfl, rfl, rfl, fun j lt => ?_, ?_, ?_, rest⟩
    · rw [flagged, RateUnit.flag_getLsbD _ lt]
    · rw [flagged]
      rfl
    · rw [flagged]
      rfl
  case margin =>
    intro s n on margin calm fell
    have run : exec .emtMarginExpiry s = .next (doEmtMarginExpiry s) := rfl
    rw [run]
    simp [doEmtMarginExpiry, on, margin, calm, fell]
  case below =>
    intro s u i x on idx xdef
    obtain ⟨first, idle, second⟩ := doBelowFloor_spec on idx xdef
    exact ⟨fun ten short unmade => congrArg Host.Outcome.next (first ten short unmade), fun done => congrArg Host.Outcome.next (idle done),
      fun long unmade => ⟨_, rfl, second long unmade⟩⟩
  case supply =>
    intro s r alert on
    obtain ⟨lo, hi⟩ := s.pwr.vddTarget_bounds
    obtain ⟨alerts, rest⟩ := doSupplyLoopEvaluation_spec on r alert rfl
    exact ⟨_, rfl, alerts, lo, hi, rest⟩
  case avs =>
    intro s on
    exact ⟨_, rfl, doAvsbusTimeout_spec on rfl⟩
  case sample =>
    intro s tj sup on
    obtain ⟨tjs, sups, last, warn, throttle, cap, trip, kept⟩ := doMonitorSample_spec on tj sup rfl
    refine ⟨_, rfl, tjs, sups, last, warn, throttle, cap, fun hot => ?_, fun cool => ?_, kept⟩
    · rw [trip, decide_eq_true hot]
    · rw [← Option.not_isSome_iff_eq_none, trip]
      simpa using cool
  case capStep =>
    intro s on
    obtain ⟨cap, fab, saf⟩ := doThermalCapStep_spec on rfl
    refine ⟨_, rfl, fab, saf, fun hot => ?_, fun cool calm => ?_, fun cool held => ?_⟩
    · rw [cap, State.nextCap, if_pos hot]
    · rw [cap, State.nextCap, if_neg (by omega), if_pos ⟨cool, by simp [calm]⟩]
    · rw [cap, State.nextCap, if_neg (by omega), if_neg]
      rintro ⟨below, calm⟩
      rcases held with limit | warm
      · exact limit (Option.isNone_iff_eq_none.1 calm)
      · omega
  case trip =>
    intro s on runs due
    exact ⟨_, rfl, doThermalTrip_parks on runs due rfl⟩
  case mr4 =>
    intro s h c hot on
    exact ⟨_, rfl, doMr4Read_spec on h c hot rfl⟩
  case patrol =>
    rintro s a v on trained inside rfl
    have patrol : ∀ found, exec (.patrolScrub a found) s = .next (doPatrolScrub a found s) := fun _ => rfl
    simp [patrol, doPatrolScrub, on, trained, inside]
  case writeBack =>
    intro s on
    have writeBack : ∀ u, exec (.eccWriteBack u) s = .next (doEccWriteBack u s) := fun _ => rfl
    simp [writeBack, doEccWriteBack, on]

end Sys2Proof.Machine
end

section
/-! PROOF of the statement about LOAD_CONTRACT: what powering the domains, copying the image, its INIT contents and its model leave
of the contracts and of CKC, and the bytes of the model in CKC's SRAM. -/

namespace Sys2Proof.Machine

/-! ### What staging leaves of the contracts and of CKC -/

section
variable (mask : BitVec 64) (d : Draft) (s : State)

@[simp] theorem State.gateOff_ctr : (s.gateOff mask).ctr = s.ctr := rfl
@[simp] theorem State.gateOff_ckc : (s.gateOff mask).ckc = s.ckc := rfl

@[simp] theorem State.powerOn_ctr : (s.powerOn mask).ctr = s.ctr := by simp [State.powerOn, apply_ite State.ctr]
@[simp] theorem State.powerOn_ckc : (s.powerOn mask).ckc = s.ckc := by simp [State.powerOn, State.pwrEnd, apply_ite State.ckc]

@[simp] theorem State.copyInit_ctr : (s.copyInit d).ctr = s.ctr :=
  foldl_keeps State.ctr (fun t b => by split <;> rfl) _ s
@[simp] theorem State.copyInit_ckc : (s.copyInit d).ckc = s.ckc :=
  foldl_keeps State.ckc (fun t b => by split <;> rfl) _ s

@[simp] theorem State.copyModel_ctr : (s.copyModel d).ctr = s.ctr := rfl

end

/-! ### The model in CKC's SRAM -/

@[simp] theorem imgBytes_length (i : Img) (a n : Nat) : (imgBytes i a n).length = n := by simp [imgBytes]

theorem imgBytes_getD (i : Img) (a : Nat) {n k : Nat} (inside : k < n) :
    (imgBytes i a n).getD k 0 = BitVec.ofNat 8 (i (a + k) 1) := by
  simp [imgBytes, inside]

/-- The resident part of the model lies in the slot that the armed contract does not use, byte for byte from the image (R309). -/
theorem State.copyModel_peek {s : State} {d : Draft} {i : Nat} (canon : s.Canonical) (inside : i < d.con.model.resident) :
    (s.copyModel d).fab.peek .ckc (modelBase (1 - s.ckc.slotArmed) + i) = BitVec.ofNat 8 (d.img (d.con.model.off + i) 1) := by
  have ram : (s.copyModel d).fab.ckcRam =
    memPut s.fab.ckcRam (modelBase (1 - s.ckc.slotArmed)) (imgBytes d.img d.con.model.off d.con.model.resident) := rfl
  rw [Fab.peek, ram, memGet_memPut canon.fab.ckc, if_pos (by rw [imgBytes_length]; omega), Nat.add_sub_cancel_left,
    imgBytes_getD _ _ inside]

/-! ### The staged contract -/

section
variable (pk : Packet) (d : Draft) (place base : Nat) {s : State}

theorem State.stageContract_ctr : (s.stageContract pk d place base).ctr = { s.ctr with staged := some (d.finish place base) } := by
  simp [State.stageContract]

theorem State.stageContract_peek (canon : s.Canonical) {i : Nat} (inside : i < d.con.model.resident) :
    (s.stageContract pk d place base).fab.peek .ckc (modelBase (1 - s.ckc.slotArmed) + i) =
      BitVec.ofNat 8 (d.img (d.con.model.off + i) 1) := by
  have copied := (State.copyInit_keeps (d := d)
    (State.putDram_keeps (a := place) (b := imgBytes d.img 0 d.con.hdr.imageSize)
      (State.powerOn_keeps (mask := (d.finish place base).domains) (Keeps.refl s)))).canon canon
  have peek := State.copyModel_peek copied inside
  rw [State.copyInit_ckc, State.putDram_ckc, State.powerOn_ckc] at peek
  simpa [State.stageContract] using peek

end

/-- A contract that is staged takes the place of an earlier one: beside it only the armed one holds ring numbers (R64, R65). -/
theorem Ctr.ringRanges_staged {c : Ctr} (noOld : c.old = none) (n : Contract) : Ctr.ringRanges { c with staged := some n } =
    (c.armed.toList ++ [n]).map (fun k => (k.ringBase, k.hdr.ringCount)) := by
  simp [Ctr.ringRanges, Ctr.allHeld, noOld]

/-! ### LOAD_CONTRACT -/

/-- The contract format that a client negotiated (R39); 0 before its HELLO. -/
def Cpx.contractFormat (c : Cpx) (client : Nat) : Nat :=
  match c.client? client with
  | some x => (match x.versions with | some v => v.contract | none => 0)
  | none => 0

@[simp] theorem State.markStarted_dramLe (s : State) (pk : Packet) : (s.markStarted pk).dramLe = s.dramLe := rfl
@[simp] theorem State.markStarted_check1 (s : State) (pk : Packet) (d : Draft) (size : Nat) :
    (s.markStarted pk).check1 d size = s.check1 d size := rfl

theorem State.runsContracts {s : State} (state : s.pwr.state = .ready ∨ s.pwr.state = .running) :
    (decide (s.pwr.state = .ready) || decide (s.pwr.state = .running)) = true := by simpa using state

section
variable {s : State} {ring : Nat} {pk : Packet} (starts : s.Starts ring 0x20 pk) (state : s.pwr.state = .ready ∨ s.pwr.state = .running)
  (locked : s.sec.unlocked = false) (shared : s.mss.inOne tagShared (pk.u 0x10 8) (pk.u 0x18 4) = true) (noOld : s.ctr.old = none)
include starts state locked shared noOld

/-- A LOAD_CONTRACT whose checks pass and whose test records agree stages the image. -/
theorem doLoadContract_passes {sigOk : Bool} {d : Draft} {place base : Nat}
    (parsed : d = parseImage fun a n => s.dramLe (pk.u 0x10 8 + a) n) (check1 : s.check1 d (pk.u 0x18 4) = some (place, base))
    (checks : s.bumpFree.loadChecks d (pk.u 0x18 4) (s.cpx.contractFormat pk.client) sigOk = none) :
    doLoadContract ring sigOk none s = (s.markStarted pk).bumpFree.stageContract (s.begun pk) d place base := by
  rw [doLoadContract, noOld, starts.run]
  simp only [Option.isSome_none, State.runsContracts (s := s.markStarted pk) state, State.markStarted_sec, locked, State.begun_u,
    State.markStarted_mss, shared, State.markStarted_dramLe, ← parsed, State.markStarted_check1, check1,
    Bool.not_true, Bool.or_false, Bool.false_eq_true, if_false]
  split
  next r fails => exact absurd (fails.symm.trans checks) (by simp)
  next => rfl

/-- While an ARM_CONTRACT is pending, check 1 finds no room for a second one. -/
theorem doLoadContract_armPending (pending : s.ctr.armPending.isSome = true) (sigOk : Bool) (injFail : Option Nat) :
    doLoadContract ring sigOk injFail s = (s.markStarted pk).noRes (s.begun pk) 0 := by
  have noRoom : ∀ d n, s.check1 d n = none := fun d n => if_pos pending
  rw [doLoadContract, noOld, starts.run]
  simp only [Option.isSome_none, State.runsContracts (s := s.markStarted pk) state, State.markStarted_sec, locked, State.begun_u,
    State.markStarted_mss, shared, State.markStarted_check1, noRoom, Bool.not_true, Bool.or_false, Bool.false_eq_true, if_false]

end

/-- Settles O26: what a passing LOAD_CONTRACT stages (`doLoadContract_passes`), and what a pending ARM_CONTRACT or an old contract's
last trailer makes of it. -/
theorem loadContractStagesTheImage : Obligations.LoadContractStagesTheImage := by
  refine ⟨?passes, ?armPending, ?oldDue⟩
  case passes =>
    rintro s ring pk sigOk d place base neg canon starts state locked shared noOld parsed check1 rfl checks
    have staged : doLoadContract ring sigOk none s = (s.markStarted pk).bumpFree.stageContract (s.begun pk) d place base :=
      doLoadContract_passes starts state locked shared noOld parsed check1 checks
    have ctr : (doLoadContract ring sigOk none s).ctr = { s.ctr with staged := some (d.finish place base) } := by
      rw [staged, State.stageContract_ctr]
      rfl
    refine ⟨_, rfl, by rw [ctr], by rw [ctr], by rw [ctr, noOld], by rw [ctr], by rw [ctr], ?_, fun i inside => ?_⟩
    · rw [ctr, Ctr.ringRanges_staged noOld]
    · have marked : (s.markStarted pk).bumpFree.Canonical := canon.congr rfl rfl
      have peek := State.stageContract_peek (s.begun pk) d place base marked inside
      rw [parsed] at peek
      rwa [staged, parsed]
  case armPending =>
    intro s ring pk sigOk inj starts state locked shared noOld pending
    exact congrArg Host.Outcome.next (doLoadContract_armPending starts state locked shared noOld pending sigOk inj)
  case oldDue =>
    intro s ring sigOk inj due
    exact congrArg Host.Outcome.next (if_pos due)

end Sys2Proof.Machine
end

section
/-! PROOF of the statement about ARM_CONTRACT and LAUNCH_AT: the first swap, what copying the evidence to the staged model leaves
alone, and the grid point at which a first launch is placed. -/

namespace Sys2Proof.Machine

/-! ### Copying the evidence -/

/-- The memories beside CKC's SRAM. -/
def Fab.besideCkc (f : Fab) : Memory × Memory × Vector Memory 8 := (f.dram, f.sb, f.spad)

@[simp] theorem Fab.pokes_besideCkc (f : Fab) (a : Nat) (l : List Byte) : (f.pokes .ckc a l).besideCkc = f.besideCkc := by
  induction l generalizing f a with
  | nil => rfl
  | cons b r ih => exact ih _ _

@[simp] theorem circPut_besideCkc (base size : Nat) (f : Fab) (off : Nat) (l : List Byte) :
    (circPut base size f off l).besideCkc = f.besideCkc := by
  induction l generalizing f off with
  | nil => rfl
  | cons b r ih => exact ih _ _

section
variable (s : State)

/-- What CKC's evidence is no part of: HIF, the contracts, the power unit and the memories beside CKC's SRAM. -/
def State.besideCkc (s : State) : Hif × Ctr × Pwr × Memory × Memory × Vector Memory 8 := (s.hif, s.ctr, s.pwr, s.fab.besideCkc)

@[simp] theorem State.onCkc_besideCkc (f : Ckc → Ckc) : (s.onCkc f).besideCkc = s.besideCkc := rfl

@[simp] theorem State.onFab_besideCkc {f : Fab → Fab} (h : ∀ g, (f g).besideCkc = g.besideCkc) :
    (s.onFab f).besideCkc = s.besideCkc := by simp [State.besideCkc, h]

@[simp] theorem State.ite_besideCkc {c : Prop} [Decidable c] (t : State) :
    (if c then s else t).besideCkc = if c then s.besideCkc else t.besideCkc := apply_ite State.besideCkc c s t

@[simp] theorem State.pushThumb_besideCkc (slot : Nat) (m : CkcModel) (cam w h : Nat) (b : List Byte) :
    (s.pushThumb slot m cam w h b).besideCkc = s.besideCkc := by
  unfold State.pushThumb
  split <;> simp

@[simp] theorem State.pushCopy_besideCkc (slot : Nat) (m : CkcModel) (l arrival : Nat) (payload : List Byte) :
    (s.pushCopy slot m l arrival payload).besideCkc = s.besideCkc := by
  unfold State.pushCopy
  split <;> simp

/-- Copying the evidence writes CKC's records and its SRAM only (R309). -/
theorem State.copyEvidence_besideCkc (o n : Contract) : (s.copyEvidence o n).besideCkc = s.besideCkc := by
  unfold State.copyEvidence
  extract_lets a b ram thumbs lidars kept thumbed
  calc (lidars.foldl _ thumbed).besideCkc
      _ = thumbed.besideCkc := foldl_keeps State.besideCkc (fun t p => t.pushCopy_besideCkc ..) _ _
      _ = kept.besideCkc := foldl_keeps State.besideCkc (fun t p => t.pushThumb_besideCkc ..) _ _
      _ = s.besideCkc := s.onCkc_besideCkc _

end

/-! ### The first swap -/

section
variable {s : State} {n : Contract} (staged : s.ctr.staged = some n)
include staged

/-- With no contract armed and the staged one's cores settled, the swap takes place at once (R66, R289). -/
theorem State.firstSwap_settled {pk : Packet} (noArmed : s.ctr.armed = none) (pending : s.ctr.armPending = some pk)
    (settled : s.ctrSettled n = true) :
    ∃ u : State, s.firstSwap = (u.done pk s.ctr.nextFrame).enter .running ∧ u.ctr.armed = some n ∧ u.ctr.staged = none ∧
      u.ctr.armPending = none ∧ u.ckc.slotArmed = 1 - s.ckc.slotArmed ∧ u.fab = s.fab ∧ u.hif = s.hif := by
  have ready : s.swapReady = true := by simp [State.swapReady, pending, staged, settled]
  rw [State.firstSwap, noArmed, ready]
  simp only [State.swapContracts, staged, pending]
  exact ⟨_, rfl, rfl, rfl, rfl, rfl, rfl, rfl⟩

/-- Until the staged contract's cores have settled, the first swap waits (R289). -/
theorem State.firstSwap_unsettled (unsettled : s.ctrSettled n = false) : s.firstSwap = s := by
  simp [State.firstSwap, State.swapReady, staged, unsettled]

end

/-! ### ARM_CONTRACT -/

@[simp] theorem State.markStarted_tileFormatOk (s : State) (pk : Packet) (n : Contract) :
    (s.markStarted pk).tileFormatOk n = s.tileFormatOk n := rfl

section
variable {s : State} {ring : Nat} {pk : Packet} (starts : s.Starts ring 0x21 pk)
include starts

theorem doArmContract_nothingStaged (none_ : s.ctr.staged = none) :
    doArmContract ring s = (s.markStarted pk).bad (s.begun pk) 0 := by
  rw [doArmContract, starts.run]
  simp [none_]

variable {n : Contract} (staged : s.ctr.staged = some n)
include staged

theorem doArmContract_pending (pending : s.ctr.armPending.isSome = true) :
    doArmContract ring s = (s.markStarted pk).noRes (s.begun pk) 0 := by
  rw [doArmContract, starts.run]
  simp [staged, pending]

variable (free : s.ctr.armPending = none)
include free

theorem doArmContract_badFormat (format : s.tileFormatOk n = false) :
    doArmContract ring s = (s.markStarted pk).reply (s.begun pk) stVersion 2 0 := by
  rw [doArmContract, starts.run]
  simp [staged, free, format]

variable (format : s.tileFormatOk n = true)
include format

/-- With no contract armed, ARM_CONTRACT is pending from now on, and the swap takes place as soon as it can. -/
theorem doArmContract_first (noArmed : s.ctr.armed = none) :
    doArmContract ring s = ((s.markStarted pk).onCtr fun c => { c with armPending := some (s.begun pk) }).firstSwap := by
  rw [doArmContract, starts.run]
  simp [staged, free, format, noArmed]

variable {o : Contract} (armed : s.ctr.armed = some o)
include armed

theorem doArmContract_overlap (overlap : armOverlap o n = true) :
    doArmContract ring s = (s.markStarted pk).reply (s.begun pk) stRejected 0x10 (0xFFFFFFFF * 2 ^ 32) := by
  rw [doArmContract, starts.run]
  simp [staged, free, format, armed, overlap]

theorem doArmContract_waits (apart : armOverlap o n = false) : doArmContract ring s =
    ((s.markStarted pk).copyEvidence o n).onCtr fun c => { c with armPending := some (s.begun pk) } := by
  rw [doArmContract, starts.run]
  simp [staged, free, format, armed, apart]

end

/-! ### Placing the first launch -/

/-- Every grid point that is passed over comes too early. -/
theorem countAt_lt_of_lt_skipPoints (m : Tim) (cycle lo : Nat) {fuel j : Nat} {v : Int} (passed : j < skipPoints m v cycle lo fuel) :
    countAt m (v + j * cycle) < lo := by
  induction fuel generalizing v j with
  | zero => simp [skipPoints] at passed
  | succ fuel ih =>
    rw [skipPoints] at passed
    split at passed
    · simp at passed
    next early =>
      cases j with
      | zero => simpa using early
      | succ j =>
        have next := ih (v := v + cycle) (j := j) (by omega)
        have point : v + (j + 1 : Nat) * (cycle : Int) = v + cycle + j * cycle := by push_cast; ring
        rwa [point]

/-- A first grid point that is late enough is not passed over. -/
theorem skipPoints_of_le {m : Tim} {v : Int} {lo : Nat} (late : lo ≤ countAt m v) (cycle fuel : Nat) :
    skipPoints m v cycle lo fuel = 0 := by
  cases fuel with
  | zero => rfl
  | succ fuel => rw [skipPoints, if_pos late]

section
variable (v : Int) (cycle lo : Nat) (s : State)

@[simp] theorem State.placeLaunch_fab : (s.placeLaunch v cycle lo).fab = s.fab := by
  simp [State.placeLaunch, State.placeLaunchEdges, apply_ite State.fab]

/-- The launch is placed at a grid point from `v` on; the points passed over come too early (R365, R366). -/
theorem State.placeLaunch_point : ∃ k : Nat, (s.placeLaunch v cycle lo).ctr =
      { s.ctr with placed := some { count := countAt s.tim (v + k * cycle), vtime := v + k * cycle } } ∧
    (∀ j < k, countAt s.tim (v + j * cycle) < lo) ∧ (lo ≤ countAt s.tim v → k = 0) := by
  simp only [State.placeLaunch, State.placeLaunchEdges, State.onSen_ctr, apply_ite State.ctr, State.note_ctr, ite_self, State.onCtr_ctr]
  refine ⟨_, rfl, fun j passed => ?_, fun late => ?_⟩
  · split at passed
    · simp at passed
    · exact countAt_lt_of_lt_skipPoints _ _ _ passed
  · split
    · rfl
    · exact skipPoints_of_le late _ _

end

/-! ### LAUNCH_AT -/

@[simp] theorem State.markStarted_launchContract (s : State) (pk : Packet) : (s.markStarted pk).launchContract = s.launchContract := rfl
@[simp] theorem State.markStarted_vnow (s : State) (pk : Packet) : (s.markStarted pk).vnow = s.vnow := rfl

section
variable {s : State} {ring : Nat} {pk : Packet} (starts : s.Starts ring 0x22 pk)
include starts

theorem doLaunchAt_noContract (none_ : s.launchContract = none) : doLaunchAt ring s = (s.markStarted pk).bad (s.begun pk) 0 := by
  rw [doLaunchAt, starts.run]
  simp [none_]

variable {c : Contract} (runs : s.launchContract = some c)
include runs

theorem doLaunchAt_outside (outside : sext 64 (pk.u 0x10 8) < s.vnow ∨ s.vnow + 10000000000 < sext 64 (pk.u 0x10 8)) :
    doLaunchAt ring s = (s.markStarted pk).bad (s.begun pk) 0x10 := by
  rw [doLaunchAt, starts.run]
  simp [runs, outside]

variable (inside : ¬(sext 64 (pk.u 0x10 8) < s.vnow ∨ s.vnow + 10000000000 < sext 64 (pk.u 0x10 8)))
include inside

theorem doLaunchAt_first (unplaced : s.ctr.placed = none) :
    doLaunchAt ring s = (s.markStarted pk).launchFirst (s.begun pk) (sext 64 (pk.u 0x10 8)) c := by
  rw [doLaunchAt, starts.run]
  simp [runs, inside, unplaced]

variable {p : Placed} (placed : s.ctr.placed = some p)
include placed

/-- With a launch placed, a time that is late enough becomes the grid (R365, R366). -/
theorem doLaunchAt_grid (late : launchMin (some (c.pastAt p.count)) s.ctr.past.head? ≤ countAt s.tim (sext 64 (pk.u 0x10 8))) :
    doLaunchAt ring s = (((s.markStarted pk).onTim fun m => { m with launchSeen := true }).onCtr fun x =>
      { x with grid := some { next := sext 64 (pk.u 0x10 8) } }).done (s.begun pk) (countAt s.tim (sext 64 (pk.u 0x10 8))) := by
  rw [doLaunchAt, starts.run]
  simp [runs, inside, placed, Nat.not_lt.2 late]

theorem doLaunchAt_tooEarly (early : countAt s.tim (sext 64 (pk.u 0x10 8)) < launchMin (some (c.pastAt p.count)) s.ctr.past.head?) :
    doLaunchAt ring s = (s.markStarted pk).bad (s.begun pk) 0x10 := by
  rw [doLaunchAt, starts.run]
  simp [runs, inside, placed, early]

end

/-- Scheduling with nothing placed replies with the count of the launch that it places, and changes no other part of the contracts. -/
theorem State.launchFirst_spec (pk : Packet) (v : Int) (c : Contract) (s : State) : ∃ (u : State) (k : Nat),
    s.launchFirst pk v c = u.done pk (countAt s.tim (v + k * c.hdr.frameCycle)) ∧
    u.ctr = { s.ctr with placed := some { count := countAt s.tim (v + k * c.hdr.frameCycle), vtime := v + k * c.hdr.frameCycle } } ∧
    u.fab = s.fab ∧ u.cpx = s.cpx ∧
    (∀ j < k, countAt s.tim (v + j * c.hdr.frameCycle) < launchMin s.ctr.past.head? (s.ctr.past.drop 1).head?) ∧
    (launchMin s.ctr.past.head? (s.ctr.past.drop 1).head? ≤ countAt s.tim v → k = 0) := by
  obtain ⟨k, ctr, passed, first⟩ := (s.onTim fun m => { m with launchSeen := true }).placeLaunch_point v c.hdr.frameCycle
    (launchMin s.ctr.past.head? (s.ctr.past.drop 1).head?)
  exact ⟨_, k, by simp only [State.launchFirst, State.onTim_ctr, ctr]; rfl, ctr, by simp, by simp, passed, first⟩

/-- Settles O27: the equations of ARM_CONTRACT and LAUNCH_AT, one for each case, the first swap (`State.firstSwap_settled`), the copy of
the evidence (`State.copyEvidence_besideCkc`) and the point at which the first launch is placed (`State.launchFirst_spec`). -/
theorem armAndLaunchAt : Obligations.ArmAndLaunchAt := by
  have arm : ∀ (ring : Nat) (s : State), exec (.armContract ring) s = .next (doArmContract ring s) := fun _ _ => rfl
  have launchAt : ∀ (ring : Nat) (s : State), exec (.launchAt ring) s = .next (doLaunchAt ring s) := fun _ _ => rfl
  refine ⟨?arms, ?armRefused, ?launches, ?launchRefused⟩
  case arms =>
    intro s ring pk n starts staged free format
    refine ⟨fun noArmed settled => ?_, fun noArmed unsettled => ?_, fun o armed apart => ?_, fun o armed overlap => ?_⟩
    · rw [arm, doArmContract_first starts staged free format noArmed]
      obtain ⟨u, swapped, parts⟩ := State.firstSwap_settled
        (s := (s.markStarted pk).onCtr fun c => { c with armPending := some (s.begun pk) }) staged noArmed rfl settled
      exact ⟨u, congrArg Host.Outcome.next swapped, parts⟩
    · rw [arm, doArmContract_first starts staged free format noArmed]
      exact congrArg Host.Outcome.next (State.firstSwap_unsettled staged unsettled)
    · rw [arm, doArmContract_waits starts staged free format armed apart]
      have kept := (s.markStarted pk).copyEvidence_besideCkc o n
      simp only [State.besideCkc, Fab.besideCkc, Prod.mk.injEq] at kept
      obtain ⟨hif, ctr, pwr, dram, sb, spad⟩ := kept
      exact ⟨_, rfl, by rw [State.onCtr_ctr, ctr, State.markStarted_ctr], hif, pwr, dram, sb, spad⟩
    · rw [arm, doArmContract_overlap starts staged free format armed overlap]
  case armRefused =>
    intro s ring pk starts
    refine ⟨fun none_ => ?_, fun n staged pending => ?_, fun n staged free format => ?_⟩
    · rw [arm, doArmContract_nothingStaged starts none_]
    · rw [arm, doArmContract_pending starts staged pending]
    · rw [arm, doArmContract_badFormat starts staged free format]
  case launches =>
    intro s ring pk c starts runs fromNow within
    have inside : ¬(sext 64 (pk.u 0x10 8) < s.vnow ∨ s.vnow + 10000000000 < sext 64 (pk.u 0x10 8)) := by omega
    refine ⟨fun unplaced => ?_, fun p placed => ⟨fun late => ?_, fun early => ?_⟩⟩
    · obtain ⟨u, k, first, ctr, fab, cpx, passed, atOnce⟩ :=
        (s.markStarted pk).launchFirst_spec (s.begun pk) (sext 64 (pk.u 0x10 8)) c
      simp only [State.markStarted_tim, State.markStarted_ctr, State.markStarted_fab] at first ctr fab passed atOnce
      rw [launchAt, doLaunchAt_first starts runs inside unplaced, first]
      exact ⟨u, { count := countAt s.tim (sext 64 (pk.u 0x10 8) + k * c.hdr.frameCycle), vtime := _ }, k, rfl, ctr, fab, cpx, rfl, rfl,
        passed, atOnce⟩
    · rw [launchAt, doLaunchAt_grid starts runs inside placed late]
    · rw [launchAt, doLaunchAt_tooEarly starts runs inside placed early]
  case launchRefused =>
    intro s ring pk starts
    refine ⟨fun none_ => ?_, fun c runs outside => ?_⟩
    · rw [launchAt, doLaunchAt_noContract starts none_]
    · rw [launchAt, doLaunchAt_outside starts runs outside]

end Sys2Proof.Machine
end

section
/-! SUPPORT. What the operations of a run leave of the memories: every one leaves the shared buffer, the scratchpads and CKC's SRAM
as they are (R18), and all but those of the cache leave LPDDR5X too. -/

namespace Sys2Proof.Machine

/-- The bytes of the memories on the chip. -/
def Fab.onChip (f : Fab) : Memory × Vector Memory 8 × Memory := (f.sb, f.spad, f.ckcRam)

theorem Fab.onChip_of_bytes {f g : Fab} (h : f.bytes = g.bytes) : f.onChip = g.onChip := congrArg Prod.snd h

theorem Fab.peek_of_onChip {f g : Fab} (h : f.onChip = g.onChip) {sp : Space} (chip : sp ≠ .dram) (a : Nat) : f.peek sp a = g.peek sp a := by
  simp only [Fab.onChip, Prod.mk.injEq] at h
  obtain ⟨sb, spad, ckc⟩ := h
  cases sp with
  | dram => exact absurd rfl chip
  | sb | spad | ckc => simp [Fab.peek, sb, spad, ckc]

/-! ### Provisional bytes and accesses -/

section
variable (x : Cx)

@[simp] theorem Cx.stop_fab (st : Nat) : (x.stop st).fab = x.fab := by
  unfold Cx.stop
  split <;> rfl

@[simp] theorem Cx.failCheck_fab (r : FailReport) : (x.failCheck r).fab = x.fab := rfl

@[simp] theorem Cx.count_fab (row col n : Nat) : (x.count row col n).fab = x.fab := by
  unfold Cx.count
  split <;> rfl

@[simp] theorem Cx.use_fab (l : List Nat) : (x.use l).fab = x.fab := rfl

@[simp] theorem Cx.needDomain_fab (d : Nat) : (x.needDomain d).fab = x.fab := by
  unfold Cx.needDomain
  repeat' split
  all_goals simp

@[simp] theorem Cx.touch_fab (u : UnitId) (sp : Space) (a n : Nat) : (x.touch u sp a n).fab = x.fab := by
  have domains : ∀ (c : Nat) (l : List Nat) (y : Cx), (l.foldl (fun y b => y.needDomain (bankDomain c b)) y).fab = y.fab :=
    fun c => foldl_keeps Cx.fab fun y b => y.needDomain_fab (bankDomain c b)
  unfold Cx.touch
  repeat' split
  all_goals simp [domains]

@[simp] theorem Cx.read_fab (u : UnitId) (sp : Space) (a n : Nat) : (x.read u sp a n).2.fab = x.fab := x.touch_fab u sp a n

@[simp] theorem Cx.write_fab (u : UnitId) (sp : Space) (a : Nat) (l : List Byte) : (x.write u sp a l).fab = x.fab := by simp [Cx.write]

@[simp] theorem Cx.readP_fab (u : UnitId) (l : List Piece) : (x.readP u l).2.fab = x.fab :=
  foldl_keeps (f := fun (r : List Byte × Cx) (p : Piece) => (r.1 ++ (r.2.read u p.1 p.2.1 p.2.2).1, (r.2.read u p.1 p.2.1 p.2.2).2))
    (fun r => r.2.fab) (fun r p => r.2.read_fab u p.1 p.2.1 p.2.2) l ([], x)

@[simp] theorem Cx.writeP_fab (u : UnitId) (l : List Piece) (b : List Byte) : (x.writeP u l b).fab = x.fab :=
  foldl_keeps (fun r : List Byte × Cx => r.2.fab) (fun r p => r.2.write_fab u p.1 p.2.1 _) l (b, x)

/-- The accesses of an instruction, made one after the other. -/
@[simp] theorem Cx.touchAll_fab (u : UnitId) (l : List Acc) : (l.foldl (fun x a => x.touch u a.sp a.addr a.len) x).fab = x.fab :=
  foldl_keeps Cx.fab (fun y a => y.touch_fab u a.sp a.addr a.len) l x

@[simp] theorem Cx.putCore_bytes (c : Fin 8) (k : Core) : (x.putCore c k).fab.bytes = x.fab.bytes := rfl
@[simp] theorem Cx.putCore_onChip (c : Fin 8) (k : Core) : (x.putCore c k).fab.onChip = x.fab.onChip := rfl
@[simp] theorem Cx.putCore_core (c : Fin 8) (k : Core) : (x.putCore c k).core c = k := by simp [Cx.putCore, Cx.core, Vector.get_eq_getElem]

/-! ### Arrays and VU -/

@[simp] theorem Cx.nameRec_fab (quant blockOut : Bool) (p : Space × Nat) : (x.nameRec quant blockOut p).2.fab = x.fab := by
  simp only [Cx.nameRec, Cx.qNext]
  split <;> rfl

@[simp] theorem Cx.nameOut_fab (quant : Bool) (f : Finish) : (x.nameOut quant f).2.fab = x.fab := by
  unfold Cx.nameOut
  split <;> simp

@[simp] theorem Cx.report_fab (place : Option (Space × Nat)) (n : Counts) : (x.report place n).fab = x.fab := rfl

@[simp] theorem Cx.quantise_fab (f : Finish) (ident : Nat) (elem : Nat → Nat) (ys : List Fp) :
    (x.quantise f ident elem ys).2.2.2.fab = x.fab := x.nameOut_fab _ f

@[simp] theorem Cx.drainVector_fab (c : Fin 8) (d : DrainCfg) (t : WeightTile) (isInt : Bool) (rows : Nat) (weight : Int)
    (a m vecs rank ord : Nat) (vec : List (Option Fp)) : (x.drainVector c d t isInt rows weight a m vecs rank ord vec).fab = x.fab := by
  unfold Cx.drainVector
  extract_lets sp cols outs compared at_ touched sums overflows counted h f zero named row ys
  have hcompared : compared.fab = x.fab := by unfold compared; split <;> simp
  have hcounted : counted.fab = x.fab := by simp [counted, touched, hcompared]
  have hnamed : named.fab = counted.fab := by unfold named; split <;> simp
  split
  · simp [hnamed, hcounted]
  · generalize hq : Cx.quantise f counted.run.ident _ ys counted = q
    have quantised : q.2.2.2.fab = counted.fab := hq ▸ counted.quantise_fab f _ _ ys
    obtain ⟨codes, groups, n, y⟩ := q
    dsimp only at quantised ⊢
    repeat' split
    all_goals simp [quantised, hcounted]

@[simp] theorem Cx.stream_fab (c : Fin 8) (k : Core) (arrays : List Nat) (buf fmt piece vecs : Nat)
    (vector : Reader → Nat → Nat → Nat → List (Option Fp)) : (x.stream c k arrays buf fmt piece vecs vector).fab = x.fab := by
  refine foldl_keeps Cx.fab (fun y p => ?_) _ _
  obtain ⟨a, r⟩ := p
  dsimp only
  split
  · simp
  · split
    · simp
    · exact foldl_keeps Cx.fab (fun z m => by split <;> simp) _ y

@[simp] theorem Cx.needHdr_fab (c : Fin 8) (spa fmt : Nat) : (x.needHdr c spa fmt).fab = x.fab := by
  unfold Cx.needHdr
  extract_lets ok
  split <;> simp

variable (c : Fin 8) (w : BitVec 128)

theorem runLoadw_bytes : (runLoadw c w x).fab.bytes = x.fab.bytes := by simp [runLoadw]

theorem runMma_bytes : (runMma c w x).fab.bytes = x.fab.bytes := by simp [runMma]

theorem runConv_bytes : (runConv c w x).fab.bytes = x.fab.bytes := by
  simp only [runConv]
  split <;> simp

theorem runDrain_bytes : (runDrain c w x).fab.bytes = x.fab.bytes := rfl

theorem runVop_bytes : (runVop c w x).fab.bytes = x.fab.bytes := by
  simp only [runVop]
  split <;> simp

/-! ### DMA_IN and semaphores -/

theorem runDmaIn_bytes (ringAt : RingAt) : (runDmaIn c ringAt w x).fab.bytes = x.fab.bytes := by simp [runDmaIn]

@[simp] theorem Cx.acquire_bytes (n k : Nat) : (x.acquire n k).fab.bytes = x.fab.bytes := by
  simp only [Cx.acquire]
  split <;> rfl

end

/-! ### The cache -/

section
variable (f : Fab) (c : Fin 8)

@[simp] theorem Fab.pokes_dram_onChip (a : Nat) (l : List Byte) : (f.pokes .dram a l).onChip = f.onChip := by
  induction l generalizing f a with
  | nil => rfl
  | cons b r ih => exact ih _ _

@[simp] theorem Fab.writeBack_onChip (l : CacheLine) : (f.writeBack l).onChip = f.onChip := by
  unfold Fab.writeBack
  split <;> simp

@[simp] theorem Fab.cacheFill_onChip (line : Nat) : (f.cacheFill c line).onChip = f.onChip := by
  unfold Fab.cacheFill
  split
  · rfl
  · split
    · rfl
    · extract_lets set here victim way old filled l
      show filled.onChip = f.onChip
      clear_value old
      cases old with
      | none => rfl
      | some evicted => exact f.writeBack_onChip evicted

@[simp] theorem Fab.cacheFlush_onChip (sel : CacheLine → Bool) : (f.cacheFlush c sel).onChip = f.onChip := by
  unfold Fab.cacheFlush
  split
  · rfl
  · exact foldl_keeps Fab.onChip Fab.writeBack_onChip _ f

end

section
variable (c : Fin 8) (x : Cx)

@[simp] theorem Cx.cacheRead_onChip (a n : Nat) : (x.cacheRead c a n).2.fab.onChip = x.fab.onChip := by
  simp only [Cx.cacheRead]
  exact (foldl_keeps Fab.onChip (fun f l => f.cacheFill_onChip c l) _ _).trans (by simp)

@[simp] theorem Cx.cacheWriteByte_onChip (a : Nat) (b : Byte) : (x.cacheWriteByte c a b).fab.onChip = x.fab.onChip := by
  simp only [Cx.cacheWriteByte]
  split
  · rfl
  · split
    · rfl
    · split
      · simp
      · split
        · exact x.fab.cacheFill_onChip c _
        · exact (Fab.writeBack_onChip _ _).trans (x.fab.cacheFill_onChip c _)

@[simp] theorem Cx.cacheWrite_onChip (a : Nat) (l : List Byte) : (x.cacheWrite c a l).fab.onChip = x.fab.onChip :=
  (foldl_keeps (f := fun (p : Nat × Cx) b => (p.1 + 1, if p.2.live then p.2.cacheWriteByte c p.1 b else p.2)) (fun p => p.2.fab.onChip)
    (fun p b => by dsimp only; split <;> simp) l _).trans (by simp)

@[simp] theorem Cx.flush_onChip (a size : Nat) : (x.flush c a size).fab.onChip = x.fab.onChip := x.fab.cacheFlush_onChip c _

/-! ### Scalar segments -/

@[simp] theorem Cx.suLoadPart_onChip (s : Su) (a n : Nat) : (x.suLoadPart c s a n).2.fab.onChip = x.fab.onChip := by
  unfold Cx.suLoadPart
  split
  · simp
  · exact congrArg Fab.onChip (foldl_keeps Cx.fab (fun y i => y.touch_fab _ _ _ _) _ x)

@[simp] theorem Cx.suLoad_onChip (s : Su) (a n : Nat) : (x.suLoad c s a n).2.fab.onChip = x.fab.onChip := by
  simp only [Cx.suLoad]
  split <;> simp

@[simp] theorem Cx.suStorePart_onChip (s : Su) (a n v : Nat) : (x.suStorePart c s a n v).fab.onChip = x.fab.onChip := by
  unfold Cx.suStorePart
  split
  · simp
  · refine congrArg Fab.onChip (foldl_keeps Cx.fab (fun y p => ?_) _ x)
    exact y.touch_fab _ _ _ _

@[simp] theorem Cx.suStore_onChip (s : Su) (a n v : Nat) : (x.suStore c s a n v).fab.onChip = x.fab.onChip := by
  simp only [Cx.suStore]
  split <;> simp

/-- A scalar instruction reaches the memories by its loads and stores only. -/
theorem suExec_onChip {s : Su} {w len : Nat} {r : SuStep} (step : suExec c s x w len = some r) : r.x.fab.onChip = x.fab.onChip := by
  simp only [suExec] at step
  split at step
  case isTrue => split at step <;> cases step <;> simp
  split at step
  case isTrue => split at step <;> cases step; simp
  split at step
  case isTrue => split at step <;> cases step; simp
  split at step
  case isTrue => split at step <;> cases step; simp
  obtain ⟨p, -, rfl⟩ := Option.map_eq_some_iff.1 step
  rfl

@[simp] theorem suFetch_fab (s : Su) : (suFetch c s x).2.fab = x.fab := by
  simp only [suFetch]
  split <;> simp

theorem suRun_onChip (n : Nat) (s : Su) : (suRun c n s x).2.1.fab.onChip = x.fab.onChip := by
  induction n generalizing s x with
  | zero => rfl
  | succ n ih =>
    have fetched : (suFetch c s x).2.fab.onChip = x.fab.onChip := by rw [suFetch_fab]
    simp only [suRun]
    split
    · exact fetched
    · split
      · repeat' split
        all_goals simp [ih]
      next r step =>
        split
        · exact fetched
        · exact (ih _ _).trans ((suExec_onChip c _ step).trans fetched)

@[simp] theorem runSegment_onChip : (runSegment c x).1.fab.onChip = x.fab.onChip := by
  simp only [runSegment]
  split <;> exact suRun_onChip c x _ _

theorem runScalar_onChip (w : BitVec 128) : (runSegment c (startSegment c w x)).1.fab.onChip = x.fab.onChip := by simp [startSegment]

/-! ### DMA_OUT and gathers -/

@[simp] theorem Cx.takeCredit_onChip (i : Nat) : (x.takeCredit i).fab.onChip = x.fab.onChip := rfl
@[simp] theorem Cx.giveCredit_onChip (i : Nat) : (x.giveCredit i).fab.onChip = x.fab.onChip := rfl

@[simp] theorem Cx.sendPleach_onChip (link : Nat) (far : List Piece) (b : List Byte) :
    (x.sendPleach c link far b).fab.onChip = x.fab.onChip := by
  simp only [Cx.sendPleach]
  split <;> simp

theorem runDmaOut_onChip (ringAt : RingAt) (w : BitVec 128) : (runDmaOut c ringAt w x).x.fab.onChip = x.fab.onChip := by
  simp only [runDmaOut]
  repeat' split
  all_goals simp [did]

@[simp] theorem Cx.gatherRow_onChip (u : UnitId) (cache : Option (Fin 8)) (sp : Space) (a n : Nat) :
    (x.gatherRow u cache sp a n).2.fab.onChip = x.fab.onChip := by
  unfold Cx.gatherRow
  repeat' split
  all_goals simp

theorem Cx.gather_onChip (u : UnitId) (cache : Option (Fin 8)) (g : Gather) : (x.gather u cache g).fab.onChip = x.fab.onChip := by
  unfold Cx.gather
  extract_lets fmt rows fill touched bad
  have htouched : touched.fab = x.fab := by simp [touched]
  split
  · simp [htouched]
  · refine (foldl_keeps (fun y : Cx => y.fab.onChip) (fun y j => ?_) _ _).trans (congrArg Fab.onChip htouched)
    dsimp only
    repeat' split
    all_goals simp

end

end Sys2Proof.Machine
end

section
/-! PROOF of the statement about streams. An instruction runs on the run of its commit unit: `State.qmBack` and `State.cxBack` put what
it left into the state, `State.coreInstr_qm` and `State.coreInstr_frame` say when, and `StreamRow` what each row of Table 4.8 leaves of
the memories. -/

namespace Sys2Proof.Machine

/-! ### A run put back into the state -/

section
variable (s : State) (x : Cx)

/-- While a domain is switching on, nothing of a run reaches the state (R137). -/
theorem State.cxBack_waiting (wait : x.wait = true) : s.cxBack x = s := if_pos wait

/-- A run that does not wait leaves its fabric. -/
theorem State.cxBack_fab (go : x.wait = false) : (s.cxBack x).fab = x.fab := by
  rw [State.cxBack, if_neg (by simp [go])]
  exact foldl_keeps State.fab (fun t (e : Nat × Nat × Nat) => t.countErr_fab e.1 e.2.1 e.2.2) _ _

/-- The command processor, the contracts and the safety block. -/
def State.control (s : State) : Cpx × Ctr × Saf := (s.cpx, s.ctr, s.saf)

theorem State.cxBack_control : (s.cxBack x).control = s.control := by
  unfold State.cxBack
  split
  · rfl
  · exact foldl_keeps State.control (fun t (e : Nat × Nat × Nat) => (rfl : (t.countErr e.1 e.2.1 e.2.2).control = t.control)) _ _

@[simp] theorem State.cxBack_cpx : (s.cxBack x).cpx = s.cpx := congrArg Prod.fst (s.cxBack_control x)
@[simp] theorem State.cxBack_ctr : (s.cxBack x).ctr = s.ctr := congrArg (fun p => p.2.1) (s.cxBack_control x)
@[simp] theorem State.cxBack_saf : (s.cxBack x).saf = s.saf := congrArg (fun p => p.2.2) (s.cxBack_control x)

@[simp] theorem State.overrun_fab (c : Fin 8) (ident : Nat) (b : Bool) : (s.overrun c ident b).fab = s.fab := by
  unfold State.overrun
  split <;> simp

@[simp] theorem State.overrun_cpx (c : Fin 8) (ident : Nat) (b : Bool) : (s.overrun c ident b).cpx = s.cpx := by
  unfold State.overrun
  split <;> simp

@[simp] theorem State.overrun_ctr (c : Fin 8) (ident : Nat) (b : Bool) : (s.overrun c ident b).ctr = s.ctr := by
  unfold State.overrun
  split <;> simp

@[simp] theorem State.overrun_saf (c : Fin 8) (ident : Nat) (b : Bool) : (s.overrun c ident b).saf = s.saf := by
  unfold State.overrun
  split <;> simp

theorem Cpx.holdUsed_qmSide (c : Cpx) (ring : Nat) (banks segs : List Nat) : (c.holdUsed ring banks segs).qmSide = c.qmSide := by
  unfold Cpx.holdUsed
  split <;> rfl

variable (q : QmRun)

theorem State.qmBack_waiting (wait : x.wait = true) : s.qmBack q x = s := if_pos wait

/-- A command's run that goes on stands with its fabric (R18). -/
theorem State.qmBack_running (go : x.wait = false) (runs : x.run.status = none) :
    (s.qmBack q x).fab = x.fab ∧ (s.qmBack q x).cpx.qm = some { q with run := x.run } ∧ (s.qmBack q x).ctr = s.ctr ∧
      (s.qmBack q x).saf = s.saf := by
  simp [State.qmBack, go, runs, s.cxBack_fab x go]

@[simp] theorem State.discardQm_bytes : s.discardQm.fab.bytes = s.fab.bytes := by
  have recorded : ∀ (t : State) f c, (t.recordFault f c).fab = t.fab := fun t f c => congrArg Prod.fst (t.recordFault_machinery f c)
  simp only [State.discardQm]
  split
  · rfl
  · split <;> simp only [recorded, State.onFab_fab, State.onCpx_fab, Fab.returnHeld_bytes] <;> rfl

/-- With no capacity change pending, a command that ends before its commit changes no byte of any memory. -/
theorem State.endQm_bytes (cap : s.cpx.cap = none) (st dt : Nat) : (s.endQm q st dt).fab.bytes = s.fab.bytes := by
  have side : ∀ res, ((s.discardQm.answerKills res).reply q.pkt st dt 0).cpx.qmSide = (none, none, s.cpx.windowOpen) := fun res => by
    rw [State.reply_qmSide, State.answerKills_qmSide, State.discardQm_cpx, ← cap]
    rfl
  have answered : ∀ res, (s.discardQm.answerKills res).fab = s.discardQm.fab := fun res => congrArg Prod.fst (s.discardQm.answerKills_machinery res)
  unfold State.endQm
  rw [State.boundary_of_noCap (congrArg (fun p => p.2.1) (side _)), State.reply_fab, answered, State.discardQm_bytes]

/-- With no capacity change pending, the memories of a command's run are those that the state has after it. -/
theorem State.qmBack_bytes (cap : s.cpx.cap = none) (go : x.wait = false) : (s.qmBack q x).fab.bytes = x.fab.bytes := by
  unfold State.qmBack
  rw [if_neg (by simp [go])]
  extract_lets back q' held
  have fab : held.fab = x.fab := s.cxBack_fab x go
  have noCap : held.cpx.cap = none := by
    have back_ : back.cpx.cap = none := by rw [s.cxBack_cpx, cap]
    exact (congrArg (fun p => p.2.1) (back.cpx.holdUsed_qmSide _ _ _)).trans back_
  clear_value held
  split
  · rw [held.endQm_bytes q' noCap, fab]
  · rw [fab]

end

/-! ### One instruction -/

section
variable {s : State} {c : Fin 8} {cls : Nat} {w : BitVec 128} {r : Did}

theorem Did.moved_csq (r : Did) (c : Fin 8) : ((r.moved c).fab.cores.get c).csq = (r.x.core c).csq + if r.done then 1 else 0 := by
  have core : (r.moved c).fab.cores.get c = _ := Cx.putCore_core r.x c _
  rw [core]
  cases r.done <;> rfl

/-- An instruction of the running command's stream acts on the command's run (R280). -/
theorem State.coreInstr_qm {q : QmRun} (h : s.QmTakes c cls w q) {body : RingAt → Cx → Did}
    (ran : r = body (fun _ _ _ => none) { s.cxQm q with cls := cls }) :
    s.coreInstr c cls w body = (s.qmBack q (r.moved c)).overrun c q.run.ident (r.ovf && !r.x.wait) := by
  obtain ⟨on, code, run, here, core, more, free⟩ := h
  subst ran code
  unfold State.coreInstr
  rw [if_neg (by simp [on])]
  simp only [run]
  rw [if_pos (by simp [core, more, free]), State.qmInstr, if_neg (by simp [here])]
  rfl

/-- Core `c` before its step's next instruction: as it stands, or fresh where the step starts (R72). -/
theorem State.frameCx_core (s : State) (c : Fin 8) (e : StepEntry) (w : BitVec 128) :
    (s.frameCx c e w).core c = if (s.fab.cores.get c).run.active then s.fab.cores.get c else (s.fab.cores.get c).fresh :=
  Cx.putCore_core _ _ _

/-- An instruction of the frame program acts on its step's run once its rings are ready (R46, R69, R91). -/
theorem State.coreInstr_frame {a : Contract} {e : StepEntry} {x : Cx} {g : RingAt} (h : s.FrameTakes c cls w a e)
    (rings : g = fun wr i o => a.ringAt s.ctr.prog wr i o) (start : x = s.frameCx c e w) {body : RingAt → Cx → Did} (ran : r = body g x) :
    s.coreInstr c cls w body = if s.ringsReady a c.val (seqAcc x.rd c (x.core c) g w) then s.frameAfter c e r else s := by
  obtain ⟨on, code, noQm, armed, running, free, instr, step, ready⟩ := h
  subst rings start ran code
  have starts : ((s.fab.cores.get c).run.active || s.unitReady (.mxc c)) = true := by simpa using ready
  unfold State.coreInstr
  rw [if_neg (by simp [on])]
  simp only [noQm, armed]
  rw [if_pos (by simp [running, free]), State.frameInstr]
  simp only [instr, step]
  rw [if_neg (by simp [starts]), s.frameCx_core]
  have swap : ∀ (b : Bool) (t u : State), (if !b then u else t) = if b then t else u := fun b _ _ => by cases b <;> rfl
  exact swap _ _ _

/-- An instruction of a frame program leaves the command processor, the contracts and the safety block alone. -/
theorem State.frameAfter_control (s : State) (c : Fin 8) (e : StepEntry) (r : Did) :
    (s.frameAfter c e r).ctr = s.ctr ∧ (s.frameAfter c e r).saf = s.saf ∧ (s.frameAfter c e r).cpx = s.cpx := by simp [State.frameAfter]

theorem State.frameAfter_waiting (s : State) (c : Fin 8) (e : StepEntry) (wait : r.x.wait = true) : s.frameAfter c e r = s := by
  unfold State.frameAfter
  rw [s.cxBack_waiting (r.x.putCore c _) wait, wait]
  simp [State.overrun]

/-- An instruction of a frame program that does not wait leaves its run on its core. -/
theorem State.frameAfter_going (s : State) (c : Fin 8) (e : StepEntry) (go : r.x.wait = false) :
    (s.frameAfter c e r).fab.bytes = r.x.fab.bytes ∧ ((s.frameAfter c e r).fab.cores.get c).run = r.x.run ∧
      ((s.frameAfter c e r).fab.cores.get c).csq = (r.x.core c).csq + if r.done then 1 else 0 := by
  have fab := s.cxBack_fab (r.x.putCore c { r.x.core c with run := r.x.run, csq := if r.done then (r.x.core c).csq + 1 else (r.x.core c).csq }) go
  unfold State.frameAfter
  rw [State.overrun_fab, fab]
  have core : ∀ k, (r.x.putCore c k).fab.cores.get c = k := r.x.putCore_core c
  refine ⟨rfl, by rw [core], ?_⟩
  rw [core]
  cases r.done <;> rfl

end

/-! ### The rows of Table 4.8 -/

/-- A row of Table 4.8: `p.2.1` runs as class `p.1` by what `p.2.2` does to a run, which leaves the memories on the chip alone, and
LPDDR5X too unless the row may flush or fill a cache. -/
structure StreamRow (c : Fin 8) (w : BitVec 128) (p : Nat × Instr × (RingAt → Cx → Did)) : Prop where
  runs   : ∀ s, exec p.2.1 s = .next (s.coreInstr c p.1 w p.2.2)
  onChip : ∀ g x, (p.2.2 g x).x.fab.onChip = x.fab.onChip
  bytes  : p.1 ≠ 6 ∧ p.1 ≠ 8 ∧ p.1 ≠ 9 → ∀ g x, (p.2.2 g x).x.fab.bytes = x.fab.bytes

section
variable {s : State} {c : Fin 8} {w : BitVec 128} {p : Nat × Instr × (RingAt → Cx → Did)}

theorem StreamRow.of_bytes (runs : ∀ s, exec p.2.1 s = .next (s.coreInstr c p.1 w p.2.2))
    (bytes : ∀ g x, (p.2.2 g x).x.fab.bytes = x.fab.bytes) : StreamRow c w p :=
  ⟨runs, fun g x => Fab.onChip_of_bytes (bytes g x), fun _ => bytes⟩

theorem StreamRow.peek (row : StreamRow c w p) {sp : Space} (kept : sp ≠ .dram ∨ (p.1 ≠ 6 ∧ p.1 ≠ 8 ∧ p.1 ≠ 9)) (g : RingAt) (x : Cx)
    (a : Nat) : (p.2.2 g x).x.fab.peek sp a = x.fab.peek sp a := by
  rcases kept with chip | direct
  · exact Fab.peek_of_onChip (row.onChip g x) chip a
  · exact Fab.peek_congr (row.bytes direct g x) sp a

/-- A row next in the running command's stream acts on the command's run, and no byte that it may not reach changes (R18, R280). -/
theorem StreamRow.command (row : StreamRow c w p) {q : QmRun} {r : Did} (h : s.QmTakes c p.1 w q)
    (ran : r = p.2.2 (fun _ _ _ => none) { s.cxQm q with cls := p.1 }) :
    exec p.2.1 s = .next ((s.qmBack q (r.moved c)).overrun c q.run.ident (r.ovf && !r.x.wait)) ∧
    (r.x.wait = true → exec p.2.1 s = .next s) ∧
    (r.x.wait = false → r.x.run.status = none → ∃ t, exec p.2.1 s = .next t ∧ t.fab = (r.moved c).fab ∧
      t.cpx.qm = some { q with run := r.x.run } ∧ (t.fab.cores.get c).csq = (r.x.core c).csq + (if r.done then 1 else 0) ∧
      t.ctr = s.ctr ∧ t.saf = s.saf) ∧
    (s.cpx.cap = none → ∀ sp a, (sp ≠ .dram ∨ (p.1 ≠ 6 ∧ p.1 ≠ 8 ∧ p.1 ≠ 9)) →
      ((s.qmBack q (r.moved c)).overrun c q.run.ident (r.ovf && !r.x.wait)).fab.peek sp a = s.fab.peek sp a) := by
  rw [row.runs, State.coreInstr_qm h ran]
  refine ⟨rfl, fun wait => ?_, fun go runs => ?_, fun cap sp a kept => ?_⟩
  · rw [s.qmBack_waiting (r.moved c) q wait, wait, Bool.not_true, Bool.and_false]
    rfl
  · obtain ⟨fab, qm, ctr, saf⟩ := s.qmBack_running (r.moved c) q go runs
    exact ⟨_, rfl, by rw [State.overrun_fab, fab], by rw [State.overrun_cpx, qm]; rfl, by rw [State.overrun_fab, fab, Did.moved_csq],
      by rw [State.overrun_ctr, ctr], by rw [State.overrun_saf, saf]⟩
  · rw [State.overrun_fab]
    cases wait : r.x.wait with
    | false => exact (Fab.peek_congr (s.qmBack_bytes (r.moved c) q cap wait) sp a).trans (ran ▸ row.peek kept _ _ a)
    | true => rw [s.qmBack_waiting (r.moved c) q wait]

/-- A row next in a frame program acts on its step's run once its rings are ready, and no byte that it may not reach changes (R18, R46). -/
theorem StreamRow.frame (row : StreamRow c w p) {a : Contract} {e : StepEntry} {x : Cx} {g : RingAt} {r : Did} (h : s.FrameTakes c p.1 w a e)
    (rings : g = fun wr i o => a.ringAt s.ctr.prog wr i o) (start : x = s.frameCx c e w) (ran : r = p.2.2 g x) :
    (s.ringsReady a c.val (seqAcc x.rd c (x.core c) g w) = true →
      exec p.2.1 s = .next (s.frameAfter c e r) ∧
      (r.x.wait = true → exec p.2.1 s = .next s) ∧
      (r.x.wait = false → ∃ t, exec p.2.1 s = .next t ∧ (t.fab.cores.get c).run = r.x.run ∧
        (t.fab.cores.get c).csq = (r.x.core c).csq + (if r.done then 1 else 0) ∧ t.ctr = s.ctr ∧ t.saf = s.saf ∧ t.cpx = s.cpx) ∧
      ∀ sp b, (sp ≠ .dram ∨ (p.1 ≠ 6 ∧ p.1 ≠ 8 ∧ p.1 ≠ 9)) → (s.frameAfter c e r).fab.peek sp b = s.fab.peek sp b) ∧
    (s.ringsReady a c.val (seqAcc x.rd c (x.core c) g w) = false → exec p.2.1 s = .next s) := by
  rw [row.runs, State.coreInstr_frame h rings start ran]
  refine ⟨fun ready => ?_, fun blocked => by rw [blocked]; rfl⟩
  rw [if_pos ready]
  refine ⟨rfl, fun wait => by rw [s.frameAfter_waiting c e wait], fun go => ?_, fun sp b kept => ?_⟩
  · obtain ⟨-, run, csq⟩ := s.frameAfter_going c e go
    exact ⟨_, rfl, run, csq, s.frameAfter_control c e r⟩
  · cases wait : r.x.wait with
    | false =>
      have before : x.fab.peek sp b = s.fab.peek sp b := Fab.peek_congr (start ▸ rfl) sp b
      exact (Fab.peek_congr (s.frameAfter_going c e wait).1 sp b).trans ((ran ▸ row.peek kept g x b).trans before)
    | true => rw [s.frameAfter_waiting c e wait]

end

/-! ### Scalar segments -/

section
variable (u : Su) (rd : Fin 32)

/-- Writing a float register changes no other register. -/
theorem Su.setF_spec (n : Nat) : (u.setF rd.val n).getF rd.val = BitVec.ofNat 32 n ∧ (u.setF rd.val n).x = u.x ∧
    (u.setF rd.val n).pc = u.pc ∧ (u.setF rd.val n).active = u.active ∧ ∀ r, r ≠ rd.val → (u.setF rd.val n).getF r = u.getF r := by
  refine ⟨?_, rfl, rfl, rfl, fun r other => ?_⟩
  · simp [Su.setF, Su.getF, vget_vset]
  · simp [Su.setF, Su.getF, vget_vset, other]

end

section
variable {s : State} {c : Fin 8} {f : Su → Su}

/-- A custom opcode of a command's segment (R86). -/
theorem State.customInstr_qm {q : QmRun} {r : Cx × Bool} (on : s.pins.rstN = true) (active : (s.fab.cores.get c).su.active = true)
    (run : s.cpx.qm = some q) (ran : r = customOp c f { s.cxQm q with cls := 6 }) :
    s.customInstr c f = (s.qmBack q r.1).overrun c q.run.ident (r.2 && !r.1.wait) := by
  subst ran
  unfold State.customInstr
  rw [if_neg (by simp [on, active])]
  simp only [run]

/-- A custom opcode of a frame program's segment (R86). -/
theorem State.customInstr_frame {r : Cx × Bool} (on : s.pins.rstN = true) (active : (s.fab.cores.get c).su.active = true)
    (noQm : s.cpx.qm = none) (ran : r = customOp c f { s.cx (s.fab.cores.get c).run with cls := 6 }) :
    s.customInstr c f = (s.cxBack (r.1.putCore c { r.1.core c with run := r.1.run })).overrun c (s.fab.cores.get c).run.ident (r.2 && !r.1.wait) := by
  subst ran
  unfold State.customInstr
  rw [if_neg (by simp [on, active])]
  simp only [noQm]

variable {x : Cx}

/-- Past UNITS_MAX a custom opcode overruns its segment (R86). -/
theorem customOp_overruns (past : (x.core c).su.unitsMax < (x.core c).su.units + 1) :
    customOp c f x = (x.putCore c { x.core c with su := Su.idle }, true) := if_pos past

theorem customOp_segEnd (within : (x.core c).su.units + 1 ≤ (x.core c).su.unitsMax) :
    customOp c segEnd x = (x.putCore c { x.core c with su := Su.idle }, false) := if_neg (by omega)

/-- After a custom opcode that leaves its segment active, the segment goes on (R86). -/
theorem customOp_goesOn {n : Nat} (within : (x.core c).su.units + 1 ≤ (x.core c).su.unitsMax)
    (len : n = if x.le (.spad c) (x.core c).su.pc 2 % 4 = 3 then 4 else 2)
    (goes : (f { (x.core c).su with pc := ((x.core c).su.pc + n) % 2 ^ 32, units := (x.core c).su.units + 1 }).active = true) :
    customOp c f x = runSegment c (x.putCore c { x.core c with
      su := f { (x.core c).su with pc := ((x.core c).su.pc + n) % 2 ^ 32, units := (x.core c).su.units + 1 } }) := by
  subst len
  unfold customOp
  rw [if_neg (by omega)]
  exact if_pos goes

end

/-! ### WAIT_SATISFIED -/

/-- A semaphore's value after it was set. -/
theorem Fab.sem_putSem (f : Fab) (n v : Nat) : (f.putSem n v).sem n = v := by
  unfold Fab.putSem Fab.sem
  dsimp only
  by_cases zero : v = 0
  · have gone : (f.sems.filter fun p => p.1 ≠ n).find? (fun p => p.1 = n) = none := by simp [List.find?_eq_none]
    rw [if_pos zero, gone, zero]
  · simp [zero]

/-- The run after core `c`'s WAIT took `k` from the shared value of semaphore `n`: it left the arbiter, and the core moves on (R93). -/
def Cx.woken (c : Fin 8) (n k : Nat) (x : Cx) : Cx :=
  { x with fab := { x.fab.putSem n (x.fab.sem n - k) with
                      waiters := x.fab.waiters.erase (n, c.val), cores := x.fab.cores.set c { x.core c with csq := (x.core c).csq + 1 } },
           run := { x.run with waiting := x.run.waiting.filter fun p => p.1 ≠ c.val, posts := x.run.posts.filter fun p => p.1 ≠ n,
                               acquired := (n, k) :: x.run.acquired } }

section
variable {x : Cx} {c : Fin 8}

/-- Core `c`'s WAIT for `k` is first at the arbiter of semaphore `n`, whose shared value reaches `k`; the run has posted nothing to it. -/
structure Cx.FirstAt (x : Cx) (c : Fin 8) (n k : Nat) : Prop where
  waits   : x.run.waiting.find? (fun p => p.1 = c.val) = some (c.val, n, k)
  noPosts : ∀ p ∈ x.run.posts, p.1 ≠ n
  first   : x.fab.firstWaiter n = some c.val
  enough  : k ≤ x.fab.sem n
  small   : k < 2 ^ 32
  some_   : 0 < k

/-- The WAIT first at the arbiter takes its count once the value reaches it (R93). -/
theorem Cx.satisfied_first {n k : Nat} (h : x.FirstAt c n k) : x.satisfied c = some (x.woken c n k) := by
  obtain ⟨waits, noPosts, first, enough, small, some_⟩ := h
  have none_ : (x.run.posts.filter fun p => p.1 = n) = [] := by simpa [List.filter_eq_nil_iff] using noPosts
  have sees : k ≤ x.sem n := by
    simp only [Cx.sem, none_, satU, List.map_nil, List.sum_nil]
    omega
  unfold Cx.satisfied
  simp only [waits]
  rw [if_pos (by simp [sees, first])]
  simp only [Cx.acquire, none_]
  rw [if_neg (by simp only [List.map_nil, List.sum_nil]; omega)]
  rfl

theorem Cx.satisfied_none (idle : x.run.waiting.find? (fun p => p.1 = c.val) = none) : x.satisfied c = none := by
  simp only [Cx.satisfied, idle]

theorem Cx.satisfied_later {d n k : Nat} (waits : x.run.waiting.find? (fun p => p.1 = c.val) = some (d, n, k))
    (later : x.fab.firstWaiter n ≠ some c.val) : x.satisfied c = none := by
  simp only [Cx.satisfied, waits]
  rw [if_neg (by simp [later])]

end

/-- What `woken` leaves: the semaphore's value less the count, the arbiter without the core, the core one instruction on. -/
theorem Cx.woken_spec (c : Fin 8) (n k : Nat) (x : Cx) : (x.woken c n k).fab.sem n = x.fab.sem n - k ∧
    ((x.woken c n k).core c).csq = (x.core c).csq + 1 ∧ ∀ p ∈ (x.woken c n k).run.waiting, p.1 ≠ c.val := by
  have core : (x.woken c n k).core c = _ := x.putCore_core c _
  exact ⟨x.fab.sem_putSem n _, by rw [core], fun p m => by simpa using List.of_mem_filter m⟩

section
variable {s : State} {c : Fin 8}

theorem doWaitSatisfied_qm {q : QmRun} (on : s.pins.rstN = true) (run : s.cpx.qm = some q) :
    doWaitSatisfied c s = ((s.cxQm q).satisfied c).elim s fun x => s.qmBack q x := by
  unfold doWaitSatisfied
  rw [if_neg (by simp [on])]
  simp only [run]
  cases (s.cxQm q).satisfied c <;> rfl

theorem doWaitSatisfied_frame (on : s.pins.rstN = true) (noQm : s.cpx.qm = none) :
    doWaitSatisfied c s = ((s.cx (s.fab.cores.get c).run).satisfied c).elim s fun x => s.cxBack (x.putCore c { x.core c with run := x.run }) := by
  unfold doWaitSatisfied
  rw [if_neg (by simp [on])]
  simp only [noQm]
  cases (s.cx (s.fab.cores.get c).run).satisfied c <;> rfl

end

/-! ### COPPICE and HALT -/

section
variable {s : State} {c : Fin 8} {w : BitVec 128} {a : Contract} {e : StepEntry}

theorem State.frameCx_csq (s : State) (c : Fin 8) (e : StepEntry) (w : BitVec 128) :
    ((s.frameCx c e w).core c).csq = (s.fab.cores.get c).csq := by
  rw [s.frameCx_core]
  split <;> rfl

/-- The COPPICE of a frame's stream ends its instruction and runs its unit's slice where the MSS selected its step (R60, R345). -/
theorem doCoppice_frame (h : s.FrameTakes c 0xE w a e) (b : Bool) (sg : Option DWord) (f : Bool) :
    doCoppice c w b sg f s =
      if s.evr.coppiceStep = some (s.frameCx c e w).run.ident then (s.frameAfter c e (did (s.frameCx c e w))).runSlice c.val b sg f
      else s.frameAfter c e (did (s.frameCx c e w)) := by
  have free : ∀ rd k g, seqAcc rd c k g w = [] := fun rd k g => by simp [seqAcc, h.code]
  have ran : s.coreInstr c 0xE w (fun _ x => did x) = s.frameAfter c e (did (s.frameCx c e w)) := by
    rw [State.coreInstr_frame h rfl rfl rfl, free]
    rfl
  obtain ⟨-, run, csq⟩ := s.frameAfter_going c e (r := did (s.frameCx c e w)) rfl
  have moved : ((s.frameAfter c e (did (s.frameCx c e w))).fab.cores.get c).csq ≠ (s.fab.cores.get c).csq := by
    rw [csq]
    show ((s.frameCx c e w).core c).csq + 1 ≠ _
    rw [s.frameCx_csq]
    omega
  have evr : (s.frameAfter c e (did (s.frameCx c e w))).evr = s.evr := rfl
  have ident : (did (s.frameCx c e w)).x.run.ident = (s.frameCx c e w).run.ident := rfl
  unfold doCoppice
  simp only [ran, run, evr, ident]
  by_cases selected : s.evr.coppiceStep = some (s.frameCx c e w).run.ident
  · rw [if_pos (by rw [Bool.and_eq_true, decide_eq_true_eq, decide_eq_true_eq]; exact ⟨moved, selected⟩), if_pos selected]
  · rw [if_neg (by simp [selected]), if_neg selected]

/-- HALT next on a free core halts it (R91). -/
theorem doHalt_next (on : s.pins.rstN = true) (code : seqClass w = 0)
    (next : (∃ q, s.QmTakes c 0 w q) ∨ (s.cpx.qm = none ∧ (s.fab.cores.get c).run.active = false ∧
      (s.fab.cores.get c).free (s.fab.cores.get c).run.waiting c = true ∧
      ∃ a, s.ctr.armed = some a ∧ a.instrAt c.val (s.fab.cores.get c).csq = some w)) :
    doHalt c w s = s.onFab fun f => { f with cores := f.cores.set c { s.fab.cores.get c with halted := true } } := by
  unfold doHalt
  rw [if_neg (by simp [on, code])]
  rcases next with ⟨q, h⟩ | ⟨noQm, idle, free, a, armed, instr⟩
  · simp only [h.run]
    exact if_pos (by simp [h.core, h.free, h.at_])
  · simp only [noQm, armed]
    exact if_pos (by simp [idle, free, instr])

end

/-- A command's stream holds no GOLDEN and no COPPICE (R57, R60). -/
theorem seqAllowedQm_of_frameOnly (cores : BitVec 8) (banks : List Nat) (c : Fin 8) {w : BitVec 128}
    (code : seqClass w = 0xD ∨ seqClass w = 0xE) : seqAllowedQm cores banks c w = false := by
  rcases code with code | code <;> simp [seqAllowedQm, seqOk, code]

/-- Settles O57: each row of Table 4.8 runs on its commit unit's run and reaches no byte but by the cache (`StreamRow`); HALT, the custom
opcodes, WAIT_SATISFIED and COPPICE by one equation each. -/
theorem streamsActOnTheirRun : Obligations.StreamsActOnTheirRun := by
  refine ⟨?rows, ?halt, ?custom, ?wait, ?coppice, fun cores banks c w code => seqAllowedQm_of_frameOnly cores banks c code⟩
  case rows =>
    intro s c w p member
    have row : StreamRow c w p := by
      simp only [List.mem_cons, List.not_mem_nil, or_false] at member
      rcases member with rfl | rfl | rfl | rfl | rfl | rfl | rfl | rfl | rfl | rfl | rfl | rfl
      · exact .of_bytes (fun _ => rfl) fun _ x => runLoadw_bytes x c w
      · exact .of_bytes (fun _ => rfl) fun _ x => runMma_bytes x c w
      · exact .of_bytes (fun _ => rfl) fun _ x => runConv_bytes x c w
      · exact .of_bytes (fun _ => rfl) fun _ x => runDrain_bytes x c w
      · exact .of_bytes (fun _ => rfl) fun _ x => runVop_bytes x c w
      · exact ⟨fun _ => rfl, fun _ x => runScalar_onChip c x w, fun direct => absurd rfl direct.1⟩
      · exact .of_bytes (fun _ => rfl) fun g x => runDmaIn_bytes x c w g
      · exact ⟨fun _ => rfl, fun g x => runDmaOut_onChip c x g w, fun direct => absurd rfl direct.2.1⟩
      · refine ⟨fun _ => rfl, fun _ x => ?_, fun direct => absurd rfl direct.2.2⟩
        dsimp only
        split
        · exact congrArg Fab.onChip (x.stop_fab stNoResource)
        · exact x.gather_onChip (.mxc c) (some c) (seqGather c w)
      · refine .of_bytes (fun _ => rfl) fun _ x => ?_
        dsimp only
        split
        · exact x.acquire_bytes _ _
        · rfl
      · exact .of_bytes (fun _ => rfl) fun _ _ => rfl
      · exact .of_bytes (fun _ => rfl) fun _ _ => rfl
    exact ⟨fun _ _ h ran => row.command h ran, fun _ _ _ _ _ h rings start ran => row.frame h rings start ran⟩
  case halt =>
    intro s c w on code next
    exact congrArg Host.Outcome.next (doHalt_next on code next)
  case custom =>
    intro s c rd rs f v i on active which
    have runs : exec i s = .next (s.customInstr c f) := by
      rcases which with ⟨rfl, rfl⟩ | ⟨rfl, rfl, -⟩ | ⟨rfl, rfl, -⟩ | ⟨rfl, rfl, -⟩ | ⟨rfl, rfl, -⟩
      all_goals rfl
    have sets : i ≠ .segEnd c → ∀ u : Su, (f u).getF rd.val = v u ∧ (f u).x = u.x ∧ (f u).pc = u.pc ∧ (f u).active = u.active ∧
        ∀ r, r ≠ rd.val → (f u).getF r = u.getF r := by
      intro other u
      rcases which with ⟨ends, -⟩ | ⟨-, rfl, rfl⟩ | ⟨-, rfl, rfl⟩ | ⟨-, rfl, rfl⟩ | ⟨-, rfl, rfl⟩
      · exact absurd ends other
      all_goals exact u.setF_spec rd _
    have ends : i = .segEnd c → f = segEnd := by
      rintro rfl
      rcases which with ⟨-, body⟩ | ⟨other, -⟩ | ⟨other, -⟩ | ⟨other, -⟩ | ⟨other, -⟩
      · exact body
      all_goals nomatch other
    refine ⟨sets, fun x u n unit len => ?_, fun q r run ran => ?_, fun r noQm ran => ?_⟩
    · subst unit
      exact ⟨customOp_overruns, fun within last => ends last ▸ customOp_segEnd within,
        fun within other goes => customOp_goesOn within len ((sets other _).2.2.2.1.trans goes)⟩
    · rw [runs, State.customInstr_qm on active run ran]
      refine ⟨rfl, fun go status => ?_⟩
      obtain ⟨fab, qm, -, -⟩ := s.qmBack_running r.1 q go status
      exact ⟨_, rfl, by rw [State.overrun_fab, fab], by rw [State.overrun_cpx, qm]⟩
    · rw [runs, State.customInstr_frame on active noQm ran]
      refine ⟨rfl, fun go => ⟨_, rfl, ?_⟩⟩
      rw [State.overrun_fab, s.cxBack_fab (r.1.putCore c _) go]
      exact r.1.putCore_core c _
  case wait =>
    intro s c r on whose
    have runs : exec (.waitSatisfied c) s = .next (doWaitSatisfied c s) := rfl
    rw [runs]
    rcases whose with ⟨q, run, rfl⟩ | ⟨noQm, rfl⟩
    · rw [doWaitSatisfied_qm on run]
      refine ⟨fun n k going waits noPosts first enough small some_ => ?_, fun idle => ?_, fun d n k waits later => ?_⟩
      · rw [Cx.satisfied_first (x := s.cxQm q) ⟨waits, noPosts, first, enough, small, some_⟩]
        obtain ⟨sem, csq, gone⟩ := (s.cxQm q).woken_spec c n k
        obtain ⟨fab, qm, ctr, saf⟩ := s.qmBack_running ((s.cxQm q).woken c n k) q rfl going
        refine ⟨_, _, rfl, rfl, gone, fun q' run' => ?_, fun noQm => ?_, ?_⟩
        · obtain rfl : q = q' := Option.some.inj (run.symm.trans run')
          exact qm
        · exact absurd (run.symm.trans noQm) (Option.some_ne_none q)
        · dsimp only [Option.elim_some]
          rw [fab]
          exact ⟨sem, rfl, csq, fun sp b => rfl, ctr, saf⟩
      · rw [Cx.satisfied_none (x := s.cxQm q) idle]
        rfl
      · rw [Cx.satisfied_later (x := s.cxQm q) waits later]
        rfl
    · rw [doWaitSatisfied_frame on noQm]
      refine ⟨fun n k going waits noPosts first enough small some_ => ?_, fun idle => ?_, fun d n k waits later => ?_⟩
      · rw [Cx.satisfied_first (x := s.cx (s.fab.cores.get c).run) ⟨waits, noPosts, first, enough, small, some_⟩]
        obtain ⟨sem, csq, gone⟩ := (s.cx (s.fab.cores.get c).run).woken_spec c n k
        have core := ((s.cx (s.fab.cores.get c).run).woken c n k).putCore_core c
        dsimp only [Option.elim_some]
        refine ⟨_, _, rfl, rfl, gone, fun q run => ?_, fun _ => ?_, ?_⟩
        · exact absurd (noQm.symm.trans run) (Option.some_ne_none q).symm
        · rw [s.cxBack_fab _ rfl]
          exact congrArg Core.run (core _)
        · rw [s.cxBack_fab _ rfl, s.cxBack_ctr, s.cxBack_saf]
          exact ⟨sem, rfl, (congrArg Core.csq (core _)).trans csq, fun sp b => rfl, rfl, rfl⟩
      · rw [Cx.satisfied_none (x := s.cx (s.fab.cores.get c).run) idle]
        rfl
      · rw [Cx.satisfied_later (x := s.cx (s.fab.cores.get c).run) waits later]
        rfl
  case coppice =>
    intro s c w a e b sg f h
    have run : exec (.coppice c w b sg f) s = .next (doCoppice c w b sg f s) := rfl
    rw [run, doCoppice_frame h]
    exact ⟨fun other => by rw [if_neg other], fun selected => by rw [if_pos selected]⟩

end Sys2Proof.Machine
end

section
/-! PROOF of the statement about power requests and DISCOVER: what a request does with the power unit idle or busy, which blocks
switching a domain leaves alone, and one equation for the switching of one domain. -/

namespace Sys2Proof.Machine

/-! ### Requests -/

section
variable {s : State} (opened : s.bar0Open = true)
include opened

/-- With no request under way, PWR_REQUEST acts (R371). -/
theorem State.pwrRequest_idle (idle : s.pwr.busy = none) (body : State → State) : s.pwrRequest body = body s := by
  simp [State.pwrRequest, opened, idle]

/-- While one is under way, a further one is only counted (R371). -/
theorem State.pwrRequest_busy (busy : s.pwr.busy ≠ none) (body : State → State) :
    s.pwrRequest body = s.onPwr fun p => { p with ignored := satU 8 (p.ignored + 1) } := by
  simp [State.pwrRequest, opened, Option.isSome_iff_ne_none, busy]

/-- DOMAIN_OFF with the power unit idle (R372). -/
theorem doDomainOff_idle (idle : s.pwr.busy = none) (d : Nat) : doDomainOff d s =
    if !pwrSwitchable d || s.ctr.holdsDomain d || s.sen.needsDomain d || s.cacheDomain d then s.pwrEnd stBadParam
    else if !(s.pwr.domains ||| s.pwr.rising).getLsbD d then s.pwrEnd stDone
    else s.onPwr fun p => { p with closing := p.closing ||| (1#64 <<< d), busy := some d } :=
  State.pwrRequest_idle opened idle _

/-- DOMAIN_ON with the power unit idle (R372). -/
theorem doDomainOn_idle (idle : s.pwr.busy = none) (d : Nat) : doDomainOn d s =
    if !pwrSwitchable d then s.pwrEnd stBadParam
    else if s.pwr.domains.getLsbD d then s.pwrEnd stDone
    else s.onPwr fun p => { p with rising := p.rising ||| (1#64 <<< d), busy := some d } :=
  State.pwrRequest_idle opened idle _

/-- RATE_TARGET with the power unit idle (R372). -/
theorem doRateTarget_idle (idle : s.pwr.busy = none) (r : Nat) : doRateTarget r s =
    if r < s.sec.floor ∨ 1150 < r ∨ r % 10 ≠ 0 then s.pwrEnd stBadParam
    else ((s.onPwr fun p => { p with hostRate := r }).rateChanged).pwrEnd stDone :=
  State.pwrRequest_idle opened idle _

/-- PARK with the power unit idle (R375). -/
theorem doPark_idle (idle : s.pwr.busy = none) : doPark s =
    if s.parkOk then (((s.latch latchPower).unloadContracts).pwrEnd stDone).enterParked else s.pwrEnd stNotReady :=
  State.pwrRequest_idle opened idle _

end

/-! ### What these operations leave alone -/

section
variable (s : State)

@[simp] theorem State.pwrEnd_cpx (st : Nat) : (s.pwrEnd st).cpx = s.cpx := by simp [State.pwrEnd]
@[simp] theorem State.pwrEnd_mss (st : Nat) : (s.pwrEnd st).mss = s.mss := by simp [State.pwrEnd]
@[simp] theorem State.pwrEnd_sec (st : Nat) : (s.pwrEnd st).sec = s.sec := by simp [State.pwrEnd]
@[simp] theorem State.pwrEnd_fab (st : Nat) : (s.pwrEnd st).fab = s.fab := by simp [State.pwrEnd]

@[simp] theorem State.unloadContracts_mss : s.unloadContracts.mss = s.mss := by
  simp only [State.unloadContracts]
  split <;> simp

@[simp] theorem State.unloadContracts_sec : s.unloadContracts.sec = s.sec := by
  simp only [State.unloadContracts]
  split <;> simp

@[simp] theorem State.unloadContracts_fab : s.unloadContracts.fab = s.fab := by
  simp only [State.unloadContracts]
  split <;> simp

@[simp] theorem State.gateOffEnd_mss (mask : BitVec 64) : (s.gateOffEnd mask).mss = s.mss := by
  unfold State.gateOffEnd
  split <;> simp [State.gateOff, State.loseWrites]

@[simp] theorem State.gateOffEnd_sec (mask : BitVec 64) : (s.gateOffEnd mask).sec = s.sec := by
  unfold State.gateOffEnd
  split <;> simp [State.gateOff, State.loseWrites]

/-- No domain powers LPDDR5X. -/
@[simp] theorem Fab.clearDomain_dram (f : Fab) (d : Nat) : (f.clearDomain d).dram = f.dram := by
  simp only [Fab.clearDomain]
  split
  · split
    · rfl
    · split <;> rfl
  · split <;> rfl

/-- Gates that open take nothing from LPDDR5X (R375). -/
@[simp] theorem State.gateOffEnd_dram (mask : BitVec 64) : (s.gateOffEnd mask).fab.dram = s.fab.dram := by
  have kept : (s.gateOff mask).fab.dram = s.fab.dram := foldl_keeps Fab.dram Fab.clearDomain_dram _ _
  unfold State.gateOffEnd
  split <;> simp [kept]

@[simp] theorem State.enterParked_mss : s.enterParked.mss = s.mss := by simp [State.enterParked]
@[simp] theorem State.enterParked_sec : s.enterParked.sec = s.sec := by simp [State.enterParked]

/-- Apart from the state, entering one changes nothing of the power block. -/
theorem State.enter_pwr (d : DevState) : (s.enter d).pwr = { s.pwr with state := d } := by
  unfold State.enter
  split
  next same => rw [← same]
  next => simp

/-- The host's target reaches the LDOs within the floor and the cap (R30, R380). -/
@[simp] theorem State.applyRate_effective : s.applyRate.pwr.effective = max s.sec.floor (min s.pwr.hostRate s.pwr.cap) := by
  simp only [State.applyRate]
  split
  next same => exact same.symm
  next => rfl

end

/-! ### RATE_TARGET and PARK -/

/-- A rate in range becomes the host's target; it acts at once unless a frame program runs (R30, R372). -/
theorem State.newTarget_spec (s : State) (r : Nat) {u : State}
    (target : u = ((s.onPwr fun p => { p with hostRate := r }).rateChanged).pwrEnd stDone) :
    u.pwr.hostRate = r ∧ u.pwr.done = true ∧ u.pwr.status = stDone ∧
    (s.ctr.prog.running = false → u.pwr.effective = max s.sec.floor (min r s.pwr.cap)) ∧
    (s.ctr.prog.running = true → u.pwr.effective = s.pwr.effective) ∧ u.fab = s.fab ∧ u.saf = s.saf := by
  obtain ⟨rate, units, pwr⟩ := (s.onPwr fun p => { p with hostRate := r }).rateChanged_pwr
  obtain ⟨-, -, -, fab, saf⟩ := State.outsidePower_parts (s.onPwr fun p => { p with hostRate := r }).rateChanged_outsidePower
  subst target
  refine ⟨?_, ?_, ?_, fun idle => ?_, fun running => ?_, ?_, ?_⟩
  · simp [pwr]
  · simp
  · simp
  · simp [State.rateChanged, idle]
  · simp [State.rateChanged, running]
  · simpa using fab
  · simpa using saf

/-- A core that does not run as a cache has none to leave (R132). -/
theorem Fab.cachesOff_of_none {f : Fab} (noCache : ∀ c : Fin 8, f.caches.get c = none) : f.cachesOff = f :=
  List.foldl_fixed' (fun c => by simp only [Fab.cacheOff, noCache c]) _

/-- With no core as a cache, parking leaves LPDDR5X as it is (R375). -/
theorem State.enterParked_dram {s : State} (noCache : ∀ c : Fin 8, s.fab.caches.get c = none) :
    s.enterParked.fab.dram = s.fab.dram := by
  simp [State.enterParked, Fab.cachesOff_of_none noCache]

/-- PARK of a part where nothing runs (R375). -/
theorem State.park_spec (s : State) {u : State} (parked : u = (((s.latch latchPower).unloadContracts).pwrEnd stDone).enterParked) :
    u.pwr.state = .parked ∧ u.pwr.domains = 0 ∧ u.saf.latched = true ∧ u.ctr.armed = none ∧ u.ctr.staged = none ∧
    u.hif.linkUp = false ∧ u.mss = s.mss ∧ u.sec = s.sec ∧
    ((∀ c : Fin 8, s.fab.caches.get c = none) → u.fab.dram = s.fab.dram) := by
  obtain ⟨state, domains, -, saf, ctr, link⟩ := State.enterParked_spec (((s.latch latchPower).unloadContracts).pwrEnd stDone)
  rw [← parked] at state domains saf ctr link
  refine ⟨state, domains, by simp [saf], ?_, ?_, link, ?_, ?_, fun noCache => ?_⟩
  · simp [ctr, State.unloadContracts_ctr]
  · simp [ctr, State.unloadContracts_ctr]
  · simp [parked]
  · simp [parked]
  · rw [parked, State.enterParked_dram (by simpa using noCache)]
    simp

/-! ### One domain's gate -/

/-- The mask of a domain has that domain alone. -/
theorem getLsbD_domainBit {d k : Nat} (small : d < 64) : (1#64 <<< d).getLsbD k = decide (k = d) := by
  rw [← BitVec.twoPow_eq, BitVec.getLsbD_twoPow]
  simp only [decide_eq_true small, Bool.true_and, eq_comm]

/-- The mask of a domain lists that domain alone. -/
theorem domains_domainBit {d : Nat} (small : d < 50) : (List.range 50).filter (fun k => (1#64 <<< d).getLsbD k) = [d] := by
  have alone : (fun k => (1#64 <<< d).getLsbD k) = fun k => decide (k = d) := funext fun k => getLsbD_domainBit (by omega)
  have once : (List.range 50).count d = 1 := List.count_eq_one_of_mem List.nodup_range (List.mem_range.2 small)
  rw [alone, List.filter_eq, once, List.replicate_one]

/-- No domain goes off: no write is lost. -/
@[simp] theorem Run.lose_nil (r : Run) : r.lose [] = r :=
  congrArg (fun j => { r with journal := j }) (List.filter_eq_self.2 fun w _ => by split <;> rfl)

@[simp] theorem State.loseWrites_nil (s : State) : s.loseWrites [] = s := by
  simp [State.loseWrites, State.onFab, State.onCpx]

/-- Opening no gate changes nothing. -/
@[simp] theorem State.gateOff_zero (s : State) : s.gateOff 0#64 = s := by
  have stay : ∀ x : BitVec 64, x &&& 18446744073709551615#64 = x := fun x => BitVec.and_allOnes
  simp [State.gateOff, State.onPwr, State.onFab, stay]

@[simp] theorem State.gateOff_saf (s : State) (mask : BitVec 64) : (s.gateOff mask).saf = s.saf := rfl

@[simp] theorem State.gateOff_domains (s : State) (mask : BitVec 64) :
    (s.gateOff mask).pwr.domains = s.pwr.domains &&& ~~~mask := rfl

section
variable (s : State) {d : Nat} (small : d < 50)
include small

theorem State.gateOff_domainBit_fab : (s.gateOff (1#64 <<< d)).fab = (s.loseWrites [d]).fab.clearDomain d := by
  simp only [State.gateOff, domains_domainBit small]
  rfl

theorem State.gateOff_domainBit_qm : (s.gateOff (1#64 <<< d)).cpx.qm = (s.loseWrites [d]).cpx.qm := by
  simp only [State.gateOff, domains_domainBit small]
  rfl

end

/-- The domain `d` is on and its memory zero. -/
def State.domainIsOn (d : Nat) (s : State) : State :=
  (s.onPwr fun p => { p with domains := p.domains ||| (1#64 <<< d), rising := p.rising &&& ~~~(1#64 <<< d) }).onFab fun f =>
    f.clearDomain d

/-- Of a set of domains, the mask of one takes that one, if it is there. -/
theorem and_domainBit (x : BitVec 64) (d : Nat) : x &&& (1#64 <<< d) = if x.getLsbD d then 1#64 <<< d else 0 := by
  rw [← BitVec.twoPow_eq, BitVec.and_twoPow]
  rfl

/-- A set of domains misses a domain's mask exactly when it misses the domain. -/
theorem and_domainBit_eq_zero {x : BitVec 64} {d : Nat} (small : d < 64) : x &&& (1#64 <<< d) = 0 ↔ x.getLsbD d = false := by
  have nonzero : 1#64 <<< d ≠ 0#64 := fun zero => by
    have bit := getLsbD_domainBit (k := d) small
    rw [zero] at bit
    simp at bit
  rw [and_domainBit]
  cases x.getLsbD d <;> simp [nonzero]

/-- Taking a set's members in a mask away and putting them back. -/
theorem and_not_and_or_and (x m : BitVec 64) : x &&& ~~~(x &&& m) ||| (x &&& m) = x := by
  ext i small
  simp only [BitVec.getElem_or, BitVec.getElem_and, BitVec.getElem_not]
  cases x[i] <;> cases m[i] <;> rfl

/-- Taking a mask away that the set misses. -/
theorem and_not_of_and_eq_zero {x m : BitVec 64} (disjoint : x &&& m = 0#64) : x &&& ~~~m = x := by
  ext i small
  have bit := congrArg (fun y => y[i]) disjoint
  simp only [BitVec.getElem_and, BitVec.getElem_not, BitVec.getElem_zero] at bit ⊢
  revert bit
  cases x[i] <;> cases m[i] <;> decide

/-- Switching on a domain that is off and not closing, with no request under way (R128, R369). -/
theorem State.powerOn_domainBit {s : State} {d : Nat} (small : d < 50) (off : s.pwr.domains.getLsbD d = false)
    (stays : s.pwr.closing.getLsbD d = false) (idle : s.pwr.busy = none) : s.powerOn (1#64 <<< d) = s.domainIsOn d := by
  have new : (1#64 <<< d) &&& ~~~s.pwr.domains = 1#64 <<< d := by
    have free : (~~~s.pwr.domains).getLsbD d = true := by
      rw [BitVec.getLsbD_not, off, decide_eq_true (by omega)]
      rfl
    rw [BitVec.and_comm, and_domainBit, if_pos free]
  have noneCloses : s.pwr.closing &&& (1#64 <<< d) = 0#64 := (and_domainBit_eq_zero (by omega)).2 stays
  have closing : s.pwr.closing &&& ~~~(1#64 <<< d) = s.pwr.closing := and_not_of_and_eq_zero noneCloses
  have noRequest : s.pwrWorks (1#64 <<< d) = false := by simp [State.pwrWorks, idle]
  rw [BitVec.and_comm] at noneCloses
  simp only [State.powerOn, noRequest, noneCloses, State.gateOff_zero, new, domains_domainBit small]
  simp [State.domainIsOn, State.onPwr, State.onFab, closing]

/-- A domain that was off comes on. One that a DOMAIN_OFF waits for stays closing; for another, a request under way ends. -/
theorem State.domainUp_of_off {s : State} {d : Nat} (small : d < 50) (off : s.pwr.domains.getLsbD d = false) :
    s.domainUp d = if s.pwr.closing.getLsbD d = false ∧ s.pwr.busy = some d then (s.domainIsOn d).pwrEnd stDone else s.domainIsOn d := by
  have stays : (s.pwr.closing &&& ~~~(s.pwr.closing &&& (1#64 <<< d))).getLsbD d = false := by
    have bit : (1#64 <<< d).getLsbD d = true := by rw [getLsbD_domainBit (by omega), decide_eq_true rfl]
    rw [BitVec.getLsbD_and, BitVec.getLsbD_not, BitVec.getLsbD_and, bit]
    cases s.pwr.closing.getLsbD d <;> simp
  have switched := State.powerOn_domainBit (s := s.onPwr fun p =>
    { p with closing := p.closing &&& ~~~(s.pwr.closing &&& (1#64 <<< d)), busy := none }) small off stays rfl
  have closing := and_not_and_or_and s.pwr.closing (1#64 <<< d)
  have waits : s.pwr.closing &&& (1#64 <<< d) = 0 ↔ s.pwr.closing.getLsbD d = false := and_domainBit_eq_zero (by omega)
  simp only [State.domainUp, switched, waits]
  simp only [State.domainIsOn, State.onPwr, State.onFab, closing]

/-- What a domain that has come on leaves, and how a request for it ends (R369, R371). -/
theorem State.domainUp_spec {s t : State} {d : Nat} (small : d < 50) (off : s.pwr.domains.getLsbD d = false) (up : s.domainUp d = t) :
    t.pwr.domains = s.pwr.domains ||| (1#64 <<< d) ∧ t.pwr.rising = s.pwr.rising &&& ~~~(1#64 <<< d) ∧
    t.pwr.closing = s.pwr.closing ∧ t.pwr.state = s.pwr.state ∧ t.pwr.wake = s.pwr.wake ∧
    t.fab = s.fab.clearDomain d ∧ t.saf = s.saf ∧ t.cpx = s.cpx ∧
    (s.pwr.busy = some d → s.pwr.closing.getLsbD d = false → t.pwr.busy = none ∧ t.pwr.done = true ∧ t.pwr.status = stDone) ∧
    ((s.pwr.busy ≠ some d ∨ s.pwr.closing.getLsbD d = true) → t.pwr.busy = s.pwr.busy ∧ t.pwr.done = s.pwr.done) := by
  rw [← up, State.domainUp_of_off small off]
  split
  next ends =>
    obtain ⟨stays, request⟩ := ends
    simp [State.domainIsOn, stays, request]
  next goesOn =>
    exact ⟨rfl, rfl, rfl, rfl, rfl, rfl, rfl, rfl, fun request stays => absurd ⟨stays, request⟩ goesOn, fun _ => ⟨rfl, rfl⟩⟩

/-! ### The end of PARKED -/

section
variable (s : State)

/-- The last domain of a wake is on (R375). -/
def State.wakeEnds (s : State) : Bool := s.pwr.state = .parked && s.pwr.wake && s.pwr.rising = 0

theorem State.wakeDone_pwr : s.wakeDone.pwr = if s.wakeEnds then
    { s.pwr with wake := false, tripped := false, tripSince := none, state := .ready } else s.pwr := by
  unfold State.wakeDone State.wakeEnds
  split
  next ends => simp [State.enter_pwr]
  next => rfl

/-- The end of a wake switches nothing and ends no request. -/
theorem State.wakeDone_switches : s.wakeDone.pwr.domains = s.pwr.domains ∧ s.wakeDone.pwr.rising = s.pwr.rising ∧
    s.wakeDone.pwr.closing = s.pwr.closing ∧ s.wakeDone.pwr.busy = s.pwr.busy ∧ s.wakeDone.pwr.done = s.pwr.done ∧
    s.wakeDone.pwr.status = s.pwr.status := by
  rw [State.wakeDone_pwr]
  split <;> exact ⟨rfl, rfl, rfl, rfl, rfl, rfl⟩

/-- Where a wake does not end, nothing changes. -/
theorem State.wakeDone_stays {s : State} (stays : s.wakeEnds = false) : s.wakeDone = s := by
  unfold State.wakeEnds at stays
  rw [State.wakeDone, stays]
  rfl

theorem State.wakeDone_cpx : s.wakeDone.cpx = if s.wakeEnds then { s.cpx with qmCores := 0xFF#8, windowOpen := true } else s.cpx := by
  unfold State.wakeDone State.wakeEnds
  split
  next ends => simp
  next => rfl

@[simp] theorem State.wakeDone_fab : s.wakeDone.fab = s.fab := by
  unfold State.wakeDone
  split <;> simp

@[simp] theorem State.wakeDone_saf : s.wakeDone.saf = s.saf := by
  unfold State.wakeDone
  split <;> simp

end

/-! ### The commands -/

/-- POWER_GATE_OPEN of a domain that closes and does not rise (R136). -/
theorem doPowerGateOpen_opens {s : State} {d : Nat} (on : s.pins.rstN = true) (closing : s.pwr.closing.getLsbD d = true)
    (still : s.pwr.rising.getLsbD d = false) : doPowerGateOpen d s =
    if s.pwr.busy = some d then (s.gateOff (1#64 <<< d)).pwrEnd stDone else s.gateOff (1#64 <<< d) := by
  rw [doPowerGateOpen, if_pos (by simp [on, closing, still])]
  rfl

/-- What the opened gate leaves, and how a request for the domain ends (R136, R371). -/
theorem doPowerGateOpen_spec {s : State} {d : Nat} (small : d < 50) (on : s.pins.rstN = true)
    (closing : s.pwr.closing.getLsbD d = true) (still : s.pwr.rising.getLsbD d = false) {u : State} (run : doPowerGateOpen d s = u) :
    u.pwr.domains = s.pwr.domains &&& ~~~(1#64 <<< d) ∧ u.pwr.closing.getLsbD d = false ∧
    u.fab = (s.loseWrites [d]).fab.clearDomain d ∧ u.cpx.qm = (s.loseWrites [d]).cpx.qm ∧ u.saf = s.saf ∧ u.ctr = s.ctr ∧
    (s.pwr.busy = some d → u.pwr.busy = none ∧ u.pwr.done = true ∧ u.pwr.status = stDone) ∧
    (s.pwr.busy ≠ some d → u.pwr.busy = s.pwr.busy ∧ u.pwr.done = s.pwr.done ∧ u.hif = s.hif) := by
  have fab := s.gateOff_domainBit_fab small
  have qm := s.gateOff_domainBit_qm small
  have closed : (s.gateOff (1#64 <<< d)).pwr.closing.getLsbD d = false := by
    have bit : (1#64 <<< d).getLsbD d = true := by rw [getLsbD_domainBit (by omega), decide_eq_true rfl]
    change (s.pwr.closing &&& ~~~(1#64 <<< d)).getLsbD d = false
    rw [BitVec.getLsbD_and, BitVec.getLsbD_not, bit]
    simp
  rw [← run, doPowerGateOpen_opens on closing still]
  by_cases request : s.pwr.busy = some d
  · rw [if_pos request]
    simp [request, closed, fab, qm]
  · rw [if_neg request]
    exact ⟨rfl, closed, fab, qm, rfl, rfl, fun same => absurd same request, fun _ => ⟨rfl, rfl, rfl⟩⟩

/-- POWER_GATE_OPEN of any other domain does nothing (R136). -/
theorem doPowerGateOpen_shut {s : State} {d : Nat} (shut : s.pwr.closing.getLsbD d = false ∨ s.pwr.rising.getLsbD d = true) :
    doPowerGateOpen d s = s := by
  rw [doPowerGateOpen, if_neg]
  rcases shut with stays | rising
  · simp [stays]
  · simp [rising]

/-- What a domain that has come on leaves, how a request for it ends, and that the last one of a wake ends PARKED (R369, R371, R375). -/
theorem doDomainSwitchComplete_spec {s : State} {d : Nat} (small : d < 50) (on : s.pins.rstN = true)
    (rising : s.pwr.rising.getLsbD d = true) (settled : s.domainSettled d = true) (off : s.pwr.domains.getLsbD d = false)
    (noCap : s.cpx.cap = none) {u : State} (run : doDomainSwitchComplete d s = u) :
    u.pwr.domains = s.pwr.domains ||| (1#64 <<< d) ∧ u.pwr.rising = s.pwr.rising &&& ~~~(1#64 <<< d) ∧
    u.pwr.closing = s.pwr.closing ∧ u.fab = s.fab.clearDomain d ∧ u.saf = s.saf ∧
    (s.pwr.state ≠ .parked → u.cpx = s.cpx ∧ u.pwr.state = s.pwr.state) ∧
    (s.pwr.state = .parked → s.pwr.wake = true → u.pwr.rising = 0 →
      u.pwr.state = .ready ∧ u.cpx.qmCores = 0xFF#8 ∧ u.pwr.wake = false) ∧
    (s.pwr.state = .parked → (s.pwr.wake = false ∨ u.pwr.rising ≠ 0) → u.pwr.state = .parked) ∧
    (s.pwr.busy = some d → s.pwr.closing.getLsbD d = false → u.pwr.busy = none ∧ u.pwr.done = true ∧ u.pwr.status = stDone) ∧
    ((s.pwr.busy ≠ some d ∨ s.pwr.closing.getLsbD d = true) → u.pwr.busy = s.pwr.busy ∧ u.pwr.done = s.pwr.done) := by
  have whole : (s.domainUp d).boundary.wakeDone = u := by
    rw [← run, doDomainSwitchComplete, if_pos (by simp [on, rising, settled])]
  generalize up : s.domainUp d = t at whole
  obtain ⟨domains, rises, closing, state, wake, fab, saf, cpx, ends, goesOn⟩ := State.domainUp_spec small off up
  rw [State.boundary_of_noCap (cpx ▸ noCap)] at whole
  obtain ⟨sameDomains, sameRising, sameClosing, sameBusy, sameDone, sameStatus⟩ := t.wakeDone_switches
  subst whole
  rw [sameDomains, sameRising, sameClosing, sameBusy, sameDone, sameStatus, State.wakeDone_fab, State.wakeDone_saf]
  refine ⟨domains, rises, closing, fab, saf, fun away => ?_, fun parked woken last => ?_, fun parked waits => ?_, ends, goesOn⟩
  · rw [State.wakeDone_stays (by simp [State.wakeEnds, state, away])]
    exact ⟨cpx, state⟩
  · have isLast : t.wakeEnds = true := by simp [State.wakeEnds, state, parked, wake, woken, last]
    simp [State.wakeDone_pwr, State.wakeDone_cpx, isLast]
  · have waiting : t.wakeEnds = false := by
      rcases waits with noWake | more
      · simp [State.wakeEnds, wake, noWake]
      · simpa [State.wakeEnds] using fun _ _ => more
    rw [State.wakeDone_stays waiting, state, parked]

/-- DOMAIN_SWITCH_COMPLETE of any other domain does nothing (R369). -/
theorem doDomainSwitchComplete_waits {s : State} {d : Nat} (waits : s.pwr.rising.getLsbD d = false ∨ s.domainSettled d = false) :
    doDomainSwitchComplete d s = s := by
  rw [doDomainSwitchComplete, if_neg]
  rcases waits with still | unsettled
  · simp [still]
  · simp [unsettled]

/-- DISCOVER of a packet that starts, with its block aligned and its PHY descriptor in order (R382, R383). -/
theorem doDiscover_starts {s : State} {ring : Nat} {pk : Packet} (starts : s.Starts ring 0xA0 pk) (fits : pk.u 0x18 8 % 64 = 0)
    (holds : ∀ b, s.phyDesc = some b → s.mss.inOne tagShared s.mss.phyAddr.toNat s.mss.phySize = true ∧ phyOk b = true)
    {new : BitVec 64} (which : new = BitVec.ofNat 64 (2 ^ 38 + 2 ^ 39 + 2 ^ 47 + 2 ^ 48) &&& ~~~s.pwr.domains) :
    doDiscover ring s = ((s.markStarted pk).powerOn new).onMss fun m =>
      { m with discover := some { pkt := s.begun pk, switched := new, desc := s.phyDesc } } := by
  have same : (s.markStarted pk).phyDesc = s.phyDesc := rfl
  subst which
  rw [doDiscover, starts.run]
  cases desc : s.phyDesc with
  | none => simp [aligned64, fits, same, desc]
  | some b =>
    obtain ⟨shared, inOrder⟩ := holds b desc
    simp [aligned64, fits, same, desc, shared, inOrder]

/-- The end of a DISCOVER: after 200 ms its own domains go off, and the report is posted where it fits (R382). -/
theorem doDiscoverComplete_ends {s v w : State} {o : Observation} {d : DiscoverReq} {b : List Byte} (on : s.pins.rstN = true)
    (pending : s.mss.discover = some d) (later : v = s.advance (d.pkt.started.getD s.now + 200000000))
    (report : b = v.discoveryReport d.desc o)
    (ended : w = (v.gateOffEnd (d.switched &&& ~~~v.sen.mask)).onMss fun m => { m with discover := none }) :
    doDiscoverComplete o s = if d.pkt.u 0x14 4 < b.length then w.noRes d.pkt b.length
      else (w.hostWrite (d.pkt.u 0x18 8) b).done d.pkt b.length := by
  simp only [doDiscoverComplete, pending, on, Bool.not_true, Bool.false_eq_true, if_false, ← later, ← report, ← ended]

/-- Settles O54: a request is one equation for each command (`doDomainOff_idle` and its like), switching a domain is
`State.gateOff` or `State.domainIsOn` of its mask alone, and `State.wakeDone` ends PARKED. -/
theorem powerRequestsAndDiscovery : Obligations.PowerRequestsAndDiscovery := by
  refine ⟨fun s d opened idle => ?switch, fun s c opened busy which => ?busy, fun s r opened idle => ?rate,
    fun s opened idle => ?park, fun s d on small => ?gate, fun s d on small => ?ready,
    fun s ring pk starts fits holds => ?discover, fun s o d v w b on pending later report ended => ?complete⟩
  case switch =>
    have off : exec (.domainOff d) s = .next _ := congrArg Host.Outcome.next (doDomainOff_idle opened idle d)
    have on : exec (.domainOn d) s = .next _ := congrArg Host.Outcome.next (doDomainOn_idle opened idle d)
    rw [off, on]
    refine ⟨fun may isOn contract sensor cache => ?_, fun may isOff contract sensor cache => ?_, fun barred => ?_, fun may isOff => ?_,
      fun may isOn => ?_, fun barred => ?_⟩
    · simp only [may, isOn, contract, sensor, cache, Bool.not_true, Bool.or_self, Bool.false_eq_true, if_false]
    · simp only [may, isOff, contract, sensor, cache, Bool.not_true, Bool.not_false, Bool.or_self, Bool.false_eq_true, if_false, if_true]
    · rw [if_pos (by rcases barred with barred | barred | barred | barred <;> simp [barred])]
    · simp only [may, isOff, Bool.not_true, Bool.false_eq_true, if_false]
    · simp only [may, isOn, Bool.not_true, Bool.false_eq_true, if_false, if_true]
    · rw [if_pos (by simp [barred])]
  case busy =>
    rcases which with rfl | ⟨d, rfl⟩ | ⟨d, rfl⟩ | ⟨r, rfl⟩
    all_goals exact congrArg Host.Outcome.next (State.pwrRequest_busy opened busy _)
  case rate =>
    have run : exec (.rateTarget r) s = .next _ := congrArg Host.Outcome.next (doRateTarget_idle opened idle r)
    rw [run]
    refine ⟨fun low high step => ⟨_, rfl, ?_⟩, fun out => by rw [if_pos out]⟩
    rw [if_neg (by omega)]
    exact s.newTarget_spec r rfl
  case park =>
    have run : exec .park s = .next _ := congrArg Host.Outcome.next (doPark_idle opened idle)
    rw [run]
    refine ⟨fun may => ⟨_, rfl, ?_⟩, fun busy => by rw [if_neg (by simp [busy])]⟩
    rw [if_pos may]
    exact s.park_spec rfl
  case gate =>
    have run : exec (.powerGateOpen d) s = .next (doPowerGateOpen d s) := rfl
    rw [run]
    exact ⟨fun closing still => ⟨_, rfl, doPowerGateOpen_spec small on closing still rfl⟩,
      fun shut => congrArg Host.Outcome.next (doPowerGateOpen_shut shut)⟩
  case ready =>
    have run : exec (.domainSwitchComplete d) s = .next (doDomainSwitchComplete d s) := rfl
    rw [run]
    exact ⟨fun rising settled off noCap => ⟨_, rfl, doDomainSwitchComplete_spec small on rising settled off noCap rfl⟩,
      fun waits => congrArg Host.Outcome.next (doDomainSwitchComplete_waits waits)⟩
  case discover =>
    exact ⟨_, rfl, congrArg Host.Outcome.next (doDiscover_starts starts fits holds rfl)⟩
  case complete =>
    have run : exec (.discoverComplete o) s = .next _ :=
      congrArg Host.Outcome.next (doDiscoverComplete_ends on pending later report ended)
    rw [run]
    exact ⟨fun fits => by rw [if_neg (by omega)], fun long => by rw [if_pos long]⟩

end Sys2Proof.Machine
end

section
/-! SUPPORT. An operator, and a gather that goes past every cache, writes provisionally only: the fabric that its run works over stays as it
was (R18, R161). -/

namespace Sys2Proof.Machine

/-! ### Tensors -/

section
variable (o : OpCx) (x : Cx)

@[simp] theorem OpCx.readT_fab (t : Tensor) (n : Nat) : (o.readT t n x).2.fab = x.fab := x.readP_fab o.u _

@[simp] theorem OpCx.writeT_fab (t : Tensor) (l : List Byte) : (o.writeT t l x).fab = x.fab := x.writeP_fab o.u _ l

@[simp] theorem OpCx.load_fab (t : Tensor) : (o.load t x).2.fab = x.fab := by
  simp only [OpCx.load]
  split
  · rfl
  · repeat' split
    all_goals simp

@[simp] theorem OpCx.view_fab (i : Nat) : (o.view i x).2.fab = x.fab := o.load_fab x _

@[simp] theorem OpCx.views_fab (l : List Nat) : (o.views l x).2.fab = x.fab :=
  foldl_keeps (fun p : List View × Cx => p.2.fab) (fun p i => o.view_fab p.2 i) l ([], x)

@[simp] theorem Cx.needOperand_fab (w : View) : (x.needOperand w).fab = x.fab := by
  unfold Cx.needOperand
  split <;> simp

@[simp] theorem OpCx.codesAt_fab (t : Tensor) (k e : Nat) : (o.codesAt t k e x).2.fab = x.fab := x.read_fab o.u _ _ _

@[simp] theorem Cx.storeT_fab (block : Bool) (t : Tensor) (f : Nat → Option Fp) : (x.storeT o block t f).fab = x.fab := by
  unfold Cx.storeT
  extract_lets h touched h' fin n padCode elem rows res written
  have htouched : touched.fab = x.fab := by unfold touched; split <;> simp
  have hres : res.2.2.fab = touched.fab :=
    foldl_keeps (fun p : List Nat × List Nat × Cx => p.2.2.fab) (fun p r => by simp) _ _
  have hwritten : written.fab = x.fab := (o.writeT_fab _ _ _).trans (hres.trans htouched)
  split
  · exact hwritten
  · exact (written.write_fab o.u _ _ _).trans hwritten

@[simp] theorem Cx.storeF32_fab (t : Tensor) (l : List Fp) : (x.storeF32 o t l).fab = x.fab := o.writeT_fab x t _

@[simp] theorem Cx.storeList_fab (t : Tensor) (k : Nat) (thr : Fp) (l : List Candidate) : (x.storeList o t k thr l).fab = x.fab :=
  o.writeT_fab x t _

@[simp] theorem Cx.storeMoments_fab (t : Tensor) (l : List Fp) : (x.storeMoments o t l).fab = x.fab := by
  simp only [Cx.storeMoments]
  split <;> simp

@[simp] theorem Cx.storeWeights_fab (t : Tensor) (l : List Fp) : (x.storeWeights o t l).fab = x.fab := o.writeT_fab x t _

/-! ### Array products -/

@[simp] theorem Cx.arrayPass_fab (c : Fin 8) (isInt : Bool) (rows : Nat) (vec : List (Option Fp)) (cols : List (List Fp)) (fmt : Nat) :
    (x.arrayPass c isInt rows vec cols fmt).2.fab = x.fab := by
  simp only [Cx.arrayPass]
  split <;> simp

@[simp] theorem Cx.arrayRow_fab (c : Fin 8) (fa fw passes ncols : Nat) (act : Nat → Nat → List (Option Fp))
    (wt : Nat → Nat → Nat → List Fp) : (x.arrayRow c fa fw passes ncols act wt).2.2.fab = x.fab :=
  foldl_keeps (fun r : List Fp × Nat × Cx => r.2.2.fab)
    (fun r _ => foldl_keeps (fun q : (List Fp × Nat) × Cx => q.2.fab) (fun q _ => q.2.arrayPass_fab c _ _ _ _ _) _ (_, r.2.2)) _ ([], 0, x)

@[simp] theorem Cx.countOvf_fab (n : Nat) : (x.countOvf o n).fab = x.fab := by
  simp only [Cx.countOvf]
  split <;> simp

@[simp] theorem Cx.dotRow_fab (A W : View) (alongA alongW : Bool) (k cols : Nat) (ai : Nat → Nat) (wi : Nat → Nat → Nat) :
    (x.dotRow o A W alongA alongW k cols ai wi).2.fab = x.fab := by
  simp [Cx.dotRow]

@[simp] theorem Cx.pvRow_fab (V : View) (p : List Fp) (dv : Nat) (vi : Nat → Nat → Nat) : (x.pvRow o V p dv vi).2.fab = x.fab := by
  simp [Cx.pvRow]

@[simp] theorem Cx.attnTile_fab (V : View) (dv j0 : Nat) (s : List Fp) (vi : Nat → Nat → Nat) (p : (Fp × Fp × List Fp) × Cx) :
    (Cx.attnTile o V dv j0 s vi p).2.fab = p.2.fab := by
  simp only [Cx.attnTile]
  split
  · rfl
  · exact p.2.pvRow_fab o V _ dv _

/-! ### Operators with a loop or a case of their own -/

theorem opConv2d_fab : (opConv2d o x).fab = x.fab := by
  simp only [opConv2d, Cx.storeT_fab]
  refine (foldl_keeps (fun p : List (List Fp) × Cx => p.2.fab) (fun p _ => ?_) _ _).trans (by simp)
  exact foldl_keeps (fun q : List Fp × Cx => q.2.fab) (fun q _ => by simp) _ _

theorem opMatmul_fab : (opMatmul o x).fab = x.fab := by
  simp only [opMatmul, Cx.storeT_fab]
  exact (foldl_keeps (fun p : List (List Fp) × Cx => p.2.fab) (fun p _ => by simp) _ _).trans (by simp)

theorem opAttention_fab : (opAttention o x).fab = x.fab := by
  simp only [opAttention, Cx.storeT_fab]
  refine (foldl_keeps (fun p : List (List Fp) × Cx => p.2.fab) (fun p _ => ?_) _ _).trans (by simp)
  exact (foldl_keeps (fun q : (Fp × Fp × List Fp) × Cx => q.2.fab) (fun q _ => Cx.attnTile_fab o _ _ _ _ _ q) _ _).trans (by simp)

@[simp] theorem OpCx.ssm_fab : (o.ssm x).2.fab = x.fab := by simp only [OpCx.ssm, OpCx.view_fab]

theorem opEmbedGather_fab : (opEmbedGather o x).fab = x.fab := by
  unfold opEmbedGather
  extract_lets r t bad
  split
  · simp
  · simp only [OpCx.writeT_fab]
    refine (foldl_keeps (fun p : List Nat × Cx => p.2.fab) (fun p k => ?_) _ _).trans (by simp)
    cases k <;> simp

theorem opGradNorm_fab : (opGradNorm o x).fab = x.fab := by
  simp only [opGradNorm]
  split <;> simp

theorem opOptAdamw_fab : (opOptAdamw o x).fab = x.fab := by
  simp only [opOptAdamw]
  split <;> simp

theorem opOptSgd_fab : (opOptSgd o x).fab = x.fab := by
  simp only [opOptSgd]
  split <;> simp

/-! ### Every operator -/

/-- An operator reads its tensors and writes its outputs, each provisionally (R18). -/
theorem opBody_fab (op : Nat) : (opBody op o x).fab = x.fab := by
  unfold opBody
  split
  · exact opConv2d_fab o x
  · simp only [opDwconv2d, Cx.storeT_fab, OpCx.view_fab]
  · simp only [opPool, Cx.storeT_fab, Cx.count_fab, OpCx.view_fab]
  · simp only [opPad, Cx.storeT_fab, OpCx.view_fab]
  · exact opMatmul_fab o x
  · simp only [opEltwise, Cx.storeT_fab, OpCx.view_fab]
  · simp only [opActivation, Cx.storeT_fab, OpCx.view_fab]
  · simp only [opLayerNorm, Cx.storeT_fab, OpCx.view_fab]
  · simp only [opSoftmax, Cx.storeT_fab, OpCx.view_fab]
  · simp only [opLayoutConvert, OpCx.writeT_fab, OpCx.view_fab]
  · exact opAttention_fab o x
  · simp only [opSsmScan, Cx.storeF32_fab, Cx.storeT_fab, OpCx.ssm_fab]
  · exact opEmbedGather_fab o x
  · simp only [opResize, Cx.storeT_fab, OpCx.view_fab]
  · simp only [opGridSample, Cx.storeT_fab, OpCx.view_fab]
  · simp only [opUndistort, Cx.storeT_fab, OpCx.view_fab]
  · simp only [opBevProject, Cx.storeT_fab, OpCx.readT_fab, OpCx.view_fab]
  · simp only [opBoxDecode, Cx.storeList_fab, OpCx.view_fab]
  · simp only [opTopk, Cx.storeList_fab, OpCx.view_fab]
  · simp only [opNms, OpCx.writeT_fab, OpCx.readT_fab]
  · simp only [opQuantise, Cx.storeT_fab, OpCx.view_fab]
  · simp only [opDequantise, Cx.storeT_fab, OpCx.view_fab]
  · simp only [opAmax, Cx.storeF32_fab, OpCx.view_fab]
  · simp only [opLoss, Cx.storeT_fab, Cx.storeF32_fab, OpCx.view_fab]
  · simp only [opSsmScanBwd, Cx.storeT_fab, OpCx.view_fab, OpCx.ssm_fab]
  · exact opGradNorm_fab o x
  · exact opOptAdamw_fab o x
  · exact opOptSgd_fab o x
  · rfl

end

/-- Running a record leaves the fabric of its run (R18). -/
@[simp] theorem Cx.runRecord_fab (x : Cx) (u : UnitId) (c : Fin 8) (g : RingAt) (ord : Nat) (r : OpRec) : (x.runRecord u c g ord r).fab = x.fab :=
  opBody_fab _ _ r.op

/-- A gather that uses no cache leaves the fabric of its run (R18). -/
theorem Cx.gather_fab (x : Cx) (u : UnitId) (g : Gather) : (x.gather u none g).fab = x.fab := by
  have row : ∀ (y : Cx) sp a n, (y.gatherRow u none sp a n).2.fab = y.fab := fun y sp a n => y.read_fab u sp a n
  unfold Cx.gather
  extract_lets fmt rows fill touched bad
  have htouched : touched.fab = x.fab := x.touch_fab u _ _ _
  split
  · exact (touched.stop_fab _).trans htouched
  · refine (foldl_keeps Cx.fab (fun y j => ?_) _ _).trans htouched
    dsimp only
    repeat' split
    all_goals simp [row]

end Sys2Proof.Machine
end

section
/-! PROOF of the statement about operators. A record runs as the running command's (`State.operatorRow_command`) or as the next one of an
engine's program (`State.runEngineRec_next`), GXE's descriptors by `doGatherDescriptor_next`; what the run left is put back by
`State.qmBack` or `State.engineBack`, and its bytes are still provisional. -/

namespace Sys2Proof.Machine

/-! ### A command's record -/

section
variable {s : State} {q : QmRun}

/-- The record of the running command, its unit's domain on, runs on the command's run (R161, R370). -/
theorem State.runCommandRec_on {k : OpInfo} (info : opInfo (s.commandRec q).op = some k)
    (on : ∀ d, opDomain k.unit = some d → s.pwr.usable.getLsbD d = true) {x : Cx}
    (ran : x = (s.cxQm q).runRecord (opUnitOf k.unit (lowestCore q.cores.toNat)) (lowestCore q.cores.toNat) (fun _ _ _ => none) 0 (s.commandRec q)) :
    s.runCommandRec q = s.qmBack { q with run := { q.run with done := true } } { x with run := { x.run with done := true } } := by
  subst ran
  simp only [State.runCommandRec, info]
  rw [if_neg]
  · rfl
  · cases unit : opDomain k.unit with
    | none => exact Bool.false_ne_true
    | some d => simpa [State.cxQm, State.cx] using on d unit

/-- A row at the address that the running command names, and of its record's operator, runs that record (R161). -/
theorem State.operatorRow_command {op adr : Nat} (rst : s.pins.rstN = true) (run : s.cpx.qm = some q) (record : q.streams = [])
    (waits : q.run.done = false) (named : q.pkt.u 0x18 8 = adr) (same : (s.commandRec q).op = op) :
    s.operatorRow op .qm adr = s.runCommandRec q := by
  unfold State.operatorRow
  rw [if_neg (by simp [rst])]
  simp only [run]
  exact if_pos (by simp [record, waits, named, same])

/-- What a run that wrote provisionally only left, put back into a command, changes no byte of any memory (R18). -/
theorem State.qmBack_peek (cap : s.cpx.cap = none) {x : Cx} (kept : x.fab = s.fab) (sp : Space) (b : Nat) :
    (s.qmBack q x).fab.peek sp b = s.fab.peek sp b := by
  cases wait : x.wait with
  | false => exact Fab.peek_congr ((s.qmBack_bytes x q cap wait).trans (congrArg Fab.bytes kept)) sp b
  | true => rw [s.qmBack_waiting x q wait]

end

/-! ### An engine's record -/

section
variable {s : State} {e : Engine} {a : Contract} {er : EngRecord} {st : StepEntry} {x : Cx}

/-- What a run that goes on left is its engine's step, and the next record follows (R154). -/
theorem State.engineBack_going (go : x.wait = false) :
    ((s.engineBack e er x).fab.engine e).run = { x.run with done := er.isStep } ∧
      ((s.engineBack e er x).fab.engine e).next = (s.fab.engine e).next + 1 ∧ (s.engineBack e er x).ctr = s.ctr := by
  unfold State.engineBack
  rw [if_neg (by simp [go]), State.onFab_fab, Fab.engine_putEngine]
  exact ⟨rfl, rfl, s.cxBack_ctr x⟩

/-- What a run that wrote provisionally only left, put back into an engine, changes no byte of any memory (R18). -/
theorem State.engineBack_peek (kept : x.fab = s.fab) (sp : Space) (b : Nat) : (s.engineBack e er x).fab.peek sp b = s.fab.peek sp b := by
  unfold State.engineBack
  dsimp only
  split
  · rfl
  next go =>
    refine Fab.peek_congr ?_ sp b
    have back : (s.cxBack x).fab = s.fab := (s.cxBack_fab x (by simpa using go)).trans kept
    rw [State.onFab_fab, back]
    rfl

variable (next : s.engineNext e = some (a, er, st))
include next

/-- The next record of an engine's program: only the row of its address and operator runs it, with no work in a coppice step (R60), else once
its rings are ready (R45, R46). -/
theorem State.runEngineRec_next (other : e ≠ .gxe) (start : x = s.cx (s.engineRun e st)) {r : OpRec}
    (record : r = readRec x.rd .dram (a.imageAddr + er.off)) {g : RingAt} (rings : g = fun wr i o => a.ringAt s.ctr.prog wr i o) (adr op : Nat) :
    s.runEngineRec e adr op =
      if a.imageAddr + er.off ≠ adr ∨ r.op ≠ op then s
      else if st.kind = 2 then s.engineBack e er x
      else if !s.ringsReady a (unitCode (.eng e)) (r.headAccs g) || !s.ringsReady a (unitCode (.eng e)) (r.allAccs x.rd g) then s
      else s.engineBack e er (x.runRecord (.eng e) 0 g (s.fab.engine e).next r) := by
  subst start record rings
  unfold State.runEngineRec
  rw [if_neg other]
  simp only [next]

end

/-! ### GXE -/

/-- GXE's next descriptor: the program's end, a step's end or a descriptor of a coppice step (R60), or a gather once its rings are
ready (R154). -/
theorem doGatherDescriptor_next {s : State} {a : Contract} {er : EngRecord} {st : StepEntry} {x : Cx} {g : Gather} (rst : s.pins.rstN = true)
    (next : s.engineNext .gxe = some (a, er, st)) (start : x = s.cx (s.engineRun .gxe st))
    (descriptor : g = readDescriptor x.rd (a.imageAddr + er.off)) :
    doGatherDescriptor s =
      if er.isEnd then s.onFab fun f => f.putEngine .gxe { f.engine .gxe with halted := true }
      else if er.isStep || st.kind = 2 then s.engineBack .gxe er x
      else if !s.ringsReady a (unitCode (.eng .gxe)) (g.acc x.rd) then s
      else s.engineBack .gxe er (x.gather (.eng .gxe) none g) := by
  subst start descriptor
  unfold doGatherDescriptor
  rw [if_neg (by simp [rst])]
  simp only [next]

/-! ### The rows -/

/-- Settles O59: every operator of the list is a row of its code, and a row runs a record of that code only; an operator and GXE's gather
write provisionally (`Cx.runRecord_fab`, `Cx.gather_fab`). -/
theorem operatorsRunProvisionally : Obligations.OperatorsRunProvisionally := by
  refine ⟨fun p member => ?rows, fun s a er st x y g rst next start descriptor ran => ?gxe⟩
  case rows =>
    have row : ∀ s u adr, exec (p.2 u adr) s = .next (s.operatorRow p.1 u adr) := by
      intro s u adr
      simp only [List.mem_cons, List.not_mem_nil, or_false] at member
      rcases member with rfl | rfl | rfl | rfl | rfl | rfl | rfl | rfl | rfl | rfl | rfl | rfl | rfl | rfl | rfl | rfl | rfl | rfl | rfl | rfl |
        rfl | rfl | rfl | rfl | rfl | rfl | rfl | rfl
      all_goals rfl
    refine ⟨fun s q k x adr rst run record waits named same info on ran => ?command,
      fun s e a er st x y r g rst other next start record same rings ran => ?engine⟩
    case command =>
      rw [row, State.operatorRow_command rst run record waits named same, State.runCommandRec_on (same ▸ info) on ran]
      have kept : x.fab = s.fab := ran ▸ Cx.runRecord_fab ..
      refine ⟨rfl, fun go runs => ?_, fun wait => ?_, fun cap => State.qmBack_peek cap kept⟩
      · exact ⟨_, rfl, State.qmBack_running s _ _ go runs⟩
      · exact congrArg Host.Outcome.next (State.qmBack_waiting s { x with run := { x.run with done := true } } _ wait)
    case engine =>
      have runs : ∀ adr, exec (p.2 (.engine e) adr) s = .next (s.runEngineRec e adr p.1) := fun adr => by
        rw [row]
        exact congrArg Host.Outcome.next (if_neg (by simp [rst]))
      have kept : y.fab = s.fab := by rw [ran, Cx.runRecord_fab, start]; rfl
      simp only [runs, State.runEngineRec_next next other start record rings, same, ← ran]
      refine ⟨fun coppice => ?_, fun work head all => ?_, fun work blocked => ?_, fun adr elsewhere => ?_⟩
      · simp [coppice]
      · rw [if_neg (by simp), if_neg work, if_neg (by simp [head, all])]
        exact ⟨rfl, fun go => ⟨_, rfl, State.engineBack_going go⟩, State.engineBack_peek kept⟩
      · rcases blocked with blocked | blocked <;> simp [work, blocked]
      · rw [if_pos (.inl elsewhere.symm)]
  case gxe =>
    have runs : exec .gatherDescriptor s = .next _ := congrArg Host.Outcome.next (doGatherDescriptor_next rst next start descriptor)
    have kept : y.fab = s.fab := by rw [ran, Cx.gather_fab, start]; rfl
    rw [runs, ← ran]
    refine ⟨fun ends => by rw [if_pos ends], fun goesOn idle => ?_, fun goesOn step work ready => ?_, fun goesOn step work blocked => ?_⟩
    · rw [if_neg (by simp [goesOn]), if_pos (by simpa using idle)]
    · rw [if_neg (by simp [goesOn]), if_neg (by simp [step, work]), if_neg (by simp [ready])]
      exact ⟨rfl, fun go => ⟨_, rfl, (State.engineBack_going go).1.trans (by rw [step]), (State.engineBack_going go).2⟩, State.engineBack_peek kept⟩
    · rw [if_neg (by simp [goesOn]), if_neg (by simp [step, work]), if_pos (by simp [blocked])]

end Sys2Proof.Machine
end

section
/-! SUPPORT. The sensors under time, power and a SENSOR_CONFIG that starts: what `State.advance` and `State.powerOn` leave of them, and
the body that runs. -/

namespace Sys2Proof.Machine

/-! ### Time -/

section
variable (s : State) (n : Nat)

/-- Of the sensors, pulses that end change the FSYNC outputs only (R214). -/
theorem State.settlePulses_sen : ∃ v, s.settlePulses.sen = { s.sen with fsync := v } := by
  simp only [State.settlePulses]
  split <;> split <;> exact ⟨_, rfl⟩

/-- Of the pins, pulses that end change PPS_OUT and the FSYNC outputs only (R214, R364). -/
theorem State.settlePulses_pins : ∃ a b, s.settlePulses.pins = { s.pins with ppsOut := a, fsync := b } := by
  simp only [State.settlePulses]
  split <;> split <;> exact ⟨_, _, rfl⟩

theorem State.advance_sen : ∃ v, (s.advance n).sen = { s.sen with fsync := v } := State.settlePulses_sen (s.onTim _)

theorem State.advance_pins : ∃ a b, (s.advance n).pins = { s.pins with ppsOut := a, fsync := b } := State.settlePulses_pins (s.onTim _)

@[simp] theorem State.advance_rstN : (s.advance n).pins.rstN = s.pins.rstN := by
  obtain ⟨a, b, pins⟩ := s.advance_pins n
  rw [pins]

/-- What does not look at the FSYNC outputs sees the same sensors at a later count. -/
theorem State.advance_sees {α : Type} {look : Sen → α} (blind : ∀ x v, look { x with fsync := v } = look x) :
    look (s.advance n).sen = look s.sen := by
  obtain ⟨v, sen⟩ := s.advance_sen n
  rw [sen, blind]

@[simp] theorem State.advance_lidars : (s.advance n).sen.lidars = s.sen.lidars := s.advance_sees n fun _ _ => rfl
@[simp] theorem State.advance_lidOld : (s.advance n).sen.lidOld = s.sen.lidOld := s.advance_sees n fun _ _ => rfl
@[simp] theorem State.advance_fsyncNext : (s.advance n).sen.fsyncNext = s.sen.fsyncNext := s.advance_sees n fun _ _ => rfl
@[simp] theorem State.advance_ethCounts : (s.advance n).sen.ethCounts = s.sen.ethCounts := s.advance_sees n fun _ _ => rfl
@[simp] theorem State.advance_stopped : (s.advance n).sen.stopped = s.sen.stopped := s.advance_sees n fun _ _ => rfl
@[simp] theorem State.advance_lidarOf (port : Nat) (d : Datagram) : (s.advance n).sen.lidarOf port d = s.sen.lidarOf port d :=
  s.advance_sees n (look := fun x => x.lidarOf port d) fun _ _ => rfl

/-- Where an instant of vehicle time lies on TMB does not depend on the count (R352). -/
@[simp] theorem State.advance_countAt (v : Int) : countAt (s.advance n).tim v = countAt s.tim v := by
  rw [State.advance, State.settlePulses_tim]
  rfl

end

/-! ### Power -/

section
variable (s : State) (mask : BitVec 64)

@[simp] theorem State.gateOff_sen : (s.gateOff mask).sen = s.sen := rfl
@[simp] theorem State.pwrEnd_sen (st : Nat) : (s.pwrEnd st).sen = s.sen := by simp [State.pwrEnd]
@[simp] theorem State.powerOn_sen : (s.powerOn mask).sen = s.sen := by simp [State.powerOn, apply_ite State.sen]
@[simp] theorem State.zeroAbsent_sen (r : DevRing) : (s.zeroAbsent r).sen = s.sen := rfl
@[simp] theorem State.zeroAbsent_ctr (r : DevRing) : (s.zeroAbsent r).ctr = s.ctr := rfl

end

/-! ### Lidars -/

section
variable (s : State) {i : Nat} (l : Lidar)

theorem State.setLidar_same (inside : i < 8) : vget (s.setLidar i l).sen.lidars i none = some l := by
  simp [State.setLidar, vget_vset, inside]

theorem State.setLidar_other {j : Nat} (other : j ≠ i) : vget (s.setLidar i l).sen.lidars j none = vget s.sen.lidars j none := by
  simp [State.setLidar, vget_vset, other]

end

/-! ### A SENSOR_CONFIG starts -/

/-- The front SENSOR_CONFIG starts and its OP is the command's: the command's body runs on the started packet. -/
theorem State.Starts.runSensor {s : State} {ring : Nat} {pk : Packet} (h : s.Starts ring 0x50 pk) {sel : Nat → Bool}
    (takes : sel (pk.u 0x10 1) = true) (body : Packet → State → State) :
    s.runSensor ring sel body = body (s.begun pk) (s.markStarted pk) := by
  simp only [State.runSensor, h.front, takes, if_true, h.run]

@[simp] theorem State.markStarted_sensorBlock (s : State) (pk : Packet) :
    (s.markStarted pk).sensorBlock (s.begun pk) = s.sensorBlock pk := rfl

/-- Which camera is configured at an index depends on its two entries alone. -/
theorem Sen.cam_congr {x y : Sen} {j : Nat} (waiting : vget x.camNext j none = vget y.camNext j none)
    (inForce : vget x.cameras j none = vget y.cameras j none) : x.cam j = y.cam j := by
  rw [Sen.cam, Sen.cam, waiting, inForce]

end Sys2Proof.Machine
end

section
/-! PROOF of the statement about SENSOR_CONFIG's sensors: for each command the equation of its passing run, and what its update makes of
the sensors. -/

namespace Sys2Proof.Machine

/-! ### CAMERA -/

section
variable {s : State} {i : Nat} {c : Camera}

/-- CAMERA at an index without a camera: the descriptor is in force (R226). -/
theorem State.putCamera_free (free : s.sen.cam i = none) :
    (s.putCamera i c).sen = { s.sen with cameras := vset s.sen.cameras i (some c) } := by
  simp [State.putCamera, free]

/-- CAMERA at a camera's index: the descriptor, with the ring of one of its shape, waits for the next frame start (R206). -/
theorem State.putCamera_taken {o : Camera} (taken : s.sen.cam i = some o) :
    ∃ c', (s.putCamera i c).sen = { s.sen with camNext := vset s.sen.camNext i (some c') } := by
  simp only [State.putCamera, State.powerOn_sen, taken]
  split <;> simp only [State.onSen_sen, State.zeroAbsent_sen, State.powerOn_sen] <;> exact ⟨_, rfl⟩

theorem State.putCamera_lidars : (s.putCamera i c).sen.lidars = s.sen.lidars := by
  cases taken : s.sen.cam i with
  | none => rw [State.putCamera_free taken]
  | some o =>
    obtain ⟨c', sen⟩ := State.putCamera_taken (c := c) taken
    rw [sen]

theorem State.putCamera_cam {j : Nat} (other : j ≠ i) : (s.putCamera i c).sen.cam j = s.sen.cam j := by
  cases taken : s.sen.cam i with
  | none =>
    rw [State.putCamera_free taken]
    exact Sen.cam_congr rfl (by simp [vget_vset, other])
  | some o =>
    obtain ⟨c', sen⟩ := State.putCamera_taken (c := c) taken
    rw [sen]
    exact Sen.cam_congr (by simp [vget_vset, other]) rfl

end

/-- A CAMERA that passes its checks puts its descriptor in place and replies DONE (R198, R226). -/
theorem doCamera_accepts {s : State} {ring i : Nat} {pk : Packet} {b : List Byte} {p : CamParams} (h : s.Starts ring 0x50 pk)
    (op : pk.u 0x10 1 = 0) (index : pk.u 0x11 1 = i) (inside : i ≤ 23) (size : pk.u 0x14 4 = 128 ∨ pk.u 0x14 4 = 26432)
    (block : s.sensorBlock pk = some b)
    (params : (if pk.u 0x14 4 = 26432 then CamParams.parse (b.drop 128)
      else some (((s.sen.cam i).map fun c => c.nextParams.getD c.params).getD CamParams.default)) = some p)
    (ok : (Camera.parse b p).ok s.mss b = true)
    (free : ∀ k ∈ s.sen.cams, k.1 ≠ i → k.2.port = (Camera.parse b p).port → k.2.vc ≠ (Camera.parse b p).vc)
    (shape : s.ctr.names (0x100 + i) = true → ∀ o, s.sen.cam i = some o → o.sameShape (Camera.parse b p) = true)
    (fits : s.sen.camFits i (Camera.parse b p) = true) :
    doCamera ring s = ((s.markStarted pk).putCamera i (Camera.parse b p)).done (s.begun pk) 0 := by
  have stream : (s.sen.cams.any fun k => k.1 ≠ i && decide (k.2.port = (Camera.parse b p).port) &&
      decide (k.2.vc = (Camera.parse b p).vc)) = false := by
    rw [List.any_eq_false]
    intro k mem clash
    simp only [Bool.and_eq_true, decide_eq_true_eq] at clash
    obtain ⟨⟨other, port⟩, vc⟩ := clash
    exact free k mem other port vc
  have sized : ¬(pk.u 0x14 4 ≠ 128 ∧ pk.u 0x14 4 ≠ 26432) := by omega
  rw [doCamera, h.runSensor (by simp [op])]
  simp only [State.begun_u, State.markStarted_sensorBlock, State.markStarted_sen, State.markStarted_mss, State.markStarted_ctr, op, index,
    block, params, ok, stream, fits, if_neg sized, if_neg (show ¬5 < 0 by omega), if_neg (show ¬23 < i by omega), Bool.not_true,
    Bool.false_eq_true, if_false]
  refine if_neg fun clash => ?_
  obtain ⟨names, differs⟩ := Bool.and_eq_true_iff.mp clash
  cases cam : s.sen.cam i with
  | none => simp [cam] at differs
  | some o => simp [cam, shape names o cam] at differs

/-! ### CAM_PARAMS -/

/-- CAM_PARAMS of a configured camera: the parameters are those of its next frame (R206). -/
def Sen.putParams (i : Nat) (p : CamParams) (x : Sen) : Sen :=
  { x with cameras := vset x.cameras i ((vget x.cameras i none).map fun c => { c with nextParams := some p }),
           camNext := vset x.camNext i ((vget x.camNext i none).map fun c => { c with params := p }) }

/-- CAM_PARAMS that passes its checks replies DONE (R206). -/
theorem doCamParams_accepts {s : State} {ring : Nat} {pk : Packet} {b : List Byte} {p : CamParams} (h : s.Starts ring 0x50 pk)
    (op : pk.u 0x10 1 = 1) (inside : pk.u 0x11 1 ≤ 23) (known : (s.sen.cam (pk.u 0x11 1)).isSome = true) (size : pk.u 0x14 4 = 26304)
    (block : s.sensorBlock pk = some b) (params : CamParams.parse b = some p) :
    doCamParams ring s = ((s.markStarted pk).onSen (Sen.putParams (pk.u 0x11 1) p)).done (s.begun pk) 0 := by
  have index : ¬(23 < pk.u 0x11 1 ∨ (s.sen.cam (pk.u 0x11 1)).isNone = true) := by
    rw [← Option.not_isSome, known]
    simpa using inside
  rw [doCamParams, h.runSensor (by simp [op])]
  simp only [State.begun_u, State.markStarted_sensorBlock, State.markStarted_sen, size, block, params, if_neg index, ne_eq,
    not_true_eq_false, if_false]
  rfl

/-- A camera is configured where a descriptor is in force. -/
theorem Sen.cam_isSome {x : Sen} {i : Nat} {c : Camera} (inForce : vget x.cameras i none = some c) : (x.cam i).isSome = true := by
  unfold Sen.cam
  split
  · rfl
  · rw [inForce]; rfl

/-! ### LIDAR -/

/-- LIDAR's descriptor at an index: in force when the index is free, else it waits for the next window. -/
def Sen.putLidar (i : Nat) (l : Lidar) (x : Sen) : Sen :=
  match vget x.lidars i none with
  | none => { x with lidars := vset x.lidars i (some l) }
  | some _ => { x with lidNext := vset x.lidNext i (some l) }

/-- LIDAR that passes its checks puts its descriptor in place, with the LPE's domain on, and replies DONE (R224, R226). -/
theorem doLidar_accepts {s : State} {ring i : Nat} {pk : Packet} {b : List Byte} (h : s.Starts ring 0x50 pk) (op : pk.u 0x10 1 = 2)
    (index : pk.u 0x11 1 = 0x80 + i) (inside : i ≤ 7) (block : s.sensorBlock pk = some b) (least : 288 ≤ pk.u 0x14 4)
    (size : pk.u 0x14 4 = 288 + 16 * blk b 0x109 1 + 8 * blk b 0x11C 2) (ok : (Lidar.parse b s.vnow).ok s.mss b = true)
    (unnamed : s.ctr.names (0x200 + i) = false) (fits : s.sen.lidFits i (Lidar.parse b s.vnow) = true) :
    doLidar ring s = (((((s.markStarted pk).powerOn (1#64 <<< 40)).onSen (Sen.putLidar i (Lidar.parse b s.vnow))).zeroAbsent
      (Lidar.parse b s.vnow).ring).done (s.begun pk) 0) := by
  have sized : ¬(pk.u 0x14 4 < 288 ∨ pk.u 0x14 4 ≠ 288 + 16 * blk b 0x109 1 + 8 * blk b 0x11C 2) := by omega
  rw [doLidar, h.runSensor (by simp [op])]
  simp only [State.begun_u, State.markStarted_sensorBlock, State.markStarted_sen, State.markStarted_mss, State.markStarted_ctr,
    State.markStarted_vnow, block, if_neg sized, index, Nat.add_sub_cancel_left, ok, unnamed, fits,
    if_neg (show ¬(0x80 + i < 0x80 ∨ 0x87 < 0x80 + i) by omega), Bool.not_true, Bool.false_eq_true, or_self, if_false]
  rfl

/-! ### DISABLE -/

/-- DISABLE of a camera: nothing is left at its index. -/
def Sen.dropCamera (i : Nat) (x : Sen) : Sen := { x with cameras := vset x.cameras i none, camNext := vset x.camNext i none }

/-- DISABLE of a lidar: nothing is left at its index. -/
def Sen.dropLidar (i : Nat) (x : Sen) : Sen :=
  { x with lidars := vset x.lidars i none, lidNext := vset x.lidNext i none, lidOld := vset x.lidOld i none }

section
variable {s : State} {ring : Nat} {pk : Packet} (h : s.Starts ring 0x50 pk) (op : pk.u 0x10 1 = 5) (size : pk.u 0x14 4 = 0)
include h op size

/-- DISABLE of a camera that no contract names (R226). -/
theorem doDisable_camera (inside : pk.u 0x11 1 ≤ 23) (unnamed : s.ctr.names (0x100 + pk.u 0x11 1) = false) :
    doDisable ring s = ((s.markStarted pk).onSen (Sen.dropCamera (pk.u 0x11 1))).done (s.begun pk) 0 := by
  rw [doDisable, h.runSensor (by simp [op])]
  simp only [State.begun_u, State.markStarted_ctr, size, inside, unnamed, decide_true, Bool.true_or, Bool.not_true, Bool.false_eq_true,
    ne_eq, not_true_eq_false, if_false, if_true]
  rfl

/-- DISABLE of a lidar that no contract names (R226). -/
theorem doDisable_lidar (low : 0x80 ≤ pk.u 0x11 1) (high : pk.u 0x11 1 ≤ 0x87)
    (unnamed : s.ctr.names (0x200 + (pk.u 0x11 1 - 0x80)) = false) :
    doDisable ring s = ((s.markStarted pk).onSen (Sen.dropLidar (pk.u 0x11 1 - 0x80))).done (s.begun pk) 0 := by
  have noCamera : ¬pk.u 0x11 1 ≤ 23 := by omega
  rw [doDisable, h.runSensor (by simp [op])]
  simp only [State.begun_u, State.markStarted_ctr, size, low, high, noCamera, unnamed, decide_true, and_self, Bool.or_true, Bool.not_true,
    Bool.false_eq_true, ne_eq, not_true_eq_false, if_false]
  rfl

end

/-- Settles O30: each command that passes its checks is one equation (`doCamera_accepts` and its like), and what it makes of the sensors is
one update of their block. -/
theorem sensorsAreConfigured : Obligations.SensorsAreConfigured := by
  refine ⟨fun s ring pk b p i h op index inside size block params ok free shape fits => ?camera,
    fun s ring pk b p c h op inside inForce size block params => ?params,
    fun s ring pk b i h op index inside block least size ok unnamed fits => ?lidar,
    fun s ring pk i h op index size => ⟨?noCamera, ?noLidar⟩⟩
  case camera =>
    refine ⟨_, congrArg Host.Outcome.next (doCamera_accepts h op index inside size block params ok free shape fits), rfl, ?_⟩
    simp only [State.done_sen]
    refine ⟨fun none_ => ?_, fun o taken => ?_, fun j other => State.putCamera_cam other, State.putCamera_lidars⟩
    · rw [State.putCamera_free (s := s.markStarted pk) none_]
      simp [vget_vset, show i < 24 by omega]
    · obtain ⟨c', sen⟩ := State.putCamera_taken (s := s.markStarted pk) (c := Camera.parse b p) taken
      rw [sen]
      exact ⟨rfl, by simp [vget_vset, show i < 24 by omega]⟩
  case params =>
    refine ⟨_, congrArg Host.Outcome.next (doCamParams_accepts h op inside (Sen.cam_isSome inForce) size block params), ?_,
      fun j other => ?_, rfl, rfl, rfl⟩
    · simp [Sen.putParams, vget_vset, show pk.u 0x11 1 < 24 by omega, inForce]
    · exact Sen.cam_congr (by simp [Sen.putParams, vget_vset, other]) (by simp [Sen.putParams, vget_vset, other])
  case lidar =>
    refine ⟨_, congrArg Host.Outcome.next (doLidar_accepts h op index inside block least size ok unnamed fits), ?_⟩
    simp only [State.zeroAbsent_sen, State.zeroAbsent_ctr, State.onSen_sen, State.onSen_ctr, State.powerOn_sen, State.powerOn_ctr]
    refine ⟨fun none_ => ?_, fun o some_ => ?_, ?_, rfl⟩
    · simp [Sen.putLidar, none_, vget_vset, show i < 8 by omega]
    · simp [Sen.putLidar, some_, vget_vset, show i < 8 by omega]
    · unfold Sen.putLidar
      split <;> rfl
  case noCamera =>
    subst index
    intro inside unnamed
    have bound : pk.u 0x11 1 < 24 := by omega
    refine ⟨_, congrArg Host.Outcome.next (doDisable_camera h op size inside unnamed), ?_, ?_, fun j other => ?_, rfl, rfl⟩
    · simp [Sen.cam, Sen.dropCamera, vget_vset, bound]
    · simp [Sen.dropCamera, vget_vset, bound]
    · exact Sen.cam_congr (by simp [Sen.dropCamera, vget_vset, other]) (by simp [Sen.dropCamera, vget_vset, other])
  case noLidar =>
    subst index
    intro low high unnamed
    have bound : pk.u 0x11 1 - 0x80 < 8 := by omega
    refine ⟨_, congrArg Host.Outcome.next (doDisable_lidar h op size low high unnamed), ?_, ?_, rfl, rfl⟩
    · simp [Sen.dropLidar, vget_vset, bound]
    · simp [Sen.dropLidar, vget_vset, bound]

end Sys2Proof.Machine
end

section
/-! PROOF of the statement about motion records and camera control: one equation for each command, and one for the end of an operation. -/

namespace Sys2Proof.Machine

section
variable {s : State} {ring : Nat} {pk : Packet} {b : List Byte} (h : s.Starts ring 0x50 pk) (block : s.sensorBlock pk = some b)
include h block

/-- A MOTION that passes its checks (R221): its record is kept, CKC gets the block, and the reply is DONE. -/
theorem doMotion_accepts (op : pk.u 0x10 1 = 3) (size : pk.u 0x14 4 = 32) (zero : blkZero b 0x18 8 = true) :
    doMotion ring s = (((s.markStarted pk).onSen fun x =>
      { x with motionOrder := x.motionOrder + 1, motions := keepMotion x.motions (Motion.mk (sext 64 (blk b 0 8))
          (BitVec.ofNat 32 (blk b 8 4)) (BitVec.ofNat 32 (blk b 0xC 4)) (BitVec.ofNat 32 (blk b 0x10 4))
          (BitVec.ofNat 32 (blk b 0x14 4)) s.sen.motionOrder) }).ckcInput (.motion (leNat b))).done (s.begun pk) 0 := by
  rw [doMotion, h.runSensor (by simp [op])]
  simp only [State.begun_u, State.markStarted_sensorBlock, State.markStarted_sen, block, size, zero, Bool.not_true, Bool.false_eq_true,
    ne_eq, not_true_eq_false, if_false]

/-- A CCI that passes its checks waits at its controller (R213). -/
theorem doCci_accepts (op : pk.u 0x10 1 = 4) (size : pk.u 0x14 4 = 16 + 8 * blk b 3 1) (ctl : blk b 0 1 ≤ 3) (target : blk b 1 1 ≤ 127)
    (speed : blk b 2 1 ≤ 2) (least : 1 ≤ blk b 3 1) (most : blk b 3 1 ≤ 64) (zero : blkZero b 4 12 = true)
    (transfers : ∀ k, k < blk b 3 1 → cciTransferOk b k = true) (dest : pk.u 0x20 8 % 64 = 0) :
    doCci ring s = (s.markStarted pk).onSen fun x =>
      { x with i2c := vset x.i2c (blk b 0 1) (vget x.i2c (blk b 0 1) [] ++
          [{ pkt := s.begun pk, target := blk b 1 1, speed := blk b 2 1,
             transfers := (List.range (blk b 3 1)).map (CciTransfer.parse b), dest := pk.u 0x20 8 }]) } := by
  have all : (List.range (blk b 3 1)).all (cciTransferOk b) = true := by simpa using transfers
  have ranges : ¬(3 < blk b 0 1 ∨ 127 < blk b 1 1 ∨ 2 < blk b 2 1 ∨ blk b 3 1 < 1 ∨ 64 < blk b 3 1 ∨ (!blkZero b 4 12) = true ∨
      (!(List.range (blk b 3 1)).all (cciTransferOk b)) = true) := by
    simp only [zero, all, Bool.not_true, Bool.false_eq_true, or_false]
    omega
  rw [doCci, h.runSensor (by simp [op])]
  simp only [State.begun_u, State.markStarted_sensorBlock, block, size, aligned64, dest, decide_true, if_neg ranges, Bool.not_true,
    Bool.false_eq_true, ne_eq, not_true_eq_false, if_false]

end

/-- The operation at the front of a controller ends (R213). -/
theorem State.endCci_front {s : State} {ctl : Fin 4} {op : CciOp} {rest : List CciOp} (on : s.pins.rstN = true)
    (front : vget s.sen.i2c ctl.val [] = op :: rest) (done : Nat) (reads : List Word) {u : State} {ws : List Word}
    (left : u = s.onSen fun x =>
      { x with i2c := vset x.i2c ctl.val rest,
               i2cSent := vset x.i2cSent ctl.val (vget x.i2cSent ctl.val [] ++ (op.transfers.take done).map fun t => t.wire op.target) })
    (words : ws = cciReads (op.transfers.take done) reads) :
    s.endCci ctl done reads = (if ws = [] then u else u.post (.block op.dest (ws.flatMap fun w => leBytes 4 w.toNat))).done op.pkt
      (min done op.transfers.length) := by
  subst left words
  simp only [State.endCci, front, on, Bool.not_true, Bool.false_eq_true, if_false, List.isEmpty_iff, List.length_take, State.hostWrite]

/-- Settles O31: MOTION and CCI that pass their checks are one equation each, and so is the end of an operation (`State.endCci_front`),
which both of its commands share. -/
theorem motionAndCameraControl : Obligations.MotionAndCameraControl :=
  ⟨fun _ _ _ _ h op size block zero => congrArg Host.Outcome.next (doMotion_accepts h block op size zero),
    fun _ _ _ _ h op block size ctl target speed least most zero transfers dest =>
      congrArg Host.Outcome.next (doCci_accepts h block op size ctl target speed least most zero transfers dest),
    fun _ _ done reads _ _ on front =>
      ⟨_, _, rfl, rfl, congrArg Host.Outcome.next (State.endCci_front on front done reads rfl rfl), rfl⟩⟩

end Sys2Proof.Machine
end

section
/-! PROOF of the statement about FSYNC outputs: which entry a command takes, and what placing or driving an edge makes of it. -/

namespace Sys2Proof.Machine

/-! ### FSYNC_SCHEDULE -/

/-- The entry that an FSYNC_SCHEDULE asks for (R214); `now` is the vehicle time, which chooses a MODE 1 entry's first edge. -/
def Packet.fsyncEntry (pk : Packet) (now : Int) : Fsync :=
  { mode := pk.u 0x11 1, t0 := sext 64 (pk.u 0x18 8), period := pk.u 0x20 4, width := pk.u 0x24 4, offset := sext 32 (pk.u 0x28 4),
    polarity := pk.u 0x12 1, placed := [], lastEdge := none, pulseEnd := none, skipped := 0,
    nextK := if pk.u 0x11 1 = 1 then (max 0 (icdiv (now - sext 64 (pk.u 0x18 8)) (pk.u 0x20 4))).toNat else 0 }

/-- MODE 0 takes an output out of use (R214): it keeps its latest edge and its pulse. -/
def Sen.fsyncOff (out : Nat) (f : Fsync) (x : Sen) : Sen :=
  let old := vget x.fsync out Fsync.off
  { x with fsync := vset x.fsync out { f with lastEdge := old.lastEdge, pulseEnd := old.pulseEnd, skipped := old.skipped },
           fsyncNext := vset x.fsyncNext out none }

/-- Every field that the MODE of an FSYNC_SCHEDULE uses lies in its range (R214). -/
structure Packet.FsyncOk (pk : Packet) : Prop where
  output   : pk.u 0x10 1 ≤ 7
  mode     : pk.u 0x11 1 ≤ 2
  polarity : pk.u 0x12 1 ≤ 1
  period   : pk.u 0x11 1 = 1 → 1000000 ≤ pk.u 0x20 4 ∧ pk.u 0x20 4 ≤ 1000000000 ∧ pk.u 0x24 4 < pk.u 0x20 4
  width    : pk.u 0x11 1 ≠ 0 → 100 ≤ pk.u 0x24 4 ∧ pk.u 0x24 4 ≤ 10000000
  offset   : pk.u 0x11 1 = 2 → (sext 32 (pk.u 0x28 4)).natAbs ≤ 49999999

section
variable {s : State} {ring : Nat} {pk : Packet} (h : s.Starts ring 0x51 pk) (ok : pk.FsyncOk)
include h ok

/-- An FSYNC_SCHEDULE that passes its checks: MODE 0 acts at once, its pin idle unless a pulse is under way; another MODE's entry waits. -/
theorem doFsyncSchedule_accepts : doFsyncSchedule ring s =
    (let t := s.markStarted pk
     let f := pk.fsyncEntry s.vnow
     if pk.u 0x11 1 = 0 then
       let u := t.onSen (Sen.fsyncOff (pk.u 0x10 1) f)
       if (vget s.sen.fsync (pk.u 0x10 1) Fsync.off).pulseEnd.isSome then u
       else u.onPins fun p => { p with fsync := if pk.u 0x12 1 = 0 then p.fsync &&& ~~~(1#8 <<< pk.u 0x10 1)
                                                else p.fsync ||| (1#8 <<< pk.u 0x10 1) }
     else t.onSen fun x => { x with fsyncNext := vset x.fsyncNext (pk.u 0x10 1) (some f) }).done (s.begun pk) 0 := by
  obtain ⟨output, mode, polarity, period, width, offset⟩ := ok
  have periodOk : ¬(pk.u 0x11 1 = 1 ∧ (pk.u 0x20 4 < 1000000 ∨ 1000000000 < pk.u 0x20 4)) := by omega
  have widthOk : ¬(pk.u 0x11 1 ≠ 0 ∧
      (pk.u 0x24 4 < 100 ∨ 10000000 < pk.u 0x24 4 ∨ (pk.u 0x11 1 = 1 ∧ pk.u 0x20 4 ≤ pk.u 0x24 4))) := by omega
  have offsetOk : ¬(pk.u 0x11 1 = 2 ∧ 49999999 < (sext 32 (pk.u 0x28 4)).natAbs) := by omega
  rw [doFsyncSchedule, h.run]
  simp only [State.begun_u, Nat.not_lt.mpr output, Nat.not_lt.mpr mode, Nat.not_lt.mpr polarity, periodOk, widthOk, offsetOk, if_false]
  rfl

/-- MODE 0 is in force at once, without placed edges, and drops an entry that waited. -/
theorem doFsyncSchedule_off (off : pk.u 0x11 1 = 0) : ∃ t : State, doFsyncSchedule ring s = t.done (s.begun pk) 0 ∧ t.fab = s.fab ∧
    t.sen = s.sen.fsyncOff (pk.u 0x10 1) (pk.fsyncEntry s.vnow) := by
  refine ⟨_, doFsyncSchedule_accepts h ok, ?_⟩
  rw [if_pos off]
  split <;> exact ⟨rfl, rfl⟩

/-- MODE 1 and 2 wait as the output's next entry. -/
theorem doFsyncSchedule_waits (on : pk.u 0x11 1 ≠ 0) : ∃ t : State, doFsyncSchedule ring s = t.done (s.begun pk) 0 ∧ t.fab = s.fab ∧
    t.sen = { s.sen with fsyncNext := vset s.sen.fsyncNext (pk.u 0x10 1) (some (pk.fsyncEntry s.vnow)) } := by
  refine ⟨_, doFsyncSchedule_accepts h ok, ?_⟩
  rw [if_neg on]
  exact ⟨rfl, rfl⟩

end

/-! ### FSYNC_PLACEMENT -/

/-- The edge of a MODE 1 entry that is placed at a vehicle time: the first of those to come that has not passed (R214). -/
def Fsync.dueK (f : Fsync) (now : Int) : Nat := max f.nextK (icdiv (now - f.t0) f.period).toNat

section
variable (s : State) (f : Fsync)

/-- The entry with its due edge placed. -/
theorem State.placeEdge_entry : (s.placeEdge f).1 = { f with
    nextK := f.dueK s.vnow + 1, skipped := f.skipped + (f.dueK s.vnow - f.nextK),
    placed := f.placed ++ [(f.dueK s.vnow, countAt s.tim (f.edgeAt (f.dueK s.vnow)))] } := by
  simp only [State.placeEdge, State.advance_countAt]
  rfl

theorem State.placeEdge_state : (s.placeEdge f).2 = s.advance (countAt s.tim (f.edgeAt (f.dueK s.vnow) - 1000000)) := rfl

variable {s f} {out : Fin 8} (on : s.servoOn = true)
include on

/-- The entry in force places its edge, when none waits that comes before it. -/
theorem doFsyncPlacement_inForce (cur : f = vget s.sen.fsync out.val Fsync.off) (mode : f.mode = 1)
    (first : ∀ n, vget s.sen.fsyncNext out.val none = some n → n.mode ≠ 1 ∨ n.placed ≠ [] ∨ f.edgeAt f.nextK < n.edgeAt n.nextK) :
    doFsyncPlacement out s = (s.placeEdge f).2.onSen fun x => { x with fsync := vset x.fsync out.val (s.placeEdge f).1 } := by
  subst cur
  cases waits : vget s.sen.fsyncNext out.val none with
  | none => simp only [doFsyncPlacement, on, waits, mode, Bool.not_true, Bool.false_eq_true, if_false, if_true]
  | some n =>
    have later : (n.mode = 1 && n.placed.isEmpty && ((vget s.sen.fsync out.val Fsync.off).mode ≠ 1 ||
        decide (n.edgeAt n.nextK ≤ (vget s.sen.fsync out.val Fsync.off).edgeAt (vget s.sen.fsync out.val Fsync.off).nextK))) = false := by
      rcases first n waits with other | placed | before
      · simp [other]
      · simp [placed]
      · simp [mode, before]
    simp only [doFsyncPlacement, on, waits, later, Bool.not_true, Bool.false_eq_true, if_false]
    exact if_pos mode

/-- The entry that waits without a placed edge places its first, when the entry in force has none before it. -/
theorem doFsyncPlacement_waiting {n : Fsync} (cur : f = vget s.sen.fsync out.val Fsync.off)
    (waits : vget s.sen.fsyncNext out.val none = some n) (mode : n.mode = 1) (unplaced : n.placed = [])
    (first : f.mode ≠ 1 ∨ n.edgeAt n.nextK ≤ f.edgeAt f.nextK) :
    doFsyncPlacement out s = (s.placeEdge n).2.onSen fun x => { x with fsyncNext := vset x.fsyncNext out.val (some (s.placeEdge n).1) } := by
  subst cur
  have earlier : (n.mode = 1 && n.placed.isEmpty && ((vget s.sen.fsync out.val Fsync.off).mode ≠ 1 ||
      decide (n.edgeAt n.nextK ≤ (vget s.sen.fsync out.val Fsync.off).edgeAt (vget s.sen.fsync out.val Fsync.off).nextK))) = true := by
    simpa [mode, unplaced] using first
  simp only [doFsyncPlacement, on, waits, earlier, Bool.not_true, Bool.false_eq_true, if_false, if_true]

end

/-! ### FSYNC_EDGE -/

section
variable {s : State} {out : Fin 8} {f : Fsync} {k n : Nat} {rest : List (Nat × Nat)}

/-- Driving an entry's first placed edge: TMB reaches its count, the entry is in force with the edges behind it, and the pin is active. -/
theorem State.driveEdge_spec (placed : f.placed = (k, n) :: rest) (word : n < 2 ^ 64) {t : State} (run : s.driveEdge out.val f = t) :
    n ≤ t.now ∧ (vget t.sen.fsync out.val Fsync.off).placed = rest ∧ (vget t.sen.fsync out.val Fsync.off).lastEdge = some t.now ∧
      (vget t.sen.fsync out.val Fsync.off).mode = f.mode ∧ t.sen.fsyncNext = s.sen.fsyncNext ∧
      t.pins.fsync.getLsbD out.val = decide (f.polarity = 0) := by
  subst run
  have entry : vget (s.driveEdge out.val f).sen.fsync out.val Fsync.off =
      { f with placed := rest, lastEdge := some (s.advance n).now, pulseEnd := some ((s.advance n).now + f.width) } := by
    simp [State.driveEdge, placed, vget_vset]
  have now : (s.driveEdge out.val f).now = (s.advance n).now := by simp [State.driveEdge, placed, State.now]
  have next : (s.driveEdge out.val f).sen.fsyncNext = s.sen.fsyncNext := by simp [State.driveEdge, placed]
  rw [entry, now, next]
  refine ⟨s.le_now_advance word, rfl, rfl, rfl, rfl, ?_⟩
  by_cases high : f.polarity = 0 <;> simp [State.driveEdge, placed, high, out.isLt]

variable (on : s.servoOn = true)
include on

/-- The edge of the entry in force is the earlier. -/
theorem doFsyncEdge_inForce (placed : (vget s.sen.fsync out.val Fsync.off).placed = (k, n) :: rest)
    (first : ∀ e b, vget s.sen.fsyncNext out.val none = some e → e.placed.head? = some b → n < b.2) :
    doFsyncEdge out s = s.driveEdge out.val (vget s.sen.fsync out.val Fsync.off) := by
  cases waits : vget s.sen.fsyncNext out.val none with
  | none => simp only [doFsyncEdge, on, waits, Bool.not_true, Bool.false_eq_true, if_false]
  | some e =>
    cases head : e.placed.head? with
    | none => simp [doFsyncEdge, on, waits, head]
    | some b => simp [doFsyncEdge, on, waits, head, placed, first e b waits head]

/-- The edge of the waiting entry is the earlier: that entry takes the output over, and none waits. -/
theorem doFsyncEdge_waiting {e : Fsync} (waits : vget s.sen.fsyncNext out.val none = some e) (placed : e.placed = (k, n) :: rest)
    (first : ∀ a, (vget s.sen.fsync out.val Fsync.off).placed.head? = some a → n ≤ a.2) :
    doFsyncEdge out s = (s.onSen fun x => { x with fsyncNext := vset x.fsyncNext out.val none }).driveEdge out.val
      { e with skipped := (vget s.sen.fsync out.val Fsync.off).skipped + e.skipped } := by
  cases head : (vget s.sen.fsync out.val Fsync.off).placed.head? with
  | none => simp [doFsyncEdge, on, waits, head, placed]
  | some a => simp [doFsyncEdge, on, waits, head, placed, Nat.not_lt.mpr (first a head)]

end

/-- Settles O32: which entry a command takes is one equation for each (`doFsyncPlacement_inForce` and its like); what it makes of that entry
is `State.placeEdge_entry` and `State.driveEdge_spec`. -/
theorem fsyncEdgesArePlacedAndDriven : Obligations.FsyncEdgesArePlacedAndDriven := by
  refine ⟨fun s ring pk h output mode polarity period width offset => ?schedule, fun s out f on cur mode first => ?placed,
    fun s out f n on cur waits mode unplaced first => ?placedNext, fun s out k n rest on placed first word => ?edge,
    fun s out e k n rest on waits placed first word => ?edgeNext⟩
  case schedule =>
    have ok : pk.FsyncOk := ⟨output, mode, polarity, period, width, offset⟩
    by_cases off : pk.u 0x11 1 = 0
    · obtain ⟨t, run, fab, sen⟩ := doFsyncSchedule_off h ok off
      refine ⟨t, congrArg Host.Outcome.next run, fab, by rw [sen]; rfl, fun _ => ?_, fun on => absurd off on⟩
      rw [sen]
      simp [Sen.fsyncOff, Packet.fsyncEntry, vget_vset, show pk.u 0x10 1 < 8 by omega, off]
    · obtain ⟨t, run, fab, sen⟩ := doFsyncSchedule_waits h ok off
      refine ⟨t, congrArg Host.Outcome.next run, fab, by rw [sen], fun h0 => absurd h0 off, fun _ => ⟨by rw [sen], ?_⟩⟩
      rw [sen]
      exact ⟨pk.fsyncEntry s.vnow, by simp [vget_vset, show pk.u 0x10 1 < 8 by omega], rfl, rfl, rfl, rfl, rfl, rfl, rfl⟩
  case placed =>
    refine ⟨_, f.dueK s.vnow, congrArg Host.Outcome.next (doFsyncPlacement_inForce on cur mode first), ?_⟩
    rw [State.placeEdge_state, State.placeEdge_entry]
    exact ⟨by simp [vget_vset], le_max_left _ _, by simp [vget_vset], by simp, s.le_now_advance⟩
  case placedNext =>
    refine ⟨_, n.dueK s.vnow, (s.placeEdge n).1, congrArg Host.Outcome.next (doFsyncPlacement_waiting on cur waits mode unplaced first), ?_⟩
    rw [State.placeEdge_state, State.placeEdge_entry]
    exact ⟨by simp [vget_vset], by simp [unplaced], le_max_left _ _, rfl, s.le_now_advance⟩
  case edge =>
    obtain ⟨reached, left, last, -, next, pin⟩ := State.driveEdge_spec (out := out) placed word rfl
    exact ⟨_, congrArg Host.Outcome.next (doFsyncEdge_inForce on placed first), reached, left, last, next, pin⟩
  case edgeNext =>
    obtain ⟨reached, left, last, mode, next, pin⟩ := State.driveEdge_spec (out := out)
      (s := s.onSen fun x => { x with fsyncNext := vset x.fsyncNext out.val none })
      (f := { e with skipped := (vget s.sen.fsync out.val Fsync.off).skipped + e.skipped }) placed word rfl
    exact ⟨_, congrArg Host.Outcome.next (doFsyncEdge_waiting on waits placed first), reached, mode, left, last,
      by rw [next]; simp [vget_vset], pin⟩

end Sys2Proof.Machine
end

section
/-! PROOF of the statement about the PCIe link and the sensor ports' links. -/

namespace Sys2Proof.Machine

/-- PCIE_LINK_UP at a rate and width of Table 10.1 (R396). -/
theorem doPcieLinkUp_trains {s : State} {speed width : Nat} (rates : 1 ≤ speed ∧ speed ≤ 4)
    (widths : width = 1 ∨ width = 2 ∨ width = 4)
    (on : s.pins.rstN = true) (released : s.pins.perstN = true) (powered : s.pwr.domains.getLsbD 45 = true) :
    doPcieLinkUp speed width s = s.onHif fun h => { h with linkUp := true, linkSpeed := speed, linkWidth := width } := by
  have supported : linkSupported speed width = true := by
    rcases widths with rfl | rfl | rfl <;> simp [linkSupported, rates]
  simp only [doPcieLinkUp, supported, on, released, powered, Bool.and_self, if_true]

/-- SENSOR_LINK_UP of a port that is on (R203). -/
theorem execSensorLinkUp_on {s : State} {p : SensorPort} (on : s.sensorPortOn p = true) :
    execSensorLinkUp p s = .next (s.setSensorLink p true) := by rw [execSensorLinkUp, if_pos on]

/-- Settles O36: each link command is one update of the link's bits. -/
theorem linksGoDownAndUp : Obligations.LinksGoDownAndUp := by
  refine ⟨fun s => rfl, fun speed width s low high widths on released powered => ?pcie, fun s k => ⟨rfl, fun on powered => ?csi⟩,
    fun s k => ⟨rfl, fun on powered => ?eth⟩⟩
  case pcie => exact congrArg Host.Outcome.next (doPcieLinkUp_trains ⟨low, high⟩ widths on released powered)
  case csi => exact execSensorLinkUp_on (p := .csi k) (by simp only [State.sensorPortOn, on, powered, Bool.and_self])
  case eth => exact execSensorLinkUp_on (p := .eth k) (by simp only [State.sensorPortOn, on, powered, Bool.and_self])

end Sys2Proof.Machine
end

section
/-! PROOF of the statement about lidar datagrams: which lidar a datagram is for, what its copy for CKC leaves alone, and where it goes. -/

namespace Sys2Proof.Machine

/-! ### The lidar of a datagram -/

/-- The match of R217, an untagged datagram's VID as 0xFFFF. -/
theorem Lidar.takes_iff (l : Lidar) (port : Nat) (f : Datagram) : l.takes port f = true ↔ (l.port = port ∧ l.ipVer = f.ipVer ∧
    l.srcIp = f.srcIp ∧ l.udpPort = f.udpPort ∧ l.vid = f.vid.getD 0xFFFF) := by
  cases vid : f.vid with
  | none => simp only [Lidar.takes, vid, Bool.and_eq_true, decide_eq_true_eq, Option.getD_none, and_assoc]
  | some v => simp only [Lidar.takes, vid, Bool.and_eq_true, decide_eq_true_eq, Option.getD_some, and_assoc, eq_comm (a := v)]

section
variable {x : Sen} {port : Nat} {d : Datagram}

/-- No lidar, present or replaced, takes the datagram. -/
theorem Sen.lidarOf_none
    (others : ∀ i l, i < 8 → (vget x.lidars i none = some l ∨ vget x.lidOld i none = some l) → l.takes port d = false) :
    x.lidarOf port d = none := by
  simp only [Sen.lidarOf, Option.or_eq_none_iff, List.find?_eq_none, List.mem_range]
  refine ⟨fun i inside => ?_, fun i inside => ?_⟩
  · cases l : vget x.lidars i none with
    | none => simp
    | some l' => simp [others i l' inside (.inl l)]
  · cases l : vget x.lidOld i none with
    | none => simp
    | some l' => simp [others i l' inside (.inr l)]

/-- The lowest index whose lidar takes the datagram. -/
theorem Sen.lidarOf_first {i : Nat} {l : Lidar} (inside : i < 8) (cur : vget x.lidars i none = some l) (takes : l.takes port d = true)
    (others : ∀ j k, j < i → vget x.lidars j none = some k → k.takes port d = false) : x.lidarOf port d = some i := by
  have first : ((List.range 8).find? fun i => match vget x.lidars i none with | some l => l.takes port d | none => false) = some i := by
    rw [List.find?_range_eq_some]
    refine ⟨by simpa only [cur] using takes, by simpa using inside, fun j before => ?_⟩
    cases k : vget x.lidars j none with
    | none => rfl
    | some k' => simp [others j k' before k]
  rw [Sen.lidarOf]
  exact Option.or_eq_some_iff.mpr (.inl first)

end

/-! ### The copy for CKC -/

section
variable (s : State)

/-- What the copy of a datagram in CKC's SRAM leaves alone (R218): among others time, power, the sensors and LPDDR5X. -/
def State.exceptCkc (s : State) : Tim × Pwr × Sen × Pins × Memory := (s.tim, s.pwr, s.sen, s.pins, s.fab.dram)

theorem State.pushCopy_exceptCkc (slot : Nat) (m : CkcModel) (l arrival : Nat) (payload : List Byte) :
    (s.pushCopy slot m l arrival payload).exceptCkc = s.exceptCkc := by
  have dram : (s.pushCopy slot m l arrival payload).fab.dram = s.fab.dram :=
    congrArg (fun p => p.2.2.2.1) (s.pushCopy_besideCkc slot m l arrival payload)
  rw [State.exceptCkc, dram]
  unfold State.pushCopy
  split
  · rfl
  · dsimp only
    split <;> rfl

theorem State.copyLidar_exceptCkc (l : Nat) (payload : List Byte) (arrival : Nat) :
    (s.copyLidar l payload arrival).exceptCkc = s.exceptCkc := by
  unfold State.copyLidar
  exact foldl_keeps State.exceptCkc (fun t p => t.pushCopy_exceptCkc ..) _ _

theorem State.exceptCkc_parts {s t : State} (h : t.exceptCkc = s.exceptCkc) :
    t.tim = s.tim ∧ t.pwr = s.pwr ∧ t.sen = s.sen ∧ t.pins = s.pins ∧ t.fab.dram = s.fab.dram := by
  simpa only [State.exceptCkc, Prod.mk.injEq] using h

end

/-! ### Where a frame goes -/

section
variable {s : State} {i port : Nat} {d : Datagram} {l : Lidar}

/-- A datagram, long enough, of a lidar that replaced none: the lidar takes all its points (R219, R220). -/
theorem State.lidarPoints_present (cur : vget s.sen.lidars i none = some l) (takes : l.takes port d = true)
    (noOld : vget s.sen.lidOld i none = none) (long : l.desc.payloadMin ≤ d.payload.length) :
    s.lidarPoints i port d = s.setLidar i (l.takeDatagram (fun _ => true) d.payload s.vnow s.now) := by
  have mine : (some l).filter (fun l => l.takes port d) = some l := by rw [Option.filter, if_pos takes]
  simp [State.lidarPoints, cur, mine, noOld, Nat.not_lt.mpr long]

end

section
variable {s : State} {port : Fin 4} {frame : List Byte} {full : Bool} {t : Nat} (on : s.pins.rstN = true)
  (powered : s.pwr.domains.getLsbD 46 = true) (noPause : (receive frame).pause = false)
include on powered noPause

/-- A frame that the port does not accept, of no lidar, is counted with its reason (R216). -/
theorem doLidarDatagram_discarded {n : Nat} (discard : (receive frame).discard = some n)
    (others : ∀ d, (receive frame).datagram = some d → s.sen.lidarOf port.val d = none) :
    doLidarDatagram port frame full t s = (s.advance t).countEth port.val n := by
  cases datagram : (receive frame).datagram with
  | none => simp [doLidarDatagram, on, powered, noPause, discard, datagram]
  | some d => simp [doLidarDatagram, on, powered, noPause, discard, datagram, others d datagram]

variable {d : Datagram} (accepted : (receive frame).discard = none) (datagram : (receive frame).datagram = some d)
include accepted datagram

/-- A datagram of no lidar is discarded and counted (R217). -/
theorem doLidarDatagram_unmatched (others : s.sen.lidarOf port.val d = none) :
    doLidarDatagram port frame full t s = (s.advance t).countEth port.val ethNoLidar := by
  simp [doLidarDatagram, on, powered, noPause, accepted, datagram, others]

/-- With room in the input buffer a lidar's datagram is copied to CKC and, with the LPE on, reaches it (R218, R224). -/
theorem doLidarDatagram_matched {i : Nat} (who : s.sen.lidarOf port.val d = some i) (lpe : s.lpeOn = true) :
    doLidarDatagram port frame false t s =
      ((s.advance t).copyLidar i d.payload (s.advance t).now).lidarPoints i port.val d := by
  have lpe' : ((s.advance t).copyLidar i d.payload (s.advance t).now).lpeOn = true := by
    obtain ⟨-, pwr, sen, pins, -⟩ := State.exceptCkc_parts ((s.advance t).copyLidar_exceptCkc i d.payload (s.advance t).now)
    simpa only [State.lpeOn, pwr, sen, pins, State.advance_pwr, State.advance_rstN, State.advance_stopped] using lpe
  simp [doLidarDatagram, on, powered, noPause, accepted, datagram, who, lpe']

end

/-- Settles O34: R217's match is `Lidar.takes_iff`, it chooses the lidar (`Sen.lidarOf_first`), and each way that a frame goes is one
equation. -/
theorem lidarDatagramsGoToTheirLidar : Obligations.LidarDatagramsGoToTheirLidar := by
  refine ⟨Lidar.takes_iff, fun s port frame full d t on powered noPause accepted datagram word => ⟨fun others => ?unmatched,
    fun i l inside cur takes noOld before lpe long => ?matched⟩,
    fun s port frame full n t on powered noPause discard word others => ?discarded⟩
  case unmatched =>
    exact ⟨_, congrArg Host.Outcome.next (doLidarDatagram_unmatched on powered noPause accepted datagram (Sen.lidarOf_none others)),
      s.le_now_advance word, rfl, s.advance_fab t, s.advance_lidars t⟩
  case matched =>
    have copied := (s.advance t).copyLidar_exceptCkc i d.payload (s.advance t).now
    have run := doLidarDatagram_matched (t := t) on powered noPause accepted datagram (Sen.lidarOf_first inside cur takes before) lpe
    generalize (s.advance t).copyLidar i d.payload (s.advance t).now = v at copied run
    obtain ⟨tim, -, sen, -, dram⟩ := State.exceptCkc_parts copied
    have curV : vget v.sen.lidars i none = some l := by rw [sen, State.advance_lidars, cur]
    have oldV : vget v.sen.lidOld i none = none := by rw [sen, State.advance_lidOld, noOld]
    rw [State.lidarPoints_present curV takes oldV long] at run
    refine ⟨_, congrArg Host.Outcome.next run, ?_, v.setLidar_same _ inside, fun j other => ?_, ?_, ?_⟩
    · exact (s.le_now_advance word).trans_eq (congrArg (fun m : Tim => m.count.toNat) tim.symm)
    · rw [v.setLidar_other _ other, sen, State.advance_lidars]
    · rw [← s.advance_fab t, ← dram]; rfl
    · simp [State.setLidar, sen]
  case discarded =>
    exact ⟨_, congrArg Host.Outcome.next (doLidarDatagram_discarded on powered noPause discard fun d datagram =>
      Sen.lidarOf_none fun i l => others d i l datagram), s.le_now_advance word, rfl, s.advance_fab t⟩

end Sys2Proof.Machine
end

section
/-! PROOF of the statement about lidar windows: the next window of a lidar opens, and its first open one commits. -/

namespace Sys2Proof.Machine

/-! ### Device rings and windows -/

@[simp] theorem Lidar.onWindow_nextK (l : Lidar) (k : Int) (f : Window → Window) : (l.onWindow k f).nextK = l.nextK := by
  unfold Lidar.onWindow
  split <;> rfl

@[simp] theorem Lidar.onWindow_ring (l : Lidar) (k : Int) (f : Window → Window) : (l.onWindow k f).ring = l.ring := by
  unfold Lidar.onWindow
  split <;> rfl

/-- The updated window is there: the one of that index, or one that began empty. -/
theorem Lidar.onWindow_mem (l : Lidar) (k : Int) (f : Window → Window) : ∃ w : Window, w.k = k ∧ f w ∈ (l.onWindow k f).windows := by
  unfold Lidar.onWindow
  split
  next there =>
    obtain ⟨w, mem, same⟩ := List.any_eq_true.mp there
    simp only [decide_eq_true_eq] at same
    exact ⟨w, same, List.mem_map.mpr ⟨w, mem, if_pos same⟩⟩
  · exact ⟨Window.fresh k, rfl, by simp⟩

/-! ### LIDAR_WINDOW_OPEN -/

/-- The next window opens in a free slot, or is dropped whole (R201, R222). -/
def Lidar.openNext (l : Lidar) : Lidar :=
  { l with ring := match l.ring.freeSlot with | some j => l.ring.setWriting j true | none => l.ring.abandon none,
           nextK := l.nextK + 1 }.onWindow l.nextK fun w => { w with slot := l.ring.freeSlot, opened := true }

/-- Without a waiting descriptor the lidar in force opens its next window at the window's start (R222). -/
theorem doLidarWindowOpen_next {s : State} {i : Nat} {l : Lidar} (on : s.lpeOn = true) (cur : vget s.sen.lidars i none = some l)
    (noNext : vget s.sen.lidNext i none = none) :
    doLidarWindowOpen i s = (s.advance (countAt s.tim (l.startOf l.nextK))).setLidar i l.openNext := by
  have same : s.takeLidNext i = s := by simp [State.takeLidNext, noNext]
  simp only [doLidarWindowOpen, on, same, cur, Bool.not_true, Bool.false_eq_true, if_false]
  rfl

/-- Without a free slot the window is dropped and counted (R201). -/
theorem Lidar.openNext_drops {l : Lidar} (full : l.ring.freeSlot = none) : l.openNext.ring.drops = min (l.ring.drops + 1) (2 ^ 16 - 1) := by
  simp only [Lidar.openNext, Lidar.onWindow_ring, full]
  rfl

/-! ### LIDAR_WINDOW_COMMIT -/

section
variable {s : State} {i : Nat} {l : Lidar} {old : Bool} {w : Window} {k : Nat}

/-- The lidar without its committed window, with what the commit makes of its device ring (R199, R201). -/
def Lidar.afterCommit (l : Lidar) (w : Window) (k tStart tEnd status : Nat) : Lidar :=
  { l with ring := l.ring.commit k tStart tEnd status, windows := l.windows.filter (fun x => x.k ≠ w.k), committedK := some w.k }

/-- A commit writes a 64-byte header and the grid into the slot, and puts the lidar back (R221-R223). -/
theorem State.commitWindow_spec : ∃ head tS tE status, head.length = 64 ∧ s.commitWindow i l old w k =
    ((s.putDram (l.ring.base + k * l.ring.slotSize) (head ++
      (l.scatter (l.motionFor s.sen.motions (l.startOf (w.k + 1))) (l.startOf (w.k + 1)) w.points).payload)).onSen fun x =>
        x.putCommitted i (l.afterCommit w k tS tE status) old).engineGood 2 :=
  ⟨_, _, _, _, by simp only [List.length_append, leBytes_length], rfl⟩

/-- The first open window commits, with a slot and no ECC error (R208, R222). -/
theorem doLidarWindowCommit_first (on : s.lpeOn = true) (next : s.sen.committing i = some (l, old))
    (first : l.windows.find? (fun w => w.opened) = some w) (slot : w.slot = some k) :
    doLidarWindowCommit i none s = (s.advance (countAt s.tim (l.startOf (w.k + 1) + l.lateness))).commitWindow i l old w k := by
  simp [doLidarWindowCommit, on, next, first, slot]

end

/-- Putting back a lidar reads and writes the lidars alone. -/
theorem Sen.putCommitted_fsync (x : Sen) (v : Vector Fsync 8) (i : Nat) (l : Lidar) (old : Bool) :
    ({ x with fsync := v } : Sen).putCommitted i l old = { x.putCommitted i l old with fsync := v } := by
  cases old <;> rfl

/-- Settles O35: an opening window is `Lidar.openNext`, a commit is `State.commitWindow_spec`. -/
theorem lidarWindowsOpenAndCommit : Obligations.LidarWindowsOpenAndCommit := by
  refine ⟨fun s lid l on cur noNext => ?opens, fun s lid l old w k on next first slot => ?commits⟩
  case opens =>
    obtain ⟨w, index, mem⟩ := Lidar.onWindow_mem _ l.nextK _
    exact ⟨_, l.openNext, _, congrArg Host.Outcome.next (doLidarWindowOpen_next on cur noNext), State.setLidar_same _ _ lid.isLt, mem, index,
      rfl, rfl, Lidar.onWindow_nextK _ _ _, Lidar.openNext_drops, s.le_now_advance, s.advance_fab _⟩
  case commits =>
    have run := doLidarWindowCommit_first on next first slot
    have fab := s.advance_fab (countAt s.tim (l.startOf (w.k + 1) + l.lateness))
    obtain ⟨v, sen⟩ := s.advance_sen (countAt s.tim (l.startOf (w.k + 1) + l.lateness))
    generalize s.advance (countAt s.tim (l.startOf (w.k + 1) + l.lateness)) = t at run fab sen
    obtain ⟨head, tS, tE, status, length, commit⟩ := State.commitWindow_spec (s := t) (i := lid.val) (l := l) (old := old) (w := w) (k := k)
    refine ⟨_, l.afterCommit w k tS tE status, head, congrArg Host.Outcome.next (run.trans commit), length, ?_, ?_, ?_, rfl, rfl, rfl, rfl,
      fun x mem => ?_⟩
    · simp only [State.engineGood, State.onSen_fab, State.putDram, State.onFab_fab, sen, fab]
    · simp only [State.engineGood, State.onSen_sen, State.putDram_sen, sen, Sen.putCommitted_fsync]
    · simp only [State.engineGood, State.onSen_sen, State.putDram_sen, sen, Sen.putCommitted_fsync]
    · simpa using (List.mem_filter.mp mem).2

end Sys2Proof.Machine
end

section
/-! REFUTATION of the statement about camera frames. `Sen.eccLost` counts the losses of the three ingest engines (CFE0, CFE1, LPE), so
CSI ports up to 11 have an entry there. CAMERA refuses a port above 7 (`Camera.ok`), but the statement speaks of every state, also of one
with a camera on port 12, whose losses by ECC no entry counts. -/

namespace Sys2Proof.Machine

/-! ### Losses by ECC -/

section
variable (s : State)

@[simp] theorem State.snapshot_sen (cause : Nat) : (s.snapshot cause).sen = s.sen := by
  unfold State.snapshot
  split <;> rfl

@[simp] theorem State.recordFault_sen (f : FailReport) (c : FaultCtx) : (s.recordFault f c).sen = s.sen := by simp [State.recordFault]

/-- The first loss of an engine is its count of losses in succession, where the engine has an entry (R208). -/
theorem State.ingestEcc_first {e : Nat} (before : vget s.sen.eccLost e 0 = 0) (u : UnitId) (sensor addr : Nat) :
    (s.ingestEcc e u sensor addr).sen = { s.sen with eccLost := vset s.sen.eccLost e 1 } := by
  simp [State.ingestEcc, before]

/-- A frame lost to a first ECC error changes the cameras and that count (R208). -/
theorem State.loseFrame_first {c : Camera} (before : vget s.sen.eccLost (cfeOf c.port) 0 = 0) (i : Nat) (f : CamFrame) (a : Nat) :
    ∃ v, (s.loseFrame i c f a).sen = { s.sen with cameras := v, eccLost := vset s.sen.eccLost (cfeOf c.port) 1 } :=
  ⟨_, State.ingestEcc_first (s.setCamera i _) before _ _ _⟩

/-- The first ECC error of a frame whose test frame is in the pipeline counts for the engine of its port, one of three (R208, R210). -/
theorem doTestFrameComplete_counts {s : State} {cam : Fin 24} {c : Camera} {f : CamFrame} (cur : vget s.sen.cameras cam.val none = some c)
    (frame : c.frame = some f) (on : s.cameraOn c.port = true) (quiet : vget s.sen.csiWait c.port [] = [])
    (before : vget s.sen.eccLost (cfeOf c.port) 0 = 0) (a : Nat) :
    vget (doTestFrameComplete cam (some a) none s).sen.eccLost (cfeOf c.port) 0 = if cfeOf c.port < 3 then 1 else 0 := by
  obtain ⟨v, sen⟩ := s.loseFrame_first before cam.val f a
  have run : doTestFrameComplete cam (some a) none s = (s.loseFrame cam.val c f a).drainCsi c.port [] := by
    simp [doTestFrameComplete, cur, frame, on, sen, quiet]
  rw [run, State.drainCsi, State.onSen_sen, sen]
  simp [vget_vset, before]

end

/-! ### A camera on port 12 -/

/-- A frame of no lines that has ended in slot 0. -/
def endedFrame : CamFrame :=
  { slot := some 0, tStart := 0, tEnd := 0, ended := true, lines := [], repaired := 0, lineNo := 0, embSeen := 0, embOk := none,
    counterBad := false, syncLate := false, pattern := 0, params := CamParams.default }

/-- A camera on port 12 with its test frame in the pipeline; every other field is that of an empty CAMERA block. -/
def port12Camera : Camera := { Camera.parse [] CamParams.default with port := 12, frame := some endedFrame }

/-- A part out of reset with every domain on, this camera at index 0. -/
def port12State : State :=
  { State.reset with
    pins := { Pins.reset with rstN := true }
    pwr := { Pwr.reset with domains := BitVec.allOnes 64 }
    sen := { Sen.reset with cameras := vset Sen.reset.cameras 0 (some port12Camera) } }

theorem port12State_cameraOn : port12State.cameraOn port12Camera.port = true := by decide +kernel

/-- An ECC error of its test frame is counted nowhere. -/
theorem port12State_uncounted : vget (doTestFrameComplete 0 (some 0) none port12State).sen.eccLost (cfeOf port12Camera.port) 0 = 0 :=
  doTestFrameComplete_counts rfl rfl port12State_cameraOn rfl rfl 0

/-- Refutes O33: `port12State` meets the premises of the last clause, which asks for a count of 1 after the ECC error. On the ports that a
camera can have that count holds (`doTestFrameComplete_counts`); the statement lacks the premise that the port is one of these. -/
theorem not_cameraFramesAreReceived : ¬ Obligations.CameraFramesAreReceived := by
  rintro ⟨-, -, -, -, -, -, commits⟩
  obtain ⟨-, lost⟩ := commits port12State 0 port12Camera endedFrame 0 rfl rfl rfl port12State_cameraOn rfl rfl
  obtain ⟨u, run, -, -, counted⟩ := lost 0 rfl
  obtain rfl : doTestFrameComplete 0 (some 0) none port12State = u := Host.Outcome.next.inj run
  rw [port12State_uncounted] at counted
  exact absurd counted (by decide)

end Sys2Proof.Machine
end

section
/-! SUPPORT. The result stream: what EMT's emission of a record makes of its stream, and what it leaves alone. -/

namespace Sys2Proof.Machine

/-! ### The streams of EMT -/

section
variable (e : Emt) (st : Stream) (x : StreamSt)

@[simp] theorem Emt.get_put : (e.put st x).get st = x := by cases st <;> rfl

@[simp] theorem Emt.put_frames : (e.put st x).frames = e.frames := by cases st <;> rfl
@[simp] theorem Emt.put_full : (e.put st x).full = e.full := by cases st <;> rfl
@[simp] theorem Emt.put_dropsTrailer : (e.put st x).dropsTrailer = e.dropsTrailer := by cases st <;> rfl

end

/-! ### A record's number and CRC -/

/-- A record with the stream's next STREAM_SEQ (R232). -/
def StreamSt.number (x : StreamSt) (b : List Byte) : List Byte := b.take 0x10 ++ leBytes 4 x.seq ++ b.drop 0x14

/-- A record with a CRC in its field at `off` (R238). -/
def withCrc (b : List Byte) (off crc : Nat) : List Byte := b.take off ++ leBytes 4 crc ++ b.drop (off + 4)

/-- The record as EMT puts it out: numbered, then chained (R232, R238). -/
def StreamSt.seal (x : StreamSt) (off : Nat) (b : List Byte) : List Byte :=
  withCrc (x.number b) off (chainCrc x.crc.toNat (x.number b) off)

theorem StreamSt.number_length (x : StreamSt) {b : List Byte} (long : 0x14 ≤ b.length) : (x.number b).length = b.length := by
  simp only [StreamSt.number, List.length_append, List.length_take, List.length_drop, leBytes_length]
  omega

theorem withCrc_length {b : List Byte} {off : Nat} (crc : Nat) (inside : off + 4 ≤ b.length) :
    (withCrc b off crc).length = b.length := by
  simp only [withCrc, List.length_append, List.length_take, List.length_drop, leBytes_length]
  omega

theorem StreamSt.seal_length (x : StreamSt) {off : Nat} {b : List Byte} (long : 0x14 ≤ b.length) (inside : off + 4 ≤ b.length) :
    (x.seal off b).length = b.length := by
  have number := x.number_length long
  rw [StreamSt.seal, withCrc_length _ (by omega), number]

/-- The CRC covers every byte of a record but its own field (R238). -/
theorem chainCrc_withCrc {b : List Byte} {off : Nat} (prev crc : Nat) (inside : off ≤ b.length) :
    chainCrc prev (withCrc b off crc) off = chainCrc prev b off := by
  have before : (b.take off).length = off := List.length_take_of_le inside
  have field : (b.take off ++ leBytes 4 crc).length = off + 4 := by rw [List.length_append, before, leBytes_length]
  have head : (withCrc b off crc).take off = b.take off := by
    rw [withCrc, List.append_assoc, List.take_left' before]
  have tail : (withCrc b off crc).drop (off + 4) = b.drop (off + 4) := by rw [withCrc, List.drop_left' field]
  rw [chainCrc, chainCrc, head, tail]

theorem StreamSt.chainCrc_seal (x : StreamSt) {off : Nat} {b : List Byte} (long : 0x14 ≤ b.length) (inside : off ≤ b.length) :
    chainCrc x.crc.toNat (x.seal off b) off = chainCrc x.crc.toNat (x.number b) off :=
  chainCrc_withCrc _ _ (by rwa [x.number_length long])

/-! ### Emitting a record -/

section
variable (s : State) (st : Stream) (frame : Nat)

@[simp] theorem State.dropRecord_tim : (s.dropRecord st frame).tim = s.tim := by simp [State.dropRecord]
@[simp] theorem State.dropRecord_cpx : (s.dropRecord st frame).cpx = s.cpx := by simp [State.dropRecord]
@[simp] theorem State.dropRecord_ctr : (s.dropRecord st frame).ctr = s.ctr := by simp [State.dropRecord]
@[simp] theorem State.dropRecord_ckc : (s.dropRecord st frame).ckc = s.ckc := by simp [State.dropRecord]
@[simp] theorem State.dropRecord_saf : (s.dropRecord st frame).saf = s.saf := by simp [State.dropRecord]
@[simp] theorem State.dropRecord_fab : (s.dropRecord st frame).fab = s.fab := by simp [State.dropRecord]
@[simp] theorem State.dropRecord_pins : (s.dropRecord st frame).pins = s.pins := by simp [State.dropRecord]
/-- Of EMT, an undelivered record changes the two counts only (R228). -/
@[simp] theorem State.dropRecord_emt : (s.dropRecord st frame).emt =
    { s.emt with dropsTrailer := satU 16 (s.emt.dropsTrailer + 1), dropsReg := satU 32 (s.emt.dropsReg + 1) } := by
  simp [State.dropRecord]

variable (off : Nat) (b : List Byte)

@[simp] theorem State.emitRecord_tim : (s.emitRecord st off frame b).tim = s.tim := by simp only [State.emitRecord]; split <;> simp
@[simp] theorem State.emitRecord_cpx : (s.emitRecord st off frame b).cpx = s.cpx := by simp only [State.emitRecord]; split <;> simp
@[simp] theorem State.emitRecord_ctr : (s.emitRecord st off frame b).ctr = s.ctr := by simp only [State.emitRecord]; split <;> simp
@[simp] theorem State.emitRecord_ckc : (s.emitRecord st off frame b).ckc = s.ckc := by simp only [State.emitRecord]; split <;> simp
@[simp] theorem State.emitRecord_saf : (s.emitRecord st off frame b).saf = s.saf := by simp only [State.emitRecord]; split <;> simp
@[simp] theorem State.emitRecord_fab : (s.emitRecord st off frame b).fab = s.fab := by simp only [State.emitRecord]; split <;> simp
@[simp] theorem State.emitRecord_pins : (s.emitRecord st off frame b).pins = s.pins := by simp only [State.emitRecord]; split <;> simp

/-- EMT after a record: the stream's number and chain go on, and what CKC sees of it; the host queue and the counts of undelivered
records depend on the room (R228, R232, R238). -/
theorem State.emitRecord_emt : ∃ queue drops dropsReg, (s.emitRecord st off frame b).emt =
      { s.emt.put st { s.emt.get st with seq := ((s.emt.get st).seq + 1) % 2 ^ 32,
                                         crc := BitVec.ofNat 32 (chainCrc (s.emt.get st).crc.toNat ((s.emt.get st).number b) off),
                                         queue := queue } with
        tap := if s.ckc.mode = .halted then s.emt.tap else s.emt.tap ++ [(st, (s.emt.get st).seal off b)],
        dropsTrailer := drops, dropsReg := dropsReg } ∧ drops ≤ s.emt.dropsTrailer + 1 := by
  simp only [State.emitRecord]
  split
  · exact ⟨_, _, _, rfl, by simp⟩
  · exact ⟨_, _, _, State.dropRecord_emt _ st frame, by simp [satU]⟩

@[simp] theorem State.emitRecord_frames : (s.emitRecord st off frame b).emt.frames = s.emt.frames := by
  obtain ⟨queue, drops, reg, emt, -⟩ := s.emitRecord_emt st frame off b
  simp [emt]

@[simp] theorem State.emitRecord_full : (s.emitRecord st off frame b).emt.full = s.emt.full := by
  obtain ⟨queue, drops, reg, emt, -⟩ := s.emitRecord_emt st frame off b
  simp [emt]

theorem State.emitRecord_dropsTrailer : (s.emitRecord st off frame b).emt.dropsTrailer ≤ s.emt.dropsTrailer + 1 := by
  obtain ⟨queue, drops, reg, emt, drop⟩ := s.emitRecord_emt st frame off b
  rw [emt]
  exact drop

/-- An object list leaves the tile stream's number, chain and queue as they are. -/
@[simp] theorem State.emitRecord_object_tile : (s.emitRecord .object off frame b).emt.tile = s.emt.tile := by
  obtain ⟨queue, drops, reg, emt, -⟩ := s.emitRecord_emt .object frame off b
  rw [emt]
  rfl

/-- CKC sees the record last on the tap, unless it is halted (R239). -/
theorem State.emitRecord_tap (runs : s.ckc.mode ≠ .halted) :
    (s.emitRecord st off frame b).emt.tap = s.emt.tap ++ [(st, (s.emt.get st).seal off b)] := by
  obtain ⟨queue, drops, reg, emt, -⟩ := s.emitRecord_emt st frame off b
  simp [emt, runs]

end

end Sys2Proof.Machine
end

section
/-! PROOF of the statement about the delivery of records: one equation for each way that RECORD_DELIVERY goes, and what a message adds
to the posted writes. -/

namespace Sys2Proof.Machine

/-! ### Posted writes -/

/-- With the link up a posted write goes behind the earlier ones (R249). -/
theorem State.post_posted {s : State} (up : s.hif.linkUp = true) (p : HostPost) : (s.post p).hif.posted = s.hif.posted ++ [p] := by
  simp [State.post, up]

section
variable (s : State)

/-- A message is at most one write behind the earlier ones (R255). -/
theorem State.message_posted (v : Nat) : ∃ more, (s.message v).hif.posted = s.hif.posted ++ more ∧ more.length ≤ 1 := by
  unfold State.message
  split
  next => exact ⟨[], by simp, by simp⟩
  next =>
    cases up : s.hif.linkUp with
    | true => exact ⟨[.msix v], State.post_posted up _, le_rfl⟩
    | false => exact ⟨[], by simp [State.post, up], by simp⟩

theorem State.ringMessage_posted (id : Nat) (more : Bool) :
    ∃ sent, (s.ringMessage id more).hif.posted = s.hif.posted ++ sent ∧ sent.length ≤ 1 := by
  unfold State.ringMessage
  split
  next => exact ⟨[], by simp, by simp⟩
  next r _ =>
    split
    · exact State.message_posted (s.onCpx fun c => c.putRing { r with sinceMsg := 0 }) r.vector
    · exact ⟨[], by simp, by simp⟩

end

/-! ### RECORD_DELIVERY -/

/-- The record that goes out next, at its entry, and the stream behind it with `pend` entries that the tail has still to pass. -/
def State.deliver (st : Stream) (r : Ring) (b : List Byte) (rest : List (List Byte)) (pend : Nat) (s : State) : State :=
  (s.post (.record r.id (r.entryAddr (r.tail + (s.emt.get st).tailPend)) b)).onEmt fun e =>
    e.put st { s.emt.get st with queue := rest, tailPend := pend }

/-- A ring whose tail has passed `n` more entries (R260). -/
def Ring.pass (r : Ring) (n : Nat) : Ring := { r with tail := (r.tail + n) % 2 ^ 32, sinceMsg := r.sinceMsg + n }

/-- That delivery with the tail past every entry written, and behind it the index block that covers them (R258, R260). -/
def State.deliverIndexed (st : Stream) (r : Ring) (b : List Byte) (rest : List (List Byte)) (s : State) : State :=
  let n := (s.emt.get st).tailPend + 1
  ((s.deliver st r b rest 0).onCpx fun c => c.putRing (r.pass n)).post ((r.pass n).block (r.pass n).tail)

section
variable {s : State} {st : Stream} {r : Ring} {b : List Byte} {rest : List (List Byte)}

theorem State.deliver_posted (up : s.hif.linkUp = true) (pend : Nat) : (s.deliver st r b rest pend).hif.posted =
    s.hif.posted ++ [.record r.id (r.entryAddr (r.tail + (s.emt.get st).tailPend)) b] := State.post_posted up _

/-- The record goes out before the index block that covers it (R260). -/
theorem State.deliverIndexed_posted (up : s.hif.linkUp = true) : (s.deliverIndexed st r b rest).hif.posted =
    s.hif.posted ++ [.record r.id (r.entryAddr (r.tail + (s.emt.get st).tailPend)) b,
      .indexBlock r.id r.blockAddr ((r.tail + ((s.emt.get st).tailPend + 1)) % 2 ^ 32) r.error] := by
  rw [State.deliverIndexed, State.post_posted (by simpa [State.deliver] using up), State.onCpx_hif, State.deliver_posted up,
    List.append_assoc]
  rfl

/-- Nothing is written into a ring without a free entry (R228). -/
theorem doRecordDelivery_full (ring : s.cpx.streamRing st = some r) (full : r.entries ≤ r.used + (s.emt.get st).tailPend) :
    doRecordDelivery st s = s := by
  simp only [doRecordDelivery, ring]
  cases (s.emt.get st).queue with
  | nil => rfl
  | cons b rest => simp [full]

section
variable (on : s.pins.rstN = true) (up : s.hif.linkUp = true) (queue : (s.emt.get st).queue = b :: rest)
  (ring : s.cpx.streamRing st = some r) (room : r.used + (s.emt.get st).tailPend < r.entries)
include on up queue ring room

/-- A tile record before the eighth is written, and the tail waits (R228). -/
theorem doRecordDelivery_defers (tile : st = .tile) (few : (s.emt.get st).tailPend + 1 < 8) :
    doRecordDelivery st s = s.deliver st r b rest ((s.emt.get st).tailPend + 1) := by
  simp only [doRecordDelivery, queue, ring, on, up]
  rw [if_neg (by simpa using room), if_pos ⟨tile, few⟩]
  rfl

/-- Otherwise the tail passes every entry written, and the index block follows the record (R228, R260). -/
theorem doRecordDelivery_passes (all : st ≠ .tile ∨ 8 ≤ (s.emt.get st).tailPend + 1) :
    doRecordDelivery st s = (s.deliverIndexed st r b rest).ringMessage r.id (!rest.isEmpty) := by
  have notFew : ¬(st = .tile ∧ (s.emt.get st).tailPend + 1 < 8) := by
    rintro ⟨tile, few⟩
    exact all.elim (absurd tile) few.not_ge
  simp only [doRecordDelivery, queue, ring, on, up]
  rw [if_neg (by simpa using room), if_neg notFew]
  rfl

end

end

/-- Settles O43: a delivery is one of three equations (`doRecordDelivery_full` and its like), and a message is one write at most. -/
theorem recordsAreDeliveredInOrder : Obligations.RecordsAreDeliveredInOrder := by
  refine ⟨fun s st b rest r on up queue ring room => ?delivered, fun s st r ring full =>
    congrArg Host.Outcome.next (doRecordDelivery_full ring full)⟩
  by_cases defers : st = .tile ∧ (s.emt.get st).tailPend + 1 < 8
  case pos =>
    obtain ⟨tile, few⟩ := defers
    have run := doRecordDelivery_defers on up queue ring room tile few
    refine ⟨_, congrArg Host.Outcome.next run, ?_, ?_, fun _ _ => ⟨rfl, ?_, State.deliver_posted up _⟩,
      fun all => absurd few (all.elim (absurd tile) Nat.not_lt.mpr), rfl, rfl⟩ <;>
    simp [State.deliver]
  case neg =>
    have all : st ≠ .tile ∨ 8 ≤ (s.emt.get st).tailPend + 1 := (not_and_or.mp defers).imp_right Nat.not_lt.mp
    have run := doRecordDelivery_passes on up queue ring room all
    obtain ⟨more, posted, one⟩ := (s.deliverIndexed st r b rest).ringMessage_posted r.id (!rest.isEmpty)
    rw [State.deliverIndexed_posted up] at posted
    refine ⟨_, congrArg Host.Outcome.next run, ?_, ?_, fun tile few => absurd ⟨tile, few⟩ defers,
      fun _ => ⟨?_, more, posted, one⟩, ?_, ?_⟩ <;>
    simp [State.deliverIndexed, State.deliver]

end Sys2Proof.Machine
end

section
/-! PROOF of the statement about slots: SLOT_OPEN is what comes before the slot's record, which leaves of the frame all that the slot
reads, and then the record. -/

namespace Sys2Proof.Machine

/-! ### Object lists and the latch -/

section
variable (s : State) (f : EmitFrame) (slot : Option (List Byte)) (late : Bool)

@[simp] theorem State.emitObjects_tim : (s.emitObjects f slot late).tim = s.tim := by simp [State.emitObjects]
@[simp] theorem State.emitObjects_cpx : (s.emitObjects f slot late).cpx = s.cpx := by simp [State.emitObjects]
@[simp] theorem State.emitObjects_ctr : (s.emitObjects f slot late).ctr = s.ctr := by simp [State.emitObjects]
@[simp] theorem State.emitObjects_ckc : (s.emitObjects f slot late).ckc = s.ckc := by simp [State.emitObjects]
@[simp] theorem State.emitObjects_saf : (s.emitObjects f slot late).saf = s.saf := by simp [State.emitObjects]
@[simp] theorem State.emitObjects_fab : (s.emitObjects f slot late).fab = s.fab := by simp [State.emitObjects]
@[simp] theorem State.emitObjects_full : (s.emitObjects f slot late).emt.full = s.emt.full := by simp [State.emitObjects]
@[simp] theorem State.emitObjects_tile : (s.emitObjects f slot late).emt.tile = s.emt.tile := by simp [State.emitObjects]

end

/-- Two frames in emission that differ at most in what their object lists and SAFE are (R236, R241). -/
def EmitFrame.SameTiles (f g : EmitFrame) : Prop := ∃ done late count owed safe,
  g = { f with objDone := done, objLate := late, objCount := count, objOwed := owed, safeSeen := safe }

theorem EmitFrame.SameTiles.refl (f : EmitFrame) : f.SameTiles f := ⟨_, _, _, _, _, rfl⟩

theorem EmitFrame.SameTiles.fields {f g : EmitFrame} (h : f.SameTiles g) : g.frame = f.frame ∧ g.nextSlot = f.nextSlot ∧
    g.lateTiles = f.lateTiles ∧ g.owed = f.owed := by
  obtain ⟨_, _, _, _, _, rfl⟩ := h
  exact ⟨rfl, rfl, rfl, rfl⟩

theorem EmitFrame.SameTiles.trans {f g h : EmitFrame} (fg : f.SameTiles g) (gh : g.SameTiles h) : f.SameTiles h := by
  obtain ⟨_, _, _, _, _, rfl⟩ := fg
  obtain ⟨_, _, _, _, _, rfl⟩ := gh
  exact ⟨_, _, _, _, _, rfl⟩

/-- EMT goes on emitting the frame `f`, with the tiles it has, and `n` frames after it. -/
def State.Emits (s : State) (f : EmitFrame) (n : Nat) : Prop := ∃ g rest, s.emt.frames = g :: rest ∧ f.SameTiles g ∧ rest.length = n

theorem State.Emits.map {s t : State} {f : EmitFrame} {n : Nat} (h : s.Emits f n) {change : EmitFrame → EmitFrame}
    (same : ∀ g : EmitFrame, g.SameTiles (change g)) (frames : t.emt.frames = s.emt.frames.map change) : t.Emits f n := by
  obtain ⟨g, rest, head, tiles, length⟩ := h
  exact ⟨change g, rest.map change, by rw [frames, head, List.map_cons], tiles.trans (same g), by rw [List.length_map, length]⟩

/-- A frame once the object list of frame number `number` is out, with its LATE flag, its COUNT and whether it is owed (R241). -/
def EmitFrame.objectsOut (number : Nat) (late : Bool) (count : Nat) (owed : Bool) (g : EmitFrame) : EmitFrame :=
  if g.frame = number then { g with objDone := true, objLate := late, objCount := count, objOwed := owed } else g

theorem EmitFrame.objectsOut_sameTiles (number : Nat) (late : Bool) (count : Nat) (owed : Bool) (g : EmitFrame) :
    g.SameTiles (g.objectsOut number late count owed) := by
  unfold EmitFrame.objectsOut
  split
  · exact ⟨_, _, _, _, _, rfl⟩
  · exact .refl g

theorem State.emitObjects_frames (s : State) (f : EmitFrame) (slot : Option (List Byte)) (late : Bool) : ∃ count,
    (s.emitObjects f slot late).emt.frames = s.emt.frames.map (.objectsOut f.frame late count slot.isNone) :=
  ⟨_, by simp only [State.emitObjects, State.onEmt_emt, State.emitRecord_frames]; rfl⟩

theorem State.emitObjects_emits {s : State} {f : EmitFrame} {n : Nat} (h : s.Emits f n) (f' : EmitFrame) (slot : Option (List Byte))
    (late : Bool) : (s.emitObjects f' slot late).Emits f n := by
  obtain ⟨count, frames⟩ := s.emitObjects_frames f' slot late
  exact h.map (EmitFrame.objectsOut_sameTiles _ _ _ _) frames

/-- A new latch marks the frames in emission (R316); a further cause leaves them alone. -/
theorem State.latch_emt (s : State) (cause : Nat) : (s.latch cause).emt =
    if s.saf.fresh then { s.emt with frames := s.emt.frames.map fun f => { f with safeSeen := true } } else s.emt := by
  simp only [State.latch]
  split <;> simp

@[simp] theorem State.latch_full (s : State) (cause : Nat) : (s.latch cause).emt.full = s.emt.full := by
  rw [State.latch_emt]
  split <;> rfl

@[simp] theorem State.latch_tile (s : State) (cause : Nat) : (s.latch cause).emt.tile = s.emt.tile := by
  rw [State.latch_emt]
  split <;> rfl

theorem State.latch_emits {s : State} {f : EmitFrame} {n : Nat} (h : s.Emits f n) (cause : Nat) : (s.latch cause).Emits f n := by
  have emt := s.latch_emt cause
  split at emt
  · exact h.map (change := fun g => { g with safeSeen := true }) (fun g => ⟨_, _, _, _, _, rfl⟩) (by rw [emt])
  · exact h.map (change := id) .refl (by rw [emt, List.map_id])

/-! ### What comes before a slot's record -/

/-- The frame's tile of the next slot is committed. -/
def State.tileFull (s : State) (f : EmitFrame) : Bool := s.emt.full.contains (f.parity, f.nextSlot)

/-- The frame's LATE tiles after its next slot. -/
def EmitFrame.lateAfter (f : EmitFrame) (full : Bool) : List Nat := if full then f.lateTiles else f.nextSlot :: f.lateTiles

/-- The object list that is committed at slot 0 goes out first (R241). -/
def State.objectsAtSlot (f : EmitFrame) (s : State) : State :=
  if f.nextSlot = 0 && f.hasObj && (s.objectSlot f).isSome then s.emitObjects f (s.objectSlot f) false else s

/-- The first LATE record over the limit latches the safe state (R316). -/
def State.latchAtSlot (f : EmitFrame) (full : Bool) (s : State) : State :=
  if !full && decide ((f.lateAfter full).length = f.lateLimit + 1) then s.latch latchLateLimit else s

/-- The part at its next slot, before the slot's record. -/
def State.atSlot (f : EmitFrame) (s : State) : State :=
  let t := (s.advance (f.slotAt f.nextSlot)).objectsAtSlot f
  t.latchAtSlot f (t.tileFull f)

/-- The record of the frame's next slot before its number and CRC (R233, R234, R236). -/
def State.slotRecord (s : State) (f : EmitFrame) (full : Bool) : List Byte :=
  tileRecord f f.nextSlot (vehicleTime s.tim (f.slotAt f.nextSlot)) s.saf.latched
    (if full then some (s.fab.peeks f.tileAt.1 (f.tileAt.2 + 256 * f.nextSlot) 256) else none)

/-- The frame after its next slot: the number of that record is `seq`, and `deg` and `safe` are its SENSOR_DEGRADED and SAFE_STATE. -/
def EmitFrame.afterSlot (f : EmitFrame) (full : Bool) (seq : Nat) (deg safe : Bool) : EmitFrame :=
  { f with nextSlot := f.nextSlot + 1, lateTiles := f.lateAfter full, owed := if full then f.owed else f.nextSlot :: f.owed,
           degraded := if deg then f.nextSlot :: f.degraded else f.degraded,
           firstSeq := if f.nextSlot = 0 then seq else f.firstSeq,
           bandSeqs := if f.nextSlot % 64 = 0 then f.bandSeqs ++ [seq] else f.bandSeqs,
           safeSeen := f.safeSeen || safe }

/-- The emitting frame `f` is past its next slot, and that tile's storage is free (R231, R233). -/
def State.passSlot (f : EmitFrame) (full : Bool) (s : State) : State := s.onEmt fun e =>
  { e.setHead (f.afterSlot full e.tile.seq ((recLe (s.slotRecord f full) 1 1).testBit 3) s.saf.latched) with
    full := e.full.filter fun p => p ≠ (f.parity, f.nextSlot), lastFrame := f.frame, lastSlot := f.nextSlot,
    lastLate := (f.lateAfter full).length, lastLateCommits := f.lateCommits }

/-- The emitting frame `f` puts out the record of its next slot, committed (`full`) or LATE (R231-R236). -/
def State.emitSlot (f : EmitFrame) (full : Bool) (s : State) : State :=
  (s.passSlot f full).emitRecord .tile 0xFC f.frame (s.slotRecord f full)

section
variable (s : State) (f : EmitFrame)

/-- What an object list keeps holds once the one that falls due at this slot is out. -/
theorem State.objectsAtSlot_holds {P : State → Prop} (now : P s) (objects : ∀ slot, P (s.emitObjects f slot false)) :
    P (s.objectsAtSlot f) := by
  unfold State.objectsAtSlot
  split
  · exact objects _
  · exact now

theorem State.objectsAtSlot_tileFull : (s.objectsAtSlot f).tileFull f = s.tileFull f :=
  State.objectsAtSlot_holds s f (P := fun t => t.tileFull f = s.tileFull f) rfl fun slot => by
    rw [State.tileFull, State.emitObjects_full, State.tileFull]

/-- Whether the tile is committed is the same at the slot's time and after the object list. -/
theorem State.dueSlot_tileFull : ((s.advance (f.slotAt f.nextSlot)).objectsAtSlot f).tileFull f = s.tileFull f := by
  rw [State.objectsAtSlot_tileFull, State.tileFull, State.advance_emt, State.tileFull]

/-- What an object list and a latch keep holds before the slot's record when it holds at the slot's time. -/
theorem State.atSlot_holds {P : State → Prop} (due : P (s.advance (f.slotAt f.nextSlot)))
    (objects : ∀ t slot, P t → P (t.emitObjects f slot false)) (latch : ∀ t, P t → P (t.latch latchLateLimit)) : P (s.atSlot f) := by
  have object := State.objectsAtSlot_holds _ f due fun slot => objects _ slot due
  unfold State.atSlot State.latchAtSlot
  dsimp only
  split
  · exact latch _ object
  · exact object

/-- A projection of the state that TMB, an object list and a latch leave alone stands before the slot's record. -/
theorem State.atSlot_keeps {α : Type} (proj : State → α) (advance : ∀ (t : State) n, proj (t.advance n) = proj t)
    (objects : ∀ (t : State) slot, proj (t.emitObjects f slot false) = proj t)
    (latch : ∀ t : State, proj (t.latch latchLateLimit) = proj t) : proj (s.atSlot f) = proj s :=
  s.atSlot_holds f (P := fun t => proj t = proj s) (advance s _) (fun t slot => (objects t slot).trans) fun t => (latch t).trans

@[simp] theorem State.atSlot_fab : (s.atSlot f).fab = s.fab := s.atSlot_keeps f State.fab (by simp) (by simp) (by simp)
@[simp] theorem State.atSlot_cpx : (s.atSlot f).cpx = s.cpx := s.atSlot_keeps f State.cpx (by simp) (by simp) (by simp)
@[simp] theorem State.atSlot_ctr : (s.atSlot f).ctr = s.ctr := s.atSlot_keeps f State.ctr (by simp) (by simp) (by simp)
@[simp] theorem State.atSlot_ckc : (s.atSlot f).ckc = s.ckc := s.atSlot_keeps f State.ckc (by simp) (by simp) (by simp)
@[simp] theorem State.atSlot_full : (s.atSlot f).emt.full = s.emt.full :=
  s.atSlot_keeps f (fun t => t.emt.full) (by simp) (by simp) (by simp)
@[simp] theorem State.atSlot_tile : (s.atSlot f).emt.tile = s.emt.tile :=
  s.atSlot_keeps f (fun t => t.emt.tile) (by simp) (by simp) (by simp)

/-- TMB has reached the slot's time. -/
theorem State.atSlot_now (word : f.slotAt f.nextSlot < 2 ^ 64) : f.slotAt f.nextSlot ≤ (s.atSlot f).now :=
  s.atSlot_holds f (P := fun t => f.slotAt f.nextSlot ≤ t.now) (s.le_now_advance word)
    (fun t slot due => by simpa [State.now] using due) fun t due => by simpa [State.now] using due

/-- The frame is still the one that emits, with the tiles it had. -/
theorem State.atSlot_emits {n : Nat} (h : s.Emits f n) : (s.atSlot f).Emits f n :=
  s.atSlot_holds f (P := fun t => t.Emits f n) (by simpa [State.Emits] using h)
    (fun t slot emits => State.emitObjects_emits emits f slot false) fun t emits => State.latch_emits emits _

/-- The LATE record over the limit finds the safe state latched (R316). -/
theorem State.atSlot_latched (late : s.tileFull f = false) (limit : f.lateTiles.length = f.lateLimit) :
    (s.atSlot f).saf.latched = true := by
  simp only [State.atSlot, State.dueSlot_tileFull, late]
  rw [State.latchAtSlot, if_pos (by simp [EmitFrame.lateAfter, limit])]
  exact State.latch_latched _ _

end

/-! ### SLOT_OPEN -/

theorem tileRecord_length (f : EmitFrame) (k : Nat) (t : Int) (safe : Bool) {src : Option (List Byte)}
    (whole : ∀ b, src = some b → b.length = 256) : (tileRecord f k t safe src).length = 256 := by
  cases src with
  | none => simp only [tileRecord, List.length_append, leBytes_length, List.length_replicate, Nat.reduceAdd]
  | some b =>
    have field {o n : Nat} (inside : o + n ≤ 256) : ((b.drop o).take n).length = n :=
      List.length_take_of_le (by rw [List.length_drop, whole b rfl]; omega)
    have extra : (if f.format = 2 then (b.drop 0xE0).take 16 else List.replicate 16 0#8).length = 16 := by
      split
      · exact field (by decide)
      · exact List.length_replicate
    have seen : (if safe then List.replicate 8 0xFF#8 else (b.drop 0x14).take 8).length = 8 := by
      split
      · exact List.length_replicate
      · exact field (by decide)
    have cells : (if safe then List.replicate 192 0#8 else (b.drop 0x20).take 192).length = 192 := by
      split
      · exact List.length_replicate
      · exact field (by decide)
    simp only [tileRecord, List.length_append, leBytes_length, List.length_replicate, field (show 0x1C + 4 ≤ 256 by decide), extra,
      seen, cells, Nat.reduceAdd]

section
variable (s : State) (f : EmitFrame) (full : Bool)

theorem State.slotRecord_length : (s.slotRecord f full).length = 256 :=
  tileRecord_length f _ _ _ fun b src => by
    split at src
    · rw [← Option.some.inj src, Fab.peeks_length]
    · exact nomatch src

@[simp] theorem State.emitSlot_tim : (s.emitSlot f full).tim = s.tim := State.emitRecord_tim (s.passSlot f full) _ _ _ _
@[simp] theorem State.emitSlot_fab : (s.emitSlot f full).fab = s.fab := State.emitRecord_fab (s.passSlot f full) _ _ _ _
@[simp] theorem State.emitSlot_cpx : (s.emitSlot f full).cpx = s.cpx := State.emitRecord_cpx (s.passSlot f full) _ _ _ _
@[simp] theorem State.emitSlot_ctr : (s.emitSlot f full).ctr = s.ctr := State.emitRecord_ctr (s.passSlot f full) _ _ _ _
@[simp] theorem State.emitSlot_saf : (s.emitSlot f full).saf = s.saf := State.emitRecord_saf (s.passSlot f full) _ _ _ _

/-- The tile leaves the storage's full set. -/
@[simp] theorem State.emitSlot_full : (s.emitSlot f full).emt.full = s.emt.full.filter fun p => p ≠ (f.parity, f.nextSlot) :=
  State.emitRecord_full (s.passSlot f full) _ _ _ _

theorem State.emitSlot_frames : ∃ deg, (s.emitSlot f full).emt.frames =
    f.afterSlot full s.emt.tile.seq deg s.saf.latched :: s.emt.frames.drop 1 :=
  ⟨_, State.emitRecord_frames (s.passSlot f full) _ _ _ _⟩

/-- The tile stream goes on by the record that went out (R232, R238). -/
theorem State.emitSlot_tile : (s.emitSlot f full).emt.tile.seq = (s.emt.tile.seq + 1) % 2 ^ 32 ∧
    (s.emitSlot f full).emt.tile.crc =
      BitVec.ofNat 32 (chainCrc s.emt.tile.crc.toNat (s.emt.tile.seal 0xFC (s.slotRecord f full)) 0xFC) := by
  have length := s.slotRecord_length f full
  rw [s.emt.tile.chainCrc_seal (by omega) (by omega)]
  obtain ⟨queue, drops, reg, emt, -⟩ := (s.passSlot f full).emitRecord_emt .tile f.frame 0xFC (s.slotRecord f full)
  rw [State.emitSlot, emt]
  exact ⟨rfl, rfl⟩

/-- CKC sees the record last on the tap, unless it is halted (R239). -/
theorem State.emitSlot_tap (runs : s.ckc.mode ≠ .halted) :
    (s.emitSlot f full).emt.tap.getLast? = some (.tile, s.emt.tile.seal 0xFC (s.slotRecord f full)) := by
  rw [State.emitSlot, State.emitRecord_tap (s.passSlot f full) _ _ _ _ runs, List.getLast?_concat]
  rfl

end

/-- SLOT_OPEN of a slot in the grid whose band verdicts are not overdue (R231, R242). -/
theorem doSlotOpen_eq {s : State} {f g : EmitFrame} {rest rest' : List EmitFrame} (on : s.pins.rstN = true)
    (frames : s.emt.frames = f :: rest) (inGrid : f.nextSlot < f.tiles) (inTime : f.nextSlot ≤ 64 * f.nextBand + 66)
    (head : (s.atSlot f).emt.frames = g :: rest') (same : f.SameTiles g) : doSlotOpen s = (s.atSlot f).emitSlot g (s.tileFull f) := by
  obtain ⟨_, _, _, _, _, rfl⟩ := same
  unfold doSlotOpen
  rw [frames]
  dsimp only
  rw [if_neg (by simp [on, inGrid, inTime])]
  split
  next none => exact absurd (head.symm.trans none) (by simp)
  next f' _ now =>
    cases head.symm.trans now
    rw [← State.dueSlot_tileFull]
    rfl

/-- Settles O42: SLOT_OPEN is `doSlotOpen_eq`; what comes before the record is `State.atSlot`, the record is `State.emitSlot`. -/
theorem slotsEmitOneTileRecord : Obligations.SlotsEmitOneTileRecord := by
  intro s f rest on frames inGrid inTime word
  obtain ⟨g, rest', head, same, length⟩ := s.atSlot_emits f (n := rest.length) ⟨f, rest, frames, .refl f, rfl⟩
  have run := doSlotOpen_eq on frames inGrid inTime head same
  obtain ⟨frame, nextSlot, lateTiles, owed⟩ := same.fields
  obtain ⟨deg, out⟩ := (s.atSlot f).emitSlot_frames g (s.tileFull f)
  obtain ⟨seq, crc⟩ := (s.atSlot f).emitSlot_tile g (s.tileFull f)
  rw [State.atSlot_tile] at seq crc
  have parity : g.parity = f.parity := congrArg (· % 2) frame
  refine ⟨_, g.afterSlot (s.tileFull f) (s.atSlot f).emt.tile.seq deg (s.atSlot f).saf.latched,
    s.emt.tile.seal 0xFC ((s.atSlot f).slotRecord g (s.tileFull f)), congrArg Host.Outcome.next run, ?now, by rw [out]; rfl, frame,
    congrArg (· + 1) nextSlot, ?number, ?whole, seq, crc, fun runs => ?tap, fun full => ?committed, fun full => ?late,
    by simp, by simp, by simp⟩
  case now => simpa [State.now] using s.atSlot_now f word
  case number => simp [out, head, frames, length]
  case whole =>
    have record := (s.atSlot f).slotRecord_length g (s.tileFull f)
    rw [StreamSt.seal_length _ (by omega) (by omega), record]
  case tap =>
    have tap := (s.atSlot f).emitSlot_tap g (s.tileFull f) (by rwa [State.atSlot_ckc])
    rwa [State.atSlot_tile] at tap
  case committed =>
    have full : s.tileFull f = true := full
    refine ⟨?_, ?_, by rw [State.emitSlot_full, State.atSlot_full, parity, nextSlot]⟩ <;>
    simp [EmitFrame.afterSlot, EmitFrame.lateAfter, full, lateTiles, owed]
  case late =>
    have full : s.tileFull f = false := full
    refine ⟨?_, ?_, fun limit => by rw [State.emitSlot_saf, s.atSlot_latched f full limit]⟩ <;>
    simp [EmitFrame.afterSlot, EmitFrame.lateAfter, full, lateTiles, owed, nextSlot]

end Sys2Proof.Machine
end

section
/-! PROOF of the statement about trailers: FRAME_TRAILER ends the frame's emission and judgement, and then settles the latch, the
verdict's record and a waiting STOP_FRAMES. -/

namespace Sys2Proof.Machine

/-! ### The verdict that a trailer carries -/

/-- CKC's verdict of the frame, if it has given one (R313). -/
def State.verdictOf (s : State) (f : EmitFrame) : Option (Bool × Nat) :=
  match s.ckc.judges.find? fun j => j.frame = f.frame with
  | some j => j.verdict
  | none => none

/-- The safe state was latched at some time of the frame's emission (R234). -/
def State.safeIn (s : State) (f : EmitFrame) : Bool := f.safeSeen || s.saf.latched

/-- The frame is INVALID by its trailer: without a verdict of CKC, by that verdict, or by what EMT itself knows (R234, R241, R243). -/
def State.trailerInvalid (s : State) (f : EmitFrame) : Bool :=
  (match s.verdictOf f with | some x => x.1 | none => true) || s.safeIn f || (f.hasObj && f.objLate) ||
    decide (f.lateLimit < f.lateTiles.length) || f.unreplayed

/-- The REASONS of its trailer (Table 9.6). -/
def State.trailerReasons (s : State) (f : EmitFrame) : Nat :=
  f.reasons ||| (match s.verdictOf f with | some x => x.2 | none => rCheckerLate) ||| (if s.safeIn f then rSafeState else 0) |||
    (if f.hasObj && f.objLate then rObjectsLate else 0) ||| (if f.hwFault then rHwFault else 0) |||
    (if f.lateTiles.isEmpty then 0 else rLateTiles)

section
variable (s : State) (n : Nat) (f : EmitFrame)

/-- TMB's count is not part of the verdict. -/
theorem State.advance_verdictOf : (s.advance n).verdictOf f = s.verdictOf f := by rw [State.verdictOf, State.advance_ckc, State.verdictOf]

theorem State.advance_safeIn : (s.advance n).safeIn f = s.safeIn f := by rw [State.safeIn, State.advance_saf, State.safeIn]

theorem State.advance_trailerInvalid : (s.advance n).trailerInvalid f = s.trailerInvalid f := by
  rw [State.trailerInvalid, State.advance_verdictOf, State.advance_safeIn, State.trailerInvalid]

theorem State.advance_trailerReasons : (s.advance n).trailerReasons f = s.trailerReasons f := by
  rw [State.trailerReasons, State.advance_verdictOf, State.advance_safeIn, State.trailerReasons]

end

section
variable {s : State} {f : EmitFrame}

theorem State.trailerInvalid_unjudged (unjudged : s.ckc.judges.find? (fun j => j.frame = f.frame) = none) :
    s.trailerInvalid f = true := by simp [State.trailerInvalid, State.verdictOf, unjudged]

/-- Without a verdict REASONS has CHECKER_LATE, which is more than the safe state. -/
theorem State.trailerReasons_unjudged (unjudged : s.ckc.judges.find? (fun j => j.frame = f.frame) = none) :
    s.trailerReasons f ≠ rSafeState := by
  intro same
  have late : (s.trailerReasons f).testBit 5 = true := by
    simp [State.trailerReasons, State.verdictOf, unjudged, Nat.testBit_or, show rCheckerLate.testBit 5 = true by decide]
  exact absurd (same ▸ late) (by decide)

theorem State.trailerInvalid_valid {j : Judge} {r : Nat} (judged : s.ckc.judges.find? (fun j => j.frame = f.frame) = some j)
    (verdict : j.verdict = some (false, r)) (unseen : f.safeSeen = false) (clear : s.saf.latched = false)
    (objects : f.objLate = false) (tiles : f.lateTiles.length ≤ f.lateLimit) (replayed : f.unreplayed = false) :
    s.trailerInvalid f = false := by
  simp [State.trailerInvalid, State.verdictOf, State.safeIn, judged, verdict, unseen, clear, objects, tiles, replayed]

end

/-! ### What the latch and the history leave alone -/

section
variable (s : State) (cause : Nat)

@[simp] theorem State.latch_frames_length : (s.latch cause).emt.frames.length = s.emt.frames.length := by
  rw [State.latch_emt]
  split <;> simp

@[simp] theorem State.latch_dropsTrailer : (s.latch cause).emt.dropsTrailer = s.emt.dropsTrailer := by
  rw [State.latch_emt]
  split <;> rfl

@[simp] theorem State.latch_frameAlive : (s.latch cause).pins.frameAlive = s.pins.frameAlive := by
  simp only [State.latch]
  split <;> simp

@[simp] theorem State.unlatch_frameAlive : s.unlatch.pins.frameAlive = s.pins.frameAlive := by simp [State.unlatch]

@[simp] theorem State.latch_lastFrame : (s.latch cause).saf.lastFrame = s.saf.lastFrame := by
  simp only [State.latch]
  split <;> simp

@[simp] theorem State.latch_lastInvalid : (s.latch cause).saf.lastInvalid = s.saf.lastInvalid := by
  simp only [State.latch]
  split <;> simp

@[simp] theorem State.unlatch_lastFrame : s.unlatch.saf.lastFrame = s.saf.lastFrame := by simp [State.unlatch]

@[simp] theorem State.unlatch_lastInvalid : s.unlatch.saf.lastInvalid = s.saf.lastInvalid := by simp [State.unlatch]

@[simp] theorem State.unlatch_latched : s.unlatch.saf.latched = false := by simp [State.unlatch]

/-- A cause of the latch makes no release pending (R317, R320). -/
theorem State.latch_relPending (noRelease : s.saf.relPending = false) : (s.latch cause).saf.relPending = false := by
  simp only [State.latch]
  split <;> simp [noRelease]

@[simp] theorem Saf.addHistory_lastFrame (x : Saf) (frame : Nat) : (x.addHistory frame).lastFrame = x.lastFrame := by
  unfold Saf.addHistory
  split <;> rfl

@[simp] theorem Saf.addHistory_lastInvalid (x : Saf) (frame : Nat) : (x.addHistory frame).lastInvalid = x.lastInvalid := by
  unfold Saf.addHistory
  split <;> rfl

@[simp] theorem Saf.addHistory_latched (x : Saf) (frame : Nat) : (x.addHistory frame).latched = x.latched := by
  unfold Saf.addHistory
  split <;> rfl

@[simp] theorem Saf.addHistory_relPending (x : Saf) (frame : Nat) : (x.addHistory frame).relPending = x.relPending := by
  unfold Saf.addHistory
  split <;> rfl

/-- A frame that is not before the history's start enters it beside the last eight (R314). -/
theorem Saf.addHistory_history {x : Saf} {frame : Nat} (since : x.histFrom ≤ frame) : (x.addHistory frame).history =
    frame :: x.history.filter fun n => decide (n ≠ frame) && decide (frame < n + 8) := by
  rw [Saf.addHistory, if_neg (Nat.not_lt.mpr since)]

end

/-! ### The state after a trailer -/

section
variable (s : State) (f : EmitFrame) (invalid : Bool) (reasons : Nat)

@[simp] theorem State.afterTrailer_tim : (s.afterTrailer f invalid reasons).tim = s.tim := by
  simp [State.afterTrailer, apply_ite State.tim]
@[simp] theorem State.afterTrailer_ctr : (s.afterTrailer f invalid reasons).ctr = s.ctr := by
  simp [State.afterTrailer, apply_ite State.ctr]
@[simp] theorem State.afterTrailer_fab : (s.afterTrailer f invalid reasons).fab = s.fab := by
  simp [State.afterTrailer, apply_ite State.fab]

theorem State.afterTrailer_frames_length : (s.afterTrailer f invalid reasons).emt.frames.length = s.emt.frames.length := by
  simp [State.afterTrailer, apply_ite State.emt, apply_ite Emt.frames, apply_ite List.length]

theorem State.afterTrailer_dropsTrailer : (s.afterTrailer f invalid reasons).emt.dropsTrailer = s.emt.dropsTrailer := by
  simp [State.afterTrailer, apply_ite State.emt, apply_ite Emt.dropsTrailer]

theorem State.afterTrailer_frameAlive : (s.afterTrailer f invalid reasons).pins.frameAlive = !s.pins.frameAlive := by
  simp [State.afterTrailer, apply_ite State.pins, apply_ite Pins.frameAlive]

theorem State.afterTrailer_lastFrame : (s.afterTrailer f invalid reasons).saf.lastFrame = f.frame := by
  simp [State.afterTrailer, apply_ite State.saf, apply_ite Saf.lastFrame]

theorem State.afterTrailer_lastInvalid : (s.afterTrailer f invalid reasons).saf.lastInvalid = invalid := by
  simp [State.afterTrailer, apply_ite State.saf, apply_ite Saf.lastInvalid]

/-- A VALID frame latches nothing (R314). -/
theorem State.afterTrailer_valid (clear : s.saf.latched = false) : (s.afterTrailer f false reasons).saf.latched = false := by
  simp [State.afterTrailer, apply_ite State.saf, apply_ite Saf.latched, clear]

/-- A second INVALID frame of eight latches the safe state, unless a release waits for its trailer (R314, R316, R320). -/
theorem State.afterTrailer_latches (more : reasons ≠ rSafeState) (since : s.saf.histFrom ≤ f.frame)
    (noRelease : s.saf.relPending = false) (another : ∃ n ∈ s.saf.history, n < f.frame ∧ f.frame < n + 8) :
    (s.afterTrailer f true reasons).saf.latched = true := by
  obtain ⟨n, mem, before, near⟩ := another
  unfold State.afterTrailer
  extract_lets recorded toggled counts noted listed second latched
  have counted : counts = true := by simp [counts, toggled, recorded, more, since]
  have history : n ∈ listed.saf.history := by
    have starts : noted.saf.histFrom ≤ f.frame := by simpa [noted, toggled, recorded] using since
    have before : n ∈ noted.saf.history := by simpa [noted, toggled, recorded] using mem
    rw [show listed = noted.onSaf fun x => x.addHistory f.frame from if_pos counted, State.onSaf_saf, Saf.addHistory_history starts]
    exact List.mem_cons_of_mem _ (List.mem_filter.mpr ⟨before, by simpa using ⟨by omega, near⟩⟩)
  have again : second = true :=
    Bool.and_eq_true_iff.mpr ⟨counted, List.any_eq_true.mpr ⟨n, history, by simpa using ⟨by omega, near⟩⟩⟩
  have latch : latched = listed.latch latchTwoInEight := if_pos again
  have release : latched.saf.relPending = false := by
    rw [latch]
    exact State.latch_relPending _ _ (by simpa [listed, counted, noted, toggled, recorded] using noRelease)
  rw [if_neg (by simp [release]), latch, State.latch_latched]

end

/-! ### FRAME_TRAILER -/

section
variable (s : State)

@[simp] theorem State.stopReply_tim : s.stopReply.tim = s.tim := by simp only [State.stopReply]; split <;> [rfl; (split <;> simp)]
@[simp] theorem State.stopReply_ctr : s.stopReply.ctr = s.ctr := by simp only [State.stopReply]; split <;> [rfl; (split <;> simp)]
@[simp] theorem State.stopReply_emt : s.stopReply.emt = s.emt := by simp only [State.stopReply]; split <;> [rfl; (split <;> simp)]
@[simp] theorem State.stopReply_saf : s.stopReply.saf = s.saf := by simp only [State.stopReply]; split <;> [rfl; (split <;> simp)]
@[simp] theorem State.stopReply_fab : s.stopReply.fab = s.fab := by simp only [State.stopReply]; split <;> [rfl; (split <;> simp)]
@[simp] theorem State.stopReply_pins : s.stopReply.pins = s.pins := by simp only [State.stopReply]; split <;> [rfl; (split <;> simp)]

/-- The frame leaves EMT, and the count of undelivered records that its trailer carries starts again (R228, R243). -/
def State.leaveFrame (f : EmitFrame) (s : State) : State := s.onEmt fun e =>
  { e with frames := e.frames.drop 1, dropsTrailer := 0,
           owedAfter := (f.frame, f.owed, f.objOwed) :: e.owedAfter.filter fun o => decide (s.ctr.prog.frame ≤ o.1) }

/-- The trailer `b` goes out; the frame's judgement is over, and the old contract's storage is free after its last frame (R67, R243). -/
def State.sendTrailer (f : EmitFrame) (b : List Byte) (s : State) : State :=
  (((s.leaveFrame f).emitRecord .verdict 0xFC f.frame b).onCkc fun c =>
    { c with judges := c.judges.filter fun x => x.frame ≠ f.frame || x.verdict.isNone }).onCtr fun c =>
      if c.old.isSome ∧ c.oldFrame = f.frame then { c with old := none } else c

variable (f : EmitFrame) (b : List Byte)

@[simp] theorem State.sendTrailer_tim : (s.sendTrailer f b).tim = s.tim := State.emitRecord_tim (s.leaveFrame f) _ _ _ _
@[simp] theorem State.sendTrailer_saf : (s.sendTrailer f b).saf = s.saf := State.emitRecord_saf (s.leaveFrame f) _ _ _ _
@[simp] theorem State.sendTrailer_fab : (s.sendTrailer f b).fab = s.fab := State.emitRecord_fab (s.leaveFrame f) _ _ _ _
@[simp] theorem State.sendTrailer_pins : (s.sendTrailer f b).pins = s.pins := State.emitRecord_pins (s.leaveFrame f) _ _ _ _
@[simp] theorem State.sendTrailer_frames : (s.sendTrailer f b).emt.frames = s.emt.frames.drop 1 :=
  State.emitRecord_frames (s.leaveFrame f) _ _ _ _

/-- Of the records undelivered since the last trailer, only this one can be counted (R228). -/
theorem State.sendTrailer_dropsTrailer : (s.sendTrailer f b).emt.dropsTrailer ≤ 1 :=
  State.emitRecord_dropsTrailer (s.leaveFrame f) .verdict f.frame 0xFC b

theorem State.sendTrailer_ctr : (s.sendTrailer f b).ctr =
    if s.ctr.old.isSome ∧ s.ctr.oldFrame = f.frame then { s.ctr with old := none } else s.ctr := by
  rw [State.sendTrailer, State.onCtr_ctr, State.onCkc_ctr, State.emitRecord_ctr]
  rfl

@[simp] theorem State.sendTrailer_armed : (s.sendTrailer f b).ctr.armed = s.ctr.armed := by
  rw [State.sendTrailer_ctr]
  split <;> rfl

theorem State.sendTrailer_old (last : s.ctr.oldFrame = f.frame) : (s.sendTrailer f b).ctr.old = none := by
  rw [State.sendTrailer_ctr]
  cases old : s.ctr.old <;> simp [last, old]

end

/-- FRAME_TRAILER of the emitting frame, its object list out if it has one (R243). -/
theorem doFrameTrailer_eq {s : State} {f : EmitFrame} {rest : List EmitFrame} (on : s.pins.rstN = true)
    (frames : s.emt.frames = f :: rest) (slots : f.nextSlot = f.tiles) (bands : f.nextBand = f.bands)
    (objects : f.hasObj = true → f.objDone = true) : ∃ b, doFrameTrailer s =
      (((s.advance (f.slotAt (f.tiles + 2))).sendTrailer f b).afterTrailer f (s.trailerInvalid f) (s.trailerReasons f)).stopReply := by
  rw [← s.advance_trailerInvalid (f.slotAt (f.tiles + 2)) f, ← s.advance_trailerReasons (f.slotAt (f.tiles + 2)) f]
  unfold doFrameTrailer
  rw [frames]
  dsimp only
  rw [if_neg (by simp [on, slots, bands]), if_neg (by simpa using objects), State.advance_emt, frames]
  exact ⟨_, rfl⟩

/-- Settles O45: FRAME_TRAILER is `doFrameTrailer_eq`; the verdict is `State.trailerInvalid`, and what follows it is
`State.afterTrailer`. -/
theorem trailersEndFrames : Obligations.TrailersEndFrames := by
  intro s f rest on frames slots bands word objects
  obtain ⟨b, run⟩ := doFrameTrailer_eq on frames slots bands objects
  refine ⟨_, congrArg Host.Outcome.next run, ?now, ?left, ?alive, ?named, ?drops, fun last => ?old, ?armed, ?fab, fun unjudged => ?unjudged,
    fun j r judged verdict unseen clear list tiles replayed => ?valid, fun unjudged since noRelease another => ?latches⟩
  case now => simpa [State.now] using s.le_now_advance word
  case left => simp [State.afterTrailer_frames_length, frames]
  case alive =>
    obtain ⟨_, _, pins⟩ := s.advance_pins (f.slotAt (f.tiles + 2))
    simp [State.afterTrailer_frameAlive, pins]
  case named => simp [State.afterTrailer_lastFrame]
  case drops => simp [State.afterTrailer_dropsTrailer, State.sendTrailer_dropsTrailer]
  case old =>
    rw [State.stopReply_ctr, State.afterTrailer_ctr]
    exact State.sendTrailer_old _ f b (by simpa using last)
  case armed => simp
  case fab => simp
  case unjudged => simp [State.afterTrailer_lastInvalid, State.trailerInvalid_unjudged unjudged]
  case valid =>
    rw [State.trailerInvalid_valid judged verdict unseen clear list tiles replayed, State.stopReply_saf]
    exact ⟨State.afterTrailer_lastInvalid _ f _ _, State.afterTrailer_valid _ f _ (by simpa using clear)⟩
  case latches =>
    rw [State.trailerInvalid_unjudged unjudged, State.stopReply_saf]
    exact State.afterTrailer_latches _ f _ (State.trailerReasons_unjudged unjudged) (by simpa using since) (by simpa using noRelease)
      (by simpa using another)

end Sys2Proof.Machine
end

section
/-! PROOF of the statement about doorbells. What follows a reply or a doorbell is nothing when no UNMAP_BUFFER is ready and every
waiting opcode is known (`State.settle_none`). -/

namespace Sys2Proof.Machine

/-! ### Nothing waits to be settled -/

/-- The packet whose turn has come is without a reply (R263, R270). -/
theorem Cpx.front_mem {c : Cpx} {ring : Nat} {p : Packet} (front : c.front ring = some p) :
    p ∈ c.packets ∨ ∃ j ∈ c.jobs, p ∈ j.cmds := by
  unfold Cpx.front at front
  split at front
  next j job =>
    split at front
    · exact .inr ⟨j, List.mem_of_find?_eq_some job, List.mem_of_mem_head? front⟩
    · cases front
  next =>
    split at front
    next q found =>
      split at front
      · cases front
      · obtain rfl := Option.some.inj front
        exact .inl (List.mem_of_find?_eq_some found)
    next => cases front

/-- With every waiting opcode known no packet is to be refused as undefined (R269). -/
theorem Cpx.undefinedFront_none {c : Cpx} (packets : ∀ p ∈ c.packets, opKnown p.opcode = true)
    (cmds : ∀ j ∈ c.jobs, ∀ p ∈ j.cmds, opKnown p.opcode = true) : c.undefinedFront = none := by
  refine List.findSome?_eq_none_iff.mpr fun r _ => ?_
  cases front : c.front r.id with
  | none => rfl
  | some p =>
    have known : opKnown p.opcode = true := by
      obtain here | ⟨j, job, here⟩ := Cpx.front_mem front
      · exact packets p here
      · exact cmds j job p here
    simp [known]

/-- With no UNMAP_BUFFER ready to reply nothing is unmapped (R271). -/
theorem State.settleUnmaps_none {s : State} (unmaps : ∀ u ∈ s.cpx.unmaps, u.waits ≠ []) : s.settleUnmaps = s := by
  have ready : s.cpx.unmaps.filter (fun u => u.waits.isEmpty) = [] := by simpa using unmaps
  have rest : s.cpx.unmaps.filter (fun u => !u.waits.isEmpty) = s.cpx.unmaps := by simpa using unmaps
  simp only [State.settleUnmaps, State.onCpx, ready, rest, List.foldl_nil]

/-- With no UNMAP_BUFFER ready and every waiting opcode known, nothing follows. -/
theorem State.settle_none {s : State} (unmaps : ∀ u ∈ s.cpx.unmaps, u.waits ≠ [])
    (packets : ∀ p ∈ s.cpx.packets, opKnown p.opcode = true) (cmds : ∀ j ∈ s.cpx.jobs, ∀ p ∈ j.cmds, opKnown p.opcode = true) :
    s.settle = s := by
  simp [State.settle, State.settleUnmaps_none unmaps, Cpx.undefinedFront_none packets cmds]

theorem State.Quiet.packets {s : State} (h : s.Quiet) : ∀ p ∈ s.cpx.packets, opKnown p.opcode = true :=
  fun p here => h.known p (by simp [Cpx.unrepliedAll, here])

theorem State.Quiet.cmds {s : State} (h : s.Quiet) : ∀ j ∈ s.cpx.jobs, ∀ p ∈ j.cmds, opKnown p.opcode = true :=
  fun j job p here => h.known p (by simp only [Cpx.unrepliedAll, List.mem_append, List.mem_flatMap]; exact .inl (.inr ⟨j, job, here⟩))

/-! ### Rings -/

/-- The ring of a number has that number. -/
theorem Cpx.ring?_id {c : Cpx} {id : Nat} {r : Ring} (ring : c.ring? id = some r) : r.id = id := by
  simpa using List.find?_some ring

/-- A ring's new descriptor stands in its place. -/
theorem Cpx.ring?_putRing {c : Cpx} {id : Nat} {r r' : Ring} (ring : c.ring? id = some r) (same : r'.id = id) :
    (c.putRing r').ring? id = some r' := by
  have keeps : ((fun x : Ring => decide (x.id = id)) ∘ fun x => if x.id = r'.id then r' else x) = fun x => decide (x.id = id) := by
    funext x
    by_cases h : x.id = id <;> simp [same, h]
  have found : c.rings.find? (fun x => x.id = id) = some r := ring
  rw [Cpx.ring?, Cpx.putRing, List.find?_map, keeps, found, Option.map_some, if_pos ((Cpx.ring?_id ring).trans same.symm)]

/-- Of two descriptors put in a ring's place the later stands. -/
theorem Cpx.putRing_putRing (c : Cpx) {r r' : Ring} (same : r.id = r'.id) : (c.putRing r).putRing r' = c.putRing r' := by
  simp only [Cpx.putRing, List.map_map]
  congr 1
  refine List.map_congr_left fun x _ => ?_
  by_cases h : x.id = r'.id <;> simp [same, h]

/-! ### Doorbells -/

/-- A doorbell that is discarded is counted, and sets HOST_ERROR (R253, R435). -/
theorem State.badDoorbell_spec (s : State) (page ring : Nat) : (s.badDoorbell page ring).cpx = s.cpx ∧
    (s.badDoorbell page ring).fab = s.fab ∧ (s.badDoorbell page ring).ctr = s.ctr ∧
    (s.badDoorbell page ring).hif.doorbellErrors = min (s.hif.doorbellErrors + 1) (2 ^ 32 - 1) ∧
    (s.badDoorbell page ring).hif.event.getLsbD causeHost = true := by
  simp [State.badDoorbell, satU, show causeHost < 32 by decide]

/-- What makes a doorbell write good (R253, R259), in the order of its checks. -/
theorem State.ringDoorbell_discards {s : State} {page offset width : Nat} {value : DWord}
    (bad : width ≠ 64 ∨ offset ≠ 0 ∨ s.cpx.client? page = none ∨ value.toNat / 2 ^ 20 % 2 ^ 12 ≠ 0 ∨
      s.cpx.ring? (value.toNat % 2 ^ 20) = none ∨
      ∃ r, s.cpx.ring? (value.toNat % 2 ^ 20) = some r ∧ (r.client ≠ page ∨ r.accepts (value.toNat / 2 ^ 32) = false)) :
    s.ringDoorbell page offset width value = s.badDoorbell page (value.toNat % 2 ^ 20) := by
  simp only [State.ringDoorbell, Option.isNone_iff_eq_none]
  split
  · rfl
  next named =>
    split
    · rfl
    next r ring =>
      obtain ⟨width_, offset_, bits, client⟩ : ¬width ≠ 64 ∧ ¬offset ≠ 0 ∧
          ¬value.toNat / 2 ^ 20 % 2 ^ 12 ≠ 0 ∧ ¬s.cpx.client? page = none := by
        simpa only [not_or] using named
      obtain ⟨r', ring', refused⟩ := ((((bad.resolve_left width_).resolve_left offset_).resolve_left client).resolve_left bits).resolve_left
        (ring ▸ Option.some_ne_none r)
      obtain rfl := Option.some.inj (ring.symm.trans ring')
      exact if_pos (by simpa using refused)

/-- A good doorbell moves the index that the host owns (R253, R259). -/
theorem State.ringDoorbell_moves {s : State} {page : Nat} {value : DWord} {r : Ring} (client : (s.cpx.client? page).isSome = true)
    (bits : value.toNat / 2 ^ 20 % 2 ^ 12 = 0) (ring : s.cpx.ring? (value.toNat % 2 ^ 20) = some r) (owner : r.client = page)
    (accepts : r.accepts (value.toNat / 2 ^ 32) = true) : s.ringDoorbell page 0 64 value =
      if r.kind = .command then s.onCpx fun c => c.putRing { r with tail := value.toNat / 2 ^ 32 }
      else ((s.onCpx fun c => c.putRing { r with head := value.toNat / 2 ^ 32 }).drainOwed).settle := by
  have named : ¬(64 ≠ 64 ∨ 0 ≠ 0 ∨ value.toNat / 2 ^ 20 % 2 ^ 12 ≠ 0 ∨ (s.cpx.client? page).isNone = true) := by
    rw [bits, Option.isNone_iff_eq_none]
    simp [Option.isSome_iff_ne_none.mp client]
  have good : ¬(r.client ≠ page ∨ (!r.accepts (value.toNat / 2 ^ 32)) = true) := by rw [accepts, owner]; simp
  dsimp only [State.ringDoorbell]
  rw [if_neg named, ring]
  exact if_neg good

/-- No reply waits for an entry, so none goes out. -/
theorem State.drainOwed_none {s : State} (owed : s.cpx.owed = []) : s.drainOwed = s := by
  simp only [State.drainOwed, State.onCpx, owed, List.foldl_nil]
  rw [← owed]

/-- Settles O12: `State.ringDoorbell_moves` and `State.ringDoorbell_discards`; a producer's index brings nothing more when nothing
waits (`State.drainOwed_none`, `State.settle_none`). -/
theorem doorbellMovesItsRing : Obligations.DoorbellMovesItsRing := by
  refine ⟨fun page value s r open_ client bits ring owner accepts => ?_, fun page offset width value s open_ bad => ?_,
    fun page offset width s open_ => ?_⟩
  · have moves : exec (.doorbell page 0 64 (some value)) s = .next
        (if r.kind = .command then s.onCpx fun c => c.putRing { r with tail := value.toNat / 2 ^ 32 }
         else ((s.onCpx fun c => c.putRing { r with head := value.toNat / 2 ^ 32 }).drainOwed).settle) := by
      have run : doDoorbell page 0 64 (some value) s = s.ringDoorbell page 0 64 value := by simp [doDoorbell, open_]
      exact congrArg Host.Outcome.next (run.trans (State.ringDoorbell_moves client bits ring owner accepts))
    refine ⟨moves, fun owed quiet kind => ?_⟩
    rw [moves, if_neg kind, State.drainOwed_none (s := s.onCpx fun c => c.putRing { r with head := value.toNat / 2 ^ 32 }) owed]
    exact congrArg Host.Outcome.next (State.settle_none quiet.unmaps quiet.packets quiet.cmds)
  · refine ⟨_, rfl, ?_⟩
    rw [show doDoorbell page offset width (some value) s = s.ringDoorbell page offset width value by simp [doDoorbell, open_],
      State.ringDoorbell_discards bad]
    exact s.badDoorbell_spec page _
  · have up : s.hif.linkUp = true := by simp_all [State.barOpen]
    refine congrArg Host.Outcome.next ?_
    simp [doDoorbell, open_, State.post, State.onHif, up]

end Sys2Proof.Machine
end

section
/-! PROOF of the statement about fetching. A ring's index goes out with its index block, which at most one message follows
(`State.postBlock_spec`). -/

namespace Sys2Proof.Machine

/-! ### An index block and its message -/

/-- A message is at most one posted write, the one of its vector (R255). -/
theorem State.message_sends {s : State} (up : s.hif.linkUp = true) (v : Nat) :
    ∃ sent, (s.message v).hif.posted = s.hif.posted ++ sent ∧ sent.length ≤ 1 ∧ ∀ p ∈ sent, p = .msix v := by
  unfold State.message
  split
  next => exact ⟨[], by simp, by simp, by simp⟩
  next => exact ⟨[.msix v], State.post_posted up _, by simp, by simp⟩

/-- A ring takes a new descriptor and posts its index block; its message follows. -/
def State.postBlock (r : Ring) (i : Nat) (more : Bool) (s : State) : State :=
  ((s.onCpx fun c => c.putRing r).post (r.block i)).ringMessage r.id more

/-- The block goes behind the earlier posted writes, then at most the ring's message; of CPX only the ring changes, with its count
of entries since the last message (R255, R258). -/
theorem State.postBlock_spec {s : State} (up : s.hif.linkUp = true) {r old : Ring} (ring : s.cpx.ring? r.id = some old) (i : Nat)
    (more : Bool) : ∃ n sent, (s.postBlock r i more).cpx = s.cpx.putRing { r with sinceMsg := n } ∧
      (s.postBlock r i more).hif.posted = s.hif.posted ++ [r.block i] ++ sent ∧ sent.length ≤ 1 ∧ (∀ p ∈ sent, p = .msix r.vector) ∧
      (s.postBlock r i more).hif.linkUp = true := by
  have stands : ((s.onCpx fun c => c.putRing r).post (r.block i)).cpx.ring? r.id = some r := Cpx.ring?_putRing ring rfl
  have posted : ((s.onCpx fun c => c.putRing r).post (r.block i)).hif.posted = s.hif.posted ++ [r.block i] :=
    State.post_posted (s := s.onCpx fun c => c.putRing r) up _
  have up' : ((s.onCpx fun c => c.putRing r).post (r.block i)).hif.linkUp = true := by simpa using up
  simp only [State.postBlock, State.ringMessage, stands]
  split
  · obtain ⟨sent, out, one, which⟩ :=
      State.message_sends (s := ((s.onCpx fun c => c.putRing r).post (r.block i)).onCpx fun c => c.putRing { r with sinceMsg := 0 }) up' r.vector
    refine ⟨0, sent, ?_, out.trans (congrArg (· ++ sent) posted), one, which, by simpa using up⟩
    rw [State.message_cpx]
    exact Cpx.putRing_putRing s.cpx rfl
  · exact ⟨r.sinceMsg, [], rfl, by rw [posted, List.append_nil], by simp, by simp, up'⟩

/-- An event keeps what is posted (R249). -/
theorem State.note_posted {s : State} (up : s.hif.linkUp = true) (code sev unit p q r : Nat) :
    ∀ x ∈ s.hif.posted, x ∈ (s.note code sev unit p q r).hif.posted := by
  intro x here
  rw [State.note_hif]
  split
  · simp only [State.raise]
    split
    · obtain ⟨sent, out, -⟩ := State.message_sends (s := s.onHif fun h => { h with event := h.event ||| (1#32 <<< causeHost) }) up 0
      rw [out]
      exact List.mem_append_left _ here
    · exact here
  · exact here

/-! ### Fetching -/

/-- The opcode is the packet's first byte (Table 10.5). -/
theorem Packet.opcode_eq (p : Packet) : p.opcode = p.bits.toNat % 256 := by simp [Packet.opcode, Packet.u]

theorem State.readFailed_eq {s : State} {ring : Nat} {r : Ring} (header : BitVec 128) (found : s.cpx.ring? ring = some r)
    (kind : r.kind = .command) (fine : r.error = false) : s.readFailed ring header =
      ((s.postBlock { r with error := true } r.head (decide (r.head ≠ r.tail))).note 0x7004 sevError noUnit ring 0 0).post (.aer header) := by
  simp [State.readFailed, found, kind, fine, State.postBlock, Cpx.ring?_id found]

/-- Settles O13: a fetch is the ring's index block (`State.postBlock_spec`) and one packet more, which settles nothing; a failed read
is the block with ERROR, its event and the header. -/
theorem packetsAreFetchedInRingOrder : Obligations.PacketsAreFetchedInRingOrder := by
  refine ⟨fun ring bits s r found on up kind fine ahead room room' noJob quiet known => ?_,
    fun ring header s r found on up kind fine => ?_, fun header s on up => ?_⟩
  · let r' : Ring := { r with head := idxNext r.head, sinceMsg := r.sinceMsg + 1 }
    let pk : Packet := { ring := r.id, pos := r.head, bits := bits, cmdIdx := none, client := r.client, started := none }
    have id : r.id = ring := Cpx.ring?_id found
    obtain ⟨n, sent, cpx, posted, one, which, -⟩ :=
      State.postBlock_spec up (r := r') (id ▸ found) r'.head (decide (r'.head ≠ r.tail))
    have fab : (s.postBlock r' r'.head (decide (r'.head ≠ r.tail))).fab = s.fab := by simp [State.postBlock]
    have ctr : (s.postBlock r' r'.head (decide (r'.head ≠ r.tail))).ctr = s.ctr := by simp [State.postBlock]
    have run : doPacketFetch ring bits s = ((s.postBlock r' r'.head (decide (r'.head ≠ r.tail))).enqueue pk).settle := by
      simp only [doPacketFetch, found, on, up, kind, fine]
      simp [ahead, room, room', State.fetchPacket, State.postBlock, r', pk]
    generalize s.postBlock r' r'.head (decide (r'.head ≠ r.tail)) = u at *
    have waits : u.enqueue pk = u.onCpx fun c => { c with packets := c.packets ++ [pk] } := by
      have free : u.cpx.job? pk.ring = none := by rw [cpx]; exact (congrArg s.cpx.job? id).trans noJob
      simp [State.enqueue, free]
    have still : (u.enqueue pk).settle = u.enqueue pk := by
      rw [waits]
      refine State.settle_none ?_ ?_ ?_
      · rw [State.onCpx_cpx, cpx]; exact quiet.unmaps
      · intro p here
        rw [State.onCpx_cpx, cpx] at here
        obtain old | new := List.mem_append.mp here
        · exact quiet.packets p old
        · rw [List.mem_singleton.mp new, Packet.opcode_eq]
          exact known
      · rw [State.onCpx_cpx, cpx]; exact quiet.cmds
    rw [still, waits] at run
    refine ⟨_, n, sent, congrArg Host.Outcome.next run, ?_, ?_, one, which, ?_, ?_⟩
    · rw [State.onCpx_cpx, cpx]; rfl
    · simpa [Ring.block, Ring.blockAddr, RingKind.entrySize, kind, fine, r'] using posted
    · exact fab
    · exact ctr
  · have id : r.id = ring := Cpx.ring?_id found
    obtain ⟨n, sent, cpx, posted, -, -, up'⟩ :=
      State.postBlock_spec up (r := { r with error := true }) (id ▸ found) r.head (decide (r.head ≠ r.tail))
    have run : doReadError (.fetch ring header) s =
        ((s.postBlock { r with error := true } r.head (decide (r.head ≠ r.tail))).note 0x7004 sevError noUnit ring 0 0).post
          (.aer header) := by
      rw [← State.readFailed_eq header found kind fine]
      simp [doReadError, on, up]
    have fab : (s.postBlock { r with error := true } r.head (decide (r.head ≠ r.tail))).fab = s.fab := by simp [State.postBlock]
    have ctr : (s.postBlock { r with error := true } r.head (decide (r.head ≠ r.tail))).ctr = s.ctr := by simp [State.postBlock]
    generalize s.postBlock { r with error := true } r.head (decide (r.head ≠ r.tail)) = u at *
    have up'' : (u.note 0x7004 sevError noUnit ring 0 0).hif.linkUp = true := by simp [up']
    refine ⟨_, n, congrArg Host.Outcome.next run, by simpa using cpx, ?_, ?_, by simp [show causeHost < 32 by decide], by simpa using fab,
      by simpa using ctr⟩
    · rw [State.post_posted up'']
      refine List.mem_append_left _ (State.note_posted up' _ _ _ _ _ _ _ ?_)
      simp [posted, Ring.block, Ring.blockAddr, RingKind.entrySize, kind, id]
    · rw [State.post_posted up'']
      simp
  · refine congrArg Host.Outcome.next ?_
    simp [doReadError, on, up, State.post, State.onHif]

end Sys2Proof.Machine
end

section
/-! PROOF that the statement about replies fails: a command of a job that stands at the packet's own position escapes its premise on
undefined opcodes, and its refusal is written behind the reply. -/

namespace Sys2Proof.Machine

/-- A command ring of client 1 and its completion ring. -/
def pairedRing (id : Nat) (kind : RingKind) (link : Nat) : Ring :=
  { id := id, kind := kind, irq := false, error := false, client := 1, entries := 8, base := 0, head := 0, tail := 0, link := link,
    vector := 1, coalesce := 0, sinceMsg := 0, spans := [] }

/-- A job's command with an opcode that Table 10.9 lacks. -/
def undefinedCmd : Packet := { ring := 0x1000, pos := 0, bits := 0xFF, cmdIdx := some 0, client := 1, started := none }

/-- QUERY_CAPS outside a job, with the ring and the position of `undefinedCmd`. -/
def queryNamesake : Packet := { ring := 0x1000, pos := 0, bits := 0x02, cmdIdx := none, client := 1, started := some 0 }

/-- A RUNNING job whose next command is `undefinedCmd`. -/
def undefinedJob : Job :=
  { ring := 0x1000, client := 1, state := .running, submit := undefinedCmd, cache := false, aperture := 0, cmds := [undefinedCmd],
    fetched := 1, breaks := [], ended := false, since := 0, visible := [], okCount := 0, badCount := 0, banks := [], segs := [],
    pool := none, joined := false, preempts := 0, killed := false }

/-- The part with the link up, that job, and its rings. -/
def undefinedWaits : State :=
  { State.reset with
    hif := { Hif.reset with linkUp := true }
    cpx := { Cpx.reset with rings := [pairedRing 0x1000 .command 0x1001, pairedRing 0x1001 .completion 0], jobs := [undefinedJob] } }

/-- Two entries are written: the reply, and the refusal of `undefinedCmd`. -/
theorem undefinedWaits_twoEntries :
    ((undefinedWaits.reply queryNamesake stDone 0 0).cpx.ring? 0x1001).map Ring.tail = some 2 := by decide +kernel

/-- Refutes O14: `undefinedCmd` stands at the packet's own ring and position, so no premise speaks of it; the reply brings its refusal,
and the completion ring's tail advances by two. -/
theorem not_replyIsWrittenThenIndexed : ¬ Obligations.ReplyIsWrittenThenIndexed := by
  intro holds
  obtain ⟨written, -⟩ := holds undefinedWaits queryNamesake (pairedRing 0x1001 .completion 0) stDone 0 0 rfl rfl (by decide +kernel)
    (by decide +kernel) (by decide +kernel) (by decide +kernel) (by decide +kernel)
  obtain ⟨_, _, _, _, _, _, q, ring, tail, -⟩ := written (.inl rfl)
  have two := undefinedWaits_twoEntries
  rw [show (undefinedWaits.reply queryNamesake stDone 0 0).cpx.ring? 0x1001 = some q from ring, Option.map_some, tail] at two
  exact absurd two (by decide)

end Sys2Proof.Machine
end

section
/-! PROOF of the statement about BAR4. The bytes of a write land one after another (`State.bar4Put`), each where its line is
HOST_SHARED. -/

namespace Sys2Proof.Machine

/-! ### Writing through BAR4 -/

/-- One byte of a BAR4 write, at its address. -/
def State.bar4Poke (s : State) (p : Nat × Fab) (x : Byte) : Nat × Fab :=
  (p.1 + 1, if s.bar4Ok p.1 then p.2.poke .dram p.1 x else p.2)

/-- After a BAR4 write a byte of LPDDR5X is the one written to its address, where that is HOST_SHARED, and any other byte of any memory
is as before. -/
theorem State.bar4Put_peek (s : State) (sp : Space) (y : Nat) (b : List Byte) {a : Nat} {f : Fab} (canon : f.Canonical) :
    (b.foldl s.bar4Poke (a, f)).2.peek sp y =
      if (sp = .dram ∧ s.bar4Ok y = true) ∧ a ≤ y ∧ y < a + b.length then b.getD (y - a) 0 else f.peek sp y := by
  induction b generalizing a f with
  | nil => simp
  | cons x r ih =>
    have canon' : (s.bar4Poke (a, f) x).2.Canonical := by
      unfold State.bar4Poke
      dsimp only
      split
      · exact Fab.poke_canon canon
      · exact canon
    have first : (s.bar4Poke (a, f) x).2.peek sp y = if (sp = .dram ∧ s.bar4Ok y = true) ∧ y = a then x else f.peek sp y := by
      unfold State.bar4Poke
      dsimp only
      split
      next ok => rw [Fab.peek_poke canon]; by_cases h : y = a <;> simp [h, ok]
      next no => by_cases h : y = a <;> simp [h, no]
    rw [List.foldl_cons, show s.bar4Poke (a, f) x = (a + 1, (s.bar4Poke (a, f) x).2) from rfl, ih canon', first]
    by_cases reach : sp = .dram ∧ s.bar4Ok y = true
    · obtain rfl | ne := eq_or_ne y a
      · simp [reach]
      · by_cases later : a + 1 ≤ y ∧ y < a + 1 + r.length
        · rw [if_pos ⟨reach, later⟩, if_pos ⟨reach, by simp at later ⊢; omega⟩, show y - a = y - (a + 1) + 1 by omega]
          simp
        · rw [if_neg fun h => later h.2, if_neg fun h => ne h.2, if_neg fun h => later (by simp at h ⊢; omega)]
    · simp [reach]

/-- The event of a BAR4 access that meets another tag below usable memory (R146). -/
def State.bar4Event (a n : Nat) (s : State) : State :=
  match (linesOf a n).find? fun l => decide (l < s.mss.usable) && s.mss.tagAt l ≠ tagShared with
  | some l => s.note 0x7006 sevWarning noUnit (max l a % 2 ^ 32) (max l a / 2 ^ 32) 0
  | none => s

theorem State.bar4Event_keeps {α : Type} (proj : State → α) (note : ∀ (t : State) c v u p q r, proj (t.note c v u p q r) = proj t)
    (s : State) (a n : Nat) : proj (s.bar4Event a n) = proj s := by
  unfold State.bar4Event
  split
  · exact note _ _ _ _ _ _ _
  · rfl

theorem doBar4Access_write {s : State} {off : Nat} {b : List Byte} (open_ : s.barOpen = true) (inside : off + b.length ≤ 0x40000000)
    (n : Nat) : doBar4Access off (some b) n s =
      (s.bar4Event (s.hif.bar4Window.toNat + off) b.length).onFab fun f =>
        (b.foldl (s.bar4Event (s.hif.bar4Window.toNat + off) b.length).bar4Poke (s.hif.bar4Window.toNat + off, f)).2 := by
  simp only [doBar4Access, open_]
  rw [if_neg (by simpa using inside)]
  rfl

theorem doBar4Access_read {s : State} {off n : Nat} (open_ : s.barOpen = true) (inside : off + n ≤ 0x40000000) :
    doBar4Access off none n s =
      let t := s.bar4Event (s.hif.bar4Window.toNat + off) n
      t.post (.readData ((List.range n).map fun i => if t.bar4Ok (s.hif.bar4Window.toNat + off + i)
        then t.fab.peek .dram (s.hif.bar4Window.toNat + off + i) else 0)) := by
  simp only [doBar4Access, open_]
  rw [if_neg (by simpa using inside)]
  rfl

/-- Settles O10: a write is `State.bar4Put_peek` after its event, a read one completion after it. -/
theorem bar4ReachesTheWindow : Obligations.Bar4ReachesTheWindow := by
  refine ⟨fun off b n s canon open_ inside => ?_, fun off n s open_ inside => ?_, fun v s open_ => ?_⟩
  · refine ⟨_, congrArg Host.Outcome.next (doBar4Access_write open_ inside n), ?_⟩
    set a := s.hif.bar4Window.toNat + off with ha
    set u := s.bar4Event a b.length with hu
    have fab : u.fab = s.fab := s.bar4Event_keeps State.fab (by simp) a _
    have mss : u.mss = s.mss := s.bar4Event_keeps State.mss (by simp) a _
    have ok : ∀ y, u.bar4Ok y = decide (s.mss.tagAt (64 * (y / 64)) = tagShared) := fun y => by rw [State.bar4Ok, mss]
    have peek : ∀ sp y, (u.onFab fun f => (b.foldl u.bar4Poke (a, f)).2).fab.peek sp y =
        if (sp = .dram ∧ u.bar4Ok y = true) ∧ a ≤ y ∧ y < a + b.length then b.getD (y - a) 0 else s.fab.peek sp y := fun sp y => by
      rw [State.onFab_fab, State.bar4Put_peek u sp y b (fab ▸ canon.fab), fab]
    refine ⟨fun i lt tag => ?_, fun y other => ?_, fun sp y chip => ?_, s.bar4Event_keeps State.cpx (by simp) a _, mss,
      s.bar4Event_keeps State.sec (by simp) a _, s.bar4Event_keeps State.flash (by simp) a _, s.bar4Event_keeps State.saf (by simp) a _,
      s.bar4Event_keeps State.pins (by simp) a _⟩
    · rw [peek, if_pos ⟨⟨rfl, by simpa [ok] using tag⟩, by omega, by omega⟩, Nat.add_sub_cancel_left]
    · rw [peek, if_neg]
      rintro ⟨⟨-, shared⟩, low, high⟩
      exact other (y - a) (by omega) (by omega) (by simpa [ok] using shared)
    · rw [peek, if_neg fun h => chip h.1.1]
  · refine ⟨_, congrArg Host.Outcome.next (doBar4Access_read open_ inside), ?_⟩
    dsimp only
    set a := s.hif.bar4Window.toNat + off with ha
    have fab : (s.bar4Event a n).fab = s.fab := s.bar4Event_keeps State.fab (by simp) a _
    have mss : (s.bar4Event a n).mss = s.mss := s.bar4Event_keeps State.mss (by simp) a _
    have up : (s.bar4Event a n).hif.linkUp = true := by
      rw [s.bar4Event_keeps (fun t => t.hif.linkUp) (fun t c v u p q r => by rw [State.note_hif]; split <;> simp) a n]
      simp_all [State.barOpen]
    refine ⟨fab, s.bar4Event_keeps State.cpx (by simp) a n, (s.bar4Event a n).hif.posted, ?_⟩
    rw [State.post_posted up]
    simp only [State.bar4Ok, mss, fab, decide_eq_true_eq]
  · refine ⟨_, congrArg Host.Outcome.next (show doHifBar4WindowWrite v s = _ from if_pos open_), rfl, ?_⟩
    simp only [State.onHif_hif, BitVec.toNat_and]
    rw [show (0x4000000 : Nat) = 2 ^ 26 from rfl, Nat.and_mod_two_pow, show (~~~0x3FFFFFF#64).toNat % 2 ^ 26 = 0 by decide, Nat.and_zero]

end Sys2Proof.Machine
end

section
/-! PROOF of the statement about common refusals: what an admitted packet is, rule by rule (`State.gate_none`), and that each
command that starts outside a job starts by `State.runPacket`. -/

namespace Sys2Proof.Machine

/-! ### Admitted packets -/

/-- A packet without a stray byte has only FLAGS bit 0, and zero in every byte that its opcode does not use (R261). -/
theorem Packet.strayByte_none {pk : Packet} (clean : pk.strayByte = none) : pk.u 1 1 ≤ 1 ∧
    ∀ o, 0x10 ≤ o → o < 0x40 → (∀ f ∈ opFields pk.opcode, o < f.1 ∨ f.1 + f.2 ≤ o) → pk.u o 1 = 0 := by
  unfold Packet.strayByte at clean
  split at clean
  · cases clean
  next flags =>
    refine ⟨by omega, fun o low high unused => ?_⟩
    have here : o ∈ (List.range 48).map fun i => 0x10 + i := List.mem_map.mpr ⟨o - 0x10, List.mem_range.mpr (by omega), by omega⟩
    have none_ := List.find?_eq_none.mp clean o here
    have outside : (opFields pk.opcode).any (fun f => decide (f.1 ≤ o) && decide (o < f.1 + f.2)) = false := by
      rw [List.any_eq_false]
      intro f field
      have := unused f field
      simp
      omega
    simpa [outside] using none_

/-- A packet that no common rule refuses passes each of them (R261, R265-R267, R269, R270). -/
theorem State.gate_none {s : State} {pk : Packet} (admitted : s.gate pk = none) :
    (pk.opcode ≠ 0x01 → s.cpx.proto pk.client ≠ 0 ∧ opIn (s.cpx.proto pk.client) pk.opcode = true) ∧
    (opAdmin pk.opcode = true → pk.ring = adminCmd) ∧ pk.cmdIdx.isSome = opInJob pk.opcode ∧ pk.cmdIndex = pk.cmdIdx.getD 0 ∧
    pk.strayByte = none := by
  simp only [State.gate] at admitted
  split at admitted
  · cases admitted
  next hello =>
  split at admitted
  · cases admitted
  next alone =>
  split at admitted
  · cases admitted
  next version =>
  split at admitted
  · cases admitted
  next admin =>
  split at admitted
  · cases admitted
  split at admitted
  · cases admitted
  next inJob =>
  split at admitted
  · cases admitted
  next index =>
  refine ⟨fun other => ⟨fun none_ => hello ⟨other, none_⟩, by simpa [other] using version⟩,
    fun only => by simpa [only] using admin, ?_, not_not.mp index, Option.map_eq_none_iff.mp admitted⟩
  cases idx : pk.cmdIdx <;> simp_all

/-! ### Refused packets -/

/-- The commands that a packet outside a job starts, with their opcodes (Table 10.9). -/
def startRows (ring : Nat) : List (Instr × Nat) :=
  [(.hello ring, 0x01), (.queryCaps ring, 0x02), (.openClient ring, 0x10), (.closeClient ring, 0x11),
    (.createRing ring, 0x12), (.destroyRing ring, 0x13), (.armContract ring, 0x21), (.launchAt ring, 0x22),
    (.stopFrames ring, 0x23), (.submitJob ring, 0x30), (.setCapacity ring, 0x34), (.mapBuffer ring, 0x40),
    (.unmapBuffer ring, 0x41), (.timeConfig ring, 0x52), (.timeAcceptStep ring, 0x53), (.logRead ring, 0x60),
    (.statsRead ring, 0x62), (.checkerSplit ring, 0x90), (.checkerJoin ring, 0x91), (.discover ring, 0xA0)]

/-- Each of them runs the front packet of its ring. -/
theorem exec_startRows {c : Instr} {ring op : Nat} (row : (c, op) ∈ startRows ring) :
    ∃ body, ∀ s, exec c s = .next (s.runPacket ring op body) := by
  fin_cases row <;> exact ⟨_, fun _ => rfl⟩

/-- Settles O15: `State.gate_none` with `Packet.strayByte_none`, and `State.Refuses.run` for the commands of `exec_startRows`. -/
theorem commonRefusalsOnlyReply : Obligations.CommonRefusalsOnlyReply := by
  refine ⟨fun s pk admitted => ?_, fun c ring op s pk st dt row refuses => ?_⟩
  · obtain ⟨version, admin, inJob, index, clean⟩ := State.gate_none admitted
    exact ⟨version, admin, inJob, index, Packet.strayByte_none clean⟩
  · obtain ⟨body, run⟩ := exec_startRows row
    rw [run, refuses.run]

end Sys2Proof.Machine
end

section
/-! PROOF of the statement about HELLO: `chooseVersions` answers the highest common versions, or the first interface without one. -/

namespace Sys2Proof.Machine

/-! ### The highest common version -/

/-- Does a version lie in the range that a HELLO offers. -/
def inRange (lo hi v : Nat) : Bool := decide (lo ≤ v) && decide (v ≤ hi)

theorem inRange_iff {lo hi v : Nat} : inRange lo hi v = true ↔ lo ≤ v ∧ v ≤ hi := by simp [inRange]

/-- In a list of versions, highest first, the first one in a range is the highest one in it. -/
theorem find?_bestVersion {l : List Nat} (falling : l.Pairwise (· > ·)) {lo hi v : Nat} :
    l.find? (inRange lo hi) = some v ↔ BestVersion l lo hi v := by
  induction falling with
  | nil => simp [BestVersion]
  | @cons x r below _ ih =>
    rw [List.find?_cons]
    cases range : inRange lo hi x with
    | true =>
      obtain ⟨low, high⟩ := inRange_iff.mp range
      constructor
      · rintro ⟨⟩
        refine ⟨⟨List.mem_cons_self, low, high⟩, fun w here _ _ => ?_⟩
        obtain rfl | later := List.mem_cons.mp here
        · exact le_rfl
        · exact (below w later).le
      · rintro ⟨⟨here, -, -⟩, best⟩
        have above : x ≤ v := best x List.mem_cons_self low high
        obtain rfl | later := List.mem_cons.mp here
        · rfl
        · exact absurd (below v later) (by omega)
    | false =>
      have out : ∀ w, w = x → ¬(lo ≤ w ∧ w ≤ hi) := fun w same range' => by
        rw [same, ← inRange_iff, range] at range'
        exact Bool.false_ne_true range'
      refine ih.trans ⟨fun ⟨⟨here, range'⟩, best⟩ => ⟨⟨List.mem_cons_of_mem _ here, range'⟩, fun w here' low high => ?_⟩,
        fun ⟨⟨here, range'⟩, best⟩ => ⟨⟨?_, range'⟩, fun w here' => best w (List.mem_cons_of_mem _ here')⟩⟩
      · exact best w ((List.mem_cons.mp here').resolve_left fun same => out w same ⟨low, high⟩) low high
      · exact (List.mem_cons.mp here).resolve_left fun same => out v same range'

/-- The highest version in a range does not depend on the order in which the versions are listed. -/
theorem find?_reverse_bestVersion {l : List Nat} (rising : l.Pairwise (· < ·)) {lo hi v : Nat} :
    l.reverse.find? (inRange lo hi) = some v ↔ BestVersion l lo hi v :=
  (find?_bestVersion (List.pairwise_reverse.mpr rising)).trans (by simp only [BestVersion, List.mem_reverse])

theorem find?_reverse_none {l : List Nat} (rising : l.Pairwise (· < ·)) {lo hi : Nat} :
    l.reverse.find? (inRange lo hi) = none ↔ ¬ ∃ v, BestVersion l lo hi v := by
  rw [Option.eq_none_iff_forall_ne_some, not_exists]
  exact forall_congr' fun v => not_congr (find?_reverse_bestVersion rising)

/-! ### The versions that HELLO chooses -/

/-- Versions of the host protocol, the contract format and the tile record, lowest first (Tables 10.7, 3.1, 9.2). -/
def helloProtos : List Nat := [0x100, 0x200, 0x201, 0x202, 0x203]

theorem chooseVersions_eq (pk : Packet) : chooseVersions pk =
    match helloProtos.reverse.find? (inRange (pk.u 0x10 2) (pk.u 0x12 2)) with
    | none => .error 0
    | some p => match [3, 4].reverse.find? (inRange (pk.u 0x14 1) (pk.u 0x15 1)) with
      | none => .error 1
      | some c => match [1, 2].reverse.find? (inRange (pk.u 0x16 1) (pk.u 0x17 1)) with
        | none => .error 2
        | some t => .ok { proto := p, contract := c, tile := t } := rfl

section
variable {pk : Packet} {p c t : Nat}

theorem chooseVersions_ok (proto : BestVersion helloProtos (pk.u 0x10 2) (pk.u 0x12 2) p)
    (contract : BestVersion [3, 4] (pk.u 0x14 1) (pk.u 0x15 1) c) (tile : BestVersion [1, 2] (pk.u 0x16 1) (pk.u 0x17 1) t) :
    chooseVersions pk = .ok { proto := p, contract := c, tile := t } := by
  rw [chooseVersions_eq, (find?_reverse_bestVersion (by decide)).mpr proto]
  dsimp only
  rw [(find?_reverse_bestVersion (by decide)).mpr contract]
  dsimp only
  rw [(find?_reverse_bestVersion (by decide)).mpr tile]

theorem chooseVersions_noProto (proto : ¬ ∃ p, BestVersion helloProtos (pk.u 0x10 2) (pk.u 0x12 2) p) : chooseVersions pk = .error 0 := by
  rw [chooseVersions_eq, (find?_reverse_none (by decide)).mpr proto]

theorem chooseVersions_noContract (proto : BestVersion helloProtos (pk.u 0x10 2) (pk.u 0x12 2) p)
    (contract : ¬ ∃ c, BestVersion [3, 4] (pk.u 0x14 1) (pk.u 0x15 1) c) : chooseVersions pk = .error 1 := by
  rw [chooseVersions_eq, (find?_reverse_bestVersion (by decide)).mpr proto]
  dsimp only
  rw [(find?_reverse_none (by decide)).mpr contract]

theorem chooseVersions_noTile (proto : BestVersion helloProtos (pk.u 0x10 2) (pk.u 0x12 2) p)
    (contract : BestVersion [3, 4] (pk.u 0x14 1) (pk.u 0x15 1) c) (tile : ¬ ∃ t, BestVersion [1, 2] (pk.u 0x16 1) (pk.u 0x17 1) t) :
    chooseVersions pk = .error 2 := by
  rw [chooseVersions_eq, (find?_reverse_bestVersion (by decide)).mpr proto]
  dsimp only
  rw [(find?_reverse_bestVersion (by decide)).mpr contract]
  dsimp only
  rw [(find?_reverse_none (by decide)).mpr tile]

end

section
variable {s : State} {ring : Nat} {pk : Packet} (starts : s.Starts ring 0x01 pk)
include starts

theorem doHello_busy (busy : s.cpx.clientBusy pk = true) : doHello ring s = (s.markStarted pk).bad (s.begun pk) 0 := by
  rw [doHello, starts.run]
  exact if_pos ((s.markStarted_clientBusy pk (s.begun pk)).trans busy)

/-- HELLO of a client that is not busy goes by the versions chosen (R266). -/
theorem doHello_free (free : s.cpx.clientBusy pk = false) : doHello ring s = match chooseVersions pk with
    | .error i => (s.markStarted pk).reply (s.begun pk) stVersion i rangesResult
    | .ok v => ((s.markStarted pk).onCpx fun c => match c.client? pk.client with
      | some x => c.putClient { x with versions := some v }
      | none => c).done (s.begun pk) v.result := by
  rw [doHello, starts.run, if_neg (by simpa using (s.markStarted_clientBusy pk (s.begun pk)).trans free),
    show chooseVersions (s.begun pk) = chooseVersions pk from rfl]
  rfl

end

/-- Settles O16: the client's versions are what `chooseVersions` answers, by its lemma for each case. -/
theorem helloNegotiatesVersions : Obligations.HelloNegotiatesVersions := by
  refine fun s ring pk starts => ⟨fun x p c t free client proto contract tile => ?_, fun i free cases => ?_, fun busy =>
    congrArg Host.Outcome.next (doHello_busy starts busy)⟩
  · refine congrArg Host.Outcome.next ((doHello_free starts free).trans ?_)
    rw [chooseVersions_ok proto contract tile]
    dsimp only
    congr 1
    simp only [State.onCpx, State.markStarted_client?, client]
  · refine congrArg Host.Outcome.next ((doHello_free starts free).trans ?_)
    obtain ⟨rfl, noProto⟩ | ⟨rfl, ⟨p, proto⟩, noContract⟩ | ⟨rfl, ⟨p, proto⟩, ⟨c, contract⟩, noTile⟩ := cases
    · rw [chooseVersions_noProto noProto]
    · rw [chooseVersions_noContract proto noContract]
    · rw [chooseVersions_noTile proto contract noTile]

end Sys2Proof.Machine
end

section
/-! PROOF of the statement about QUERY_CAPS: the block is its fields one after another (`State.capsFields`). -/

namespace Sys2Proof.Machine

/-- The fields of the capability block in their order (Table 10.8), the bytes that the table does not list among them. -/
def State.capsFields (s : State) : List (List Byte) :=
  [leBytes 2 0x0880, leBytes 1 0xA1, leBytes 1 s.sec.order, leBytes 2 s.sec.floor, leBytes 2 s.pwr.hostRate, leBytes 1 1, leBytes 1 2,
    leBytes 1 s.pwr.state.code, leBytes 1 s.cpx.qmCores.toNat, leBytes 4 0x02010403, leBytes 8 s.mss.usable, leBytes 2 s.mss.dataRate,
    leBytes 1 s.hif.linkSpeed, leBytes 1 s.hif.linkWidth, leBytes 2 (4095 - (s.cpx.clients.filter fun c => c.id ≠ 0).length), leBytes 2 0,
    leBytes 4 s.freeRings, leBytes 4 s.mss.fwVersion, leBytes 4 s.sec.rollback, leBytes 4 0, leBytes 8 Config.deviceId.toNat,
    List.replicate 200 0#8]

theorem State.capsBlock_eq (s : State) : s.capsBlock = s.capsFields.flatten := by
  unfold State.capsBlock State.capsFields
  simp only [List.flatten_cons, List.flatten_nil, List.append_nil]
  simp only [List.append_assoc]

/-- Of fields in a row, `k` from the `i`-th stand behind the lengths of those before them. -/
theorem drop_flatten {α : Type} (l : List (List α)) (i k off n : Nat) (before : (l.take i).flatten.length = off)
    (size : ((l.drop i).take k).flatten.length = n) : (l.flatten.drop off).take n = ((l.drop i).take k).flatten := by
  have split : l.flatten = (l.take i).flatten ++ (((l.drop i).take k).flatten ++ ((l.drop i).drop k).flatten) := by
    simp only [← List.flatten_append, List.take_append_drop]
  rw [split, ← before, ← size, List.drop_left, List.take_left]

/-- Settles O17: the reply follows the block (`State.Starts.run`), whose fields `drop_flatten` finds in `State.capsFields`. -/
theorem queryCapsWritesTheBlock : Obligations.QueryCapsWritesTheBlock := by
  refine ⟨fun s ring pk starts dest => ?_, fun s => ?_⟩
  · refine congrArg Host.Outcome.next ?_
    rw [doQueryCaps, starts.run]
    exact if_neg (by simp [aligned64, dest])
  · have field := drop_flatten s.capsFields
    have rest : s.capsFields.flatten.drop 56 = List.replicate 200 0#8 := by
      have last : ((s.capsFields.drop 21).take 1).flatten = List.replicate 200 0#8 := by simp [State.capsFields, -List.reduceReplicate]
      have whole := field 21 1 56 200 (by simp [State.capsFields, -List.reduceReplicate]) (by simp [State.capsFields, -List.reduceReplicate])
      rwa [last, List.take_of_length_le (by simp [State.capsFields, -List.reduceReplicate])] at whole
    rw [s.capsBlock_eq]
    refine ⟨by simp [State.capsFields, -List.reduceReplicate], (field 0 1 0 2 ?_ ?_).trans ?_,
      (field 1 2 2 2 ?_ ?_).trans ?_, (field 3 2 4 4 ?_ ?_).trans ?_,
      (field 5 4 8 4 ?_ ?_).trans ?_, (field 9 2 12 12 ?_ ?_).trans ?_, (field 11 4 24 6 ?_ ?_).trans ?_, (field 15 1 30 2 ?_ ?_).trans ?_,
      (field 16 3 32 12 ?_ ?_).trans ?_, (field 19 1 44 4 ?_ ?_).trans ?_, (field 20 1 48 8 ?_ ?_).trans ?_, rest⟩
    all_goals simp [State.capsFields, -List.reduceReplicate, Sec.order, Sec.floor]
    all_goals rfl

end Sys2Proof.Machine
end

section
/-! PROOF of the statement about CREATE_RING: its parameters are judged one after another, and the number that it takes is the lowest free
one (`State.freeRing_lowest`). -/

namespace Sys2Proof.Machine

/-! ### The lowest free number -/

/-- The numbers at which a gap between used ones may begin. -/
def State.ringStarts (s : State) : List Nat :=
  0x1000 :: (s.cpx.rings.map (fun r => r.id + 1) ++ s.ctr.ringRanges.map fun p => p.1 + p.2)

theorem State.ringUsed_iff {s : State} {id : Nat} : s.ringUsed id = true ↔
    (∃ r ∈ s.cpx.rings, r.id = id) ∨ ∃ p ∈ s.ctr.ringRanges, p.1 ≤ id ∧ id < p.1 + p.2 := by
  simp [State.ringUsed]

/-- A free number above a used one begins a gap. -/
theorem State.ringStarts_above {s : State} {id : Nat} (used : s.ringUsed id = true) (free : s.ringUsed (id + 1) = false) :
    id + 1 ∈ s.ringStarts := by
  refine List.mem_cons_of_mem _ (List.mem_append.mpr ?_)
  obtain ⟨r, ring, rfl⟩ | ⟨p, range, low, high⟩ := State.ringUsed_iff.mp used
  · exact .inl (List.mem_map.mpr ⟨r, ring, rfl⟩)
  · have out : ¬(p.1 ≤ id + 1 ∧ id + 1 < p.1 + p.2) := fun inside => by
      rw [State.ringUsed_iff.mpr (.inr ⟨p, range, inside⟩)] at free
      exact Bool.noConfusion free
    exact .inr (List.mem_map.mpr ⟨p, range, by omega⟩)

/-- Every free number has a gap's beginning at or below it that is free. -/
theorem State.exists_ringStart {s : State} (n : Nat) (free : s.ringUsed (0x1000 + n) = false) :
    ∃ i ∈ s.ringStarts, 0x1000 ≤ i ∧ i ≤ 0x1000 + n ∧ s.ringUsed i = false := by
  induction n with
  | zero => exact ⟨0x1000, List.mem_cons_self, le_rfl, le_rfl, free⟩
  | succ n ih =>
    cases below : s.ringUsed (0x1000 + n) with
    | true => exact ⟨0x1000 + n + 1, State.ringStarts_above below free, by omega, le_rfl, free⟩
    | false =>
      obtain ⟨i, start, low, high, unused⟩ := ih below
      exact ⟨i, start, low, by omega, unused⟩

/-- The number that CREATE_RING takes is the least free one of the gaps' beginnings. -/
theorem State.freeRing_eq (s : State) :
    s.freeRing = (s.ringStarts.filter fun i => decide (0x1000 ≤ i) && decide (i < 0x100000) && !s.ringUsed i).min? := by
  unfold State.freeRing State.ringStarts
  dsimp only
  split
  next none_ => rw [none_]; rfl
  next some_ => rw [some_, List.min?_cons']

/-- That number is free, and every lower one is used (R256). -/
theorem State.freeRing_lowest {s : State} {id : Nat} (free : s.freeRing = some id) : 0x1000 ≤ id ∧ id < 0x100000 ∧
    s.ringUsed id = false ∧ ∀ j, 0x1000 ≤ j → j < id → s.ringUsed j = true := by
  rw [State.freeRing_eq] at free
  obtain ⟨here, least⟩ := List.min?_eq_some_iff.mp free
  obtain ⟨-, ⟨low, high⟩, unused⟩ : id ∈ s.ringStarts ∧ (0x1000 ≤ id ∧ id < 0x100000) ∧ s.ringUsed id = false := by
    simpa using here
  refine ⟨low, high, unused, fun j from_ below => Bool.not_eq_false _ |>.mp fun gap => ?_⟩
  obtain ⟨i, start, low', high', unused'⟩ := State.exists_ringStart (s := s) (j - 0x1000) (by rwa [Nat.add_sub_cancel' from_])
  rw [Nat.add_sub_cancel' from_] at high'
  have := least i (List.mem_filter.mpr ⟨start, by simp [unused']; omega⟩)
  omega

/-! ### The parameters -/

/-- The parameters of CREATE_RING that R257 and Table 10.9 ask for. -/
structure State.RingParams (s : State) (pk : Packet) (k : RingKind) (client : Nat) : Prop where
  kind    : ringKindOf (pk.u 0x10 1) = some k
  irq     : pk.u 0x11 1 ≤ 1
  opened  : (s.cpx.client? client).isSome = true
  entries : goodEntries (pk.u 0x14 4) = true
  base    : pk.u 0x18 8 % 4096 = 0
  link    : k = .command → ∃ q, s.cpx.ring? (pk.u 0x20 4) = some q ∧ q.kind = .completion ∧ q.client = client
  vector  : 1 ≤ pk.u 0x24 1 ∧ pk.u 0x24 1 ≤ 63

/-- The new ring with the packet's parameters. -/
def Packet.newRing (pk : Packet) (k : RingKind) (client id : Nat) : Ring :=
  { id := id, kind := k, irq := decide (pk.u 0x11 1 = 1), error := false, client := client,
    entries := pk.u 0x14 4, base := BitVec.ofNat 64 (pk.u 0x18 8), head := 0, tail := 0,
    link := (if k = .command then pk.u 0x20 4 else 0), vector := pk.u 0x24 1, coalesce := pk.u 0x25 1, sinceMsg := 0, spans := [] }

/-- A stream that gets its ring starts without pending tail updates. -/
def Emt.restart (k : RingKind) (e : Emt) : Emt :=
  match k with
  | .tileStream => { e with tile := { e.tile with tailPend := 0 } }
  | .objectStream => { e with object := { e.object with tailPend := 0 } }
  | .verdictStream => { e with verdict := { e.verdict with tailPend := 0 } }
  | .command => e
  | .completion => e

section
variable {s : State} {ring : Nat} {pk : Packet} {client : Nat} (starts : s.Starts ring 0x12 pk)
  (owner : client = if pk.ring = adminCmd then pk.u 0x12 2 else pk.client)
include starts owner

/-- A second stream ring of a kind finds no resource (R227). -/
theorem doCreateRing_second {k : RingKind} (params : s.RingParams pk k client) (stream : k.isStream = true)
    (taken : ∃ r ∈ s.cpx.rings, r.kind = k) : doCreateRing ring s = (s.markStarted pk).noRes (s.begun pk) 0 := by
  obtain ⟨kind, irq, open_, entries, base, link, vector, vector'⟩ := params
  have other : k ≠ .command := by rintro rfl; cases stream
  have taken' : s.cpx.rings.any (fun r => decide (r.kind = k)) = true := by simpa using taken
  rw [doCreateRing, starts.run]
  simp only [State.begun_u, kind, ← show client = if (s.begun pk).ring = adminCmd then pk.u 0x12 2 else (s.begun pk).client from owner]
  simp only [State.markStarted_client?, State.markStarted_rings, Nat.not_lt.mpr irq, Option.isSome_iff_ne_none.mp open_,
    Option.isNone_iff_eq_none, entries, base, other, stream, taken', Nat.not_lt.mpr vector, Nat.not_lt.mpr vector', false_and, or_self,
    if_false, if_true, not_true, ne_eq, Bool.not_true, Bool.and_self, Bool.false_eq_true]

/-- A ring with the lowest free number (R256, R271). -/
theorem doCreateRing_makes {k : RingKind} {id : Nat} (params : s.RingParams pk k client)
    (first : k.isStream = true → ∀ r ∈ s.cpx.rings, r.kind ≠ k) (free : s.freeRing = some id) : doCreateRing ring s =
      (((s.markStarted pk).onEmt (Emt.restart k)).onCpx fun c => { c with rings := c.rings ++ [pk.newRing k client id] }).done
        (s.begun pk) id := by
  obtain ⟨kind, irq, open_, entries, base, link, vector, vector'⟩ := params
  have single : (k.isStream && s.cpx.rings.any fun r => decide (r.kind = k)) = false := by
    cases stream : k.isStream
    · rfl
    · simpa using first stream
  rw [doCreateRing, starts.run]
  simp only [State.begun_u, kind, ← show client = if (s.begun pk).ring = adminCmd then pk.u 0x12 2 else (s.begun pk).client from owner]
  rw [if_neg (Nat.not_lt.mpr irq), if_neg (by simp [Option.isSome_iff_ne_none.mp open_]), if_neg (by simp [entries]), if_neg (by simp [base]),
    if_neg, if_neg (by omega), if_neg (by simpa using single), State.markStarted_freeRing, free]
  · cases k <;> rfl
  · rintro ⟨cmd, no⟩
    obtain ⟨q, found, kind, owner⟩ := link cmd
    simp [found, kind, owner] at no

/-- A parameter outside its range is named by its offset. -/
theorem doCreateRing_refuses {off : Nat} (bad : (ringKindOf (pk.u 0x10 1) = none ∧ off = 0x10) ∨
     (∃ k, ringKindOf (pk.u 0x10 1) = some k ∧ ((1 < pk.u 0x11 1 ∧ off = 0x11) ∨ (pk.u 0x11 1 ≤ 1 ∧
       ((s.cpx.client? client = none ∧ off = 0x12) ∨ ((s.cpx.client? client).isSome = true ∧
       ((goodEntries (pk.u 0x14 4) = false ∧ off = 0x14) ∨ (goodEntries (pk.u 0x14 4) = true ∧
       ((pk.u 0x18 8 % 4096 ≠ 0 ∧ off = 0x18) ∨ (pk.u 0x18 8 % 4096 = 0 ∧
       ((k = .command ∧ (∀ q, s.cpx.ring? (pk.u 0x20 4) = some q → q.kind = .completion → q.client ≠ client) ∧ off = 0x20) ∨
        ((k = .command → ∃ q, s.cpx.ring? (pk.u 0x20 4) = some q ∧ q.kind = .completion ∧ q.client = client) ∧
          (pk.u 0x24 1 < 1 ∨ 63 < pk.u 0x24 1) ∧ off = 0x24)))))))))))) :
    doCreateRing ring s = (s.markStarted pk).bad (s.begun pk) off := by
  rw [doCreateRing, starts.run]
  simp only [State.begun_u, ← show client = if (s.begun pk).ring = adminCmd then pk.u 0x12 2 else (s.begun pk).client from owner]
  obtain ⟨kind, rfl⟩ | ⟨k, kind, ⟨irq, rfl⟩ | ⟨irq, ⟨closed, rfl⟩ | ⟨open_, ⟨odd, rfl⟩ | ⟨entries, ⟨base, rfl⟩ |
    ⟨base, ⟨cmd, unlinked, rfl⟩ | ⟨link, vector, rfl⟩⟩⟩⟩⟩⟩ := bad
  all_goals simp only [kind]
  · rw [if_pos irq]
  all_goals rw [if_neg (Nat.not_lt.mpr irq)]
  · rw [if_pos (by simpa using closed)]
  all_goals rw [if_neg (by simp [Option.isSome_iff_ne_none.mp open_])]
  · rw [if_pos (by simpa using odd)]
  all_goals rw [if_neg (by simpa using entries)]
  · rw [if_pos base]
  all_goals rw [if_neg (by simpa using base)]
  · rw [if_pos]
    refine ⟨cmd, ?_⟩
    cases found : (s.markStarted pk).cpx.ring? (pk.u 0x20 4) with
    | none => rfl
    | some q => simpa [imp_iff_not_or] using unlinked q found
  · rw [if_neg, if_pos vector]
    rintro ⟨cmd, no⟩
    obtain ⟨q, found, kind, owner⟩ := link cmd
    simp [found, kind, owner] at no

end

/-- Settles O19. -/
theorem createRingMakesAnEmptyRing : Obligations.CreateRingMakesAnEmptyRing := by
  refine ⟨fun s ring pk k client id starts owner kind irq open_ entries base link vector vector' first free => ?_,
    fun s ring pk client off starts owner bad => congrArg Host.Outcome.next (doCreateRing_refuses starts owner bad),
    fun s ring pk k starts kind irq open_ entries base vector vector' stream taken => ?_, fun s id free => State.freeRing_lowest free⟩
  · exact congrArg Host.Outcome.next
      ((doCreateRing_makes starts owner ⟨kind, irq, open_, entries, base, link, vector, vector'⟩ first free).trans (by cases k <;> rfl))
  · refine congrArg Host.Outcome.next
      (doCreateRing_second starts rfl ⟨kind, irq, open_, entries, base, ?_, vector, vector'⟩ stream taken)
    rintro rfl
    cases stream

end Sys2Proof.Machine
end

section
/-! PROOF of the statement about buffers: MAP_BUFFER on a range that passes its checks (`doMapBuffer_lends`), UNMAP_BUFFER of a buffer
of the sender's client. -/

namespace Sys2Proof.Machine

section
variable {s : State} {ring : Nat} {pk : Packet} {client : Nat} (starts : s.Starts ring 0x40 pk)
  (owner : client = if pk.ring = adminCmd then pk.u 0x28 2 else pk.client)
include starts owner

/-- A good range with a good generation word, for a client with room, is lent under a fresh handle (R271). -/
theorem doMapBuffer_lends {gen : Option Nat} (range : s.mss.inOne tagShared (pk.u 0x10 8) (pk.u 0x18 8) = true) (some_ : 0 < pk.u 0x18 8)
    (lines : pk.u 0x18 8 % 64 = 0)
    (word : ¬((decide (s.cpx.proto pk.client = 0x100) ∧ pk.u 0x20 8 ≠ 0) ∨
      (!(decide (s.cpx.proto pk.client = 0x100) || decide (pk.u 0x20 8 = 2 ^ 64 - 1)) ∧
        (pk.u 0x20 8 % 8 ≠ 0 ∨ !s.mss.inOne tagShared (pk.u 0x20 8) 8 ∨
          (pk.u 0x10 8 < pk.u 0x20 8 + 8 ∧ pk.u 0x20 8 < pk.u 0x10 8 + pk.u 0x18 8)))))
    (gen_ : (if decide (s.cpx.proto pk.client = 0x100) || decide (pk.u 0x20 8 = 2 ^ 64 - 1) then none else some (pk.u 0x20 8)) = gen)
    (opened : (s.cpx.client? client).isSome = true) (few : (s.cpx.buffers.filter fun b => b.client = client).length < 256)
    (fewAll : s.cpx.buffers.length < 16384) :
    doMapBuffer ring s = ((s.markStarted pk).bumpFree.onCpx fun c => { c with buffers := c.buffers ++
      [{ handle := s.newHandle, client := client, addr := pk.u 0x10 8, size := pk.u 0x18 8, gen := gen }] }).done
        (s.begun pk) s.newHandle := by
  subst owner gen_
  rw [doMapBuffer, starts.run]
  refine (if_neg (by simpa using range)).trans <| (if_neg (by simp; omega)).trans <| (if_neg word).trans <|
    
    (if_neg fun shut => absurd (Option.isNone_iff_eq_none.mp shut) (Option.isSome_iff_ne_none.mp opened)).trans <| (if_neg ?_).trans rfl
  rw [not_or, not_le, not_le]
  exact ⟨few, fewAll⟩

end

section
variable {s : State} {ring : Nat} {pk : Packet} (starts : s.Starts ring 0x41 pk)
include starts

theorem doUnmapBuffer_refuses (others : ∀ b ∈ s.cpx.buffers, b.handle = pk.u 0x10 4 → b.client ≠ pk.client) :
    doUnmapBuffer ring s = (s.markStarted pk).bad (s.begun pk) 0x10 := by
  have none_ : s.cpx.buffers.any (fun b => b.handle = pk.u 0x10 4 && b.client = pk.client) = false := by
    simpa using others
  rw [doUnmapBuffer, starts.run]
  exact if_pos (congrArg not none_)

theorem doUnmapBuffer_takesBack {b : Buffer} (lent : b ∈ s.cpx.buffers) (handle : b.handle = pk.u 0x10 4) (client : b.client = pk.client) :
    doUnmapBuffer ring s =
      let u := (s.markStarted pk).onCpx fun c => { c with buffers := c.buffers.filter fun b => b.handle ≠ pk.u 0x10 4 }
      if s.cpx.holders (pk.u 0x10 4) = [] then u.done (s.begun pk) 0
      else u.onCpx fun c => { c with unmaps := c.unmaps ++
        [{ pkt := s.begun pk, handle := pk.u 0x10 4, waits := s.cpx.holders (pk.u 0x10 4) }] } := by
  have one : s.cpx.buffers.any (fun b => b.handle = pk.u 0x10 4 && b.client = pk.client) = true :=
    List.any_eq_true.mpr ⟨b, lent, by simp [handle, client]⟩
  rw [doUnmapBuffer, starts.run]
  refine (if_neg (ne_of_eq_of_ne (congrArg not one) Bool.false_ne_true)).trans ?_
  by_cases free : s.cpx.holders (pk.u 0x10 4) = []
  · exact (if_pos (List.isEmpty_iff.mpr free)).trans (if_pos free).symm
  · exact (if_neg (free ∘ List.isEmpty_iff.mp)).trans (if_neg free).symm

end

/-- Settles O21. -/
theorem buffersAreLentAndTakenBack : Obligations.BuffersAreLentAndTakenBack := by
  refine ⟨fun s ring pk client starts owner range some_ lines word opened few fewAll => ?_,
    fun s ring pk client starts owner version range some_ lines aligned word apart opened few fewAll => ?_,
    fun s ring pk b starts lent handle client => ?_, fun s ring pk starts others => ?_⟩
  · refine congrArg Host.Outcome.next (doMapBuffer_lends starts owner range some_ lines ?_ ?_ opened few fewAll)
    all_goals split at word
    all_goals simp [*]
  · have notAll : pk.u 0x20 8 ≠ 18446744073709551615 := by omega
    exact congrArg Host.Outcome.next (doMapBuffer_lends starts owner range some_ lines
      (by simp [version, notAll, aligned, word]; omega) (by simp [version, notAll]) opened few fewAll)
  · refine (congrArg Host.Outcome.next (doUnmapBuffer_takesBack starts lent handle client)).trans ?_
    dsimp only
    split <;> rfl
  · exact congrArg Host.Outcome.next (doUnmapBuffer_refuses starts others)

end Sys2Proof.Machine
end

section
/-! PROOF of the statement about jobs. With no capacity change pending a command boundary changes nothing
(`State.boundary_of_noCap`), so each command runs on the state as it is. -/

namespace Sys2Proof.Machine

section
variable {s : State} {ring : Nat} {pk : Packet}

/-- SUBMIT_JOB with good parameters opens a job for the ring (R270). -/
theorem doSubmitJob_opens (starts : s.Starts ring 0x30 pk) (flags : pk.u 0x10 1 ≤ 1)
    (old : s.cpx.proto pk.client < 0x203 → pk.u 0x10 1 = 0 ∧ pk.u 0x18 8 = 0) (aperture : pk.u 0x10 1 = 1 → pk.u 0x18 8 % 0x4000000 = 0) :
    doSubmitJob ring s = ((s.markStarted pk).cpx.packets.filter fun p => p.ring = ring && !p.same (s.begun pk)).foldl
      (fun s p => s.enqueue p) ((s.markStarted pk).onCpx fun c =>
        { c with packets := c.packets.filter fun p => p.ring ≠ ring || p.same (s.begun pk), jobs := c.jobs ++ [
          { ring := ring, client := pk.client, state := .opened, submit := s.begun pk, cache := decide (pk.u 0x10 1 = 1),
            aperture := pk.u 0x18 8, cmds := [], fetched := 0, breaks := [], ended := false, since := 0, visible := [],
            okCount := 0, badCount := 0, banks := [], segs := [], pool := none, joined := false, preempts := 0, killed := false }] }) := by
  have flagsOk : ¬(1 < pk.u 0x10 1 ∨ (decide (s.cpx.proto pk.client < 0x203) = true ∧ pk.u 0x10 1 ≠ 0)) := by
    rintro (high | ⟨version, set_⟩)
    · omega
    · exact set_ (old (of_decide_eq_true version)).1
  have apertureOk : ¬((pk.u 0x10 1 = 1 ∧ pk.u 0x18 8 % 0x4000000 ≠ 0) ∨
      (decide (s.cpx.proto pk.client < 0x203) = true ∧ pk.u 0x18 8 ≠ 0)) := by
    rintro (⟨cache, odd⟩ | ⟨version, set_⟩)
    · exact odd (aperture cache)
    · exact set_ (old (of_decide_eq_true version)).2
  rw [doSubmitJob, starts.run]
  exact (if_neg flagsOk).trans (if_neg apertureOk)

end

section
variable {s : State} {ring : Nat} {rest : List Nat} {j : Job} (on : s.pins.rstN = true) (open_ : s.qmOpen = true)
  (idle : s.cpx.running? = none) (cap : s.cpx.cap = none) (cores : s.cpx.qmCores ≠ 0) (eligible : s.cpx.eligible = ring :: rest)
  (job : s.cpx.job? ring = some j)
include on open_ idle cap cores eligible job

/-- JOB_DISPATCH takes the earliest eligible job (R279), whatever it then does with it. -/
theorem doJobDispatch_takes : doJobDispatch s =
    if j.cache && !s.cacheAllowed then (s.reply j.submit stNoResource 0 0).teardownAs true ring true
    else ((((s.onCpx fun c => { c.putJob { j with state := .running } with eligible := rest }).onFab fun f =>
        { f with sems := f.sems.filter fun p => decide (p.1 < 0x1000) }).onFab fun f =>
        if j.cache then (List.finRange 8).foldl (fun f c => if s.cpx.qmCores.getLsbD c.val then f.cacheOn c else f) f else f).done
      j.submit 0) := by
  unfold doJobDispatch
  rw [if_neg (by simp [on, open_, idle]), s.boundary_of_noCap cap]
  dsimp only
  rw [if_neg cores, eligible]
  dsimp only
  rw [job]
  dsimp only
  have taken : ∀ c : Cpx, c.eligible = ring :: rest → { c.putJob { j with state := .running } with eligible := c.eligible.drop 1 } =
      { c.putJob { j with state := .running } with eligible := rest } := fun c h => by rw [h]; rfl
  have here : (s.onCpx fun c => { c.putJob { j with state := .running } with eligible := c.eligible.drop 1 }) =
      s.onCpx fun c => { c.putJob { j with state := .running } with eligible := rest } := by
    simp only [State.onCpx, taken s.cpx eligible]
  rw [here]
  cases j.cache <;> rfl

end

section
variable {s : State} {ring : Nat} {j : Job} {pk : Packet}

/-- END_JOB at the front of a RUNNING job ends it (R280). -/
theorem doEndJob_ends (on : s.pins.rstN = true) (cap : s.cpx.cap = none) (next : s.nextCmd ring = some (j, pk)) (code : pk.opcode = 0x32)
    (room : s.cpx.cplRoom pk.ring = true) (admitted : s.gate pk = none) : doEndJob ring s =
      (((((s.onFab fun f => if j.cache then f.cachesOff else f).replyAll (s.begun pk) stDone 0
        (min j.okCount (2 ^ 32 - 1) + 2 ^ 32 * min j.badCount (2 ^ 32 - 1)) 0 0).countJob j.client true).dropJob ring).boundary) := by
  unfold doEndJob
  rw [if_neg (by simp [on]), s.boundary_of_noCap cap]
  dsimp only
  rw [next]
  dsimp only
  rw [if_neg (by simp [code])]
  unfold State.startCmd
  rw [if_neg (by simp [room])]
  dsimp only
  rw [show s.gate { pk with started := some s.now } = none from admitted]
  cases j.cache <;> rfl

end

/-- Settles O22. -/
theorem jobsOpenRunAndEnd : Obligations.JobsOpenRunAndEnd := by
  refine ⟨fun s ring pk starts flags old aperture => congrArg Host.Outcome.next (doSubmitJob_opens starts flags old aperture),
    fun s ring rest j on open_ idle cap cores eligible job allowed => ?_,
    fun s ring rest j on open_ idle cap cores eligible job cache refused => ?_,
    fun s ring j pk on cap next code room admitted => congrArg Host.Outcome.next (doEndJob_ends on cap next code room admitted)⟩
  · refine congrArg Host.Outcome.next ((doJobDispatch_takes on open_ idle cap cores eligible job).trans (if_neg ?_))
    simpa using allowed
  · refine congrArg Host.Outcome.next ((doJobDispatch_takes on open_ idle cap cores eligible job).trans (if_pos ?_))
    simp [cache, refused]

end Sys2Proof.Machine
end
section
/-! PROOF of the statement about KILL: which command it resolves to (`State.killTarget_running`, `State.killTarget_waiting`), or why
to none. -/

namespace Sys2Proof.Machine

/-- Where discarding the running command leaves the fabric (R273, R282). -/
theorem State.discardQm_fab {s : State} {q : QmRun} (run : s.cpx.qm = some q) : s.discardQm.fab = s.fab.dropProvisional.returnHeld q.run := by
  unfold State.discardQm
  rw [run]
  dsimp only
  split
  · exact congrArg Prod.fst (State.recordFault_machinery _ _ _)
  · rfl

section
variable {s : State} {pk t : Packet}

/-- The target runs: it takes the kill token, or with its commit token first the kill stays under way (R272, R273). -/
theorem State.killTarget_running {q : QmRun} (run : s.cpx.qm = some q) {whole : Bool}
    (hit : q.pkt.ring = t.ring ∧ (q.pkt.pos = t.pos ∨ whole = true))
    (late : Bool) : s.killTarget pk t late whole =
      if late then s.onCpx fun c => { c with kills := c.kills ++ [{ killer := pk, scope1 := whole }] }
      else (((if whole then s.discardQm.teardown t.ring true else (s.discardQm.replyAll q.pkt stKilled 0 0 0 0).closeBatch t.ring).answerKills
        0).boundary).done pk 0 := by
  unfold State.killTarget
  rw [run]
  exact if_pos hit

/-- The target waits: it is removed, or its whole job is torn down (R272). -/
theorem State.killTarget_waiting {whole : Bool}
    (miss : ∀ q, s.cpx.qm = some q → ¬(q.pkt.ring = t.ring ∧ (q.pkt.pos = t.pos ∨ whole = true)))
    (late : Bool) : s.killTarget pk t late whole = (if whole then s.teardown t.ring true else s.removeCmd t).done pk 3 := by
  unfold State.killTarget
  split
  next q run => exact if_neg (miss q run)
  next => rfl

end

section
variable {s : State} {ring : Nat} {pk : Packet} (on : s.pins.rstN = true)
  (first : s.cpx.packets.find? (fun p => p.ring = ring && s.cpx.killNow p && p.started.isNone) = some pk)
  (room : s.cpx.cplRoom ring = true) (admitted : s.gate pk = none)
include on first room admitted

/-- A KILL that is admitted resolves its target. -/
theorem doKill_admitted (late : Bool) : doKill ring late s = (s.markStarted pk).kill (s.begun pk) late := by
  unfold doKill
  rw [if_neg (by simp [on]), first]
  dsimp only
  rw [if_neg (by simp [room]), show (s.markStarted pk).gate pk = none from admitted]
  rfl

end

section
variable {s : State} {pk : Packet} {r : Ring}

/-- The scopes that the client's version has (R272). -/
def State.scopeOk (s : State) (pk : Packet) : Prop := pk.u 0x18 1 = 0 ∨ (pk.u 0x18 1 = 1 ∧ 0x203 ≤ s.cpx.proto pk.client)

theorem State.kill_badScope (bad : 1 < pk.u 0x18 1 ∨ (pk.u 0x18 1 = 1 ∧ s.cpx.proto pk.client < 0x203)) (late : Bool) :
    s.kill pk late = s.bad pk 0x18 := if_pos bad

theorem State.kill_badRing (scope : s.scopeOk pk) (bad : s.cpx.ring? (pk.u 0x10 4) = none ∨
    (s.cpx.ring? (pk.u 0x10 4) = some r ∧ (r.kind ≠ .command ∨ (r.client ≠ pk.client ∧ pk.client ≠ 0)))) (late : Bool) :
    s.kill pk late = s.bad pk 0x10 := by
  unfold State.kill
  dsimp only
  rw [if_neg (by unfold State.scopeOk at scope; omega)]
  obtain none_ | ⟨found, other⟩ := bad
  · rw [none_]
  · rw [found]
    exact if_pos other

/-- The command of the ring's job at a position. -/
def Cpx.cmdAt (c : Cpx) (ring pos : Nat) : Option Packet :=
  match c.job? ring with
  | some j => j.cmds.find? fun p => p.pos = pos
  | none => none

/-- A KILL of a command ring that is the client's own resolves by what stands at the position. -/
theorem State.kill_goodRing (scope : s.scopeOk pk) (found : s.cpx.ring? (pk.u 0x10 4) = some r) (kind : r.kind = .command)
    (owner : r.client = pk.client ∨ pk.client = 0) (late : Bool) : s.kill pk late = match s.cpx.cmdAt (pk.u 0x10 4) (pk.u 0x14 4) with
      | some t => s.killTarget pk t late (decide (pk.u 0x18 1 = 1))
      | none => if s.cpx.wasJobCmd r (pk.u 0x14 4) then s.done pk 2 else s.bad pk 0x14 := by
  unfold State.kill
  dsimp only
  rw [if_neg (by unfold State.scopeOk at scope; omega), found]
  dsimp only
  rw [if_neg (by rintro (other | ⟨other, admin⟩) <;> simp_all)]
  rfl

end

/-- Settles O23. -/
theorem killResolvesByTheTargetsState : Obligations.KillResolvesByTheTargetsState := by
  intro s ring pk r on first room admitted
  have run : ∀ late, exec (.kill ring late) s = .next ((s.markStarted pk).kill (s.begun pk) late) := fun late =>
    congrArg Host.Outcome.next (doKill_admitted on first room admitted late)
  refine ⟨fun late j t found kind owner job cmd => ?_, fun late found kind owner scope noCmd => ?_,
    fun late bad => (run late).trans (congrArg Host.Outcome.next (State.kill_badScope (s := s.markStarted pk) (pk := s.begun pk) bad late)),
    fun late scope bad => (run late).trans
      (congrArg Host.Outcome.next (State.kill_badRing (s := s.markStarted pk) (pk := s.begun pk) scope bad late))⟩
  · have target : (s.markStarted pk).cpx.cmdAt ((s.begun pk).u 0x10 4) ((s.begun pk).u 0x14 4) = some t := by
      simp only [Cpx.cmdAt, State.markStarted_job?, State.begun_u, job]
      exact cmd
    have hits : ∀ late, s.scopeOk pk →
        exec (.kill ring late) s = .next ((s.markStarted pk).killTarget (s.begun pk) t late (decide (pk.u 0x18 1 = 1))) := fun late scope => by
      rw [run, State.kill_goodRing (s := s.markStarted pk) (pk := s.begun pk) scope found kind owner, target]
      rfl
    refine ⟨fun one => ?_, fun one miss => ?_, fun whole version => ?_⟩
    · have scope : s.scopeOk pk := .inl one
      intro q qm sameRing samePos
      refine ⟨?_, ?_, by rw [State.discardQm_cpx], State.discardQm_fab (s := s.markStarted pk) qm⟩ <;>
        rw [hits _ scope, decide_eq_false (by omega),
          State.killTarget_running (s := s.markStarted pk) (q := q) qm ⟨sameRing, .inl samePos⟩] <;> rfl
    · rw [hits _ (.inl one), decide_eq_false (by omega), State.killTarget_waiting (s := s.markStarted pk) fun q qm => by simpa using miss q qm]
      rfl
    · have scope : s.scopeOk pk := .inr ⟨whole, version⟩
      refine ⟨fun q qm sameRing => ⟨?_, ?_⟩, fun other => ?_⟩
      · rw [hits _ scope, decide_eq_true whole, State.killTarget_running (s := s.markStarted pk) (q := q) qm ⟨sameRing, .inr rfl⟩]
        rfl
      · rw [hits _ scope, decide_eq_true whole, State.killTarget_running (s := s.markStarted pk) (q := q) qm ⟨sameRing, .inr rfl⟩]
        rfl
      · rw [hits _ scope, decide_eq_true whole, State.killTarget_waiting (s := s.markStarted pk) fun q qm hit => other q qm hit.1]
        rfl
  · have target : (s.markStarted pk).cpx.cmdAt ((s.begun pk).u 0x10 4) ((s.begun pk).u 0x14 4) = none := by
      simp only [Cpx.cmdAt, State.markStarted_job?, State.begun_u]
      cases job : s.cpx.job? (pk.u 0x10 4) with
      | none => rfl
      | some j => exact noCmd j job
    have misses : exec (.kill ring late) s = .next (if s.cpx.wasJobCmd r (pk.u 0x14 4) then (s.markStarted pk).done (s.begun pk) 2
        else (s.markStarted pk).bad (s.begun pk) 0x14) := by
      rw [run, State.kill_goodRing (s := s.markStarted pk) (pk := s.begun pk) scope found kind owner, target]
      rfl
    exact ⟨fun was => by rw [misses, if_pos was], fun never => by rw [misses, if_neg (by simp [never])]⟩

end Sys2Proof.Machine
end

section
/-! PROOF. What replies, settlements and teardowns leave of CPX and of what the part is set up with (R250, R262, R271). -/

namespace Sys2Proof.Machine

/-! ### CPX gains nothing -/

/-- From `c` to `d` CPX gains no ring, no job and no waiting packet, and keeps its clients and its lent buffers. -/
structure Cpx.Shrinks (c d : Cpx) : Prop where
  clients : d.clients.map Client.id = c.clients.map Client.id
  past : d.past.map Client.id = c.past.map Client.id
  buffers : d.buffers = c.buffers
  rings : ∀ r ∈ d.rings, ∃ q ∈ c.rings, q.id = r.id ∧ q.client = r.client
  jobs : ∀ j ∈ d.jobs, ∃ i ∈ c.jobs, i.ring = j.ring
  packets : ∀ p ∈ d.packets, p.started = none → p ∈ c.packets

section
variable (c : Cpx)

theorem Cpx.Shrinks.refl : c.Shrinks c :=
  ⟨rfl, rfl, rfl, fun r h => ⟨r, h, rfl, rfl⟩, fun j h => ⟨j, h, rfl⟩, fun _ h _ => h⟩

theorem Cpx.Shrinks.trans {c d e : Cpx} (h : c.Shrinks d) (k : d.Shrinks e) : c.Shrinks e where
  clients := k.clients.trans h.clients
  past := k.past.trans h.past
  buffers := k.buffers.trans h.buffers
  rings r hr := by
    obtain ⟨q, hq, id, client⟩ := k.rings r hr
    obtain ⟨x, hx, id', client'⟩ := h.rings q hq
    exact ⟨x, hx, id'.trans id, client'.trans client⟩
  jobs j hj := by
    obtain ⟨i, hi, ring⟩ := k.jobs j hj
    obtain ⟨x, hx, ring'⟩ := h.jobs i hi
    exact ⟨x, hx, ring'.trans ring⟩
  packets p hp un := h.packets p (k.packets p hp un) un

theorem Cpx.client?_isSome {i : Nat} : (c.client? i).isSome = true ↔ i ∈ c.clients.map Client.id := by
  simp [Cpx.client?, List.find?_isSome]

/-- The same clients are open. -/
theorem Cpx.Shrinks.client? {c d : Cpx} (h : c.Shrinks d) (i : Nat) : (d.client? i).isSome = (c.client? i).isSome := by
  rw [Bool.eq_iff_iff, Cpx.client?_isSome, Cpx.client?_isSome, h.clients]

theorem Cpx.putRing_shrinks {r q : Ring} (found : q ∈ c.rings) (id : q.id = r.id) (client : q.client = r.client) :
    c.Shrinks (c.putRing r) := by
  refine { Cpx.Shrinks.refl c with rings := fun x hx => ?_ }
  obtain ⟨y, hy, rfl⟩ := List.mem_map.mp hx
  split
  · exact ⟨q, found, id, client⟩
  · exact ⟨y, hy, rfl, rfl⟩

theorem Cpx.retire_shrinks (pk : Packet) (st : Nat) : c.Shrinks (c.retire pk st) := by
  unfold Cpx.retire
  split
  · exact { Cpx.Shrinks.refl c with packets := fun p hp _ => List.mem_of_mem_filter hp }
  · refine { Cpx.Shrinks.refl c with jobs := fun j hj => ?_ }
    obtain ⟨i, hi, rfl⟩ := List.mem_map.mp hj
    exact ⟨i, hi, by split <;> rfl⟩

theorem Cpx.dropJob_shrinks (ring : Nat) : c.Shrinks (c.dropJob ring) := by
  have left : ∀ d : Cpx, c.Shrinks d → c.Shrinks { d with
      jobs := d.jobs.filter (fun j => j.ring ≠ ring), eligible := d.eligible.filter (fun r => r ≠ ring),
      unmaps := d.unmaps.map fun u => { u with waits := u.waits.filter fun w => w.1 ≠ ring } } := fun d h =>
    { h with jobs := fun j hj => h.jobs j (List.mem_of_mem_filter hj) }
  refine left _ ?_
  split
  next r _ found => exact c.putRing_shrinks (List.mem_of_find?_eq_some found) rfl rfl
  next => exact .refl c

/-- The record of a client, with one more job in it, is the same client's. -/
theorem Client.count_id (ended : Bool) (x : Client) : (x.count ended).id = x.id := by
  unfold Client.count
  split <;> rfl

theorem Cpx.putClient_shrinks (x : Client) (ended : Bool) : c.Shrinks (c.putClient (x.count ended)) := by
  refine { Cpx.Shrinks.refl c with clients := ?_ }
  refine (List.map_map ..).trans (List.map_congr_left fun y _ => ?_)
  dsimp only [Function.comp]
  split
  next same => exact same.symm
  next => rfl

end

/-! ### The part stays set up -/

/-- From `s` to `t` what the part is set up with stays: the contracts, the regions, the cameras, the safe state and the fuses. -/
structure State.KeepsSetup (s t : State) : Prop where
  armed : t.ctr.armed = s.ctr.armed
  staged : t.ctr.staged = s.ctr.staged
  grid : t.ctr.grid = s.ctr.grid
  regions : t.mss.regions = s.mss.regions
  cameras : t.sen.cameras = s.sen.cameras
  latched : t.saf.latched = s.saf.latched
  sec : t.sec = s.sec

/-- From `s` to `t` CPX gains nothing, the part stays set up, and the BAR4 window stands. -/
structure State.Sheds (s t : State) : Prop extends s.KeepsSetup t where
  cpx : s.cpx.Shrinks t.cpx
  window : t.hif.bar4Window = s.hif.bar4Window

section
variable {s₀ s : State}

theorem State.KeepsSetup.refl (s : State) : s.KeepsSetup s := ⟨rfl, rfl, rfl, rfl, rfl, rfl, rfl⟩

theorem State.KeepsSetup.trans {t : State} (h : s₀.KeepsSetup s) (k : s.KeepsSetup t) : s₀.KeepsSetup t :=
  ⟨k.armed.trans h.armed, k.staged.trans h.staged, k.grid.trans h.grid, k.regions.trans h.regions, k.cameras.trans h.cameras,
    k.latched.trans h.latched, k.sec.trans h.sec⟩

theorem State.Sheds.refl (s : State) : s.Sheds s := ⟨.refl s, .refl s.cpx, rfl⟩

theorem State.Sheds.trans {t : State} (h : s₀.Sheds s) (k : s.Sheds t) : s₀.Sheds t :=
  ⟨h.toKeepsSetup.trans k.toKeepsSetup, h.cpx.trans k.cpx, k.window.trans h.window⟩

theorem State.Sheds.foldl {α : Type} {f : State → α → State} (step : ∀ (t : State) a, t.Sheds (f t a)) (l : List α) (s : State) :
    s.Sheds (l.foldl f s) := foldl_inv (fun t => s.Sheds t) (.refl s) fun t a h => h.trans (step t a)

variable (s)

theorem State.onCpx_sheds {f : Cpx → Cpx} (h : s.cpx.Shrinks (f s.cpx)) : s.Sheds (s.onCpx f) := { State.Sheds.refl s with cpx := h }
theorem State.onHif_sheds {f : Hif → Hif} (h : (f s.hif).bar4Window = s.hif.bar4Window) : s.Sheds (s.onHif f) :=
  { State.Sheds.refl s with window := h }
theorem State.onSaf_sheds {f : Saf → Saf} (h : (f s.saf).latched = s.saf.latched) : s.Sheds (s.onSaf f) :=
  { State.Sheds.refl s with latched := h }
theorem State.onFab_sheds (f : Fab → Fab) : s.Sheds (s.onFab f) := { State.Sheds.refl s with }
theorem State.onEvr_sheds (f : Rec → Rec) : s.Sheds (s.onEvr f) := { State.Sheds.refl s with }
theorem State.onPwr_sheds (f : Pwr → Pwr) : s.Sheds (s.onPwr f) := { State.Sheds.refl s with }

/-! ### Replies and settlements -/

theorem State.post_sheds (p : HostPost) : s.Sheds (s.post p) := s.onHif_sheds (by split <;> rfl)

theorem State.message_sheds (v : Nat) : s.Sheds (s.message v) := by
  unfold State.message
  split
  · exact s.onHif_sheds rfl
  · exact s.post_sheds _

theorem State.raise_sheds (i : Nat) : s.Sheds (s.raise i) := by
  have told : s.Sheds (s.onHif fun h => { h with event := h.event ||| (1#32 <<< i) }) := s.onHif_sheds rfl
  simp only [State.raise]
  split
  · exact told.trans (State.message_sheds _ 0)
  · exact told

theorem State.ringMessage_sheds (id : Nat) (more : Bool) : s.Sheds (s.ringMessage id more) := by
  unfold State.ringMessage
  split
  · exact .refl s
  next r found =>
    split
    · exact (s.onCpx_sheds (s.cpx.putRing_shrinks (r := { r with sinceMsg := 0 }) (List.mem_of_find?_eq_some found) rfl rfl)).trans
        (State.message_sheds _ _)
    · exact .refl s

theorem State.pushEntry_sheds (id : Nat) (more : Bool) (entry : Nat → HostPost) : s.Sheds (s.pushEntry id more entry) := by
  unfold State.pushEntry
  split
  · exact .refl s
  next r found =>
    split
    · exact .refl s
    · have moved : s.Sheds (s.onCpx fun c => c.putRing { r with tail := idxNext r.tail, sinceMsg := r.sinceMsg + 1 }) :=
        s.onCpx_sheds (s.cpx.putRing_shrinks (List.mem_of_find?_eq_some found) rfl rfl)
      -- the posted entry touches only HIF, so it may as well come after the ring's move
      exact moved.trans ((State.post_sheds _ _).trans ((State.post_sheds _ _).trans (State.ringMessage_sheds _ _ _)))

theorem State.writeReply_sheds (pk : Packet) (more : Bool) (r : Reply) : s.Sheds (s.writeReply pk more r) := by
  unfold State.writeReply
  split
  · exact .refl s
  · split
    · exact s.pushEntry_sheds _ _ _
    · exact s.onCpx_sheds { Cpx.Shrinks.refl s.cpx with }

theorem State.replyBase_sheds (pk : Packet) (more : Bool) (st dt res waves ns : Nat) : s.Sheds (s.replyBase pk more st dt res waves ns) :=
  (s.onCpx_sheds (s.cpx.retire_shrinks pk st)).trans (State.writeReply_sheds _ _ _ _)

theorem State.settleUnmaps_sheds : s.Sheds s.settleUnmaps :=
  (s.onCpx_sheds { Cpx.Shrinks.refl s.cpx with }).trans (State.Sheds.foldl (fun t _ => t.replyBase_sheds _ _ _ _ _ _ _) _ _)

theorem State.answerUndefined_sheds (n : Nat) : s.Sheds (State.answerUndefined n s) := by
  induction n generalizing s with
  | zero => exact .refl s
  | succ n ih =>
    unfold State.answerUndefined
    split
    · exact .refl s
    · exact (s.replyBase_sheds _ _ _ _ _ _ _).trans (ih _)

theorem State.settle_sheds : s.Sheds s.settle := by
  simp only [State.settle]
  split
  · exact s.settleUnmaps_sheds
  · exact s.settleUnmaps_sheds.trans ((State.answerUndefined_sheds _ _).trans (State.settleUnmaps_sheds _))

theorem State.reply_sheds (pk : Packet) (st dt res : Nat) : s.Sheds (s.reply pk st dt res) :=
  (s.replyBase_sheds _ _ _ _ _ _ _).trans (State.settle_sheds _)

theorem State.done_sheds (pk : Packet) (res : Nat) : s.Sheds (s.done pk res) := s.reply_sheds pk _ _ _

theorem State.answerKills_sheds (res : Nat) : s.Sheds (s.answerKills res) :=
  (s.onCpx_sheds { Cpx.Shrinks.refl s.cpx with }).trans (State.Sheds.foldl (fun t _ => t.reply_sheds _ _ _ _) _ _)

/-! ### The running command and its jobs -/

theorem State.note_sheds (code sev unit p0 p1 p2 : Nat) : s.Sheds (s.note code sev unit p0 p1 p2) := by
  unfold State.note
  extract_lets told b free e
  have raised : s.Sheds told := by
    unfold told
    split
    · exact s.raise_sheds _
    · exact .refl s
  split <;> exact raised.trans (State.onEvr_sheds _ _)

theorem State.snapshot_sheds (cause : Nat) : s.Sheds (s.snapshot cause) := by
  unfold State.snapshot
  split <;> exact s.onEvr_sheds _

theorem State.recordFault_sheds (f : FailReport) (c : FaultCtx) : s.Sheds (s.recordFault f c) :=
  ((s.onSaf_sheds rfl).trans (State.onEvr_sheds _ _)).trans ((State.note_sheds _ _ _ _ _ _ _).trans (State.snapshot_sheds _ _))

theorem State.discardQm_sheds : s.Sheds s.discardQm := by
  unfold State.discardQm
  split
  · exact .refl s
  next q _ =>
    have freed : s.Sheds ((s.onCpx fun c => { c with qm := none }).onFab fun f => f.dropProvisional.returnHeld q.run) :=
      (s.onCpx_sheds { Cpx.Shrinks.refl s.cpx with }).trans (State.onFab_sheds _ _)
    dsimp only
    split
    · exact freed.trans (State.recordFault_sheds _ _ _)
    · exact freed

theorem State.countJob_sheds (client : Nat) (ended : Bool) : s.Sheds (s.countJob client ended) := by
  refine s.onCpx_sheds ?_
  split
  · exact s.cpx.putClient_shrinks _ ended
  · refine { Cpx.Shrinks.refl s.cpx with past := (List.map_map ..).trans (List.map_congr_left fun x _ => ?_) }
    dsimp only [Function.comp]
    split
    · exact x.count_id ended
    · rfl

/-- A job that goes without replies leaves nothing behind. -/
theorem State.teardownAs_sheds (counts : Bool) (ring : Nat) : s.Sheds (s.teardownAs counts ring false) := by
  unfold State.teardownAs
  split
  · exact .refl s
  next j _ =>
    extract_lets mine spared uncached waiting killed answered counted dropped
    have hspared : s.Sheds spared := by
      unfold spared
      split
      · exact s.discardQm_sheds
      · exact .refl s
    have huncached : s.Sheds uncached := by
      unfold uncached
      split
      · exact hspared.trans (State.onFab_sheds _ _)
      · exact hspared
    have hcounted : s.Sheds counted := by
      have same : answered = uncached := by simp [answered, killed]
      unfold counted
      rw [same]
      split
      · exact huncached.trans (State.countJob_sheds _ _ _)
      · exact huncached
    have gone : s.Sheds ((counted.dropJob ring).onCpx fun c => { c with packets := c.packets.filter fun p => !p.same j.submit }) :=
      (hcounted.trans (State.onCpx_sheds _ (counted.cpx.dropJob_shrinks ring))).trans
        (State.onCpx_sheds _ { Cpx.Shrinks.refl _ with packets := fun p hp _ => List.mem_of_mem_filter hp })
    simpa [dropped] using gone

/-- A job that goes without replies is gone. -/
theorem State.teardownAs_jobs (counts : Bool) (ring : Nat) : ∀ j ∈ (s.teardownAs counts ring false).cpx.jobs, j.ring ≠ ring := by
  unfold State.teardownAs
  split
  next none_ => simpa [Cpx.job?] using none_
  next => simp [State.dropJob, Cpx.dropJob]

end

end Sys2Proof.Machine
end

section
/-! PROOF. Rings, jobs and clients that go leave nothing behind (O18 and O20, R250, R262, R271). -/

namespace Sys2Proof.Machine

section
variable (s : State)

/-! ### A command boundary -/

theorem State.gateOff_sheds (mask : BitVec 64) : s.Sheds (s.gateOff mask) :=
  { State.Sheds.refl s with cpx := { Cpx.Shrinks.refl s.cpx with } }

theorem State.gateOffEnd_sheds (mask : BitVec 64) : s.Sheds (s.gateOffEnd mask) := by
  unfold State.gateOffEnd
  split
  · exact (s.gateOff_sheds mask).trans ((State.onPwr_sheds _ _).trans (State.raise_sheds _ _))
  · exact s.gateOff_sheds mask

theorem State.capacityBoundary_sheds : s.Sheds s.capacityBoundary := by
  unfold State.capacityBoundary
  split
  · exact .refl s
  next r _ =>
    extract_lets cur settled joined new removed added cacheJob uncached cached off mask gated set
    have hcached : s.Sheds cached := by
      unfold cached
      split
      · exact (s.onFab_sheds _).trans (State.onFab_sheds _ _)
      · exact s.onFab_sheds _
    have hset : s.Sheds set := (hcached.trans (State.gateOffEnd_sheds _ _)).trans
      (State.onCpx_sheds _ { Cpx.Shrinks.refl _ with })
    split
    · exact hset.trans ((State.onCpx_sheds _ { Cpx.Shrinks.refl _ with }).trans (State.done_sheds _ _ _))
    · exact hset

theorem State.boundary_sheds : s.Sheds s.boundary := by
  unfold State.boundary
  split
  · exact s.capacityBoundary_sheds
  · exact .refl s

/-! ### Rings that go -/

variable (gone : Nat → Bool)

/-- A packet that is not of a ring that goes stays as it is. -/
theorem Packet.orphan_kept {p : Packet} (kept : gone p.ring = false) : p.orphan gone = p := by simp [Packet.orphan, kept]

theorem Packet.orphan_started (p : Packet) : (p.orphan gone).started = p.started := by
  unfold Packet.orphan
  split <;> rfl

theorem State.teardownJobs_sheds : s.Sheds (s.teardownJobs gone) := State.Sheds.foldl (fun t _ => t.teardownAs_sheds _ _) _ s

/-- The packets that rings leave when they go. -/
theorem State.loseRings_packets : ∀ p ∈ (s.loseRings gone).cpx.packets, p.started = none →
    p ∈ s.cpx.packets ∧ gone p.ring = false := by
  intro p hp un
  obtain ⟨q, hq, rfl⟩ := List.mem_map.mp (show p ∈ (s.cpx.packets.filter _).map _ from hp)
  obtain ⟨mem, left⟩ := List.mem_filter.mp hq
  rw [Packet.orphan_started] at un
  have kept : gone q.ring = false := by simpa [un] using left
  rw [Packet.orphan_kept gone kept]
  exact ⟨mem, kept⟩

theorem State.loseRings_sheds : s.Sheds (s.loseRings gone) :=
  { State.Sheds.refl s with cpx := { Cpx.Shrinks.refl s.cpx with
      rings := fun r hr => ⟨r, List.mem_of_mem_filter hr, rfl, rfl⟩
      packets := fun p hp un => (s.loseRings_packets gone p hp un).1 } }

theorem State.dropRings_sheds_of (gone : Nat → Bool) :
    ((s.teardownJobs gone).loseRings gone).Sheds (s.dropRings gone) := by
  simp only [State.dropRings]
  refine .trans ?_ (State.settle_sheds _)
  split
  · exact State.answerKills_sheds _ _
  · exact .refl _

theorem State.dropRings_sheds : s.Sheds (s.dropRings gone) :=
  ((s.teardownJobs_sheds gone).trans (State.loseRings_sheds _ gone)).trans (s.dropRings_sheds_of gone)

/-- Nothing of the chosen rings is left: no ring, no job, no waiting packet. -/
structure Cpx.Rid (gone : Nat → Bool) (c : Cpx) : Prop where
  rings : ∀ r ∈ c.rings, gone r.id = false
  jobs : ∀ j ∈ c.jobs, gone j.ring = false
  packets : ∀ p ∈ c.packets, p.started = none → gone p.ring = false

theorem Cpx.Rid.shrinks {gone : Nat → Bool} {c d : Cpx} (rid : c.Rid gone) (h : c.Shrinks d) : d.Rid gone where
  rings r hr := by
    obtain ⟨q, hq, id, -⟩ := h.rings r hr
    exact id ▸ rid.rings q hq
  jobs j hj := by
    obtain ⟨i, hi, ring⟩ := h.jobs j hj
    exact ring ▸ rid.jobs i hi
  packets p hp un := rid.packets p (h.packets p hp un) un

/-- No job of the rings that were torn down is left. -/
theorem State.teardowns_jobs (l : List Job) : ∀ j ∈ (l.foldl (fun s j => s.teardown j.ring false) s).cpx.jobs,
    ∀ i ∈ l, j.ring ≠ i.ring := by
  induction l generalizing s with
  | nil => simp
  | cons i l ih =>
    intro j hj k hk
    obtain rfl | hk := List.mem_cons.mp hk
    · have later := State.Sheds.foldl (f := fun s j => s.teardown j.ring false) (fun t _ => t.teardownAs_sheds _ _) l
      obtain ⟨j', hj', ring⟩ := (later _).cpx.jobs j hj
      exact ring ▸ s.teardownAs_jobs _ _ j' hj'
    · exact ih _ j hj k hk

theorem State.teardownJobs_jobs : ∀ j ∈ (s.teardownJobs gone).cpx.jobs, gone j.ring = false := by
  intro j hj
  obtain ⟨i, hi, ring⟩ := (s.teardownJobs_sheds gone).cpx.jobs j hj
  by_contra left
  exact s.teardowns_jobs _ j hj i (List.mem_filter.mpr ⟨hi, by rw [ring]; simpa using left⟩) ring.symm

theorem State.dropRings_rid : (s.dropRings gone).cpx.Rid gone := by
  have rid : ((s.teardownJobs gone).loseRings gone).cpx.Rid gone := by
    refine ⟨fun r hr => ?_, s.teardownJobs_jobs gone, fun p hp un => ?_⟩
    · simpa using (List.mem_filter.mp (show r ∈ List.filter _ _ from hr)).2
    · exact ((s.teardownJobs gone).loseRings_packets gone p hp un).2
  exact rid.shrinks (s.dropRings_sheds_of gone).cpx

/-- A packet that starts was there. -/
theorem State.markStarted_sheds (pk : Packet) : s.Sheds (s.markStarted pk) := by
  refine s.onCpx_sheds { Cpx.Shrinks.refl s.cpx with packets := fun p hp un => ?_ }
  obtain ⟨q, hq, rfl⟩ := List.mem_map.mp hp
  split at un
  · cases un
  next other => rwa [if_neg other]

/-! ### Clients that go -/

/-- From `c` to `d` the chosen clients close: their rings, their jobs and their buffers go, and their records stay readable. -/
structure Cpx.Closed (gone : Nat → Bool) (c d : Cpx) : Prop where
  clients : d.clients.map Client.id = (c.clients.map Client.id).filter fun i => !gone i
  past : d.past.map Client.id = c.past.map Client.id ++ (c.clients.map Client.id).filter gone
  buffers : d.buffers = c.buffers.filter fun b => !gone b.client
  rings : ∀ r ∈ d.rings, (∃ q ∈ c.rings, q.id = r.id) ∧ gone r.client = false
  jobs : ∀ j ∈ d.jobs, (∃ i ∈ c.jobs, i.ring = j.ring) ∧ ∀ r ∈ c.rings, gone r.client = true → j.ring ≠ r.id

/-- The clients that are not chosen stay open, and no other is. -/
theorem Cpx.Closed.client? {gone : Nat → Bool} {c d : Cpx} (h : c.Closed gone d) (i : Nat) :
    (d.client? i).isSome = ((c.client? i).isSome && !gone i) := by
  rw [Bool.eq_iff_iff, Bool.and_eq_true, Cpx.client?_isSome, Cpx.client?_isSome, h.clients, List.mem_filter]

theorem State.closeClients_closed : s.cpx.Closed gone (s.closeClients gone).cpx := by
  unfold State.closeClients
  extract_lets ids d
  have left : s.Sheds d := s.dropRings_sheds _
  have rid : d.cpx.Rid fun r => ids.contains r := s.dropRings_rid _
  have mem : ∀ r ∈ s.cpx.rings, gone r.client = true → ids.contains r.id = true := fun r hr go =>
    List.contains_iff_mem.mpr (List.mem_map.mpr ⟨r, List.mem_filter.mpr ⟨hr, go⟩, rfl⟩)
  have filtered : ∀ (f : Nat → Bool) (l : List Client), (l.filter fun x => f x.id).map Client.id = (l.map Client.id).filter f :=
    fun f l => (List.filter_map ..).symm
  refine ⟨?_, ?_, congrArg (List.filter _) left.cpx.buffers, fun r hr => ?_,
    fun j hj => ⟨left.cpx.jobs j hj, fun r hr go same => ?_⟩⟩
  · rw [← left.cpx.clients]
    exact filtered (fun i => !gone i) d.cpx.clients
  · rw [← left.cpx.clients, ← left.cpx.past]
    exact (List.map_append ..).trans (congrArg _ (filtered _ _))
  · obtain ⟨q, hq, id, client⟩ := left.cpx.rings r hr
    refine ⟨⟨q, hq, id⟩, ?_⟩
    by_contra go
    have := rid.rings r hr
    rw [← id, mem q hq (by simpa [client] using go)] at this
    cases this
  · have := rid.jobs j hj
    rw [same, mem r hr go] at this
    cases this

theorem State.closeClients_setup : s.KeepsSetup (s.closeClients gone) :=
  (s.dropRings_sheds _).toKeepsSetup.trans { State.KeepsSetup.refl _ with }

end

/-! ### DESTROY_RING -/

section
variable {s : State} {ring : Nat} {pk : Packet} (starts : s.Starts ring 0x13 pk)
include starts

theorem doDestroyRing_refuses (bad : s.cpx.ring? (pk.u 0x10 4) = none ∨ ∃ r, s.cpx.ring? (pk.u 0x10 4) = some r ∧
    (pk.u 0x10 4 < 0x1000 ∨ r.client ≠ pk.client ∨
      (r.kind = .completion ∧ ∃ q ∈ s.cpx.rings, q.kind = .command ∧ q.link = pk.u 0x10 4))) :
    doDestroyRing ring s = (s.markStarted pk).bad (s.begun pk) 0x10 := by
  rw [doDestroyRing, starts.run]
  dsimp only
  rw [State.markStarted_ring?, State.begun_u]
  obtain none_ | ⟨r, found, bad⟩ := bad
  · rw [none_]
  · rw [found]
    refine if_pos (bad.imp_right (Or.imp_right (And.imp_right ?_)))
    rintro ⟨q, hq, kind, link⟩
    exact List.any_eq_true.mpr ⟨q, hq, by simp [kind, link]⟩

theorem doDestroyRing_drops {r : Ring} (found : s.cpx.ring? (pk.u 0x10 4) = some r) (host : 0x1000 ≤ pk.u 0x10 4)
    (owner : r.client = pk.client) (free : r.kind = .completion → ∀ q ∈ s.cpx.rings, q.kind = .command → q.link ≠ pk.u 0x10 4) :
    doDestroyRing ring s = (((s.markStarted pk).dropRings fun x => decide (x = pk.u 0x10 4)).boundary).done
      ((s.begun pk).orphan fun x => decide (x = pk.u 0x10 4)) 0 := by
  rw [doDestroyRing, starts.run]
  dsimp only
  rw [State.markStarted_ring?, State.begun_u, found]
  refine if_neg ?_
  rintro (low | other | ⟨kind, named⟩)
  · omega
  · exact other owner
  · obtain ⟨q, hq, link⟩ := List.any_eq_true.mp named
    simp only [Bool.and_eq_true, decide_eq_true_eq] at link
    exact free kind q hq link.1 link.2

end

/-- Settles O20. -/
theorem destroyRingRemovesIt : Obligations.DestroyRingRemovesIt := by
  refine ⟨fun s ring pk r starts found host owner free => ?_, fun s ring pk starts bad =>
    congrArg Host.Outcome.next (doDestroyRing_refuses starts bad)⟩
  refine ⟨_, congrArg Host.Outcome.next (doDestroyRing_drops starts found host owner free), ?_⟩
  have replied : ∀ gone, ((s.markStarted pk).dropRings gone).Sheds
      (((s.markStarted pk).dropRings gone).boundary.done ((s.begun pk).orphan gone) 0) := fun gone =>
    (State.boundary_sheds _).trans (State.done_sheds _ _ _)
  have left := ((s.markStarted_sheds pk).trans (State.dropRings_sheds _ _)).trans (replied fun x => decide (x = pk.u 0x10 4))
  have rid := ((s.markStarted pk).dropRings_rid fun x => decide (x = pk.u 0x10 4)).shrinks (replied _).cpx
  refine ⟨List.find?_eq_none.mpr fun x hx => ?_, List.find?_eq_none.mpr fun j hj => ?_, fun p hp un => ?_, left.cpx.buffers, left.armed,
    left.staged, left.regions, left.latched, left.sec⟩
  · simpa using rid.rings x hx
  · simpa using rid.jobs j hj
  · simpa using rid.packets p hp un

/-! ### OPEN_CLIENT and CLOSE_CLIENT -/

section
variable {s : State} {ring : Nat} {pk : Packet}

theorem doOpenClient_opens (starts : s.Starts ring 0x10 pk) {i : Nat} (below : i < 4095) (free : s.cpx.client? (i + 1) = none)
    (lowest : ∀ j, j < i → (s.cpx.client? (j + 1)).isSome = true) :
    doOpenClient ring s = ((s.markStarted pk).onCpx fun c =>
      { c with clients := c.clients ++ [{ id := i + 1, versions := none, completed := 0, killed := 0 }],
               past := c.past.filter fun x => x.id ≠ i + 1 }).done (s.begun pk) (i + 1) := by
  have found : (List.range 4095).find? (fun i => (s.cpx.client? (i + 1)).isNone) = some i := by
    refine List.find?_range_eq_some.mpr ⟨by simp [free], by simpa using below, fun j hj => ?_⟩
    simpa using lowest j hj
  rw [doOpenClient, starts.run]
  simp only [State.markStarted_client?, found]

theorem doOpenClient_full (starts : s.Starts ring 0x10 pk) (full : ∀ j, j < 4095 → (s.cpx.client? (j + 1)).isSome = true) :
    doOpenClient ring s = (s.markStarted pk).noRes (s.begun pk) 0 := by
  have none_ : (List.range 4095).find? (fun i => (s.cpx.client? (i + 1)).isNone) = none :=
    List.find?_eq_none.mpr fun j hj => by
      simpa using Option.isSome_iff_ne_none.mp (full j (List.mem_range.mp hj))
  rw [doOpenClient, starts.run]
  simp only [State.markStarted_client?, none_]

theorem doCloseClient_refuses (starts : s.Starts ring 0x11 pk)
    (bad : pk.u 0x10 2 < 1 ∨ 4095 < pk.u 0x10 2 ∨ s.cpx.client? (pk.u 0x10 2) = none) :
    doCloseClient ring s = (s.markStarted pk).bad (s.begun pk) 0x10 := by
  rw [doCloseClient, starts.run]
  exact if_pos (bad.imp_right (Or.imp_right Option.isNone_iff_eq_none.mpr))

theorem doCloseClient_closes (starts : s.Starts ring 0x11 pk) (low : 1 ≤ pk.u 0x10 2) (high : pk.u 0x10 2 ≤ 4095)
    (open_ : (s.cpx.client? (pk.u 0x10 2)).isSome = true) :
    doCloseClient ring s = ((s.markStarted pk).closeClient (pk.u 0x10 2)).boundary.done (s.begun pk) 0 := by
  rw [doCloseClient, starts.run]
  refine if_neg ?_
  rintro (below | above | none_)
  · exact absurd (show pk.u 0x10 2 < 1 from below) (by omega)
  · exact absurd (show 4095 < pk.u 0x10 2 from above) (by omega)
  · exact absurd (show (s.cpx.client? (pk.u 0x10 2)).isNone = true from none_) (by simp [Option.isSome_iff_ne_none.mp open_])

end

/-- Settles O18. -/
theorem clientsOpenAndClose : Obligations.ClientsOpenAndClose := by
  refine ⟨fun s ring pk i starts below free lowest => congrArg Host.Outcome.next (doOpenClient_opens starts below free lowest),
    fun s ring pk starts full => congrArg Host.Outcome.next (doOpenClient_full starts full), fun s ring pk starts low high open_ => ?_,
    fun s ring pk starts bad => congrArg Host.Outcome.next (doCloseClient_refuses starts bad)⟩
  refine ⟨_, congrArg Host.Outcome.next (doCloseClient_closes starts low high open_), ?_⟩
  generalize client : pk.u 0x10 2 = i at open_ ⊢
  have closed := (s.markStarted pk).closeClients_closed fun x => decide (x = i)
  have setup := (s.markStarted pk).closeClients_setup fun x => decide (x = i)
  have left : ((s.markStarted pk).closeClient i).Sheds (((s.markStarted pk).closeClient i).boundary.done (s.begun pk) 0) :=
    (State.boundary_sheds _).trans (State.done_sheds _ _ _)
  have kept := setup.trans left.toKeepsSetup
  have clients : ∀ k, _ := fun k => (left.cpx.client? k).trans (closed.client? k)
  refine ⟨?_, fun r hr => ?_, fun r hr mine => ?_, fun b hb => ?_, fun k other => ?_, kept.armed, kept.staged, kept.regions, ?_,
    kept.latched, kept.sec⟩
  · simpa using clients i
  · obtain ⟨q, hq, -, same⟩ := left.cpx.rings r hr
    simpa [same] using (closed.rings q hq).2
  · refine List.find?_eq_none.mpr fun j hj => ?_
    obtain ⟨j', hj', ring⟩ := left.cpx.jobs j hj
    simpa [ring] using (closed.jobs j' hj').2 r hr (by simp [mine])
  · have mem : b ∈ List.filter _ _ := closed.buffers ▸ left.cpx.buffers ▸ hb
    simpa using (List.mem_filter.mp mem).2
  · simpa [other] using clients k
  · have mem : i ∈ (((s.markStarted pk).closeClient i).boundary.done (s.begun pk) 0).cpx.past.map Client.id := by
      rw [left.cpx.past, show ((s.markStarted pk).closeClient i).cpx.past.map Client.id = _ from closed.past]
      refine List.mem_append_right _ (List.mem_filter.mpr ⟨?_, by simp⟩)
      exact s.cpx.client?_isSome.mp open_
    obtain ⟨x, hx, id⟩ := List.mem_map.mp mem
    exact ⟨x, hx, id⟩

end Sys2Proof.Machine
end

section
/-! PROOF. The host attachment: its admin rings, its teardown and its power state (O11, R250, R436). -/

namespace Sys2Proof.Machine

/-! ### The teardown of R250 -/

/-- From `s` to `t` the host attachment is torn down: no client but client 0, no ring, no buffer and no job, and the part stays set
up. -/
structure State.TornDown (s t : State) : Prop extends s.KeepsSetup t where
  clients : ∀ x ∈ t.cpx.clients, x.id = 0
  rings : t.cpx.rings = []
  buffers : t.cpx.buffers = []
  jobs : t.cpx.jobs = []

section
variable (s : State)

/-- What sheds after a teardown is torn down still. -/
theorem State.TornDown.sheds {s t u : State} (h : s.TornDown t) (k : t.Sheds u) : s.TornDown u where
  toKeepsSetup := h.toKeepsSetup.trans k.toKeepsSetup
  clients x hx := by
    have mem : x.id ∈ t.cpx.clients.map Client.id := k.cpx.clients ▸ List.mem_map_of_mem hx
    obtain ⟨y, hy, id⟩ := List.mem_map.mp mem
    exact id ▸ h.clients y hy
  rings := List.eq_nil_iff_forall_not_mem.mpr fun r hr => by
    obtain ⟨q, hq, -⟩ := k.cpx.rings r hr
    simp [h.rings] at hq
  buffers := k.cpx.buffers.trans h.buffers
  jobs := List.eq_nil_iff_forall_not_mem.mpr fun j hj => by
    obtain ⟨i, hi, -⟩ := k.cpx.jobs j hj
    simp [h.jobs] at hi

/-- The rings go first, then the clients. -/
def State.detached (s : State) : State := (s.dropRings fun _ => true).closeClients fun x => decide (x ≠ 0)

theorem State.detached_setup : s.KeepsSetup s.detached := (s.dropRings_sheds _).toKeepsSetup.trans (State.closeClients_setup _ _)

theorem State.detached_empty : (∀ x ∈ s.detached.cpx.clients, x.id = 0) ∧ s.detached.cpx.rings = [] ∧ s.detached.cpx.jobs = [] := by
  have rid := s.dropRings_rid fun _ => true
  have shut : (s.dropRings fun _ => true).cpx.Closed (fun x => decide (x ≠ 0)) s.detached.cpx := State.closeClients_closed _ _
  refine ⟨fun x hx => ?_, List.eq_nil_iff_forall_not_mem.mpr fun r hr => ?_, List.eq_nil_iff_forall_not_mem.mpr fun j hj => ?_⟩
  · have mem : x.id ∈ s.detached.cpx.clients.map Client.id := List.mem_map_of_mem hx
    rw [shut.clients] at mem
    simpa using (List.mem_filter.mp mem).2
  · obtain ⟨⟨q, hq, -⟩, -⟩ := shut.rings r hr
    exact absurd (rid.rings q hq) (by simp)
  · obtain ⟨⟨i, hi, -⟩, -⟩ := shut.jobs j hj
    exact absurd (rid.jobs i hi) (by simp)

theorem State.hostTeardown_eq : s.hostTeardown =
    ((s.detached.onCpx fun c => { c with buffers := [] }).onHif fun h => { h with bar4Window := 0, heldWindow := none }).boundary := rfl

theorem State.hostTeardown_tornDown : s.TornDown s.hostTeardown := by
  have setup := s.detached_setup
  obtain ⟨clients, rings, jobs⟩ := s.detached_empty
  rw [State.hostTeardown_eq]
  generalize s.detached = d at setup clients rings jobs ⊢
  have torn : s.TornDown ((d.onCpx fun c => { c with buffers := [] }).onHif fun h => { h with bar4Window := 0, heldWindow := none }) :=
    { setup with clients := clients, rings := rings, buffers := rfl, jobs := jobs }
  exact torn.sheds (State.boundary_sheds _)

theorem State.hostTeardown_window : s.hostTeardown.hif.bar4Window = 0 := by
  rw [State.hostTeardown_eq, (State.boundary_sheds _).window]
  rfl

/-- The reset of the host attachment tears it down. -/
theorem State.attachReset_tornDown (kind : Nat) : s.TornDown (s.attachReset kind) :=
  { s.hostTeardown_tornDown.sheds (State.note_sheds _ 0x7003 sevNotice noUnit kind 0 0) with }

theorem State.leaveParked_hif : s.leaveParked.hif = s.hif := by
  unfold State.leaveParked
  split <;> rfl

/-- A part that leaves PARKED changes only its power. -/
theorem State.TornDown.leaveParked {s t : State} (h : s.TornDown t) : s.TornDown t.leaveParked := by
  unfold State.leaveParked
  split
  · exact { h with }
  · exact h

end

/-! ### PERST_N -/

/-- What PERST_N leaves before a PARKED part wakes. -/
def State.perstReset (s : State) : State :=
  ((s.onPins fun p => { p with perstN := false }).attachReset 0).onHif fun h => { h with linkUp := false }

section
variable {s : State} (on : s.pins.rstN = true)
include on

theorem doPerstNAssert_resets : doPerstNAssert s =
    if s.perstReset.pwr.state = .parked then (s.perstReset.onPwr fun p => { p with wake := true }).leaveParked else s.perstReset :=
  if_pos on

theorem doPerstNAssert_tornDown : s.TornDown (doPerstNAssert s) := by
  have reset := (s.onPins fun p => { p with perstN := false }).attachReset_tornDown 0
  have torn : s.TornDown s.perstReset := { reset with }
  have woken : s.TornDown (s.perstReset.onPwr fun p => { p with wake := true }) := { torn with }
  rw [doPerstNAssert_resets on]
  split
  · exact woken.leaveParked
  · exact torn

theorem doPerstNAssert_hif : (doPerstNAssert s).hif = s.perstReset.hif := by
  rw [doPerstNAssert_resets on]
  split
  · exact State.leaveParked_hif _
  · rfl

end

/-! ### A write of HIF_ADMIN_CTRL -/

/-- The admin command ring that a write of HIF_ADMIN_CTRL puts in service. -/
def State.adminCmdRing (s : State) (v : Word) : Ring := adminRing (s.hif.adminFields v) adminCmd .command s.hif.adminCmdBase adminCpl
/-- And the admin completion ring. -/
def State.adminCplRing (s : State) (v : Word) : Ring := adminRing (s.hif.adminFields v) adminCpl .completion s.hif.adminCplBase 0

@[simp] theorem State.post_adminActive (s : State) (p : HostPost) : (s.post p).hif.adminActive = s.hif.adminActive := by
  simp only [State.post, State.onHif_hif]
  split <;> rfl

@[simp] theorem State.post_configError (s : State) (p : HostPost) : (s.post p).hif.configError = s.hif.configError := by
  simp only [State.post, State.onHif_hif]
  split <;> rfl

section
variable {s : State} (open_ : s.bar0Open = true)
include open_

theorem doAdminCtrl_disables (on : s.hif.adminEnable = true) {v : Word} (clear : v.getLsbD 0 = false) :
    doAdminCtrl v s = (s.hostTeardown.note 0x7003 sevNotice noUnit 2 0 0).onHif fun h =>
      { h with adminEnable := false, adminActive := false } := by
  simp only [doAdminCtrl, open_, on, clear, Bool.not_true, Bool.false_eq_true, if_false, if_true]

variable (off : s.hif.adminEnable = false) {v : Word} (set : v.getLsbD 0 = true)
include off set

theorem doAdminCtrl_refuses (bad : s.adminAccepts v = false) :
    doAdminCtrl v s = (s.onHif fun h => h.adminFields v).onHif fun h => { h with configError := true } := by
  have bad' : (s.onHif fun h => h.adminFields v).adminAccepts v = false := bad
  simp [doAdminCtrl, open_, off, set, bad']

theorem doAdminCtrl_enables (good : s.adminAccepts v = true) :
    doAdminCtrl v s = ((((s.onHif fun h => { h.adminFields v with adminEnable := true, adminActive := true, configError := false }).onCpx
      fun c => { c.openAdmin with rings := c.openAdmin.rings ++ [s.adminCmdRing v, s.adminCplRing v] }).post
        ((s.adminCmdRing v).block 0)).post ((s.adminCplRing v).block 0)) := by
  have good' : (s.onHif fun h => h.adminFields v).adminAccepts v = true := good
  simp only [doAdminCtrl, open_, Bool.not_true, Bool.false_eq_true, if_false, off, set, good', if_true]
  rfl

end

/-- Settles O11. -/
theorem hostAttachmentSetUpAndTornDown : Obligations.HostAttachmentSetUpAndTornDown := by
  have set : ∀ v : Word, (v ||| 1#32).getLsbD 0 = true := fun v => by simp
  have clear : ∀ v : Word, (v &&& ~~~1#32).getLsbD 0 = false := fun v => by simp
  refine ⟨fun v s open_ off good => ?_, fun v s open_ off bad => ?_, fun c s resets => ?_, fun b s on up => ?_⟩
  · refine ⟨_, congrArg Host.Outcome.next (doAdminCtrl_enables open_ off (set v) good), ?_⟩
    have some0 : ∀ c : Cpx, (c.openAdmin.client? 0).isSome = true := fun c => by
      unfold Cpx.openAdmin
      split
      next found => exact found
      next => rfl
    refine ⟨?_, ?_, ?_, ⟨s.adminCmdRing (v ||| 1#32), ?_, rfl, rfl, rfl, rfl, rfl, rfl, rfl, rfl⟩,
      ⟨s.adminCplRing (v ||| 1#32), ?_, rfl, rfl, rfl, rfl, rfl, rfl⟩, some0 s.cpx, rfl, rfl, rfl, rfl⟩
    · simp
    · simp
    · simp
    · exact List.mem_append_right _ (by simp)
    · exact List.mem_append_right _ (by simp)
  · refine ⟨_, congrArg Host.Outcome.next (doAdminCtrl_refuses open_ off (set v) bad), off, rfl, rfl⟩
  · obtain ⟨v, rfl, open_, on⟩ | ⟨rfl, on, up⟩ | ⟨rfl, on⟩ := resets
    · have torn := s.hostTeardown_tornDown.sheds (State.note_sheds _ 0x7003 sevNotice noUnit 2 0 0)
      exact ⟨_, congrArg Host.Outcome.next (doAdminCtrl_disables open_ on (clear v)), torn.clients, torn.rings, torn.buffers, torn.jobs,
        (State.note_sheds _ _ _ _ _ _ _).window.trans s.hostTeardown_window, rfl, rfl, torn.armed, torn.staged, torn.grid, torn.regions,
        torn.cameras, torn.latched, torn.sec⟩
    · have torn := s.attachReset_tornDown 1
      exact ⟨_, congrArg Host.Outcome.next (if_pos (by simp [on, up])), torn.clients, torn.rings, torn.buffers, torn.jobs,
        rfl, rfl, rfl, torn.armed, torn.staged, torn.grid, torn.regions, torn.cameras, torn.latched, torn.sec⟩
    · have torn := doPerstNAssert_tornDown on
      have hif := doPerstNAssert_hif on
      exact ⟨_, rfl, torn.clients, torn.rings, torn.buffers, torn.jobs, congrArg Hif.bar4Window hif, congrArg Hif.adminEnable hif,
        congrArg Hif.adminActive hif, torn.armed, torn.staged, torn.grid, torn.regions, torn.cameras, torn.latched, torn.sec⟩
  · exact congrArg Host.Outcome.next (if_neg (by simp [on, up]))

end Sys2Proof.Machine
end

section
/-! SUPPORT. What a reply leaves alone of the command processor: it retires packets, moves completion rings, and takes entries from the
waiting replies and UNMAP_BUFFERs, and whatever does not look at these stays (R260, R264, R271). -/

namespace Sys2Proof.Machine

/-- What `look` reads of CPX is nothing that a reply changes. -/
structure Cpx.ReplyBlind {α : Type} (look : Cpx → α) : Prop where
  putRing : ∀ c r, look (Cpx.putRing c r) = look c
  retire  : ∀ c pk st, look (Cpx.retire c pk st) = look c
  owed    : ∀ c l, look { c with owed := l } = look c
  unmaps  : ∀ c l, look { c with unmaps := l } = look c

section
variable {α : Type} {look : Cpx → α} (blind : Cpx.ReplyBlind look)
include blind

theorem Cpx.ReplyBlind.ringMessage (s : State) (id : Nat) (more : Bool) : look (s.ringMessage id more).cpx = look s.cpx := by
  unfold State.ringMessage
  split
  · rfl
  · split
    · simp [blind.putRing]
    · rfl

theorem Cpx.ReplyBlind.pushEntry (s : State) (id : Nat) (more : Bool) (e : Nat → HostPost) :
    look (s.pushEntry id more e).cpx = look s.cpx := by
  simp only [State.pushEntry]
  split
  · rfl
  · split
    · rfl
    · simp [blind.ringMessage, blind.putRing]

theorem Cpx.ReplyBlind.replyBase (s : State) (pk : Packet) (more : Bool) (st dt res waves ns : Nat) :
    look (s.replyBase pk more st dt res waves ns).cpx = look s.cpx := by
  unfold State.replyBase State.writeReply
  split
  · exact blind.retire _ pk st
  · split
    · exact (blind.pushEntry _ _ _ _).trans (blind.retire _ pk st)
    · exact (blind.owed _ _).trans (blind.retire _ pk st)

theorem Cpx.ReplyBlind.settleUnmaps (s : State) : look s.settleUnmaps.cpx = look s.cpx :=
  (foldl_keeps (fun t : State => look t.cpx) (fun t (u : UnmapReq) => blind.replyBase t u.pkt false stDone 0 0 0 _) _ _).trans
    (blind.unmaps _ _)

theorem Cpx.ReplyBlind.answerUndefined (s : State) (n : Nat) : look (State.answerUndefined n s).cpx = look s.cpx := by
  induction n generalizing s with
  | zero => rfl
  | succ n ih =>
    unfold State.answerUndefined
    split
    · rfl
    · exact (ih _).trans (blind.replyBase _ _ _ _ _ _ _ _)

theorem Cpx.ReplyBlind.replyAll (s : State) (pk : Packet) (st dt res waves ns : Nat) :
    look (s.replyAll pk st dt res waves ns).cpx = look s.cpx := by
  refine Eq.trans ?_ (blind.replyBase s pk false st dt res waves ns)
  simp only [State.replyAll, State.settle]
  split
  · exact blind.settleUnmaps _
  · exact (blind.settleUnmaps _).trans ((blind.answerUndefined _ _).trans (blind.settleUnmaps _))

end

/-- A reply leaves the STOP_FRAMES that waits. -/
theorem Cpx.replyBlind_stop : Cpx.ReplyBlind Cpx.stop where
  putRing _ _ := rfl
  retire _ _ _ := by unfold Cpx.retire; split <;> rfl
  owed _ _ := rfl
  unmaps _ _ := rfl

@[simp] theorem State.done_stop (s : State) (pk : Packet) (res : Nat) : (s.done pk res).cpx.stop = s.cpx.stop :=
  Cpx.replyBlind_stop.replyAll _ _ _ _ _ _ _

end Sys2Proof.Machine
end

section
/-! PROOF of the statement about SET_CAPACITY: the core set that a command boundary makes (`capacitySet_getLsbD`), and what else a
boundary does to the state (`State.capacityBoundary_spec`). -/

namespace Sys2Proof.Machine

/-! ### A set of cores as a byte -/

/-- The number whose bits below `n` are the numbers that a predicate names, summed as the model sums them. -/
def bitSum (p : Nat → Bool) (n : Nat) : Nat := ((List.range n).filter p).foldl (fun a c => a + 2 ^ c) 0

theorem bitSum_succ (p : Nat → Bool) (n : Nat) : bitSum p (n + 1) = bitSum p n + if p n then 2 ^ n else 0 := by
  unfold bitSum
  rw [List.range_succ, List.filter_append, List.foldl_append, List.filter_singleton]
  cases p n <;> rfl

theorem bitSum_lt (p : Nat → Bool) (n : Nat) : bitSum p n < 2 ^ n := by
  induction n with
  | zero => exact Nat.one_pos
  | succ n ih =>
    rw [bitSum_succ, pow_succ]
    split <;> omega

theorem bitSum_testBit (p : Nat → Bool) {n i : Nat} (below : i < n) : (bitSum p n).testBit i = p i := by
  induction n with
  | zero => omega
  | succ n ih =>
    rw [bitSum_succ, Nat.add_comm]
    obtain lt | rfl := Nat.lt_succ_iff_lt_or_eq.mp below
    · split
      · rw [Nat.testBit_two_pow_add_gt lt, ih lt]
      · rw [Nat.zero_add, ih lt]
    · have clear := Nat.testBit_lt_two_pow (bitSum_lt p i)
      split
      next here => rw [Nat.testBit_two_pow_add_eq, clear, here]; rfl
      next out => rw [Nat.zero_add, clear, Bool.eq_false_of_not_eq_true out]

/-- The cores that a predicate names, as a core set. -/
def capacitySet (p : Nat → Bool) : BitVec 8 := BitVec.ofNat 8 (bitSum p 8)

theorem capacitySet_getLsbD (p : Nat → Bool) {c : Nat} (core : c < 8) : (capacitySet p).getLsbD c = p c := by
  rw [capacitySet, BitVec.getLsbD_ofNat, decide_eq_true core, Bool.true_and, bitSum_testBit p core]

section
variable (s : State)

/-! ### Domains that go off -/

/-- Domains that go off reach CPX in the running command's uncommitted writes only (R136). -/
theorem State.gateOffEnd_cpx (mask : BitVec 64) : ∃ ds, (s.gateOffEnd mask).cpx =
    { s.cpx with qm := s.cpx.qm.map fun q => { q with run := q.run.lose ds } } := by
  refine ⟨(List.range 50).filter fun d => mask.getLsbD d, ?_⟩
  unfold State.gateOffEnd
  split
  · exact State.pwrEnd_cpx _ _
  · rfl

/-- With no PWR_REQUEST under way, domains that go off tell the host nothing (R371). -/
theorem State.gateOffEnd_hif (idle : s.pwr.busy = none) (mask : BitVec 64) : (s.gateOffEnd mask).hif = s.hif := by
  have free : s.pwrWorks mask = false := by simp [State.pwrWorks, idle]
  simp [State.gateOffEnd, free, State.gateOff, State.loseWrites]

/-! ### A command boundary -/

/-- A command boundary with a capacity change pending makes the core set the target's cores that are in it or have settled, and the
change is done when these are all of the target (R288). -/
theorem State.capacityBoundary_spec {r : CapReq} (pending : s.cpx.cap = some r) : ∃ t : State,
    s.capacityBoundary = (if (List.range 8).all (fun c => !r.target.getLsbD c || s.coreIn c) then
      (t.onCpx fun c => { c with cap := none }).done r.pkt 0 else t) ∧
    t.cpx.qmCores = capacitySet (fun c => r.target.getLsbD c && s.coreIn c) ∧ t.cpx.cap = some r ∧
    t.ctr = s.ctr ∧ t.sec = s.sec ∧ t.saf = s.saf ∧ (s.pwr.busy = none → t.hif = s.hif) := by
  unfold State.capacityBoundary
  split
  next none_ => rw [none_] at pending; cases pending
  next r' found =>
  obtain rfl : r' = r := Option.some.inj (found.symm.trans pending)
  extract_lets cur settled joined new removed added cacheJob uncached cached off mask gated set
  have all : settled = (List.range 8).all (fun c => !r'.target.getLsbD c || s.coreIn c) := by
    simp only [settled, cur, State.coreIn, Bool.or_assoc]
  have hcached : cached.cpx = s.cpx ∧ cached.ctr = s.ctr ∧ cached.sec = s.sec ∧ cached.saf = s.saf ∧ cached.pwr = s.pwr ∧
      cached.hif = s.hif := by
    unfold cached
    split <;> exact ⟨rfl, rfl, rfl, rfl, rfl, rfl⟩
  obtain ⟨cpx, ctr, sec, saf, pwr, hif⟩ := hcached
  obtain ⟨ds, gatedCpx⟩ := cached.gateOffEnd_cpx mask
  rw [← all]
  refine ⟨set, rfl, rfl, ?_, ?_, ?_, ?_, fun idle => ?_⟩
  · exact (congrArg Cpx.cap gatedCpx).trans (cpx ▸ pending)
  · exact (State.gateOffEnd_ctr _ _).trans ctr
  · exact (State.gateOffEnd_sec _ _).trans sec
  · exact (State.gateOffEnd_saf _ _).trans saf
  · exact (cached.gateOffEnd_hif (pwr ▸ idle) mask).trans hif

end

/-! ### SET_CAPACITY -/

section
variable {s : State} {ring : Nat} {pk : Packet} (starts : s.Starts ring 0x34 pk)

/-- The state in which SET_CAPACITY has answered an earlier one (log 23). -/
def State.capAnswered (s : State) (pk : Packet) : State :=
  match s.cpx.cap with
  | none => s.markStarted pk
  | some r => ((s.markStarted pk).onCpx fun c => { c with cap := none }).done r.pkt 0

/-- The core set that SET_CAPACITY asks for. -/
def Packet.capTarget (pk : Packet) : BitVec 8 := BitVec.ofNat 8 (pk.u 0x10 1)

/-- The state in which no domain of the target is closing any more (log 132, log 177). -/
def State.capOpened (s : State) (pk : Packet) : State :=
  (s.capAnswered pk).gateOffEnd (coreDomains pk.capTarget &&& (s.capAnswered pk).pwr.closing)

/-- The target's domains rise and its change is pending (R288). -/
def State.capAsked (s : State) (pk : Packet) : State :=
  ((s.capOpened pk).onPwr fun p => { p with rising := p.rising ||| (coreDomains pk.capTarget &&& ~~~p.domains) }).onCpx fun c =>
    { c with cap := some { pkt := s.begun pk, target := pk.capTarget } }

theorem State.capAsked_qm : (s.capAsked pk).cpx.qm.isNone = s.cpx.qm.isNone := by
  obtain ⟨ds, cpx⟩ := (s.capAnswered pk).gateOffEnd_cpx (coreDomains pk.capTarget &&& (s.capAnswered pk).pwr.closing)
  have opened : (s.capAsked pk).cpx.qm = (s.capAnswered pk).cpx.qm.map fun q => { q with run := q.run.lose ds } := congrArg Cpx.qm cpx
  have answered : (s.capAnswered pk).cpx.qm = s.cpx.qm := by
    unfold State.capAnswered
    split
    · rfl
    · exact congrArg Prod.fst (State.done_qmSide _ _ _)
  rw [opened, answered, Option.isNone_map]

include starts in
theorem doSetCapacity_asks : doSetCapacity ring s = (s.capAsked pk).boundary := by
  rw [doSetCapacity, starts.run]
  unfold State.capAsked State.capOpened State.capAnswered
  rw [show (s.markStarted pk).cpx.cap = s.cpx.cap from rfl]
  cases s.cpx.cap <;> rfl

end

/-- Settles O24. -/
theorem setCapacityActsAtABoundary : Obligations.SetCapacityActsAtABoundary := by
  intro s v u ring pk starts answered opened
  obtain rfl : v = s.capAnswered pk := by rw [answered]; unfold State.capAnswered; cases s.cpx.cap <;> rfl
  obtain rfl : u = s.capOpened pk := opened
  have run : exec (.setCapacity ring) s = .next (s.capAsked pk).boundary := congrArg Host.Outcome.next (doSetCapacity_asks starts)
  have atBoundary : s.cpx.qm = none → (s.capAsked pk).boundary = (s.capAsked pk).capacityBoundary := fun free =>
    if_pos (by rw [State.capAsked_qm, free]; rfl)
  obtain ⟨t, made, set_, cap, ctr, sec, saf, hif⟩ := (s.capAsked pk).capacityBoundary_spec rfl
  have bit : ∀ c, c < 8 → t.cpx.qmCores.getLsbD c = (pk.capTarget.getLsbD c && (s.capOpened pk).coreIn c) := fun c core => by
    rw [set_, capacitySet_getLsbD _ core]
    rfl
  refine ⟨fun q busy => ?_, fun free all => ?_, fun free ⟨c, core, target, out⟩ => ?_⟩
  · rw [run, State.boundary, if_neg (by rw [State.capAsked_qm, busy]; simp)]
    rfl
  · have done_ : (List.range 8).all (fun c => !pk.capTarget.getLsbD c || (s.capAsked pk).coreIn c) = true := by
      simp only [List.all_eq_true, List.mem_range, Bool.or_eq_true, Bool.not_eq_true']
      exact fun c core => (Bool.eq_false_or_eq_true _).symm.imp id (all c core)
    refine ⟨_, run.trans (congrArg Host.Outcome.next (((atBoundary free).trans made).trans (if_pos done_))), ?_, rfl, ctr, sec, saf⟩
    refine BitVec.eq_of_getLsbD_eq fun c core => (bit c core).trans ?_
    cases here : pk.capTarget.getLsbD c
    · exact here.symm
    · exact (all c core here).trans here.symm
  · have left : ¬(List.range 8).all (fun c => !pk.capTarget.getLsbD c || (s.capAsked pk).coreIn c) = true := fun all => by
      have := List.all_eq_true.mp all c (List.mem_range.mpr core)
      rw [show pk.capTarget.getLsbD c = true from target, show (s.capAsked pk).coreIn c = false from out] at this
      exact Bool.noConfusion this
    exact ⟨_, run.trans (congrArg Host.Outcome.next (((atBoundary free).trans made).trans (if_neg left))), bit, cap, hif, ctr⟩

end Sys2Proof.Machine
end

section
/-! SUPPORT. Writes to LPDDR5X leave every byte outside their range, in whatever form the memory is listed, and the part's operations that
write none leave them all. -/

namespace Sys2Proof.Machine

theorem memGet_memSet_other {x y : Nat} (other : y ≠ x) (v : Byte) (m : Memory) : memGet (memSet m x v) y = memGet m y := by
  have skip : ∀ w r, memGet ((x, w) :: r) y = memGet r y := fun w r => if_neg other.symm
  induction m with
  | nil =>
    unfold memSet
    split
    · rfl
    · exact skip _ _
  | cons c r ih =>
    unfold memSet
    split
    · split
      · rfl
      · exact skip _ _
    · split
      next here =>
        have gone : memGet (c :: r) y = memGet r y := if_neg (here ▸ other.symm)
        split
        · exact gone.symm
        · exact (skip _ _).trans gone.symm
      next => rw [memGet, memGet, ih]

theorem Fab.peek_pokes_dram {sp : Space} {a b : Nat} {l : List Byte} (out : sp ≠ .dram ∨ b < a ∨ a + l.length ≤ b) (f : Fab) :
    (f.pokes .dram a l).peek sp b = f.peek sp b := by
  induction l generalizing f a with
  | nil => rfl
  | cons v r ih =>
    rw [List.length_cons] at out
    refine (ih (out.imp_right fun h => by omega) _).trans ?_
    cases sp with
    | dram => exact memGet_memSet_other (by have := out.resolve_left (absurd rfl); omega) v f.dram
    | _ => rfl

/-- From `s` to `t` only bytes of LPDDR5X at `lo` and up to `hi` change. -/
def State.WritesIn (lo hi : Nat) (s t : State) : Prop := ∀ sp a, (sp ≠ .dram ∨ a < lo ∨ hi ≤ a) → t.fab.peek sp a = s.fab.peek sp a

section
variable {lo hi : Nat} {s t u : State}

theorem State.WritesIn.same (kept : t.fab = s.fab) : s.WritesIn lo hi t := fun _ _ _ => by rw [kept]

theorem State.WritesIn.trans (h : s.WritesIn lo hi t) (k : t.WritesIn lo hi u) : s.WritesIn lo hi u :=
  fun sp a out => (k sp a out).trans (h sp a out)

theorem State.WritesIn.widen {hi' : Nat} (h : s.WritesIn lo hi t) (wider : hi ≤ hi') : s.WritesIn lo hi' t :=
  fun sp a out => h sp a (out.imp_right (Or.imp_right wider.trans))

theorem State.WritesIn.foldl {α : Type} {f : State → α → State} {l : List α} (step : ∀ t : State, ∀ a ∈ l, t.WritesIn lo hi (f t a)) :
    s.WritesIn lo hi (l.foldl f s) := by
  induction l generalizing s with
  | nil => exact .same rfl
  | cons a r ih => exact (step s a List.mem_cons_self).trans (ih fun t b here => step t b (List.mem_cons_of_mem _ here))

theorem State.onCpx_writesIn (f : Cpx → Cpx) : s.WritesIn lo hi (s.onCpx f) := .same rfl

theorem State.putDram_writesIn {a : Nat} {l : List Byte} (low : lo ≤ a) (high : a + l.length ≤ hi) : s.WritesIn lo hi (s.putDram a l) :=
  fun _ _ out => Fab.peek_pokes_dram (out.imp_right fun h => by omega) s.fab

theorem State.replyAll_writesIn (pk : Packet) (st dt res waves ns : Nat) : s.WritesIn lo hi (s.replyAll pk st dt res waves ns) :=
  .same (congrArg Prod.fst (State.replyAll_machinery _ _ _ _ _ _ _))

end

end Sys2Proof.Machine
end

section
/-! PROOF of the statement about batch pools: what the commands of a boundary write (`State.WritesIn`), and where (`Cpx.PoolsAt`), then each
command at the front of its RUNNING job. -/

namespace Sys2Proof.Machine

/-! ### The pool of a ring's job -/

/-- The pool of every job, by its ring. -/
def Cpx.pools (c : Cpx) : List (Nat × Option Pool) := c.jobs.map fun j => (j.ring, j.pool)

/-- Every pool of the ring's job lies at `base`. -/
def Cpx.PoolsAt (c : Cpx) (ring base : Nat) : Prop := ∀ x ∈ c.pools, x.1 = ring → ∀ p, x.2 = some p → p.base = base

/-- A reply leaves every job its pool. -/
theorem Cpx.replyBlind_pools : Cpx.ReplyBlind Cpx.pools where
  putRing _ _ := rfl
  retire _ _ _ := by
    unfold Cpx.retire
    split
    · rfl
    · refine (List.map_map ..).trans (List.map_congr_left fun j _ => ?_)
      dsimp only [Function.comp]
      split <;> rfl
  owed _ _ := rfl
  unmaps _ _ := rfl

theorem Cpx.PoolsAt.job {c : Cpx} {ring base : Nat} (at_ : c.PoolsAt ring base) {j : Job} (job : c.job? ring = some j) {p : Pool}
    (pool : j.pool = some p) : p.base = base :=
  at_ _ (List.mem_map_of_mem (List.mem_of_find?_eq_some job)) (by simpa using List.find?_some job) p pool

section
variable (s : State) (ring : Nat) (p : Pool)

theorem State.setPool_poolsAt : (s.setPool ring p).cpx.PoolsAt ring p.base := by
  intro x here same q pool
  obtain ⟨j, job, rfl⟩ := List.mem_map.mp here
  simp only [State.setPool, State.onCpx_cpx] at job
  split at job
  next i found =>
    have ring' : i.ring = ring := by simpa using List.find?_some found
    obtain ⟨k, -, rfl⟩ := List.mem_map.mp job
    by_cases mine : k.ring = i.ring
    · obtain rfl : p = q := by simpa [mine] using pool
      rfl
    · exact absurd same (by rw [if_neg mine]; exact ring' ▸ mine)
  next none_ =>
    exact absurd same (by simpa using List.find?_eq_none.mp none_ j job)

/-! ### What a boundary writes -/

theorem State.setSlot_writesIn {p : Pool} {slot : Nat} (few : p.slots ≤ 4096) (inside : slot < p.slots) (len seq : Nat) :
    s.WritesIn p.base (p.base + 65536) (s.setSlot p slot len seq) :=
  (State.putDram_writesIn (by omega) (by simp; omega)).trans
    (State.putDram_writesIn (by omega) (by simp [Pool.seqOff]; omega))

theorem State.copyPages_writesIn {p : Pool} {slot : Nat} (inside : slot < p.slots) (src : Nat) :
    s.WritesIn p.base (p.base + 65536 * (1 + p.pages * p.slots)) (s.copyPages p slot src) := by
  unfold State.copyPages
  refine .foldl fun t k here => State.putDram_writesIn (Nat.le_add_right _ _) ?_
  have last : (k + 1) * p.slots ≤ p.pages * p.slots := Nat.mul_le_mul_right _ (List.mem_range.mp here)
  rw [Nat.add_mul] at last
  rw [memBytes_length]
  omega

variable {s ring}

theorem State.closeBatch_writesIn {base : Nat} (at_ : s.cpx.PoolsAt ring base) : s.WritesIn base (base + 65536) (s.closeBatch ring) := by
  unfold State.closeBatch
  split
  · exact .same rfl
  next j job =>
    split
    · exact .same rfl
    next q pool =>
      obtain rfl := at_.job job pool
      split
      · exact .same rfl
      · split
        · exact .same rfl
        · exact (State.onCpx_writesIn _).trans
            ((State.putDram_writesIn (Nat.le_add_right _ _) (by simp)).trans (State.putDram_writesIn (Nat.le_add_right _ _) (by simp)))

theorem State.afterSeq_writesIn {base : Nat} (at_ : s.cpx.PoolsAt ring base) (pk : Packet) :
    s.WritesIn base (base + 65536) (s.afterSeq ring pk) := by
  unfold State.afterSeq
  split
  · exact .same rfl
  next j job =>
    split
    · exact .same rfl
    · split
      · exact .same rfl
      next q pool =>
        obtain rfl := at_.job job pool
        exact (State.onCpx_writesIn _).trans (State.closeBatch_writesIn (s.setPool_poolsAt ring { q with open_ := pk.cmdIdx }))

/-- The ring's job gets its pool, a reply leaves it there, and the boundary goes on. -/
theorem State.reply_afterSeq_writesIn {base : Nat} (here : p.base = base) (pk q : Packet) (st dt res waves ns : Nat) :
    s.WritesIn base (base + 65536) (((s.setPool ring p).replyAll q st dt res waves ns).afterSeq ring pk) := by
  subst here
  have at_ : ((s.setPool ring p).replyAll q st dt res waves ns).cpx.PoolsAt ring p.base := by
    unfold Cpx.PoolsAt
    rw [Cpx.replyBlind_pools.replyAll]
    exact s.setPool_poolsAt ring p
  exact (State.onCpx_writesIn _).trans ((State.replyAll_writesIn _ _ _ _ _ _).trans (State.afterSeq_writesIn at_ pk))

/-! ### Where the commands of a boundary write -/

/-- The map page of a pool that may be declared fits in its page (Table 11.4). -/
theorem Pool.mapBytes_length_le (few : p.slots ≤ 4096) : p.mapBytes.length ≤ 65536 := by
  simp [Pool.mapBytes, Pool.seqOff]
  omega

theorem State.declared_writesIn (few : p.slots ≤ 4096) (q : Packet) (st dt res waves ns : Nat) : s.WritesIn p.base (p.base + 65536)
    (((s.putDram p.base p.mapBytes).setPool ring p).replyAll q st dt res waves ns) :=
  ((State.putDram_writesIn le_rfl (Nat.add_le_add_left (p.mapBytes_length_le few) _)).trans (State.onCpx_writesIn _)).trans
    (State.replyAll_writesIn _ _ _ _ _ _)

variable {p} {slot : Nat} (few : p.slots ≤ 4096) (inside : slot < p.slots) (occupants : List (Nat × Word)) (len seq : Nat)
  (pk q : Packet) (st dt res waves ns : Nat)
include few inside

theorem State.left_writesIn : s.WritesIn p.base (p.base + 65536)
    ((((s.setSlot p slot len seq).setPool ring { p with occupants := occupants }).replyAll q st dt res waves ns).afterSeq ring pk) :=
  (s.setSlot_writesIn few inside len seq).trans (State.reply_afterSeq_writesIn { p with occupants := occupants } rfl pk q st dt res waves ns)

theorem State.joined_writesIn (src : Nat) : s.WritesIn p.base (p.base + 65536 * (1 + p.pages * p.slots))
    ((((((s.markJoined ring).copyPages p slot src).setSlot p slot len seq).setPool ring
      { p with occupants := occupants }).replyAll q st dt res waves ns).afterSeq ring pk) :=
  ((State.onCpx_writesIn _).trans ((s.markJoined ring).copyPages_writesIn inside src)).trans
    ((State.left_writesIn few inside occupants len seq pk q st dt res waves ns).widen (by omega))

end

/-! ### The commands of a boundary -/

section
variable {s : State} {ring : Nat} {j : Job} {hd pk : Packet}

/-- A command of a job that has room for its reply and that no common rule refuses runs its body (R264). -/
theorem State.startCmd_admitted (room : s.cpx.cplRoom pk.ring = true) (admitted : s.gate pk = none) (body : Packet → State → State) :
    s.startCmd pk body = body (s.begun pk) s := by
  unfold State.startCmd
  rw [if_neg (by simp [room])]
  dsimp only
  rw [show s.gate { pk with started := some s.now } = none from admitted]
  rfl

variable (on : s.pins.rstN = true) (cap : s.cpx.cap = none)
include on cap

theorem doSeqJoin_declares (next : s.nextCmd ring = some (j, pk)) (code : pk.opcode = 0x35) (declares : pk.u 0x10 4 = 0xFFFFFFFF)
    (room : s.cpx.cplRoom pk.ring = true) (admitted : s.gate pk = none) : doSeqJoin ring s = s.declarePool (s.begun pk) j := by
  unfold doSeqJoin
  rw [if_neg (by simp [on]), s.boundary_of_noCap cap]
  dsimp only
  rw [next]
  dsimp only
  rw [if_pos (by simp [Packet.inBatch, code, declares]), State.startCmd_admitted room admitted]

theorem doSeqJoin_joins (next : s.nextCmd ring = some (j, hd)) (batch : hd.inBatch = true) (noLeave : ∀ x ∈ j.batch, x.opcode ≠ 0x36)
    (first : j.batch.head? = some pk) (room : s.cpx.cplRoom pk.ring = true) (admitted : s.gate pk = none) :
    doSeqJoin ring s = (s.seqJoin (s.begun pk) j).afterSeq ring pk := by
  unfold doSeqJoin
  rw [if_neg (by simp [on]), s.boundary_of_noCap cap]
  dsimp only
  rw [next]
  dsimp only
  rw [if_neg (by simp [batch]), if_neg (by simpa using noLeave), first]
  dsimp only
  rw [State.startCmd_admitted room admitted]

theorem doSeqLeave_leaves (next : s.nextCmd ring = some (j, hd)) (first : j.batch.find? (fun x => x.opcode = 0x36) = some pk)
    (room : s.cpx.cplRoom pk.ring = true) (admitted : s.gate pk = none) :
    doSeqLeave ring s = (s.seqLeave (s.begun pk) j).afterSeq ring pk := by
  unfold doSeqLeave
  rw [if_neg (by simp [on]), s.boundary_of_noCap cap]
  dsimp only
  rw [next]
  dsimp only
  rw [first]
  dsimp only
  rw [State.startCmd_admitted room admitted]

end

/-! ### What each command does -/

section
variable {s : State} {j : Job} {pk : Packet}

theorem State.declarePool_makes (noPool : j.pool = none) (first : j.joined = false) (some_ : 1 ≤ pk.u 0x14 4 % 65536)
    (few : pk.u 0x14 4 % 65536 ≤ 4096) (pages : 1 ≤ pk.u 0x14 4 / 65536) (fewPages : pk.u 0x14 4 / 65536 ≤ 16)
    (aligned : pk.u 0x18 8 % 65536 = 0)
    (range : s.mss.inOne tagQm (pk.u 0x18 8) (65536 * (1 + pk.u 0x14 4 / 65536 * (pk.u 0x14 4 % 65536))) = true) {p : Pool}
    (pool : p = Pool.mk (pk.u 0x18 8) (pk.u 0x14 4 % 65536) (pk.u 0x14 4 / 65536) [] 0 none) :
    s.declarePool pk j = ((s.putDram p.base p.mapBytes).setPool pk.ring p).replyAll pk stDone 0 0 0 0 := by
  subst pool
  unfold State.declarePool
  dsimp only
  rw [if_neg (by simp [noPool, first]), if_neg (by omega), if_neg (by simp [aligned, range])]

variable {p : Pool} (pool : j.pool = some p)
include pool

section
variable (fresh : ∀ o ∈ p.occupants, o.2 ≠ BitVec.ofNat 32 (pk.u 0x10 4)) (pages : pk.u 0x14 4 = p.pages)
  (source : s.mss.inOne tagQm (pk.u 0x18 8) (65536 * p.pages) = true)
include fresh pages source

/-- A sequence that may join takes the lowest free slot, or is deferred without one (R291). -/
theorem State.seqJoin_good : s.seqJoin pk j = match p.freeSlot with
    | none => (s.markJoined pk.ring).replyAll pk stDeferred 0 0 0 0
    | some i => ((((s.markJoined pk.ring).copyPages p i (pk.u 0x18 8)).setSlot p i 0x7FFFFFFF (pk.u 0x10 4)).setPool pk.ring
        { p with occupants := p.occupants ++ [(i, BitVec.ofNat 32 (pk.u 0x10 4))] }).replyAll pk stDone 0 0 0 0 := by
  have source' : (s.markJoined pk.ring).mss.inOne tagQm (pk.u 0x18 8) (65536 * p.pages) = true := source
  unfold State.seqJoin
  dsimp only
  rw [pool]
  dsimp only
  refine (if_neg (by simpa using fun a here => fresh _ here rfl)).trans <| (if_neg (by simp [pages])).trans <|
    (if_neg (by simp [source'])).trans ?_
  cases p.freeSlot <;> rfl

end

theorem State.seqLeave_good {o : Nat × Word} (member : p.occupants.find? (fun x => x.2 = BitVec.ofNat 32 (pk.u 0x10 4)) = some o) :
    s.seqLeave pk j = ((s.setSlot p o.1 0 0xFFFFFFFF).setPool pk.ring
      { p with occupants := p.occupants.filter fun x => x.1 ≠ o.1 }).replyAll pk stDone 0 0 0 0 := by
  unfold State.seqLeave
  rw [pool]
  dsimp only
  rw [member]

end

/-- Settles O25. -/
theorem batchPoolsJoinAndLeave : Obligations.BatchPoolsJoinAndLeave := by
  refine ⟨fun s ring j pk on cap next code declares mine room admitted noPool first some_ few pages fewPages aligned range => ?_,
    fun s ring j hd pk p i on cap next batch noLeave first _ mine room admitted pool few fresh pages source free => ?_,
    fun s ring j hd pk p on cap next batch noLeave first _ mine room admitted pool fresh pages source full => ?_,
    fun s ring j hd pk p o on cap next first mine room admitted pool few _ inside member => ?_⟩
  all_goals subst mine
  · exact ⟨_, _, rfl, congrArg Host.Outcome.next ((doSeqJoin_declares on cap next code declares room admitted).trans
      (State.declarePool_makes (pk := s.begun pk) noPool first some_ few pages fewPages aligned range rfl)), rfl,
      State.declared_writesIn _ few _ _ _ _ _ _⟩
  · exact ⟨_, congrArg Host.Outcome.next ((doSeqJoin_joins on cap next batch noLeave first room admitted).trans
      (congrArg (State.afterSeq pk.ring pk)
        ((State.seqJoin_good (pk := s.begun pk) pool fresh pages source).trans (by rw [free]; rfl)))), rfl,
      State.joined_writesIn few (List.mem_range.mp (List.mem_of_find?_eq_some free)) _ _ _ _ _ _ _ _ _ _ _⟩
  · exact congrArg Host.Outcome.next ((doSeqJoin_joins on cap next batch noLeave first room admitted).trans
      (congrArg (State.afterSeq pk.ring pk) ((State.seqJoin_good (pk := s.begun pk) pool fresh pages source).trans (by rw [full]; rfl))))
  · exact ⟨_, congrArg Host.Outcome.next ((doSeqLeave_leaves on cap next first room admitted).trans
      (congrArg (State.afterSeq pk.ring pk) (State.seqLeave_good (pk := s.begun pk) pool member))), rfl,
      State.left_writesIn few inside _ _ _ _ _ _ _ _ _ _⟩

end Sys2Proof.Machine
end

section
/-! PROOF of the statement about STOP_FRAMES: what it cancels at once (`State.framesStopped`), whether its reply waits for the last trailer
(`State.stopReply_waits`, `State.stopReply_replies`), and what stopping the program leaves (`State.stopProgram_stops`). -/

namespace Sys2Proof.Machine

section
variable (s : State)

/-! ### A pending split at a frame boundary -/

@[simp] theorem State.splitBoundary_emt : s.splitBoundary.emt = s.emt := congrArg (fun x => x.2.2.1) s.splitBoundary_schedule

@[simp] theorem State.splitBoundary_fab : s.splitBoundary.fab = s.fab := congrArg Prod.fst s.splitBoundary_machinery

@[simp] theorem State.splitBoundary_windowOpen : s.splitBoundary.cpx.windowOpen = s.cpx.windowOpen :=
  congrArg (fun x => x.2.2) s.splitBoundary_qmSide

@[simp] theorem State.closeRounds_cpx : s.closeRounds.cpx = s.cpx :=
  foldl_keeps State.cpx (fun t (r : Round) => t.takeAgreed_cpx r.addr r.result) _ _

@[simp] theorem State.splitBoundary_stop : s.splitBoundary.cpx.stop = s.cpx.stop := by
  unfold State.splitBoundary
  split
  · rfl
  · split <;> simp

theorem State.splitBoundary_unasked (none_ : s.ckc.split = none) : s.splitBoundary = s := by
  simp [State.splitBoundary, none_]

/-! ### Cancelling every launch -/

/-- What STOP_FRAMES does before it looks for its frame (R276): no launch stays placed, an idle program leaves the fabric to the QM, and
with no frame running a pending split takes effect (R304). -/
def State.framesStopped (s : State) : State :=
  let s := s.cancelLaunches
  let s := if s.ctr.prog.running then s else s.onCpx fun c => { c with windowOpen := true }
  if s.noFrame then s.splitBoundary else s

theorem State.framesStopped_spec : s.framesStopped.ctr = { s.ctr with placed := none, grid := none } ∧ s.framesStopped.fab = s.fab ∧
    s.framesStopped.emt = s.emt ∧ (s.ckc.split = none → s.framesStopped.hif = s.hif) := by
  unfold State.framesStopped
  extract_lets cancelled opened
  have keeps : opened.ctr = cancelled.ctr ∧ opened.fab = s.fab ∧ opened.emt = s.emt ∧ opened.ckc = s.ckc ∧ opened.hif = s.hif := by
    unfold opened
    split <;> exact ⟨rfl, rfl, rfl, rfl, rfl⟩
  obtain ⟨ctr, fab, emt, ckc, hif⟩ := keeps
  clear_value opened
  split
  · refine ⟨?_, ?_, ?_, fun none_ => ?_⟩
    · rw [State.splitBoundary_ctr, ctr]; rfl
    · rw [State.splitBoundary_fab, fab]
    · rw [State.splitBoundary_emt, emt]
    · rw [State.splitBoundary_unasked _ (ckc ▸ none_), hif]
  · exact ⟨ctr, fab, emt, fun _ => hif⟩

/-! ### The reply -/

variable {s} {r : StopReq} (stop : s.cpx.stop = some r)
include stop

theorem State.stopReply_waits
    (waits : (∃ f ∈ s.emt.frames, f.frame = r.frame) ∨ (r.abort = true ∧ s.ctr.prog.running = true)) : s.stopReply = s := by
  unfold State.stopReply
  rw [stop]
  refine if_neg ?_
  obtain ⟨f, here, same⟩ | ⟨abort, running⟩ := waits
  · simp only [Bool.and_eq_true, Bool.not_eq_true', List.any_eq_false, decide_eq_true_eq]
    exact fun out => out.1 f here same
  · simp [abort, running]

theorem State.stopReply_replies (out : ∀ f ∈ s.emt.frames, f.frame ≠ r.frame) (free : r.abort = false ∨ s.ctr.prog.running = false) :
    s.stopReply = (s.onCpx fun c => { c with stop := none }).done r.pkt (r.frame + if r.stopped then 2 ^ 32 else 0) := by
  unfold State.stopReply
  rw [stop]
  refine if_pos ?_
  simp only [Bool.and_eq_true, Bool.not_eq_true', List.any_eq_false, decide_eq_true_eq, Bool.and_eq_false_iff]
  exact ⟨out, free⟩

end

/-! ### STOP_FRAMES -/

/-- The request that waits for the frame launched last. -/
def State.stopReq (s : State) (pk : Packet) : StopReq :=
  { pkt := s.begun pk, abort := decide (pk.u 0x10 1 = 1), frame := s.ctr.nextFrame - 1, stopped := false }

section
variable {s : State} {ring : Nat} {pk : Packet} (starts : s.Starts ring 0x23 pk)
include starts

theorem doStopFrames_accepts (flag : pk.u 0x10 1 ≤ 1) (version : pk.u 0x10 1 = 1 → 0x203 ≤ s.cpx.proto pk.client) :
    doStopFrames ring s = if s.ctr.nextFrame = 0 then (s.markStarted pk).framesStopped.done (s.begun pk) 0xFFFFFFFF
      else ((s.markStarted pk).framesStopped.onCpx fun c => { c with stop := some (s.stopReq pk) }).stopReply := by
  have next : (s.markStarted pk).framesStopped.ctr.nextFrame = s.ctr.nextFrame := by rw [(State.framesStopped_spec _).1]; rfl
  have accepted : ¬(1 < (s.begun pk).u 0x10 1 ∨ ((s.begun pk).u 0x10 1 = 1 ∧ (s.markStarted pk).cpx.proto (s.begun pk).client < 0x203)) := by
    rintro (high | ⟨abort, old⟩)
    · exact absurd flag (by simpa using high)
    · exact absurd (version abort) (by simpa using old)
  rw [doStopFrames, starts.run]
  dsimp only
  rw [if_neg accepted]
  unfold State.stopReq
  rw [← next]
  rfl

theorem doStopFrames_refuses (bad : 1 < pk.u 0x10 1 ∨ (pk.u 0x10 1 = 1 ∧ s.cpx.proto pk.client < 0x203)) :
    doStopFrames ring s = (s.markStarted pk).bad (s.begun pk) 0x10 := by
  rw [doStopFrames, starts.run]
  exact if_pos bad

end

/-! ### PROGRAM_ABORTED -/

/-- Stopping the program ends it and every launch behind it, halts every core and engine with no step in progress, and opens the QM
window; the command that asked for it still waits (R277). -/
theorem State.stopProgram_stops (s : State) :
    s.stopProgram.ctr = { s.ctr with prog := { s.ctr.prog with running := false, rings := [] }, lateStart := [] } ∧
    s.stopProgram.emt = s.emt ∧ s.stopProgram.cpx.windowOpen = true ∧
    (∀ k : Fin 8, (s.stopProgram.fab.cores.get k).run = Run.idle ∧ (s.stopProgram.fab.cores.get k).halted = true) ∧
    (∀ k : Fin 4, (s.stopProgram.fab.engines.get k).run = Run.idle ∧ (s.stopProgram.fab.engines.get k).halted = true) := by
  unfold State.stopProgram
  extract_lets runs dropped released halted stopped
  have hdropped : dropped.standing = s.standing := foldl_keeps State.standing (fun t r => t.dropStep_standing r) _ _
  have hreleased : released.standing = dropped.standing := by
    unfold released
    split
    next c _ =>
      extract_lets bound
      have hbound : bound.standing = dropped.standing := by unfold bound; split <;> simp
      exact (foldl_keeps State.standing (fun t l => t.releaseLate_standing c l) _ _).trans hbound
    next => rfl
  have kept := congrArg Prod.fst (hreleased.trans hdropped)
  have ctr : released.ctr = s.ctr := congrArg (fun x => x.2.1) kept
  have emt : released.emt = s.emt := congrArg (fun x => x.2.2.1) kept
  refine ⟨?_, emt, rfl, fun k => ?_, fun k => ?_⟩
  · exact congrArg (fun c : Ctr => { c with prog := { c.prog with running := false, rings := [] }, lateStart := [] }) ctr
  · simp [State.openWindow, stopped, halted, Vector.get_eq_getElem]
  · simp [State.openWindow, stopped, halted, Vector.get_eq_getElem]

/-- The program is stopped, its event is noted and a pending split takes effect (R277, R304). -/
def State.aborted (s : State) (r : StopReq) : State :=
  ((s.stopProgram.note 0x1009 sevWarning noUnit s.ctr.prog.frame 0 0).onCpx fun c =>
    { c with stop := some { r with stopped := true } }).splitBoundary

theorem doProgramAborted_stops {s : State} {r : StopReq} (on : s.pins.rstN = true) (stop : s.cpx.stop = some r) (abort : r.abort = true)
    (running : s.ctr.prog.running = true) (out : ∀ f ∈ s.emt.frames, f.frame ≠ r.frame) :
    doProgramAborted s = ((s.aborted r).onCpx fun c => { c with stop := none }).done r.pkt (r.frame + 2 ^ 32) := by
  obtain ⟨ctr, emt, -⟩ := s.stopProgram_stops
  have due : (s.pins.rstN && r.abort && s.ctr.prog.running && !(s.emt.frames.any fun f => f.frame = r.frame)) = true := by
    simpa [on, abort, running] using out
  have reply : (s.aborted r).stopReply = ((s.aborted r).onCpx fun c => { c with stop := none }).done r.pkt (r.frame + 2 ^ 32) :=
    State.stopReply_replies (r := { r with stopped := true }) (by simp [State.aborted])
      (by simpa [State.aborted, emt] using out) (.inr (by simp [State.aborted, ctr]))
  unfold doProgramAborted
  rw [stop]
  exact (if_pos due).trans reply

/-- Settles O29. -/
theorem stopFramesCancelsAndAborts : Obligations.StopFramesCancelsAndAborts := by
  refine ⟨fun s ring pk starts flag version => ?_,
    fun s ring pk starts bad => congrArg Host.Outcome.next (doStopFrames_refuses starts bad),
    fun s r on stop abort running out => ?_⟩
  · obtain ⟨ctr, fab, emt, hif⟩ := (s.markStarted pk).framesStopped_spec
    have run : exec (.stopFrames ring) s = .next _ := congrArg Host.Outcome.next (doStopFrames_accepts starts flag version)
    refine ⟨fun zero => ⟨_, run.trans (by rw [if_pos zero]), ctr, fab⟩, fun some_ waits => ?_, fun some_ out free => ?_⟩
    all_goals rw [if_neg some_] at run
    · refine ⟨_, run.trans (congrArg Host.Outcome.next (State.stopReply_waits (r := s.stopReq pk) rfl ?_)), ctr, fab, hif, rfl⟩
      obtain ⟨f, here, last⟩ | ⟨abort, running⟩ := waits
      · exact .inl ⟨f, emt ▸ here, last⟩
      · exact .inr ⟨decide_eq_true abort, (congrArg (fun c => c.prog.running) ctr).trans running⟩
    · refine ⟨_, run.trans (congrArg Host.Outcome.next (State.stopReply_replies (r := s.stopReq pk) rfl ?_ ?_)), ctr, fab, rfl⟩
      · exact fun f here => out f (emt ▸ here)
      · obtain keep | idle := free
        · exact .inl (decide_eq_false (by omega))
        · exact .inr ((congrArg (fun c => c.prog.running) ctr).trans idle)
  · obtain ⟨ctr, -, window, cores, engines⟩ := s.stopProgram_stops
    refine ⟨_, congrArg Host.Outcome.next (doProgramAborted_stops on stop abort running out), ?_, ?_, ?_, ?_, rfl,
      by simpa [State.aborted] using cores, by simpa [State.aborted] using engines, ?_⟩
    all_goals simp [State.aborted, ctr, window]

end Sys2Proof.Machine
end

section
/-! PROOF of the invariants of the whole machine: every command keeps what `Keeps` says, and so does a step, whose command runs on the
state with the queue's rest. -/

namespace Sys2Proof.Machine

/-- Every command keeps the queue, the canonical memories, SAFE_N against the latch, the fuses and the bound of the event queue. -/
theorem exec_keeps {c : Instr} {s t : State} (run : exec c s = .next t) : Keeps s t := by
  cases c with
  | doorbell => exact execDoorbell_keeps run
  | packetFetch => exact execPacketFetch_keeps run
  | readError => exact execReadError_keeps run
  | hello => exact execHello_keeps run
  | queryCaps => exact execQueryCaps_keeps run
  | openClient => exact execOpenClient_keeps run
  | closeClient => exact execCloseClient_keeps run
  | createRing => exact execCreateRing_keeps run
  | destroyRing => exact execDestroyRing_keeps run
  | loadContract => exact execLoadContract_keeps run
  | armContract => exact execArmContract_keeps run
  | launchAt => exact execLaunchAt_keeps run
  | stopFrames => exact execStopFrames_keeps run
  | programAborted => exact execProgramAborted_keeps run
  | submitJob => exact execSubmitJob_keeps run
  | jobDispatch => exact execJobDispatch_keeps run
  | runOp => exact execRunOp_keeps run
  | endJob => exact execEndJob_keeps run
  | kill => exact execKill_keeps run
  | setCapacity => exact execSetCapacity_keeps run
  | seqJoin => exact execSeqJoin_keeps run
  | seqLeave => exact execSeqLeave_keeps run
  | mapBuffer => exact execMapBuffer_keeps run
  | unmapBuffer => exact execUnmapBuffer_keeps run
  | camera => exact execCamera_keeps run
  | camParams => exact execCamParams_keeps run
  | lidar => exact execLidar_keeps run
  | motion => exact execMotion_keeps run
  | cci => exact execCci_keeps run
  | disable => exact execDisable_keeps run
  | fsyncSchedule => exact execFsyncSchedule_keeps run
  | timeConfig => exact execTimeConfig_keeps run
  | timeAcceptStep => exact execTimeAcceptStep_keeps run
  | logRead => exact execLogRead_keeps run
  | logClear => exact execLogClear_keeps run
  | statsRead => exact execStatsRead_keeps run
  | updateBegin => exact execUpdateBegin_keeps run
  | updateData => exact execUpdateData_keeps run
  | updateCommit => exact execUpdateCommit_keeps run
  | imageAreaWrite => exact execImageAreaWrite_keeps run
  | recoverySelfReset => exact execRecoverySelfReset_keeps run
  | attest => exact execAttest_keeps run
  | authChallenge => exact execAuthChallenge_keeps run
  | challengeExpiry => exact execChallengeExpiry_keeps run
  | prepareOff => exact execPrepareOff_keeps run
  | offReady => exact execOffReady_keeps run
  | diagRun => exact execDiagRun_keeps run
  | flagClear => exact execFlagClear_keeps run
  | checkerSplit => exact execCheckerSplit_keeps run
  | checkerJoin => exact execCheckerJoin_keeps run
  | discover => exact execDiscover_keeps run
  | halt => exact execHalt_keeps run
  | loadw => exact execLoadw_keeps run
  | mma => exact execMma_keeps run
  | conv => exact execConv_keeps run
  | drain => exact execDrain_keeps run
  | vop => exact execVop_keeps run
  | scalar => exact execScalar_keeps run
  | segEnd => exact execSegEnd_keeps run
  | fcvtBf16S => exact execFcvtBf16S_keeps run
  | fcvtSBf16 => exact execFcvtSBf16_keeps run
  | fcvtE4m3S => exact execFcvtE4m3S_keeps run
  | fcvtSE4m3 => exact execFcvtSE4m3_keeps run
  | dmaIn => exact execDmaIn_keeps run
  | dmaOut => exact execDmaOut_keeps run
  | gather => exact execGather_keeps run
  | gatherDescriptor => exact execGatherDescriptor_keeps run
  | wait => exact execWait_keeps run
  | waitSatisfied => exact execWaitSatisfied_keeps run
  | post => exact execPost_keeps run
  | golden => exact execGolden_keeps run
  | coppice => exact execCoppice_keeps run
  | commit => exact execCommit_keeps run
  | replay => exact execReplay_keeps run
  | drainComplete => exact execDrainComplete_keeps run
  | conv2d => exact execConv2d_keeps run
  | dwconv2d => exact execDwconv2d_keeps run
  | pool => exact execPool_keeps run
  | pad => exact execPad_keeps run
  | matmul => exact execMatmul_keeps run
  | eltwise => exact execEltwise_keeps run
  | activation => exact execActivation_keeps run
  | layerNorm => exact execLayerNorm_keeps run
  | softmax => exact execSoftmax_keeps run
  | layoutConvert => exact execLayoutConvert_keeps run
  | attention => exact execAttention_keeps run
  | ssmScan => exact execSsmScan_keeps run
  | embedGather => exact execEmbedGather_keeps run
  | resize => exact execResize_keeps run
  | gridSample => exact execGridSample_keeps run
  | undistort => exact execUndistort_keeps run
  | bevProject => exact execBevProject_keeps run
  | boxDecode => exact execBoxDecode_keeps run
  | topk => exact execTopk_keeps run
  | nms => exact execNms_keeps run
  | quantise => exact execQuantise_keeps run
  | dequantise => exact execDequantise_keeps run
  | amax => exact execAmax_keeps run
  | loss => exact execLoss_keeps run
  | ssmScanBwd => exact execSsmScanBwd_keeps run
  | gradNorm => exact execGradNorm_keeps run
  | optAdamw => exact execOptAdamw_keeps run
  | optSgd => exact execOptSgd_keeps run
  | launch => exact execLaunch_keeps run
  | preemptionKillToken => exact execPreemptionKillToken_keeps run
  | slotOpen => exact execSlotOpen_keeps run
  | recordDelivery => exact execRecordDelivery_keeps run
  | verdictDeadline => exact execVerdictDeadline_keeps run
  | frameTrailer => exact execFrameTrailer_keeps run
  | tileRecordCheck => exact execTileRecordCheck_keeps run
  | bandVerdict => exact execBandVerdict_keeps run
  | frameVerdict => exact execFrameVerdict_keeps run
  | voterTransaction => exact execVoterTransaction_keeps run
  | oddLaneTimeout => exact execOddLaneTimeout_keeps run
  | resyncCopyComplete => exact execResyncCopyComplete_keeps run
  | bandBoundary => exact execBandBoundary_keeps run
  | laneSelftest => exact execLaneSelftest_keeps run
  | ckcAlive => exact execCkcAlive_keeps run
  | nop => exact execNop_keeps run
  | release => exact execRelease_keeps run
  | forceSafe => exact execForceSafe_keeps run
  | spiRequestDiscarded => exact execSpiRequestDiscarded_keeps run
  | frameStart => exact execFrameStart_keeps run
  | longPacket => exact execLongPacket_keeps run
  | frameEnd => exact execFrameEnd_keeps run
  | testFrameComplete => exact execTestFrameComplete_keeps run
  | lidarDatagram => exact execLidarDatagram_keeps run
  | lidarWindowCommit => exact execLidarWindowCommit_keeps run
  | i2cClockStretchTimeout => exact execI2cClockStretchTimeout_keeps run
  | sync => exact execSync_keeps run
  | announce => exact execAnnounce_keeps run
  | pdelayReq => exact execPdelayReq_keeps run
  | pdelayReqInitiate => exact execPdelayReqInitiate_keeps run
  | pdelayResp => exact execPdelayResp_keeps run
  | holdoverTimeout => exact execHoldoverTimeout_keeps run
  | holdover => exact execHoldover_keeps run
  | ppsIn => exact execPpsIn_keeps run
  | ppsOutPlacement => exact execPpsOutPlacement_keeps run
  | ppsOut => exact execPpsOut_keeps run
  | fsyncPlacement => exact execFsyncPlacement_keeps run
  | fsyncEdge => exact execFsyncEdge_keeps run
  | domainOff => exact execDomainOff_keeps run
  | domainOn => exact execDomainOn_keeps run
  | rateTarget => exact execRateTarget_keeps run
  | park => exact execPark_keeps run
  | powerGateOpen => exact execPowerGateOpen_keeps run
  | domainSwitchComplete => exact execDomainSwitchComplete_keeps run
  | rateMonitorWindow => exact execRateMonitorWindow_keeps run
  | sentinelFlag => exact execSentinelFlag_keeps run
  | emtMarginExpiry => exact execEmtMarginExpiry_keeps run
  | belowFloor => exact execBelowFloor_keeps run
  | supplyLoopEvaluation => exact execSupplyLoopEvaluation_keeps run
  | avsbusTimeout => exact execAvsbusTimeout_keeps run
  | monitorSample => exact execMonitorSample_keeps run
  | thermalCapStep => exact execThermalCapStep_keeps run
  | thermalTrip => exact execThermalTrip_keeps run
  | mr4Read => exact execMr4Read_keeps run
  | patrolScrub => exact execPatrolScrub_keeps run
  | eccWriteBack => exact execEccWriteBack_keeps run
  | coppiceSlice => exact execCoppiceSlice_keeps run
  | rstNAssert => exact execRstNAssert_keeps run
  | rstNRelease => exact execRstNRelease_keeps run
  | perstNAssert => exact execPerstNAssert_keeps run
  | perstNRelease => exact execPerstNRelease_keeps run
  | functionLevelReset => exact execFunctionLevelReset_keeps run
  | pwrfailNAssert => exact execPwrfailNAssert_keeps run
  | ownerProvision => exact execOwnerProvision_keeps run
  | dbgChallenge => exact execDbgChallenge_keeps run
  | dbgResponse => exact execDbgResponse_keeps run
  | bar4Access => exact execBar4Access_keeps run
  | hifEventWrite => exact execHifEventWrite_keeps run
  | hifEventMaskWrite => exact execHifEventMaskWrite_keeps run
  | hifBar4WindowWrite => exact execHifBar4WindowWrite_keeps run
  | adminEnable => exact execAdminEnable_keeps run
  | adminDisable => exact execAdminDisable_keeps run
  | take => exact execTake_keeps run
  | apply => exact execApply_keeps run
  | regionApplyComplete => exact execRegionApplyComplete_keeps run
  | mssSafeReserveWrite => exact execMssSafeReserveWrite_keeps run
  | mssThermalCfgWrite => exact execMssThermalCfgWrite_keeps run
  | mssEventRateWrite => exact execMssEventRateWrite_keeps run
  | hifDoorbellErrorsRead => exact execHifDoorbellErrorsRead_keeps run
  | emtHostDropsRead => exact execEmtHostDropsRead_keeps run
  | ckcCopyDropsRead => exact execCkcCopyDropsRead_keeps run
  | dbgStatusRead => exact execDbgStatusRead_keeps run
  | pwrReqStatusRead => exact execPwrReqStatusRead_keeps run
  | registerWrite => exact execRegisterWrite_keeps run
  | eventFlashWrite => exact execEventFlashWrite_keeps run
  | sectorErase => exact execSectorErase_keeps run
  | opMark => exact execOpMark_keeps run
  | periodicSnapshot => exact execPeriodicSnapshot_keeps run
  | histogramTick => exact execHistogramTick_keeps run
  | tokenRefill => exact execTokenRefill_keeps run
  | endOfStart => exact execEndOfStart_keeps run
  | discoverComplete => exact execDiscoverComplete_keeps run
  | diagRunComplete => exact execDiagRunComplete_keeps run
  | cciOperationComplete => exact execCciOperationComplete_keeps run
  | lidarWindowOpen => exact execLidarWindowOpen_keeps run
  | flagRecordWritten => exact execFlagRecordWritten_keeps run
  | snapshotWriteComplete => exact execSnapshotWriteComplete_keeps run
  | pcieLinkDown => exact execPcieLinkDown_keeps run
  | pcieLinkUp => exact execPcieLinkUp_keeps run
  | sensorLinkDown => exact execSensorLinkDown_keeps run
  | sensorLinkUp => exact execSensorLinkUp_keeps run

/-- A step takes at most the front command off the queue, and otherwise keeps what every command keeps. -/
theorem step_keeps {s t : State} (run : step s = .next t) : ∃ rest, Keeps { s with pending := rest } t := by
  unfold step at run
  split at run
  · cases run
    exact ⟨s.pending, idle_keeps (Keeps.refl s)⟩
  · next rest _ => exact ⟨rest, exec_keeps run⟩

/-- Settles O1: the front command is what `step` takes. -/
theorem stepRunsTheFrontCommand : Obligations.StepRunsTheFrontCommand := fun _ _ _ => rfl

/-- Settles O3. -/
theorem commandsLeaveTheQueue : Obligations.CommandsLeaveTheQueue := fun _ _ _ run => (exec_keeps run).queue

/-- Settles O4: the canonical form does not speak of the queue, so the state with the queue's rest has it too. -/
theorem stepKeepsMemoriesCanonical : Obligations.StepKeepsMemoriesCanonical := by
  intro s t canon run
  obtain ⟨_, kept⟩ := step_keeps run
  exact kept.canon ⟨canon.fab, canon.flash⟩

/-- Settles O5. -/
theorem safeNFollowsTheLatch : Obligations.SafeNFollowsTheLatch := by
  intro s t safe run
  obtain ⟨_, kept⟩ := step_keeps run
  exact kept.pin safe

/-- Settles O6. -/
theorem fusesAreNeverUnset : Obligations.FusesAreNeverUnset := by
  intro s t run
  obtain ⟨_, kept⟩ := step_keeps run
  exact kept.fuses

/-- Settles O7. -/
theorem eventQueueStaysBounded : Obligations.EventQueueStaysBounded := by
  intro s t bounded run
  obtain ⟨_, kept⟩ := step_keeps run
  exact kept.bound bounded

/-- Time passes without a change of anything but TMB while RST_N is high. -/
theorem idle_frame (s : State) : (idle s).pending = s.pending ∧ (idle s).fab = s.fab ∧ (idle s).cpx = s.cpx ∧
    (idle s).hif = s.hif ∧ (idle s).saf = s.saf ∧ (idle s).sec = s.sec ∧ (idle s).flash = s.flash := by
  unfold idle
  split <;> simp

/-- With RST_N high, an idle nanosecond is one count of TMB. -/
theorem idle_now {s : State} (on : s.pins.rstN = true) (low : s.now + 1 < 2 ^ 64) : (idle s).now = s.now + 1 := by
  simp only [State.now] at low ⊢
  simp [idle, on, BitVec.toNat_add]
  omega

/-- Settles O2: the block idles. -/
theorem emptyQueueIdles : Obligations.EmptyQueueIdles := by
  intro s empty
  obtain ⟨pending, fab, cpx, hif, saf, sec, flash⟩ := idle_frame s
  exact ⟨idle s, by simp only [step, empty], pending.trans empty, idle_now, fab, cpx, hif, saf, sec, flash⟩

/-- Settles O8. -/
theorem resetMeetsTheInvariants : Obligations.ResetMeetsTheInvariants := by
  refine ⟨⟨⟨rfl, rfl, rfl, fun c => ?_⟩, ⟨rfl, rfl, rfl⟩⟩, rfl, Nat.zero_le _, rfl, rfl, rfl, rfl, rfl, rfl, rfl, rfl, rfl, rfl, rfl,
    rfl, rfl, rfl⟩
  simp [State.reset, Fab.reset, Vector.get_eq_getElem]

end Sys2Proof.Machine
end

section
/-! PROOF of the statements about time. What a measurement makes of TMB's state is said operation by operation: a new parameter set
is continuous but for its step (`Tim.vehicleTime_newSet`), and no operation of the servo touches what the measurement latched
(`Tim.latches`). -/

namespace Sys2Proof.Machine

/-! ### The clock and parameter sets -/

theorem State.advance_tim (s : State) (n : Nat) :
    (s.advance n).tim = { s.tim with count := BitVec.ofNat 64 (max s.tim.count.toNat n) } := by simp [State.advance]

theorem State.vnow_eq (s : State) : s.vnow = vehicleTime s.tim s.tim.count.toNat := rfl

/-- At its own count a new set is the old vehicle time and the step (R353). -/
theorem Tim.vehicleTime_newSet (m : Tim) (step rate : Int) :
    vehicleTime (m.newSet step rate) m.count.toNat = vehicleTime m m.count.toNat + step := by
  simp [vehicleTime, Tim.newSet, codeOf, sext]

/-! ### What the servo leaves alone -/

/-- What a measurement latches, and the count. -/
def Tim.latches (m : Tim) : DWord × Nat × Int × Nat × Int × Bool :=
  (m.count, m.lastMeas, m.error, m.ppsCount, m.ppsPhase, m.ppsSeen)

section
variable (s : State)

@[simp] theorem Tim.newSet_latches (m : Tim) (step rate : Int) : (m.newSet step rate).latches = m.latches := rfl

theorem State.enterServo_tim (v : Servo) : ∃ a b, (s.enterServo v).tim = { s.tim with servo := v, holdAt := a, holdNoted := b } := by
  unfold State.enterServo
  split
  next same => exact ⟨s.tim.holdAt, s.tim.holdNoted, by rw [← same]⟩
  next => exact ⟨_, _, by simp; exact ⟨rfl, rfl⟩⟩

/-- What does not look at the servo's state sees the same time after the servo's change. -/
theorem State.enterServo_sees {α : Type} {look : Tim → α} (blind : ∀ m v a b, look { m with servo := v, holdAt := a, holdNoted := b } = look m)
    (v : Servo) : look (s.enterServo v).tim = look s.tim := by
  obtain ⟨a, b, tim⟩ := s.enterServo_tim v
  rw [tim, blind]

@[simp] theorem State.enterServo_servo (v : Servo) : (s.enterServo v).tim.servo = v := by
  obtain ⟨a, b, tim⟩ := s.enterServo_tim v
  rw [tim]

/-- Entering HOLDOVER notes its count (R355). -/
theorem State.enterServo_holdover (other : s.tim.servo ≠ .holdover) :
    (s.enterServo .holdover).tim = { s.tim with servo := .holdover, holdAt := s.now, holdNoted := 0 } := by
  simp [State.enterServo, other, State.now]

@[simp] theorem State.enterServo_latches (v : Servo) : (s.enterServo v).tim.latches = s.tim.latches :=
  s.enterServo_sees (look := Tim.latches) (fun _ _ _ _ => rfl) v

@[simp] theorem State.applyStep_latches (e : Int) : (s.applyStep e).tim.latches = s.tim.latches := by
  simp only [State.applyStep, State.enterServo_latches, State.noteInt_tim]
  rfl

@[simp] theorem State.runOfMaster_latches (e : Int) (master : Option DWord) : (s.runOfMaster e master).tim.latches = s.tim.latches := by
  simp only [State.runOfMaster]
  repeat' split
  · rfl
  · rfl
  · exact s.applyStep_latches e
  · rfl
  · rfl

@[simp] theorem State.refuseStep_latches (e : Int) (master : Option DWord) : (s.refuseStep e master).tim.latches = s.tim.latches := by
  simp only [State.refuseStep, State.runOfMaster_latches, State.enterServo_latches, State.noteInt_tim]
  rfl

@[simp] theorem State.slew_latches (e freq : Int) (master : Option DWord) : (s.slew e freq master).tim.latches = s.tim.latches := by
  unfold State.slew
  extract_lets rate near set begun counted unlocked
  have hbegun : begun.tim.latches = set.tim.latches := by
    unfold begun
    split
    · exact State.enterServo_latches _ _
    · rfl
  have hunlocked : unlocked.tim.latches = counted.tim.latches := by
    unfold unlocked
    split <;> simp
  have all : unlocked.tim.latches = s.tim.latches := hunlocked.trans hbegun
  split <;> simp [all]

/-- A measurement latches its count and its limited error, and leaves what PPS_IN latched (R356). -/
theorem State.measure_latches (e freq : Int) (master : Option DWord) : (s.measure e freq master).tim.latches =
    (s.tim.count, s.now, clampInt 2147483647 e, s.tim.ppsCount, s.tim.ppsPhase, s.tim.ppsSeen) := by
  simp only [State.measure]
  repeat' split
  all_goals simp
  all_goals rfl

/-- The first measurement, before any launch, steps: the servo is LOCKING whatever it was (R356). -/
theorem State.measure_first (first : s.tim.firstDone = false) (noLaunch : s.tim.launchSeen = false) (e freq : Int)
    (master : Option DWord) : (s.measure e freq master).tim.servo = .locking := by
  simp [State.measure, first, noLaunch, State.applyStep]

end

/-- SYNC measures at its instant. -/
theorem doSync_measures {s : State} (on : s.gptpOn = true) (src freq : Int) (t : Nat) : doSync src freq t s =
    (s.advance t).measure (src - (s.advance t).vnow) freq (if s.tim.master = 0 then none else some s.tim.master) := by
  simp [doSync, on, State.advance_tim]

/-- A SYNC that is the first measurement, before any launch, leaves the servo LOCKING. -/
theorem sync_first {s u : State} {src freq : Int} {t : Nat} (on : s.gptpOn = true) (first : s.tim.firstDone = false)
    (noLaunch : s.tim.launchSeen = false) (run : exec (.sync src freq t) s = .next u) : u.tim.servo = .locking := by
  cases run
  rw [doSync_measures on]
  refine State.measure_first _ ?_ ?_ _ _ _ <;> rw [State.advance_tim]
  · exact first
  · exact noLaunch

/-! ### The statement about measurements -/

/-- A part whose PPS source left a step pending, just after a TIME_CONFIG that made gPTP its source: the servo is still in
STEP_PENDING, and no measurement of the new source has come. -/
def newSourceState : State :=
  State.setTimeSource true false { State.reset with
    pins := { Pins.reset with rstN := true }
    pwr := { Pwr.reset with state := .ready, domains := 1#64 <<< 46 }
    tim := { Tim.reset with servo := .stepPending, pending := 60000, ppsInEn := true, firstDone := true } }

/-- Refutes O37: in `newSourceState` the servo is in STEP_PENDING without a master, so the fifth clause of a measurement asks it to stay
there; the measurement is the source's first and no launch has come, so vehicle time steps and the servo locks again
(`State.measure_first`). The clauses about STEP_PENDING lack the premise that a measurement or a launch has come. -/
theorem not_measurementsSlewStepOrRefuse : ¬ Obligations.MeasurementsSlewStepOrRefuse := by
  rintro ⟨measured, -⟩
  obtain ⟨u, run, -, -, -, -, -, -, -, -, -, stays, -⟩ :=
    measured newSourceState 0 0 _ 0 _ (by decide +kernel) (by decide) rfl rfl
  have pending : newSourceState.tim.servo = .stepPending := by decide +kernel
  obtain ⟨-, -, servo, -⟩ := stays pending (Or.inl (by decide +kernel))
  have on : newSourceState.gptpOn = true := by decide +kernel
  have steps : u.tim.servo = .locking := sync_first on (by decide +kernel) (by decide +kernel) run
  exact nomatch steps.symm.trans servo

end Sys2Proof.Machine
end

section
/-! PROOF of the statements about time sources, holdover and PPS_OUT: an equation for each command, and what it makes of vehicle time. -/

namespace Sys2Proof.Machine

/-! ### TIME_CONFIG -/

section
variable (s : State)

/-- The parameter set in force: what vehicle time is made of (R352). -/
def Tim.set (m : Tim) : DWord × Nat × Int × Int := (m.count, m.base, m.offset, m.rate)

/-- Equal sets at equal counts show the same vehicle time. -/
theorem State.vnow_congr {s t : State} (same : s.tim.set = t.tim.set) : s.vnow = t.vnow := by
  simp only [Tim.set, Prod.mk.injEq] at same
  obtain ⟨count, base, offset, rate⟩ := same
  simp only [State.vnow_eq, vehicleTime, count, base, offset, rate]

/-- What TIME_CONFIG's choice of the source leaves of time: the set, the step limit to come, the domain and PPS_OUT. -/
def Tim.unsourced (m : Tim) : (DWord × Nat × Int × Int) × Option Nat × Nat × Bool := (m.set, m.jumpNext, m.domain, m.ppsOutEn)

theorem State.setTimeSource_frame (gptp pps : Bool) : (s.setTimeSource gptp pps).tim.unsourced = s.tim.unsourced ∧
    (s.setTimeSource gptp pps).tim.gptp = gptp ∧ (s.setTimeSource gptp pps).tim.ppsInEn = pps := by
  have servo := fun (t : State) (v : Servo) =>
    t.enterServo_sees (look := fun m => (m.unsourced, m.gptp, m.ppsInEn)) (fun _ _ _ _ => rfl) v
  simp only [Prod.mk.injEq] at servo
  unfold State.setTimeSource
  extract_lets old new sourced cleared
  split
  · exact ⟨rfl, rfl, rfl⟩
  · split
    · simp only [servo]
      exact ⟨rfl, rfl, rfl⟩
    · split
      · simp only [servo]
        exact ⟨rfl, rfl, rfl⟩
      · exact ⟨rfl, rfl, rfl⟩

/-- The part of the state that TIME_CONFIG's accepted fields make. -/
def State.timeConfigured (jump dom : Nat) (gptp pps ppsOut : Bool) (s : State) : State :=
  let s := (s.onTim fun m => { m with jumpNext := some (if jump = 0 then 50000 else jump), domain := dom }).setTimeSource gptp pps
  let s := s.onTim fun m => { m with ppsOutEn := ppsOut, ppsPlaced := if ppsOut then m.ppsPlaced else none }
  if ppsOut then s else s.onPins fun p => { p with ppsOut := false }

theorem State.timeConfigured_tim (jump dom : Nat) (gptp pps ppsOut : Bool) :
    (s.timeConfigured jump dom gptp pps ppsOut).tim.jumpNext = some (if jump = 0 then 50000 else jump) ∧
    (s.timeConfigured jump dom gptp pps ppsOut).tim.domain = dom ∧ (s.timeConfigured jump dom gptp pps ppsOut).tim.gptp = gptp ∧
    (s.timeConfigured jump dom gptp pps ppsOut).tim.ppsInEn = pps ∧ (s.timeConfigured jump dom gptp pps ppsOut).tim.ppsOutEn = ppsOut ∧
    (s.timeConfigured jump dom gptp pps ppsOut).vnow = s.vnow := by
  obtain ⟨frame, source, pulse⟩ := State.setTimeSource_frame
    (s.onTim fun m => { m with jumpNext := some (if jump = 0 then 50000 else jump), domain := dom }) gptp pps
  simp only [Tim.unsourced, Prod.mk.injEq] at frame
  obtain ⟨set, next, domain, -⟩ := frame
  have vehicle := State.vnow_congr set
  cases ppsOut <;> exact ⟨next, domain, source, pulse, rfl, vehicle⟩

@[simp] theorem State.timeConfigured_machinery (jump dom : Nat) (gptp pps ppsOut : Bool) :
    (s.timeConfigured jump dom gptp pps ppsOut).machinery = s.machinery := by
  unfold State.timeConfigured
  split <;> simp

end

section
variable {s : State} {ring : Nat} {pk : Packet} (starts : s.Starts ring 0x52 pk)
include starts

/-- TIME_CONFIG judges JUMP_NS, the domain and the flags in this order (R360, R357). -/
theorem doTimeConfig_starts : doTimeConfig ring s =
    if pk.u 0x10 4 ≠ 0 ∧ (pk.u 0x10 4 < 1000 ∨ 10000000 < pk.u 0x10 4) then (s.markStarted pk).bad (s.begun pk) 0x10
    else if 127 < pk.u 0x14 1 then (s.markStarted pk).bad (s.begun pk) 0x14
    else if 7 < pk.u 0x15 1 then (s.markStarted pk).bad (s.begun pk) 0x15
    else ((s.markStarted pk).timeConfigured (pk.u 0x10 4) (pk.u 0x14 1) ((pk.u 0x15 1).testBit 0) ((pk.u 0x15 1).testBit 1)
      ((pk.u 0x15 1).testBit 2)).done (s.begun pk) 0 := by
  rw [doTimeConfig, starts.run]
  simp only [State.begun_u]
  rfl

end

/-! ### PPS_IN -/

section
variable {s : State} (on : s.servoOn = true) (input : s.tim.ppsInEn = true) (freq : Int) (t : Nat)

/-- Time with an accepted PPS_IN edge latched (R363). -/
def State.ppsLatched (s : State) : State :=
  s.onTim fun m => { m with ppsCount := m.count.toNat, ppsPhase := nearestSecond s.vnow - s.vnow, ppsSeen := true }

include on input

/-- An accepted edge is a measurement exactly with gPTP off. -/
theorem doPpsIn_accepts (spaced : s.tim.ppsSeen = true → s.tim.ppsCount + 500000000 ≤ (s.advance t).now) : doPpsIn freq t s =
    if s.tim.gptp then (s.advance t).ppsLatched
    else (s.advance t).ppsLatched.measure (nearestSecond (s.advance t).vnow - (s.advance t).vnow) freq none := by
  have accepted : ((s.advance t).tim.ppsSeen && decide ((s.advance t).now < (s.advance t).tim.ppsCount + 500000000)) = false := by
    rw [State.advance_tim]
    cases seen : s.tim.ppsSeen with
    | false => rfl
    | true => simpa [State.advance_tim] using spaced seen
  have source : (s.advance t).tim.gptp = s.tim.gptp := by rw [State.advance_tim]
  simp only [doPpsIn, on, input, accepted, State.onTim_tim, source]
  rfl

/-- An edge within half a second of the last accepted one is only counted. -/
theorem doPpsIn_ignores (seen : s.tim.ppsSeen = true) (close : (s.advance t).now < s.tim.ppsCount + 500000000) :
    doPpsIn freq t s = (s.advance t).onTim fun m => { m with ppsIgnored := m.ppsIgnored + 1 } := by
  have ignored : ((s.advance t).tim.ppsSeen && decide ((s.advance t).now < (s.advance t).tim.ppsCount + 500000000)) = true := by
    simpa [State.advance_tim, seen] using close
  simp [doPpsIn, on, input, ignored]

end

/-- Settles O38: TIME_CONFIG is `doTimeConfig_starts`, PPS_IN `doPpsIn_accepts` and `doPpsIn_ignores`; the messages and TAKE are one
update each. -/
theorem timeSourcesAndMessages : Obligations.TimeSourcesAndMessages := by
  refine ⟨fun s ring pk starts => ?_, fun s m on => ?_, fun s t on => ?_, fun s on => ?_, fun s d r t on opened => ?_,
    fun s m d r t off => ?_, fun s freq t on input fits => ⟨fun spaced => ?_, fun seen close => ?_⟩, fun s on => ?_⟩
  · have config : exec (.timeConfig ring) s = .next (doTimeConfig ring s) := rfl
    rw [config, doTimeConfig_starts starts]
    refine ⟨fun jump dom flags => ?_, fun jump => ?_, fun jump dom => ?_, fun jump dom flags => ?_⟩
    · obtain ⟨next, domain, source, pulse, out, vehicle⟩ := State.timeConfigured_tim (s.markStarted pk) (pk.u 0x10 4) (pk.u 0x14 1)
        ((pk.u 0x15 1).testBit 0) ((pk.u 0x15 1).testBit 1) ((pk.u 0x15 1).testBit 2)
      have kept := State.timeConfigured_machinery (s.markStarted pk) (pk.u 0x10 4) (pk.u 0x14 1)
        ((pk.u 0x15 1).testBit 0) ((pk.u 0x15 1).testBit 1) ((pk.u 0x15 1).testBit 2)
      simp only [State.machinery, Prod.mk.injEq] at kept
      obtain ⟨fab, ctr, -, -⟩ := kept
      rw [if_neg (by omega), if_neg (by omega), if_neg (by omega)]
      exact ⟨_, rfl, next, domain, source, pulse, out, vehicle, fab, ctr⟩
    · rw [if_pos (by omega)]
    · rw [if_neg (by omega), if_pos dom]
    · rw [if_neg (by omega), if_neg (by omega), if_pos flags]
  · show Host.Outcome.next (doAnnounce m s) = _
    rw [doAnnounce, if_pos on]
  · show Host.Outcome.next (doPdelayReq t s) = _
    rw [doPdelayReq, if_pos on]
    rfl
  · show Host.Outcome.next (doPdelayReqInitiate s) = _
    rw [doPdelayReqInitiate, if_pos on]
  · show Host.Outcome.next (doPdelayResp d r t s) = _
    rw [doPdelayResp, on, opened]
    rfl
  · refine ⟨?_, ?_, ?_, ?_⟩ <;> refine congrArg Host.Outcome.next ?_
    · simp [doAnnounce, off]
    · simp [doPdelayReq, off]
    · simp [doPdelayReqInitiate, off]
    · simp [doPdelayResp, off]
  · refine ⟨_, congrArg Host.Outcome.next (doPpsIn_accepts on input freq t spaced), ?_⟩
    have word := s.le_now_advance fits
    cases source : s.tim.gptp with
    | true =>
      exact ⟨word, rfl, rfl, rfl, fun _ => ⟨by simp [State.ppsLatched, State.advance_tim], by simp [State.ppsLatched, State.advance_tim],
        rfl⟩, nofun⟩
    | false =>
      have latched := (s.advance t).ppsLatched.measure_latches (nearestSecond (s.advance t).vnow - (s.advance t).vnow) freq none
      simp only [Tim.latches, Prod.mk.injEq] at latched
      obtain ⟨count, last, error, edge, phase, seen⟩ := latched
      have now : ((s.advance t).ppsLatched.measure (nearestSecond (s.advance t).vnow - (s.advance t).vnow) freq none).now =
        (s.advance t).now := congrArg BitVec.toNat count
      refine ⟨?_, ?_, seen, phase, nofun, fun _ => ⟨?_, ?_⟩⟩
      · exact now ▸ word
      · exact edge.trans now.symm
      · exact last.trans now.symm
      · exact error.trans (congrArg _ phase.symm)
  · exact congrArg Host.Outcome.next (doPpsIn_ignores on input freq t seen close)
  · show Host.Outcome.next (doTake s) = _
    rw [doTake, if_pos on]
    rfl

/-! ### Holdover and PPS_OUT -/

/-- A quotient rounded up reaches the dividend. -/
theorem le_icdiv_mul {a b : Int} (pos : 0 < b) : a ≤ icdiv a b * b := by
  have h := Int.ediv_mul_le (-a) pos.ne'
  simp only [icdiv, neg_mul]
  omega

/-- The next PPS_OUT second has not passed, and comes after the last one driven (R362). -/
theorem State.nextPps_spec (s : State) : s.vnow ≤ s.nextPps * 1000000000 ∧ ∀ l, s.tim.ppsOutLast = some l → l < s.nextPps := by
  have up : s.vnow ≤ icdiv s.vnow 1000000000 * 1000000000 := le_icdiv_mul (by decide)
  unfold State.nextPps
  cases s.tim.ppsOutLast with
  | none => exact ⟨up, nofun⟩
  | some l =>
    refine ⟨?_, fun k same => ?_⟩
    · dsimp only
      omega
    · cases same
      dsimp only
      omega

section
variable {s : State} (on : s.servoOn = true)
include on

/-- Without a measurement until the timeout a new set begins, and the servo holds over (R355, R359). -/
theorem doHoldoverTimeout_holds (source : s.tim.gptp = true ∨ s.tim.ppsInEn = true)
    (servo : s.tim.servo = .locking ∨ s.tim.servo = .locked) : doHoldoverTimeout s =
      ((s.advance (s.tim.lastMeas + s.tim.timeout)).onTim fun m => m.newSet 0 (clampInt 2000000 m.freq)).enterServo .holdover := by
  have runs : (s.servoOn && (s.tim.gptp || s.tim.ppsInEn) && (s.tim.servo = .locking || s.tim.servo = .locked)) = true := by
    simpa [on] using ⟨source, servo⟩
  exact if_pos runs

theorem doHoldover_notes (servo : s.tim.servo = .holdover) : doHoldover s =
    ((s.advance (s.tim.holdAt + (10 + 60 * s.tim.holdNoted) * 1000000000)).onTim fun m =>
      { m with holdNoted := m.holdNoted + 1 }).note 0x4004 sevWarning noUnit (10 + 60 * s.tim.holdNoted) 0 0 := by
  simp only [doHoldover, on, servo]
  rfl

/-- The seconds between the last driven edge and edge `k` (R362). -/
def Tim.secondsSkipped (m : Tim) (k : Int) : Nat := match m.ppsOutLast with | some l => (k - l - 1).toNat | none => 0

variable (output : s.tim.ppsOutEn = true)
include output

theorem doPpsOutPlacement_places (free : s.tim.ppsPlaced = none) : doPpsOutPlacement s =
    (s.advance (countAt s.tim (s.nextPps * 1000000000 - 1000000))).onTim fun m =>
      { m with ppsPlaced := some (s.nextPps, countAt s.tim (s.nextPps * 1000000000)),
               ppsSkipped := s.tim.ppsSkipped + s.tim.secondsSkipped s.nextPps } := by
  simp only [doPpsOutPlacement, on, output, free, State.advance_tim, State.onTim]
  rfl

theorem doPpsOut_drives {k : Int} {n : Nat} (placed : s.tim.ppsPlaced = some (k, n)) : doPpsOut s =
    ((s.advance n).onTim fun m =>
      { m with ppsOutLast := some k, ppsPlaced := none, ppsFall := m.count.toNat + 10000000 }).onPins fun p =>
        { p with ppsOut := true } := by
  simp only [doPpsOut, on, output, placed]
  rfl

end

/-- Settles O39: each command is one equation (`doHoldoverTimeout_holds` and its like). -/
theorem holdoverAndPpsOut : Obligations.HoldoverAndPpsOut := by
  refine ⟨fun s on source servo fits => ?_, fun s on servo => ?_, fun s on output free => ?_, fun s k n on output placed fits => ?_,
    fun s off => ?_⟩
  · have timeout : (if s.tim.gptp then 375000000 else 2000000000) = s.tim.timeout := rfl
    rw [timeout] at fits ⊢
    refine ⟨_, congrArg Host.Outcome.next (doHoldoverTimeout_holds on source servo), ?_⟩
    have other : ((s.advance (s.tim.lastMeas + s.tim.timeout)).onTim fun m => m.newSet 0 (clampInt 2000000 m.freq)).tim.servo ≠
        .holdover := by
      rcases servo with servo | servo <;> simp [State.advance_tim, Tim.newSet, servo]
    have tim := State.enterServo_holdover _ other
    have kept := congrArg Prod.fst (State.enterServo_machinery
      ((s.advance (s.tim.lastMeas + s.tim.timeout)).onTim fun m => m.newSet 0 (clampInt 2000000 m.freq)) .holdover)
    refine ⟨State.enterServo_servo _ _, ?_, ?_, ?_, ?_, ?_, ?_⟩
    · rw [State.now, tim]
      exact s.le_now_advance fits
    · rw [tim]
      simp [Tim.newSet, State.advance_tim]
    · rw [State.vnow_eq, tim]
      exact (Tim.vehicleTime_newSet _ 0 _).trans (add_zero _)
    · rw [State.now, tim]
      rfl
    · rw [tim]
    · exact kept.trans (by simp [State.machinery])
  · exact congrArg Host.Outcome.next (doHoldover_notes on servo)
  · obtain ⟨ahead, later⟩ := s.nextPps_spec
    refine ⟨_, _, congrArg Host.Outcome.next (doPpsOutPlacement_places on output free), rfl, rfl, fun l last => ⟨later l last, ?_⟩,
      ahead, s.le_now_advance⟩
    simp only [State.onTim_tim, Tim.secondsSkipped, last]
  · exact ⟨_, congrArg Host.Outcome.next (doPpsOut_drives on output placed), s.le_now_advance fits, rfl, rfl, rfl, rfl⟩
  · refine ⟨?_, ?_, ?_, ?_⟩ <;> refine congrArg Host.Outcome.next ?_
    · simp [doHoldoverTimeout, off]
    · simp [doHoldover, off]
    · simp [doPpsOutPlacement, off]
    · simp [doPpsOut, off]

end Sys2Proof.Machine
end

section
/-! PROOF of the statement about verdicts. CKC's check of a tile is one judgement (`State.tileChecked`); a band's verdict is EMT's
emission of its record, after which a band boundary may end a resynchronisation of the lanes. -/

namespace Sys2Proof.Machine

/-! ### Agreed inputs -/

/-- CKC with what agreed inputs change: the rounds, the log, the inputs that wait, the latest MOTION record and the judgements. -/
def Ckc.withInputs (c : Ckc) (rounds : List Round) (agreed : List (Nat × Nat)) (inputs : List CkcInput) (motion : Option Motion)
    (judges : List Judge) : Ckc :=
  { c with rounds := rounds, agreed := agreed, inputs := inputs, motion := motion, judges := judges }

section
variable (s : State)

theorem State.takeAgreed_eq (cls v : Nat) : ∃ inputs motion judges, s.takeAgreed cls v = s.onCkc fun c =>
    c.withInputs c.rounds (c.agreed ++ [(cls, v)]) inputs motion judges := by
  simp only [State.takeAgreed]
  split <;> exact ⟨_, _, _, rfl⟩

/-- The end of rounds changes nothing but CKC's inputs (R302). -/
theorem State.closeRounds_eq : ∃ rounds agreed inputs motion judges, s.closeRounds = s.onCkc fun c =>
    c.withInputs rounds agreed inputs motion judges := by
  refine foldl_inv (fun t => ∃ rounds agreed inputs motion judges, t = s.onCkc fun c => c.withInputs rounds agreed inputs motion judges)
    ⟨_, _, _, _, _, rfl⟩ fun t r inputs => ?_
  obtain ⟨rounds, agreed, inputs, motion, judges, rfl⟩ := inputs
  obtain ⟨inputs', motion', judges', taken⟩ := State.takeAgreed_eq _ r.addr r.result
  rw [taken]
  exact ⟨_, _, _, _, _, rfl⟩

/-- What does not look at CKC's inputs sees the same cluster after the end of rounds. -/
theorem State.closeRounds_sees {α : Type} {look : Ckc → α} (blind : ∀ c r a i m j, look (c.withInputs r a i m j) = look c) :
    look s.closeRounds.ckc = look s.ckc := by
  obtain ⟨rounds, agreed, inputs, motion, judges, eq⟩ := s.closeRounds_eq
  rw [eq, State.onCkc_ckc, blind]

/-! ### A band boundary -/

@[simp] theorem State.setCkcMode_ckc (m : CkcMode) (lane : Nat) : (s.setCkcMode m lane).ckc = { s.ckc with mode := m, lane := lane } := by
  simp only [State.setCkcMode]
  split <;> simp

/-- What a split at a boundary leaves of the cluster: the verdict outputs, the count of the boundary, the lanes, a waiting join and the
copy. -/
def Ckc.settled (c : Ckc) : List Nat × Nat × Vector Lane 3 × Option Packet × Bool := (c.verdicts, c.bandAt, c.lanes, c.join, c.copyDone)

theorem State.closeRounds_settled : s.closeRounds.ckc.settled = s.ckc.settled :=
  s.closeRounds_sees (look := Ckc.settled) fun _ _ _ _ _ _ => rfl

@[simp] theorem State.splitBoundary_settled : s.splitBoundary.ckc.settled = s.ckc.settled := by
  unfold State.splitBoundary
  split
  · rfl
  · split
    · rw [State.done_ckc, State.closeRounds_settled]
      simp [Ckc.settled]
    · rfl

@[simp] theorem State.splitBoundary_saf : s.splitBoundary.saf = s.saf := by
  unfold State.splitBoundary
  split
  · rfl
  · split
    · obtain ⟨_, _, _, _, _, eq⟩ := State.closeRounds_eq _
      rw [State.done_saf, eq, State.onCkc_saf, State.setCkcMode_saf]
      rfl
    · rfl

@[simp] theorem State.bandBoundary_schedule : s.bandBoundary.schedule = s.schedule := by
  simp only [State.bandBoundary]
  repeat' split
  all_goals simp

@[simp] theorem State.bandBoundary_emt : s.bandBoundary.emt = s.emt := congrArg (fun x => x.2.2.1) s.bandBoundary_schedule
@[simp] theorem State.bandBoundary_tim : s.bandBoundary.tim = s.tim := congrArg Prod.fst s.bandBoundary_schedule
@[simp] theorem State.bandBoundary_fab : s.bandBoundary.fab = s.fab := congrArg Prod.fst s.bandBoundary_machinery

@[simp] theorem State.bandBoundary_saf : s.bandBoundary.saf = s.saf := by
  simp only [State.bandBoundary]
  repeat' split
  all_goals simp

/-- A band boundary uses up no verdict output. -/
@[simp] theorem State.bandBoundary_verdicts : s.bandBoundary.ckc.verdicts = s.ckc.verdicts := by
  have kept := fun t : State => congrArg Prod.fst t.splitBoundary_settled
  simp only [Ckc.settled] at kept
  simp only [State.bandBoundary]
  repeat' split
  all_goals simp [kept]

end

/-! ### A tile on the tap -/

section
variable (j : Judge) (band bits : Nat)

@[simp] theorem Judge.addReason_frame : (j.addReason band bits).frame = j.frame := by unfold Judge.addReason; split <;> rfl
@[simp] theorem Judge.addReason_occMeans : (j.addReason band bits).occMeans = j.occMeans := by unfold Judge.addReason; split <;> rfl
@[simp] theorem Judge.addReason_badCrc : (j.addReason band bits).badCrc = j.badCrc := by unfold Judge.addReason; split <;> rfl

/-- A bit of a union of REASONS stands in one of them. -/
theorem testBit_foldl_or (l : List (Nat × Nat)) (a i : Nat) :
    (l.foldl (fun a r => a ||| r.2) a).testBit i = (a.testBit i || l.any fun r => r.2.testBit i) := by
  induction l generalizing a with
  | nil => simp
  | cons r rest ih => simp [ih, Nat.testBit_or, Bool.or_assoc]

/-- A band has the REASONS added to it. -/
theorem Judge.bandReasons_addReason {i : Nat} (bit : bits.testBit i = true) : ((j.addReason band bits).bandReasons band).testBit i = true := by
  have some_ : bits ≠ 0 := by rintro rfl; simp at bit
  simp [Judge.bandReasons, Judge.addReason, some_, testBit_foldl_or, bit]

end

/-- An update of one judgement reaches it. -/
theorem Ckc.mem_onJudge {c : Ckc} {j : Judge} (mem : j ∈ c.judges) (f : Judge → Judge) : f j ∈ (c.onJudge j.frame f).judges :=
  List.mem_map.mpr ⟨j, mem, by simp⟩

/-- A record's number, chain and place are what CKC expects of tile `t` (check C6 of Table 12.6). -/
def Ckc.tileInOrder (c : Ckc) (j : Judge) (b : List Byte) : Bool :=
  decide (recLe b 0xFC 4 = chainCrc c.expCrc.1.toNat b 0xFC) && decide (recLe b 0 1 = j.format) &&
    decide (recLe b 2 2 = j.occMeans.length) && decide (recLe b 4 4 = j.frame) && decide (recLe b 0x10 4 = c.expSeq.1)

/-- The judgement with one more tile checked (R311). -/
def State.tileChecked (s : State) (j : Judge) (e : Evidence) (b : List Byte) : Judge :=
  let t := j.occMeans.length
  let cover := memLe s.fab.ckcRam (j.modelAddr + j.model.coverOff + 4 * t) 4
  let bits := if (recLe b 1 1).testBit 2 || !(recLe b 1 1).testBit 0 then 0 else j.tileReasons e s.ckc.prevOcc cover t b
  let ok := s.ckc.tileInOrder j b
  ({ j with mask := if bits = 0 then j.mask else t :: j.mask, badCrc := if ok then j.badCrc else t :: j.badCrc,
            occMeans := j.occMeans ++ [(recOcc b).sum / 16] }.addReason (t / 64) bits).addReason (t / 64) (if ok then 0 else rRecordCrc)

section
variable {s : State} {j : Judge} {e : Evidence}

theorem State.checkTile_judges (judge : s.ckc.tileJudge = some (j, e)) (mem : j ∈ s.ckc.judges) (b : List Byte) :
    s.tileChecked j e b ∈ (s.checkTile b).ckc.judges := by
  simp only [State.checkTile, judge]
  exact Ckc.mem_onJudge mem fun _ => s.tileChecked j e b

theorem State.checkTile_frame (s : State) (b : List Byte) : ∃ f, s.checkTile b = s.onCkc f := by
  unfold State.checkTile
  split
  · exact ⟨id, rfl⟩
  · exact ⟨_, rfl⟩

theorem State.tileChecked_frame (b : List Byte) : (s.tileChecked j e b).frame = j.frame := by simp [State.tileChecked]

theorem State.tileChecked_occMeans (b : List Byte) : (s.tileChecked j e b).occMeans = j.occMeans ++ [(recOcc b).sum / 16] := by
  simp [State.tileChecked]

/-- A record whose chain breaks gives its tile and its band RECORD_CRC. -/
theorem State.tileChecked_badCrc {b : List Byte} (broken : recLe b 0xFC 4 ≠ chainCrc s.ckc.expCrc.1.toNat b 0xFC) :
    j.occMeans.length ∈ (s.tileChecked j e b).badCrc ∧
    ((s.tileChecked j e b).bandReasons (j.occMeans.length / 64)).testBit 2 = true := by
  have bad : s.ckc.tileInOrder j b = false := by simp [Ckc.tileInOrder, broken]
  simp only [State.tileChecked, bad]
  exact ⟨by simp, Judge.bandReasons_addReason _ _ _ (by decide)⟩

end

section
variable {s : State} (on : s.pins.rstN = true) (runs : s.ckc.mode ≠ .halted)
include on runs

/-- A tile record waits for its frame's evidence (R310). -/
theorem doTileRecordCheck_waits {b : List Byte} {rest : List (Stream × List Byte)} (tap : s.emt.tap = (.tile, b) :: rest)
    (waits : s.ckc.awaitsEvidence = true) : doTileRecordCheck none s = s := by
  simp [doTileRecordCheck, tap, on, runs, waits]

theorem doTileRecordCheck_takes {b : List Byte} {rest : List (Stream × List Byte)} (tap : s.emt.tap = (.tile, b) :: rest)
    (formed : s.ckc.awaitsEvidence = false) : doTileRecordCheck none s = (s.onEmt fun e => { e with tap := rest }).checkTile b := by
  simp [doTileRecordCheck, tap, on, runs, formed]

end

/-! ### EMT's emission of a band verdict -/

section
variable (s : State) (f : EmitFrame) (invalid : Bool) (reasons mask : Nat)

/-- The frame after the verdict of its next band (R242). -/
def EmitFrame.bandOut (f : EmitFrame) (invalid : Bool) (reasons : Nat) : EmitFrame :=
  { f with nextBand := f.nextBand + 1, bandInvalid := f.bandInvalid + (if invalid then 1 else 0), reasons := f.reasons ||| reasons }

theorem State.emitBand_frames {rest : List EmitFrame} (frames : s.emt.frames = f :: rest) :
    (s.emitBand f invalid reasons mask).emt.frames = f.bandOut invalid reasons :: rest := by
  simp [State.emitBand, Emt.setHead, frames, EmitFrame.bandOut]

theorem State.emitRecord_seq (st : Stream) (off frame : Nat) (b : List Byte) :
    ((s.emitRecord st off frame b).emt.get st).seq = ((s.emt.get st).seq + 1) % 2 ^ 32 := by
  obtain ⟨queue, drops, reg, emt, -⟩ := s.emitRecord_emt st frame off b
  rw [emt]
  cases st <;> rfl

theorem State.emitBand_seq : (s.emitBand f invalid reasons mask).emt.verdict.seq = (s.emt.verdict.seq + 1) % 2 ^ 32 := by
  rw [State.emitBand, State.bandBoundary_emt]
  exact State.emitRecord_seq _ .verdict _ _ _

@[simp] theorem State.emitBand_tim : (s.emitBand f invalid reasons mask).tim = s.tim := by simp [State.emitBand]
@[simp] theorem State.emitBand_fab : (s.emitBand f invalid reasons mask).fab = s.fab := by simp [State.emitBand]
@[simp] theorem State.emitBand_verdicts : (s.emitBand f invalid reasons mask).ckc.verdicts = s.ckc.verdicts := by simp [State.emitBand]

end

/-! ### BAND_VERDICT -/

/-- CKC has issued the judgement's next band verdict, which uses its agreed output up. -/
def State.bandIssued (j : Judge) (s : State) : State := s.onCkc fun c =>
  { c.onJudge j.frame (fun x => { x with bandsIssued := j.bandsIssued + 1 }) with
    verdicts := c.verdicts.erase (verdictAddr j.frame j.bandsIssued) }

/-- The tiles of the next band that failed a check. -/
def Judge.failedTiles (j : Judge) : List Nat := j.mask.filter fun t => t / 64 = j.bandsIssued

/-- The next band is INVALID by CKC (R312). -/
def State.bandInvalid (s : State) (j : Judge) : Bool :=
  decide (j.model.bandLimit < j.failedTiles.length) || (j.badCrc.any fun t => t / 64 = j.bandsIssued) || s.saf.latched

theorem State.bandInvalid_iff (s : State) (j : Judge) : s.bandInvalid j = true ↔ j.model.bandLimit < j.failedTiles.length ∨
    (∃ t ∈ j.badCrc, t / 64 = j.bandsIssued) ∨ s.saf.latched = true := by
  simp only [State.bandInvalid, Bool.or_eq_true, decide_eq_true_iff, List.any_eq_true, or_assoc]

/-- The next band's REASONS. -/
def State.bandReasons (s : State) (j : Judge) (f : EmitFrame) : Nat :=
  j.bandReasons j.bandsIssued ||| s.bandKnown f j.bandsIssued ||| (if j.patternFail then rPatternFail else 0)

section
variable {s : State} {j : Judge} (next : s.ckc.judges.find? Judge.ready = some j)
include next

theorem doBandVerdict_unagreed (open_ : s.ckc.verdicts.contains (verdictAddr j.frame j.bandsIssued) = false) : doBandVerdict s = s := by
  simp only [doBandVerdict, next, open_, Bool.and_false, Bool.not_false, if_true]

variable (on : s.pins.rstN = true) (runs : s.ckc.mode ≠ .halted)
  (agreed : s.ckc.verdicts.contains (verdictAddr j.frame j.bandsIssued) = true) {f : EmitFrame} {rest : List EmitFrame}
  (frames : s.emt.frames = f :: rest)
include on runs agreed frames

theorem doBandVerdict_issues (same : f.frame = j.frame) (place : f.nextBand = j.bandsIssued) : doBandVerdict s =
    (s.bandIssued j).emitBand f (s.bandInvalid j) (s.bandReasons j f) ((j.failedTiles.map fun t => 2 ^ (t % 64)).sum) := by
  have here : ¬(f.frame ≠ j.frame ∨ f.nextBand ≠ j.bandsIssued) := by simp [same, place]
  simp only [doBandVerdict, next, on, decide_eq_true runs, agreed, frames, State.onCkc_emt, List.head?_cons, here]
  rfl

/-- A verdict that comes after EMT's own is only noted (R242). -/
theorem doBandVerdict_late (other : f.frame ≠ j.frame ∨ f.nextBand ≠ j.bandsIssued) : doBandVerdict s =
    (s.bandIssued j).note 0x2007 sevWarning (unitCode .ckc) j.frame j.bandsIssued 0 := by
  simp only [doBandVerdict, next, on, decide_eq_true runs, agreed, frames, State.onCkc_emt, List.head?_cons, other]
  rfl

end

/-- What EMT knows of a band leaves CHECKER_LATE in its REASONS. -/
theorem State.checkerLate_testBit (s : State) (f : EmitFrame) (b : Nat) : (rCheckerLate + s.bandKnown f b).testBit 5 = true := by
  unfold State.bandKnown
  repeat' split
  all_goals decide

theorem doVerdictDeadline_emits {s : State} {f : EmitFrame} {rest : List EmitFrame} (on : s.pins.rstN = true)
    (frames : s.emt.frames = f :: rest) (more : f.nextBand < f.bands) (due : 64 * (f.nextBand + 1) ≤ f.nextSlot) : doVerdictDeadline s =
      (s.advance (f.slotAt (64 * f.nextBand + 66))).emitBand f true
        (rCheckerLate + (s.advance (f.slotAt (64 * f.nextBand + 66))).bandKnown f f.nextBand) 0 := by
  simp [doVerdictDeadline, frames, on, more, due]

/-! ### FRAME_VERDICT -/

section
variable {s : State} {j : Judge} (next : s.ckc.judges.find? (fun j => decide (64 * j.bandsIssued = j.tiles) && j.verdict.isNone) = some j)
include next

theorem doFrameVerdict_unagreed (open_ : s.ckc.verdicts.contains (verdictAddr j.frame 0xFFFF) = false) : doFrameVerdict s = s := by
  simp only [doFrameVerdict, next, open_, Bool.and_false, Bool.not_false, if_true]

/-- The verdict of a frame still emitting is fixed; an INVALID one enters the history (R313, R314). -/
theorem doFrameVerdict_fixes (on : s.pins.rstN = true) (runs : s.ckc.mode ≠ .halted)
    (agreed : s.ckc.verdicts.contains (verdictAddr j.frame 0xFFFF) = true) {f : EmitFrame}
    (emits : s.emt.frames.find? (fun f => f.frame = j.frame) = some f) : ∃ h : Saf → Saf, (∀ x, (h x).latched = x.latched) ∧
      doFrameVerdict s = (s.onCkc fun c => Ckc.onJudge { c with verdicts := c.verdicts.erase (verdictAddr j.frame 0xFFFF) } j.frame
        fun j' => { j' with verdict := some (frameVerdict j f) }).onSaf h := by
  by_cases counts : ((frameVerdict j f).1 && decide (f.reasons ||| (frameVerdict j f).2 ≠ rSafeState)) = true
  · refine ⟨fun x => x.addHistory j.frame, fun x => x.addHistory_latched j.frame, ?_⟩
    simp only [doFrameVerdict, next, on, decide_eq_true runs, agreed, emits, State.onCkc_emt, counts]
    rfl
  · refine ⟨id, fun x => rfl, ?_⟩
    simp only [doFrameVerdict, next, on, decide_eq_true runs, agreed, emits, State.onCkc_emt, counts]
    rfl

end

/-- Settles O44: a tile's check is `State.tileChecked`; BAND_VERDICT, VERDICT_DEADLINE and FRAME_VERDICT are one equation each way. -/
theorem verdictsAreIssued : Obligations.VerdictsAreIssued := by
  refine ⟨fun s b rest j on runs tap first _ => ⟨fun unformed => ?_, fun formed => ?_⟩,
    fun s j on runs next => ⟨fun open_ => ?_, fun agreed f rest frames => ⟨fun same place => ?_, fun other => ?_⟩⟩,
    fun s f rest on frames more due fits => ?_, fun s j on runs next => ⟨fun open_ => ?_, fun agreed f emits => ?_⟩⟩
  · refine congrArg Host.Outcome.next (doTileRecordCheck_waits on runs tap ?_)
    simp [Ckc.awaitsEvidence, first, unformed]
  · obtain ⟨e, evidence⟩ := Option.isSome_iff_exists.mp formed
    refine ⟨_, (s.onEmt fun x => { x with tap := rest }).tileChecked j e b,
      congrArg Host.Outcome.next (doTileRecordCheck_takes on runs tap (by simp [Ckc.awaitsEvidence, first, evidence])), ?_⟩
    have judge : (s.onEmt fun x => { x with tap := rest }).ckc.tileJudge = some (j, e) := by simp [Ckc.tileJudge, first, evidence]
    have judges := State.checkTile_judges judge (List.mem_of_find?_eq_some first) b
    obtain ⟨f, frame⟩ := State.checkTile_frame (s.onEmt fun x => { x with tap := rest }) b
    rw [frame] at judges ⊢
    exact ⟨rfl, judges, State.tileChecked_frame b, State.tileChecked_occMeans b, fun broken => State.tileChecked_badCrc broken, rfl, rfl, rfl⟩
  · exact congrArg Host.Outcome.next (doBandVerdict_unagreed next open_)
  · refine ⟨_, _, congrArg Host.Outcome.next (doBandVerdict_issues next on runs agreed frames same place),
      State.emitBand_frames _ _ _ _ _ frames, rfl, ?_, State.emitBand_verdicts _ _ _ _ _, State.emitBand_seq _ _ _ _ _,
      State.emitBand_fab _ _ _ _ _⟩
    simp only [EmitFrame.bandOut, s.bandInvalid_iff j, place]
    rfl
  · exact congrArg Host.Outcome.next (doBandVerdict_late next on runs agreed frames other)
  · refine ⟨_, _, congrArg Host.Outcome.next (doVerdictDeadline_emits on frames more due), ?_,
      State.emitBand_frames _ _ _ _ _ (by simpa using frames), rfl, rfl, ?_, ?_, ?_⟩
    · rw [State.now, State.emitBand_tim]
      exact s.le_now_advance fits
    · simp only [EmitFrame.bandOut, Nat.testBit_or, State.checkerLate_testBit, Bool.or_true]
    · simpa using State.emitBand_seq (s.advance (f.slotAt (64 * f.nextBand + 66))) f true _ 0
    · simp
  · exact congrArg Host.Outcome.next (doFrameVerdict_unagreed next open_)
  · obtain ⟨h, keeps, fixed⟩ := doFrameVerdict_fixes next on runs agreed emits
    refine ⟨_, congrArg Host.Outcome.next fixed, ?_, rfl, rfl, rfl, keeps s.saf⟩
    exact Ckc.mem_onJudge (c := { s.ckc with verdicts := s.ckc.verdicts.erase (verdictAddr j.frame 0xFFFF) })
      (List.mem_of_find?_eq_some next) _

end Sys2Proof.Machine
end

section
/-! PROOF of the statement about the safety SPI: a valid request is `State.spiTaken`, and what its command adds to that. -/

namespace Sys2Proof.Machine

/-- A valid request is returned its snapshot and taken (R324, R325). -/
def State.spiTaken (clocks : Nat) (f : BitVec 256) (s : State) : State := (s.spiReturn clocks).spiAccept f

theorem State.spiTaken_spec (s : State) (clocks : Nat) (f : BitVec 256) :
    (s.spiTaken clocks f).saf.spiOut = s.statusFrame.take (clocks / 8) ∧ (s.spiTaken clocks f).saf.ctrlAlive = recLe (spiBytes f) 2 2 ∧
    (s.spiTaken clocks f).saf.reqError = false ∧ (s.spiTaken clocks f).saf.verError = false ∧
    s.spiTaken clocks f = { s with saf := (s.spiTaken clocks f).saf } ∧ (s.spiTaken clocks f).saf.latched = s.saf.latched ∧
    (s.spiTaken clocks f).saf.relPending = s.saf.relPending ∧ (s.spiTaken clocks f).saf.count = s.saf.count :=
  ⟨rfl, rfl, rfl, rfl, rfl, rfl, rfl, rfl⟩

/-- The LATE count of the frame emitting is within its limit, if one emits (R320). -/
theorem Emt.lateOk_iff (e : Emt) : e.lateOk = true ↔ ∀ g rest, e.frames = g :: rest → g.lateTiles.length ≤ g.lateLimit := by
  unfold Emt.lateOk
  cases e.frames with
  | nil => simp
  | cons g rest => simp

/-- The conditions of R320. -/
theorem State.releaseOk_iff (s : State) (id : Nat) : s.releaseOk id = true ↔ s.saf.latched = true ∧ id = s.saf.count ∧
    (s.pwr.state = .ready ∨ s.pwr.state = .running) ∧ s.ckc.mode = .tmr ∧
    (∀ g rest, s.emt.frames = g :: rest → g.lateTiles.length ≤ g.lateLimit) ∧ s.sec.unlocked = false := by
  simp only [State.releaseOk, Bool.and_eq_true, Bool.or_eq_true, decide_eq_true_eq, s.emt.lateOk_iff, Bool.not_eq_true', and_assoc]

section
variable {s : State} {clocks : Nat} {f : BitVec 256} (on : s.pins.rstN = true) (valid : spiValid clocks f = true)
include on valid

theorem doNop_takes (notRelease : spiCmd f ≠ 1) (notForce : spiCmd f ≠ 2) : doNop clocks f s =
    if spiCmd f = 0 then s.spiTaken clocks f else (s.spiTaken clocks f).onSaf fun x => { x with reqError := true } := by
  have runs : (s.pins.rstN && spiValid clocks f && decide (spiCmd f ≠ 1 ∧ spiCmd f ≠ 2)) = true := by
    simp [on, valid, notRelease, notForce]
  exact if_pos runs

theorem doRelease_takes (cmd : spiCmd f = 1) : doRelease clocks f s = (s.spiTaken clocks f).release (recLe (spiBytes f) 4 2) := by
  have runs : (s.pins.rstN && spiValid clocks f && decide (spiCmd f = 1)) = true := by simp [on, valid, cmd]
  exact if_pos runs

theorem doForceSafe_takes (cmd : spiCmd f = 2) : doForceSafe clocks f s = (s.spiTaken clocks f).latch latchVehicle := by
  have runs : (s.pins.rstN && spiValid clocks f && decide (spiCmd f = 2)) = true := by simp [on, valid, cmd]
  exact if_pos runs

end

theorem doSpiRequestDiscarded_discards {s : State} {clocks : Nat} {f : BitVec 256} (on : s.pins.rstN = true)
    (invalid : spiValid clocks f = false) : doSpiRequestDiscarded clocks f s = s.onSaf fun x =>
      { x with spiOut := s.statusFrame.take (clocks / 8), rxErrors := satU 8 (x.rxErrors + 1), reqError := true,
               verError := x.verError || (decide (clocks = 256) && spiCrcOk f) } := by
  simp only [doSpiRequestDiscarded, on, invalid]
  rfl

section
variable {s : State} {id : Nat}

theorem State.release_repeats (pending : s.saf.relPending = true) (same : id = s.saf.count) : s.release id = s := by
  simp [State.release, pending, same]

variable (fresh : ¬(s.saf.relPending = true ∧ id = s.saf.count))
include fresh

theorem State.release_admits (ok : s.releaseOk id = true) : s.release id = s.onSaf fun x => { x with relPending := true, relFrame := none } := by
  have first : ¬(s.saf.relPending && decide (id = s.saf.count)) = true := by simpa using fresh
  rw [State.release, if_neg first, if_pos ok]

theorem State.release_refuses (refused : ¬s.releaseOk id = true) : s.release id = s.onSaf fun x => { x with reqError := true } := by
  have first : ¬(s.saf.relPending && decide (id = s.saf.count)) = true := by simpa using fresh
  rw [State.release, if_neg first, if_neg refused]

end

/-- After a cause SAFE_N is low, if it followed the latch before (R322). -/
theorem State.latch_safeN {s : State} (safe : s.SafePin) (cause : Nat) : (s.latch cause).pins.safeN = false := by
  simp only [State.latch]
  split
  next => simp
  next stale =>
    have latched : s.saf.latched = true := by simp_all [Saf.fresh]
    simpa [State.SafePin, latched] using safe

/-- A cause leaves the last exchange of the safety SPI as it was. -/
theorem State.latch_spi (s : State) (cause : Nat) : (s.latch cause).saf.spiOut = s.saf.spiOut ∧
    (s.latch cause).saf.reqError = s.saf.reqError := by
  simp only [State.latch]
  split <;> simp

/-- A cause while the latch is clear is the latch's cause, and counts (R317). -/
theorem State.latch_first {s : State} (clear : s.saf.latched = false) (cause : Nat) : (s.latch cause).saf.cause = cause ∧
    (s.latch cause).saf.count = (s.saf.count + 1) % 2 ^ 16 := by
  simp [State.latch, Saf.fresh, clear]

/-- Settles O47: what each request adds to `State.spiTaken`, by the three ways of `State.release` and the lemmas about the latch. -/
theorem safetySpiRequests : Obligations.SafetySpiRequests := by
  refine ⟨fun s clocks f on valid notRelease notForce => ?_, fun s clocks f on valid cmd => ?_, fun s clocks f on valid cmd safe => ?_,
    fun s clocks f on invalid => congrArg Host.Outcome.next (doSpiRequestDiscarded_discards on invalid)⟩
  · obtain ⟨out, alive, noError, noVersion, rest, latched, pending, -⟩ := s.spiTaken_spec clocks f
    refine ⟨_, congrArg Host.Outcome.next (doNop_takes on valid notRelease notForce), ?_⟩
    by_cases nop : spiCmd f = 0
    · rw [if_pos nop]
      exact ⟨out, alive, by simp [nop, noError], noVersion, rest, latched, pending⟩
    · rw [if_neg nop]
      exact ⟨out, alive, by simp [nop], noVersion, rfl, latched, pending⟩
  · obtain ⟨out, alive, noError, -, rest, latched, pending, count⟩ := s.spiTaken_spec clocks f
    have admits : (s.spiTaken clocks f).releaseOk (recLe (spiBytes f) 4 2) = true ↔ _ := State.releaseOk_iff s _
    refine ⟨_, congrArg Host.Outcome.next (doRelease_takes on valid cmd), ?_⟩
    by_cases repeats : (s.spiTaken clocks f).saf.relPending = true ∧ recLe (spiBytes f) 4 2 = (s.spiTaken clocks f).saf.count
    · obtain ⟨isPending, same⟩ := repeats
      rw [State.release_repeats isPending same]
      have was : s.saf.relPending = true := pending.symm.trans isPending
      exact ⟨out, alive, rest, latched, by simp [was], by simp [was], fun _ _ => ⟨isPending, noError⟩⟩
    · have noRepeat : s.saf.relPending = true → recLe (spiBytes f) 4 2 = s.saf.count → False := fun a b =>
        repeats ⟨pending.trans a, b.trans count.symm⟩
      by_cases ok : (s.spiTaken clocks f).releaseOk (recLe (spiBytes f) 4 2) = true
      · rw [State.release_admits repeats ok]
        exact ⟨out, alive, rfl, latched, fun _ => iff_of_true rfl (admits.mp ok), fun _ => noError, fun is same => (noRepeat is same).elim⟩
      · rw [State.release_refuses repeats ok]
        have still : ∀ isFree : s.saf.relPending = false, (s.spiTaken clocks f).saf.relPending = false := pending.trans
        exact ⟨out, alive, rfl, latched, fun isFree => iff_of_false (by simp [still isFree]) fun yes => ok (admits.mpr yes),
          fun isFree => by simp [still isFree], fun is same => (noRepeat is same).elim⟩
  · obtain ⟨out, -, noError, -, -, latched, -, count⟩ := s.spiTaken_spec clocks f
    obtain ⟨sameOut, sameError⟩ := (s.spiTaken clocks f).latch_spi latchVehicle
    refine ⟨_, congrArg Host.Outcome.next (doForceSafe_takes on valid cmd), State.latch_latched _ _, State.latch_safeN (s := s.spiTaken clocks f) safe _,
      sameOut.trans out, sameError.trans noError, fun clear => ?_, State.latch_fab _ (s.spiTaken clocks f),
      State.latch_cpx _ (s.spiTaken clocks f), State.latch_ctr _ (s.spiTaken clocks f)⟩
    exact State.latch_first (s := s.spiTaken clocks f) clear latchVehicle

end Sys2Proof.Machine
end

section
/-! SUPPORT. What a suspect unit and its drain make of CKC, the MSS and the safety block: every operation on the way leaves
`State.guards` alone but the few that set them. -/

namespace Sys2Proof.Machine

section
variable (s : State)

/-- CKC, SEC and the MSS, and what the safety block tells of a drain: the latch, FLAGGED and the suspect unit. -/
def State.guards (s : State) : Ckc × Sec × Mss × Bool × Bool × Nat :=
  (s.ckc, s.sec, s.mss, s.saf.latched, s.saf.flagged, s.saf.faultUnit)

@[simp] theorem State.onCpx_guards (f : Cpx → Cpx) : (s.onCpx f).guards = s.guards := rfl
@[simp] theorem State.onFab_guards (f : Fab → Fab) : (s.onFab f).guards = s.guards := rfl
@[simp] theorem State.onCtr_guards (f : Ctr → Ctr) : (s.onCtr f).guards = s.guards := rfl
@[simp] theorem State.onSen_guards (f : Sen → Sen) : (s.onSen f).guards = s.guards := rfl
@[simp] theorem State.onEvr_guards (f : Rec → Rec) : (s.onEvr f).guards = s.guards := rfl
theorem State.onSaf_guards (f : Saf → Saf) (latched : (f s.saf).latched = s.saf.latched) (flagged : (f s.saf).flagged = s.saf.flagged)
    (unit : (f s.saf).faultUnit = s.saf.faultUnit) : (s.onSaf f).guards = s.guards := by
  simp [State.guards, latched, flagged, unit]
@[simp] theorem State.countErr_guards (row col n : Nat) : (s.countErr row col n).guards = s.guards := rfl
@[simp] theorem State.note_guards (c v u p q r : Nat) : (s.note c v u p q r).guards = s.guards := by simp [State.guards]
@[simp] theorem State.enter_guards (d : DevState) : (s.enter d).guards = s.guards := by simp [State.guards]
@[simp] theorem State.settle_guards : s.settle.guards = s.guards := by simp [State.guards]
@[simp] theorem State.replyBase_guards (pk : Packet) (more : Bool) (st dt res waves ns : Nat) :
    (s.replyBase pk more st dt res waves ns).guards = s.guards := by simp [State.guards]
@[simp] theorem State.replyAll_guards (pk : Packet) (st dt res waves ns : Nat) : (s.replyAll pk st dt res waves ns).guards = s.guards := by
  simp [State.guards]
@[simp] theorem State.reply_guards (pk : Packet) (st dt res : Nat) : (s.reply pk st dt res).guards = s.guards := by simp [State.guards]
@[simp] theorem State.done_guards (pk : Packet) (res : Nat) : (s.done pk res).guards = s.guards := by simp [State.guards]

@[simp] theorem State.ite_guards {c : Prop} [Decidable c] (t : State) :
    (if c then s else t).guards = if c then s.guards else t.guards := apply_ite State.guards c s t

@[simp] theorem State.snapshot_guards (cause : Nat) : (s.snapshot cause).guards = s.guards := by
  unfold State.snapshot
  split <;> simp

/-- A fault record changes of the safety block the record's copy only (R437). -/
@[simp] theorem State.recordFault_guards (f : FailReport) (c : FaultCtx) : (s.recordFault f c).guards = s.guards := by
  simp only [State.recordFault, State.snapshot_guards, State.note_guards, State.onEvr_guards]
  exact s.onSaf_guards _ rfl rfl rfl

@[simp] theorem State.answerKills_guards (res : Nat) : (s.answerKills res).guards = s.guards :=
  foldl_keeps State.guards (fun t (k : KillToken) => t.reply_guards k.killer stDone 0 res) _ _

@[simp] theorem State.killAll_guards (l : List Packet) : (State.killAll l s).guards = s.guards := by
  induction l generalizing s with
  | nil => rfl
  | cons p r ih => simp [State.killAll, ih]

@[simp] theorem State.countJob_guards (client : Nat) (ended : Bool) : (s.countJob client ended).guards = s.guards := rfl
@[simp] theorem State.dropJob_guards (ring : Nat) : (s.dropJob ring).guards = s.guards := rfl

@[simp] theorem State.discardQm_guards : s.discardQm.guards = s.guards := by
  simp only [State.discardQm]
  split
  · rfl
  · split <;> simp

@[simp] theorem State.teardownAs_guards (counts : Bool) (ring : Nat) (replies : Bool) :
    (s.teardownAs counts ring replies).guards = s.guards := by
  unfold State.teardownAs
  split <;> simp

@[simp] theorem State.preempt_guards : s.preempt.guards = s.guards := by
  simp only [State.preempt, State.teardown]
  repeat' split
  all_goals simp

@[simp] theorem State.dropStep_guards (r : Run) : (s.dropStep r).guards = s.guards := by
  unfold State.dropStep
  split <;> simp

@[simp] theorem State.releaseIngest_guards (c : Contract) (rs : List RingState) : (s.releaseIngest c rs).guards = s.guards := by
  refine foldl_keeps State.guards (fun t p => ?_) _ _
  split <;> simp

@[simp] theorem State.releaseLate_guards (c : Contract) (l : LateStart) : (State.releaseLate c s l).guards = s.guards := by
  unfold State.releaseLate
  split <;> simp

@[simp] theorem State.openWindow_guards : s.openWindow.guards = s.guards := rfl

@[simp] theorem State.stopProgram_guards : s.stopProgram.guards = s.guards := by
  unfold State.stopProgram
  extract_lets runs dropped released halted stopped
  have hdropped : dropped.guards = s.guards := foldl_keeps State.guards (fun t r => t.dropStep_guards r) _ _
  have hreleased : released.guards = dropped.guards := by
    unfold released
    split
    next c _ =>
      extract_lets bound
      have hbound : bound.guards = dropped.guards := by unfold bound; split <;> simp
      exact (foldl_keeps State.guards (fun t l => t.releaseLate_guards c l) _ _).trans hbound
    next => rfl
  exact hreleased.trans hdropped

@[simp] theorem State.cancelLaunches_guards : s.cancelLaunches.guards = s.guards := rfl

/-- A drain flags the part and its suspect unit, and sends the flag record; CKC and the rest of the MSS stay (R339, R340). -/
theorem State.startDrain_guards (f : FailReport) : ∃ r : FlagRecord, r.flagged = true ∧ r.unit = unitCode f.unit ∧
    (s.startDrain f).guards = (s.ckc, s.sec, { s.mss with flagWrite := some r }, true, true, unitCode f.unit) ∧
    (s.startDrain f).ctr.placed = none := by
  unfold State.startDrain
  extract_lets latched named stopped record written
  have guards : stopped.guards = (s.ckc, s.sec, s.mss, true, true, unitCode f.unit) := by
    unfold stopped
    simp only [State.stopProgram_guards, State.preempt_guards, State.cancelLaunches_guards, State.enter_guards]
    simp [State.guards, named, latched]
  have placed : stopped.ctr.placed = none := by
    unfold stopped
    rw [State.stopProgram_placed, State.preempt_ctr, State.cancelLaunches_placed]
  have sent : written.guards = (s.ckc, s.sec, { s.mss with flagWrite := some record }, true, true, unitCode f.unit) := by
    simp only [State.guards, Prod.mk.injEq] at guards
    obtain ⟨ckc, sec, mss, isLatched, flagged, unit⟩ := guards
    simp only [State.guards, written, State.onMss_ckc, State.onMss_sec, State.onMss_mss, State.onMss_saf, ckc, sec, mss, isLatched,
      flagged, unit]
  refine ⟨record, rfl, rfl, ?_, ?_⟩
  · split
    · exact sent
    · exact sent
  · split <;> exact placed

/-- A unit that becomes suspect leaves CKC as it is, and no diagnosis has passed since (R334, R343). -/
theorem State.suspect_guards (f : FailReport) (c : FaultCtx) : (s.suspect f c).ckc = s.ckc ∧ (s.suspect f c).mss.diagPassed = false ∧
    (s.pwr.state = .ready ∨ s.pwr.state = .running → (s.suspect f c).ctr.placed = none ∧ (s.suspect f c).saf.flagged = true ∧
      (s.suspect f c).saf.faultUnit = unitCode f.unit ∧
      ∃ r, (s.suspect f c).mss.flagWrite = some r ∧ r.flagged = true ∧ r.unit = unitCode f.unit) := by
  unfold State.suspect State.suspectAs
  extract_lets counted cleared unit
  have pwr : cleared.pwr = s.pwr := by
    have kept : (s.recordFault f c).pwr = s.pwr := congrArg (fun x => x.2.2.2) (s.recordFault_schedule f c)
    simp [cleared, counted, kept]
  have guards : counted.guards = s.guards := by simp [counted]
  have ckc : cleared.ckc = s.ckc := congrArg Prod.fst guards
  have diag : cleared.mss.diagPassed = false := rfl
  obtain ⟨r, flagged, named, drained, placed⟩ := cleared.startDrain_guards unit
  simp only [State.guards, Prod.mk.injEq] at drained
  obtain ⟨sameCkc, -, mss, -, isFlagged, suspected⟩ := drained
  have drains : (cleared.startDrain unit).ckc = s.ckc ∧ (cleared.startDrain unit).mss.diagPassed = false ∧
      (s.pwr.state = .ready ∨ s.pwr.state = .running → (cleared.startDrain unit).ctr.placed = none ∧
        (cleared.startDrain unit).saf.flagged = true ∧ (cleared.startDrain unit).saf.faultUnit = unitCode f.unit ∧
        ∃ r, (cleared.startDrain unit).mss.flagWrite = some r ∧ r.flagged = true ∧ r.unit = unitCode f.unit) :=
    ⟨sameCkc.trans ckc, by rw [mss]; exact diag, fun _ => ⟨placed, isFlagged, suspected, r, by rw [mss], flagged, named⟩⟩
  rw [pwr]
  clear_value cleared
  split
  · exact drains
  · exact drains
  next notReady notRunning => exact ⟨by simpa using ckc, by simpa using diag, fun runs => absurd runs (not_or.2 ⟨notReady, notRunning⟩)⟩

end

end Sys2Proof.Machine
end

section
/-! PROOF of the statement about the checker cluster: agreed values, transactions of the lanes, odd lanes and checker faults, and the
commands that change CKC's mode. -/

namespace Sys2Proof.Machine

/-! ### Agreed values -/

/-- Three samples agree on their median, whatever their order; two on the lower (R302). -/
theorem agreeCount_median {a b c : Nat} {l : List Nat} (low : a ≤ b) (high : b ≤ c) (perm : l.Perm [a, b, c]) : agreeCount l = b := by
  have mem : l ∈ [a, b, c].permutations' := List.mem_permutations'.mpr perm
  simp only [List.permutations', List.permutations'Aux, List.flatMap_cons, List.flatMap_nil, List.map_cons, List.map_nil, List.append_nil,
    List.cons_append, List.nil_append, List.mem_cons, List.not_mem_nil, or_false] at mem
  rcases mem with rfl | rfl | rfl | rfl | rfl | rfl <;> simp only [agreeCount] <;> omega

/-- Two equal samples of three are the majority (R302). -/
theorem agreeValue_majority (i j k v w : Nat) : agreeValue [(i, v), (j, v), (k, w)] = v ∧ agreeValue [(i, v), (j, w), (k, v)] = v ∧
    agreeValue [(i, w), (j, v), (k, v)] = v := by
  refine ⟨by simp [agreeValue], by simp [agreeValue], ?_⟩
  by_cases same : w = v
  · simp [agreeValue, same]
  · simp [agreeValue, same]

/-- Of a pair the lower-numbered lane's sample stands (R302). -/
theorem agreeValue_pair {i j : Nat} (lower : i < j) (v w : Nat) : agreeValue [(i, v), (j, w)] = v ∧ agreeValue [(j, w), (i, v)] = v := by
  have up : i ≤ j := lower.le
  have notDown : ¬j ≤ i := by omega
  simp [agreeValue, up, notDown]

/-! ### Checker faults -/

section
variable (s : State)

@[simp] theorem State.failModeChange_ckc : s.failModeChange.ckc = { s.ckc with split := none, join := none } :=
  foldl_keeps State.ckc (fun t (pk : Packet) => t.reply_ckc pk stHwFault (unitCode .ckc) 0) _ _

@[simp] theorem State.failModeChange_pwr : s.failModeChange.pwr = s.pwr :=
  foldl_keeps State.pwr (fun t (pk : Packet) => t.reply_pwr pk stHwFault (unitCode .ckc) 0) _ _

@[simp] theorem State.suspectAtOnce_ckc (f : FailReport) : (s.suspectAtOnce f).ckc = s.ckc := (s.suspect_guards f _).1

@[simp] theorem State.suspectAtOnce_latched (f : FailReport) : (s.suspectAtOnce f).saf.latched = true := (s.suspect_spec f _).1

theorem State.suspectAtOnce_drains {s : State} (runs : s.pwr.state = .ready ∨ s.pwr.state = .running) (f : FailReport) :
    (s.suspectAtOnce f).pwr.state = .draining := (s.suspect_spec f _).2.2 runs

/-- A checker fault halts CKC with nothing presented and latches the safe state (R301). -/
theorem State.checkerFault_spec (lane rule : Nat) : (s.checkerFault lane rule).ckc.mode = .halted ∧
    (s.checkerFault lane rule).saf.latched = true ∧ (s.checkerFault lane rule).ckc.pres = [] ∧
    (s.checkerFault lane rule).ckc.completed = s.ckc.completed := by
  simp [State.checkerFault]

/-! ### Odd lanes -/

/-- What ends with rounds leaves of a cluster that reloads a lane: the mode, the lane, the copy and the odd counts. -/
def Ckc.reloads (c : Ckc) : CkcMode × Nat × Bool × Vector Nat 3 := (c.mode, c.lane, c.copying, c.odd)

theorem State.closeRounds_reloads : s.closeRounds.ckc.reloads = s.ckc.reloads :=
  s.closeRounds_sees (look := Ckc.reloads) fun _ _ _ _ _ _ => rfl

@[simp] theorem State.closeRounds_saf : s.closeRounds.saf = s.saf := by
  obtain ⟨_, _, _, _, _, eq⟩ := s.closeRounds_eq
  rw [eq, State.onCkc_saf]

@[simp] theorem State.closeRounds_fab : s.closeRounds.fab = s.fab := by
  obtain ⟨_, _, _, _, _, eq⟩ := s.closeRounds_eq
  rw [eq, State.onCkc_fab]

@[simp] theorem State.closeRounds_emt : s.closeRounds.emt = s.emt := by
  obtain ⟨_, _, _, _, _, eq⟩ := s.closeRounds_eq
  rw [eq, State.onCkc_emt]

@[simp] theorem State.closeRounds_tim : s.closeRounds.tim = s.tim := by
  obtain ⟨_, _, _, _, _, eq⟩ := s.closeRounds_eq
  rw [eq, State.onCkc_tim]

variable {s} {x : Nat} (tmr : s.ckc.mode = .tmr)
include tmr

/-- An odd lane of TMR is counted and reloaded (R299, R300). -/
theorem State.oddLane_reloads (first : s.oddAgain x = false) : (s.oddLane x).ckc.mode = .resync ∧ (s.oddLane x).ckc.lane = x ∧
    (s.oddLane x).ckc.copying = true ∧ (s.oddLane x).ckc.odd = vset s.ckc.odd x (satU 8 (vget s.ckc.odd x 0 + 1)) ∧
    (s.oddLane x).saf = s.saf ∧ (s.oddLane x).fab = s.fab ∧ (s.oddLane x).cpx = s.cpx := by
  have inTmr : ¬s.ckc.mode ≠ .tmr := by simp [tmr]
  simp only [State.oddLane, inTmr, first, if_false, Bool.false_eq_true]
  have reloads := fun t : State => t.closeRounds_reloads
  simp only [Ckc.reloads, Prod.mk.injEq] at reloads
  simp [reloads]

/-- A lane that is odd within 10 s of its rejoin is a checker fault (R301). -/
theorem State.oddLane_again (again : s.oddAgain x = true) : (s.oddLane x).ckc.mode = .halted ∧ (s.oddLane x).saf.latched = true := by
  have inTmr : ¬s.ckc.mode ≠ .tmr := by simp [tmr]
  simp only [State.oddLane, inTmr, again, if_false, if_true]
  exact ⟨(State.checkerFault_spec _ _ _).1, (State.checkerFault_spec _ _ _).2.1⟩

end

section
variable {s : State} {lane : Fin 3} (on : s.pins.rstN = true) (judges : s.ckc.judging lane.val = true)
include on judges

theorem doOddLaneTimeout_outvoted {w : LaneTx} {due : Nat} (waits : s.ckc.await.find? (fun a => a.1.lane = lane.val) = some (w, due)) :
    doOddLaneTimeout lane s = (s.advance due).oddLane lane.val := by
  simp only [doOddLaneTimeout, on, judges, waits]
  rfl

/-- Without two lanes that match, the timeout is a checker fault (R301). -/
theorem doOddLaneTimeout_unmatched {p : LaneTx} {rest : List LaneTx}
    (free : s.ckc.await.find? (fun a => a.1.lane = lane.val) = none) (presents : s.ckc.pres = p :: rest) (other : p.lane ≠ lane.val) :
    ∃ rule, doOddLaneTimeout lane s = (s.advance (p.time + 2000)).checkerFault lane.val rule := by
  refine ⟨if s.ckc.mode = .tmr then 1 else 3, ?_⟩
  simp [doOddLaneTimeout, on, judges, free, presents, other]

end

/-! ### Transactions -/

/-- The lane has run up to its transaction at count `t`. -/
def State.laneRan (lane t : Nat) (s : State) : State :=
  (s.advance t).onCkc fun c => { c with lanes := vset c.lanes lane (vget c.lanes lane Lane.start).ran }

@[simp] theorem State.laneRan_pres (s : State) (x t : Nat) : (s.laneRan x t).ckc.pres = s.ckc.pres := by simp [State.laneRan]

@[simp] theorem State.laneRan_overdue (s : State) (x t n : Nat) : (s.laneRan x t).ckc.overdue n = s.ckc.overdue n := by
  rw [Ckc.overdue, State.laneRan_pres, Ckc.overdue]

section
variable {s : State} {lane : Fin 3} (on : s.pins.rstN = true) (judges : s.ckc.judging lane.val = true)
include on judges

theorem doVoterTransaction_ecc (kind addr data sample t : Nat) : doVoterTransaction lane kind addr data sample t true s =
    (s.advance t).checkerFault lane.val 4 := by
  simp only [doVoterTransaction, on, judges]
  rfl

variable {kind addr data sample t : Nat} {tx : LaneTx}
  (is : tx = { lane := lane.val, kind := kind, addr := addr, data := data, sample := sample, time := (s.advance t).now })
include is

theorem doVoterTransaction_presents (free : s.ckc.await.find? (fun a => a.1.lane = lane.val) = none) :
    doVoterTransaction lane kind addr data sample t false s = (s.laneRan lane.val t).txPresent tx := by
  subst is
  simp only [doVoterTransaction, on, judges, Bool.and_self, Bool.not_true, Bool.false_eq_true, if_false, State.onCkc_ckc,
    State.advance_ckc, free]
  rfl

theorem doVoterTransaction_follows {w : LaneTx} {due : Nat}
    (waits : s.ckc.await.find? (fun a => a.1.lane = lane.val) = some (w, due)) (same : w.same tx = true) (inTime : (s.advance t).now ≤ due) :
    doVoterTransaction lane kind addr data sample t false s = (s.laneRan lane.val t).txFollow w due tx := by
  subst is
  have matched : (w.same { lane := lane.val, kind := kind, addr := addr, data := data, sample := sample, time := (s.advance t).now } &&
      decide ((s.advance t).now ≤ due)) = true := by simp [same, inTime]
  simp only [doVoterTransaction, on, judges, Bool.and_self, Bool.not_true, Bool.false_eq_true, if_false, State.onCkc_ckc,
    State.advance_ckc, waits]
  exact if_pos matched

end

section
variable {s : State} {tx mate : LaneTx}

/-- The first of the lanes to reach a transaction presents it (R299). -/
theorem State.txPresent_first (inTime : s.ckc.overdue s.now = false) (alone : s.ckc.pres = []) :
    s.txPresent tx = s.onCkc fun c => { c with pres := [tx] } := by
  have none_ : ([] : List LaneTx).any (fun t => t.lane = tx.lane) = false := rfl
  simp [State.txPresent, alone, inTime, State.onCkc]

theorem State.txPresent_matches (new : s.ckc.pres.any (fun p => p.lane = tx.lane) = false) (inTime : s.ckc.overdue s.now = false)
    (found : s.ckc.pres.find? (fun p => p.same tx) = some mate) : s.txPresent tx = s.txComplete tx mate := by
  simp only [State.txPresent, new, inTime, found, Bool.false_eq_true, if_false]

/-- What a completed transaction changes (R299): the log, and by its kind CKC's SRAM, the arrays, the verdict outputs, the status unit or
the rounds; the presentations, the mode, the latch, CPX and EMT stay. -/
theorem State.txEffect_spec : (s.txEffect tx mate).ckc.completed = s.ckc.completed ++ [tx] ∧ (s.txEffect tx mate).ckc.mode = s.ckc.mode ∧
    (s.txEffect tx mate).ckc.pres = s.ckc.pres ∧
    (s.txEffect tx mate).fab = (if tx.kind = txSramWrite ∧ tx.addr + 8 ≤ 0x800000 then s.fab.pokes .ckc tx.addr (leBytes 8 tx.data)
      else s.fab) ∧
    (tx.kind = txVerdict → (s.txEffect tx mate).ckc.verdicts = s.ckc.verdicts ++ [tx.addr]) ∧
    (s.txEffect tx mate).saf = s.saf ∧ (s.txEffect tx mate).cpx = s.cpx ∧ (s.txEffect tx mate).emt = s.emt := by
  unfold State.txEffect
  extract_lets logged round
  split
  next sram =>
    split
    next inside => exact ⟨rfl, rfl, rfl, by simp [sram, inside, logged], by simp [sram], rfl, rfl, rfl⟩
    next outside => exact ⟨rfl, rfl, rfl, by simp [outside, logged], by simp [sram], rfl, rfl, rfl⟩
  next notSram =>
    split
    next array => exact ⟨rfl, rfl, rfl, by simp [notSram, logged], by simp [array], rfl, rfl, rfl⟩
    next =>
      split
      next => exact ⟨rfl, rfl, rfl, by simp [notSram, logged], fun _ => rfl, rfl, rfl, rfl⟩
      next notVerdict =>
        split
        next => exact ⟨rfl, rfl, rfl, by simp [notSram, logged], fun verdict => absurd verdict notVerdict, rfl, rfl, rfl⟩
        next =>
          obtain ⟨_, _, _, _, _, eq⟩ := (logged.onCkc fun c => { c with rounds := c.rounds ++ [round] }).closeRounds_eq
          rw [eq]
          exact ⟨rfl, rfl, rfl, by simp [notSram, logged], fun verdict => absurd verdict notVerdict, rfl, rfl, rfl⟩

/-- In TMR a match leaves 2 µs to the third lane that has presented nothing (R299). -/
theorem State.txComplete_awaits (tmr : s.ckc.mode = .tmr)
    (third : s.ckc.pres.any (fun p => p.lane ≠ mate.lane && p.lane = 3 - tx.lane - mate.lane) = false) :
    s.txComplete tx mate = ((s.onCkc fun c => { c with pres := c.pres.filter fun t => t.lane ≠ mate.lane }).txEffect tx mate).onCkc fun c =>
      { c with await := c.await ++ [({ tx with lane := 3 - tx.lane - mate.lane },
        ((s.onCkc fun c => { c with pres := c.pres.filter fun t => t.lane ≠ mate.lane }).txEffect tx mate).now + 2000)] } := by
  obtain ⟨-, mode, pres, -⟩ := State.txEffect_spec (s := s.onCkc fun c => { c with pres := c.pres.filter fun t => t.lane ≠ mate.lane })
    (tx := tx) (mate := mate)
  have absent : (s.ckc.pres.filter fun t => t.lane ≠ mate.lane).any (fun t => t.lane = 3 - tx.lane - mate.lane) = false := by
    rw [List.any_filter, ← third]
  rw [State.onCkc_ckc] at mode pres
  simp only [State.txComplete, mode, tmr, if_true, pres, absent, Bool.false_eq_true, if_false]

/-! ### Agreed input -/

/-- The only round, with every sample, ends in its agreed value (R302). -/
theorem State.closeRounds_single {r : Round} (only : s.ckc.rounds = [r]) (full : s.ckc.sampleCount ≤ r.samples.length) :
    s.closeRounds.ckc.rounds = [] ∧ s.closeRounds.ckc.agreed = s.ckc.agreed ++ [(r.addr, r.result)] := by
  have closes : s.closeRounds = (s.onCkc fun c => { c with rounds := [] }).takeAgreed r.addr r.result := by
    simp [State.closeRounds, only, full, State.onCkc]
  obtain ⟨inputs, motion, judges, taken⟩ := (s.onCkc fun c => { c with rounds := [] }).takeAgreed_eq r.addr r.result
  rw [closes, taken]
  exact ⟨rfl, rfl⟩

end

/-- The third lane's match completes a request for agreed input with its sample (R299, R302). -/
theorem State.txFollow_agrees {s : State} {w tx : LaneTx} {due : Nat} {p q : Nat × Nat} (tmr : s.ckc.mode = .tmr) (agree : tx.kind = txAgree)
    (round : s.ckc.rounds = [{ addr := tx.addr, data := tx.data, samples := [p, q] }]) (notP : p.1 ≠ tx.lane) (notQ : q.1 ≠ tx.lane) :
    (s.txFollow w due tx).ckc.rounds = [] ∧ (s.txFollow w due tx).ckc.agreed = s.ckc.agreed ++
      [(tx.addr, if tx.addr = inMotion then agreeValue [p, q, (tx.lane, tx.sample)] else agreeCount [p.2, q.2, tx.sample])] := by
  refine State.closeRounds_single (r := { addr := tx.addr, data := tx.data, samples := [p, q, (tx.lane, tx.sample)] }) ?_ ?_
  · simp [agree, round, notP, notQ]
  · simp [Ckc.sampleCount, tmr]

/-! ### Modes -/

section
variable (s : State)

/-- With the copy complete, a band boundary returns the lane: three lanes in the pair's state, and no join waits (R300, R305). -/
theorem State.bandBoundary_rejoins (resync : s.ckc.mode = .resync) (copied : s.ckc.copyDone = true) :
    (s.ckc.split = none ∨ s.noFrame = false → s.bandBoundary.ckc.mode = .tmr) ∧
    s.bandBoundary.ckc.settled = (s.ckc.verdicts, s.ckc.bandAt, Vector.replicate 3 (s.ckc.pairState s.ckc.lane), none, false) := by
  have ends : (decide (s.ckc.mode = .resync) && s.ckc.copyDone) = true := by simp [resync, copied]
  unfold State.bandBoundary
  extract_lets x join restarted inTmr answered
  clear_value join
  have ckc : answered.ckc = inTmr.ckc := by
    unfold answered
    split <;> simp
  have ctr : answered.ctr = s.ctr := by
    unfold answered
    split <;> simp [inTmr, restarted]
  have mode : answered.ckc.mode = .tmr := by rw [ckc, State.setCkcMode_ckc]
  have split_ : answered.ckc.split = s.ckc.split := by rw [ckc, State.setCkcMode_ckc]; rfl
  have settled : answered.ckc.settled =
      (s.ckc.verdicts, s.ckc.bandAt, Vector.replicate 3 (s.ckc.pairState s.ckc.lane), none, false) := by
    rw [ckc, State.setCkcMode_ckc]
    rfl
  have noFrame : answered.noFrame = s.noFrame := by simp only [State.noFrame, ctr]
  rw [if_pos ends, noFrame]
  clear_value answered
  split
  next idle =>
    refine ⟨fun stays => ?_, by rw [State.splitBoundary_settled, settled]⟩
    rcases stays with none_ | running
    · rw [State.splitBoundary_unasked _ (split_.trans none_), mode]
    · rw [idle] at running
      contradiction
  next => exact ⟨fun _ => mode, settled⟩

theorem State.bandBoundary_stays (other : ¬(s.ckc.mode = .resync ∧ s.ckc.copyDone = true)) : s.bandBoundary = s := by
  have goes : ¬(decide (s.ckc.mode = .resync) && s.ckc.copyDone) = true := by simpa using other
  exact if_neg goes

/-- A split that takes effect in TMR frees its lane and begins its self-test (R304). -/
theorem State.splitBoundary_splits {pk : Packet} {x : Nat} (asked : s.ckc.split = some (pk, x)) (tmr : s.ckc.mode = .tmr) :
    s.splitBoundary.ckc.mode = .split ∧ s.splitBoundary.ckc.lane = x ∧ s.splitBoundary.ckc.selfBusy = true ∧
    s.splitBoundary.ckc.split = none := by
  simp only [State.splitBoundary, asked, tmr, if_true, State.done_ckc]
  obtain ⟨_, _, _, _, _, eq⟩ := State.closeRounds_eq _
  rw [eq, State.onCkc_ckc, State.setCkcMode_ckc]
  exact ⟨rfl, rfl, rfl, rfl⟩

@[simp] theorem State.startJoin_ckc : s.startJoin.ckc = { s.ckc with copying := true, copyDone := false, mode := .resync } := by
  simp [State.startJoin]
@[simp] theorem State.startJoin_fab : s.startJoin.fab = s.fab := by simp [State.startJoin]
@[simp] theorem State.startJoin_saf : s.startJoin.saf = s.saf := by simp [State.startJoin]
@[simp] theorem State.startJoin_cpx : s.startJoin.cpx = s.cpx := by simp [State.startJoin]

/-- The state of CKC's self-test with its result noted (R304). -/
def State.selfTested (pass : Bool) (s : State) : State :=
  (s.onCkc fun c => { c with selfBusy := false, selfPassed := pass }).note 0x1006 sevNotice (unitCode .ckc) s.ckc.lane
    (if pass then 0 else 1) 0

variable {s} (on : s.pins.rstN = true) (busy : s.ckc.selfBusy = true)
include on busy

theorem doLaneSelftest_passes : doLaneSelftest true s =
    if s.ckc.join.isSome then (s.selfTested true).startJoin else s.selfTested true := by
  have join : (s.selfTested true).ckc.join = s.ckc.join := by simp [State.selfTested]
  simp only [doLaneSelftest, on, busy, Bool.and_self, Bool.not_true, Bool.false_eq_true, if_false, if_true, ← join]
  rfl

theorem doLaneSelftest_fails : doLaneSelftest false s = (s.selfTested false).failModeChange.suspectAtOnce
    { detector := 0x0A, unit := .ckc, subunit := s.ckc.lane, cls := 0xFF, address := 0, detail := BitVec.ofNat 32 s.ckc.lane } := by
  simp only [doLaneSelftest, on, busy]
  rfl

end

section
variable {s : State} {ring : Nat} {pk : Packet}

theorem doCheckerSplit_starts (starts : s.Starts ring 0x90 pk) : doCheckerSplit ring s =
    if s.ckc.mode ≠ .tmr ∨ s.ckc.split.isSome then (s.markStarted pk).bad (s.begun pk) 0
    else if 2 < pk.u 0x10 1 then (s.markStarted pk).bad (s.begun pk) 0x10
    else if s.noFrame then ((s.markStarted pk).onCkc fun c => { c with split := some (s.begun pk, pk.u 0x10 1) }).splitBoundary
    else (s.markStarted pk).onCkc fun c => { c with split := some (s.begun pk, pk.u 0x10 1) } := by
  rw [doCheckerSplit, starts.run]
  rfl

theorem doCheckerJoin_starts (starts : s.Starts ring 0x91 pk) : doCheckerJoin ring s =
    if s.ckc.mode ≠ .split ∨ s.ckc.join.isSome then (s.markStarted pk).bad (s.begun pk) 0
    else if !s.ckc.selfBusy && s.ckc.selfPassed then ((s.markStarted pk).onCkc fun c => { c with join := some (s.begun pk) }).startJoin
    else (s.markStarted pk).onCkc fun c => { c with join := some (s.begun pk) } := by
  rw [doCheckerJoin, starts.run]
  rfl

end

theorem doBandBoundary_due {s : State} (on : s.pins.rstN = true) (runs : s.ckc.mode ≠ .halted) (quiet : s.emt.emitting = false) :
    doBandBoundary s = ((s.advance ((s.ckc.bandAt / 128000 + 1) * 128000)).onCkc fun c =>
      { c with bandAt := (s.advance ((s.ckc.bandAt / 128000 + 1) * 128000)).now }).bandBoundary := by
  simp [doBandBoundary, on, runs, quiet]

/-- Settles O46: transactions are `State.txPresent_first`, `State.txComplete_awaits` and `State.txFollow_agrees`; odd lanes and faults
`State.oddLane_reloads` and `State.checkerFault_spec`; each mode command is one equation. -/
theorem checkerClusterModes : Obligations.CheckerClusterModes := by
  refine ⟨fun s lane kind addr data sample t tx on tmr is => ⟨fun free new inTime => ⟨fun alone => ?_, fun mate found third => ?_⟩,
      fun w due p q waits same inTime agree round notP notQ => ?_⟩, fun a b c l low high perm => ?_, fun i j k v w => ?_,
    fun s lane kind addr data sample t on judges => ?_, fun s lane w due on tmr waits => ⟨fun first => ?_, fun again => ?_⟩,
    fun s lane p rest on _ judges free presents other => ?_, fun s on resync copying => ?_, fun s on runs quiet fits => ?_,
    fun s on runs => ?_, fun s ring pk starts => ⟨fun tmr unasked low => ⟨fun idle => ?_, fun running => ?_⟩, fun refused => ?_⟩,
    fun s ring pk starts => ⟨fun split unasked => ⟨fun ready passed => ?_, fun unready => ?_⟩, fun refused => ?_⟩,
    fun s on busy => ⟨?_, ?_⟩⟩
  · have judges : s.ckc.judging lane.val = true := by simp [Ckc.judging, tmr]
    refine congrArg Host.Outcome.next ((doVoterTransaction_presents on judges is free).trans ?_)
    rw [State.txPresent_first (by rw [State.laneRan_overdue]; exact inTime) (by rw [State.laneRan_pres]; exact alone)]
    rfl
  · have judges : s.ckc.judging lane.val = true := by simp [Ckc.judging, tmr]
    have lane_ : tx.lane = lane.val := by rw [is]
    refine ⟨_, congrArg Host.Outcome.next ((doVoterTransaction_presents on judges is free).trans
      ((State.txPresent_matches (mate := mate) (by rw [State.laneRan_pres]; exact new) (by rw [State.laneRan_overdue]; exact inTime)
        (by rw [State.laneRan_pres]; exact found)).trans (State.txComplete_awaits (by simpa [State.laneRan] using tmr)
          (by rw [State.laneRan_pres, lane_]; exact third)))), ?_⟩
    obtain ⟨completed, mode, -, fab, verdicts, saf, cpx, emt⟩ := State.txEffect_spec (tx := tx) (mate := mate)
      (s := (s.laneRan lane.val t).onCkc fun c => { c with pres := c.pres.filter fun t => t.lane ≠ mate.lane })
    have kind_ : tx.kind = kind := by rw [is]
    have addr_ : tx.addr = addr := by rw [is]
    have data_ : tx.data = data := by rw [is]
    rw [kind_, addr_, data_] at fab
    rw [kind_, addr_] at verdicts
    refine ⟨completed.trans (by simp [State.laneRan]), mode.trans (by simpa [State.laneRan] using tmr), ?_, fab.trans (by simp [State.laneRan]),
      fun verdict => (verdicts verdict).trans (by simp [State.laneRan]), saf.trans (by simp [State.laneRan]),
      cpx.trans (by simp [State.laneRan]), emt.trans (by simp [State.laneRan])⟩
    rw [lane_]
    exact List.mem_append_right _ (List.mem_singleton.mpr rfl)
  · have judges : s.ckc.judging lane.val = true := by simp [Ckc.judging, tmr]
    have parts : tx.lane = lane.val ∧ tx.kind = kind ∧ tx.addr = addr ∧ tx.data = data ∧ tx.sample = sample := by simp [is]
    obtain ⟨lane_, kind_, addr_, data_, sample_⟩ := parts
    refine ⟨_, congrArg Host.Outcome.next (doVoterTransaction_follows on judges is waits same inTime), ?_⟩
    obtain ⟨rounds, agreed⟩ := State.txFollow_agrees (s := s.laneRan lane.val t) (w := w) (due := due) (tx := tx) (p := p) (q := q)
      (by simpa [State.laneRan] using tmr) (kind_.trans agree) (by simpa [State.laneRan, addr_, data_] using round) (lane_ ▸ notP)
      (lane_ ▸ notQ)
    rw [addr_, lane_, sample_] at agreed
    refine ⟨rounds, agreed.trans (by simp [State.laneRan]), ?_, ?_, ?_⟩ <;> simp [State.txFollow, State.laneRan]
  · exact ⟨agreeCount_median low high perm, by simp [agreeCount, low], by simp [agreeCount, low]⟩
  · obtain ⟨first, middle, last⟩ := agreeValue_majority i j k v w
    exact ⟨first, middle, last, fun lower => agreeValue_pair lower v w⟩
  · obtain ⟨mode, latched, pres, completed⟩ := (s.advance t).checkerFault_spec lane.val 4
    exact ⟨_, congrArg Host.Outcome.next (doVoterTransaction_ecc on judges kind addr data sample t), mode, latched, pres,
      completed.trans (by simp)⟩
  · obtain ⟨mode, reloaded, copying, odd, saf, fab, cpx⟩ := State.oddLane_reloads (s := s.advance due) (by simpa using tmr) first
    exact ⟨_, congrArg Host.Outcome.next (doOddLaneTimeout_outvoted on (by simp [Ckc.judging, tmr]) waits), mode, reloaded, copying,
      odd.trans (by simp), saf.trans (by simp), fab.trans (by simp), cpx.trans (by simp)⟩
  · exact ⟨_, congrArg Host.Outcome.next (doOddLaneTimeout_outvoted on (by simp [Ckc.judging, tmr]) waits),
      State.oddLane_again (by simpa using tmr) again⟩
  · obtain ⟨rule, fault⟩ := doOddLaneTimeout_unmatched on judges free presents other
    obtain ⟨mode, latched, -⟩ := (s.advance (p.time + 2000)).checkerFault_spec lane.val rule
    exact ⟨_, congrArg Host.Outcome.next fault, mode, latched⟩
  · have copies : (s.pins.rstN && decide (s.ckc.mode = .resync) && s.ckc.copying) = true := by simp [on, resync, copying]
    exact congrArg Host.Outcome.next (if_pos copies)
  · refine ⟨_, congrArg Host.Outcome.next (doBandBoundary_due on runs quiet), ?_⟩
    have word := s.le_now_advance fits
    have kept := (State.onCkc (fun c => { c with bandAt := (s.advance ((s.ckc.bandAt / 128000 + 1) * 128000)).now })
      (s.advance ((s.ckc.bandAt / 128000 + 1) * 128000))).bandBoundary_tim
    have now : ∀ u : State, u.tim = (s.advance ((s.ckc.bandAt / 128000 + 1) * 128000)).tim →
      u.now = (s.advance ((s.ckc.bandAt / 128000 + 1) * 128000)).now := fun u same => by rw [State.now, same, State.now]
    by_cases ends : s.ckc.mode = .resync ∧ s.ckc.copyDone = true
    · obtain ⟨resync, copied⟩ := ends
      obtain ⟨mode, settled⟩ := State.bandBoundary_rejoins
        (s := (s.advance ((s.ckc.bandAt / 128000 + 1) * 128000)).onCkc fun c =>
          { c with bandAt := (s.advance ((s.ckc.bandAt / 128000 + 1) * 128000)).now })
        (by simpa using resync) (by simpa using copied)
      simp only [Ckc.settled, Prod.mk.injEq, State.onCkc_ckc, State.advance_ckc] at settled mode
      obtain ⟨-, bandAt, lanes, join, copyDone⟩ := settled
      exact ⟨by rw [now _ kept]; exact word, by rw [now _ kept]; exact bandAt, fun _ => ⟨fun stays => mode (by simpa [State.noFrame] using stays), join, copyDone, lanes⟩,
        fun goes => absurd ⟨resync, copied⟩ goes, by simp, by simp, by simp⟩
    · rw [State.bandBoundary_stays _ (by simpa using ends)]
      exact ⟨word, rfl, fun is => absurd is ends, fun _ => ⟨by simp [State.now], by simp⟩, by simp, by simp, by simp⟩
  · have counts : (s.pins.rstN && decide (s.ckc.mode ≠ .halted)) = true := by simp [on, runs]
    exact congrArg Host.Outcome.next (if_pos counts)
  · have cmd : exec (.checkerSplit ring) s = .next (doCheckerSplit ring s) := rfl
    rw [cmd, doCheckerSplit_starts starts, if_neg (by simp [tmr, unasked]), if_neg (by omega), if_pos idle]
    obtain ⟨mode, lane, busy, none_⟩ := State.splitBoundary_splits
      ((s.markStarted pk).onCkc fun c => { c with split := some (s.begun pk, pk.u 0x10 1) }) rfl (by simpa using tmr)
    exact ⟨_, rfl, mode, lane, busy, none_, by simp, by simp, by simp⟩
  · have cmd : exec (.checkerSplit ring) s = .next (doCheckerSplit ring s) := rfl
    rw [cmd, doCheckerSplit_starts starts, if_neg (by simp [tmr, unasked]), if_neg (by omega), if_neg (by simp [running])]
  · have cmd : exec (.checkerSplit ring) s = .next (doCheckerSplit ring s) := rfl
    rw [cmd, doCheckerSplit_starts starts, if_pos (by simpa [Option.isSome_iff_ne_none] using refused)]
  · have cmd : exec (.checkerJoin ring) s = .next (doCheckerJoin ring s) := rfl
    rw [cmd, doCheckerJoin_starts starts, if_neg (by simp [split, unasked]), if_pos (by simp [ready, passed])]
    exact ⟨_, rfl, by simp, by simp, by simp, by simp, by simp, by simp⟩
  · have cmd : exec (.checkerJoin ring) s = .next (doCheckerJoin ring s) := rfl
    rw [cmd, doCheckerJoin_starts starts, if_neg (by simp [split, unasked]), if_neg (by rcases unready with h | h <;> simp [h])]
  · have cmd : exec (.checkerJoin ring) s = .next (doCheckerJoin ring s) := rfl
    rw [cmd, doCheckerJoin_starts starts, if_pos (by simpa [Option.isSome_iff_ne_none] using refused)]
  · refine ⟨_, congrArg Host.Outcome.next (doLaneSelftest_passes on busy), ?_⟩
    cases waiting : s.ckc.join with
    | none => simp [State.selfTested]
    | some p => simp [State.selfTested]
  · refine ⟨_, congrArg Host.Outcome.next (doLaneSelftest_fails on busy), by simp [State.selfTested], by simp, by simp, fun runs => ?_⟩
    exact State.suspectAtOnce_drains (by simpa [State.selfTested] using runs) _

end Sys2Proof.Machine
end

section
/-! PROOF of the statements about the host's registers, the event recorder's log and the recorder's times, limits and reads. -/

namespace Sys2Proof.Machine

/-! ### Host registers -/

/-- A resent cause leaves the cause bits as they were (R435). -/
@[simp] theorem State.resend_event (s : State) : s.resend.hif.event = s.hif.event := by
  unfold State.resend
  split
  · exact s.message_event 0
  · rfl

/-- Settles O9: each write is its register's update with the resent causes; the read posts the count and clears it. -/
theorem hostRegisterAccesses : Obligations.HostRegisterAccesses := by
  unfold Obligations.HostRegisterAccesses
  refine ⟨?event, ?mask, ?window, ?read⟩
  case event =>
    intro v s open_
    exact ⟨_, congrArg Host.Outcome.next (show doHifEventWrite v s = _ from if_pos open_), rfl, State.resend_event _⟩
  case mask =>
    intro v s open_
    exact ⟨_, congrArg Host.Outcome.next (show doHifEventMaskWrite v s = _ from if_pos open_), rfl, State.resend_event _⟩
  case window =>
    intro v s open_
    exact congrArg Host.Outcome.next (if_pos open_)
  case read =>
    intro s open_ booted awake
    have link : s.hif.linkUp = true := by
      simp only [State.barOpen, Bool.and_eq_true] at open_
      exact open_.1.2
    have reads : doHifDoorbellErrorsRead s =
        (s.post (.readData (leBytes 4 s.hif.doorbellErrors))).onHif fun h => { h with doorbellErrors := 0 } := by
      simp only [doHifDoorbellErrorsRead, open_, decide_eq_true awake, Bool.and_self, if_true, if_neg booted]
    refine congrArg Host.Outcome.next (reads.trans ?_)
    simp only [State.post, State.onHif, link, if_true]

/-! ### The flash log -/

/-- Settles O40: one record moves from the queue's front to the log's end; an erase drops the oldest; a snapshot joins its ring. -/
theorem flashLogKeepsOrder : Obligations.FlashLogKeepsOrder := by
  unfold Obligations.FlashLogKeepsOrder
  refine ⟨?put, ?erase, ?snapshot⟩
  case put =>
    intro s e r on queue flag snap erased
    have ready : s.logWaits = false := by
      simp only [State.logWaits, Bool.and_eq_false_iff, decide_eq_false_iff_not]
      exact (em (s.flash.logPos % 128 = 0)).elim (.inr ∘ erased) .inl
    refine congrArg Host.Outcome.next ?_
    simp only [doEventFlashWrite, queue, on, flag, snap, ready, Option.isSome_none, Bool.not_true, Bool.or_self]
    rfl
  case erase =>
    intro s on erasing
    refine ⟨_, _, congrArg Host.Outcome.next (if_pos (by simp only [on, erasing, Bool.and_self])), rfl, rfl, ?_, rfl, fun few => ?_⟩
    · simp only [State.logErase, State.onEvr_flash, State.onFlash_flash, List.length_drop]
      omega
    · simp only [State.logErase, State.onEvr_flash, State.onFlash_flash]
      rw [Nat.sub_eq_zero_of_le (by omega), List.drop_zero]
  case snapshot =>
    intro s img on flag write
    have done : doSnapshotWriteComplete s = s.snapshotDone := if_pos (by simp only [on, flag, Option.isNone_none, Bool.and_self])
    refine ⟨_, congrArg Host.Outcome.next done, ?_⟩
    have last (l : List (List Byte)) : ((l ++ [img]).drop (l.length + 1 - 126)).getLast? = some img := by
      rw [List.getLast?_drop, if_neg (by simp), List.getLast?_concat]
    have ring (l : List (List Byte)) (_ : l.length ≤ 126) : ((l ++ [img]).drop (l.length + 1 - 126)).length ≤ 126 := by
      rw [List.length_drop, List.length_append, List.length_singleton]
      omega
    unfold State.snapshotDone
    rw [write]
    cases again : s.evr.snapAgain with
    | none =>
      simp only [State.onEvr_evr, State.onEvr_flash, State.onFlash_evr, State.onFlash_flash, again]
      exact ⟨last _, trivial, ring _, trivial, by rw [List.length_append], fun _ => trivial, nofun⟩
    | some c =>
      simp only [State.snapshot, State.onEvr_evr, State.onEvr_flash, State.onFlash_evr, State.onFlash_flash, again]
      exact ⟨last _, trivial, ring _, trivial, by rw [List.length_append], nofun, fun _ _ => rfl⟩

end Sys2Proof.Machine
end

section
/-! PROOF of the statement about the recorder's times, limits and reads. -/

namespace Sys2Proof.Machine

/-! ### Histograms -/

/-- A fold that updates each listed entry once, by its own old value. -/
theorem foldl_set_get {α : Type} {n : Nat} (f : Fin n → α → α) (l : List (Fin n)) (once : l.Nodup) (v : Vector α n) (c : Fin n) :
    (l.foldl (fun h (c : Fin n) => h.set c (f c (h.get c))) v).get c = if c ∈ l then f c (v.get c) else v.get c := by
  induction l generalizing v with
  | nil => rfl
  | cons a l ih =>
    obtain ⟨fresh, once⟩ := List.nodup_cons.mp once
    rw [List.foldl_cons, ih once]
    by_cases same : c = a
    · subst same
      simp [fresh, Vector.get_eq_getElem]
    · have other : (a : Nat) ≠ c := fun h => same (Fin.ext h.symm)
      simp [same, Vector.get_eq_getElem, Vector.getElem_set_ne _ _ other]

theorem vget_bump (v : Vector Nat 32) {i : Nat} (j : Nat) (bin : i < 32) :
    vget (bump v i) j 0 = if j = i then min (vget v i 0 + 1) (2 ^ 32 - 1) else vget v j 0 := by
  simp only [bump, vget_vset, bin, and_true, satU]

/-! ### Tokens and limits -/

section
variable (r : Rec) (b : Bucket)

theorem Rec.putBucket_same : (r.putBucket b).buckets.find? (fun x => x.code = b.code) = some b := by
  simp [Rec.putBucket]

theorem Rec.putBucket_other {c : Nat} (other : c ≠ b.code) :
    (r.putBucket b).buckets.find? (fun x => x.code = c) = r.buckets.find? (fun x => x.code = c) := by
  simp only [Rec.putBucket, List.find?_cons, decide_eq_false (Ne.symm other), List.find?_filter]
  refine List.find?_congr fun x _ => ?_
  by_cases here : x.code = c <;> simp [here, other]

end

theorem State.bucket_putBucket (s : State) (b : Bucket) : (s.onEvr fun r => r.putBucket b).bucket b.code = b :=
  congrArg (Option.getD · _) (Rec.putBucket_same s.evr b)

/-- A value from 1 to 60 becomes the limit of its class (R441). -/
theorem State.setLimit_limits {cls : Nat} (row : cls < 8) (v j : Nat) (s : State) :
    vget (s.setLimit cls v).mss.limits j 0 = if j = cls ∧ 1 ≤ v ∧ v ≤ 60 then v else vget s.mss.limits j 0 := by
  unfold State.setLimit
  split
  · next keep =>
    split
    · next taken =>
      obtain ⟨rfl, low, high⟩ := taken
      omega
    · rfl
  · next change =>
    simp only [State.onEvr_mss, State.onMss_mss, vget_vset, row, and_true]
    have range : 1 ≤ v ∧ v ≤ 60 := by omega
    simp only [range, and_true]

theorem State.setLimit_flash (cls v : Nat) (s : State) : (s.setLimit cls v).flash = s.flash := by
  unfold State.setLimit
  split <;> rfl

/-- The limits after the first fields of a register of four are written (R441). -/
theorem limits_foldl_setLimit (s : State) (base : Nat) (val : Nat → Nat) {n : Nat} (rows : base + n ≤ 8) (j : Nat) :
    vget ((List.range n).foldl (fun s k => s.setLimit (base + k) (val k)) s).mss.limits j 0 =
      if base ≤ j ∧ j < base + n ∧ 1 ≤ val (j - base) ∧ val (j - base) ≤ 60 then val (j - base) else vget s.mss.limits j 0 := by
  induction n with
  | zero => rw [if_neg (by omega)]; rfl
  | succ n ih =>
    rw [List.range_succ, List.foldl_append, List.foldl_cons, List.foldl_nil, State.setLimit_limits (by omega), ih (by omega)]
    by_cases here : j = base + n
    · subst here
      simp
    · have place : (base ≤ j ∧ j < base + n) ↔ (base ≤ j ∧ j < base + (n + 1)) := by omega
      simp only [here, false_and, if_false, ← and_assoc, place]

/-- Settles O41: the ticks are the model's steps at their counts; a limit is set field by field; a read posts its block, then replies. -/
theorem recorderTimesLimitsAndReads : Obligations.RecorderTimesLimitsAndReads := by
  unfold Obligations.RecorderTimesLimitsAndReads
  refine ⟨?mark, ?periodic, ?tick, ?refill, ?limit, ?log, ?stats⟩
  case mark =>
    intro s on
    refine congrArg Host.Outcome.next ((if_pos on).trans ?_)
    simp only [State.onEvr, State.advance_evr]
  case periodic =>
    intro s on
    refine congrArg Host.Outcome.next ((if_pos on).trans ?_)
    simp only [State.onEvr, State.advance_evr]
  case tick =>
    intro s on
    refine ⟨_, congrArg Host.Outcome.next (if_pos on), rfl, ?_, fun c => ⟨?_, ?_⟩, fun v i j => vget_bump v j, ?_, ?_⟩
    · simp only [State.onEvr_evr, State.advance_evr, State.advance_pwr]
    · simp only [State.onEvr_evr, State.advance_evr, State.advance_pwr]
      rw [foldl_set_get (fun c h => bump h _) _ (List.nodup_finRange 8), if_pos (List.mem_finRange c)]
    · simp only [State.onEvr_evr, State.advance_evr, State.advance_pwr]
      rw [foldl_set_get (fun c h => bump h _) _ (List.nodup_finRange 8), if_pos (List.mem_finRange c)]
    · simp only [State.onEvr_evr, State.advance_evr]
    · simp only [State.onEvr_fab, State.advance_fab]
  case refill =>
    intro s code b on bucket short
    have own : b.code = code := by simpa using List.find?_some bucket
    have refill : doTokenRefill code s = ((s.advance (b.since + 60000000000 / s.limitOf code)).onEvr fun r =>
        r.putBucket { b with tokens := b.tokens + 1, since := (s.advance (b.since + 60000000000 / s.limitOf code)).now }) := by
      simp only [doTokenRefill, bucket, on, decide_eq_true short, Bool.and_self, if_true]
    refine ⟨_, congrArg Host.Outcome.next refill, ?_, fun c other => ?_, State.le_now_advance _⟩
    · subst own
      exact congrArg Bucket.tokens (State.bucket_putBucket _ { b with tokens := b.tokens + 1, since := _ })
    · rw [State.onEvr_evr, Rec.putBucket_other _ _ (by simpa [own] using other), State.advance_evr]
  case limit =>
    intro s i v open_
    have rows : 4 * i.val + 4 ≤ 8 := by omega
    have fields := limits_foldl_setLimit s (4 * i.val) (fun k => v.toNat / 2 ^ (8 * k) % 64) rows
    refine ⟨_, congrArg Host.Outcome.next (if_pos open_), fun k field => ?_, fun j outside => ?_, ?_, ?_⟩
    · rw [fields]
      simp [field]
    · rw [fields, if_neg (by omega)]
    · exact foldl_keeps State.fab (fun s k => congrArg Prod.fst (State.setLimit_machinery s _ _)) _ _
    · exact foldl_keeps State.flash (fun s k => State.setLimit_flash _ _ s) _ _
  case log =>
    intro s ring pk rs start some_ few dest slice
    refine ⟨?_, fun e held => ?_, ?_⟩
    · rw [slice]
      exact List.length_take_le _ _
    · rw [slice] at held
      exact List.mem_of_mem_filter (List.mem_of_mem_take held)
    · have range : ¬(pk.u 0x14 4 < 1 ∨ 4096 < pk.u 0x14 4) := by omega
      have copies (a b : State) : (if rs = [] then a else b) = if rs.isEmpty then a else b := by
        simp only [List.isEmpty_iff]
      have run : doLogRead ring s = _ := start.run _
      refine congrArg Host.Outcome.next (run.trans ?_)
      rw [copies, slice]
      exact (if_neg range).trans (if_neg (by simp only [State.begun_u, aligned64, dest, decide_true, Bool.not_true, Bool.false_eq_true,
        not_false_eq_true]))
  case stats =>
    intro s ring pk b start what dest block
    have run : exec (.statsRead ring) s = .next (doStatsRead ring s) := rfl
    have body : doStatsRead ring s = if pk.u 0x14 4 < b.length ∨ hostWriteMax < b.length then (s.markStarted pk).noRes (s.begun pk) b.length
        else ((s.markStarted pk).post (.block (pk.u 0x18 8) b)).done (s.begun pk) b.length := by
      rw [doStatsRead, start.run]
      simp only [State.begun_u, if_neg what.not_gt, aligned64, dest, decide_true, Bool.not_true, Bool.false_eq_true, if_false,
        State.hostWrite]
      rw [block]
      rfl
    refine ⟨fun room one => ?_, fun large => ?_⟩
    · rw [run, body, if_neg (by omega)]
    · rw [run, body, if_pos large]

end Sys2Proof.Machine
end

section
/-! SUPPORT: the recorder's own operations write only the recorder and the flash, and of the flash only its log and its rings. -/

namespace Sys2Proof.Machine

/-- The state with the recorder and the flash set aside. -/
def State.outsideRecorder (s : State) : State := { s with evr := State.reset.evr, flash := State.reset.flash }

/-- The flash with the recorder's log, snapshots and fault ring set aside. -/
def Flash.firm (f : Flash) : Flash := { f with log := [], logPos := 0, snapshots := [], snapSeq := 0, faultRing := [] }

section
variable (s : State)

@[simp] theorem State.onEvr_outsideRecorder (f : Rec → Rec) : (s.onEvr f).outsideRecorder = s.outsideRecorder := rfl
@[simp] theorem State.onFlash_outsideRecorder (f : Flash → Flash) : (s.onFlash f).outsideRecorder = s.outsideRecorder := rfl

theorem State.note_outsideRecorder {code : Nat} (quiet : code / 4096 ≠ 7) (sev unit p0 p1 p2 : Nat) :
    (s.note code sev unit p0 p1 p2).outsideRecorder = s.outsideRecorder := by
  simp only [State.note, if_neg quiet]
  split <;> rfl

@[simp] theorem State.snapshot_outsideRecorder (cause : Nat) : (s.snapshot cause).outsideRecorder = s.outsideRecorder := by
  unfold State.snapshot
  split <;> rfl

@[simp] theorem State.snapshotDone_outsideRecorder : s.snapshotDone.outsideRecorder = s.outsideRecorder := by
  unfold State.snapshotDone
  split
  · rfl
  · extract_lets _ again _
    clear_value again
    split
    · exact State.snapshot_outsideRecorder _ _
    · rfl

@[simp] theorem State.flushSnapshots_outsideRecorder : s.flushSnapshots.outsideRecorder = s.outsideRecorder := by
  rw [State.flushSnapshots, State.snapshotDone_outsideRecorder, State.snapshotDone_outsideRecorder]

theorem State.logPut_outsideRecorder (e : EventRec) : (s.logPut e).outsideRecorder = s.outsideRecorder := rfl
theorem State.logErase_outsideRecorder : s.logErase.outsideRecorder = s.outsideRecorder := rfl

@[simp] theorem State.flushLog_outsideRecorder : s.flushLog.outsideRecorder = s.outsideRecorder := by
  rw [State.flushLog, foldl_keeps State.outsideRecorder fun t e => ?step, State.onEvr_outsideRecorder]
  rw [State.logPut_outsideRecorder]
  split
  · rw [State.logErase_outsideRecorder]
  · rfl

@[simp] theorem State.clearLog_outsideRecorder (slot id : Nat) : (s.clearLog slot id).outsideRecorder = s.outsideRecorder := by
  simp only [State.clearLog, State.flushSnapshots_outsideRecorder, State.snapshot_outsideRecorder, State.onEvr_outsideRecorder,
    State.onFlash_outsideRecorder, State.note_outsideRecorder _ (show 0x0009 / 4096 ≠ 7 by decide)]

/-! ### What stays of the flash -/

@[simp] theorem State.snapshot_flash (cause : Nat) : (s.snapshot cause).flash = s.flash := by
  unfold State.snapshot
  split <;> rfl

@[simp] theorem State.snapshotDone_firm : s.snapshotDone.flash.firm = s.flash.firm := by
  unfold State.snapshotDone
  split
  · rfl
  · extract_lets _ again _
    clear_value again
    split
    · rw [State.snapshot_flash]
      rfl
    · rfl

@[simp] theorem State.flushSnapshots_firm : s.flushSnapshots.flash.firm = s.flash.firm := by
  rw [State.flushSnapshots, State.snapshotDone_firm, State.snapshotDone_firm]

@[simp] theorem State.flushLog_firm : s.flushLog.flash.firm = s.flash.firm :=
  foldl_keeps (fun t : State => t.flash.firm) (fun t _ => by split <;> rfl) _ _

theorem State.clearLog_firm (slot id : Nat) : (s.clearLog slot id).flash.firm = s.flash.firm := by
  simp only [State.clearLog, State.flushSnapshots_firm, State.snapshot_flash, State.onEvr_flash, State.onFlash_flash, State.note_flash]
  exact s.flushSnapshots_firm

/-! ### A cleared recorder -/

/-- No fault record is held or waits, and no event waits, in the log `log` (R428). -/
def State.Cleared (t : State) (log : List EventRec) : Prop :=
  t.flash.log = log ∧ t.flash.faultRing = [] ∧ t.evr.faults = [] ∧ t.evr.ringQueue = [] ∧ t.evr.queue = []

variable {s} {log : List EventRec}

theorem State.Cleared.snapshot (h : s.Cleared log) (cause : Nat) : (s.snapshot cause).Cleared log := by
  unfold State.snapshot
  split <;> exact h

theorem State.Cleared.snapshotDone (h : s.Cleared log) : s.snapshotDone.Cleared log := by
  unfold State.snapshotDone
  split
  · exact h
  · extract_lets written again idle
    have cleared : idle.Cleared log := by
      obtain ⟨inLog, ring, faults, waiting, queue⟩ := h
      refine ⟨inLog, ?_, faults, rfl, queue⟩
      simp [idle, written, ring, waiting]
    clear_value again
    split
    · exact cleared.snapshot _
    · exact cleared

theorem State.Cleared.flushSnapshots (h : s.Cleared log) : s.flushSnapshots.Cleared log := h.snapshotDone.snapshotDone

/-- An event leaves the fault records, those kept and those that wait. -/
theorem State.note_faults (s : State) (code sev unit p0 p1 p2 : Nat) :
    (s.note code sev unit p0 p1 p2).evr.faults = s.evr.faults ∧ (s.note code sev unit p0 p1 p2).evr.ringQueue = s.evr.ringQueue := by
  simp only [State.note]
  split <;> split <;> simp [Rec.putBucket]

/-- Into an empty queue an event puts at most its own record. -/
theorem State.note_queue_of_empty (s : State) (code sev unit p0 p1 p2 : Nat) (empty : s.evr.queue = []) :
    (s.note code sev unit p0 p1 p2).evr.queue.length ≤ 1 ∧ ∀ e ∈ (s.note code sev unit p0 p1 p2).evr.queue, e.code = code := by
  unfold State.note
  extract_lets told b free e
  have queue : told.evr.queue = [] := by
    simp only [told]
    split
    · simpa using empty
    · exact empty
  split
  · simp [Rec.putBucket, queue]
  · simp [queue, e]

end

/-- After LOG_CLEAR the log holds at most its own event (R428). -/
theorem State.clearLog_cleared (s : State) (slot id : Nat) : ∃ log, (s.clearLog slot id).Cleared log ∧ log.length ≤ 1 ∧
    ∀ e ∈ log, e.code = 0x0009 := by
  unfold State.clearLog
  extract_lets bare erased noted queue opened
  obtain ⟨one, own⟩ := erased.note_queue_of_empty 0x0009 sevNotice noUnit slot id 0 rfl
  refine ⟨queue, State.Cleared.flushSnapshots (State.Cleared.snapshot ⟨rfl, ?_, ?_, ?_, rfl⟩ 5), one, own⟩
  · exact congrArg Flash.faultRing (State.note_flash 0x0009 sevNotice noUnit slot id 0 erased)
  · exact (State.note_faults erased 0x0009 sevNotice noUnit slot id 0).1
  · exact (State.note_faults erased 0x0009 sevNotice noUnit slot id 0).2

end Sys2Proof.Machine
end

section
/-! PROOF of the statement about authorised commands. The examination of an authorisation uses the challenge up; what follows it is the
command's body or the refusal. -/

namespace Sys2Proof.Machine

section
variable {s : State} {pk : Packet} {p : Nat} {auth : List Byte} {sigOk : Bool} (aligned : pk.u 0x10 8 % 64 = 0) (body : State → State)
include aligned

/-- An authorisation that answers its challenge runs the command (R409). -/
theorem State.authorised_runs (answers : s.authOk p (pk.u 0x18 4) auth sigOk = true) :
    s.authorised pk p auth sigOk body = body (s.dropChallenge p) := by
  simp only [State.authorised, State.examine, aligned64, aligned, answers, decide_true, Bool.not_true, Bool.false_eq_true, if_false, if_true]

/-- One that does not only notes AUTH_FAILED and replies so (R409). -/
theorem State.authorised_refuses (fails : s.authOk p (pk.u 0x18 4) auth sigOk = false) :
    s.authorised pk p auth sigOk body = ((s.dropChallenge p).note 0x5002 sevWarning noUnit p 0 0).reply pk stAuth 0 0 := by
  simp only [State.authorised, State.examine, aligned64, aligned, fails, decide_true, Bool.not_true, Bool.false_eq_true, if_false]

end

@[simp] theorem State.dropChallenge_challenge (s : State) {p : Nat} (purpose : p < 4) :
    vget (s.dropChallenge p).sec.challenges p none = none := by
  simp only [State.dropChallenge, State.onSec_sec, vget_vset, purpose, and_true, if_true]

@[simp] theorem State.markStarted_authOk (s : State) (q : Packet) (p size : Nat) (auth : List Byte) (sigOk : Bool) :
    (s.markStarted q).authOk p size auth sigOk = s.authOk p size auth sigOk := rfl

/-- No repair is new to the arrays that hold it, and none lacks a spare, when none was found. -/
theorem fitRepairs_nil (held : List Repair) : fitRepairs held [] = (held, []) := by
  rw [fitRepairs]

/-! ### The commands on an admitted packet -/

section
variable {s : State} {ring op : Nat} {pk : Packet} (auth : List Byte) (sigOk : Bool)

theorem State.Starts.refuses {p : Nat} {auth : List Byte} {sigOk : Bool} (_ : s.Starts ring op pk) (aligned : pk.u 0x10 8 % 64 = 0)
    (body : State → State) (fails : s.authOk p (pk.u 0x18 4) auth sigOk = false) :
    (s.markStarted pk).authorised (s.begun pk) p auth sigOk body =
      (((s.markStarted pk).dropChallenge p).note 0x5002 sevWarning noUnit p 0 0).reply (s.begun pk) stAuth 0 0 :=
  State.authorised_refuses (s := s.markStarted pk) (pk := s.begun pk) aligned body fails

theorem State.Starts.answers {p : Nat} {auth : List Byte} {sigOk : Bool} (_ : s.Starts ring op pk) (aligned : pk.u 0x10 8 % 64 = 0)
    (body : State → State) (answers : s.authOk p (pk.u 0x18 4) auth sigOk = true) :
    (s.markStarted pk).authorised (s.begun pk) p auth sigOk body = body ((s.markStarted pk).dropChallenge p) :=
  State.authorised_runs (s := s.markStarted pk) (pk := s.begun pk) aligned body answers

theorem State.Starts.logClear (start : s.Starts ring 0x61 pk) : ∃ id, doLogClear ring auth sigOk s =
    (s.markStarted pk).authorised (s.begun pk) 0 auth sigOk fun t => (t.clearLog (auth.getD 64 0).toNat id).done (s.begun pk) 0 := by
  rw [doLogClear, start.run]
  exact ⟨_, rfl⟩

theorem State.Starts.diagRun (start : s.Starts ring 0x81 pk) (state : s.pwr.state = .ready ∨ s.pwr.state = .flagged)
    (armed : s.ctr.armed = none) (staged : s.ctr.staged = none) (idle : s.pwr.state = .ready → s.cpx.jobOpen = false) :
    doDiagRun ring auth sigOk s = (s.markStarted pk).authorised (s.begun pk) 2 auth sigOk fun t =>
      (t.onFab Fab.invalidateCaches).onMss fun m => { m with diag := some (s.begun pk) } := by
  rw [doDiagRun, start.run]
  refine if_neg ?_
  simp only [State.markStarted_pwr, State.markStarted_ctr, armed, staged]
  rcases state with state | state
  · have closed : (s.markStarted pk).cpx.jobOpen = false := idle state
    simp [state, closed]
  · simp [state]

/-- The flag record that FLAG_CLEAR sends: the one in force, or a first one, with FLAGGED 0 (R343). -/
def State.clearedFlag (s : State) : FlagRecord :=
  match s.flash.flagRecord with
  | some r => { r with seq := r.seq + 1, flagged := false }
  | none => { seq := 1, flagged := false, unit := 0xFF, subunit := 0xFF, detector := 0, powerCycle := s.flash.powerCycle,
              opSeconds := s.opSecs, diagPasses := 0, fault := s.saf.faultRecord }

theorem State.clearedFlag_flagged (s : State) : s.clearedFlag.flagged = false := by
  unfold State.clearedFlag
  split <;> rfl

theorem State.Starts.flagClear (start : s.Starts ring 0x82 pk) (flagged : s.pwr.state = .flagged) (passed : s.mss.diagPassed = true) :
    doFlagClear ring auth sigOk s = (s.markStarted pk).authorised (s.begun pk) 1 auth sigOk fun t =>
      t.onMss fun m => { m with flagWrite := some t.clearedFlag, flagClear := some (s.begun pk) } := by
  rw [doFlagClear, start.run, State.markStarted_pwr, State.markStarted_mss, if_neg (not_not_intro flagged), if_neg (by simp [passed])]
  rfl

end

/-! ### The end of a diagnosis -/

/-- The memory that no open job holds is zero (R342). -/
def State.diagnosed (s : State) : State :=
  (s.onMss fun m => { m with diag := none }).onFab fun f => f.zeroFree s.cpx.heldBanks (s.cpx.jobs.flatMap fun j => j.segs)

section
variable {s : State} {pk : Packet} (on : s.pins.rstN = true) (diag : s.mss.diag = some pk)
include on diag

theorem doDiagRunComplete_passes : ∃ f : Flash → Flash, doDiagRunComplete [] [] s =
    ((s.diagnosed.onMss fun m => { m with diagPassed := true }).onFlash f).done pk 0 := by
  simp only [doDiagRunComplete, diag, on, fitRepairs_nil]
  exact ⟨_, rfl⟩

theorem doDiagRunComplete_fails (u : UnitId) (us : List UnitId) :
    ∃ dt res, doDiagRunComplete (u :: us) [] s = s.diagnosed.reply pk stHwFault dt res := by
  simp only [doDiagRunComplete, diag, on, fitRepairs_nil]
  exact ⟨_, _, rfl⟩

end

/-- Settles O50: an admitted command's authorisation is examined once; the diagnosis ends by its failing units. -/
theorem authorisedCommandsUseTheirChallenge : Obligations.AuthorisedCommandsUseTheirChallenge := by
  unfold Obligations.AuthorisedCommandsUseTheirChallenge
  refine ⟨?logClear, ?diagRun, ?diagEnd, ?flagClear⟩
  case logClear =>
    intro s ring pk auth sigOk start aligned
    obtain ⟨id, run⟩ := start.logClear auth sigOk
    refine ⟨fun fails => congrArg Host.Outcome.next (run.trans (start.refuses aligned _ fails)), fun answers =>
      ⟨_, congrArg Host.Outcome.next (run.trans (start.answers aligned _ answers)), ?_⟩⟩
    have outside := State.clearLog_outsideRecorder ((s.markStarted pk).dropChallenge 0) (auth.getD 64 0).toNat id
    have firm := State.clearLog_firm ((s.markStarted pk).dropChallenge 0) (auth.getD 64 0).toNat id
    obtain ⟨log, ⟨inLog, ring, faults, waiting, queue⟩, one, own⟩ :=
      State.clearLog_cleared ((s.markStarted pk).dropChallenge 0) (auth.getD 64 0).toNat id
    simp only [State.done_sec, State.done_flash, State.done_evr, State.done_fab, State.done_saf, inLog]
    refine ⟨?_, ring, faults, one, own, queue, (congrArg Flash.image firm :), (congrArg State.fab outside :), (congrArg State.saf outside :)⟩
    exact (congrArg (fun x => vget x.challenges 0 none) (congrArg State.sec outside :)).trans (State.dropChallenge_challenge _ (by decide))
  case diagRun =>
    intro s ring pk auth sigOk start aligned state armed staged idle
    have run := start.diagRun auth sigOk state armed staged idle
    exact ⟨fun fails => congrArg Host.Outcome.next (run.trans (start.refuses aligned _ fails)), fun answers =>
      congrArg Host.Outcome.next (run.trans (start.answers aligned _ answers))⟩
  case diagEnd =>
    intro s pk on diag
    obtain ⟨passes, run⟩ := doDiagRunComplete_passes on diag
    refine ⟨⟨_, congrArg Host.Outcome.next run, ?_⟩, fun u us => ?_⟩
    · simp only [State.done_mss, State.done_saf, State.done_pwr, State.done_fab]
      exact ⟨rfl, rfl, rfl, rfl, rfl⟩
    · obtain ⟨dt, res, run⟩ := doDiagRunComplete_fails on diag u us
      refine ⟨_, congrArg Host.Outcome.next run, ?_⟩
      simp only [State.reply_mss, State.reply_flash, State.reply_saf, State.reply_pwr, State.reply_fab]
      exact ⟨rfl, rfl, rfl, rfl, rfl, rfl⟩
  case flagClear =>
    intro s ring pk auth sigOk start aligned flagged passed
    have run := start.flagClear auth sigOk flagged passed
    exact ⟨fun fails => congrArg Host.Outcome.next (run.trans (start.refuses aligned _ fails)), fun answers =>
      ⟨_, _, congrArg Host.Outcome.next (run.trans (start.answers aligned _ answers)), rfl, State.clearedFlag_flagged _, rfl,
        State.dropChallenge_challenge _ (by decide), rfl, rfl, rfl, rfl⟩⟩

end Sys2Proof.Machine
end

section
/-! PROOF of the statement about challenges, quotes, the first owner and the debug port. -/

namespace Sys2Proof.Machine

/-! ### Challenges and quotes -/

/-- A challenge takes its ID and its place among the outstanding ones, goes to host memory and is answered (R408). -/
theorem State.Starts.authChallenge {s : State} {ring : Nat} {pk : Packet} (start : s.Starts ring 0x74 pk) (purpose : pk.u 0x10 1 ≤ 3)
    (aligned : pk.u 0x18 8 % 64 = 0) : ∃ c : Challenge, c.id = (s.sec.nextId + 1) % 2 ^ 32 ∧ c.fwVersion = s.mss.fwVersion ∧
      c.issued = s.now ∧ doAuthChallenge ring s = (((s.markStarted pk).onSec fun x =>
        { x with nextId := c.id, challenges := vset x.challenges (pk.u 0x10 1) (some c) }).hostWrite (pk.u 0x18 8)
          (c.bytes (pk.u 0x10 1))).done (s.begun pk) c.id := by
  rw [doAuthChallenge, start.run]
  simp only [State.begun_u, if_neg purpose.not_gt, aligned64, aligned, decide_true, Bool.not_true, Bool.false_eq_true, if_false]
  exact ⟨_, rfl, rfl, rfl, rfl⟩

/-- A quote body has 256 bytes (Table 16.11). -/
theorem State.quoteBody_length (s : State) (nonce : Nat) : (s.quoteBody nonce).length = 256 := by
  unfold State.quoteBody
  extract_lets dg
  have digest (o : Option Contract) (f : Contract → BitVec 256) : (dg o f).length = 32 := by
    cases o
    · rfl
    · exact leBytes_length _ _
  clear_value dg
  simp only [List.length_append, leBytes_length, List.length_replicate, digest]

/-- Without an unlock in force ATTEST writes a block that begins with the quote body (R412). -/
theorem State.Starts.attest {s : State} {ring : Nat} {pk : Packet} (start : s.Starts ring 0x73 pk) (aligned : pk.u 0x30 8 % 64 = 0)
    (locked : s.sec.unlocked = false) : ∃ b : List Byte, b.take 256 = s.quoteBody (pk.u 0x10 32) ∧
      doAttest ring s = ((s.markStarted pk).hostWrite (pk.u 0x30 8) b).done (s.begun pk) (if s.sec.certValid then 47264 else 17344) := by
  rw [doAttest, start.run]
  simp only [State.begun_u, aligned64, aligned, State.markStarted_sec, locked, decide_true, Bool.not_true, Bool.false_eq_true, if_false]
  refine ⟨_, ?_, rfl⟩
  have body (l : List Byte) : (s.quoteBody (pk.u 0x10 32) ++ l).take 256 = s.quoteBody (pk.u 0x10 32) := by
    rw [List.take_append_of_le_length (by rw [State.quoteBody_length]), List.take_of_length_le (by rw [State.quoteBody_length])]
  split
  · simp only [List.append_assoc]
    exact body _
  · simp only [List.append_assoc]
    exact body _

theorem doAttest_unlocked {s : State} {ring : Nat} {pk : Packet} (start : s.Starts ring 0x73 pk) (aligned : pk.u 0x30 8 % 64 = 0)
    (unlocked : s.sec.unlocked = true) : doAttest ring s = (s.markStarted pk).notReady (s.begun pk) := by
  rw [doAttest, start.run]
  simp only [State.begun_u, aligned64, aligned, State.markStarted_sec, unlocked, decide_true, Bool.not_true, Bool.false_eq_true, if_false,
    if_true]

/-! ### The debug port -/

/-- The attempt is counted before the response is judged (R415). -/
def State.attempted (s : State) : State := s.onSec fun x => { x with attempts := satU 8 (x.attempts + 1) }

@[simp] theorem State.attempted_unlockOk (s : State) : s.attempted.unlockOk = s.unlockOk := rfl
@[simp] theorem State.attempted_authOk (s : State) (p size : Nat) (auth : List Byte) (sigOk : Bool) :
    s.attempted.authOk p size auth sigOk = s.authOk p size auth sigOk := rfl

section
variable {s : State} {auth : List Byte} {sigOk : Bool} (on : s.pins.rstN = true) (locked : s.sec.unlocked = false)
include on locked

/-- A response outside the unlock conditions is refused before its authorisation is examined (R414). -/
theorem doDbgResponse_barred (barred : s.unlockOk = false) : doDbgResponse auth sigOk s =
    (s.attempted.note 0x5006 sevCritical noUnit 1 0 0).onSec fun x => { x with lastRefused := true } := by
  change (if !s.pins.rstN || s.sec.unlocked then s else if !s.attempted.unlockOk then _ else _) = _
  simp only [on, locked, State.attempted_unlockOk, barred]
  rfl

/-- An authorisation that does not answer the challenge uses it up and is refused (R409, R415). -/
theorem doDbgResponse_refused (open_ : s.unlockOk = true) (fails : s.authOk 3 auth.length auth sigOk = false) : doDbgResponse auth sigOk s =
    ((s.attempted.dropChallenge 3).note 0x5002 sevWarning noUnit 3 0 0).onSec fun x => { x with lastRefused := true } := by
  change (if !s.pins.rstN || s.sec.unlocked then s else if !s.attempted.unlockOk then _ else
    match s.attempted.examine 3 auth.length auth sigOk with | (false, t) => _ | (true, t) => _) = _
  simp only [State.examine, on, locked, State.attempted_unlockOk, open_, State.attempted_authOk, fails]
  rfl

/-- One that answers it unlocks the part, whose key store is zeroised and whose safe state is latched (R414, R415). -/
theorem doDbgResponse_unlocks (open_ : s.unlockOk = true) (answers : s.authOk 3 auth.length auth sigOk = true) :
    ∃ t, t = ((s.attempted.dropChallenge 3).onSec fun x => { x.zeroise with unlocked := true, lastRefused := false }).note 0x5006
      sevCritical noUnit 0 0 0 ∧ doDbgResponse auth sigOk s = if t.saf.latched then t else t.latch latchPower := by
  refine ⟨_, rfl, ?_⟩
  change (if !s.pins.rstN || s.sec.unlocked then s else if !s.attempted.unlockOk then _ else
    match s.attempted.examine 3 auth.length auth sigOk with | (false, t) => _ | (true, t) => _) = _
  simp only [State.examine, on, locked, State.attempted_unlockOk, open_, State.attempted_authOk, answers]
  rfl

end

/-- Settles O49: each command is its own step on SEC; a quote begins with its body; only an answered challenge unlocks. -/
theorem challengesQuotesAndUnlock : Obligations.ChallengesQuotesAndUnlock := by
  unfold Obligations.ChallengesQuotesAndUnlock
  refine ⟨?issue, ?expiry, ?attest, ?provision, ?port, ?unlock⟩
  case issue =>
    intro s ring pk start purpose aligned
    obtain ⟨c, id, version, issued, run⟩ := start.authChallenge purpose aligned
    exact ⟨c, id, version, issued, congrArg Host.Outcome.next run⟩
  case expiry =>
    intro s p c on issued
    refine congrArg Host.Outcome.next ?_
    simp only [doChallengeExpiry, issued, on, if_true]
  case attest =>
    intro s ring pk start aligned
    refine ⟨fun unlocked => congrArg Host.Outcome.next (doAttest_unlocked start aligned unlocked), fun locked => ?_⟩
    obtain ⟨b, body, run⟩ := start.attest aligned locked
    exact ⟨b, body, congrArg Host.Outcome.next run⟩
  case provision =>
    intro s d on some_
    refine ⟨fun empty => congrArg Host.Outcome.next (if_pos ?_), fun i slot enrolled => congrArg Host.Outcome.next (if_neg ?_)⟩
    · simpa [on] using ⟨empty, some_⟩
    · simp only [Bool.and_eq_true, List.all_eq_true, List.mem_range]
      intro all
      rw [all.1.2 i slot] at enrolled
      cases enrolled
  case port =>
    intro s c on locked outstanding
    refine congrArg Host.Outcome.next ?_
    simp only [doDbgChallenge, on, locked, outstanding]
    rfl
  case unlock =>
    intro s auth sigOk on locked
    refine ⟨fun open_ answers => ?_, fun refused => ?_⟩
    · obtain ⟨t, eq, run⟩ := doDbgResponse_unlocks on locked open_ answers
      have sec : t.sec = { s.attempted.sec.zeroise with unlocked := true, lastRefused := false } := by rw [eq, State.note_sec]; rfl
      have fab : t.fab = s.fab := by rw [eq, State.note_fab]; rfl
      refine ⟨_, congrArg Host.Outcome.next run, ?_⟩
      rw [show (if t.saf.latched then t else t.latch latchPower).sec = t.sec by split <;> simp,
        show (if t.saf.latched then t else t.latch latchPower).fab = t.fab by split <;> simp, sec, fab]
      refine ⟨rfl, rfl, fun p purpose => ?_, rfl, rfl, ?_, rfl⟩
      · simp [Sec.zeroise, vget, purpose]
      · split
        · assumption
        · exact State.latch_latched _ _
    · by_cases open_ : s.unlockOk = true
      · refine ⟨_, congrArg Host.Outcome.next (doDbgResponse_refused on locked open_ (by simpa [open_] using refused)), ?_⟩
        simp only [State.onSec_sec, State.onSec_saf, State.onSec_fab, State.note_sec, State.note_saf, State.note_fab]
        exact ⟨locked, trivial, rfl, rfl, rfl, rfl⟩
      · refine ⟨_, congrArg Host.Outcome.next (doDbgResponse_barred on locked (by simpa using open_)), ?_⟩
        simp only [State.onSec_sec, State.onSec_saf, State.onSec_fab, State.note_sec, State.note_saf, State.note_fab]
        exact ⟨locked, trivial, rfl, rfl, rfl, rfl⟩

end Sys2Proof.Machine
end

section
/-! SUPPORT: what a start does first, which image it takes, and what RST_N leaves. -/

namespace Sys2Proof.Machine

section
variable (s : State) (mode : BitVec 2) (sigOk : Bool)

/-! ### Step 1 of a start -/

@[simp] theorem State.startCommon_fab : (s.startCommon mode).fab = s.fab := by
  simp only [State.startCommon]
  split <;> (split <;> simp)
@[simp] theorem State.startCommon_saf : (s.startCommon mode).saf = s.saf := by
  simp only [State.startCommon]
  split <;> (split <;> simp)
@[simp] theorem State.startCommon_pwr : (s.startCommon mode).pwr = s.pwr := by
  simp only [State.startCommon]
  split <;> (split <;> simp)
@[simp] theorem State.startCommon_mss : (s.startCommon mode).mss = s.mss := by
  simp only [State.startCommon]
  split <;> (split <;> simp)
@[simp] theorem State.startCommon_flash : (s.startCommon mode).flash = s.flash := by
  simp only [State.startCommon]
  split <;> (split <;> simp)
@[simp] theorem State.startCommon_sec : (s.startCommon mode).sec = { s.sec with certValid := s.flash.certOk } := by
  simp only [State.startCommon]
  split <;> (split <;> simp)
@[simp] theorem State.startCommon_pins : (s.startCommon mode).pins = { s.pins with rstN := true, bootMode := mode } := by
  simp only [State.startCommon]
  split <;> (split <;> simp)

/-! ### Which image starts -/

/-- The first failed check of the flash's image (R388). -/
def State.bootCheck : Nat := s.sec.imageCheck (s.flash.image.getD []) sigOk

variable {mode}

theorem State.startFrom_straps (recovery : mode = 2) : s.startFrom mode sigOk =
    (s.startCommon mode).onMss fun m => { m with bootRecovery := true, bootStep := 3 } := if_pos recovery

theorem State.startFrom_rejects (other : mode ≠ 2) (fails : s.bootCheck sigOk ≠ 0) : s.startFrom mode sigOk =
    ((s.startCommon mode).onMss fun m => { m with bootRecovery := true, imageCheck := s.bootCheck sigOk, bootStep := 4 }).note 0x5001
      sevCritical noUnit (s.bootCheck sigOk) 0 0 := by
  have check : (s.startCommon mode).sec.imageCheck ((s.startCommon mode).flash.image.getD []) sigOk = s.bootCheck sigOk := by
    rw [State.startCommon_sec, State.startCommon_flash]
    rfl
  simp only [State.startFrom, if_neg other, check]
  exact if_pos fails

theorem State.startFrom_accepts (other : mode ≠ 2) (passes : s.bootCheck sigOk = 0) :
    s.startFrom mode sigOk = (s.startCommon mode).startImage mode := by
  have check : (s.startCommon mode).sec.imageCheck ((s.startCommon mode).flash.image.getD []) sigOk = s.bootCheck sigOk := by
    rw [State.startCommon_sec, State.startCommon_flash]
    rfl
  simp only [State.startFrom, if_neg other, check]
  exact if_neg (not_not_intro passes)

theorem State.startImage_mss : ((s.startImage mode).mss.bootRecovery = s.mss.bootRecovery) ∧
    (s.startImage mode).mss.fwVersion = imgVersion (s.flash.image.getD []) := ⟨rfl, rfl⟩

theorem State.startImage_flash : (s.startImage mode).flash = { s.flash with powerCycle := (s.flash.powerCycle + 1) % 2 ^ 24 } := rfl

/-- What every start leaves and takes (R386, R389). -/
theorem State.startFrom_spec : (s.startFrom mode sigOk).fab = s.fab ∧ (s.startFrom mode sigOk).saf = s.saf ∧
    (s.startFrom mode sigOk).pins = { s.pins with rstN := true, bootMode := mode } ∧
    (s.startFrom mode sigOk).sec = { s.sec with certValid := s.flash.certOk } ∧ (s.startFrom mode sigOk).pwr.state = s.pwr.state ∧
    (s.startFrom mode sigOk).flash.image = s.flash.image := by
  by_cases recovery : mode = 2
  · rw [s.startFrom_straps sigOk recovery]
    simp
  · by_cases passes : s.bootCheck sigOk = 0
    · rw [s.startFrom_accepts sigOk recovery passes]
      simp [State.startImage]
    · rw [s.startFrom_rejects sigOk recovery passes]
      simp

end

end Sys2Proof.Machine
end

section
/-! PROOF of the statement about updates: the session, the staged bytes, the commit's checks, the image write and the self-reset. -/

namespace Sys2Proof.Machine

/-! ### Staging -/

/-- The staging area lies in one memory. -/
theorem State.stagePlace_space (s : State) (off : Nat) : (s.stagePlace off).1 = (s.stagePlace 0).1 := by
  unfold State.stagePlace
  split <;> rfl

/-- The units of 64 bytes that a piece of an update covers. -/
def stageUnits (off len : Nat) : List Nat := (List.range (len / 64)).map fun i => off / 64 + i

theorem mem_stageUnits {off len : Nat} (start : off % 64 = 0) (whole : len % 64 = 0) (n : Nat) :
    n ∈ stageUnits off len ↔ off / 64 ≤ n ∧ n < (off + len) / 64 := by
  simp only [stageUnits, List.mem_map, List.mem_range]
  constructor
  · rintro ⟨i, inside, rfl⟩
    omega
  · intro inside
    exact ⟨n - off / 64, by omega, by omega⟩

/-- A session after a piece of the image. -/
def UpdateSession.take (x : UpdateSession) (off len : Nat) : UpdateSession :=
  { x with written := stageUnits off len ++ x.written.filter fun u => !(stageUnits off len).contains u }

theorem UpdateSession.mem_take {x : UpdateSession} {off len : Nat} (start : off % 64 = 0) (whole : len % 64 = 0) (n : Nat) :
    n ∈ (x.take off len).written ↔ n ∈ x.written ∨ (off / 64 ≤ n ∧ n < (off + len) / 64) := by
  simp only [UpdateSession.take, List.mem_append, List.mem_filter, Bool.not_eq_true', List.contains_eq_mem, decide_eq_false_iff_not,
    ← mem_stageUnits start whole]
  by_cases own : n ∈ stageUnits off len <;> simp [own]

/-- The LENGTH bytes at SRC. -/
def sourceBytes (src : List Byte) (len : Nat) : List Byte := (List.range len).map fun i => src.getD i 0

theorem sourceBytes_length (src : List Byte) (len : Nat) : (sourceBytes src len).length = len := by
  simp [sourceBytes]

theorem sourceBytes_getD (src : List Byte) {len i : Nat} (inside : i < len) : (sourceBytes src len).getD i 0 = src.getD i 0 := by
  simp [sourceBytes, inside]

/-- An admitted packet of UPDATE_DATA with every field in range (R402). -/
structure State.Stages (s : State) (ring : Nat) (pk : Packet) (x : UpdateSession) : Prop where
  start   : s.Starts ring 0x71 pk
  idle    : s.flash.commit = none
  session : s.flash.session = some x
  source  : pk.u 0x10 8 % 64 = 0
  some_   : 64 ≤ pk.u 0x1C 4
  few     : pk.u 0x1C 4 ≤ 0x100000
  whole   : pk.u 0x1C 4 % 64 = 0
  place   : pk.u 0x18 4 % 64 = 0
  inside  : pk.u 0x18 4 + pk.u 0x1C 4 ≤ x.size

section
variable {s : State} {ring : Nat} {pk : Packet} {x : UpdateSession} (src : List Byte) (h : s.Stages ring pk x)
include h

/-- A piece of the image goes to its place in the staging area and is marked as written (R402). -/
theorem State.Stages.image (image : pk.u 0x18 4 + pk.u 0x1C 4 ≤ 0x800000) : doUpdateData ring src s =
    (((s.markStarted pk).onFab fun f => f.pokes (s.stagePlace (pk.u 0x18 4)).1 (s.stagePlace (pk.u 0x18 4)).2
      (sourceBytes src (pk.u 0x1C 4))).onFlash fun f =>
        { f with session := some (x.take (pk.u 0x18 4) (pk.u 0x1C 4)) }).done (s.begun pk) 0 := by
  obtain ⟨start, idle, session, source, some_, few, whole, place, inside⟩ := h
  rw [doUpdateData, start.run]
  simp only [State.begun_u, State.markStarted_flash, session, idle, Option.isSome_none, source, whole, place]
  rw [if_neg (by simp), if_neg (by simp), if_neg (by omega), if_neg (by omega)]
  exact if_pos image

/-- A piece of the pattern goes to flash, and the part is in pattern mode, which is noted once (R402). -/
theorem State.Stages.pattern (low : 0x1000000 ≤ pk.u 0x18 4) (high : pk.u 0x18 4 + pk.u 0x1C 4 ≤ 0x7000000) :
    ∃ t u, t = (((s.markStarted pk).onFlash fun f =>
      { f with pattern := memPut f.pattern (pk.u 0x18 4) (sourceBytes src (pk.u 0x1C 4)) }).onMss fun m => { m with patternMode := true }) ∧
      (u = t ∨ u = (t.onEvr fun r => { r with patternNoted := true }).note 0x0006 sevNotice noUnit 0 0 0) ∧
      doUpdateData ring src s = u.done (s.begun pk) 0 := by
  obtain ⟨start, idle, session, source, some_, few, whole, place, inside⟩ := h
  rw [doUpdateData, start.run]
  simp only [State.begun_u, State.markStarted_flash, session, idle, Option.isSome_none, source, whole, place]
  rw [if_neg (by simp), if_neg (by simp), if_neg (by omega), if_neg (by omega)]
  exact ⟨_, _, rfl, ite_eq_or_eq _ _ _, (if_neg (by omega)).trans (if_pos ⟨low, high⟩)⟩

end

/-! ### The commit and the image write -/

/-- What UPDATE_COMMIT does with a complete image of the declared version (R403). -/
theorem State.Starts.updateCommit {s : State} {ring : Nat} {pk : Packet} {x : UpdateSession} (start : s.Starts ring 0x72 pk)
    (idle : s.flash.commit = none) (session : s.flash.session = some x) (header : x.complete 64 = true)
    (whole : x.complete (imgSize s.staged) = true) (version : imgVersion s.staged = x.version) (sigOk : Bool) :
    doUpdateCommit ring sigOk s =
      if s.sec.imageCheck s.staged sigOk = 1 then (s.markStarted pk).bad (s.begun pk) 0xFFFF
      else if s.sec.imageCheck s.staged sigOk ≠ 0 then (s.markStarted pk).reply (s.begun pk) stAuth 0 0
      else if !s.sec.keyOpsValid (imgLe s.staged (imgSig s.staged) 1) (imgKeyOps s.staged) then (s.markStarted pk).bad (s.begun pk) 0xFFFF
      else (s.markStarted pk).onFlash fun f => { f with image := none, commit := some (s.begun pk) } := by
  have staged : (s.markStarted pk).staged = s.staged := rfl
  rw [doUpdateCommit, start.run]
  simp only [State.markStarted_flash, State.markStarted_sec, session, staged, idle, header, whole, version, ne_eq, not_true, or_false,
    Option.isSome_none, Bool.not_true, Bool.or_self, Bool.false_eq_true, if_false]

section
variable {s : State} {pk : Packet} (on : s.pins.rstN = true) (power : s.pins.pwrfailN = true) (commit : s.flash.commit = some pk)
include on power commit

/-- The image write ends with the staged bytes as the image (R403). -/
theorem doImageAreaWrite_ends {n : Nat} (read : n < 3) : ∃ t v, t = (((s.onFlash fun f =>
      { f with image := some (s.staged.filter fun c => decide (c.1 < imgSize s.staged)), commit := none }).note 0x0005 sevNotice noUnit v 0 0).done
        pk v) ∧ doImageAreaWrite n s =
      if t.pwr.state = .recovery then t.onMss fun x => { x with selfReset := some (t.now + 10000000) } else t := by
  simp only [doImageAreaWrite, commit, on, power, read]
  exact ⟨_, _, rfl, rfl⟩

/-- The third mismatch leaves no image (R403). -/
theorem doImageAreaWrite_fails {n : Nat} (mismatched : 3 ≤ n) : ∃ off, doImageAreaWrite n s =
    ((s.bumpFree.onFlash fun f => { f with image := none, commit := none }).note 0x2006 sevError 0x25 off 0 0).reply pk stHwFault 0x25 0 := by
  simp only [doImageAreaWrite, commit, on, power, if_neg mismatched.not_gt]
  exact ⟨_, rfl⟩

end

/-- Settles O51: a piece is staged at its place, a commit starts the write, and the write's end gives the image a self-reset starts. -/
theorem updatesStageCheckAndWrite : Obligations.UpdatesStageCheckAndWrite := by
  unfold Obligations.UpdatesStageCheckAndWrite
  refine ⟨?begin_, ?data, ?commit, ?write, ?selfReset⟩
  case begin_ =>
    intro s ring pk start idle low high
    have run : doUpdateBegin ring s = _ := start.run _
    have range : ¬(pk.u 0x10 4 < 30432 ∨ 0x7000000 < pk.u 0x10 4) := by omega
    refine congrArg Host.Outcome.next (run.trans ?_)
    simp only [State.begun_u, State.markStarted_flash, idle, Option.isSome_none]
    exact (if_neg Bool.false_ne_true).trans (if_neg range)
  case data =>
    intro s ring pk src x canonical start idle session source some_ few whole place inside
    have h : s.Stages ring pk x := ⟨start, idle, session, source, some_, few, whole, place, inside⟩
    refine ⟨fun image => ⟨_, x.take (pk.u 0x18 4) (pk.u 0x1C 4), congrArg Host.Outcome.next (h.image src image), ?_, rfl, rfl,
      UpdateSession.mem_take place whole,
      ?_, ?_, ?_, ?_⟩, fun low high => ?_⟩
    · simp only [State.done_flash]
      rfl
    · intro i piece
      rw [State.done_fab, State.onFlash_fab, State.onFab_fab, State.markStarted_fab, Fab.peek_pokes canonical.fab,
        s.stagePlace_space (pk.u 0x18 4), sourceBytes_length, if_pos ⟨rfl, Nat.le_add_right _ _, Nat.add_lt_add_left piece _⟩,
        Nat.add_sub_cancel_left, sourceBytes_getD _ piece]
    · intro sp a outside
      rw [State.done_fab, State.onFlash_fab, State.onFab_fab, State.markStarted_fab, Fab.peek_pokes canonical.fab,
        s.stagePlace_space (pk.u 0x18 4), sourceBytes_length]
      refine if_neg ?_
      rintro ⟨same, low, high⟩
      rcases outside with other | before | after
      · exact other same
      · omega
      · omega
    · simp only [State.done_saf]
      rfl
    · simp only [State.done_sec]
      rfl
    · obtain ⟨t, u, eq, noted, run⟩ := h.pattern src low high
      refine ⟨_, congrArg Host.Outcome.next run, ?_⟩
      rw [State.done_flash, State.done_mss, State.done_fab, State.done_saf, State.done_sec]
      rcases noted with rfl | rfl
      · subst eq
        exact ⟨rfl, rfl, rfl, rfl, rfl⟩
      · rw [State.note_flash, State.note_mss, State.note_fab, State.note_saf, State.note_sec]
        subst eq
        exact ⟨rfl, rfl, rfl, rfl, rfl⟩
  case commit =>
    intro s ring pk sigOk x start idle session header whole version
    have run := start.updateCommit idle session header whole version sigOk
    refine ⟨fun passes keys => congrArg Host.Outcome.next (run.trans ?_), fun fails => congrArg Host.Outcome.next (run.trans ?_)⟩
    · simp only [passes, keys]
      rfl
    · rw [if_neg (by omega), if_pos (by omega)]
  case write =>
    intro s pk n on power commit
    by_cases read : n < 3
    · obtain ⟨t, v, eq, run⟩ := doImageAreaWrite_ends on power commit read
      have flash : t.flash = { s.flash with
          image := some (s.staged.filter fun c => decide (c.1 < imgSize s.staged)), commit := none } := by
        rw [eq, State.done_flash, State.note_flash]
        rfl
      have now : t.now = s.now := by
        simp only [State.now, eq, State.done_tim, State.note_tim]
        rfl
      have kept : t.fab = s.fab ∧ t.saf = s.saf ∧ t.sec = s.sec ∧ t.pwr = s.pwr := by
        rw [eq]
        simp
      obtain ⟨fab, saf, sec, pwr⟩ := kept
      refine ⟨_, congrArg Host.Outcome.next run, ?_⟩
      split
      · exact ⟨congrArg Flash.commit flash, fab, saf, sec, fun _ => ⟨congrArg Flash.image flash, fun _ => now ▸ rfl⟩,
          fun three => absurd read three.not_gt⟩
      · next other =>
        exact ⟨congrArg Flash.commit flash, fab, saf, sec, fun _ => ⟨congrArg Flash.image flash, fun state => absurd (pwr ▸ state) other⟩,
          fun three => absurd read three.not_gt⟩
    · obtain ⟨off, run⟩ := doImageAreaWrite_fails on power commit (Nat.le_of_not_lt read)
      refine ⟨_, congrArg Host.Outcome.next run, ?_⟩
      simp only [State.reply_flash, State.reply_fab, State.reply_saf, State.reply_sec, State.note_flash, State.note_fab, State.note_saf,
        State.note_sec]
      exact ⟨rfl, rfl, rfl, rfl, fun less => absurd less read, fun _ => rfl⟩
  case selfReset =>
    intro s t on state pending
    have run : doRecoverySelfReset s = ((s.advance t).afterReset).startFrom s.pins.bootMode true := by
      simp only [doRecoverySelfReset, pending, on, state]
      rfl
    obtain ⟨fab, -, pins, sec, state, image⟩ := State.startFrom_spec ((s.advance t).afterReset) (mode := s.pins.bootMode) true
    refine ⟨_, congrArg Host.Outcome.next run, rfl, fab, congrArg Pins.rstN pins, state, image.trans ?_, (congrArg Sec.slots sec).trans ?_⟩
    · simp only [State.afterReset, State.advance_flash]
      rfl
    · simp only [State.afterReset, State.advance_sec]
      rfl

end Sys2Proof.Machine
end

section
/-! SUPPORT: what the shut-down test's own steps leave alone. Stopping the program, a pending split, unloading and the flushes of the
recorder keep `State.posture`. -/

namespace Sys2Proof.Machine

/-- The pins, SEC, the MSS, the power unit, the bytes of every memory, the latch, the placed launch, and the flash but for the recorder's
log and rings. -/
def State.posture (s : State) :=
  (s.pins, s.sec, s.mss, s.pwr, s.fab.bytes, s.saf.latched, s.ctr.placed, s.flash.firm)

section
variable (s : State)

@[simp] theorem State.onCpx_posture (f : Cpx → Cpx) : (s.onCpx f).posture = s.posture := rfl
@[simp] theorem State.onCkc_posture (f : Ckc → Ckc) : (s.onCkc f).posture = s.posture := rfl
@[simp] theorem State.onSen_posture (f : Sen → Sen) : (s.onSen f).posture = s.posture := rfl
@[simp] theorem State.onEvr_posture (f : Rec → Rec) : (s.onEvr f).posture = s.posture := rfl
theorem State.onSaf_posture (f : Saf → Saf) (latched : (f s.saf).latched = s.saf.latched) : (s.onSaf f).posture = s.posture := by
  simp only [State.posture, State.onSaf_saf, latched]
  rfl
@[simp] theorem State.done_posture (pk : Packet) (res : Nat) : (s.done pk res).posture = s.posture := by simp [State.posture]
@[simp] theorem State.reply_posture (pk : Packet) (st dt res : Nat) : (s.reply pk st dt res).posture = s.posture := by simp [State.posture]
@[simp] theorem State.setCkcMode_posture (m : CkcMode) (x : Nat) : (s.setCkcMode m x).posture = s.posture := by simp [State.posture]
@[simp] theorem State.note_posture (c v u p q r : Nat) : (s.note c v u p q r).posture = s.posture := by simp [State.posture]

/-- An operation of the recorder keeps what lies outside it and the firm part of the flash. -/
theorem State.posture_of_outsideRecorder {s t : State} (outside : t.outsideRecorder = s.outsideRecorder)
    (firm : t.flash.firm = s.flash.firm) : t.posture = s.posture := by
  have kept := congrArg (fun u : State => (u.pins, u.sec, u.mss, u.pwr, u.fab.bytes, u.saf.latched, u.ctr.placed)) outside
  simp only [State.outsideRecorder, Prod.mk.injEq] at kept
  obtain ⟨pins, sec, mss, pwr, bytes, latched, placed⟩ := kept
  simp only [State.posture, pins, sec, mss, pwr, bytes, latched, placed, firm]

@[simp] theorem State.snapshot_posture (cause : Nat) : (s.snapshot cause).posture = s.posture :=
  State.posture_of_outsideRecorder (s.snapshot_outsideRecorder cause) (congrArg Flash.firm (s.snapshot_flash cause))
@[simp] theorem State.flushSnapshots_posture : s.flushSnapshots.posture = s.posture :=
  State.posture_of_outsideRecorder s.flushSnapshots_outsideRecorder s.flushSnapshots_firm
@[simp] theorem State.flushLog_posture : s.flushLog.posture = s.posture :=
  State.posture_of_outsideRecorder s.flushLog_outsideRecorder s.flushLog_firm

@[simp] theorem State.recordFault_posture (f : FailReport) (c : FaultCtx) : (s.recordFault f c).posture = s.posture := by
  simp only [State.recordFault, State.snapshot_posture, State.note_posture, State.onEvr_posture]
  exact s.onSaf_posture _ rfl

@[simp] theorem State.closeRounds_posture : s.closeRounds.posture = s.posture := by
  obtain ⟨_, _, _, _, _, eq⟩ := s.closeRounds_eq
  rw [eq, State.onCkc_posture]

@[simp] theorem State.splitBoundary_posture : s.splitBoundary.posture = s.posture := by
  unfold State.splitBoundary
  split
  · rfl
  · split
    · simp
    · rfl

@[simp] theorem State.unloadContracts_posture : s.unloadContracts.posture = s.posture := by
  simp only [State.unloadContracts]
  split
  · rw [State.reply_posture]
    rfl
  · rfl

/-! ### Stopping the program -/

/-- What a fault record, the ingest slots, the fabric but for its bytes, the program's own state and the QM window do not touch stays when
the program is stopped (R277). -/
theorem State.stopProgram_sees {α : Type} {look : State → α} (fault : ∀ (t : State) f c, look (t.recordFault f c) = look t)
    (sen : ∀ (t : State) f, look (t.onSen f) = look t)
    (fab : ∀ (t : State) f, (f t.fab).bytes = t.fab.bytes → look (t.onFab f) = look t)
    (ctr : ∀ t : State, look (t.onCtr fun c => { c with prog := { c.prog with running := false, rings := [] }, lateStart := [] }) = look t)
    (window : ∀ t : State, look t.openWindow = look t) : look s.stopProgram = look s := by
  have drop (t : State) (r : Run) : look (t.dropStep r) = look t := by
    unfold State.dropStep
    split
    · exact fault _ _ _
    · rfl
  have release (t : State) (c : Contract) (rs : List RingState) : look (t.releaseIngest c rs) = look t := by
    refine foldl_keeps look (fun t p => ?_) _ _
    split
    · exact sen _ _
    · rfl
  have late (t : State) (c : Contract) (l : LateStart) : look (State.releaseLate c t l) = look t := by
    unfold State.releaseLate
    split
    · exact release _ _ _
    · rfl
  unfold State.stopProgram
  extract_lets runs dropped released halted stopped
  have hdropped : look dropped = look s := foldl_keeps look (fun t r => drop t r) _ _
  have hreleased : look released = look dropped := by
    unfold released
    split
    next c _ =>
      extract_lets bound
      have hbound : look bound = look dropped := by
        unfold bound
        split
        · exact release _ _ _
        · rfl
      exact (foldl_keeps look (fun t l => late t c l) _ _).trans hbound
    next => rfl
  have held : (runs.foldl (fun f r => f.returnHeld r) released.fab).bytes = released.fab.bytes :=
    foldl_keeps Fab.bytes (fun f r => f.returnHeld_bytes r) _ _
  calc look stopped.openWindow = look stopped := window _
    _ = look halted := ctr _
    _ = look released := fab _ _ held
    _ = look s := hreleased.trans hdropped

/-- A program that is stopped gives back what its steps hold; no byte of memory changes (R277). -/
@[simp] theorem State.stopProgram_posture : s.stopProgram.posture = s.posture := by
  refine s.stopProgram_sees (look := State.posture) State.recordFault_posture State.onSen_posture (fun t f same => ?_) (fun _ => rfl)
    (fun t => t.onCpx_posture _)
  simp only [State.posture, State.onFab_fab, same]
  rfl

/-- And the running command stays as it is. -/
theorem State.stopProgram_qm : s.stopProgram.cpx.qm = s.cpx.qm :=
  s.stopProgram_sees (look := fun t => t.cpx.qm) (fun t f c => by rw [State.recordFault_cpx]) (fun _ _ => rfl) (fun _ _ _ => rfl)
    (fun _ => rfl) (fun _ => rfl)

end

end Sys2Proof.Machine
end

section
/-! PROOF of the statement about the shut-down test: PREPARE_OFF starts it, OFF_READY ends it, PWRFAIL_N breaks it off. -/

namespace Sys2Proof.Machine

/-! ### Steps 2 and 3 -/

/-- Steps 2 and 3 of the test are due (Table 16.8). -/
def State.shutDue (s : State) : Bool :=
  s.pwr.state = .shutdownTest && !s.mss.aborted && decide (s.mss.shutStep < 3) && s.emt.frames.isEmpty

theorem Flash.putRepair_image (f : Flash) (r : RepairRecord) : (f.putRepair r).image = f.image := by
  unfold Flash.putRepair
  extract_lets
  split <;> rfl

section
variable (s : State)

theorem State.shutAdvance_waits (waits : s.shutDue = false) : s.shutAdvance = s := if_neg (Bool.eq_false_iff.mp waits)

/-- The contracts go, the recorder's data is written, and the new record's header after it (Table 16.8). -/
theorem State.shutAdvance_steps (due : s.shutDue = true) : ∃ (t : State) (r : RepairRecord), t.posture = s.posture ∧
    t.ctr.armed = none ∧ t.ctr.staged = none ∧
    s.shutAdvance = (t.onFlash fun f => f.putRepair r).onMss fun m => { m with shutStep := 3 } := by
  refine ⟨(((if s.ctr.prog.running then s.stopProgram else s).splitBoundary.unloadContracts).flushLog.snapshot 3).flushSnapshots, _,
    ?_, ?_, ?_, if_pos due⟩
  · rw [State.flushSnapshots_posture, State.snapshot_posture, State.flushLog_posture, State.unloadContracts_posture,
      State.splitBoundary_posture]
    split
    · exact s.stopProgram_posture
    · rfl
  all_goals
    have ctr (t : State) : ((t.flushLog.snapshot 3).flushSnapshots).ctr = t.ctr := by
      have outside : ((t.flushLog.snapshot 3).flushSnapshots).outsideRecorder = t.outsideRecorder := by
        rw [State.flushSnapshots_outsideRecorder, State.snapshot_outsideRecorder, State.flushLog_outsideRecorder]
      exact (congrArg State.ctr outside :)
    rw [ctr, State.unloadContracts_ctr]

/-- What the steps leave, due or not. -/
structure State.StandsBy (s t : State) : Prop where
  pins : t.pins = s.pins
  sec : t.sec = s.sec
  pwr : t.pwr = s.pwr
  bytes : t.fab.bytes = s.fab.bytes
  latched : t.saf.latched = s.saf.latched
  placed : t.ctr.placed = s.ctr.placed
  image : t.flash.image = s.flash.image
  prepare : t.mss.prepare = s.mss.prepare
  aborted : t.mss.aborted = s.mss.aborted

theorem State.shutAdvance_standsBy : s.StandsBy s.shutAdvance := by
  by_cases due : s.shutDue = true
  · obtain ⟨t, r, posture, -, -, eq⟩ := s.shutAdvance_steps due
    simp only [State.posture, Prod.mk.injEq] at posture
    obtain ⟨pins, sec, mss, pwr, bytes, latched, placed, flash⟩ := posture
    rw [eq]
    exact ⟨pins, sec, pwr, bytes, latched, placed, (Flash.putRepair_image _ _).trans (congrArg Flash.image flash :),
      (congrArg Mss.prepare mss :), (congrArg Mss.aborted mss :)⟩
  · rw [s.shutAdvance_waits (Bool.eq_false_iff.mpr due)]
    exact ⟨rfl, rfl, rfl, rfl, rfl, rfl, rfl, rfl, rfl⟩

end

/-! ### PREPARE_OFF -/

/-- What PREPARE_OFF leaves before the steps that are due at once (R397, Table 16.8 step 1). -/
def State.preparing (s : State) (pk : Packet) : State :=
  (((s.latch latchPower).enter .shutdownTest).cancelLaunches.onMss fun m => { m with prepare := some pk, shutStep := 1, aborted := false }).onCpx
    fun c => { c with windowOpen := false }

theorem State.Starts.prepareOff {s : State} {ring : Nat} {pk : Packet} (start : s.Starts ring 0x80 pk) (idle : s.cpx.jobOpen = false)
    (unarmed : s.ctr.armPending = none) (uncommitted : s.flash.commit = none)
    (state : s.pwr.state = .ready ∨ s.pwr.state = .running ∨ s.pwr.state = .flagged) :
    doPrepareOff ring s = ((s.markStarted pk).preparing (s.begun pk)).shutAdvance := by
  rw [doPrepareOff, start.run]
  refine if_neg ?_
  have closed : (s.markStarted pk).cpx.jobOpen = false := idle
  simp only [closed, State.markStarted_ctr, State.markStarted_flash, State.markStarted_pwr, unarmed, uncommitted]
  rcases state with state | state | state <;> simp [state]

theorem State.preparing_frames (s : State) (pk : Packet) : (s.preparing pk).emt.frames.isEmpty = s.emt.frames.isEmpty := by
  change ((s.latch latchPower).enter .shutdownTest).emt.frames.isEmpty = _
  rw [State.enter_emt, State.latch_emt]
  split
  · exact List.isEmpty_map
  · rfl

/-- PREPARE_OFF latches the safe state, enters SHUTDOWN_TEST and places no launch (R397). -/
theorem State.preparing_spec (s : State) (pk : Packet) : (s.preparing pk).saf.latched = true ∧ (s.preparing pk).pwr.state = .shutdownTest ∧
    (s.preparing pk).fab = s.fab ∧ (s.preparing pk).flash = s.flash := by
  simp [State.preparing, State.cancelLaunches]

/-! ### OFF_READY -/

/-- A scan failure leaves the posture but for the flag record (R399). -/
theorem State.shutFailure_spec (s : State) (t : TestFail) : (s.shutFailure t).sec = s.sec ∧ (s.shutFailure t).fab.dram = s.fab.dram ∧
    (s.shutFailure t).saf.latched = s.saf.latched := by
  unfold State.shutFailure
  split
  · exact ⟨rfl, rfl, rfl⟩
  · extract_lets f recorded record
    have posture : recorded.posture = s.posture := by
      unfold recorded
      rw [State.flushSnapshots_posture, State.recordFault_posture]
    simp only [State.posture, Prod.mk.injEq] at posture
    obtain ⟨-, sec, -, -, bytes, latched, -⟩ := posture
    exact ⟨sec, (congrArg Prod.fst bytes :), latched⟩

/-- Every domain is off, and the link with PD45. -/
theorem State.allOff_spec (s : State) : s.allOff.pwr.domains = 0 ∧ s.allOff.hif.linkUp = false ∧ s.allOff.mss = s.mss ∧
    s.allOff.sec = s.sec ∧ s.allOff.fab.dram = s.fab.dram ∧ s.allOff.saf = s.saf ∧ s.allOff.pins = s.pins := by
  have off : s.pwr.domains &&& ~~~(s.pwr.domains ||| s.pwr.rising) = 0 := by
    ext i
    by_cases powered : s.pwr.domains[i] = true <;> simp [powered]
  have pins : (s.gateOffEnd (s.pwr.domains ||| s.pwr.rising)).pins = s.pins := by
    unfold State.gateOffEnd
    split <;> simp [State.gateOff, State.loseWrites, State.pwrEnd]
  exact ⟨(State.gateOffEnd_domains s _).trans off, rfl, State.gateOffEnd_mss s _, State.gateOffEnd_sec s _, State.gateOffEnd_dram s _,
    State.gateOffEnd_saf s _, pins⟩

/-- After the third step OFF_READY zeroises the key store, completes the record, replies, raises the pin and switches every domain
off (Table 16.8 steps 4 to 9). -/
theorem doOffReady_ends {s : State} {pk : Packet} (on : s.pins.rstN = true) (prepare : s.mss.prepare = some pk)
    (running : s.mss.aborted = false) (stepped : 3 ≤ s.mss.shutStep) (reps : List Repair) (found : Option TestFail) :
    ∃ (t : State) (f : Flash → Flash), t.sec = { s.sec.zeroise with scanEnabled := true } ∧ t.fab.dram = s.fab.dram ∧
      t.saf.latched = s.saf.latched ∧ doOffReady reps found s =
        ((((((t.onFlash f).onMss fun m => { m with prepare := none, shutStep := 9 }).done pk 0).onPins fun p =>
          { p with offReady := true }).allOff).enter .offReady) := by
  have waits : s.shutDue = false := by simp [State.shutDue, stepped.not_gt]
  have judged (o : Option TestFail) (t : State) (eq : t = match o with
      | some f => (s.onSec fun x => { x.zeroise with scanEnabled := true }).shutFailure f
      | none => s.onSec fun x => { x.zeroise with scanEnabled := true }) :
      t.sec = { s.sec.zeroise with scanEnabled := true } ∧ t.fab.dram = s.fab.dram ∧ t.saf.latched = s.saf.latched := by
    subst eq
    cases o with
    | none => exact ⟨rfl, rfl, rfl⟩
    | some f => exact State.shutFailure_spec _ f
  simp only [doOffReady, s.shutAdvance_waits waits, prepare]
  obtain ⟨sec, dram, latched⟩ := judged (found.or ((fitRepairs s.flash.repairs reps).2.head?.map repairExhausted)) _ rfl
  exact ⟨_, _, sec, dram, latched, if_neg (by simp [on, running, stepped.not_gt])⟩

/-! ### PWRFAIL_N -/

/-- PWRFAIL_N takes the pin low and is noted (R425). -/
def State.powerFails (s : State) : State :=
  (s.shutAdvance.onPins fun p => { p with pwrfailN := false }).note 0x6004 sevCritical noUnit s.shutAdvance.pwr.state.code 0 0

/-- PWRFAIL_N leaves what the due steps left, but for the pin. -/
theorem State.powerFails_spec (s : State) : s.powerFails.pins = { s.shutAdvance.pins with pwrfailN := false } ∧
    s.powerFails.mss = s.shutAdvance.mss ∧ s.powerFails.hif = s.shutAdvance.hif ∧ s.powerFails.pwr = s.shutAdvance.pwr ∧
    s.powerFails.saf = s.shutAdvance.saf ∧ s.powerFails.fab = s.shutAdvance.fab := by
  have outside := (s.shutAdvance.onPins fun p => { p with pwrfailN := false }).note_outsideRecorder (show 0x6004 / 4096 ≠ 7 by decide)
    sevCritical noUnit s.shutAdvance.pwr.state.code 0 0
  exact ⟨(congrArg State.pins outside :), (congrArg State.mss outside :), (congrArg State.hif outside :), (congrArg State.pwr outside :),
    (congrArg State.saf outside :), (congrArg State.fab outside :)⟩

/-- A snapshot leaves what lies outside the recorder (R425). -/
theorem State.snapshot_spec (s : State) (cause : Nat) : (s.snapshot cause).pins = s.pins ∧ (s.snapshot cause).mss = s.mss ∧
    (s.snapshot cause).hif = s.hif ∧ (s.snapshot cause).pwr = s.pwr ∧ (s.snapshot cause).saf = s.saf ∧ (s.snapshot cause).fab = s.fab := by
  have outside := s.snapshot_outsideRecorder cause
  exact ⟨(congrArg State.pins outside :), (congrArg State.mss outside :), (congrArg State.hif outside :), (congrArg State.pwr outside :),
    (congrArg State.saf outside :), (congrArg State.fab outside :)⟩

section
variable {s : State} (on : s.pins.rstN = true)
include on

theorem doPwrfailNAssert_idle (none_ : s.mss.prepare = none) (step : Nat) : doPwrfailNAssert step s = s.powerFails.snapshot 2 := by
  have none' : s.powerFails.mss.prepare = none := by
    rw [s.powerFails_spec.2.1]
    exact s.shutAdvance_standsBy.prepare.trans none_
  change (if !s.pins.rstN then s else (match s.powerFails.mss.prepare with | some pk => _ | none => s.powerFails).snapshot 2) = _
  rw [on, none']
  rfl

/-- A test that PWRFAIL_N breaks off prepares nothing any more and counts as aborted; its command is never answered (R400). -/
theorem doPwrfailNAssert_aborts {pk : Packet} (prepare : s.mss.prepare = some pk) (step : Nat) : ∃ (t : State) (k : Nat),
    (t = s.powerFails.note 0x0008 sevWarning noUnit k 0 0 ∨
      t = (s.powerFails.note 0x0008 sevWarning noUnit k 0 0).onSec fun x => { x.zeroise with scanEnabled := true }) ∧
    doPwrfailNAssert step s =
      ((t.onMss fun m => { m with prepare := none, aborted := true, shutStep := k }).onCpx fun c => c.retire pk 0).snapshot 2 := by
  have prepare' : s.powerFails.mss.prepare = some pk := by
    rw [s.powerFails_spec.2.1]
    exact s.shutAdvance_standsBy.prepare.trans prepare
  have run (q : Option Packet) (eq : s.powerFails.mss.prepare = q) : ∃ (t : State) (k : Nat),
      (t = s.powerFails.note 0x0008 sevWarning noUnit k 0 0 ∨
      t = (s.powerFails.note 0x0008 sevWarning noUnit k 0 0).onSec fun x => { x.zeroise with scanEnabled := true }) ∧
      doPwrfailNAssert step s = (match q with
        | some pk => (t.onMss fun m => { m with prepare := none, aborted := true, shutStep := k }).onCpx fun c => c.retire pk 0
        | none => s.powerFails).snapshot 2 := by
    subst eq
    refine ⟨_, _, ?_, if_neg (by simp [on])⟩
    exact (ite_eq_or_eq _ _ _).symm
  exact run _ prepare'

end

/-- Settles O53: the due steps keep the posture, and each of the three commands is its own last word on the test. -/
theorem shutDownTestRunsOrBreaksOff : Obligations.ShutDownTestRunsOrBreaksOff := by
  unfold Obligations.ShutDownTestRunsOrBreaksOff
  refine ⟨?prepare, ?ready, ?powerFail⟩
  case prepare =>
    intro s ring pk start idle unarmed uncommitted state
    refine ⟨_, congrArg Host.Outcome.next (start.prepareOff idle unarmed uncommitted state), ?_⟩
    obtain ⟨latched, entered, fab, flash⟩ := (s.markStarted pk).preparing_spec (s.begun pk)
    have frames := (s.markStarted pk).preparing_frames (s.begun pk)
    have stands := ((s.markStarted pk).preparing (s.begun pk)).shutAdvance_standsBy
    refine ⟨stands.latched.trans latched, (congrArg Pwr.state stands.pwr).trans entered, stands.prepare, stands.placed, stands.aborted,
      fun some_ => ?_, fun none_ => ?_, fun sp a => (Fab.peek_congr stands.bytes sp a).trans (by rw [fab]; rfl)⟩
    · have waits : ((s.markStarted pk).preparing (s.begun pk)).shutDue = false := by
        simp only [State.shutDue, frames]
        simp [some_]
      rw [State.shutAdvance_waits _ waits]
      exact ⟨rfl, fab, flash⟩
    · have due : ((s.markStarted pk).preparing (s.begun pk)).shutDue = true := by
        simp only [State.shutDue, frames, entered]
        simp [none_, State.preparing]
      obtain ⟨t, r, -, armed, staged, eq⟩ := State.shutAdvance_steps _ due
      rw [eq]
      exact ⟨rfl, armed, staged⟩
  case ready =>
    intro s pk reps found on prepare running stepped
    obtain ⟨t, f, sec, dram, latched, run⟩ := doOffReady_ends on prepare running stepped reps found
    refine ⟨_, congrArg Host.Outcome.next run, ?_⟩
    obtain ⟨domains, link, mss, sec', dram', saf, pins⟩ := State.allOff_spec
      ((((t.onFlash f).onMss fun m => { m with prepare := none, shutStep := 9 }).done pk 0).onPins fun p => { p with offReady := true })
    simp only [State.onPins_mss, State.onPins_sec, State.onPins_fab, State.onPins_saf, State.done_mss, State.done_sec, State.done_fab,
      State.done_saf] at mss sec' dram' saf
    rw [State.enter_pins, State.enter_state, State.enter_domains, State.enter_mss, State.enter_sec, State.enter_fab, State.enter_saf, pins,
      domains, mss, sec', dram', saf]
    refine ⟨rfl, rfl, rfl, ?_, rfl, (congrArg Sec.keyZero sec :), (congrArg Sec.scanEnabled sec :),
      (congrArg Sec.slots sec :), dram, latched⟩
    unfold State.enter
    split
    · exact link
    · exact (State.raise_linkUp _ _).trans link
  case powerFail =>
    intro s step on
    obtain ⟨pins, mss, hif, pwr, saf, fab⟩ := s.powerFails_spec
    have stands := s.shutAdvance_standsBy
    have fails : s.powerFails.pins.pwrfailN = false := congrArg Pins.pwrfailN pins
    have state : s.powerFails.pwr.state = s.pwr.state := congrArg Pwr.state (pwr.trans stands.pwr)
    have latched : s.powerFails.saf.latched = s.saf.latched := (congrArg Saf.latched saf).trans stands.latched
    have bytes : s.powerFails.fab.bytes = s.fab.bytes := (congrArg Fab.bytes fab).trans stands.bytes
    cases prepare : s.mss.prepare with
    | none =>
      refine ⟨_, congrArg Host.Outcome.next (doPwrfailNAssert_idle on prepare step), ?_⟩
      obtain ⟨pins', mss', hif', pwr', saf', fab'⟩ := s.powerFails.snapshot_spec 2
      rw [pins', mss', hif', pwr', saf', fab']
      exact ⟨fails, state, latched, (congrArg Mss.prepare mss).trans (stands.prepare.trans prepare), fun some_ => absurd rfl some_,
        fun _ => ⟨hif, mss⟩, Fab.peek_congr bytes⟩
    | some pk =>
      obtain ⟨t, k, noted, run⟩ := doPwrfailNAssert_aborts on prepare step
      have kept : t.pins = s.powerFails.pins ∧ t.pwr = s.powerFails.pwr ∧ t.saf = s.powerFails.saf ∧ t.fab = s.powerFails.fab := by
        rcases noted with rfl | rfl <;> simp
      obtain ⟨pins', mss', -, pwr', saf', fab'⟩ := State.snapshot_spec
        ((t.onMss fun m => { m with prepare := none, aborted := true, shutStep := k }).onCpx fun c => c.retire pk 0) 2
      obtain ⟨keptPins, keptPwr, keptSaf, keptFab⟩ := kept
      refine ⟨_, congrArg Host.Outcome.next run, ?_⟩
      rw [pins', mss', pwr', saf', fab']
      simp only [State.onCpx_pins, State.onMss_pins, State.onCpx_pwr, State.onMss_pwr, State.onCpx_saf, State.onMss_saf, State.onCpx_fab,
        State.onMss_fab, keptPins, keptPwr, keptSaf, keptFab]
      exact ⟨fails, state, latched, rfl, fun _ => rfl, nofun, Fab.peek_congr bytes⟩

end Sys2Proof.Machine
end

section
/-! SUPPORT: the last step of a start, and PERST_N in PARKED. -/

namespace Sys2Proof.Machine

/-! ### Domains that come on -/

section
variable (s : State) (mask : BitVec 64)

@[simp] theorem State.gateOff_mss : (s.gateOff mask).mss = s.mss := rfl
@[simp] theorem State.gateOff_sec : (s.gateOff mask).sec = s.sec := rfl
@[simp] theorem State.gateOff_flash : (s.gateOff mask).flash = s.flash := rfl

/-- Switching domains on leaves the device state and what is not power (R373). -/
theorem State.powerOn_spec : (s.powerOn mask).mss = s.mss ∧ (s.powerOn mask).sec = s.sec ∧ (s.powerOn mask).flash = s.flash ∧
    (s.powerOn mask).saf = s.saf ∧ (s.powerOn mask).pwr.state = s.pwr.state := by
  unfold State.powerOn
  extract_lets ends off new ds counted cleared
  have kept : cleared.mss = s.mss ∧ cleared.sec = s.sec ∧ cleared.flash = s.flash ∧ cleared.saf = s.saf ∧ cleared.pwr.state = s.pwr.state :=
    ⟨rfl, rfl, rfl, rfl, rfl⟩
  clear_value cleared
  split
  · simpa [State.pwrEnd] using kept
  · exact kept

end

/-! ### The end of a start -/

/-- The state that a start ends in: FLAGGED after a finding without a repair, or with a flag record in force, else READY (R341, R394). -/
def State.endStart (finding : Option TestFail) (t : State) : State :=
  match finding with
  | some f => (t.failStart f).startFlagged (unitCode f.unit)
  | none =>
    match t.flash.flagRecord with
    | some r => if r.flagged then t.startFlagged r.unit else t.enter .ready
    | none => t.enter .ready

theorem Flash.putRepair_flagRecord (f : Flash) (r : RepairRecord) : (f.putRepair r).flagRecord = f.flagRecord := by
  unfold Flash.putRepair
  extract_lets
  split <;> rfl

theorem State.applyKeyOp_spec (s : State) (signer : Nat) (k : KeyOp) :
    ((s.applyKeyOp signer k).mss, (s.applyKeyOp signer k).cpx, (s.applyKeyOp signer k).flash, (s.applyKeyOp signer k).pwr) =
      (s.mss, s.cpx, s.flash, s.pwr) := by
  unfold State.applyKeyOp
  split
  · rfl
  · split <;> simp

theorem State.applyFuses_spec (s : State) :
    (s.applyFuses.mss, s.applyFuses.cpx, s.applyFuses.flash, s.applyFuses.pwr) = (s.mss, s.cpx, s.flash, s.pwr) :=
  foldl_keeps (fun t : State => (t.mss, t.cpx, t.flash, t.pwr)) (fun t k => t.applyKeyOp_spec _ k) _ s

/-- The lanes start together in TMR (R298). -/
theorem State.startLanes_spec (s : State) : s.startLanes.ckc.mode = .tmr ∧
    (s.startLanes.mss, s.startLanes.cpx, s.startLanes.flash, s.startLanes.pwr) = (s.mss, s.cpx, s.flash, s.pwr) := by
  unfold State.startLanes
  extract_lets img loaded
  have kept : (loaded.mss, loaded.cpx, loaded.flash, loaded.pwr) = (s.mss, s.cpx, s.flash, s.pwr) := by
    unfold loaded
    split <;> rfl
  exact ⟨by simp, by simpa using kept⟩

/-- What a start that reaches its last step leaves before it enters its state. -/
structure State.Trained (s : State) (dense : Bool) (rate : Nat) (t : State) : Prop where
  rate : t.mss.dataRate = rate
  usable : t.mss.usable = usableBytes dense
  mode : t.ckc.mode = .tmr
  cores : t.cpx.qmCores = 0xFF#8
  state : t.pwr.state = s.pwr.state
  flag : t.flash.flagRecord = s.flash.flagRecord

theorem State.finishStart_ends (s : State) (dense : Bool) (rate : Nat) (retrained : Bool) (repairs : List Repair) (fail : Option TestFail) :
    ∃ t, s.Trained dense rate t ∧ s.finishStart dense rate retrained repairs fail =
      t.endStart (fail.or ((fitRepairs [] (if s.mss.bootLong then repairs else s.flash.repairs ++ repairs)).2.head?.map repairExhausted)) := by
  unfold State.finishStart
  extract_lets wasLong long taken waited powered settled opened
  have powers : powered.mss = taken.mss ∧ powered.flash = s.flash ∧ powered.pwr.state = s.pwr.state := by
    obtain ⟨mss, -, flash, -, state⟩ := waited.powerOn_spec readyDomains
    exact ⟨mss, flash, state⟩
  clear_value powered
  obtain ⟨mss, flash, state⟩ := powers
  have opens : opened.mss = taken.mss ∧ opened.flash = s.flash ∧ opened.pwr.state = s.pwr.state ∧ opened.cpx.qmCores = 0xFF#8 := by
    simp only [opened, settled, State.onCpx_mss, State.onPwr_mss, State.onCpx_flash, State.onPwr_flash, State.onCpx_pwr, State.onPwr_pwr,
      State.onCpx_cpx, mss, flash, state, and_self]
  clear_value opened
  obtain ⟨mss, flash, state, cores⟩ := opens
  rw [flash]
  rcases fitRepairs [] (if wasLong then repairs else s.flash.repairs ++ repairs) with ⟨kept, spare⟩
  dsimp -zeta only
  extract_lets record recorded fused laned noted
  have records : (recorded.mss, recorded.cpx, recorded.pwr) = (opened.mss, opened.cpx, opened.pwr) ∧
      recorded.flash.flagRecord = opened.flash.flagRecord := by
    unfold recorded
    split
    · exact ⟨rfl, Flash.putRepair_flagRecord _ _⟩
    · exact ⟨rfl, rfl⟩
  have fuses : (fused.mss, fused.cpx, fused.flash, fused.pwr) = (recorded.mss, recorded.cpx, recorded.flash, recorded.pwr) := by
    refine (State.applyFuses_spec _).trans ?_
    simp only [State.note_mss, State.note_cpx, State.note_flash, State.note_pwr]
  clear_value recorded fused
  have lanes : laned.ckc.mode = .tmr ∧ (laned.mss, laned.cpx, laned.flash, laned.pwr) = (fused.mss, fused.cpx, fused.flash, fused.pwr) :=
    fused.startLanes_spec
  clear_value laned
  simp only [Prod.mk.injEq] at records fuses lanes
  obtain ⟨⟨mss₁, cpx₁, pwr₁⟩, flag₁⟩ := records
  obtain ⟨mss₂, cpx₂, flash₂, pwr₂⟩ := fuses
  obtain ⟨tmr, mss₃, cpx₃, flash₃, pwr₃⟩ := lanes
  have mss₄ : laned.mss = taken.mss := by rw [mss₃, mss₂, mss₁, mss]
  refine ⟨noted, ⟨?_, ?_, ?_, ?_, ?_, ?_⟩, rfl⟩
  · rw [State.note_mss, mss₄]
    rfl
  · rw [State.note_mss, mss₄]
    rfl
  · rw [State.note_ckc, tmr]
  · rw [State.note_cpx, cpx₃, cpx₂, cpx₁, cores]
  · rw [State.note_pwr, pwr₃, pwr₂, pwr₁, state]
  · rw [State.note_flash, flash₃, flash₂, flag₁, flash]

/-! ### A finding at the end of a start -/

/-- At a start a finding makes its unit suspect without a drain (R334, R394). -/
theorem State.suspect_idle (s : State) (f : FailReport) (c : FaultCtx) (starting : s.pwr.state = .boot) :
    s.suspect f c = ((((s.recordFault f c).countErr (unitErrRow f.unit) colSuspect 1).onMss fun m =>
      { m with diagPassed := false }).latch latchFlagged) := by
  have kept : (s.recordFault f c).pwr = s.pwr := congrArg (fun x => x.2.2.2) (s.recordFault_schedule f c)
  simp only [State.suspect, State.suspectAs, List.foldl_cons, List.foldl_nil, State.onMss_pwr, State.countErr_pwr, kept, starting]

/-- A part that a start leaves FLAGGED names the unit (R341). -/
theorem State.startFlagged_spec (s : State) (unit : Nat) : (s.startFlagged unit).pwr.state = .flagged ∧
    (s.startFlagged unit).saf.faultUnit = unit ∧ (s.startFlagged unit).saf.latched = s.saf.latched ∧
    ((s.startFlagged unit).mss, (s.startFlagged unit).ckc, (s.startFlagged unit).cpx) = (s.mss, s.ckc, s.cpx) := by
  simp [State.startFlagged]

section
variable {t : State}

/-- A finding without a repair latches the safe state and flags the part (R394). -/
theorem State.endStart_found (starting : t.pwr.state = .boot) (f : TestFail) : (t.endStart (some f)).pwr.state = .flagged ∧
    (t.endStart (some f)).saf.faultUnit = unitCode f.unit ∧ (t.endStart (some f)).saf.latched = true ∧
    ((t.endStart (some f)).mss, (t.endStart (some f)).ckc, (t.endStart (some f)).cpx) =
      ({ t.mss with diagPassed := false }, t.ckc, t.cpx) := by
  obtain ⟨state, unit, latched, rest⟩ := (t.failStart f).startFlagged_spec (unitCode f.unit)
  refine ⟨state, unit, latched.trans ?_, rest.trans ?_⟩
  · exact (State.suspect_spec _ _ _).1
  · have guards (r : FailReport) (c : FaultCtx) := t.recordFault_guards r c
    simp only [State.guards, Prod.mk.injEq] at guards
    simp only [State.failStart, State.onFlash_mss, State.onFlash_ckc, State.onFlash_cpx, t.suspect_idle _ _ starting, State.latch_mss,
      State.latch_ckc, State.latch_cpx, State.onMss_mss, State.onMss_ckc, State.onMss_cpx, State.countErr_mss, State.countErr_ckc,
      State.countErr_cpx, State.recordFault_cpx, (guards _ _).1, (guards _ _).2.2.1]

/-- Without one, the flag record in force decides (R341). -/
theorem State.endStart_sound : ((t.endStart none).mss, (t.endStart none).ckc, (t.endStart none).cpx) = (t.mss, t.ckc, t.cpx) ∧
    ((∀ r, t.flash.flagRecord = some r → r.flagged = false) → (t.endStart none).pwr.state = .ready) ∧
    (∀ r, t.flash.flagRecord = some r → r.flagged = true →
      (t.endStart none).pwr.state = .flagged ∧ (t.endStart none).saf.faultUnit = r.unit) := by
  cases record : t.flash.flagRecord with
  | none =>
    have ends : t.endStart none = t.enter .ready := by simp only [State.endStart, record]
    rw [ends]
    exact ⟨by simp, fun _ => State.enter_state t _, nofun⟩
  | some r =>
    have ends : t.endStart none = if r.flagged then t.startFlagged r.unit else t.enter .ready := by simp only [State.endStart, record]
    obtain ⟨state, unit, -, rest⟩ := t.startFlagged_spec r.unit
    by_cases flagged : r.flagged = true
    · rw [ends, if_pos flagged]
      refine ⟨rest, fun clear => ?_, fun q same _ => ?_⟩
      · rw [clear r rfl] at flagged
        cases flagged
      · cases same
        exact ⟨state, unit⟩
    · rw [ends, if_neg flagged]
      refine ⟨by simp, fun _ => State.enter_state t _, fun q same set => ?_⟩
      cases same
      exact absurd set flagged

end

end Sys2Proof.Machine
end

section
/-! PROOF of the statement about resets and starts. -/

namespace Sys2Proof.Machine

/-! ### What a teardown of the host attachment leaves -/

/-- The power unit, the domains that the sensors need, the pins, and whether a capacity change waits. -/
def State.wakeSide (s : State) : Pwr × BitVec 64 × Pins × Bool := (s.pwr, s.sen.mask, s.pins, s.cpx.cap.isSome)

section
variable (s : State)

theorem State.onCpx_wakeSide (f : Cpx → Cpx) (cap : (f s.cpx).cap.isSome = s.cpx.cap.isSome) : (s.onCpx f).wakeSide = s.wakeSide := by
  simp only [State.wakeSide, State.onCpx_cpx, cap]
  rfl
@[simp] theorem State.onFab_wakeSide (f : Fab → Fab) : (s.onFab f).wakeSide = s.wakeSide := rfl
@[simp] theorem State.onHif_wakeSide (f : Hif → Hif) : (s.onHif f).wakeSide = s.wakeSide := rfl
@[simp] theorem State.note_wakeSide (c v u p q r : Nat) : (s.note c v u p q r).wakeSide = s.wakeSide := by simp [State.wakeSide]

@[simp] theorem State.reply_wakeSide (pk : Packet) (st dt res : Nat) : (s.reply pk st dt res).wakeSide = s.wakeSide := by
  have cap : (s.reply pk st dt res).cpx.cap = s.cpx.cap := congrArg (fun x => x.2.1) (s.reply_qmSide pk st dt res)
  simp [State.wakeSide, cap]

@[simp] theorem State.settle_wakeSide : s.settle.wakeSide = s.wakeSide := by
  have cap : s.settle.cpx.cap = s.cpx.cap := congrArg (fun x => x.2.1) s.settle_qmSide
  simp [State.wakeSide, cap]

@[simp] theorem State.answerKills_wakeSide (res : Nat) : (s.answerKills res).wakeSide = s.wakeSide :=
  foldl_keeps State.wakeSide (fun t (k : KillToken) => t.reply_wakeSide k.killer stDone 0 res) _ _

@[simp] theorem State.recordFault_wakeSide (f : FailReport) (c : FaultCtx) : (s.recordFault f c).wakeSide = s.wakeSide := by
  have posture := s.recordFault_posture f c
  simp only [State.posture, Prod.mk.injEq] at posture
  obtain ⟨pins, -, -, pwr, -⟩ := posture
  simp only [State.wakeSide, pins, pwr, State.recordFault_sen, State.recordFault_cpx]

@[simp] theorem State.discardQm_wakeSide : s.discardQm.wakeSide = s.wakeSide := by
  unfold State.discardQm
  split
  · rfl
  · dsimp only
    split
    · rw [State.recordFault_wakeSide]
      rfl
    · rfl

@[simp] theorem State.countJob_wakeSide (client : Nat) (ended : Bool) : (s.countJob client ended).wakeSide = s.wakeSide := by
  have cap : (s.countJob client ended).cpx.cap = s.cpx.cap := congrArg (fun x => x.2.1) (s.countJob_qmSide client ended)
  exact s.onCpx_wakeSide _ (congrArg Option.isSome cap)

@[simp] theorem State.dropJob_wakeSide (ring : Nat) : (s.dropJob ring).wakeSide = s.wakeSide := by
  have cap : (s.dropJob ring).cpx.cap = s.cpx.cap := congrArg (fun x => x.2.1) (s.dropJob_qmSide ring)
  exact s.onCpx_wakeSide _ (congrArg Option.isSome cap)

/-- A job that goes without replies. -/
theorem State.teardownAs_wakeSide (counts : Bool) (ring : Nat) : (s.teardownAs counts ring false).wakeSide = s.wakeSide := by
  unfold State.teardownAs
  split
  · rfl
  next j _ =>
    extract_lets mine spared uncached waiting killed answered counted dropped
    have hspared : spared.wakeSide = s.wakeSide := by
      unfold spared
      split
      · exact s.discardQm_wakeSide
      · rfl
    have huncached : uncached.wakeSide = spared.wakeSide := by
      unfold uncached
      split
      · exact State.onFab_wakeSide _ _
      · rfl
    have hcounted : counted.wakeSide = uncached.wakeSide := by
      have same : answered = uncached := by simp [answered, killed]
      unfold counted
      rw [same]
      split
      · exact uncached.countJob_wakeSide _ _
      · rfl
    have gone : ((counted.dropJob ring).onCpx fun c => { c with packets := c.packets.filter fun p => !p.same j.submit }).wakeSide =
        s.wakeSide := by
      rw [State.onCpx_wakeSide, State.dropJob_wakeSide, hcounted, huncached, hspared]
      rfl
    simpa [dropped] using gone

@[simp] theorem State.dropRings_wakeSide (gone : Nat → Bool) : (s.dropRings gone).wakeSide = s.wakeSide := by
  have jobs : (s.teardownJobs gone).wakeSide = s.wakeSide := foldl_keeps State.wakeSide (fun t (j : Job) => t.teardownAs_wakeSide _ j.ring) _ _
  have rings (t : State) : (t.loseRings gone).wakeSide = t.wakeSide := by
    change (t.pwr, t.sen.mask, t.pins, (t.cpx.cap.map _).isSome) = t.wakeSide
    rw [Option.isSome_map]
    rfl
  simp only [State.dropRings, State.settle_wakeSide]
  split
  · rw [State.answerKills_wakeSide, rings, jobs]
  · rw [rings, jobs]

@[simp] theorem State.closeClients_wakeSide (gone : Nat → Bool) : (s.closeClients gone).wakeSide = s.wakeSide := by
  unfold State.closeClients
  extract_lets ids dropped
  rw [State.onCpx_wakeSide, State.dropRings_wakeSide]
  rfl

/-- With no capacity change waiting, the reset of the host attachment changes neither the power nor the sensors' domains (R250). -/
theorem State.attachReset_wakeSide (settled : s.cpx.cap = none) (kind : Nat) : (s.attachReset kind).wakeSide = s.wakeSide := by
  have detached : s.detached.wakeSide = s.wakeSide := by
    rw [State.detached, State.closeClients_wakeSide, State.dropRings_wakeSide]
  have noCap : s.detached.cpx.cap = none := by
    have same : s.detached.cpx.cap.isSome = s.cpx.cap.isSome := congrArg (fun x => x.2.2.2) detached
    rwa [settled, Option.isSome_none, Option.isSome_eq_false_iff, Option.isNone_iff_eq_none] at same
  rw [State.attachReset, State.onHif_wakeSide, State.note_wakeSide, State.hostTeardown_eq]
  generalize s.detached = d at detached noCap
  rw [State.boundary_of_noCap, State.onHif_wakeSide, State.onCpx_wakeSide, detached]
  · rfl
  · exact noCap

end

/-- PERST_N asserted wakes a PARKED part that has cooled: the domains on at READY begin to rise (R250, R375). -/
theorem doPerstNAssert_wakes {s : State} (on : s.pins.rstN = true) (parked : s.pwr.state = .parked)
    (cool : s.pwr.tripped = false ∨ s.pwr.coolEnough = true) (settled : s.cpx.cap = none) :
    (doPerstNAssert s).pwr = { s.pwr with wake := true, rising := s.pwr.rising ||| ((readyDomains ||| s.sen.mask) &&& ~~~s.pwr.domains) } ∧
    (doPerstNAssert s).pins.perstN = false := by
  have kept : s.perstReset.wakeSide = (s.pwr, s.sen.mask, { s.pins with perstN := false }, s.cpx.cap.isSome) := by
    rw [State.perstReset, State.onHif_wakeSide, State.attachReset_wakeSide]
    · rfl
    · exact settled
  simp only [State.wakeSide, Prod.mk.injEq] at kept
  obtain ⟨pwr, mask, pins, -⟩ := kept
  rw [doPerstNAssert_resets on, if_pos (by rw [pwr, parked])]
  have wakes : ((s.perstReset.onPwr fun p => { p with wake := true }).pwr.state = .parked &&
      (s.perstReset.onPwr fun p => { p with wake := true }).pwr.wake &&
      (!(s.perstReset.onPwr fun p => { p with wake := true }).pwr.tripped ||
        (s.perstReset.onPwr fun p => { p with wake := true }).pwr.coolEnough)) = true := by
    simp only [State.onPwr_pwr, pwr, parked]
    rcases cool with cool | cool
    · simp [cool]
    · have same : ({ s.pwr with state := .parked, wake := true } : Pwr).coolEnough = true := cool
      simp [same]
  rw [State.leaveParked, if_pos wakes]
  simp only [State.onPwr_pwr, State.onPwr_sen, State.onPwr_pins, pwr, mask, pins, and_self]

/-! ### END_OF_START -/

/-- Entering the state after a start leaves the rate, the memory, the lanes and CPX. -/
theorem State.endStart_keeps {t : State} (starting : t.pwr.state = .boot) (finding : Option TestFail) :
    (t.endStart finding).mss.dataRate = t.mss.dataRate ∧ (t.endStart finding).mss.usable = t.mss.usable ∧
    (t.endStart finding).ckc = t.ckc ∧ (t.endStart finding).cpx = t.cpx := by
  cases finding with
  | none =>
    obtain ⟨kept, -⟩ := State.endStart_sound (t := t)
    simp only [Prod.mk.injEq] at kept
    obtain ⟨mss, ckc, cpx⟩ := kept
    exact ⟨congrArg Mss.dataRate mss, congrArg Mss.usable mss, ckc, cpx⟩
  | some f =>
    obtain ⟨-, -, -, kept⟩ := State.endStart_found starting f
    simp only [Prod.mk.injEq] at kept
    obtain ⟨mss, ckc, cpx⟩ := kept
    exact ⟨(congrArg Mss.dataRate mss :), (congrArg Mss.usable mss :), ckc, cpx⟩

section
variable {s : State} (on : s.pins.rstN = true) (boot : s.pwr.state = .boot)
include on boot

theorem doEndOfStart_recovers (recovery : s.mss.bootRecovery = true) (dense : Bool) (rate : Nat) (retrained : Bool) (repairs : List Repair)
    (fail : Option TestFail) : doEndOfStart dense rate retrained repairs fail s =
      ((((s.onMss fun m => { m with bootStep := 0xFF }).powerOn (1#64 <<< 45)).note 0x0001 sevInfo noUnit 2 0
        ((s.onMss fun m => { m with bootStep := 0xFF }).powerOn (1#64 <<< 45)).pins.bootMode.toNat).enter .recovery) :=
  (if_neg (by simp [on, boot])).trans (if_pos recovery)

theorem doEndOfStart_finishes (normal : s.mss.bootRecovery = false) (dense : Bool) (rate : Nat) (retrained : Bool) (repairs : List Repair)
    (fail : Option TestFail) : doEndOfStart dense rate retrained repairs fail s = s.finishStart dense rate retrained repairs fail :=
  (if_neg (by simp [on, boot])).trans (if_neg (by simp [normal]))

end

/-- Settles O52: a start's end is judged by its findings, then by the flag record in force. -/
theorem resetsAndStarts : Obligations.ResetsAndStarts := by
  unfold Obligations.ResetsAndStarts
  refine ⟨?reset, ?release, ?finish, ?perstRelease, ?perstAssert⟩
  case reset =>
    intro s on
    have stands := s.shutAdvance_standsBy
    refine ⟨_, congrArg Host.Outcome.next (if_pos on), rfl, rfl, rfl, rfl, rfl, rfl, rfl, ?_, ?_, stands.image, rfl, ?_⟩
    · exact (congrArg Sec.slots stands.sec :)
    · exact (congrArg Sec.rollback stands.sec :)
    · exact (congrArg Pins.perstN stands.pins :)
  case release =>
    intro s mode sigOk off
    have run : doRstNRelease mode sigOk s = s.startFrom mode sigOk := if_neg (by simp [off])
    obtain ⟨fab, saf, pins, sec, -, -⟩ := s.startFrom_spec (mode := mode) sigOk
    refine ⟨_, congrArg Host.Outcome.next run, (congrArg Pins.rstN pins :), (congrArg Pins.bootMode pins :), fab, saf,
      (congrArg Sec.certValid sec :), (congrArg Sec.slots sec :), fun recovery => ?_, fun other fails => ?_, fun other passes => ?_⟩
    · rw [s.startFrom_straps sigOk recovery]
      exact ⟨rfl, s.startCommon_flash mode⟩
    · rw [s.startFrom_rejects sigOk other fails, State.note_mss, State.note_flash]
      exact ⟨rfl, rfl, s.startCommon_flash mode⟩
    · rw [s.startFrom_accepts sigOk other passes]
      obtain ⟨recovery, version⟩ := (s.startCommon mode).startImage_mss (mode := mode)
      rw [recovery, version, State.startImage_flash, State.startCommon_mss, State.startCommon_flash]
      exact ⟨rfl, rfl, rfl⟩
  case finish =>
    intro s dense retr rate reps fail on boot
    refine ⟨fun recovery => ⟨_, congrArg Host.Outcome.next (doEndOfStart_recovers on boot recovery dense rate retr reps fail), ?_⟩,
      fun normal => ?_⟩
    · obtain ⟨mss, sec, flash, saf, -⟩ := (s.onMss fun m => { m with bootStep := 0xFF }).powerOn_spec (1#64 <<< 45)
      simp only [State.enter_state, State.enter_mss, State.enter_saf, State.enter_flash, State.enter_sec, State.note_mss, State.note_saf,
        State.note_flash, State.note_sec, mss, sec, flash, saf]
      exact ⟨trivial, rfl, rfl, rfl, rfl⟩
    · have run := doEndOfStart_finishes on boot normal dense rate retr reps fail
      have fuses : s.sec.FusesStay (s.finishStart dense rate retr reps fail).sec :=
        (exec_keeps (c := .endOfStart dense rate retr reps fail) (congrArg Host.Outcome.next run)).fuses
      obtain ⟨t, trained, ends⟩ := s.finishStart_ends dense rate retr reps fail
      have starting : t.pwr.state = .boot := trained.state.trans boot
      obtain ⟨dataRate, usable, ckc, cpx⟩ := State.endStart_keeps starting
        (fail.or ((fitRepairs [] (if s.mss.bootLong then reps else s.flash.repairs ++ reps)).2.head?.map repairExhausted))
      refine ⟨_, congrArg Host.Outcome.next run, ?_⟩
      rw [ends] at fuses ⊢
      refine ⟨dataRate.trans trained.rate, usable.trans trained.usable, (congrArg Ckc.mode ckc).trans trained.mode,
        (congrArg Cpx.qmCores cpx).trans trained.cores, fuses, ?sound, ?spare, ?found⟩
      case sound =>
        intro none_ fit
        rw [none_, fit]
        obtain ⟨-, ready, flagged⟩ := State.endStart_sound (t := t)
        rw [trained.flag] at ready flagged
        exact ⟨ready, flagged⟩
      case spare =>
        intro none_ r rest fit
        rw [none_, fit]
        obtain ⟨state, unit, latched, -⟩ := State.endStart_found starting (repairExhausted r)
        exact ⟨state, latched, unit⟩
      case found =>
        intro f some_
        rw [some_]
        obtain ⟨state, unit, latched, -⟩ := State.endStart_found starting f
        exact ⟨state, latched, unit⟩
  case perstRelease =>
    intro s
    rfl
  case perstAssert =>
    intro s on parked cool settled
    obtain ⟨pwr, pin⟩ := doPerstNAssert_wakes on parked cool settled
    refine ⟨doPerstNAssert s, rfl, ?_, ?_, ?_, ?_, pin, ?_⟩
    · rw [pwr, parked]
    · rw [pwr]
    · rw [pwr]
    · rw [pwr]
    · rw [doPerstNAssert_hif on]
      rfl

end Sys2Proof.Machine
end

section
/-! PROOF of the statement about failures: fault records, the replay of a command, the flag record, the end of a drain and the coppice
slices outside a coppice step. -/

namespace Sys2Proof.Machine

/-! ### Fault records -/

theorem leNat_leBytes (n v : Nat) : leNat (leBytes n v) = v % 256 ^ n := by
  induction n generalizing v with
  | zero => rw [leBytes, leNat, Nat.pow_zero, Nat.mod_one]
  | succ n ih =>
    rw [leBytes, leNat, ih, BitVec.toNat_ofNat, show 256 ^ (n + 1) = 256 * 256 ^ n from Nat.pow_succ']
    exact (Nat.mod_mul (a := 256)).symm

/-- A little-endian field reads back from its place. -/
theorem leAt_leBytes {b pre post : List Byte} {off n v : Nat} (place : pre.length = off) (bytes : b = pre ++ (leBytes n v ++ post)) :
    leAt b off n = v % 256 ^ n := by
  rw [leAt, bytes, List.drop_left' place, List.take_left' (leBytes_length n v), leNat_leBytes]

/-- The detection that a fault record tells of (R337). -/
def State.detection (s : State) (f : FailReport) (c : FaultCtx) : Seen := c.seen.getD (s.seen f.unit)

theorem State.detection_count (s : State) (f : FailReport) (c : FaultCtx) :
    (s.detection f c).count = match c.seen with | some d => d.count | none => s.now := by
  unfold State.detection
  cases c.seen <;> rfl

theorem State.faultBytes_length (s : State) (f : FailReport) (c : FaultCtx) : (s.faultBytes f c).length = 64 := by
  unfold State.faultBytes
  extract_lets d b
  have body : b.length = 60 := by
    simp only [b, List.length_append, leBytes_length]
  rw [List.length_append, body, leBytes_length]

/-- The record's first 24 bytes, then the detection's TMB count (Table 13.3). -/
theorem State.faultBytes_count (s : State) (f : FailReport) (c : FaultCtx) : ∃ pre post : List Byte, pre.length = 0x18 ∧
    s.faultBytes f c = pre ++ (leBytes 8 (s.detection f c).count ++ post) := by
  unfold State.faultBytes
  extract_lets d b
  generalize crc32c b = crc
  refine ⟨leBytes 1 1 ++ leBytes 1 (unitCode f.unit) ++ leBytes 1 f.subunit ++ leBytes 1 f.detector ++ leBytes 1 c.opKind ++
    leBytes 1 f.cls ++ leBytes 1 c.opcode ++ leBytes 1 c.outcome ++ leBytes 4 c.ident ++ leBytes 4 c.context ++
    leBytes 8 (codeOf 64 d.vtime), leBytes 2 (codeOf 16 d.tj) ++ (leBytes 2 d.vdd ++ (leBytes 2 d.ldo ++ (leBytes 2 d.rate ++
    (leBytes 8 f.address ++ (leBytes 4 f.detail.toNat ++ (leBytes 1 (min 255 c.fails) ++ (leBytes 1 c.replays ++
    (leBytes 2 c.second ++ (leBytes 4 0 ++ leBytes 4 crc))))))))), ?_, ?_⟩
  · simp only [List.length_append, leBytes_length]
  · simp only [b, List.append_assoc]
    rfl

/-! ### Replays -/

theorem doReplay_reports {s : State} (on : s.pins.rstN = true) (u : Cu) {f : FailReport} : doReplay u (some f) s =
    if atOnce f.detector then s.suspectAtOnce f
    else if !replays f.detector then s
    else if !s.cuActive u then s.faultNoUnit f
    else match u with
      | .core c => s.replayCore c (some f)
      | .engine g => s.replayEngine g (some f)
      | .qm => s.replayCmd (some f) :=
  if_neg (by simp [on])

section
variable {s : State} {q : QmRun} {f : FailReport} (on : s.pins.rstN = true) (running : s.cpx.qm = some q) (failed : q.run.failed = some f)
include on running failed

/-- What REPLAY makes of the running command after a failed check (R330-R334). -/
theorem doReplay_command : doReplay .qm none s =
    if !s.cmdEnded q then s.onCpx fun c => { c with qm := some q }
    else if q.run.hwFails = 0 then s.qmAgain q q.run.countFailure
    else s.cmdSuspect q q.run := by
  have run : doReplay .qm none s = s.replayCmd none := if_neg (by simp [on])
  rw [run, State.replayCmd, running]
  exact if_neg (by simp [Run.reported, failed])

theorem doReplay_waits (runs : s.cmdEnded q = false) : doReplay .qm none s = s := by
  rw [doReplay_command on running failed, if_pos (by simp [runs])]
  have same : { s.cpx with qm := some q } = s.cpx := by rw [← running]
  simp only [State.onCpx, same]

end

theorem State.qmAgain_spec (s : State) (q : QmRun) (run : Run) : (s.qmAgain q run).cpx = { s.cpx with qm := some { q with run := run.again } } ∧
    (s.qmAgain q run).saf = s.saf ∧ (s.qmAgain q run).pwr = s.pwr := ⟨rfl, rfl, rfl⟩

/-- A drain takes every command off the fabric (R339). -/
theorem State.startDrain_qm (s : State) (f : FailReport) : (s.startDrain f).cpx.qm = none := by
  unfold State.startDrain
  extract_lets latched named stopped record written
  have off : stopped.cpx.qm = none := by
    rw [show stopped.cpx.qm = _ from State.stopProgram_qm _, State.preempt_qm]
  split <;> exact off

/-- Units that become suspect latch the safe state and bring no command back (R334). -/
theorem State.suspectAs_spec (s : State) (f : FailReport) (c : FaultCtx) (units : List FailReport) (off : s.cpx.qm = none) :
    (s.suspectAs f c units).saf.latched = true ∧ (s.suspectAs f c units).cpx.qm = none := by
  unfold State.suspectAs
  extract_lets counted cleared unit
  have qm : cleared.cpx.qm = none := by
    have kept : counted.cpx = s.cpx := 
      (foldl_keeps State.cpx (fun (t : State) (u : FailReport) => t.countErr_cpx (unitErrRow u.unit) colSuspect 1) _ _).trans
        (s.recordFault_cpx f c)
    rw [show cleared.cpx = counted.cpx from rfl, kept, off]
  clear_value cleared
  split
  · exact ⟨(cleared.startDrain_spec unit).1, cleared.startDrain_qm unit⟩
  · exact ⟨(cleared.startDrain_spec unit).1, cleared.startDrain_qm unit⟩
  · exact ⟨State.latch_latched _ _, by rw [State.latch_cpx, qm]⟩

/-- A command whose replay failed is gone with its job, and the safe state is latched (R334). -/
theorem State.cmdSuspect_spec (s : State) (q : QmRun) {run : Run} {f g : FailReport} (first : run.firstFail = some f)
    (second : run.failed = some g) : (s.cmdSuspect q run).saf.latched = true ∧ (s.cmdSuspect q run).cpx.qm = none := by
  unfold State.cmdSuspect
  rw [first, second]
  extract_lets kills freed
  refine State.suspectAs_spec _ _ _ _ ?_
  have replied (t : State) (off : t.cpx.qm = none) (st dt ns : Nat) : (t.replyAll q.pkt st dt 0 0 ns).cpx.qm = none :=
    (congrArg Prod.fst (t.replyAll_qmSide q.pkt st dt 0 0 ns)).trans off
  have answered (t : State) (off : t.cpx.qm = none) (res : Nat) : (t.answerKills res).cpx.qm = none :=
    (congrArg Prod.fst (t.answerKills_qmSide res)).trans off
  have torn (t : State) (off : t.cpx.qm = none) : (t.teardown q.pkt.ring true).cpx.qm = none :=
    (congrArg Prod.fst (t.teardownAs_qmSide off _ _ _)).trans off
  exact torn _ (answered _ (replied freed rfl _ _ _) _)

/-! ### The flag record and the end of a drain -/

theorem doFlagRecordWritten_writes {s : State} {r : FlagRecord} (on : s.pins.rstN = true) (sent : s.mss.flagWrite = some r) :
    ∃ t : State, t = ((s.onFlash fun f => if (s.flash.flagA.map fun x => x.seq).getD 0 ≤ (s.flash.flagB.map fun x => x.seq).getD 0
      then { f with flagA := some r } else { f with flagB := some r }).onMss fun m => { m with flagWrite := none, flagClear := none }) ∧
      doFlagRecordWritten s = match s.mss.flagClear with
        | some pk => ((t.onSaf fun x => { x with flagged := false }).enter .ready).done pk 0
        | none => t := by
  refine ⟨_, rfl, ?_⟩
  simp only [doFlagRecordWritten, sent, on]
  rfl

@[simp] theorem State.snapshot_ctr (s : State) (cause : Nat) : (s.snapshot cause).ctr = s.ctr := by
  unfold State.snapshot
  split <;> rfl
@[simp] theorem State.snapshot_fab (s : State) (cause : Nat) : (s.snapshot cause).fab = s.fab := by
  unfold State.snapshot
  split <;> rfl

theorem doDrainComplete_ends {s : State} (on : s.pins.rstN = true) (draining : s.pwr.state = .draining) (written : s.mss.flagWrite = none)
    (out : s.emt.frames = []) : doDrainComplete s =
      ((((s.splitBoundary.unloadContracts).snapshot 4).enter .flagged).raise causeFlagged) :=
  if_pos (by simp [on, draining, written, out])

/-! ### Coppice slices -/

/-- The unit that the rotation visits next is one of the twelve of the visit order (R344). -/
theorem State.nextVisit_lt {s : State} {k : Nat} (visit : s.nextVisit = some k) : k < 12 := by
  unfold State.nextVisit at visit
  split at visit
  · cases visit
  · obtain ⟨i, -, rfl⟩ := List.mem_map.mp (List.mem_of_find?_eq_some visit)
    omega

/-- An event leaves the rotation's place and the time of its last slice. -/
theorem State.note_visits (s : State) (code sev unit p0 p1 p2 : Nat) : (s.note code sev unit p0 p1 p2).evr.rotNext = s.evr.rotNext ∧
    (s.note code sev unit p0 p1 p2).evr.lastSlice = s.evr.lastSlice := by
  simp only [State.note]
  split <;> split <;> simp [Rec.putBucket]

/-- After a slice the next visit follows; the slices done start anew only with a new rotation (R344). -/
theorem State.afterSlice_spec (s : State) (k : Nat) : (s.afterSlice k).evr.rotNext = (k + 1) % 12 ∧
    (s.afterSlice k).evr.lastSlice = s.evr.lastSlice ∧
    ((s.afterSlice k).evr.rotation = s.evr.rotation → (s.afterSlice k).evr.sliceDone = s.evr.sliceDone) ∧
    ((s.afterSlice k).fab, (s.afterSlice k).saf, (s.afterSlice k).cpx, (s.afterSlice k).pwr, (s.afterSlice k).tim) =
      (s.fab, s.saf, s.cpx, s.pwr, s.tim) := by
  unfold State.afterSlice
  extract_lets moved left mask n noted
  split
  · exact ⟨rfl, rfl, fun _ => rfl, rfl⟩
  · have kept : noted.evr.rotNext = moved.evr.rotNext ∧ noted.evr.lastSlice = moved.evr.lastSlice := moved.note_visits _ _ _ _ _ _
    refine ⟨kept.1, kept.2, fun same => ?_, by simp [noted, moved]⟩
    have risen : s.evr.rotation + 1 = s.evr.rotation := same
    omega

/-- The slice's time is the last one's, as far as the rotation knows (R345). -/
def State.slicing (s : State) : State :=
  (s.advance (s.evr.lastSlice + 33333000)).onEvr fun r => { r with lastSlice := (s.advance (s.evr.lastSlice + 33333000)).now }

section
variable {s : State} {k : Nat} (on : s.pins.rstN = true) (free : s.cpx.qm = none) (state : s.pwr.state = .ready ∨ s.pwr.state = .running)
  (visit : s.nextVisit = some k) (unarmed : s.ctr.armed = none)
include on free state visit unarmed

theorem doCoppiceSlice_runs (digestOk : Bool) (signature : Option DWord) (restoreFail : Bool) :
    doCoppiceSlice digestOk signature restoreFail s = s.slicing.runSlice k digestOk signature restoreFail := by
  have due : (s.pins.rstN && s.cpx.qm.isNone && (s.pwr.state = .ready || s.pwr.state = .running)) = true := by
    simpa [on, free] using state
  have armed : s.ctr.armed.isNone = true := by rw [unarmed]; rfl
  refine (if_neg (by simp [due])).trans ?_
  rw [visit]
  exact if_pos armed

end

/-- The slice that has run is counted and timed (R344, R345). -/
def State.sliced (s : State) (k : Nat) : State :=
  s.onEvr fun r => { r with sliceDone := vset r.sliceDone k (vget s.evr.sliceDone k 0 + 1), lastSlice := s.now }

/-- The count and the time of a slice are the recorder's own. -/
theorem State.slicing_spec (s : State) (k : Nat) : (s.slicing.sliced k).fab = s.fab ∧ (s.slicing.sliced k).saf = s.saf ∧
    (s.slicing.sliced k).cpx = s.cpx ∧ (s.slicing.sliced k).pwr = s.pwr ∧ (s.slicing.sliced k).evr.rotation = s.evr.rotation ∧
    (s.slicing.sliced k).evr.sliceDone = vset s.evr.sliceDone k (vget s.evr.sliceDone k 0 + 1) ∧
    (s.slicing.sliced k).evr.lastSlice = (s.slicing.sliced k).tim.count.toNat := by
  refine ⟨?_, ?_, ?_, ?_, ?_, ?_, rfl⟩ <;> simp [State.sliced, State.slicing]

theorem State.runSlice_passes (s : State) (k : Nat) : s.runSlice k true none false = (s.sliced k).afterSlice k := rfl

/-- A wrong signature makes the visited unit suspect (R346). -/
theorem State.runSlice_fails (s : State) (k : Nat) (sg : DWord) : ∃ f c, s.runSlice k true (some sg) false =
    ((s.sliced k).afterSlice k).suspect f c := ⟨_, _, rfl⟩

/-- Settles O48: each failure is judged by its detector and its run; what follows a suspect unit is the drain's own. -/
theorem failuresReplayDrainAndFlag : Obligations.FailuresReplayDrainAndFlag := by
  unfold Obligations.FailuresReplayDrainAndFlag
  refine ⟨?record, ?report, ?command, ?flag, ?drain, ?slice⟩
  case record =>
    intro s f c
    obtain ⟨pre, post, place, bytes⟩ := s.faultBytes_count f c
    refine ⟨s.faultBytes_length f c, ?_⟩
    rw [leAt_leBytes place bytes, s.detection_count]
    rfl
  case report =>
    intro s u f on
    refine ⟨fun later replayed idle => congrArg Host.Outcome.next ?_, fun once => ?_⟩
    · rw [doReplay_reports on, if_neg (by simp [later]), if_neg (by simp [replayed]), if_pos (by simp [idle])]
      rfl
    · have run : doReplay u (some f) s = s.suspectAtOnce f := (doReplay_reports on u).trans (if_pos once)
      obtain ⟨-, diag, drained⟩ := s.suspect_guards f { FaultCtx.none outDirect with opKind := if f.detector = 0x0B then 3 else 2 }
      exact ⟨_, congrArg Host.Outcome.next run, s.suspectAtOnce_latched f, diag,
        fun runs => ⟨State.suspectAtOnce_drains runs f, drained runs⟩⟩
  case command =>
    intro s q f on running failed
    refine ⟨fun runs => congrArg Host.Outcome.next (doReplay_waits on running failed runs), fun ended first => ?_, fun g ended second kept => ?_⟩
    · have run : doReplay .qm none s = s.qmAgain q q.run.countFailure := by
        rw [doReplay_command on running failed, if_neg (by simp [ended]), if_pos first]
      obtain ⟨cpx, saf, pwr⟩ := s.qmAgain_spec q q.run.countFailure
      exact ⟨_, congrArg Host.Outcome.next run, cpx, Fab.peek_congr (s.qmAgain_bytes q _), saf, pwr⟩
    · have run : doReplay .qm none s = s.cmdSuspect q q.run := by
        rw [doReplay_command on running failed, if_neg (by simp [ended]), if_neg second]
      obtain ⟨latched, gone⟩ := s.cmdSuspect_spec q kept failed
      exact ⟨_, congrArg Host.Outcome.next run, gone, latched⟩
  case flag =>
    intro s r on sent
    obtain ⟨t, eq, run⟩ := doFlagRecordWritten_writes on sent
    have kept : t.mss.flagWrite = none ∧ t.mss.flagClear = none ∧ t.fab = s.fab ∧ t.ctr = s.ctr ∧ t.saf = s.saf ∧ t.pwr = s.pwr ∧
        t.cpx = s.cpx := by
      rw [eq]
      exact ⟨rfl, rfl, rfl, rfl, rfl, rfl, rfl⟩
    have older (le : (s.flash.flagA.map fun x => x.seq).getD 0 ≤ (s.flash.flagB.map fun x => x.seq).getD 0) :
        t.flash = { s.flash with flagA := some r } := by
      rw [eq]
      exact if_pos le
    have newer (lt : (s.flash.flagB.map fun x => x.seq).getD 0 < (s.flash.flagA.map fun x => x.seq).getD 0) :
        t.flash = { s.flash with flagB := some r } := by
      rw [eq]
      exact if_neg lt.not_ge
    clear eq
    obtain ⟨flagWrite, flagClear, fab, ctr, saf, pwr, cpx⟩ := kept
    refine ⟨_, congrArg Host.Outcome.next run, ?_⟩
    cases s.mss.flagClear with
    | none => exact ⟨flagWrite, flagClear, fab, ctr, older, newer, fun _ => ⟨saf, pwr, cpx⟩, fun some_ => absurd rfl some_⟩
    | some pk =>
      simp only [State.done_mss, State.done_fab, State.done_ctr, State.done_flash, State.done_saf, State.done_pwr, State.enter_mss,
        State.enter_fab, State.enter_ctr, State.enter_flash, State.enter_saf, State.enter_state, State.onSaf_mss, State.onSaf_fab,
        State.onSaf_ctr, State.onSaf_flash, State.onSaf_saf, saf]
      exact ⟨flagWrite, flagClear, fab, ctr, older, newer, nofun, fun _ => ⟨trivial, trivial⟩⟩
  case drain =>
    intro s on draining written out
    refine ⟨_, congrArg Host.Outcome.next (doDrainComplete_ends on draining written out), ?_⟩
    have raised (t : State) : (t.raise causeFlagged).hif.event.getLsbD causeFlagged = true := by simp [causeFlagged]
    simp only [State.raise_pwr, State.enter_state, State.raise_ctr, State.enter_ctr, State.snapshot_ctr, State.unloadContracts_ctr, raised,
      State.raise_fab, State.enter_fab, State.snapshot_fab, State.unloadContracts_fab, State.splitBoundary_fab, State.raise_saf,
      State.enter_saf, State.snapshot_saf, State.unloadContracts_saf, State.splitBoundary_saf, and_self]
  case slice =>
    intro s k on free state visit unarmed
    obtain ⟨next, last, done, rest⟩ := (s.slicing.sliced k).afterSlice_spec k
    simp only [Prod.mk.injEq] at rest
    obtain ⟨fab, saf, cpx, pwr, tim⟩ := rest
    obtain ⟨fab', saf', cpx', pwr', rotation, counted, count⟩ := s.slicing_spec k
    refine ⟨⟨_, congrArg Host.Outcome.next ((doCoppiceSlice_runs on free state visit unarmed true none false).trans
      (s.slicing.runSlice_passes k)), next, ?_, fun same => ?_, ?_, ?_, ?_⟩, fun sg => ?_⟩
    · rw [last, count, State.now, tim]
    · rw [done (same.trans rotation.symm), counted, vget_vset, if_pos ⟨rfl, State.nextVisit_lt visit⟩]
    · rw [fab, fab']
    · rw [saf, saf']
    · rw [cpx, cpx']
    · obtain ⟨f, c, fails⟩ := s.slicing.runSlice_fails k sg
      obtain ⟨latched, -, drains⟩ := ((s.slicing.sliced k).afterSlice k).suspect_spec f c
      refine ⟨_, congrArg Host.Outcome.next ((doCoppiceSlice_runs on free state visit unarmed true (some sg) false).trans fails), latched,
        drains ?_⟩
      rw [pwr, pwr']
      exact state

end Sys2Proof.Machine
end
